-- ==== Sys2Proof/Word.lean ====
section
/-! DEFINITION. The word types of the Moasin (R8: little-endian, bit 0 least significant) and the sparse table that
holds every large collection of the state. -/

namespace Sys2Proof

/-- A 64-bit register or scalar value. -/
abbrev W64 := BitVec 64

/-- One byte. -/
abbrev Byte := BitVec 8

/-- A run of bytes, lowest address first (R8). -/
abbrev Bytes := List Byte

/-- A sparse table: key and value, keys strictly rising, no entry equal to the table's default. -/
abbrev Tab (α : Type) := List (Nat × α)

end Sys2Proof
end

