-- ==== Sys2Proof/Config.lean ====
section
/-! DEFINITION. What the spec leaves open: free values, with no body. -/

namespace Sys2Proof

/-- Free bits (log 2): the n-th value that the part produces where the spec gives an instruction its effect and says that a
value is undefined (R126: words from a failing block on; R363: the destination after PEER_ABSENT). Nothing constrains it. -/
opaque Config.freeBits (w : Nat) : Nat → BitVec w

/-- The heater tables written into a die's calibration store at manufacture (R282): ring of the package (128 × I/O die + ring),
entry 0 to 90. No value is given. -/
opaque Config.heater (ring entry : Nat) : BitVec 14

/-- The partner identity that a Moasin die sends in ROLE_ADV, chosen by its maker (R263). -/
opaque Config.makerId : BitVec 32

/-- Payload bytes of a 256-byte flit, which the UCIe format fixes and the spec does not name (R251, R265). -/
opaque Config.flitPayload : Nat

/-- BOOT_SERIAL, as manufacture programs it into the identity store (R434, R448). -/
opaque Config.serial : W64

/-- The identity certificate's 7,552 bytes (R445), of which only the fields that the rule gives are known. -/
opaque Config.cert : Nat → BitVec 8

/-- What a configuration register reads after a value was written to it, where only the PCI Express specification says (R396). -/
opaque Config.cfgSpace : Nat → BitVec 32 → BitVec 32

/-- The log base and the number of log blocks of a hold slot (fabric ID, slot), as the snapshot's source knows them: the spec
gives the source no way to learn them (R458, R461). -/
opaque Config.logBase : BitVec 16 → Nat → Nat
opaque Config.logBlocks : BitVec 16 → Nat → Nat

end Sys2Proof
end

