-- ==== Sys2Proof/Machine/Bits.lean ====
section
/-! DEFINITION. Bit fields, byte order (R8) and the sparse tables of the state. -/

namespace Sys2Proof

/-- The field of `len` bits of `w` whose lowest bit is `lo`. -/
def bits {n : Nat} (w : BitVec n) (lo len : Nat) : BitVec len := w.extractLsb' lo len

/-- The same field as a number. -/
def fld {n : Nat} (w : BitVec n) (lo len : Nat) : Nat := (w.extractLsb' lo len).toNat

/-- One bit of `w`. -/
def bit {n : Nat} (w : BitVec n) (i : Nat) : Bool := w.getLsbD i

/-- The mask of the field of `len` bits at `lo`. -/
def maskAt (n lo len : Nat) : BitVec n := BitVec.ofNat n ((2 ^ len - 1) <<< lo)

/-- `w` with the field of `len` bits at `lo` set to `v` modulo 2^len. -/
def setFld {n : Nat} (w : BitVec n) (lo len v : Nat) : BitVec n :=
  (w &&& ~~~ (maskAt n lo len)) ||| BitVec.ofNat n ((v % 2 ^ len) <<< lo)

/-- `w` with bit `i` set to `b`. -/
def setBit {n : Nat} (w : BitVec n) (i : Nat) (b : Bool) : BitVec n := setFld w i 1 b.toNat

/-- The register `w` with the fields of `m` taken from `v` (an RW write, R11). -/
def mergeMask {n : Nat} (m w v : BitVec n) : BitVec n := (w &&& ~~~ m) ||| (v &&& m)

/-- Addition that stops at the all-ones value of `len` bits (R13). -/
def satAdd (len a b : Nat) : Nat := Nat.min (a + b) (2 ^ len - 1)

/-- The low `k` bytes of a number, lowest first (R8). -/
def toBytes : Nat → Nat → Bytes
  | 0, _ => []
  | k + 1, v => BitVec.ofNat 8 v :: toBytes k (v / 256)

/-- The number that little-endian bytes spell (R8). -/
def ofBytes : Bytes → Nat
  | [] => 0
  | b :: bs => b.toNat + 256 * ofBytes bs

/-- A list cut into pieces of `n`, at most `fuel` of them; the last may be shorter. -/
def chunksOf {α : Type} (n : Nat) : Nat → List α → List (List α)
  | 0, _ => []
  | _, [] => []
  | fuel + 1, x :: xs => (x :: xs).take n :: chunksOf n fuel ((x :: xs).drop n)

/-- `f 0`, `f 1`, … , `f (n - 1)` applied in turn. -/
def iter {σ : Type} (n : Nat) (f : Nat → σ → σ) (s : σ) : σ := (List.range n).foldl (fun t i => f i t) s

/-- ⌈a / b⌉. -/
def ceilDiv (a b : Nat) : Nat := (a + b - 1) / b

/-- The value of key `k`, or the default. -/
def Tab.get {α : Type} (d : α) (k : Nat) : Tab α → α
  | [] => d
  | (j, x) :: t => if j = k then x else Tab.get d k t

/-- The table without key `k`. -/
def Tab.erase {α : Type} (k : Nat) : Tab α → Tab α
  | [] => []
  | (j, x) :: t => if j = k then Tab.erase k t else (j, x) :: Tab.erase k t

/-- Insert a pair before the first greater key. -/
def Tab.insert {α : Type} (k : Nat) (v : α) : Tab α → Tab α
  | [] => [(k, v)]
  | (j, x) :: t => if k < j then (k, v) :: (j, x) :: t else (j, x) :: Tab.insert k v t

/-- The table with key `k` at `v`; a default value leaves no entry (canonical form). -/
def Tab.put {α : Type} [DecidableEq α] (d : α) (k : Nat) (v : α) (t : Tab α) : Tab α :=
  if v = d then Tab.erase k t else Tab.insert k v (Tab.erase k t)

/-- Change one entry. -/
def Tab.upd {α : Type} [DecidableEq α] (d : α) (k : Nat) (f : α → α) (t : Tab α) : Tab α :=
  Tab.put d k (f (Tab.get d k t)) t

/-- The table without the keys of `[lo, lo + n)`. -/
def Tab.clear {α : Type} (lo n : Nat) (t : Tab α) : Tab α := t.filter fun p => !(lo ≤ p.1 && p.1 < lo + n)

/-- Keys strictly rising from a bound, and no default entries. -/
def Tab.wfFrom {α : Type} [DecidableEq α] (d : α) (lo : Nat) : Tab α → Bool
  | [] => true
  | (j, x) :: t => lo ≤ j && x ≠ d && Tab.wfFrom d (j + 1) t

/-- Canonical form of a table. -/
def Tab.wf {α : Type} [DecidableEq α] (d : α) (t : Tab α) : Bool := Tab.wfFrom d 0 t

/-- Element `i` of a list, or a default. -/
def nth {α : Type} (d : α) (l : List α) (i : Nat) : α := l.getD i d

/-- A list with element `i` changed (nothing where there is none). -/
def setNth {α : Type} (l : List α) (i : Nat) (v : α) : List α := l.set i v

/-- The index of the first element that satisfies `p`. -/
def findIx {α : Type} (p : α → Bool) : List α → Option Nat
  | [] => none
  | x :: xs => if p x then some 0 else (findIx p xs).map (· + 1)

/-- Whether a list names `n`. -/
def hasNat (l : List Nat) (n : Nat) : Bool := l.any (· == n)

end Sys2Proof
end

