-- ==== Sys2Proof/Machine/Num.lean ====
section
/-! DEFINITION. Exact values and element formats of 02_numerics.md: R46, R51, R52, R55-R61, R497. -/

namespace Sys2Proof

/-- Numeric exception flags (R61). -/
structure NumFlags where
  nv  : Bool
  of  : Bool
  uf  : Bool
  ni  : Bool
  deriving DecidableEq, Repr

/-- No flag. -/
def NumFlags.none : NumFlags := ⟨false, false, false, false⟩

/-- NV alone. -/
def NumFlags.invalid : NumFlags := ⟨true, false, false, false⟩

/-- Flags are ORed (R61). -/
def NumFlags.or (a b : NumFlags) : NumFlags := ⟨a.nv || b.nv, a.of || b.of, a.uf || b.uf, a.ni || b.ni⟩

/-- The flags as bits [3:0] nv, of, uf, ni (R143). -/
def NumFlags.toNat (f : NumFlags) : Nat := 8 * f.nv.toNat + 4 * f.of.toNat + 2 * f.uf.toNat + f.ni.toNat

/-- A value: NaN, an infinity, or ± (mag + δ) · 2^exp, where δ = 0, or 0 < δ < 1 when `sticky`. -/
inductive XV where
  | nan
  | inf (neg : Bool)
  | fin (neg : Bool) (mag : Nat) (exp : Int) (sticky : Bool)
  deriving DecidableEq, Repr

def XV.zero : XV := .fin false 0 0 false
def XV.negZero : XV := .fin true 0 0 false
def XV.ofInt (n : Int) : XV := .fin (n < 0) n.natAbs 0 false
def XV.one : XV := .ofInt 1

/-- The value negated. -/
def XV.neg : XV → XV
  | .nan => .nan
  | .inf s => .inf (!s)
  | .fin s m e st => .fin (!s) m e st

def XV.isNan : XV → Bool
  | .nan => true
  | _ => false

def XV.isInf : XV → Bool
  | .inf _ => true
  | _ => false

/-- A finite zero. -/
def XV.isZero : XV → Bool
  | .fin _ m _ st => m == 0 && !st
  | _ => false

def XV.sign : XV → Bool
  | .nan => false
  | .inf s => s
  | .fin s _ _ _ => s

/-- A value scaled by 2^k. -/
def XV.scale (k : Int) : XV → XV
  | .fin s m e st => .fin s m (if m = 0 then 0 else e + k) st
  | v => v

/-- ⌊log2⌋ of a non-zero finite magnitude. -/
def ilog2 (m : Nat) (e : Int) : Int := (m.log2 : Int) + e

/-- The signed integer of a finite value in units of 2^q, q at or below its exponent. -/
def signedAt (s : Bool) (m : Nat) (e q : Int) : Int :=
  let n : Int := (m <<< (e - q).toNat : Nat)
  if s then -n else n

/-- Exact sum (R55): opposite infinities give NaN with NV; only two negative zeros give −0. -/
def XV.add (a b : XV) : XV × NumFlags :=
  match a, b with
  | .nan, _ => (.nan, .none)
  | _, .nan => (.nan, .none)
  | .inf s, .inf t => if s = t then (.inf s, .none) else (.nan, .invalid)
  | .inf s, .fin _ _ _ _ => (.inf s, .none)
  | .fin _ _ _ _, .inf t => (.inf t, .none)
  | .fin s m e st, .fin t n f st' =>
    if m = 0 then (if n = 0 then (.fin (s && t) 0 0 false, .none) else (.fin t n f st', .none))
    else if n = 0 then (.fin s m e st, .none)
    else
      let q := min e f
      let z := signedAt s m e q + signedAt t n f q
      (.fin (z < 0) z.natAbs (if z = 0 then 0 else q) (st || st'), .none)

/-- Exact product (R55): infinity × 0 gives NaN with NV. -/
def XV.mul (a b : XV) : XV × NumFlags :=
  match a, b with
  | .nan, _ => (.nan, .none)
  | _, .nan => (.nan, .none)
  | .inf s, .inf t => (.inf (s != t), .none)
  | .inf s, .fin t n _ _ => if n = 0 then (.nan, .invalid) else (.inf (s != t), .none)
  | .fin s m _ _, .inf t => if m = 0 then (.nan, .invalid) else (.inf (s != t), .none)
  | .fin s m e st, .fin t n f st' =>
    if m = 0 ∨ n = 0 then (.fin (s != t) 0 0 false, .none) else (.fin (s != t) (m * n) (e + f) (st || st'), .none)

/-- Guard bits of a quotient or root, far below any place a rounding looks at. -/
def guardBits : Nat := 400

/-- Exact quotient of two non-zero finite magnitudes. -/
def quotient (neg : Bool) (m : Nat) (e : Int) (n : Nat) (f : Int) : XV :=
  let k := guardBits + n.log2
  .fin neg ((m <<< k) / n) (e - f - k) ((m <<< k) % n != 0)

/-- Quotient with the special operands of R497. -/
def XV.div (a b : XV) : XV × NumFlags :=
  match a, b with
  | .nan, _ => (.nan, .none)
  | _, .nan => (.nan, .none)
  | .inf _, .inf _ => (.nan, .invalid)
  | .inf s, .fin t _ _ _ => (.inf (s != t), .none)
  | .fin s _ _ _, .inf t => (.fin (s != t) 0 0 false, .none)
  | .fin s m e _, .fin t n f _ =>
    if n = 0 then (if m = 0 then (.nan, .invalid) else (.inf (s != t), .none))
    else if m = 0 then (.fin (s != t) 0 0 false, .none)
    else (quotient (s != t) m e n f, .none)

/-- The order of two values that are not NaN: a < b. Zeros are equal. -/
def XV.lt (a b : XV) : Bool :=
  match a, b with
  | .nan, _ => false
  | _, .nan => false
  | .inf s, .inf t => s && !t
  | .inf s, .fin _ _ _ _ => s
  | .fin _ _ _ _, .inf t => !t
  | .fin s m e _, .fin t n f _ => signedAt s m e (min e f) < signedAt t n f (min e f)

/-- Equality in value; NaN equals nothing. -/
def XV.eqv (a b : XV) : Bool := !a.isNan && !b.isNan && !a.lt b && !b.lt a

/-- Maximum (R136): any NaN gives NaN, max(+0, −0) is +0. -/
def XV.max (a b : XV) : XV :=
  if a.isNan || b.isNan then .nan
  else if a.isZero && b.isZero then (if a.sign then b else a)
  else if a.lt b then b else a

/-- Minimum (R136): any NaN gives NaN, min(+0, −0) is −0. -/
def XV.min (a b : XV) : XV :=
  if a.isNan || b.isNan then .nan
  else if a.isZero && b.isZero then (if a.sign then a else b)
  else if b.lt a then b else a

/-- Rounding modes (R56); `sr r` carries bits [63:32] of the generator output. -/
inductive RMode where
  | rne
  | rtz
  | sr (r : Nat)
  deriving DecidableEq, Repr

/-- A magnitude rounded to a multiple of 2^q (R56, R57): the count of units and whether it is inexact. -/
def roundAt (rm : RMode) (m : Nat) (e : Int) (st : Bool) (q : Int) : Nat × Bool :=
  if q ≤ e then (m <<< (e - q).toNat, st)
  else
    let d := (q - e).toNat
    let n := m >>> d
    let rest := m % 2 ^ d
    if rest = 0 ∧ st = false then (n, false)
    else
      let up : Bool := match rm with
        | .rne => 2 ^ d < 2 * rest || (2 * rest == 2 ^ d && (st || n % 2 == 1))
        | .rtz => false
        | .sr r => 2 ^ 32 ≤ (rest <<< 32) / 2 ^ d + r
      (n + up.toNat, true)

/-- Long form (R52): round to nearest even at 38 bits, no subnormals. -/
def XV.toLong : XV → XV × NumFlags
  | .nan => (.nan, .none)
  | .inf s => (.inf s, .none)
  | .fin s m e st =>
    if m = 0 then (.fin s 0 0 false, .none)
    else if ilog2 m e < -510 then (.fin s 0 0 false, ⟨false, false, true, false⟩)
    else
      let q := ilog2 m e - 37
      let n := (roundAt .rne m e st q).1
      if ilog2 n q ≥ 512 then (.inf s, ⟨false, true, false, false⟩) else (.fin s n q false, .none)

/-- The flags of an operation joined to its rounding to long form. -/
def longR (p : XV × NumFlags) : XV × NumFlags := let r := p.1.toLong; (r.1, p.2.or r.2)

/-- The 48 bits of a value that is already rounded to long form (R51). -/
def XV.packLong : XV → BitVec 48
  | .nan => 0x7FF000000000
  | .inf s => (if s then 0x800000000000 else 0) ||| 0x7FE000000000
  | .fin s m e _ =>
    let sg : BitVec 48 := if s then 0x800000000000 else 0
    if m = 0 then sg
    else
      let x := ilog2 m e
      let frac := if e ≤ x - 37 then m >>> (x - 37 - e).toNat else m <<< (e - (x - 37)).toNat
      sg ||| BitVec.ofNat 48 (((x + 511).toNat <<< 37) + frac % 2 ^ 37)

/-- The value of a long-form container; bits above 47 are ignored (R51, R52). -/
def unpackLong (w : BitVec 48) : XV :=
  let s := bit w 47
  let x := fld w 37 10
  let fr := fld w 0 37
  if x = 0 then .fin s 0 0 false
  else if x = 1023 then (if fr = 0 then .inf s else .nan)
  else .fin s (2 ^ 37 + fr) (x - 548) false

/-- Element formats (R158, Table 2). -/
inductive Fmt where
  | fp32 | bf16 | fp16 | e5m2 | e4m3 | e3m2 | e2m3 | e2m1 | int8 | int4 | int32 | uint32 | long | e8m0
  deriving DecidableEq, Repr

/-- The format of a code; reserved codes have none (R158). -/
def Fmt.ofCode (c : Nat) : Option Fmt :=
  match c with
  | 0 => some .fp32 | 1 => some .bf16 | 2 => some .fp16 | 3 => some .e5m2 | 4 => some .e4m3 | 5 => some .e3m2
  | 6 => some .e2m3 | 7 => some .e2m1 | 8 => some .int8 | 9 => some .int4 | 10 => some .int32 | 11 => some .uint32
  | 12 => some .long | 13 => some .e8m0 | _ => none

/-- Element bits (R158). -/
def Fmt.width : Fmt → Nat
  | .fp32 => 32 | .bf16 => 16 | .fp16 => 16 | .e5m2 => 8 | .e4m3 => 8 | .e3m2 => 6 | .e2m3 => 6 | .e2m1 => 4
  | .int8 => 8 | .int4 => 4 | .int32 => 32 | .uint32 => 32 | .long => 64 | .e8m0 => 8

/-- Formats that have an MX form (R158). -/
def Fmt.hasMx : Fmt → Bool
  | .e5m2 => true | .e4m3 => true | .e3m2 => true | .e2m3 => true | .e2m1 => true | .int8 => true
  | _ => false

/-- Exponent bits, fraction bits and bias of a float format (R46). -/
def Fmt.float : Fmt → Option (Nat × Nat × Int)
  | .fp32 => some (8, 23, 127) | .bf16 => some (8, 7, 127) | .fp16 => some (5, 10, 15) | .e5m2 => some (5, 2, 15)
  | .e4m3 => some (4, 3, 7) | .e3m2 => some (3, 2, 3) | .e2m3 => some (2, 3, 1) | .e2m1 => some (2, 1, 1)
  | _ => none

/-- Formats with infinities and NaNs at the all-ones exponent (R46). -/
def Fmt.ieee : Fmt → Bool
  | .fp32 => true | .bf16 => true | .fp16 => true | .e5m2 => true
  | _ => false

/-- The largest finite magnitude of a float format in units of its top binade's last place, and that place (R46). -/
def Fmt.largest (f : Fmt) (eb fb : Nat) (bias : Int) : Nat × Int :=
  let top : Int := (2 ^ eb - 1 : Nat)
  if f.ieee then (2 ^ (fb + 1) - 1, top - 1 - bias - fb)
  else if f = .e4m3 then (2 ^ (fb + 1) - 2, top - bias - fb)
  else (2 ^ (fb + 1) - 1, top - bias - fb)

/-- Two's complement of `w` bits. -/
def sgn (w n : Nat) : Int := (BitVec.ofNat w n).toInt

/-- The exact value of an element (R46). MXINT8 elements are integer × 2^-6. -/
def decodeElem (f : Fmt) (mx : Bool) (raw : Nat) : XV :=
  match f with
  | .int8 => if mx then (XV.ofInt (sgn 8 raw)).scale (-6) else .ofInt (sgn 8 raw)
  | .int4 => .ofInt (sgn 4 raw)
  | .int32 => .ofInt (sgn 32 raw)
  | .uint32 => .ofInt (raw % 2 ^ 32)
  | .long => unpackLong (BitVec.ofNat 48 raw)
  | .e8m0 => if raw % 256 = 255 then .nan else .fin false 1 (raw % 256 - 127) false
  | f =>
    match f.float with
    | none => .nan
    | some (eb, fb, bias) =>
      let s := (raw >>> (eb + fb)) % 2 == 1
      let x := (raw >>> fb) % 2 ^ eb
      let fr := raw % 2 ^ fb
      if f.ieee && x == 2 ^ eb - 1 then (if fr = 0 then .inf s else .nan)
      else if f = .e4m3 ∧ x = 15 ∧ fr = 7 then .nan
      else if x = 0 then .fin s fr (if fr = 0 then 0 else 1 - bias - fb) false
      else .fin s (2 ^ fb + fr) (x - bias - fb) false

/-- The canonical NaN of a format, where it has one (R59). -/
def Fmt.nanBits : Fmt → Option Nat
  | .fp32 => some 0x7FC00000 | .bf16 => some 0x7FC0 | .fp16 => some 0x7E00 | .e5m2 => some 0x7F | .e4m3 => some 0x7F
  | _ => none

/-- The encoding of a representable magnitude n · 2^q of a float format. -/
def packFloat (fb : Nat) (bias : Int) (n : Nat) (q : Int) : Nat :=
  if n = 0 then 0
  else if ilog2 n q < 1 - bias then n <<< (q - (1 - bias - fb)).toNat
  else
    let x := ilog2 n q
    let frac := if x - fb ≤ q then n <<< (q - (x - fb)).toNat else n >>> (x - fb - q).toNat
    ((x + bias).toNat <<< fb) + (frac - 2 ^ fb)

/-- Conversion to a float format (R56-R59, Table 4); `sat` as R59. -/
def encodeFloat (f : Fmt) (eb fb : Nat) (bias : Int) (rm : RMode) (sat : Bool) (v : XV) : Nat × NumFlags :=
  let lg := f.largest eb fb bias
  let signBit := 2 ^ (eb + fb)
  let infBits := (2 ^ eb - 1) <<< fb
  let ovf (s : Bool) (toInf : Bool) : Nat × NumFlags :=
    if f.ieee && toInf then (s.toNat * signBit + infBits, ⟨false, true, false, false⟩)
    else (s.toNat * signBit + packFloat fb bias lg.1 lg.2, ⟨false, true, false, false⟩)
  match v with
  | .nan => match f.nanBits with
    | some b => (b, .none)
    | none => (0, ⟨false, false, false, true⟩)
  | .inf s => if f.ieee && !sat then (s.toNat * signBit + infBits, .none) else ovf s false
  | .fin s m e st =>
    if m = 0 then (s.toNat * signBit, .none)
    else
      let q := max (ilog2 m e) (1 - bias) - fb
      let r := roundAt rm m e st q
      if lg.1 <<< (lg.2 - q).toNat < r.1 <<< (q - lg.2).toNat then ovf s (!sat && rm != .rtz)
      else if r.1 = 0 then (s.toNat * signBit, ⟨false, false, true, false⟩)
      else (s.toNat * signBit + packFloat fb bias r.1 q,
            ⟨false, false, r.2 && ilog2 r.1 q < 1 - bias, false⟩)

/-- Conversion to an integer of `w` bits in units of 2^-unit (INT8, INT4, INT32, UINT32, MXINT8): saturating (R59). -/
def encodeInt (w : Nat) (signed : Bool) (unit : Nat) (rm : RMode) (v : XV) : Nat × NumFlags :=
  let hi : Int := if signed then 2 ^ (w - 1) - 1 else 2 ^ w - 1
  let lo : Int := if signed then -(2 ^ (w - 1)) else 0
  match v with
  | .nan => (0, ⟨false, false, false, true⟩)
  | .inf s => ((BitVec.ofInt w (if s then lo else hi)).toNat, ⟨false, true, false, false⟩)
  | .fin s m e st =>
    let n := (roundAt rm m e st (-(unit : Int))).1
    let z : Int := if s then -n else n
    if hi < z then ((BitVec.ofInt w hi).toNat, ⟨false, true, false, false⟩)
    else if z < lo then ((BitVec.ofInt w lo).toNat, ⟨false, true, false, false⟩)
    else ((BitVec.ofInt w z).toNat, ⟨false, false, n == 0 && m != 0, false⟩)

/-- Conversion of a value to an output format in a rounding mode (R56, R59). Long form is rounded under RNE. -/
def encodeElem (f : Fmt) (rm : RMode) (sat : Bool) (v : XV) : Nat × NumFlags :=
  match f with
  | .int8 => encodeInt 8 true 0 rm v
  | .int4 => encodeInt 4 true 0 rm v
  | .int32 => encodeInt 32 true 0 rm v
  | .uint32 => encodeInt 32 false 0 rm v
  | .long => let r := v.toLong; (r.1.packLong.toNat, r.2)
  | .e8m0 => (0, .none)
  | f => match f.float with
    | some (eb, fb, bias) => encodeFloat f eb fb bias rm sat v
    | none => (0, .none)

/-- A value rounded to a format, as the value it then has. -/
def roundTo (f : Fmt) (rm : RMode) (sat : Bool) (v : XV) : XV × NumFlags :=
  let r := encodeElem f rm sat v; (decodeElem f false r.1, r.2)

/-- Rounding to binary32 under RNE. -/
def round32 (v : XV) : XV × NumFlags := roundTo .fp32 .rne false v

/-- emax of an MX element format (R60). -/
def Fmt.mxEmax : Fmt → Int
  | .e4m3 => 8 | .e5m2 => 15 | .e3m2 => 4 | .e2m3 => 2 | .e2m1 => 2
  | _ => 0

/-- One MX block of output (R60): the scale, the elements and the flags. `rms` are the modes element by element. -/
def encodeBlock (f : Fmt) (rms : List RMode) (vs : List XV) : Nat × List Nat × NumFlags :=
  let nanOk := f == .e4m3 || f == .e5m2
  let infOk := f == .e5m2
  let hasNan := vs.any XV.isNan
  let hasInf := vs.any XV.isInf
  if (hasInf && !infOk) || (hasNan && !nanOk) then
    (0xFF, vs.map fun _ => 0, ⟨false, hasInf && !infOk, false, hasNan && !nanOk⟩)
  else
    let tops : List Int := vs.filterMap fun v => match v with
      | .fin _ m e _ => if m = 0 then none else some (ilog2 m e)
      | _ => none
    let special (v : XV) (z : Nat × NumFlags) : Nat × NumFlags := match v with
      | .nan => (0x7F, .none)
      | .inf s => (s.toNat * 0x80 + 0x7C, .none)
      | _ => z
    match tops with
    | [] => (0, vs.map fun v => (special v (0, .none)).1, .none)
    | t :: ts =>
      let ex := max (-127) (min 127 (ts.foldl max t - f.mxEmax))
      let conv (i : Nat) (v : XV) : Nat × NumFlags :=
        let rm := nth .rne rms i
        special v (if f = .int8 then encodeInt 8 true 6 rm (v.scale (-ex)) else encodeElem f rm true (v.scale (-ex)))
      let out := vs.zipIdx.map fun p => conv p.2 p.1
      ((ex + 127).toNat, out.map (·.1), out.foldl (fun a p => a.or p.2) .none)

/-- The value that an element of an MX block represents (R48). -/
def mxValue (f : Fmt) (scale raw : Nat) : XV :=
  if scale % 256 = 255 then .nan else (decodeElem f true raw).scale (scale % 256 - 127)

/-- The stochastic generator (R58). -/
def srBits (seed : W64) (stream row col : Nat) : W64 :=
  let z0 : W64 := seed ^^^ BitVec.ofNat 64 ((stream % 16) <<< 48) ^^^ BitVec.ofNat 64 ((row % 2 ^ 24) <<< 24)
    ^^^ BitVec.ofNat 64 (col % 2 ^ 24)
  let z1 := z0 + 0x9E3779B97F4A7C15
  let z2 := (z1 ^^^ (z1 >>> 30)) * 0xBF58476D1CE9E5B9
  let z3 := (z2 ^^^ (z2 >>> 27)) * 0x94D049BB133111EB
  z3 ^^^ (z3 >>> 31)

/-- What a rounding point needs (R56-R58): the mode field (0 RNE, 1 RTZ, 2 SR), sat, seed and base stream. -/
structure Rnd where
  mode   : Nat
  sat    : Bool
  seed   : W64
  stream : Nat
  deriving DecidableEq, Repr

/-- The mode of one rounding point at destination coordinates (row, col), `off` roundings after the base stream (R58). -/
def Rnd.at (r : Rnd) (off row col : Nat) : RMode :=
  if r.mode = 2 then .sr (fld (srBits r.seed (r.stream + off) row col) 32 32) else if r.mode = 1 then .rtz else .rne

end Sys2Proof
end

