-- ==== Sys2Proof/Syntax.lean ====
section
/-! DEFINITION. The commands of the Moasin: one constructor of `Instr` per row of spec/opcode_table.json, with the fields
of its instruction word (06_core_instructions.md) or what the outside of the part supplies. -/

namespace Sys2Proof

/-- The five queues of a core (R122). -/
inductive Queue where
  | dma | mx | vx | cx | sx
  deriving DecidableEq, Repr

/-- The synchronisation block (R154): two wait entries and two signal entries; a count of 0 is no entry. -/
structure Sync where
  w0sem : BitVec 6
  w0cnt : BitVec 4
  w1sem : BitVec 6
  w1cnt : BitVec 4
  s0sem : BitVec 6
  s0inc : BitVec 4
  s1sem : BitVec 6
  s1inc : BitVec 4
  deriving DecidableEq, Repr

/-- Control class (R168). -/
structure CtrlF where
  cond   : BitVec 4
  sa     : BitVec 5
  sb     : BitVec 5
  imm    : Bool
  sem    : BitVec 6
  imm32  : BitVec 32
  count  : BitVec 16
  target : BitVec 14
  deriving DecidableEq, Repr

/-- Scalar class (R169). -/
structure ScalF where
  sd    : BitVec 5
  sa    : BitVec 5
  sb    : BitVec 5
  imm   : Bool
  imm32 : BitVec 32
  imm64 : BitVec 64
  deriving DecidableEq, Repr

/-- Descriptor class (R171). -/
structure DescF where
  td    : BitVec 6
  td2   : BitVec 6
  field : BitVec 4
  sa    : BitVec 5
  imm   : Bool
  imm32 : BitVec 32
  deriving DecidableEq, Repr

/-- Chain class (R172). -/
structure ChainF where
  cd    : BitVec 4
  cd2   : BitVec 4
  word  : BitVec 5
  sa    : BitVec 5
  imm   : Bool
  imm32 : BitVec 32
  deriving DecidableEq, Repr

/-- DMA.TD (R173). -/
structure DmaTdF where
  channel : BitVec 2
  src     : BitVec 6
  dst     : BitVec 6
  check   : BitVec 2
  swap    : BitVec 2
  pace    : BitVec 2
  paceId  : BitVec 2
  sync    : Sync
  cols    : BitVec 24
  rows    : BitVec 24
  deriving DecidableEq, Repr

/-- DMA.LIST (R173); check, swap and pace are ignored. -/
structure DmaListF where
  channel : BitVec 2
  src     : BitVec 6
  dst     : BitVec 6
  check   : BitVec 2
  swap    : BitVec 2
  pace    : BitVec 2
  paceId  : BitVec 2
  sync    : Sync
  listReg : BitVec 5
  count   : BitVec 19
  deriving DecidableEq, Repr

/-- MX class (R174). -/
structure MxF where
  m     : BitVec 9
  rbase : BitVec 8
  acc   : BitVec 2
  rc    : Bool
  keep  : Bool
  sync  : Sync
  n     : BitVec 14
  k     : BitVec 25
  aTd   : BitVec 6
  wTd   : BitVec 6
  cd    : BitVec 4
  deriving DecidableEq, Repr

/-- Vector register layout (R176). -/
structure VxF where
  vd      : BitVec 5
  va      : BitVec 5
  vb      : BitVec 5
  vc      : BitVec 5
  bc      : Bool
  sync    : Sync
  lanes   : BitVec 10
  rmode   : BitVec 2
  sat     : Bool
  seedReg : BitVec 5
  stream  : BitVec 4
  fmt     : BitVec 5
  rowReg  : BitVec 5
  colReg  : BitVec 5
  td      : BitVec 6
  deriving DecidableEq, Repr

/-- Vector tensor layout (R178). -/
structure VtF where
  src     : BitVec 6
  dst     : BitVec 6
  aux     : BitVec 6
  dir     : Bool
  pin     : Bool
  sync    : Sync
  rows    : BitVec 9
  len     : BitVec 23
  k       : BitVec 11
  rmode   : BitVec 2
  sat     : Bool
  seedReg : BitVec 5
  stream  : BitVec 4
  deriving DecidableEq, Repr

/-- Sync class (R181). -/
structure SyncF where
  sem  : BitVec 6
  tmr  : BitVec 2
  sa   : BitVec 5
  sync : Sync
  inc  : BitVec 16
  deriving DecidableEq, Repr

/-- Phase-mark class (R182). -/
structure PmarkF where
  phase : BitVec 8
  sa    : BitVec 5
  sync  : Sync
  deriving DecidableEq, Repr

/-- Collective class (R183). -/
structure ColF where
  group : BitVec 4
  oper  : BitVec 2
  src   : BitVec 6
  dst   : BitVec 6
  sync  : Sync
  aux   : BitVec 6
  root  : BitVec 16
  count : BitVec 32
  deriving DecidableEq, Repr

/-- Roseb class (R184). -/
structure RsbF where
  ra   : BitVec 5
  rl   : BitVec 5
  rv   : BitVec 5
  rcmp : BitVec 5
  nc   : Bool
  w    : Bool
  sync : Sync
  len  : BitVec 13
  deriving DecidableEq, Repr

/-- Message and trigger class (R185). -/
structure MsgF where
  rd    : BitVec 5
  rl    : BitVec 5
  core  : BitVec 6
  chime : BitVec 5
  sync  : Sync
  nregs : BitVec 4
  first : BitVec 5
  rsem  : BitVec 6
  rinc  : BitVec 4
  len   : BitVec 13
  ep    : BitVec 8
  deriving DecidableEq, Repr

/-- A parity error that the step's own accesses find (R70, R127, R146): the cause of Table 8 and the detail of CORE_FAULT. -/
inductive Parity where
  | store (unit : Nat)            -- PARITY_STORE: core-store offset / 64
  | acc (array row : Nat)         -- PARITY_ACC
  | prog                          -- PARITY_PROG
  | state                         -- PARITY_STATE
  | other (core unit : Nat)       -- PARITY_STORE of another core's store, found by an access from outside its queues
  deriving DecidableEq, Repr

/-- A packet of the fabric (R301): header fields, the 128 bits of the kind (words 3 to 0), payload and trailer (R303). -/
structure Packet where
  kind    : Nat
  pclass  : Nat
  phase   : Nat
  syn     : Bool
  len     : Nat
  hops    : Nat
  wpy     : Nat
  wpx     : Nat
  srcIo   : Nat
  dstIo   : Nat
  wpv     : Bool
  dst     : BitVec 16
  src     : BitVec 16
  seq     : BitVec 32
  body    : BitVec 128
  payload : Bytes
  crc     : BitVec 32
  deriving DecidableEq, Repr

/-- A frame on an Alyon link (R300): the link header and the packet; `bad` marks a flit the FEC marked bad (R275). -/
structure Frame where
  type   : Nat
  vc     : Nat
  nflit  : Nat
  cr0vc  : Nat
  cr0cnt : Nat
  cr1vc  : Nat
  cr1cnt : Nat
  hcrc   : BitVec 16
  bad    : Bool
  packet : Packet
  deriving DecidableEq, Repr

/-- An identity flit (R277): the fields of words 0 to 3, and `crc`, its word 63. -/
structure IdFlit where
  magic       : BitVec 32
  fabricId    : BitVec 16
  port        : Nat
  lane        : Nat
  reach       : Bool
  fanout      : Bool
  fanPort     : Nat
  remoteFault : Bool
  txMap       : BitVec 8
  nextMap     : BitVec 8
  rxRemove    : BitVec 8
  rxReady     : BitVec 8
  retuneReq   : BitVec 8
  seq         : BitVec 8
  fibre       : Nat
  crc         : BitVec 32
  deriving DecidableEq, Repr

/-- The error-correction outcome of one 64 B transfer (R217, R218), as the stack returns it. -/
inductive Ecc where
  | good
  | corrected
  | uncorrectable
  deriving DecidableEq, Repr

/-- A request to an HBM controller (R204): 64 B to 2 KiB, aligned to 64 B, within one 2 KiB granule. Sources (log 86): 4c + n core c's
DMA channel n, 256 + 8d + j die d's channel j, 288 + c core c's program loads, 352 + i collective engine i, 356 + i Roseb unit i,
360 the scrub engine. -/
structure HbmReq where
  source : Nat
  offset : Nat
  write  : Bool
  data   : Bytes
  len    : Nat
  deriving DecidableEq, Repr

/-- A stream key at an endpoint (R307): the other endpoint's fabric ID, its I/O die as this end knows it (dst_io of what is sent,
src_io of what is received), the parent class, and for a receive stream the compute die that its packets name (R301). -/
structure StreamKey where
  fid    : BitVec 16
  io     : Nat
  pclass : Nat
  unit   : Nat
  deriving DecidableEq, Repr

/-- A flash slot's content after the checks of R433: header fields of R430 and, for a record, its 16-byte entries (R435).
`sigOk` is the outcome of both signature checks, `signer` the slot of the key store its digest matches (R433). -/
structure Image where
  magic   : BitVec 32
  fmtVer  : Nat
  kind    : Nat
  svn     : Nat
  version : BitVec 32
  length  : Nat
  serial  : BitVec 64
  rsvdOk  : Bool
  signer  : Option Nat
  sigOk   : Bool
  readOk  : Bool
  entries : List (BitVec 128)
  deriving DecidableEq, Repr

/-- What the device's own tables and counters give the Regulator at an interval boundary: each compute die's static power at its
present temperature in mW (R373), and each core's model energy of the interval in µJ (R377). -/
structure RegInputs where
  dieStatic : List Nat
  coreModel : List Nat
  deriving DecidableEq, Repr

/-- A read that leaves a controller: its stack, the pseudo-channel that serves it, how many of its reads have reached the age of R209, and
the failed checks of its commands (R217). -/
structure ReadOut where
  stack       : Nat
  pc          : Nat
  aged        : Nat
  parityFails : Nat
  deriving DecidableEq, Repr

/-- A temperature round of a stack: its sensor in °C, and in 0.125 °C its model node and that node's projection (R211, R380). -/
structure TempRound where
  temp      : Nat
  node      : Nat
  projected : Nat
  deriving DecidableEq, Repr

/-- What the test of a stack does to single blocks: those it remaps, and the remap entries whose rows hard PPR repairs (R225). -/
structure Retest where
  remapped : List Nat
  repaired : List Nat
  deriving DecidableEq, Repr

/-- The follower's report of a module: training state, width as D2D_MOD_STAT codes it (0 none yet), lane map (R257). -/
structure StateReport where
  train : Nat
  width : Nat
  lanes : BitVec 64
  deriving DecidableEq, Repr

/-- A D2D flit as it comes in: the outcome of its CRC, and the lanes that were wrong (R254, R259). -/
structure FlitCheck where
  crcOk : Bool
  bad   : BitVec 64
  deriving DecidableEq, Repr

/-- A port and a flit slot after its identity boundary (R276). -/
structure PortSlot where
  port : Nat
  slot : Nat
  deriving DecidableEq, Repr

/-- A port without light: at its own receiver, or by its partner's remote_fault (R288). -/
structure DarkPort where
  port : Nat
  own  : Bool
  deriving DecidableEq, Repr

/-- A node of a group at compute die `die`, and a parity error of what it reads (R146). -/
structure NodeStart where
  die : Nat
  par : Option Parity
  deriving DecidableEq, Repr

/-- Every command of spec/opcode_table.json. `c` is a core (0 to 63, R18); `s` a stack; `g` a D2D or collective group;
`m` a module; `p` an optical port; `i` or `io` an I/O die; `d` a compute die. -/
inductive Instr where
  -- control class
  | nop (c : Nat) (f : CtrlF)
  | jmp (c : Nat) (f : CtrlF)
  | br (c : Nat) (f : CtrlF)
  | call (c : Nat) (f : CtrlF)
  | ret (c : Nat) (f : CtrlF)
  | halt (c : Nat) (f : CtrlF)
  | swait (c : Nat) (f : CtrlF)
  | swaitSatisfied (c : Nat)
  | qstat (c : Nat) (f : CtrlF)
  | illegalInstr (c : Nat) (w : BitVec 128) (par : Option Parity)
  -- scalar class
  | add (c : Nat) (f : ScalF)
  | sub (c : Nat) (f : ScalF)
  | and (c : Nat) (f : ScalF)
  | or (c : Nat) (f : ScalF)
  | xor (c : Nat) (f : ScalF)
  | sll (c : Nat) (f : ScalF)
  | srl (c : Nat) (f : ScalF)
  | sra (c : Nat) (f : ScalF)
  | mul (c : Nat) (f : ScalF)
  | mulhu (c : Nat) (f : ScalF)
  | min (c : Nat) (f : ScalF)
  | max (c : Nat) (f : ScalF)
  | minu (c : Nat) (f : ScalF)
  | maxu (c : Nat) (f : ScalF)
  | slt (c : Nat) (f : ScalF)
  | sltu (c : Nat) (f : ScalF)
  | li (c : Nat) (f : ScalF)
  | ld (c : Nat) (f : ScalF) (par : Option Parity)
  | st (c : Nat) (f : ScalF)
  -- descriptor class
  | tdld (c : Nat) (f : DescF) (par : Option Parity)
  | tdst (c : Nat) (f : DescF)
  | tdcpy (c : Nat) (f : DescF)
  | tdset (c : Nat) (f : DescF)
  | tdadd (c : Nat) (f : DescF)
  -- chain class
  | cdld (c : Nat) (f : ChainF) (par : Option Parity)
  | cdst (c : Nat) (f : ChainF)
  | cdcpy (c : Nat) (f : ChainF)
  | cdsetw (c : Nat) (f : ChainF)
  | cdlbase (c : Nat) (f : ChainF)
  | cdstream (c : Nat) (f : ChainF)
  -- queue steps
  | seqResume (c : Nat)
  | queueInstrStart (c : Nat) (q : Queue) (par : Option Parity)
  | instrComplete (c : Nat) (seq : Nat)
  | coreFaulted (c : Nat)
  -- DMA class
  | dmaTd (c : Nat) (f : DmaTdF)
  | dmaList (c : Nat) (f : DmaListF)
  -- MX class
  | mxQuad (c : Nat) (f : MxF)
  | mxPair (c : Nat) (pairB : Bool) (f : MxF)
  | mxSingle (c : Nat) (arr : BitVec 2) (f : MxF)
  | mxT64Single (c : Nat) (arr : BitVec 2) (f : MxF)
  | mxT64Pair (c : Nat) (pairB : Bool) (f : MxF)
  | mxT16Single (c : Nat) (arr : BitVec 2) (f : MxF)
  | mxT16Pair (c : Nat) (pairB : Bool) (f : MxF)
  | mxTakeCounts (c : Nat)
  | weightStagingStart (c : Nat)
  | weightStagingDone (c : Nat) (par : Option Parity)
  | mxStart (c : Nat) (par : Option Parity)
  | accRowReady (c : Nat) (seq : Nat) (par : Option Parity)
  | epilogueRow (c : Nat) (seq : Nat) (par : Option Parity)
  | drainRow (c : Nat) (seq : Nat)
  | mxComplete (c : Nat) (seq : Nat)
  -- VX class
  | vld (c : Nat) (f : VxF)
  | vst (c : Nat) (f : VxF)
  | vadd (c : Nat) (f : VxF)
  | vsub (c : Nat) (f : VxF)
  | vmul (c : Nat) (f : VxF)
  | vfma (c : Nat) (f : VxF)
  | vmin (c : Nat) (f : VxF)
  | vmax (c : Nat) (f : VxF)
  | vcmpeq (c : Nat) (f : VxF)
  | vcmplt (c : Nat) (f : VxF)
  | vcmple (c : Nat) (f : VxF)
  | vsel (c : Nat) (f : VxF)
  | viadd (c : Nat) (f : VxF)
  | visub (c : Nat) (f : VxF)
  | vimul (c : Nat) (f : VxF)
  | vand (c : Nat) (f : VxF)
  | vor (c : Nat) (f : VxF)
  | vxor (c : Nat) (f : VxF)
  | vshl (c : Nat) (f : VxF)
  | vshr (c : Nat) (f : VxF)
  | vsra (c : Nat) (f : VxF)
  | vmov (c : Nat) (f : VxF)
  | vrsum (c : Nat) (f : VtF)
  | vrssq (c : Nat) (f : VtF)
  | vrmax (c : Nat) (f : VtF)
  | vrmin (c : Nat) (f : VtF)
  | vrargmax (c : Nat) (f : VtF)
  | vrargmin (c : Nat) (f : VtF)
  | vsort (c : Nat) (f : VtF)
  | vtopk (c : Nat) (f : VtF)
  | vexp2 (c : Nat) (f : VxF)
  | vlog2 (c : Nat) (f : VxF)
  | vrcp (c : Nat) (f : VxF)
  | vrsqrt (c : Nat) (f : VxF)
  | vtanh (c : Nat) (f : VxF)
  | verf (c : Nat) (f : VxF)
  | vsigm (c : Nat) (f : VxF)
  | vsilu (c : Nat) (f : VxF)
  | vgelue (c : Nat) (f : VxF)
  | vgelut (c : Nat) (f : VxF)
  | vftoi (c : Nat) (f : VxF)
  | vitof (c : Nat) (f : VxF)
  | vqnt (c : Nat) (f : VxF)
  -- SX class
  | sig (c : Nat) (f : SyncF)
  | sign (c : Nat) (f : SyncF)
  | tmr (c : Nat) (f : SyncF)
  | evt (c : Nat) (f : SyncF)
  | pmark (c : Nat) (f : PmarkF)
  | pmarkr (c : Nat) (f : PmarkF)
  -- CX class
  | allreduce (c : Nat) (f : ColF)
  | reducescatter (c : Nat) (f : ColF)
  | allgather (c : Nat) (f : ColF)
  | broadcast (c : Nat) (f : ColF)
  | reduce (c : Nat) (f : ColF)
  | barrier (c : Nat) (f : ColF)
  | rld (c : Nat) (f : RsbF)
  | rst (c : Nat) (f : RsbF)
  | rinv (c : Nat) (f : RsbF)
  | raAdd (c : Nat) (f : RsbF)
  | raFadd (c : Nat) (f : RsbF)
  | raSmin (c : Nat) (f : RsbF)
  | raSmax (c : Nat) (f : RsbF)
  | raUmin (c : Nat) (f : RsbF)
  | raUmax (c : Nat) (f : RsbF)
  | raAnd (c : Nat) (f : RsbF)
  | raOr (c : Nat) (f : RsbF)
  | raXor (c : Nat) (f : RsbF)
  | raSwap (c : Nat) (f : RsbF)
  | raCas (c : Nat) (f : RsbF)
  | trig (c : Nat) (f : MsgF)
  | msg (c : Nat) (f : MsgF)
  | mboxout (c : Nat) (f : MsgF)
  | mboxin (c : Nat) (f : MsgF)
  -- core control
  | start (c : Nat)
  | stop (c : Nat)
  | abort (c : Nat)
  | reset (c : Nat)
  | coreStopped (c : Nat)
  | coreResetDone (c : Nat)
  | progLoadGo (c : Nat) (v : W64)
  | progLoadDone (c : Nat) (par : Option Parity)
  | coreSemSig (c : Nat) (v : W64)
  | timerWrite (c n : Nat) (v : W64)
  | timerExpiry (c n : Nat)
  | ledgerCfgWrite (c : Nat) (v : BitVec 32)
  | ledgerCfgApply (c : Nat)
  | coreViolCntRead (c : Nat)
  -- DMA channels: `ch` is 4c + n for core channels, 256 + 8d + j for die channels
  | dmaDescBegin (ch : Nat) (par : Option Parity)
  | dmaUnitStart (ch : Nat) (par : Option Parity)
  | dmaDescComplete (ch : Nat)
  | dmaChGo (d j : Nat) (v : W64)
  | dmaChAbort (d j : Nat) (v : W64)
  | dmaChClrHalt (d j : Nat)
  | coreDmaClrHalt (c n : Nat)
  -- HBM
  | hbmReqAccept (s : Nat) (r : HbmReq) (parityFails : Nat)
  | hbmWriteBatchStart (s pc ageNs : Nat)
  | hbmWriteBatchEnd (s pc readAgeNs : Nat)
  | hbmReadComplete (r : ReadOut) (ecc : List Ecc) (timeS : Nat)
  | hbmRemapComplete (s block : Nat)
  | hbmPcTimeout (s pc : Nat) (answered : Bool)
  | hbmTempRound (s : Nat) (r : TempRound)
  | hbmScrubRead (s block : Nat) (ecc : List Ecc) (timeS : Nat)
  | hbmSchedApply (s : Nat)
  | hbmWaveStart (s : Nat)
  | hbmMaintReq (s : Nat)
  | hbmMaintDone (s hard soft : Nat) (r : Retest)
  -- D2D
  | roleAdv (g m : Nat) (payload : W64)
  | roleCred (g m : Nat) (payload : W64)
  | roleAck (g m : Nat)
  | roleNak (g m reason : Nat)
  | roleTimeout (g m : Nat)
  | d2dTrainStateTimeout (g m : Nat)
  | d2dTrainActive (g m : Nat) (failed : BitVec 64) (spareFailed : BitVec 4)
  | d2dStateReport (g m : Nat) (r : StateReport)
  | d2dFlitRx (g m : Nat) (x : FlitCheck)
  | d2dRetrainDone (g m : Nat) (failed : BitVec 64) (spareFailed : BitVec 4)
  | d2dMarginRead (g m : Nat) (low : BitVec 64)
  | flowRelease (g flow : Nat)
  | retrainAll (g : Nat)
  | rdReq (g m : Nat) (hdr : BitVec 128) (par : Option Nat)
  | wrReq (g m : Nat) (hdr : BitVec 128) (payload : Bytes) (tail : W64)
  | rdRsp (g m : Nat) (hdr : BitVec 128) (payload : Bytes) (tail : W64)
  | wrAck (g m : Nat) (hdr : BitVec 128)
  | drMsg (g m : Nat) (hdr : BitVec 128) (payload : Bytes)
  | credit (g m : Nat) (payload : Bytes)
  | mgmt (g m : Nat) (hdr : BitVec 128) (payload : Bytes)
  -- optics
  | identityBoundary (p : Nat)
  | identityFlitRx (p lane : Nat) (flit : IdFlit)
  | identityFlitMissing (p lane : Nat)
  | codewordRx (p lane symbols : Nat) (uncorrectable : Bool)
  | serWindow (p lane errors symbols : Nat)
  | laneVerifyTimeout (p lane : Nat)
  | laneSweepDone (p lane : Nat)
  | laneRetry (p lane : Nat)
  | heaterUpdate (i : Nat) (elapsed : List Nat)
  | ringRecalStart (i ring : Nat)
  | ringRecalDone (i ring optimum : Nat)
  | laserFail (i laser : Nat) (spareOk : List Bool)
  | fibreDark (x : DarkPort)
  | spareTrainTimeout (p : Nat)
  | fanoutRequest (g i p q : Nat)
  | fanoutEnd (i : Nat)
  | meshSettle (i : Nat)
  | portTrainDone (p : Nat) (light : Bool) (verified : BitVec 8)
  | portRetry (p : Nat)
  | optRetrain (p : Nat)
  | adminDown (p : Nat) (down : Bool)
  | reachWrite (p : Nat) (short : Bool)
  -- fabric
  | frameRx (x : PortSlot) (f : Frame)
  | creditFlitRx (x : PortSlot) (f : Frame)
  | frameSend (x : PortSlot)
  | frameAgeDrop (p ix : Nat)
  | packetInject (io : Nat) (k : Packet)
  | packetArrive (io : Nat) (k : Packet)
  | ackTimer (io : Nat) (key : StreamKey)
  | ack (io : Nat) (k : Packet)
  | nack (io : Nat) (k : Packet)
  | vnotice (io : Nat) (k : Packet)
  | resendTimeout (io : Nat) (key : StreamKey) (seq : BitVec 32)
  | streamEntryExpiry (io : Nat) (tx : Bool) (key : StreamKey)
  | fault (p : Nat) (k : Packet)
  | violInterval (p : Nat)
  | clrQuar (p : Nat)
  -- Roseb
  | req (io : Nat) (k : Packet)
  | lineApply (io line : Nat) (par : Bool)
  | rsp (io : Nat) (k : Packet)
  | reissueTimeout (io home rid : Nat)
  | trigDeliver (io : Nat) (k : Packet)
  | msgDeliver (io : Nat) (k : Packet) (age : W64)
  | invAll (d : Nat)
  -- collectives
  | colSetup (g : Nat)
  | colSetupDone (g : Nat)
  | colTeardown (g : Nat)
  | colOpStart (g : Nat) (x : NodeStart)
  | colSlotReserve (g d : Nat)
  | chunkSend (g d : Nat)
  | data (k : Packet) (residue : Nat)
  | grant (k : Packet)
  | rereq (k : Packet)
  | exponent (k : Packet)
  | colDrainRow (g c : Nat)
  | colGroupTimeout (g d : Nat)
  | colOpComplete (g c : Nat)
  -- power and temperature
  | railSample (compute uncore hbm io : List Nat) (island pkg : Nat)
  | regulatorInterval (x : RegInputs)
  | droopDetect (d : Nat)
  | stretchEnd (d : Nat) (cycles : Nat) (still : Bool)
  | thermalModelUpdate (die : Nat) (temps : List Nat) (projected : Nat)
  | packageNodeUpdate (substrate coldPlate coolant : Nat)
  | diodeRound (die : Nat) (readings : List Int)
  | analogTrip (die : Nat)
  | coolDutyUpdate
  | coolantRead (inlet outlet : Int)
  | pwrModeWrite (v : BitVec 32)
  | midnightEntry
  | pwrCapWrite (v : BitVec 32)
  | learnClear
  | attrClear
  -- host interface
  | pcieConfigReq (write : Bool) (offset : Nat) (v : BitVec 32)
  | pcieError (status : BitVec 32)
  | bar2Read (offset len : Nat)
  | bar2Write (offset : Nat) (data : Bytes)
  | regWrite (offset size : Nat) (v : W64)
  | regWriteHalf (offset : Nat) (v : BitVec 32)
  | regReadLowHalf (offset : Nat)
  | eventInputChange (n : Nat) (level : Bool)
  | pendSet (m : Nat) (v : W64)
  | pendClr (m : Nat) (v : W64)
  | evcClaim (t : Nat)
  | evcVecArm (v : BitVec 32)
  | msixUnmask (v : Nat)
  | watchdogExpiry (hart : Nat)
  | mbxInRing (c : Nat) (v : W64)
  | mbxInDataWrite (c n : Nat) (v : W64)
  | mbxInMaskWrite (c : Nat) (v : BitVec 32)
  | mbxHostRing (crown : Bool)
  | hostMbxPoll
  | echo
  | unsupported
  -- job queues
  | jqTailWrite (q : Nat) (v : BitVec 32)
  | jqEnable (q : Nat) (v : BitVec 32)
  | jobPickup
  | jobNop (q : Nat)
  | jobLoad (q : Nat)
  | jobStart (q : Nat)
  | jobStop (q : Nat)
  | jobAbort (q : Nat)
  | jobReset (q : Nat)
  | jobWait (q : Nat) (expired : Bool)
  | jobSignal (q : Nat)
  | illegalJob (q : Nat)
  | jobComplete (q : Nat)
  -- resets, Dawn and trust
  | porstRelease (bootSel : BitVec 2)
  | dawnDone
  | porstAssert
  | pkgReset (v : BitVec 32)
  | perst (asserted : Bool)
  | pcieHotReset
  | imgUpdate (img : Image)
  | imgUpdateDone (programmed readBack : Bool)
  | imgConfirm
  | ownerChallenge (nonce : BitVec 256)
  | nonceExpiry
  | ownerRequest (img : Image) (slot : Nat) (nonce : BitVec 256) (outer digest : BitVec 384) (innerOk : Bool)
  | attest (fwDigest recDigest ownerDigest : BitVec 384) (signature : Bytes)
  | identityCert
  -- resilience
  | dieHealthCheck (d : Nat) (answered regulated : Bool)
  | journalCommit
  | healthRecord
  | jrnlRead
  | faultMap
  | vspConfig
  | vspHold
  | vspStep
  | vspStatus
  | vspBlockRead (d : Nat)
  | vspBegin (io : Nat) (k : Packet)
  | vspCommit (io : Nat) (k : Packet)
  | vspApplyDone (slot : Nat)
  | vspAbort (io : Nat) (k : Packet)
  | vspSnapshotComplete (micros : Nat)
  | drain
  | drainComplete (micros : Nat)
  | pwrfailAssert (inTime : Bool)
  | vinRise
  | vinLockout
  -- test port
  | bypass
  | idcode
  | samplePreload
  | extest
  -- added rows
  | stackBringupEnd (s : Nat) (ok : Bool) (hard soft : Nat) (remapped : List Nat)
  | rcRead (offset size : Nat)
  | pcieLinkStateChange
  deriving DecidableEq, Repr

end Sys2Proof
end

