-- ==== Sys2Proof/Machine/State.lean ====
section
/-! DEFINITION. The state of the part: plain data. Registers have one home, `regs`, by BAR0 offset; what lies behind them
has the fields below. -/

namespace Sys2Proof.Machine

/-- Why a step stops with a fault. No command of the table stops the part: the type has no constructor. -/
inductive Fault where
  deriving DecidableEq, Repr

/-- Why a step refuses. -/
inductive Refusal where
  /-- Raised by an arm of `exec` whose command has no meaning yet: safe (the run stops). -/
  | notModelled (mnemonic : String)
  deriving DecidableEq, Repr

/-! ### Cores (05_core_execution.md) -/

/-- State of a core (R149). -/
inductive RunState where
  | stopped | running | stopping | faulted | resetting
  deriving DecidableEq, Repr

/-- Why a core stopped (R149). -/
inductive StopCause where
  | none | halt | stop | abort | fault
  deriving DecidableEq, Repr

/-- Forms and arrays of a matrix instruction (R71, R174): `b` is pair B. -/
inductive MxForm where
  | quad
  | pair (b : Bool)
  | single (arr : BitVec 2)
  | t64Single (arr : BitVec 2)
  | t64Pair (b : Bool)
  | t16Single (arr : BitVec 2)
  | t16Pair (b : Bool)
  deriving DecidableEq, Repr

/-- Vector register operations (R177, R179). -/
inductive VxOp where
  | vld | vst | vadd | vsub | vmul | vfma | vmin | vmax | vcmpeq | vcmplt | vcmple | vsel | viadd | visub | vimul
  | vand | vor | vxor | vshl | vshr | vsra | vmov
  | vexp2 | vlog2 | vrcp | vrsqrt | vtanh | verf | vsigm | vsilu | vgelue | vgelut | vftoi | vitof | vqnt
  deriving DecidableEq, Repr

/-- Vector tensor operations (R178). -/
inductive VtOp where
  | vrsum | vrssq | vrmax | vrmin | vrargmax | vrargmin | vsort | vtopk
  deriving DecidableEq, Repr

/-- Sync operations (R181). -/
inductive SxOp where
  | sig | sign | tmr | evt
  deriving DecidableEq, Repr

/-- Collective operations (R183). -/
inductive ColOp where
  | allreduce | reducescatter | allgather | broadcast | reduce | barrier
  deriving DecidableEq, Repr

/-- Roseb operations (R184). -/
inductive RsbOp where
  | rld | rst | rinv | add | fadd | smin | smax | umin | umax | and | or | xor | swap | cas
  deriving DecidableEq, Repr

/-- Message and trigger operations (R185). -/
inductive MsgOp where
  | trig | msg | mboxout | mboxin
  deriving DecidableEq, Repr

/-- An instruction of one of the five queues. -/
inductive QIns where
  | dmaTd (f : DmaTdF)
  | dmaList (f : DmaListF)
  | mx (form : MxForm) (f : MxF)
  | vx (op : VxOp) (f : VxF)
  | vt (op : VtOp) (f : VtF)
  | sx (op : SxOp) (f : SyncF)
  | pmark (reg : Bool) (f : PmarkF)
  | col (op : ColOp) (f : ColF)
  | rsb (op : RsbOp) (f : RsbF)
  | msg (op : MsgOp) (f : MsgF)
  deriving DecidableEq, Repr

/-- A queue entry: the instruction with the registers and descriptors read when it was issued (R128), its place in issue
order, its program counter, and the package's numerics default in effect at issue (R34). -/
structure QEntry where
  seq       : Nat
  pc        : Nat
  ins       : QIns
  sregs     : Tab W64
  tds       : Tab (BitVec 512)
  cds       : Tab (BitVec 1024)
  stepExact : Bool
  deriving DecidableEq, Repr

/-- A DMA, VX, CX or SX instruction that has started and not completed. `finished` is set when its work is done and every
condition of R132 but the completion itself holds. -/
structure Started where
  entry    : QEntry
  code     : Nat
  flags    : NumFlags
  finished : Bool
  deriving DecidableEq, Repr

/-- A started MX instruction: rows accumulated, rows whose epilogue has run, the row that waits for a receive buffer (R27),
rows handed off, its status, and the operand vectors read at its start (R103): key 2i and 2i + 1 the operands of stage i, 100
the per-row scale. -/
structure MxRun where
  entry   : QEntry
  acc     : Nat
  emitted : Nat
  waiting : List (List Nat)
  drained : Nat
  code    : Nat
  flags   : NumFlags
  bufs    : Tab (List Nat)
  deriving DecidableEq, Repr

/-- A sequencer wait in force (R130). -/
structure SWait where
  seq   : Nat
  sem   : Nat
  count : Nat
  deriving DecidableEq, Repr

/-- The fault a core is taking (R144): cause, queue, program counter, detail. -/
structure FaultRec where
  cause  : Nat
  queue  : Nat
  pc     : Nat
  detail : Nat
  deriving DecidableEq, Repr

/-- A program load in progress, with the values latched at go (R126). -/
structure Load where
  src    : Nat
  length : Nat
  dest   : Nat
  deriving DecidableEq, Repr

/-- One core (R122-R152). Keys: `vreg` register × 512 + lane; `acc` array × 65,536 + row × 256 + column; `wAct`,
`wShadow` array × 131,072 + k × 256 + column; `stat` array × 8,192 + buffer × 4,096 + row × 64 + k (two buffers, R82). `drainQ` names
the MX instructions whose rows wait for the collective engine, in the order the epilogue finished them (R26). `phase` is the phase
of the last mark delivered to the Regulator and `markAt` its stamp in HCLK cycles; `markHeld` is a mark of the last 1 µs with its stamp,
which a later one within 1 µs replaces (R140). -/
structure Core where
  run        : RunState
  stopCause  : StopCause
  pc         : Nat
  rstack     : List Nat
  sreg       : Tab W64
  td         : Tab (BitVec 512)
  cd         : Tab (BitVec 1024)
  vreg       : Tab (BitVec 32)
  sem        : Tab (BitVec 16)
  prog       : Tab (BitVec 128)
  badProg    : List Nat
  qDma       : List QEntry
  qMx        : List QEntry
  qVx        : List QEntry
  qCx        : List QEntry
  qSx        : List QEntry
  started    : List Started
  heldIns    : Option (Queue × QEntry)
  swait      : Option SWait
  paced      : List SWait
  issueSeq   : Nat
  fault      : Option FaultRec
  load       : Option Load
  ledgerHeld : Option (BitVec 32)
  phase      : BitVec 8
  markAt     : Nat
  markHeld   : Option (BitVec 8 × Nat)
  acc        : Tab (BitVec 48)
  wAct       : Tab XV
  wShadow    : Tab XV
  stat       : Tab XV
  mxCounts   : Bool
  staging    : Option Nat
  staged     : Option Nat
  mxRuns     : List MxRun
  drainQ     : List Nat
  deriving DecidableEq, Repr

/-- A core after PORST_N (R125, R127). -/
def Core.reset : Core :=
  { run := .stopped, stopCause := .none, pc := 0, rstack := [], sreg := [], td := [], cd := [], vreg := [], sem := [],
    prog := [], badProg := [], qDma := [], qMx := [], qVx := [], qCx := [], qSx := [], started := [], heldIns := none,
    swait := none, paced := [], issueSeq := 0, fault := none, load := none, ledgerHeld := none, phase := 0, markAt := 0, markHeld := none, acc := [], wAct := [],
    wShadow := [], stat := [], mxCounts := false, staging := none, staged := none, mxRuns := [],
    drainQ := [] }

/-! ### What the package sends, and its records -/

/-- Assembly grades (R1). -/
inductive Grade where
  | msn4432 | msn4416 | msn4232 | msn2216
  deriving DecidableEq, Repr

/-- A journal record (R453); `time` and `boot` are taken when its event happens, `seq` when it is committed. -/
structure JRec where
  seq    : Nat
  boot   : Nat
  time   : W64
  unit   : Nat
  uclass : Nat
  cls    : Nat
  kind   : Nat
  detail : Bytes
  deriving DecidableEq, Repr

/-- What leaves the part, oldest first (log 3). -/
inductive Out where
  | msix (vector : Nat) (address : W64) (data : BitVec 32)
  | busRead (offset : Nat) (data : W64)
  | bar2Read (offset : Nat) (data : Bytes) (poisoned : Bool)
  | identity (port : Nat) (flits : List IdFlit)
  | role (group module : Nat) (kind : Nat) (payload : W64)
  | dieRole (group module : Nat) (nops : Nat) (hdr : BitVec 128) (data : Bytes)
  | frame (port : Nat) (lanes : List Nat) (f : Frame)
  | hbmRead (stack source offset : Nat) (data : Bytes) (poison : List Bool)
  | config (offset : Nat) (data : BitVec 32)
  | configRetry (offset : Nat)
  | tdo (data : BitVec 32)
  deriving DecidableEq, Repr


/-! ### HBM stacks (08_hbm_memory.md) -/

/-- A read accepted by a controller (R204, R210); `got` holds its data and the poison bit of each 64 B, none while the
block is held for a remap (R223). -/
structure HRead where
  source : Nat
  offset : Nat
  len    : Nat
  got    : Option (Bytes × List Bool)
  deriving DecidableEq, Repr

/-- An entry of the correctable-error tracker (R220); `start` in seconds. -/
structure CeEntry where
  block : Nat
  count : Nat
  start : Nat
  deriving DecidableEq, Repr

/-- A remap entry (R220, R221). -/
structure Remap where
  block  : Nat
  remaps : Nat
  spare  : Nat
  lost   : Bool
  deriving DecidableEq, Repr

/-- A remap copy in progress (R220, R223): the block, the spare it takes, and whether an uncorrectable error caused it. -/
structure Copy where
  block : Nat
  spare : Nat
  ue    : Bool
  deriving DecidableEq, Repr

/-- A stack's controller. `wbuf` counts buffered write bytes per pseudo-channel; `batch` names those in a write batch, `lat` those that
schedule for latency (R34). `rows` is the open row plus one of a bank, by 64 × pseudo-channel + bank. -/
structure Stack where
  reads    : List HRead
  held     : List HbmReq
  wbuf     : Tab Nat
  batch    : List Nat
  lat      : List Nat
  rows     : Tab Nat
  tracker  : List CeEntry
  remaps   : Tab (Option Remap)
  taken    : List Nat
  lost     : List Nat
  copying  : List Copy
  again    : List Nat
  timeouts : Tab Nat
  cool     : Nat
  deriving DecidableEq, Repr

/-- A controller with nothing in it. -/
def Stack.reset : Stack :=
  { reads := [], held := [], wbuf := [], batch := [], lat := [], rows := [], tracker := [], remaps := [], taken := [], lost := [],
    copying := [], again := [], timeouts := [], cool := 0 }

/-! ### Vespers at its source (R458-R463) -/

/-- One buddy of a snapshot: its fabric ID and hold slot, its stage (0 before VSP_BEGIN is answered, 1 sending,
2 VSP_COMMIT sent, 3 committed), the log's blocks, RSTs unanswered, and the index entries sent. -/
structure Buddy where
  fid     : BitVec 16
  slot    : Nat
  stage   : Nat
  sent    : Nat
  waiting : Nat
  deriving DecidableEq, Repr

/-- Vespers. `regions` are first block and number of blocks; `dirty`, `pend` are block numbers (address / 4,096); `cap`
holds pending blocks read ahead of a write (R460), with the outcome of their check. -/
structure Vsp where
  period   : Nat
  buddies  : List Buddy
  regions  : List (Nat × Nat)
  dirty    : List Nat
  pend     : List Nat
  cap      : List (Nat × Bytes × Bool)
  running  : Bool
  count    : Nat
  carry    : Bool
  started  : Nat
  complete : Nat
  skipped  : Nat
  aborted  : Nat
  micros   : Nat
  moved    : Nat
  last     : Nat
  deriving DecidableEq, Repr

/-- Vespers off (R15: the configuration of a snapshot is set by the host). -/
def Vsp.reset : Vsp :=
  { period := 0, buddies := [], regions := [], dirty := [], pend := [], cap := [], running := false, count := 0,
    carry := false, started := 0, complete := 0, skipped := 0, aborted := 0, micros := 0, moved := 0,
    last := 0 }

/-! ### Fabric (12_fabric.md) -/

/-- Who is told of a packet's fate (R307): nobody beyond its own fields, or the TRIG or MSG instruction that sent it. -/
inductive Client where
  | none
  | msg (core seq : Nat)
  deriving DecidableEq, Repr

/-- A packet sent and not yet covered in cum (R307). `acked`: an ACK's map has covered it. -/
structure TxPkt where
  k       : Packet
  resends : Nat
  acked   : Bool
  client  : Client
  deriving DecidableEq, Repr

/-- A stream at its source (R307). `live`: it holds a transmit entry. -/
structure TxStream where
  live    : Bool
  syn     : Bool
  next    : BitVec 32
  sent    : List TxPkt
  waiting : List (Packet × Client)
  deriving DecidableEq, Repr

/-- A stream at its destination (R307): next expected number, packets held, acceptances since the last ACK. -/
structure RxStream where
  cum   : BitVec 32
  held  : List Packet
  since : Nat
  deriving DecidableEq, Repr

/-- A packet in a router: input 0 to 31 is a port, 32 + i local injection at I/O die i, 36 + 4f + t the crossing from I/O die f to
I/O die t (R305); `vc` the channel it holds there, `born` the time it entered (R308). -/
structure RFrame where
  inp  : Nat
  vc   : Nat
  hall : Bool
  born : W64
  k    : Packet
  deriving DecidableEq, Repr

/-- The arbiter of an output port (R305): deficits of classes 1 to 5, the class being served, the last input of a channel. -/
structure Arb where
  deficit : List Nat
  cur     : Nat
  lastIn  : Tab Nat
  deriving DecidableEq, Repr

def Arb.reset : Arb := { deficit := [0, 0, 0, 0, 0], cur := 0, lastIn := [] }

/-- A reported dead direction (R313): the origin's position, dir, and the dial of a hall direction. -/
structure DeadLink where
  pos  : Nat
  dir  : Nat
  dial : Nat
  deriving DecidableEq, Repr

/-! ### Optical ports (11_optical_io.md) -/

/-- What the port map of the configuration record gives a port (R435): partner, partner port, fibre. -/
structure PortMap where
  fid   : BitVec 16
  port  : Nat
  fibre : Nat
  deriving DecidableEq, Repr

/-- A lane's receiver: identity flits missing and good in a row, uncorrectable codewords in the 1 ms window, the step of the
recovery (R280: 0 in service or idle, 1 first verification, 2 after retune_req, 3 sweep, 4 after the sweep, 5 failed),
whether this window's error ratio has asked for a retune (R279), and the times of its last good flit and of its last with a bad CRC
(R297). -/
structure OLane where
  missing : Nat
  good    : Nat
  uncorr  : Nat
  stage   : Nat
  asked   : Bool
  wrong   : Bool
  goodAt  : Option W64
  badAt   : Option W64
  deriving DecidableEq, Repr

/-- A port behind its registers: a hart trains its receiver (R291); an announced map (R278); lanes it drops on its own knowledge until
the partner stops calling them ready (R284); the lanes this receiver has verified, asks removed or retuned; the partner's last flit; the
boundary of a map change without notice (R293); its own darkness (R288); and the time its last fan-out ended (R289). -/
structure OPort where
  training  : Bool
  announced : Option (BitVec 8)
  drop      : BitVec 8
  rxReady   : BitVec 8
  rxRemove  : BitVec 8
  retune    : BitVec 8
  pReady    : BitVec 8
  pRemove   : BitVec 8
  pNext     : BitVec 8
  pTx       : BitVec 8
  pReach    : Bool
  pFault    : Bool
  badIval   : Option (BitVec 8)
  fault     : Bool
  seq       : BitVec 8
  fanEnd    : Option W64
  lanes     : Tab OLane
  deriving DecidableEq, Repr

def OLane.reset : OLane := { missing := 0, good := 0, uncorr := 0, stage := 0, asked := false, wrong := false,
                                goodAt := none, badAt := none }

def OPort.reset : OPort :=
  { training := false, announced := none, drop := 0, rxReady := 0, rxRemove := 0, retune := 0, pReady := 0, pRemove := 0, pNext := 0,
    pTx := 0, pReach := false, pFault := false, badIval := none, fault := false, seq := 0, fanEnd := none, lanes := [] }

/-! ### Die-to-die modules (10_in_package_links.md) -/

/-- A die-role packet at its sender (R261, R267): `again` marks one that a fenced module had not delivered, `via` the module of a
CREDIT packet. -/
structure DrPkt where
  group : Nat
  hdr   : BitVec 128
  data  : Bytes
  again : Bool
  via   : Option Nat
  deriving DecidableEq, Repr

/-- A module behind its registers: the role exchange (0 nothing, 1 answered with ROLE_ADV, 2 with ROLE_CRED too, 3 accepted), answers
missed, the last role advertisement and credits; the training state in progress as the leader knows it (0 none, 1 SBINIT, 2 MBINIT,
3 MBTRAIN, 4 LINKINIT, 5 PHYRETRAIN); the width the leader decided (0 none, 3 full, 4 lower half, 5 upper half); failed redundant lanes;
times of recent replays, failures of one flit in a row, lanes that margins ask to be replaced; packets sent and not yet delivered; and
the payload bytes used of the flit in progress (R265). -/
structure DModule where
  role    : Nat
  missed  : Nat
  adv     : Option W64
  cred    : Option W64
  train   : Nat
  width   : Nat
  spare   : BitVec 4
  replays : List Nat
  fails   : Nat
  weak    : W64
  flight  : List DrPkt
  pos     : Nat
  deriving DecidableEq, Repr

def DModule.reset : DModule :=
  { role := 0, missed := 0, adv := none, cred := none, train := 0, width := 0, spare := 0, replays := [], fails := 0,
    weak := 0, flight := [], pos := 0 }

/-! ### Roseb (13_remote_memory.md) -/

/-- Who asked for a remote operation: a CX instruction, a DMA channel (a read of its source from offset `off` of a unit on, or a write),
or Vespers for a buddy. -/
inductive RClient where
  | none
  | cx (core seq : Nat)
  | dma (ch : Nat) (write : Bool) (unit off : Nat)
  | vsp (buddy : Nat)
  deriving DecidableEq, Repr

/-- A request at its requester (R319-R330): `io` the requester's I/O die, `hio` the home's, `die` the requester's compute die;
unsent ones wait in order. -/
structure RsbReq where
  io       : Nat
  fid      : BitVec 16
  hio      : Nat
  dstIo    : Nat
  die      : Nat
  kind     : Nat
  op       : Nat
  w        : Bool
  chk      : Nat
  addr     : Nat
  len      : Nat
  data     : Bytes
  rid      : Nat
  sent     : Bool
  acked    : Bool
  reissues : Nat
  client   : RClient
  deriving DecidableEq, Repr

/-- An RLD in progress: what has arrived (`segs`, by local start address), whether lines are installed, lines that a RINV or an atomic
keeps out, what the die's own RSTs have written since, newest first (R333), and whether a part failed. -/
structure RldJob where
  core    : Nat
  seq     : Nat
  off     : Nat
  addr    : Nat
  len     : Nat
  pos     : Nat
  segs    : List (Nat × Bytes)
  install : Bool
  skip    : List Nat
  own     : List (Nat × Bytes)
  bad     : Bool
  deriving DecidableEq, Repr

/-- A line of a compute die's remote-line cache (R332); the list is most recently used first. -/
structure RLine where
  die  : Nat
  pos  : Nat
  line : Nat
  data : Bytes
  deriving DecidableEq, Repr

/-- A request at its home (R325-R328): the lines still to apply, what has been read, an atomic's old value, whether it fails, the blocks
found poisoned (R215), whether a part is absent, and reissues that wait for its reply. -/
structure HomeReq where
  io    : Nat
  k     : Packet
  lines : List Nat
  segs  : List (Nat × Bytes)
  old   : W64
  bad   : Bool
  sick  : List Nat
  hole  : Bool
  dupes : Nat
  deriving DecidableEq, Repr

/-- An entry of a reply cache (R327), by requester endpoint and the compute die its requests name. -/
structure Reply where
  io    : Nat
  fid   : BitVec 16
  srcIo : Nat
  unit  : Nat
  rid   : Nat
  k     : Packet
  deriving DecidableEq, Repr

/-! ### DMA channels (09_dma.md) -/

/-- A remote read that has come back: the unit and offset it belongs to, and its bytes, none for a failure (R240). -/
structure DGot where
  unit : Nat
  off  : Nat
  data : Option Bytes
  deriving DecidableEq, Repr

/-- A transfer in progress on a channel: the descriptor's address and bits (0 for a DMA.TD), the next unit to start, the unit and offset
that are written next, bytes moved, its code, remote requests unanswered, remote reads that wait for their turn, whether a block waits to
be read again (R215), and bytes that wait until their destination block or unit is done (R242). -/
structure DCur where
  addr    : Nat
  w       : BitVec 512
  unit    : Nat
  toUnit  : Nat
  toOff   : Nat
  moved   : Nat
  code    : Nat
  waiting : Nat
  got     : List DGot
  hold    : Bool
  parts   : List (Nat × Bytes)
  deriving DecidableEq, Repr

/-- Work of a channel: the instruction (none on a die channel), the next descriptor and how many are left, the transfer in
progress, whether a descriptor was marked BAD_BUS or has moved anything, and whether the list is to end (R246). -/
structure DWork where
  entry : Option QEntry
  head  : Nat
  left  : Nat
  cur   : Option DCur
  bad   : Bool
  some' : Bool
  stop  : Bool
  deriving DecidableEq, Repr

/-- A channel: its work, the source of its pacing credits (timer 4c + n as 2 × that, channel ch as 2ch + 1), a held credit. -/
structure DChan where
  work   : Option DWork
  src    : Option Nat
  credit : Bool
  deriving DecidableEq, Repr

def DChan.reset : DChan := { work := none, src := none, credit := false }

/-! ### Collective engines (14_collectives.md) -/

/-- A node of a group (R341). -/
structure ColNode where
  fid  : BitVec 16
  die  : Nat
  mask : BitVec 16
  deriving DecidableEq, Repr

/-- A group as its last setup left it (R340, R345, R365). -/
structure ColGrp where
  base    : Nat
  nx      : Nat
  ny      : Nat
  nz      : Nat
  long    : Bool
  fp32    : Bool
  feed    : Bool
  timeout : Nat
  tag     : Nat
  nodes   : List ColNode
  deriving DecidableEq, Repr

/-- A member's part in an operation: its instruction, the raw elements it has contributed, its ledger rows, whether its
instruction has completed. -/
structure ColJoin where
  core  : Nat
  entry : QEntry
  got   : Tab (Option Nat)
  rows  : Tab (Option Nat)
  done  : Bool
  deriving DecidableEq, Repr

/-- A chunk sent into a slot and not yet granted back (R357). -/
structure ColOut where
  slot    : Nat
  sub     : Nat
  stage   : Nat
  index   : Nat
  payload : Bytes
  deriving DecidableEq, Repr

/-- The window that a node holds at one of its receivers (R355). -/
structure ColPeer where
  node : Nat
  next : Nat
  sent : List ColOut
  deriving DecidableEq, Repr

/-- A chunk received whose content stands: the leg of the schedule, its index and payload. -/
structure ColRx where
  leg     : Nat
  index   : Nat
  payload : Bytes
  deriving DecidableEq, Repr

/-- An operation in progress at a node (R343-R357). `free` names the values the rules leave open in it. -/
structure ColRun where
  opseq    : Nat
  op       : ColOp
  oper     : Nat
  count    : Nat
  root     : Nat
  ring     : Bool
  whole    : Bool
  reserved : Nat
  win      : Nat
  since    : W64
  joins    : List ColJoin
  rx       : List ColRx
  tx       : List (Nat × Nat)
  peers    : List ColPeer
  fails    : List (Nat × Nat)
  free     : Nat
  deriving DecidableEq, Repr

/-- A row that a drain has handed off and the engine has not yet staged (R360). -/
structure ColDrain where
  core : Nat
  row  : Nat
  col  : Nat
  raws : List Nat
  deriving DecidableEq, Repr

/-- A group at one compute die of the package: the next operation's number, instructions that wait in the engine, the operation
in progress, chunks held for an operation not yet started (R356). -/
structure ColSite where
  opseq   : Nat
  waiting : List (Nat × QEntry)
  run     : Option ColRun
  early   : List (Option Nat × Packet)
  drains  : List ColDrain
  deriving DecidableEq, Repr

def ColSite.reset : ColSite := { opseq := 0, waiting := [], run := none, early := [], drains := [] }
/-! ### Jobs, updates and trust (16_control_plane.md, 17_dawn_and_trust.md) -/

/-- A job in progress (R420): its entry, whether its action has been taken, the cores that refused it, and its code and detail
once it has ended. -/
structure Job where
  w        : BitVec 512
  acted    : Bool
  rejected : List Nat
  result   : Option (Nat × Nat)
  deriving DecidableEq, Repr

/-- An entry of a commit sector (R428). -/
structure CEntry where
  seq        : Nat
  bootCount  : Nat
  imgSlot    : Nat
  recSlot    : Nat
  imgTrial   : Bool
  trialCount : Nat
  reverted   : Bool
  deriving DecidableEq, Repr

/-- An update in progress (R440): the image, the flash slot it goes to, and register 0 of its command. -/
structure Upd where
  img  : Image
  slot : Nat
  cmd  : W64
  deriving DecidableEq, Repr

/-- A hold slot of a buddy (R451, R461, R462): its configuration, whether a log is open, the last committed step, and a commit
whose apply runs: the endpoint, its packet. -/
structure Hold where
  enable   : Bool
  src      : BitVec 16
  mirror   : Nat
  bytes    : Nat
  log      : Nat
  blocks   : Nat
  isOpen   : Bool
  step     : Nat
  apply    : Option (Nat × Packet)
  deriving DecidableEq, Repr

def Hold.reset : Hold :=
  { enable := false, src := 0, mirror := 0, bytes := 0, log := 0, blocks := 0, isOpen := false, step := 0, apply := none }

/-! ### Power and temperature (15_power_thermal.md): powers in mW, temperatures in units of 0.125 °C -/

/-- Sums of the 1 µs samples of an interval (R367): by compute die (compute and uncore groups), by stack, the I/O dies, the
package; and the energy below 1 µJ. -/
structure Rails where
  n    : Nat
  dies : Tab Nat
  hbm  : Tab Nat
  io   : Nat
  pkg  : Nat
  rest : Nat
  deriving DecidableEq, Repr

def Rails.reset : Rails := { n := 0, dies := [], hbm := [], io := 0, pkg := 0, rest := 0 }

/-- The Regulator (R372-R378): the cap in effect, the I/O excess of the last interval, each die's ratios of measured to predicted
power (in millionths, newest first), place in the 10 ms window and its sum of excess, intervals that have fitted, HBM admission
(0 full, 1 50 %, 2 25 %), each die's model and measured energies of 100 ms, intervals all dies have been within 10 %, and a
learn_clear that waits. `hbmPrev` is each die's HBM power of the last interval, `pred`
and `bud` the prediction and budget of the interval in progress, `began` the time it began. -/
structure Regl where
  cap     : Nat
  ioOver  : Nat
  ratios  : Tab (List Nat)
  window  : Nat
  excess  : Int
  fits    : Nat
  hbmLim  : Nat
  divs    : Tab (List (Nat × Nat))
  within  : Nat
  clear   : Bool
  hbmPrev : Tab Nat
  pred    : Tab Nat
  bud     : Tab Nat
  began   : W64
  deriving DecidableEq, Repr

def Regl.reset : Regl :=
  { cap := 0, ioOver := 0, ratios := [], window := 0, excess := 0, fits := 0, hbmLim := 0, divs := [], within := 0, clear := false,
    hbmPrev := [], pred := [], bud := [], began := 0 }

/-- A diode (R381, R382): its last reading, its node's model temperature then, rounds of disagreement in a row, broken. -/
structure Diode where
  last   : Option Int
  model  : Int
  apart  : Nat
  broken : Bool
  deriving DecidableEq, Repr

def Diode.reset : Diode := { last := none, model := 0, apart := 0, broken := false }

/-- The thermal model. Keys: node 64 × die + node, dies as in THM_DIEd; parts are dies, or 32 + stack. `calm` counts 10 µs a part has
been below its step. `duty` is the integral of R386 in °C × 1.25 ms; `okIn`, `okOut` count readings in range. -/
structure Therm where
  nodes  : Tab Nat
  proj   : Tab Nat
  calm   : Tab Nat
  diodes : Tab Diode
  allBad : Tab Nat
  integ  : Nat
  okIn   : Nat
  okOut  : Nat
  deriving DecidableEq, Repr

def Therm.reset : Therm :=
  { nodes := [], proj := [], calm := [], diodes := [], allBad := [], integ := 0, okIn := 0, okOut := 0 }

/-! ### Pins (19_electrical_mechanical.md) -/

/-- Instructions of the test port (R488). -/
inductive TapIr where
  | bypass | idcode | sample | extest
  deriving DecidableEq, Repr

/-- Signal pins as the boundary register captures them; `true` is high. -/
structure Pins where
  gpio      : BitVec 8
  porstN    : Bool
  perstN    : Bool
  pwrfailN  : Bool
  thermtripN : Bool
  faultN    : Bool
  /-- Duty of COOL_DEMAND, in 0.1 % (R489). -/
  coolDuty  : Nat
  deriving DecidableEq, Repr


/-! ### The part -/

/-- The state of one Moasin. -/
structure State where
  /-- Commands waiting, first in first out (the model's own). -/
  pending    : List Instr
  /-- Index of the next free value (the model's own). -/
  freeIx     : Nat
  /-- Every register of BAR0, 64 bits by offset; what is not listed is 0 (R9, R15). -/
  regs       : Tab W64
  /-- Low half written and held for its high half, 32 bits per register (R10). -/
  heldLo     : Tab (Option (BitVec 32))
  /-- High half captured by a read of the low half, 32 bits per register (R10). -/
  capHi      : Tab (Option (BitVec 32))
  /-- Bytes of HBM and core stores by device-local address (R40). -/
  mem        : List Host.Cell
  /-- The 64 cores (R122-R151). -/
  cores      : Tab Core
  /-- Assembly grade (R1). -/
  grade      : Grade
  /-- PEND_SET held for level sources (R407). -/
  evcHeld    : List Nat
  /-- What has left the package, oldest first (the model's own). -/
  out        : List Out
  /-- Records of the journal, newest 4,096 (R452, R453). -/
  journal    : List JRec
  /-- Records waiting to be committed, at most 256 (R452). -/
  backlog    : List JRec
  /-- Number of the next record (R452). -/
  jNext      : Nat
  /-- Records dropped from the backlog (R452). -/
  jDropped   : Nat
  /-- Numerics default of the package: step-exact (R33, R34, R457). -/
  numDefault : Bool
  /-- 32 stack controllers: reads, held writes, write-buffer bytes, batches, error tracker, remaps, spares, copies, timeouts, cool rounds (R204-R227). -/
  ctls       : Tab Stack
  /-- Rows of each stack repaired by hard PPR, which persists in the stack (R224). -/
  hppr       : Tab Nat
  /-- First check failures that an engine reads again, by source (log 86) and block (R215). -/
  rechecks   : List (Nat × Nat)
  /-- Check words of 4 KiB blocks of HBM, 64 bits each (R201, R212, R213). -/
  chk        : Tab W64
  /-- Vespers at its source: period, buddies, regions, dirty and pending blocks, counts (R458-R463). -/
  vsp        : Vsp
  /-- Compute dies found dead (R450). -/
  deadDies   : List Nat
  /-- Generation of the fault map (R457). -/
  mapGen     : Nat
  /-- CRN_TIME of the last change of the fault map (R457). -/
  mapTime    : W64
  /-- Transmit streams by endpoint and key: next number, packets in flight, waiting (R307). -/
  fabTx      : Tab (Option TxStream)
  /-- Receive streams by endpoint and key: cum, packets held (R307). -/
  fabRx      : Tab (Option RxStream)
  /-- Packets in the input buffers of the routers, by arrival (R304-R306). -/
  router     : List RFrame
  /-- Arbiters of the 32 output ports: deficits, class, last input (R305). -/
  arb        : Tab Arb
  /-- Credits held at a port for its partner's buffers, by port and channel (R306). -/
  txCred     : Tab Nat
  /-- Credits granted to the partner, by port and channel (R306). -/
  granted    : Tab Nat
  /-- Buffer units occupied, by input (ports and crossings) and channel (R306). -/
  occ        : Tab Nat
  /-- Packets that have reached their endpoint (R304, R307). -/
  arrived    : List (Nat × Packet)
  /-- Dials travelling the alternative direction (R312). -/
  altRun     : List Nat
  /-- Dead directions reported by others (R313). -/
  deadLinks  : List DeadLink
  /-- Dead directions of this package: 0 to 3, or 5 + dial of a hall (R313). -/
  deadOwn    : List Nat
  /-- Number of the last FAULT sent (R313). -/
  fseqOwn    : Nat
  /-- Number of the last FAULT of each origin (R313). -/
  fseqSeen   : Tab (Option Nat)
  /-- Violations of the running second, by port (R316). -/
  violNow    : Tab Nat
  /-- Seconds with few violations, by port in quarantine (R316). -/
  quiet      : Tab Nat
  /-- Port map: partner, partner port, fibre (R310, R435). -/
  portMap    : Tab (Option PortMap)
  /-- Spare pairs by 16 × I/O die + fibre: partner and partner port (R288, R435). -/
  spareMap   : Tab (Option (BitVec 16 × Nat))
  /-- Ports behind their registers: announced map, verified and removed lanes, partner's last flit, lane receivers (R275-R281). -/
  oports     : Tab OPort
  /-- Spare fibres that did not train (R281). -/
  badSpares  : List Nat
  /-- Fan-out of an I/O die: its group and ports (R289). -/
  fan        : Tab (Option (Nat × Nat))
  /-- Ports that wait for a mesh change to settle (R287). -/
  meshWait   : List Nat
  /-- Ports waiting to train (R288). -/
  trainQ     : List Nat
  /-- Corrections of heater tables, by ring (R283, R284). -/
  heatMove   : Tab Int
  /-- Temperature at a ring's last calibration (R284). -/
  heatTemp   : Tab Nat
  /-- Rings being calibrated (R284). -/
  recalling  : List Nat
  /-- Rings whose calibration is due (R284). -/
  recalDue   : List Nat
  /-- Version of each I/O die (R262, R448, R495). -/
  iodVer     : List Nat
  /-- Modules behind their registers: role exchange, credits, width, replays, weak lanes (R257-R264). -/
  dmods      : Tab DModule
  /-- Steering tables of the eight groups, 96 flows (R256, R261). -/
  steer      : Tab (List Nat)
  /-- Module last used to refill, by group (R261). -/
  steerLast  : Tab Nat
  /-- Flows held back until their packets have drained (R261). -/
  movedFlows : List (Nat × Nat)
  /-- Credits of die-role packets held at each module, by class (R264, R267). -/
  drCred     : Tab Nat
  /-- Credits that each module's partner holds, by class (R264, R270). -/
  drPart     : Tab Nat
  /-- Freed units that each module has still to return, by class (R264, R266). -/
  drOwed     : Tab Nat
  /-- Die-role packets waiting for credits (R267). -/
  drQueue    : List DrPkt
  /-- Modules in die role with an attached endpoint (R264). -/
  attached   : List Nat
  /-- Times of watchdog restarts in the last 10 s (R404). -/
  wdTimes    : List Nat
  /-- Outstanding requests of the four requesters (R319-R330). -/
  rsbOut     : List RsbReq
  /-- Next request number, by I/O die and home (R325). -/
  rsbRid     : Tab Nat
  /-- Epoch tables of the four requesters: the epoch last seen of each position, by 1,024 × I/O die + position (R329). -/
  epochs     : Tab (BitVec 16)
  /-- RLDs in progress (R327, R333). -/
  rldJobs    : List RldJob
  /-- Remote-line cache of the compute dies, most recent first (R332). -/
  rlc        : List RLine
  /-- Requests at the homes, in order of arrival (R325, R326). -/
  homeQ      : List HomeReq
  /-- Reply caches (R327). -/
  replies    : List Reply
  /-- Replies within the package (R319). -/
  selfRsp    : List (Nat × Packet)
  /-- Channels: work in progress, pacing source, credit (R231-R246). -/
  dma        : Tab DChan
  /-- Groups as their last setup left them (R340-R342). -/
  colGrps    : Tab (Option ColGrp)
  /-- Groups at each compute die: operation number, waiting instructions, operation in progress, early chunks, drained rows (R343-R360). -/
  colSites   : Tab ColSite
  /-- Engines' queues of operations waiting for slots (R355). -/
  colWait    : List Nat
  /-- Group that each engine's output serves first, by 64 × engine + port; own package 32 + engine (R355). -/
  colTurn    : Tab Nat
  /-- Every rail group but the always-on island is off (R385, R466, R477). -/
  off        : Bool
  /-- PORST_N is held low (R424, R481). -/
  porst      : Bool
  /-- Job in progress of each queue (R419-R422). -/
  jobs       : Tab (Option Job)
  /-- Queue that began the last job (R419). -/
  jqLast     : Nat
  /-- Hold slots: source, mirror, log, last step, apply (R451, R461, R462). -/
  holds      : Tab Hold
  /-- Drain in progress, with the time it began (R465). -/
  drainRun   : Option W64
  /-- Flash slots: images A and B, records A and B (R427, R430). -/
  flash      : Tab (Option Image)
  /-- Entries of the two commit sectors (R427, R428). -/
  commits    : Tab (Option CEntry)
  /-- Goldotric slots: programmed [7:4], revoked [3:0] (R434). -/
  otpGold    : BitVec 8
  /-- Owner slots: programmed [7:4], revoked [3:0] (R434). -/
  otpOwner   : BitVec 8
  /-- Digests of the owner slots (R434). -/
  ownerKeys  : Tab (BitVec 384)
  /-- Version floor, 0 to 64 (R434). -/
  svnFloor   : Nat
  /-- Svn of the running image (R433, R446). -/
  runSvn     : Nat
  /-- Update in progress (R440). -/
  update     : Option Upd
  /-- Nonce of OWNER_CHALLENGE (R442). -/
  nonce      : Option (BitVec 256)
  /-- Housekeeping checks missed in a row, by compute die (R450). -/
  dieMiss    : Tab Nat
  /-- Power-fail latch (R467). -/
  pwrFail    : Bool
  /-- VIN is good (R477). -/
  vin        : Bool
  /-- PERST_N is held low (R424, R482). -/
  perst      : Bool
  /-- Configuration registers of the PCIe function (R396). -/
  cfg        : Tab (BitVec 32)
  /-- PCIe error status (R396). -/
  aer        : BitVec 32
  /-- Instruction of the test port (R488). -/
  tapIr      : TapIr
  /-- Pins as SAMPLE captured them (R488). -/
  scan       : Option Pins
  /-- Sums of the samples of an interval (R367). -/
  rails      : Rails
  /-- The Regulator: cap in effect, ratios, excess, budgets, energies (R368-R379). -/
  regl       : Regl
  /-- Thermal model: nodes, diodes, cool-down counts, duty integral (R380-R387). -/
  therm      : Therm
  /-- Compute dies whose clock is stretched (R378, R379). -/
  stretch    : List Nat
  /-- Time at which each compute die's last stretch ended (R379). -/
  escEnd     : Tab (Option W64)
  /-- Parameter entries of the configuration record (R435). -/
  pkgParams  : Tab (BitVec 32)
  deriving DecidableEq, Repr

/-- The registers whose reset value is not zero: EVC_VEC_ARM (R410), and the mask bits of the MSI-X table (log 6). -/
def resetRegs : Tab W64 :=
  ((List.range 32).map fun v => (0x108008 + 16 * v, (0x100000000 : W64))) ++ [(0x203100, 0xFFFFFFFF)]

/-- The part at the release of reset: every register at its reset value, memory zero, no command waiting. -/
def State.reset : State :=
  { pending := [], freeIx := 0, regs := resetRegs, heldLo := [], capHi := [], mem := [], cores := []
    , grade := .msn4432, evcHeld := [], out := [], journal := [], backlog := [], jNext := 0, jDropped := 0
    , numDefault := false, ctls := [], hppr := [], rechecks := [], chk := [], vsp := Vsp.reset, deadDies := [], mapGen := 0, mapTime := 0
    , fabTx := [], fabRx := [], router := [], arb := [], txCred := [], granted := [], occ := [], arrived := []
    , altRun := [], deadLinks := [], deadOwn := [], fseqOwn := 0, fseqSeen := [], violNow := [], quiet := []
    , portMap := [], spareMap := [], oports := [], badSpares := [], fan := [], meshWait := [], trainQ := []
    , heatMove := [], heatTemp := [], recalling := [], recalDue := [], iodVer := [2, 2, 2, 2], dmods := []
    , steer := [], steerLast := [], movedFlows := [], drCred := [], drPart := [], drOwed := [], drQueue := [], attached := [], wdTimes := []
    , rsbOut := [], rsbRid := [], epochs := [], rldJobs := [], rlc := [], homeQ := [], replies := []
    , selfRsp := [], dma := [], colGrps := [], colSites := [], colWait := [], colTurn := [], off := false, porst := false
    , jobs := [], jqLast := 3, holds := [], drainRun := none, flash := [], commits := [], otpGold := 0xF0
    , otpOwner := 0, ownerKeys := [], svnFloor := 0, runSvn := 0, update := none, nonce := none, dieMiss := []
    , pwrFail := false, vin := true, perst := false, cfg := [], aer := 0, tapIr := .idcode, scan := none
    , rails := Rails.reset, regl := Regl.reset, therm := Therm.reset, stretch := [], escEnd := [], pkgParams := []
  }

end Sys2Proof.Machine
end

