-- ==== Sys2Proof/Machine/Ops.lean ====
section
/-! DEFINITION. The named operations over registers, memory, cores, events and the journal. -/

namespace Sys2Proof.Machine

/-! ### Registers (R9, R11, R13) -/

/-- The stored value of the register at a BAR0 offset. -/
def State.reg (s : State) (off : Nat) : W64 := Tab.get 0 off s.regs

/-- Store a register. -/
def State.setReg (s : State) (off : Nat) (v : W64) : State := { s with regs := Tab.put 0 off v s.regs }

/-- A field of a register. -/
def State.rf (s : State) (off lo len : Nat) : Nat := fld (s.reg off) lo len

/-- Set a field of a register. -/
def State.setRf (s : State) (off lo len v : Nat) : State := s.setReg off (setFld (s.reg off) lo len v)

/-- A bit of a register. -/
def State.rbit (s : State) (off i : Nat) : Bool := bit (s.reg off) i

/-- Set a bit of a register. -/
def State.setRbit (s : State) (off i : Nat) (b : Bool) : State := s.setReg off (setBit (s.reg off) i b)

/-- Add to a counter field, saturating (R13). -/
def State.bump (s : State) (off lo len n : Nat) : State := s.setRf off lo len (satAdd len (s.rf off lo len) n)

/-- Write the fields of a mask (an RW write, R11). -/
def State.rwReg (s : State) (off : Nat) (m v : W64) : State := s.setReg off (mergeMask m (s.reg off) v)

/-- Add a message to what has left the part. -/
def State.send (s : State) (o : Out) : State := { s with out := s.out ++ [o] }

/-- A value the spec leaves open: nothing constrains it (log 2). -/
def State.fresh (s : State) : State := { s with freeIx := s.freeIx + 1 }

/-- `n` bytes that the spec leaves open; `fresh` follows each use. -/
def State.freeBytes (s : State) (n : Nat) : Bytes := toBytes n (Config.freeBits (8 * n) s.freeIx).toNat

/-! Block bases (R399). -/

def rBoot (o : Nat) : Nat := o
def rCrn (o : Nat) : Nat := 0x100000 + o
def rEvc (o : Nat) : Nat := 0x200000 + o
def rPwr (o : Nat) : Nat := 0x300000 + o
def rThm (o : Nat) : Nat := 0x400000 + o
def rHbm (st o : Nat) : Nat := 0x500000 + 0x8000 * st + o
def rD2d (g o : Nat) : Nat := 0x600000 + 0x1000 * g + o
def rOpt (i o : Nat) : Nat := 0x700000 + 0x40000 * i + o
def rFab (o : Nat) : Nat := 0x800000 + o
def rRsb (i o : Nat) : Nat := 0x900000 + 0x20000 * i + o
def rRlc (o : Nat) : Nat := 0x980000 + o
def rCol (o : Nat) : Nat := 0xA00000 + o
def rDma (d o : Nat) : Nat := 0xB00000 + 0x40000 * d + o
def rCore (c o : Nat) : Nat := 0x1000000 + 0x40000 * c + o

/-! ### What is mounted (R1-R3) -/

/-- Compute die d is mounted (R2) and has power: a die whose rails are off answers as one not mounted (log 45). -/
def State.hasDie (s : State) (d : Nat) : Bool :=
  !s.off && match s.grade with
  | .msn2216 => d == 0 || d == 2
  | _ => d < 4

/-- Position i holds an attached endpoint, no I/O die (R268, R448). -/
def State.endpointAt (s : State) (i : Nat) : Bool := nth 0 s.iodVer i == 3

/-- I/O die i is mounted (R2) and has power. -/
def State.hasIo (s : State) (i : Nat) : Bool :=
  !s.off && !s.endpointAt i && match s.grade with
  | .msn4432 | .msn4416 => i < 4
  | _ => i == 0 || i == 2

/-- Stack st is mounted (R2): in 16-stack grades the local stacks 0 to 3 of each mounted die. For MSN-2216 that gives 8 stacks, where
Tables 2 and 4 (R1, R31) give 16: the model follows R2 and R224 (log 85). -/
def State.hasStack (s : State) (st : Nat) : Bool :=
  s.hasDie (st / 8) && (match s.grade with | .msn4416 | .msn2216 => st % 8 < 4 | _ => true)

/-- Core c is mounted (R18). -/
def State.hasCore (s : State) (c : Nat) : Bool := s.hasDie (c / 16)

/-- Port p is mounted (R18). -/
def State.hasPort (s : State) (p : Nat) : Bool := s.hasIo (p / 8)

/-- The package is in Midnight: PWR_STATUS shows it (R33, R388). -/
def State.midnight (s : State) : Bool := s.rf (rPwr 0x18) 30 2 == 3

/-- D2D group g is present (R20): 0 and 1 the rows, 2 and 3 the columns, 4 + d the I/O group of die d. -/
def State.hasGroup (s : State) (g : Nat) : Bool :=
  if g < 4 then s.hasDie 1 || g == 2 else s.hasDie (g - 4) && (s.hasIo (g - 4) || s.endpointAt (g - 4))

/-- The I/O die that serves a compute die: its own, or its row neighbour's where that is not mounted or its group is down
(R22, R261). -/
def State.ioOf (s : State) (d : Nat) : Nat :=
  let n := if d % 2 = 0 then d + 1 else d - 1
  if s.hasIo d && s.rf (rD2d (4 + d) 0) 61 3 != 4 then d else if s.hasIo n then n else d

/-! ### Cores -/

/-- Core c. -/
def State.core (s : State) (c : Nat) : Core := Tab.get Core.reset c s.cores

/-- Store core c. -/
def State.setCore (s : State) (c : Nat) (k : Core) : State := { s with cores := Tab.put Core.reset c k s.cores }

/-- Change core c. -/
def State.modCore (s : State) (c : Nat) (f : Core → Core) : State := s.setCore c (f (s.core c))

/-- Scalar register n; s0 reads zero (R127). -/
def Core.s (k : Core) (n : Nat) : W64 := if n = 0 then 0 else Tab.get 0 n k.sreg

/-- Write a scalar register; writes to s0 are ignored (R127). -/
def Core.setS (k : Core) (n : Nat) (v : W64) : Core := if n = 0 then k else { k with sreg := Tab.put 0 n v k.sreg }

/-- Semaphore n. -/
def Core.semVal (k : Core) (n : Nat) : Nat := (Tab.get 0 n k.sem).toNat

/-- Set a semaphore. -/
def Core.setSem (k : Core) (n v : Nat) : Core := { k with sem := Tab.put 0 n (BitVec.ofNat 16 v) k.sem }

/-- A queue of a core. -/
def Core.queue (k : Core) : Queue → List QEntry
  | .dma => k.qDma | .mx => k.qMx | .vx => k.qVx | .cx => k.qCx | .sx => k.qSx

/-- Replace a queue of a core. -/
def Core.setQueue (k : Core) (q : Queue) (l : List QEntry) : Core :=
  match q with
  | .dma => { k with qDma := l } | .mx => { k with qMx := l } | .vx => { k with qVx := l }
  | .cx => { k with qCx := l } | .sx => { k with qSx := l }

/-- Queue depths (R122). -/
def queueDepth : Queue → Nat
  | .dma => 16 | .mx => 8 | .vx => 16 | .cx => 32 | .sx => 16

/-- Queue numbers of CORE_FAULT and QSTAT (R146, R168). -/
def queueNum : Queue → Nat
  | .dma => 0 | .mx => 1 | .vx => 2 | .cx => 3 | .sx => 4

/-- The queue of an instruction (R122). -/
def QIns.queue : QIns → Queue
  | .dmaTd _ => .dma | .dmaList _ => .dma
  | .mx _ _ => .mx
  | .vx _ _ => .vx | .vt _ _ => .vx
  | .sx _ _ => .sx | .pmark _ _ => .sx
  | .col _ _ => .cx | .rsb _ _ => .cx | .msg _ _ => .cx

/-- The synchronisation block of an instruction (R154). -/
def QIns.sync : QIns → Sync
  | .dmaTd f => f.sync | .dmaList f => f.sync | .mx _ f => f.sync | .vx _ f => f.sync | .vt _ f => f.sync
  | .sx _ f => f.sync | .pmark _ f => f.sync | .col _ f => f.sync | .rsb _ f => f.sync | .msg _ f => f.sync

/-- A queue holds instructions: CORE_STATUS busy (R149). -/
def Core.busy (k : Core) (q : Queue) : Bool :=
  !(k.queue q).isEmpty || k.started.any (fun r => r.entry.ins.queue == q) || (q == .mx && !k.mxRuns.isEmpty)

/-- Some queue holds instructions. -/
def Core.anyBusy (k : Core) : Bool := k.busy .dma || k.busy .mx || k.busy .vx || k.busy .cx || k.busy .sx

/-! ### Events (R406-R411) -/

/-- Whether a chapter assigns source n to a mounted part (R406, R411). -/
def State.srcLive (s : State) (n : Nat) : Bool :=
  if n < 512 then s.hasCore (n / 8)
  else if n < 640 then s.hasStack ((n - 512) / 4)
  else if n < 768 then s.hasPort ((n - 640) / 4)
  else if n < 832 then s.hasGroup ((n - 768) / 8)
  else if n < 848 then (n < 842 || 846 ≤ n || s.hasDie (n - 842))
  else if n < 896 then false
  else if n < 960 then s.hasDie ((n - 896) / 16)
  else n < 980 || (992 ≤ n && n < 1024)

def State.evcPend (s : State) (n : Nat) : Bool := s.rbit (rEvc (0x2000 + 8 * (n / 64))) (n % 64)
def State.evcRaw (s : State) (n : Nat) : Bool := s.rbit (rEvc (0x2180 + 8 * (n / 64))) (n % 64)
def State.setPend (s : State) (n : Nat) (b : Bool) : State := s.setRbit (rEvc (0x2000 + 8 * (n / 64))) (n % 64) b
def State.setRaw (s : State) (n : Nat) (b : Bool) : State := s.setRbit (rEvc (0x2180 + 8 * (n / 64))) (n % 64) b
def State.evcSense (s : State) (n : Nat) : Nat := s.rf (rEvc (8 * n)) 28 3

/-- A pending source that is enabled and delivered to host vector v (R410). -/
def State.srcOnVec (s : State) (v n : Nat) : Bool :=
  s.evcPend n && s.rbit (rEvc (8 * n)) 31 && s.rf (rEvc (8 * n)) 20 4 == 10 && s.rf (rEvc (8 * n)) 0 5 == v

/-- Some enabled source of vector v is pending: EVC_VEC_PEND (R410). -/
def State.vecPend (s : State) (v : Nat) : Bool := (List.range 1024).any (s.srcOnVec v)

/-- Send vector v if it is armed and not masked, and disarm it; a masked vector sets its pending bit (R410). -/
def State.sendVec (s : State) (v : Nat) : State :=
  if s.rbit (rEvc 0x3100) v then
    if s.rbit (rCrn (0x8008 + 16 * v)) 32 then s.setRbit (rCrn 0x9000) v true
    else
      let t := (s.setRbit (rCrn 0x9000) v false).setRbit (rEvc 0x3100) v false
      t.send (.msix v (s.reg (rCrn (0x8000 + 16 * v))) (bits (s.reg (rCrn (0x8008 + 16 * v))) 0 32))
  else s

/-- Deliver source n if it is pending on a host vector (R410). -/
def State.deliver (s : State) (n : Nat) : State :=
  let v := s.rf (rEvc (8 * n)) 0 5
  if s.srcOnVec v n then s.sendVec v else s

/-- Make source n pending and deliver it. -/
def State.fire (s : State) (n : Nat) : State := (s.setPend n true).deliver n

/-- A pulse on source n: edges only (R407, R408). -/
def State.pulse (s : State) (n : Nat) : State :=
  if s.srcLive n && 2 ≤ s.evcSense n && s.evcSense n ≤ 5 then s.fire n else s

/-- The level of source n's input becomes b (R407, Table 3). -/
def State.setLevel (s : State) (n : Nat) (b : Bool) : State :=
  if s.srcLive n then
    let was := s.evcRaw n
    let t := s.setRaw n b
    let held := hasNat s.evcHeld n
    match s.evcSense n with
    | 0 => if b || held then (if s.evcPend n then t else t.fire n) else t.setPend n false
    | 1 => if !b || held then (if s.evcPend n then t else t.fire n) else t.setPend n false
    | 2 => if b && !was then t.fire n else t
    | 3 => if !b && was then t.fire n else t
    | 4 => if b != was then t.fire n else t
    | 5 => if b && !was then t.fire n else t
    | _ => t
  else s

/-! ### Journal (R452, R453) -/

/-- CRN_TIME (R405). -/
def State.time (s : State) : W64 := s.reg (rCrn 0x8)

/-- Raise a journal record: it joins the backlog. An absorbed record is dropped and counted when 256 are waiting (R452). -/
def State.journalPut (s : State) (kind cls uclass unit : Nat) (detail : Bytes) : State :=
  if cls = 0 ∧ 256 ≤ s.backlog.length then { s with jDropped := s.jDropped + 1 }
  else
    { s with backlog := s.backlog ++ [⟨0, s.rf (rBoot 0x10) 0 32, s.time, unit, uclass, cls, kind, detail⟩] }

/-- A field of the fault map changes: gen advances and the time is taken (R457). -/
def State.mapChange (s : State) : State := { s with mapGen := s.mapGen + 1, mapTime := s.time }

/-! ### Memory (R40-R42) -/

/-- Where a device-local address lies (R40): `hbm` stack and offset, `store` core and offset, `regs` BAR0 offset. -/
inductive Region where
  | hbm (st off : Nat)
  | store (c off : Nat)
  | regs (off : Nat)
  | hole
  deriving DecidableEq, Repr

/-- Decode a device-local address, whatever is mounted (R40). -/
def region (a : Nat) : Region :=
  if a < 0x40000000000 then
    if a % 0x2000000000 < 0x1FC0000000 then .hbm (a / 0x2000000000) (a % 0x2000000000) else .hole
  else if a < 0x40080000000 then
    let o := a - 0x40000000000
    if o % 0x2000000 < 0x1800000 then .store (o / 0x2000000) (o % 0x2000000) else .hole
  else if 0x50000000000 ≤ a ∧ a < 0x50004000000 then .regs (a - 0x50000000000)
  else .hole

/-- The device-local address of byte `off` of core c's store. -/
def storeAddr (c off : Nat) : Nat := 0x40000000000 + 0x2000000 * c + off

/-- The device-local address of byte `off` of a stack. -/
def hbmAddr (st off : Nat) : Nat := 0x2000000000 * st + off

/-- HBM or a core store that is mounted, at this address (R41). -/
def State.populated (s : State) (a : Nat) : Bool :=
  match region a with
  | .hbm st _ => s.hasStack st
  | .store c _ => s.hasCore c
  | _ => false

/-- The controller of stack st. -/
def State.stack (s : State) (st : Nat) : Stack := Tab.get Stack.reset st s.ctls

/-- Change the controller of stack st. -/
def State.modStack (s : State) (st : Nat) (f : Stack → Stack) : State :=
  { s with ctls := Tab.put Stack.reset st (f (s.stack st)) s.ctls }

/-- HBM_STATUS.state (R228). -/
def State.hbmState (s : State) (st : Nat) : Nat := s.rf (rHbm st 0) 29 3

/-- An address whose part answers as dead: a stack in MAINT or FAILED, a lost block, a dead die (R205, R221, R226, R450). -/
def State.dead (s : State) (a : Nat) : Bool :=
  match region a with
  | .hbm st off =>
    s.hbmState st == 3 || s.hbmState st == 5 || hasNat (s.stack st).lost (off / 4096) || hasNat s.deadDies (st / 8)
  | .store c _ => hasNat s.deadDies (c / 16)
  | _ => false

/-- An address that holds data. -/
def State.live (s : State) (a : Nat) : Bool := s.populated a && !s.dead a

/-- One byte of memory; an unlisted, unpopulated or dead address reads zero (R41, R221, R226). -/
def State.byte (s : State) (a : Nat) : Byte := if s.live a then Tab.get 0 a s.mem else 0

/-- Canonical form of memory: addresses strictly rising, no zero byte listed. -/
abbrev Memory.wf (m : List Host.Cell) : Bool := Tab.wf (0 : Byte) m

/-- `n` bytes from address a. -/
def State.read (s : State) (a n : Nat) : Bytes := (List.range n).map fun i => s.byte (a + i)

/-- The little-endian number of `n` bytes at a. -/
def State.readN (s : State) (a n : Nat) : Nat := ofBytes (s.read a n)

/-- Write one byte; an unpopulated or dead address drops it (R41, R213, R226). -/
def State.putByte (s : State) (a : Nat) (b : Byte) : State :=
  if s.live a then { s with mem := Tab.put 0 a b s.mem } else s

/-- Write bytes in ascending address. -/
def State.poke (s : State) (a : Nat) : Bytes → State
  | [] => s
  | b :: bs => (s.putByte a b).poke (a + 1) bs

end Sys2Proof.Machine
end

