-- ==== Sys2Proof/Machine/Operands.lean ====
section
/-! DEFINITION. Operand forms: tensor and chain descriptors (R159-R167), element addresses (R160-R162), element reads and
writes in the core store, sequencer offsets (R170). -/

namespace Sys2Proof.Machine

/-! ### Tensor descriptors (R159) -/

/-- A tensor descriptor, field by field (R159). -/
structure TD where
  base    : Nat
  fmt     : Nat
  mx      : Bool
  scaleTd : Nat
  row     : Nat
  col     : Nat
  e0      : Nat
  e1      : Nat
  e2      : Nat
  e3      : Nat
  s1      : Nat
  s2      : Nat
  s3      : Nat
  deriving DecidableEq, Repr

/-- The fields of 512 descriptor bits (R159). -/
def TD.ofBits (w : BitVec 512) : TD :=
  { base := fld w 448 64, fmt := fld w 443 5, mx := bit w 442, scaleTd := fld w 436 6, row := fld w 408 24,
    col := fld w 384 24, e0 := fld w 352 32, e1 := fld w 320 32, e2 := fld w 288 32, e3 := fld w 256 32,
    s1 := fld w 208 48, s2 := fld w 160 48, s3 := fld w 112 48 }

/-- Place and width of the field that TDSET and TDADD select; field 1 is the format word (R171). -/
def tdField (code : Nat) : Option (Nat × Nat) :=
  match code with
  | 0 => some (448, 64) | 2 => some (408, 24) | 3 => some (384, 24) | 4 => some (352, 32) | 5 => some (320, 32)
  | 6 => some (288, 32) | 7 => some (256, 32) | 8 => some (208, 48) | 9 => some (160, 48) | 10 => some (112, 48)
  | _ => none

/-- The element format of a descriptor. -/
def TD.format (t : TD) : Fmt := (Fmt.ofCode t.fmt).getD .fp32

/-- colbytes(c) of R160. -/
def colBytes (f : Fmt) (c : Nat) : Nat := if f.width = 6 then 3 * (c / 4) else c * f.width / 8

/-- Address of element (r, c) at positions i2, i3 (R160); r and c are coordinates. -/
def TD.addr (t : TD) (r c i2 i3 : Nat) : Nat :=
  (t.base + i3 * t.s3 + i2 * t.s2 + r * t.s1 + colBytes t.format c) % 2 ^ 64

/-- Whether coordinates lie within the extents (R161). -/
def TD.within (t : TD) (r c i2 i3 : Nat) : Bool := r < t.e1 && c < t.e0 && i2 < t.e2 && i3 < t.e3

/-- Bytes that hold one element or its packed group (R47). -/
def cellBytes (f : Fmt) : Nat := if f.width = 6 then 3 else if f.width = 4 then 1 else f.width / 8

/-- The bit offset of column c within its cell (R47). -/
def cellShift (f : Fmt) (c : Nat) : Nat :=
  if f.width = 6 then 6 * (c % 4) else if f.width = 4 then 4 * (c % 2) else 0

/-! ### Counting silent violations (R41, R147) -/

/-- Count core c's silent violations at these addresses, in order; the event is raised once, at the threshold (R147). -/
def State.coreViol (s : State) (c : Nat) (addrs : List Nat) : State :=
  match addrs with
  | [] => s
  | a :: _ =>
    let old := s.rf (rCore c 0x28) 0 32
    let t := if old = 0 then s.setReg (rCore c 0x30) (BitVec.ofNat 64 a) else s
    let t := t.bump (rCore c 0x28) 0 32 addrs.length
    let thr := s.rf (rCore c 0x38) 0 32
    if thr ≠ 0 ∧ old < thr ∧ thr ≤ t.rf (rCore c 0x28) 0 32 then t.pulse (8 * c + 3) else t

/-! ### Element accesses of a core's own store (R160, R161) -/

/-- Whether `n` bytes at a device-local address lie in core c's own store. -/
def ownStore (c a n : Nat) : Bool :=
  match region a with
  | .store c' off => c' == c && off + n ≤ 0x1800000
  | _ => false

/-- The raw bits of element (r, c) of a tile (R161): zero outside the extents or outside the core's own store. The list
holds the violating address, if any. -/
def State.elemAt (s : State) (core : Nat) (t : TD) (r c : Nat) : Nat × List Nat :=
  let f := t.format
  let a := t.addr r c 0 0
  if t.within r c 0 0 && ownStore core a (cellBytes f) then
    ((s.readN a (cellBytes f) >>> cellShift f c) % 2 ^ f.width, [])
  else (0, [a])

/-- Write the raw bits of element (r, c); dropped and counted outside (R161). -/
def State.putElem (s : State) (core : Nat) (t : TD) (r c raw : Nat) : State :=
  let f := t.format
  let a := t.addr r c 0 0
  if t.within r c 0 0 && ownStore core a (cellBytes f) then
    let old := s.readN a (cellBytes f)
    let m := (2 ^ f.width - 1) <<< cellShift f c
    let new := (old - (old &&& m)) + ((raw % 2 ^ f.width) <<< cellShift f c)
    s.poke a (toBytes (cellBytes f) new)
  else s.coreViol core [a]

/-- The coordinates of the scale element of an MX element (R162); `kRows` when K runs along rows. -/
def scaleCoord (kRows : Bool) (r c : Nat) : Nat × Nat := if kRows then (r / 32, c) else (r, c / 32)

/-- The value of element (r, c) of a plain or MX operand (R48, R162), and violating addresses. -/
def State.elemVal (s : State) (core : Nat) (t : TD) (sc : TD) (kRows : Bool) (r c : Nat) : XV × List Nat :=
  let e := s.elemAt core t r c
  if t.mx then
    let q := scaleCoord kRows r c
    let x := s.elemAt core { sc with fmt := 13 } q.1 q.2
    (mxValue t.format x.1 e.1, e.2 ++ x.2)
  else (decodeElem t.format false e.1, e.2)

/-! ### Captured operands of a queue entry (R128) -/

/-- A scalar register as it was at issue. -/
def QEntry.s (e : QEntry) (n : Nat) : W64 := if n = 0 then 0 else Tab.get 0 n e.sregs

/-- A tensor descriptor as it was at issue. -/
def QEntry.td (e : QEntry) (n : Nat) : TD := TD.ofBits (Tab.get 0 n e.tds)

/-- A chain descriptor as it was at issue. -/
def QEntry.cd (e : QEntry) (n : Nat) : BitVec 1024 := Tab.get 0 n e.cds

/-- The scale descriptor of a tensor descriptor. -/
def QEntry.scaleOf (e : QEntry) (t : TD) : TD := e.td t.scaleTd

/-- A tensor descriptor is a format error by itself (R163, first five cases). -/
def QEntry.tdBad (e : QEntry) (t : TD) : Bool :=
  match Fmt.ofCode t.fmt with
  | none => true
  | some f =>
    (t.mx && (!f.hasMx || (e.scaleOf t).fmt != 13 || (e.scaleOf t).mx))
      || (f.width == 4 && t.col % 2 == 1)
      || (f.width == 6 && (t.col % 4 != 0 || t.e0 % 4 != 0))

/-! ### Scalar operands -/

/-- A sign-extended imm32. -/
def imm (w : BitVec 32) : W64 := w.signExtend 64

/-- The second operand b of a scalar instruction (R169). -/
def scalB (f : ScalF) (k : Core) : W64 := if f.imm then imm f.imm32 else k.s f.sb.toNat

/-- The second operand of a branch (R168). -/
def ctrlB (f : CtrlF) (k : Core) : W64 := if f.imm then imm f.imm32 else k.s f.sb.toNat

/-- The operand v of a descriptor instruction (R171). -/
def descV (f : DescF) (k : Core) : W64 := if f.imm then imm f.imm32 else k.s f.sa.toNat

/-- The operand v of a chain instruction (R172). -/
def chainV (f : ChainF) (k : Core) : W64 := if f.imm then imm f.imm32 else k.s f.sa.toNat

/-- The core-store offset of a sequencer load or store (R170). -/
def seqOffset (k : Core) (sa : BitVec 5) (imm32 : BitVec 32) : Nat := (k.s sa.toNat + imm imm32).toNat

end Sys2Proof.Machine
end

