-- ==== Sys2Proof/Machine/Flags.lean ====
section
/-! DEFINITION. Flags and status: semaphore signals (R131), completion status and numeric flags (R141-R143), core faults
(R144, R146) and the wait rules (R129, R130). -/

namespace Sys2Proof.Machine

/-- Every meaning of this model answers a next state. -/
def ret (s : State) : Host.Outcome State Fault Refusal := .next s

/-! ### Run state and its level events (R148, R149) -/

/-- Core c enters a run state; sources 8c and 8c + 1 follow (R148). -/
def State.setRun (s : State) (c : Nat) (r : RunState) : State :=
  let t := s.modCore c fun k => { k with run := r }
  (t.setLevel (8 * c) (r == .faulted)).setLevel (8 * c + 1) (r == .stopped)

/-! ### Signals (R131) -/

/-- Signal semaphore `sem` of core c by `inc`; past 65,535 it saturates, sets sem_saturated and raises the event. -/
def State.signal (s : State) (c sem inc : Nat) : State :=
  let v := (s.core c).semVal sem
  if v + inc ≤ 65535 then s.modCore c fun k => k.setSem sem (v + inc)
  else ((s.modCore c fun k => k.setSem sem 65535).setRbit (rCore c 0x8) 24 true).pulse (8 * c + 4)

/-- Apply the signal set of an instruction (R129, R132); increments to one semaphore add together (R131, R187). -/
def State.signals (s : State) (c : Nat) (y : Sync) : State :=
  if y.s0sem = y.s1sem then
    (if y.s0inc.toNat + y.s1inc.toNat = 0 then s else s.signal c y.s0sem.toNat (y.s0inc.toNat + y.s1inc.toNat))
  else
    let t := if y.s0inc = 0 then s else s.signal c y.s0sem.toNat y.s0inc.toNat
    if y.s1inc = 0 then t else t.signal c y.s1sem.toNat y.s1inc.toNat

/-! ### Phase marks (R140) -/

/-- HCLK cycles since reset: one in ten of CRN_TIME (R37). -/
def State.hclk (s : State) : Nat := s.time.toNat / 10

/-- A held mark is delivered once 1 µs has passed without another. -/
def Core.markDue (k : Core) (now : Nat) : Core :=
  match k.markHeld with
  | some (p, t) => if t + 100 ≤ now then { k with phase := p, markAt := t, markHeld := none } else k
  | none => k

/-- Marks that are due reach the Regulator. -/
def State.marksDue (s : State) : State := iter 64 (fun c t => t.modCore c fun k => k.markDue s.hclk) s

/-! ### Waits (R129, R130) -/

/-- The wait set as semaphores and counts; two entries on one semaphore are summed (R129). -/
def waitSet (y : Sync) : List (Nat × Nat) :=
  let a := (y.w0sem.toNat, y.w0cnt.toNat)
  let b := (y.w1sem.toNat, y.w1cnt.toNat)
  if a.1 = b.1 then (if a.2 + b.2 = 0 then [] else [(a.1, a.2 + b.2)])
  else (if a.2 = 0 then [] else [a]) ++ (if b.2 = 0 then [] else [b])

/-- Every semaphore of a wait set holds at least its count. -/
def Core.satisfied (k : Core) (ws : List (Nat × Nat)) : Bool := ws.all fun w => w.2 ≤ k.semVal w.1

/-- The waiters of a core in force: heads of its queues that have not taken counts, semaphore-paced
transfers (R243), and a sequencer wait (R130). -/
def Core.waiters (k : Core) : List (Nat × List (Nat × Nat)) :=
  let heads := ((k.qDma.take 1) ++ (if k.mxCounts then [] else k.qMx.take 1) ++ (k.qVx.take 1) ++ (k.qCx.take 1)
    ++ (k.qSx.take 1)).map (fun e => (e.seq, waitSet e.ins.sync)) ++ k.paced.map fun w => (w.seq, [(w.sem, w.count)])
  match k.swait with
  | some w => (w.seq, [(w.sem, w.count)]) :: heads
  | none => heads

/-- An instruction issued at `seq` may take its counts now (R129, R130): they are all there, and no earlier-issued waiter names one of
its semaphores (log 58). -/
def Core.mayTake (k : Core) (seq : Nat) (ws : List (Nat × Nat)) : Bool :=
  k.satisfied ws && !k.waiters.any fun p => p.1 < seq && p.2.any fun a => ws.any fun b => a.1 == b.1

/-- Subtract the counts, as one action (R129). -/
def Core.take (k : Core) (ws : List (Nat × Nat)) : Core := ws.foldl (fun k w => k.setSem w.1 (k.semVal w.1 - w.2)) k

/-! ### Faults (R144-R146) -/

/-- Discard what a core has issued and not started (R144, R150). Counts already taken are not returned (R129). -/
def Core.discard (k : Core) : Core :=
  { k with qDma := [], qMx := [], qVx := [], qCx := [], qSx := [], heldIns := none, swait := none, mxCounts := false,
           staging := none, staged := none }

/-- A core fault (R144): issue ends, unstarted instructions are discarded; only the first is recorded. -/
def State.coreFault (s : State) (c cause queue pc detail : Nat) : State :=
  let k := s.core c
  if k.fault.isSome || k.run == .faulted || k.run == .resetting then s
  else
    (s.modCore c fun k => { k.discard with fault := some ⟨cause, queue, pc, detail⟩, stopCause := .fault }).setRun c
      .stopping

/-- The core fault of a parity error found by an access of queue `queue` at `pc` (R127, R146). -/
def State.parityFault (s : State) (c queue pc : Nat) (p : Parity) : State :=
  match p with
  | .store unit => s.coreFault c 3 queue pc (unit % 2 ^ 32)
  | .acc array row => s.coreFault c 4 queue pc ((array % 4) * 2 ^ 30 + row % 256)
  | .prog => (s.modCore c fun k => { k with badProg := pc :: k.badProg }).coreFault c 5 queue pc 0
  | .state => s.coreFault c 6 queue pc 0
  | .other core unit => if s.hasCore core then s.coreFault core 3 6 0 (unit % 2 ^ 32) else s

/-- The core-store unit whose parity an engine's read found wrong, with its core: the core's own that it reads for, or another's
(R146). -/
def parityAt (p : Parity) (c : Nat) : Option (Nat × Nat) :=
  match p with
  | .store u => some (c, u)
  | .other d u => some (d, u)
  | _ => none

/-- The violations that a faulting access would have counted are counted (R152): `r` is the state after that access. -/
def State.keepViol (s : State) (c : Nat) (r : State) : State :=
  s.coreViol c (List.replicate (r.rf (rCore c 0x28) 0 32 - s.rf (rCore c 0x28) 0 32) (r.reg (rCore c 0x30)).toNat)

/-! ### Completion (R141-R143) -/

/-- Record a completion in CORE_QSTAT of the queue and in CORE_NUMFLAGS (R142, R143). -/
def State.recordStatus (s : State) (c : Nat) (q : Queue) (code pc : Nat) (fl : NumFlags) : State :=
  let r := rCore c (0x80 + 8 * queueNum q)
  let counted := code ≠ 0 ∧ code ≠ 1
  let old := s.rf r 0 32
  let t := s.setRf r 32 4 (s.rf r 32 4 ||| fl.toNat)
  let t := if counted ∧ old = 0 then (t.setRf r 56 8 code).setRf r 36 14 pc else t
  let t := if counted then t.bump r 0 32 1 else t
  t.setRf (rCore c 0x20) 0 4 (t.rf (rCore c 0x20) 0 4 ||| fl.toNat)

/-- A started instruction's work is done with a status (R132): INSTR_COMPLETE may then complete it. -/
def State.finish (s : State) (c seq code : Nat) (fl : NumFlags) : State :=
  s.modCore c fun k => { k with started := k.started.map fun r =>
    if r.entry.seq = seq then { r with finished := true, code := code, flags := r.flags.or fl } else r }

end Sys2Proof.Machine
end

