-- ==== Sys2Proof/Machine/Crc.lean ====
section
/-! DEFINITION. The cyclic checks of the spec: CRC-64 of blocks (R212) and journal records (R453), CRC-16 of link headers
(R300), CRC-32C of packets (R303). -/

namespace Sys2Proof

/-- One bit of a CRC that shifts left: the top bit decides the XOR. -/
def crcShl {n : Nat} (poly r : BitVec n) : BitVec n := if r.msb then (r <<< 1) ^^^ poly else r <<< 1

/-- One bit of a reflected CRC. -/
def crcShr {n : Nat} (poly r : BitVec n) : BitVec n := if r.getLsbD 0 then (r >>> 1) ^^^ poly else r >>> 1

/-- A CRC that takes each byte most significant bit first. -/
def crcMsb {n : Nat} (poly : BitVec n) (init : BitVec n) (l : Bytes) : BitVec n :=
  l.foldl (fun r b => iter 8 (fun _ x => crcShl poly x) (r ^^^ ((b.setWidth n : BitVec n) <<< (n - 8)))) init

/-- A CRC that takes each byte least significant bit first; `poly` is the polynomial with its bits reversed. -/
def crcLsb {n : Nat} (poly : BitVec n) (init : BitVec n) (l : Bytes) : BitVec n :=
  l.foldl (fun r b => iter 8 (fun _ x => crcShr poly x) (r ^^^ (b.setWidth n : BitVec n))) init

/-- The CRC of R212, without its substitutions. -/
def crc64 (l : Bytes) : W64 := crcMsb (0x42F0E1EBA9EA3693 : W64) 0 l

/-- The check word stored for a block's bytes (R212). -/
def sealOf (l : Bytes) : W64 :=
  let c := crc64 l
  if c = 0 then 1 else if c = 0xFFFFFFFFFFFFFFFF then 0xFFFFFFFFFFFFFFFE else c

/-- hcrc of R300. -/
def crc16 (l : Bytes) : BitVec 16 := crcMsb (0x1021 : BitVec 16) 0xFFFF l

/-- CRC-32C of R303. -/
def crc32c (l : Bytes) : BitVec 32 := ~~~ (crcLsb (0x82F63B78 : BitVec 32) 0xFFFFFFFF l)

end Sys2Proof
end

