-- ==== Sys2Proof/Machine/Packet.lean ====
section
/-! DEFINITION. Packets and frames of the fabric: headers, checks, channels (12_fabric.md). -/

namespace Sys2Proof

/-! ### Fabric IDs (R43) and packets (R301, R303) -/

def fidDial (f : BitVec 16) : Nat := fld f 10 6
def fidPos (f : BitVec 16) : Nat := fld f 0 10
def posX (p : Nat) : Nat := p % 32
def posY (p : Nat) : Nat := p / 32 % 32

/-- The packet header as a number of 256 bits (R301); `fixed` takes the fields that change in transit as zero (R303). -/
def Packet.header (k : Packet) (fixed : Bool) : Nat :=
  let v (x : Nat) : Nat := if fixed then 0 else x
  let w7 := (k.kind % 16) * 2 ^ 28 + (k.pclass % 8) * 2 ^ 25 + v (k.phase % 4) * 2 ^ 23 + k.syn.toNat * 2 ^ 22 + k.len % 2 ^ 13
  let w6 := v (k.hops % 256) * 2 ^ 24 + v (k.wpy % 32) * 2 ^ 19 + v (k.wpx % 32) * 2 ^ 14 + (k.srcIo % 4) * 2 ^ 12
    + (k.dstIo % 4) * 2 ^ 10 + v k.wpv.toNat * 2 ^ 9
  let w5 := k.dst.toNat * 2 ^ 16 + k.src.toNat
  w7 * 2 ^ 224 + w6 * 2 ^ 192 + w5 * 2 ^ 160 + k.seq.toNat * 2 ^ 128 + k.body.toNat

/-- The trailer's CRC-32C (R303). -/
def Packet.check (k : Packet) : BitVec 32 := crc32c (toBytes 32 (k.header true) ++ k.payload.take k.len)

/-- Fill the trailer. -/
def Packet.closed (k : Packet) : Packet := { k with crc := k.check }

/-- Flits of a frame with `len` bytes of payload (R299). -/
def flitsOf (len : Nat) : Nat := ceilDiv (52 + len) 256

/-- The channel a packet's phase selects (R304). -/
def Packet.vc (k : Packet) : Nat :=
  match k.phase with | 0 => k.pclass | 2 => 7 | _ => 6

/-- The parent class of a kind (R302); none for a reserved kind. -/
def kindClass (kind : Nat) : Option Nat :=
  match kind with
  | 1 => some 1 | 2 => some 2 | 3 => some 3 | 4 => some 3 | 5 => some 4 | 6 => some 5
  | 8 => some 0 | 9 => some 0 | 10 => some 0 | 11 => some 0 | _ => none

/-- The link header as a number of 128 bits (R300). -/
def Frame.header (f : Frame) (hcrc : BitVec 16) : Nat :=
  ((f.type % 16) * 2 ^ 28 + (f.vc % 8) * 2 ^ 25 + (f.nflit % 32) * 2 ^ 20) * 2 ^ 96
    + ((f.cr0vc % 8) * 2 ^ 29 + (f.cr0cnt % 2 ^ 13) * 2 ^ 16 + (f.cr1vc % 8) * 2 ^ 13 + f.cr1cnt % 2 ^ 13) * 2 ^ 64
    + hcrc.toNat

/-- hcrc of a link header: bytes 2 to 15 (R300). -/
def Frame.check (f : Frame) : BitVec 16 := crc16 ((toBytes 16 (f.header 0)).drop 2)

/-- The first 64 bytes of a frame (R316). -/
def Frame.first64 (f : Frame) : Bytes :=
  let l := toBytes 16 (f.header f.hcrc) ++ toBytes 32 (f.packet.header false) ++ f.packet.payload.take f.packet.len
  (l ++ List.replicate 64 0).take 64

/-- A packet with no content, to build others from. -/
def Packet.blank : Packet :=
  { kind := 0, pclass := 0, phase := 0, syn := false, len := 0, hops := 255, wpy := 0, wpx := 0, srcIo := 0, dstIo := 0,
    wpv := false, dst := 0, src := 0, seq := 0, body := 0, payload := [], crc := 0 }

/-- The port of a stream's packets among `n` (R310). -/
def Packet.pick (k : Packet) (ports : List Nat) : Nat :=
  let h := crc32c (toBytes 2 k.src.toNat ++ toBytes 2 k.dst.toNat ++ toBytes 1 k.srcIo ++ toBytes 1 k.dstIo ++ toBytes 1 k.pclass)
  nth 0 ports (h.toNat % ports.length)

/-- Words 0 to 62 of an identity flit (R277). -/
def IdFlit.image (f : IdFlit) : Bytes :=
  let w1 := f.fabricId.toNat * 2 ^ 16 + (f.port % 32) * 2 ^ 11 + (f.lane % 8) * 2 ^ 8 + f.reach.toNat * 2 ^ 7 + f.fanout.toNat * 2 ^ 6
    + (f.fanPort % 32) * 2 + f.remoteFault.toNat
  let w2 := f.txMap.toNat * 2 ^ 24 + f.nextMap.toNat * 2 ^ 16 + f.rxRemove.toNat * 2 ^ 8 + f.rxReady.toNat
  let w3 := f.retuneReq.toNat * 2 ^ 24 + f.seq.toNat * 2 ^ 16 + (f.fibre % 16) * 2 ^ 12
  toBytes 4 f.magic.toNat ++ toBytes 4 w1 ++ toBytes 4 w2 ++ toBytes 4 w3 ++ List.replicate 236 0

/-- The CRC-32C that word 63 of an identity flit must hold (R277). -/
def IdFlit.check (f : IdFlit) : BitVec 32 := crc32c f.image

/-- Fill word 63. -/
def IdFlit.closed (f : IdFlit) : IdFlit := { f with crc := f.check }

/-- A credit flit (R300). -/
def creditFlit (a n b m : Nat) : Frame :=
  let f : Frame := { type := 2, vc := 0, nflit := 1, cr0vc := a, cr0cnt := n, cr1vc := b, cr1cnt := m, hcrc := 0, bad := false,
                     packet := Packet.blank }
  { f with hcrc := f.check }

end Sys2Proof
end

