-- ==== Sys2Proof/Machine/Fabric.lean ====
section
/-! DEFINITION. The fabric (12_fabric.md): packets and frames, per-hop credits and arbitration, routing and detours, streams,
partner violations and fault notices. -/

namespace Sys2Proof.Machine

/-- The package's fabric ID (FAB_SELF). -/
def State.self (s : State) : BitVec 16 := bits (s.reg (rFab 0)) 0 16

/-- The fabric ID at a position of the package's own dial. -/
def State.dialFid (s : State) (pos : Nat) : BitVec 16 := BitVec.ofNat 16 (fidDial s.self * 1024 + pos % 1024)

/-! ### Ports and directions (R310, R316) -/

def rPort (p o : Nat) : Nat := rOpt (p / 8) (0x1000 + 0x100 * (p % 8) + o)
def rFabPort (p : Nat) : Nat := rFab (0x13000 + 8 * p)
def rFabEp (i o : Nat) : Nat := rFab (0x20000 + 0x100 * i + o)

/-- Port p behind its registers. -/
def State.oport (s : State) (p : Nat) : OPort := Tab.get OPort.reset p s.oports

/-- The lane maps of a port (R278, R295). -/
def State.txMap (s : State) (p : Nat) : BitVec 8 := bits (s.reg (rPort p 0)) 36 8
def State.rxMap (s : State) (p : Nat) : BitVec 8 := bits (s.reg (rPort p 0)) 28 8

/-- The lanes of a map, in ascending order. -/
def lanesOf (m : BitVec 8) : List Nat := (List.range 8).filter fun l => m.getLsbD l

/-- The lanes of `n` flits, the first being flit `slot` after an identity boundary: dealt round robin over the map; an interval holds
2,559 of each lane, and what lies beyond it goes by the map of the next (R276, R278). -/
def dealt (now next : BitVec 8) (slot n : Nat) : List Nat :=
  (List.range n).map fun i =>
    let l := lanesOf now
    let m := lanesOf next
    if slot + i < 2559 * l.length then nth 0 l ((slot + i) % l.length) else nth 0 m ((slot + i - 2559 * l.length) % m.length)

/-- Port p transmits nothing but its identity flits: its mesh settles, or it is in a fan-out (R287, R289). -/
def State.meshed (s : State) (p : Nat) : Bool :=
  hasNat s.meshWait p || (match Tab.get none (p / 8) s.fan with | some x => x.1 == p || x.2 == p | none => false)

/-- Port p is UP (R281). -/
def State.portUp (s : State) (p : Nat) : Bool := s.hasPort p && s.rf (rPort p 0) 61 3 == 3

/-- Port p is quarantined. -/
def State.quar (s : State) (p : Nat) : Bool := s.rbit (rFabPort p) 60

/-- The UP ports of a direction that a packet may take: quarantined ports carry management only (R310, R316). -/
def State.dirPorts (s : State) (dir : Nat) (mgmt : Bool) : List Nat :=
  (List.range 32).filter fun p => s.portUp p && s.rf (rFabPort p) 61 3 == dir && (mgmt || !s.quar p)

/-- The direction dimension order takes from one position to another: 1 +x, 2 −x, 3 +y, 4 −y, 0 none (R310). -/
def dimDir (a b : Nat) : Nat :=
  if posX a < posX b then 1 else if posX b < posX a then 2
  else if posY a < posY b then 3 else if posY b < posY a then 4 else 0

/-- The neighbour's position in a direction. -/
def stepPos (p dir : Nat) : Nat :=
  match dir with
  | 1 => p + 1 | 2 => p - 1 | 3 => p + 32 | 4 => p - 32 | _ => p

/-- The packages after `a` on the dimension-order route to `b`, with the direction left by each (R313). -/
def dimRoute : Nat → Nat → Nat → List (Nat × Nat)
  | 0, _, _ => []
  | fuel + 1, a, b =>
    let d := dimDir a b
    if d = 0 then [] else (a, d) :: dimRoute fuel (stepPos a d) b

/-- The hall ports to a dial (R314). -/
def State.hallPorts (s : State) (dial : Nat) (mgmt : Bool) : List Nat :=
  (s.dirPorts 5 mgmt).filter fun p => s.rf (rPort p 0) 10 6 == dial

/-! ### Routing (R310-R314) -/

/-- Where a packet goes. -/
inductive Route where
  | here
  | out (ports : List Nat) (k : Packet)
  | drop
  deriving DecidableEq, Repr

/-- One dimension-order leg toward a position. -/
def State.leg (s : State) (k : Packet) (pos : Nat) : Route :=
  match s.dirPorts (dimDir (fidPos s.self) pos) (k.pclass == 0) with
  | [] => .drop
  | l => .out l k

/-- The classes that a hall link carries: management, messages and triggers, collective chunks (R314). -/
def hallClass (c : Nat) : Bool := c == 0 || c == 3 || c == 4

/-- Toward a gateway position, or over a hall link at the gateway itself (R314). -/
def State.hallLeg (s : State) (k : Packet) (gw dial : Nat) : Route :=
  if !hallClass k.pclass then .drop
  else if gw = fidPos s.self then
    match s.hallPorts dial (k.pclass == 0) with
    | [] => .drop
    | l => .out l { k with phase := 3 }
  else s.leg k gw

/-- The router's choice (R310, R312, R314); `fromHall`: the packet has just crossed a hall link. -/
def State.route (s : State) (k : Packet) (fromHall : Bool) : Route :=
  let me := fidPos s.self
  let goal := fidPos k.dst
  let e := s.reg (rFab (0x10000 + 8 * goal))
  let alt := bit e 30
  let use := bit e 29
  let way : Packet := { k with wpy := fld e 5 5, wpx := fld e 0 5, wpv := true }
  let wp (q : Packet) : Nat := q.wpy * 32 + q.wpx
  let from2 (q : Packet) : Route := s.leg { q with phase := 2 } goal
  if k.dst = s.self then .here
  else if fidDial k.dst = fidDial s.self then
    match k.phase with
    | 0 =>
      match (if use then Route.drop else s.leg k goal) with
      | .drop =>
        if alt then (if wp way = me then from2 way else s.leg { way with phase := 1 } (wp way)) else .drop
      | r => r
    | 1 => if wp k = me then from2 k else s.leg k (wp k)
    | 2 => s.leg k goal
    | _ =>
      if k.wpv then (if wp k = me then from2 k else if use && !fromHall then .drop else s.leg k (wp k))
      else if use then
        (if fromHall && alt then (if wp way = me then from2 way else s.leg way (wp way)) else .drop)
      else s.leg k goal
  else if k.phase ≠ 0 then .drop
  else
    let h := s.reg (rFab (0x12000 + 8 * fidDial k.dst))
    let gw := fld h 0 10
    let ag := fld h 10 10
    let first := if bit h 29 && bit h 30 then Route.drop else if bit h 31 then s.hallLeg k gw (fidDial k.dst) else .drop
    match first with
    | .drop => if bit h 30 then s.hallLeg k ag (fidDial k.dst) else .drop
    | r => r

/-! ### Credits (R306) -/

/-- Flits reserved for a channel at an input (R304). -/
def reservedFlits (vc : Nat) : Nat := if vc = 0 then 32 else 64

/-- Flits granted or held of a channel at an input: a port, or a crossing between two I/O dies. -/
def State.lent (s : State) (p vc : Nat) : Nat := Tab.get 0 (8 * p + vc) s.granted + Tab.get 0 (8 * p + vc) s.occ

/-- Room left in the shared pool of an input port. -/
def State.poolRoom (s : State) (p : Nat) : Nat :=
  4128 - ((List.range 8).map fun v => s.lent p v - reservedFlits v).sum

/-- Grant a channel of an input port its free reserved part, and up to one frame of the pool, in a credit flit (R306, log 31); a port
that may not transmit grants later (R287, R289). -/
def State.grantVc (s : State) (p vc : Nat) (pool : Bool) : State :=
  let own := reservedFlits vc - s.lent p vc
  let extra := if pool then Nat.min 17 (s.poolRoom p) else 0
  if own + extra = 0 || s.meshed p then s
  else ({ s with granted := Tab.upd 0 (8 * p + vc) (· + (own + extra)) s.granted }).send
    (.frame p [] (creditFlit vc (own + extra) 0 0))

/-- Flits leave the buffer of an input; a port's credits return in a credit flit, a crossing's room is free at once (R306). -/
def State.release (s : State) (f : RFrame) : State :=
  if 32 ≤ f.inp && f.inp < 36 then s
  else
    let t := { s with occ := Tab.upd 0 (8 * f.inp + f.vc) (· - flitsOf f.k.len) s.occ }
    if t.portUp f.inp && f.inp < 32 then t.grantVc f.inp f.vc true else t

/-- A port comes UP: its credit state starts over and each channel is granted its reserved part (R306). -/
def State.creditStart (s : State) (p : Nat) : State :=
  let t := { s with granted := Tab.clear (8 * p) 8 s.granted, txCred := Tab.clear (8 * p) 8 s.txCred }
  (List.range 8).foldl (fun t v => t.grantVc p v false) t

/-- Credits returned by a frame or a credit flit (R300). -/
def State.takeCredits (s : State) (p : Nat) (f : Frame) : State :=
  let t := if f.cr0cnt = 0 then s else { s with txCred := Tab.upd 0 (8 * p + f.cr0vc % 8) (· + f.cr0cnt) s.txCred }
  if f.cr1cnt = 0 then t else { t with txCred := Tab.upd 0 (8 * p + f.cr1vc % 8) (· + f.cr1cnt) t.txCred }

/-! ### Entering the router -/

/-- The I/O die whose endpoint a packet enters: the one that serves compute die dst_io (R301, R310). -/
def State.endpointOf (s : State) (k : Packet) : Nat := s.ioOf k.dstIo

/-- The I/O die in whose router a frame waits. -/
def RFrame.io (f : RFrame) : Nat :=
  if f.inp < 32 then f.inp / 8 else if f.inp < 36 then f.inp - 32 else (f.inp - 36) % 4

/-- The output port of a frame and the packet as it leaves there. -/
def State.exit (s : State) (f : RFrame) : Option (Nat × Packet) :=
  match s.route f.k f.hall with
  | .out ports k => some (k.pick ports, k)
  | _ => none

/-- The crossing that a frame must take when its output lies on another I/O die: the input it makes there, and its channel (R306). -/
def State.crossing (s : State) (f : RFrame) : Option (Nat × Nat) :=
  match s.exit f with
  | some (p, k) => if p / 8 = f.io then none else some (36 + 4 * f.io + p / 8, k.vc)
  | none => none

/-- Room of a crossing for a frame: its channel's reserved part, then the pool, as at a port (R306). -/
def State.crossRoom (s : State) (x vc n : Nat) : Bool := n ≤ (reservedFlits vc - s.lent x vc) + s.poolRoom x

/-- Frames of the router, in order: those that must cross to another I/O die do so while it has room, none before an earlier one of its
crossing and channel (R305, R306). `stay` and `moved` collect what has been looked at. -/
def State.crossAll : List RFrame → List (Nat × Nat) → List RFrame → List RFrame → State → State
  | [], _, stay, moved, s => { s with router := stay ++ moved }
  | f :: fs, stuck, stay, moved, s =>
    match s.crossing f with
    | none => State.crossAll fs stuck (stay ++ [f]) moved s
    | some (x, vc) =>
      if !stuck.any (· == (x, vc)) && s.crossRoom x vc (flitsOf f.k.len) then
        let t := { s with occ := Tab.upd 0 (8 * x + vc) (· + flitsOf f.k.len) s.occ }
        State.crossAll fs stuck stay (moved ++ [{ f with inp := x, vc := vc }]) (t.release f)
      else State.crossAll fs ((x, vc) :: stuck) (stay ++ [f]) moved s

/-- Let frames cross between the I/O dies. -/
def State.cross (s : State) : State := State.crossAll s.router [] [] [] s

/-- A packet at a router: for this package it waits at its endpoint; without a way on it is dropped (R310-R314). -/
def State.place (s : State) (f : RFrame) : State :=
  match s.route f.k f.hall with
  | .here => ({ s with arrived := s.arrived ++ [(s.endpointOf f.k, f.k)] }).release f
  | .drop => s.release f
  | .out _ _ => { s with router := s.router ++ [f] }

/-- A packet enters the router of its input's I/O die, and crosses to its output's when it can. -/
def State.enterRouter (s : State) (f : RFrame) : State := (s.place f).cross

/-- Inject a packet of this package at an I/O die. -/
def State.injectRaw (s : State) (io : Nat) (k : Packet) : State := s.enterRouter ⟨32 + io, k.vc, false, s.time, k⟩

/-- Send a VC0 packet (R302, R308). -/
def State.sendVc0 (s : State) (io kind : Nat) (dst : BitVec 16) (dstIo : Nat) (body : Nat) (payload : Bytes) : State :=
  let k : Packet := { Packet.blank with kind := kind, dst := dst, src := s.self, srcIo := io, dstIo := dstIo,
                                        body := BitVec.ofNat 128 body, payload := payload, len := payload.length }
  s.injectRaw io k.closed

/-! ### Journal records without a byte layout -/

/-- A journal record whose detail the spec names without a layout: its bytes are open (log 32). -/
def State.journalOpen (s : State) (kind cls uclass unit : Nat) : State :=
  (s.journalPut kind cls uclass unit (s.freeBytes 36)).fresh

/-! ### Fault notices and alternates (R313) -/

/-- A dead link lies on the dimension-order route from this package to a position of the dial. -/
def State.crosses (s : State) (l : DeadLink) (goal : Nat) : Bool :=
  l.dir < 4 && (dimRoute 64 (fidPos s.self) goal).any fun h => h.1 == l.pos && h.2 == l.dir + 1

/-- use_alt of every route and hall entry: as the run-time set it, or for a dead link the device still holds (R313, R314,
R317). Keys of `altRun`: position, or 1,024 + dial. -/
def State.applyAlts (s : State) : State :=
  let t := iter 1024 (fun n t =>
    let r := rFab (0x10000 + 8 * n)
    let dev := t.deadLinks.any fun l => t.crosses l n && (l.pos != fidPos t.self || t.rbit r 31)
    let want := hasNat t.altRun n || dev
    if t.rbit r 29 = want then t else t.setRbit r 29 want) s
  iter 64 (fun d t =>
    let r := rFab (0x12000 + 8 * d)
    let dev := t.deadLinks.any fun l => l.dir == 4 && l.dial == d && t.rf r 0 10 == l.pos
    let want := hasNat t.altRun (1024 + d) || dev
    if t.rbit r 29 = want then t else t.setRbit r 29 want) t

/-- Record a dead link, or forget it when it is up again. -/
def State.noteLink (s : State) (l : DeadLink) (up : Bool) : State :=
  ({ s with deadLinks := if up then s.deadLinks.filter (· != l)
                         else if s.deadLinks.any (· == l) then s.deadLinks else l :: s.deadLinks }).applyAlts

/-- FAB_FAULT_LOG takes the first fault since it was read (R12, R318); every fault is journalled. -/
def State.logFault (s : State) (origin : BitVec 16) (fseq dir dial : Nat) (up : Bool) : State :=
  let v := 2 ^ 63 + up.toNat * 2 ^ 62 + (dir % 8) * 2 ^ 59 + (dial % 64) * 2 ^ 53 + (fseq % 65536) * 2 ^ 16 + origin.toNat
  let t := if s.rbit (rFab 0x100) 63 then s else s.setReg (rFab 0x100) (BitVec.ofNat 64 v)
  t.journalOpen 0x50 2 0 0

/-- FAULT packets to every live neighbour but one (R313); the origin stays in src. -/
def State.spreadFault (s : State) (origin : BitVec 16) (fseq dir dial : Nat) (up : Bool) (notTo : Nat) : State :=
  [1, 2, 3, 4].foldl (fun t d =>
    match t.dirPorts d true with
    | p :: _ =>
      if d = notTo then t
      else
        let body := (fseq % 65536) * 2 ^ 112 + (dir % 8) * 2 ^ 109 + up.toNat * 2 ^ 108 + (dial % 64) * 2 ^ 102
        let k : Packet := { Packet.blank with
          kind := 11, dst := t.dialFid (stepPos (fidPos t.self) d), src := origin, srcIo := p / 8,
          body := BitVec.ofNat 128 body }
        t.injectRaw (p / 8) k.closed
    | [] => t) s

/-- This package finds a direction dead, or live again (R313). -/
def State.ownFault (s : State) (dir dial : Nat) (up : Bool) : State :=
  let t := s.noteLink ⟨fidPos s.self, dir, dial⟩ up
  let t := { t with fseqOwn := (t.fseqOwn + 1) % 65536 }
  (t.spreadFault t.self t.fseqOwn dir dial up 0).logFault t.self t.fseqOwn dir dial up

/-- The directions with an UP port: 0 to 3, and 5 + dial for the hall links to a dial (R313, R314). -/
def State.liveDirs (s : State) : List Nat :=
  (List.range 4).filter (fun d => !(s.dirPorts (d + 1) true).isEmpty)
    ++ ((List.range 64).filter fun d => !(s.hallPorts d true).isEmpty).map (5 + ·)

/-- A direction of this package as a FAULT packet names it: dir, and the dial of a hall. -/
def State.dirFault (s : State) (d : Nat) (up : Bool) : State := if d < 4 then s.ownFault d 0 up else s.ownFault 4 (d - 5) up

/-- A direction dies: reported once (R313). -/
def State.dirDies (s : State) (d : Nat) : State :=
  if hasNat s.deadOwn d then s else ({ s with deadOwn := d :: s.deadOwn }).dirFault d false

/-- After a port's state has changed: of the directions that were live `before`, those that have lost their last UP port are dead; dead
ones that have an UP port again are live (R313). -/
def State.portsChanged (s : State) (before : List Nat) : State :=
  let live := s.liveDirs
  let t := (before.filter fun d => !hasNat live d).foldl State.dirDies s
  (live.filter fun d => hasNat s.deadOwn d).foldl (fun t d =>
    ({ t with deadOwn := t.deadOwn.filter (· != d) }).dirFault d true) t

/-- A FAULT packet (R303, R313, R317): applied, logged and forwarded when newer than the last of its origin. `fromDir` is the
direction it came from, 0 unknown. -/
def State.faultIn (s : State) (k : Packet) (fromDir : Nat) : State :=
  let fseq := fld k.body 112 16
  let dir := fld k.body 109 3
  let up := bit k.body 108
  let dial := fld k.body 102 6
  let pos := fidPos k.src
  let isNew := match Tab.get none pos s.fseqSeen with
    | none => true
    | some f => let d := (fseq + 65536 - f) % 65536; 0 < d && d < 32768
  if isNew && k.src != s.self && k.crc == k.check then
    let t := ({ s with fseqSeen := Tab.put none pos (some fseq) s.fseqSeen }).noteLink ⟨pos, dir, dial⟩ up
    (t.spreadFault k.src fseq dir dial up fromDir).logFault k.src fseq dir dial up
  else s

/-! ### Partner violations (R316) -/

/-- The first condition of Table 6 that a frame meets. -/
def State.violation (s : State) (p : Nat) (f : Frame) : Option Nat :=
  let k := f.packet
  if f.hcrc ≠ f.check || !(f.type == 1 || f.type == 2) || (f.type == 1 && (f.nflit == 0 || 17 < f.nflit)) then some 1
  else if f.type = 2 then none
  else if Tab.get 0 (8 * p + f.vc) s.granted < f.nflit then some 2
  else if 4096 < k.len || f.nflit ≠ flitsOf k.len then some 3
  else if kindClass k.kind ≠ some k.pclass then some 4
  else if f.vc ≠ k.vc then some 5
  else if s.rf (rFabPort p) 61 3 = 5 && !hallClass k.pclass then some 6
  else none

/-- Start of a quarantine (R316). -/
def State.quarStart (s : State) (p : Nat) : State :=
  (((s.setRbit (rFabPort p) 60 true).mapChange).journalOpen 0x51 2 6 p)

/-- Count a violation of port p and answer it (R316). -/
def State.violate (s : State) (p cause : Nat) (f : Frame) : State :=
  let t := s.bump (rFabPort p) 0 32 1
  let n := Tab.get 0 p t.violNow + 1
  let t := { t with violNow := Tab.put 0 p n t.violNow }
  let t := if 1000 < n && !t.quar p then t.quarStart p else t
  t.sendVc0 (p / 8) 10 (bits (t.reg (rPort p 0)) 0 16) 0 (cause * 2 ^ 120 + (p % 32) * 2 ^ 115) f.first64

/-- Flits `slot` on of an interval reach the receiver of port p as good: dealt to lanes it has verified, and in no interval whose map
came without notice (R276, R293). -/
def State.flitsGood (s : State) (p slot n : Nat) : Bool :=
  let o := s.oport p
  o.badIval.isNone && o.pTx != 0 && (dealt o.pTx o.pNext slot n).all fun l => bit o.rxReady l

/-- A frame at an input port, its first flit being flit `slot` after an identity boundary (R293, R299, R300, R304, R309, R316). -/
def State.frameIn (s : State) (p slot : Nat) (f : Frame) : State :=
  if !s.portUp p || f.bad || f.type == 0 || !s.flitsGood p slot (if f.type = 1 then f.nflit else 1) then s
  else if s.quar p && !(f.type == 2 || f.vc == 0) then s
  else
    match s.violation p f with
    | some cause => (if cause = 1 then s else s.takeCredits p f).violate p cause f
    | none =>
      let t := s.takeCredits p f
      if f.type = 2 then t
      else
        let i := 8 * p + f.vc
        let t := { t with granted := Tab.upd 0 i (· - f.nflit) t.granted, occ := Tab.upd 0 i (· + f.nflit) t.occ }
        let hall := s.rf (rFabPort p) 61 3 == 5
        let r : RFrame := ⟨p, f.vc, hall, s.time, f.packet⟩
        if f.packet.hops = 0 then t.release r
        else if f.packet.kind = 11 && f.packet.dst = s.self then
          (t.release r).faultIn f.packet (if hall then 0 else s.rf (rFabPort p) 61 3)
        else t.enterRouter r

/-! ### Sending frames (R305) -/

/-- An ACK or NACK of this package that has had no VC0 credits for 1 µs: it is not sent (R308). -/
def State.late (s : State) (f : RFrame) : Bool :=
  (f.k.kind == 8 || f.k.kind == 9) && f.k.src == s.self && 1000 < (s.time - f.born).toNat
    && match s.exit f with
      | some (p, k) => p / 8 != f.io || Tab.get 0 (8 * p + k.vc) s.txCred < flitsOf k.len
      | none => false

/-- Frames choose their way again: without one they are dropped, for this package they arrive; what waits for a crossing crosses; late
ACKs and NACKs go (R308, R312, R317). -/
def State.reroute (s : State) : State :=
  let t := (s.router.foldl (fun (t : State) f => t.place f) { s with router := [] }).cross
  (t.router.filter t.late).foldl (fun u f => u.release f) { t with router := t.router.filter fun f => !t.late f }

/-- Place in the router, entry, and packet as it would leave by port p, of every frame that is ready there (R305). -/
def State.ready (s : State) (p : Nat) : List (Nat × RFrame × Packet) :=
  ((List.range s.router.length).zip s.router).filterMap fun x =>
    match s.exit x.2 with
    | some (o, k) =>
      if o = p && x.2.io == p / 8 && flitsOf k.len ≤ Tab.get 0 (8 * p + k.vc) s.txCred then some (x.1, x.2, k) else none
    | none => none

/-- The frame a channel offers: round robin over its inputs after the last served, the oldest of the input (R305). -/
def Arb.offer (a : Arb) (vc : Nat) (l : List (Nat × RFrame × Packet)) : Option (Nat × RFrame × Packet) :=
  let mine := l.filter fun x => x.2.2.vc == vc
  let last := Tab.get 0 vc a.lastIn
  let order := ((List.range 52).map fun i => (last + i) % 52)
  order.findSome? fun i => mine.find? fun x => x.2.1.inp == i

/-- The frame a class offers: of its parent channel and the detours of its class, the earliest arrival (R305). -/
def Arb.classOffer (a : Arb) (c : Nat) (l : List (Nat × RFrame × Packet)) : Option (Nat × RFrame × Packet) :=
  let mine := l.filter fun x => x.2.2.pclass == c
  ([c, 6, 7].filterMap fun v => a.offer v mine).foldl (fun m x =>
    match m with | some y => if x.1 < y.1 then some x else some y | none => some x) none

/-- Deficit round robin over classes 1 to 5 with quanta `q` (R305). -/
def Arb.serve (q : List Nat) (l : List (Nat × RFrame × Packet)) : Nat → Arb → Option ((Nat × RFrame × Packet) × Arb)
  | 0, _ => none
  | fuel + 1, a =>
    let c := a.cur % 5
    let next := (c + 1) % 5
    let pass (d : Nat) : Arb :=
      let ds := setNth a.deficit c d
      { a with deficit := setNth ds next (nth 0 ds next + nth 0 q next), cur := next }
    match a.classOffer (c + 1) l with
    | some x =>
      let d := nth 0 a.deficit c
      if flitsOf x.2.2.len ≤ d then some (x, { a with deficit := setNth a.deficit c (d - flitsOf x.2.2.len) })
      else Arb.serve q l fuel (pass d)
    | none => Arb.serve q l fuel (pass 0)

/-- Quanta of an output port: weight × 17 flits (R305, R318). -/
def State.quanta (s : State) : List Nat := (List.range 5).map fun i => 17 * Nat.max 1 (s.rf (rFab 0x10) (8 * i) 8)

/-- The frames ready at port p that it may carry: VC0 alone in quarantine (R316); bundle p of a fan-out only collective frames, with
credits of both links (R289). -/
def State.eligible (s : State) (p : Nat) : List (Nat × RFrame × Packet) :=
  let l := s.ready p
  let l := if s.quar p then l.filter (fun x => x.2.2.vc == 0) else l
  match Tab.get none (p / 8) s.fan with
  | some x =>
    if x.1 = p then
      l.filter fun (y : Nat × RFrame × Packet) => y.2.2.vc == 4 && flitsOf y.2.2.len ≤ Tab.get 0 (8 * x.2 + 4) s.txCred
    else if x.2 = p then [] else l
  | none => l

/-- The frame that port p sends next, and its arbiter after the choice: management first, then deficit round robin (R305). -/
def State.arbitrate (s : State) (p : Nat) : Option ((Nat × RFrame × Packet) × Arb) :=
  let l := s.eligible p
  let a := Tab.get Arb.reset p s.arb
  match ([0, 6, 7].filterMap fun v => a.offer v (l.filter fun x => x.2.2.pclass == 0)).head? with
  | some x => some (x, a)
  | none => a.serve s.quanta (l.filter fun x => x.2.2.pclass != 0) 40

/-- The chunk for the second receiver of a fan-out: the same payload waits at port q for another destination (R361). -/
def State.twin (s : State) (q : Nat) (k : Packet) : Option (Nat × RFrame × Packet) :=
  (s.ready q).find? fun y => y.2.2.kind == 5 && y.2.2.vc == 4 && y.2.2.payload == k.payload && y.2.2.len == k.len
    && (y.2.2.dst != k.dst || y.2.2.dstIo != k.dstIo)

/-- The frame that carries a packet over its next link; hops is decremented (R301). -/
def frameOf (k : Packet) : Frame :=
  let f : Frame := { type := 1, vc := k.vc, nflit := flitsOf k.len, cr0vc := 0, cr0cnt := 0, cr1vc := 0, cr1cnt := 0, hcrc := 0,
                     bad := false, packet := { k with hops := k.hops - 1 } }
  { f with hcrc := f.check }

/-- A chosen frame leaves by port p, whole, from flit `slot` of the interval on (R276, R306). In a fan-out it leaves on both links and
debits both (R289); where the same chunk waits for the second receiver, that one leaves by port q (log 70). -/
def State.sendFrame (s : State) (p slot : Nat) (x : Nat × RFrame × Packet) (a : Arb) : State :=
  let k := x.2.2
  let n := flitsOf k.len
  let lanes := dealt (s.txMap p) ((s.oport p).announced.getD (s.txMap p)) slot n
  let pair : Option Nat := (Tab.get none (p / 8) s.fan).bind fun q => if q.1 = p then some q.2 else none
  let twin : Option (Nat × RFrame × Packet) := pair.bind fun q => s.twin q k
  let gone : List Nat := x.1 :: (match twin with | some y => [y.1] | none => [])
  let t := { s with router := (s.router.zipIdx.filter fun (r : RFrame × Nat) => !hasNat gone r.2).map fun (r : RFrame × Nat) => r.1,
                    arb := Tab.put Arb.reset p { a with lastIn := Tab.put 0 k.vc ((x.2.1.inp + 1) % 52) a.lastIn } s.arb,
                    txCred := Tab.upd 0 (8 * p + k.vc) (· - n) s.txCred }
  let t := t.send (.frame p lanes (frameOf k))
  let t := match pair with
    | some q => ({ t with txCred := Tab.upd 0 (8 * q + k.vc) (· - n) t.txCred }).send
        (.frame q lanes (frameOf (match twin with | some y => y.2.2 | none => k)))
    | none => t
  let t := t.release x.2.1
  (match twin with | some y => t.release y.2.1 | none => t).cross

/-- FRAME_SEND (R305, R306): port p sends the frame its arbitration chooses, its first flit as flit `slot` after the identity boundary; a
port whose mesh settles waits (R287). -/
def execFrameSend (a : PortSlot) (s : State) : Host.Outcome State Fault Refusal :=
  let t := s.reroute
  ret (if t.portUp a.port && !hasNat t.meshWait a.port then
      match t.arbitrate a.port with
      | some (x, r) => t.sendFrame a.port a.slot x r
      | none => t
    else t)

/-- Send the VC0 frames that are ready at port p, up to `fuel` (R313, R388); the flit slots are open (log 2). -/
def State.flushVc0 (p : Nat) : Nat → State → State
  | 0, s => s
  | fuel + 1, s =>
    match s.arbitrate p with
    | some (x, a) =>
      if s.portUp p && !hasNat s.meshWait p && x.2.2.vc == 0 then
        State.flushVc0 p fuel ((s.sendFrame p (Config.freeBits 14 s.freeIx).toNat x a).fresh)
      else s
    | none => s

/-- FRAME_RX (R299-R316). -/
def execFrameRx (x : PortSlot) (f : Frame) (s : State) : Host.Outcome State Fault Refusal := ret (s.frameIn x.port x.slot f)

/-- CREDIT_FLIT_RX (R300). -/
def execCreditFlitRx (x : PortSlot) (f : Frame) (s : State) : Host.Outcome State Fault Refusal :=
  ret (s.frameIn x.port x.slot { f with type := 2 })

/-- FRAME_AGE_DROP (R309): the frame at place `ix` of input p has waited 1 ms. -/
def execFrameAgeDrop (p ix : Nat) (s : State) : Host.Outcome State Fault Refusal :=
  match (((List.range s.router.length).zip s.router).filter fun x => x.2.inp == p)[ix]? with
  | some x => ret ((({ s with router := s.router.eraseIdx x.1 }).release x.2).cross)
  | none => ret s

/-- FAULT (R313): a FAULT packet received on port p. -/
def execFault (p : Nat) (k : Packet) (s : State) : Host.Outcome State Fault Refusal :=
  ret (if s.hasPort p && k.kind == 11 then
    s.faultIn k (if s.rf (rFabPort p) 61 3 = 5 then 0 else s.rf (rFabPort p) 61 3) else s)

/-- End of a quarantine (R316). -/
def State.quarEnd (s : State) (p : Nat) : State :=
  if s.quar p then
    let t := { s with quiet := Tab.put 0 p 0 s.quiet }
    ((t.setRbit (rFabPort p) 60 false).mapChange).journalOpen 0x51 2 6 p
  else s

/-- VIOL_INTERVAL (R316): a 1 s interval of port p ends. -/
def execViolInterval (p : Nat) (s : State) : Host.Outcome State Fault Refusal :=
  if s.hasPort p then
    let n := Tab.get 0 p s.violNow
    let t := { s with violNow := Tab.put 0 p 0 s.violNow }
    if t.quar p then
      let q := if n < 10 then Tab.get 0 p t.quiet + 1 else 0
      if 10 ≤ q then ret (t.quarEnd p) else ret { t with quiet := Tab.put 0 p q t.quiet }
    else ret t
  else ret s

/-- CLR_QUAR (R316, R318). -/
def execClrQuar (p : Nat) (s : State) : Host.Outcome State Fault Refusal := ret (if s.hasPort p then s.quarEnd p else s)

/-- VNOTICE (R316): consumed on arrival (R308); the spec gives the receiver no further effect. -/
def execVnotice (io : Nat) (k : Packet) (s : State) : Host.Outcome State Fault Refusal :=
  ret { s with arrived := s.arrived.erase (io, k) }

/-! ### Streams (R307-R309) -/

/-- The number of a stream at an endpoint: I/O die, other endpoint, class, and for a receive stream the compute die it is for. A transmit
stream is told apart by dst_io, since the source does not know the destination's I/O dies (R301, log 87). -/
def streamNo (io : Nat) (key : StreamKey) : Nat :=
  (((io * 65536 + key.fid.toNat) * 4 + key.io % 4) * 8 + key.pclass % 8) * 4 + key.unit % 4

/-- The window of a class (R318). -/
def State.window (s : State) (c : Nat) : Nat :=
  let v := s.rf (rFab 8) (7 * (c - 1)) 7
  if v = 0 then 1 else Nat.min v 64

/-- Streams of an endpoint that hold an entry. -/
def State.txLive (s : State) (io : Nat) : Nat :=
  (s.fabTx.filter fun x => x.1 / 8388608 == io && (match x.2 with | some t => t.live | none => false)).length
def State.rxLive (s : State) (io : Nat) : Nat := (s.fabRx.filter fun x => x.1 / 8388608 == io && x.2.isSome).length

/-- FAB_EP_STREAMS follows the tables (R318). -/
def State.epStreams (s : State) (io : Nat) : State :=
  (s.setRf (rFabEp io 0x30) 16 16 (s.txLive io)).setRf (rFabEp io 0x30) 0 16 (s.rxLive io)

/-- a − b of sequence numbers modulo 2³². -/
def seqDist (a b : BitVec 32) : Nat := (a - b).toNat

/-- Send waiting packets of a stream while its window has room (R307). -/
def State.pump (s : State) (io no : Nat) (x : TxStream) : List (Packet × Client) → State × TxStream
  | [] => (s, { x with waiting := [] })
  | (k, cl) :: rest =>
    let open' := (x.sent.filter fun q => !q.acked).length
    if x.live && !s.pwrFail && open' < s.window k.pclass then
      let k := ({ k with seq := x.next, syn := x.syn }).closed
      let t := (s.bump (rFabEp io 0) 0 64 1).injectRaw io k
      t.pump io no { x with next := x.next + 1, sent := x.sent ++ [⟨k, 0, false, cl⟩] } rest
    else (s, { x with waiting := (k, cl) :: rest })

/-- Store a stream and send what its window lets it. -/
def State.pumpStream (s : State) (io no : Nat) (x : TxStream) : State :=
  let r := s.pump io no x x.waiting
  { r.1 with fabTx := Tab.put none no (some r.2) r.1.fabTx }

/-- PKT_LOST: counted, journalled (R307, R311, R314, R454). -/
def State.pktLost (s : State) (io : Nat) (k : Packet) (cause : Nat) : State :=
  let seq := if cause = 1 then k.seq.toNat else 0
  (s.bump (rFabEp io 0x20) 0 64 1).journalPut 0x52 1 8 io
    (toBytes 2 k.dst.toNat ++ toBytes 1 k.pclass ++ toBytes 1 cause ++ toBytes 4 seq ++ toBytes 1 io ++ List.replicate 27 0)

/-- A destination without a route (R311, R314): the cause of PKT_LOST. -/
def State.noRoute (s : State) (dst : BitVec 16) : Option Nat :=
  if fidDial dst = fidDial s.self then (if s.rbit (rFab (0x10000 + 8 * fidPos dst)) 31 then none else some 2)
  else
    let h := s.reg (rFab (0x12000 + 8 * fidDial dst))
    if bit h 31 || (bit h 30 && bit h 29) then none else some 3

/-- An engine injects a packet at an endpoint (R307, R311); a class that no hall link carries has no way to another dial (R314). The
second component is false when it was dropped for want of a
route. -/
def State.inject (s : State) (io : Nat) (k : Packet) (cl : Client) : State × Bool :=
  let k := { k with src := s.self, srcIo := io, hops := 255, phase := 0, wpv := false, wpy := 0, wpx := 0 }
  let stop := if fidDial k.dst ≠ fidDial s.self && !hallClass k.pclass then some 3 else s.noRoute k.dst
  match stop with
  | some cause => (s.pktLost io k cause, false)
  | none =>
    let no := streamNo io ⟨k.dst, k.dstIo, k.pclass, 0⟩
    match Tab.get none no s.fabTx with
    | some x => (s.pumpStream io no { x with waiting := x.waiting ++ [(k, cl)] }, true)
    | none =>
      let x : TxStream := { live := decide (s.txLive io < 8192), syn := true, next := Config.freeBits 32 s.freeIx, sent := [],
                            waiting := [(k, cl)] }
      (((s.fresh).pumpStream io no x).epStreams io, true)

/-- The transmit stream that an ACK or NACK from an endpoint is about: the one with that key, else another of its package and class, whose
numbers `fits` (R301, R307, log 87). -/
def State.txOf (s : State) (io : Nat) (k : Packet) (cls : Nat) (fits : TxStream → Bool) : Nat :=
  let nos := ([k.srcIo] ++ List.range 4).map fun d => streamNo io ⟨k.src, d, cls, 0⟩
  let ok (no : Nat) : Bool := match Tab.get none no s.fabTx with | some x => fits x | none => false
  (nos.find? ok).getD (streamNo io ⟨k.src, k.srcIo, cls, 0⟩)

/-- An ACK (R307): the stream afterwards and the packets that it covers in cum. -/
def State.ackIn (s : State) (io : Nat) (k : Packet) : State × List TxPkt :=
  let cum : BitVec 32 := bits k.body 96 32
  let map : BitVec 64 := bits k.body 32 64
  let cls := fld k.body 29 3
  let no := s.txOf io k cls fun x => seqDist x.next cum ≤ 64
  match Tab.get none no s.fabTx with
  | some x =>
    let below (q : TxPkt) : Bool := let d := seqDist cum q.k.seq; 0 < d && d < 2 ^ 31
    let inMap (q : TxPkt) : Bool := let d := seqDist q.k.seq cum; 0 < d && d ≤ 64 && bit map (d - 1)
    let keep := (x.sent.filter fun q => !below q).map fun q => if inMap q then { q with acked := true } else q
    (s.pumpStream io no { x with syn := false, sent := keep }, x.sent.filter below)
  | none => (s, [])

/-- Send a packet of a stream again (R307). -/
def State.again (s : State) (io : Nat) (k : Packet) : State :=
  (s.bump (rFabEp io 0x10) 0 64 1).injectRaw io { k with hops := 255, phase := 0, wpv := false, wpy := 0, wpx := 0 }

/-- NACK (R303, R308). -/
def execNack (io : Nat) (k : Packet) (s : State) : Host.Outcome State Fault Refusal :=
  let s := { s with arrived := s.arrived.erase (io, k) }
  if !(s.hasIo io && k.kind == 9 && k.crc == k.check) then ret s
  else if fld k.body 88 8 = 1 then ret (s.bump (rFabEp io 0x28) 32 16 1)
  else if fld k.body 88 8 = 2 then
    let t := s.bump (rFabEp io 0x28) 0 16 1
    let cls := fld k.body 85 3
    let no := t.txOf io k cls fun x => x.sent.any fun q => q.k.seq == bits k.body 96 32
    match Tab.get none no t.fabTx with
    | some x =>
      match findIx (fun q => !q.acked) x.sent with
      | some i =>
        match x.sent[i]? with
        | some q =>
          let k' := ({ q.k with syn := true }).closed
          ret (({ t with fabTx := Tab.put none no (some { x with sent := setNth x.sent i { q with k := k' } }) t.fabTx }).again io k')
        | none => ret t
      | none => ret t
    | none => ret t
  else ret s

/-- The resend timeout of a packet (R307): sent again, or given up; the packet given up is returned. -/
def State.resendOrGiveUp (s : State) (io : Nat) (key : StreamKey) (seq : BitVec 32) : State × Option TxPkt :=
  let no := streamNo io { key with unit := 0 }
  match Tab.get none no s.fabTx with
  | some x =>
    match findIx (fun q => q.k.seq == seq && !q.acked) x.sent with
    | some i =>
      match x.sent[i]? with
      | some q =>
        if q.resends < Nat.max 1 (s.rf (rFab 0x18) 32 8) then
          let x := { x with sent := setNth x.sent i { q with resends := q.resends + 1 } }
          (({ s with fabTx := Tab.put none no (some x) s.fabTx }).again io q.k, none)
        else
          ((s.pktLost io q.k 1).pumpStream io no { x with sent := x.sent.eraseIdx i }, some q)
      | none => (s, none)
    | none => (s, none)
  | none => (s, none)

/-- ACK of a receive stream (R307). -/
def State.sendAck (s : State) (io : Nat) (key : StreamKey) (x : RxStream) : State :=
  let map := (List.range 64).foldl (fun m j =>
    if x.held.any (fun q => seqDist q.seq x.cum == j + 1) then m + 2 ^ j else m) 0
  let t := s.sendVc0 io 8 key.fid key.io (x.cum.toNat * 2 ^ 96 + map * 2 ^ 32 + (key.pclass % 8) * 2 ^ 29) []
  { t with fabRx := Tab.put none (streamNo io key) (some { x with since := 0 }) t.fabRx }

/-- A NACK is sent (R308). -/
def State.sendNack (s : State) (io : Nat) (k : Packet) (cause : Nat) : State :=
  (s.bump (rFabEp io 0x28) (if cause = 1 then 48 else 16) 16 1).sendVc0 io 9 k.src k.srcIo
    (k.seq.toNat * 2 ^ 96 + cause * 2 ^ 88 + (k.pclass % 8) * 2 ^ 85) []

/-- ACK_TIMER (R307). -/
def execAckTimer (io : Nat) (key : StreamKey) (s : State) : Host.Outcome State Fault Refusal :=
  match Tab.get none (streamNo io key) s.fabRx with
  | some x => if 0 < x.since then ret (s.sendAck io key x) else ret s
  | none => ret s

/-- The run of packets that may be delivered from cum on, and the stream after them. -/
def RxStream.run : Nat → RxStream → RxStream × List Packet
  | 0, x => (x, [])
  | fuel + 1, x =>
    match x.held.find? fun q => q.seq == x.cum with
    | some q =>
      let r := RxStream.run fuel { x with cum := x.cum + 1, held := x.held.filter (fun y => y.seq != q.seq) }
      (r.1, q :: r.2)
    | none => (x, [])

/-- A sequenced packet at its destination endpoint (R303, R307-R309): the packets to deliver now, in order. `room` says
whether its engine has a buffer for it. -/
def State.acceptPacket (s : State) (io : Nat) (k : Packet) (room : Bool) : State × List Packet :=
  let key : StreamKey := ⟨k.src, k.srcIo, k.pclass, k.dstIo⟩
  let no := streamNo io key
  if k.crc ≠ k.check then (s, [])
  else
    match Tab.get none no s.fabRx with
    | none =>
      if !k.syn then (s.sendNack io k 2, [])
      else if 8192 ≤ s.rxLive io || !room then (s.sendNack io k 1, [])
      else
        let t := (s.bump (rFabEp io 8) 0 64 1)
        let x : RxStream := { cum := k.seq + 1, held := [], since := 1 }
        (({ t with fabRx := Tab.put none no (some x) t.fabRx }).epStreams io, [k])
    | some x =>
      let d := seqDist k.seq x.cum
      if 2 ^ 31 ≤ d || x.held.any (fun q => q.seq == k.seq) then
        ((s.bump (rFabEp io 0x18) 0 64 1).sendAck io key x, [])
      else if 64 ≤ d then (s, [])
      else if !room then (s.sendNack io k 1, [])
      else
        let r := RxStream.run 65 { x with held := x.held ++ [k], since := x.since + 1 }
        let t := s.bump (rFabEp io 8) 0 64 r.2.length
        let t := { t with fabRx := Tab.put none no (some r.1) t.fabRx }
        (if 16 ≤ r.1.since then t.sendAck io key r.1 else t, r.2)

/-- The first waiting stream of an endpoint takes a freed transmit entry. -/
def State.wakeStream (s : State) (io : Nat) : State :=
  match s.fabTx.find? fun x => x.1 / 8388608 == io && (match x.2 with | some t => !t.live | none => false) with
  | some (no, some x) => s.pumpStream io no { x with live := true }
  | _ => s

/-- STREAM_ENTRY_EXPIRY (R309): an entry idle for 1 s is freed when nothing is outstanding; with a receive entry for requests go the
replies cached for that requester (R327). -/
def execStreamEntryExpiry (io : Nat) (tx : Bool) (key : StreamKey) (s : State) : Host.Outcome State Fault Refusal :=
  let no := streamNo io (if tx then { key with unit := 0 } else key)
  if tx then
    match Tab.get none no s.fabTx with
    | some x =>
      if x.sent.all (·.acked) && x.waiting.isEmpty then
        ret ((({ s with fabTx := Tab.put none no none s.fabTx }).wakeStream io).epStreams io)
      else ret s
    | none => ret s
  else
    match Tab.get none no s.fabRx with
    | some x =>
      if x.held.isEmpty then
        let gone (r : Reply) : Bool :=
          (key.pclass == 1 || key.pclass == 5) && r.io == io && r.fid == key.fid && r.srcIo == key.io && r.unit == key.unit
        ret (({ s with fabRx := Tab.put none no none s.fabRx, replies := s.replies.filter fun r => !gone r }).epStreams io)
      else ret s
    | none => ret s

end Sys2Proof.Machine
end

