-- ==== Sys2Proof/Machine/Optics.lean ====
section
/-! DEFINITION. Optical ports, ring tuning, the laser tile and the meshes (11_optical_io.md). -/

namespace Sys2Proof.Machine

/-! ### A port's parts -/

def State.modPort (s : State) (p : Nat) (f : OPort → OPort) : State :=
  { s with oports := Tab.put OPort.reset p (f (s.oport p)) s.oports }
def OPort.lane (o : OPort) (l : Nat) : OLane := Tab.get OLane.reset l o.lanes
def OPort.setLane (o : OPort) (l : Nat) (x : OLane) : OPort := { o with lanes := Tab.put OLane.reset l x o.lanes }
def OPort.modLane (o : OPort) (l : Nat) (f : OLane → OLane) : OPort := o.setLane l (f (o.lane l))

/-- Bits set in a lane map. -/
def popcount {n : Nat} (w : BitVec n) : Nat := ((List.range n).filter fun i => w.getLsbD i).length

/-- Lanes a port may transmit: those whose channel has a source (R284, R285). -/
def State.sources (s : State) (i : Nat) : BitVec 8 := ~~~ (bits (s.reg (rOpt i 0)) 13 8)

/-- min_lanes of OPT_PORT_CTRL (R281, R295). -/
def State.minLanes (s : State) (p : Nat) : Nat := Nat.min 8 (Nat.max 1 (s.rf (rPort p 8) 20 4))

/-- The port's link controller acts: the die is mounted, its lasers at set point (R291, R294). -/
def State.portLive (s : State) (p : Nat) : Bool := s.hasPort p && s.rf (rOpt (p / 8) 0) 29 3 == 2

/-- UP, or DOWN for want of lanes, when the port goes on removing and recovering lanes (R281). -/
def State.inService (s : State) (p : Nat) : Bool :=
  s.rf (rPort p 0) 61 3 == 3 || (s.rf (rPort p 0) 61 3 == 1 && s.rf (rPort p 0) 58 3 == 3)

/-- The model temperature of an I/O die's photonic region, the first node of the die (R282, R380). -/
def State.photonic (s : State) (i : Nat) : Nat := Tab.get 0 (64 * (4 + i)) s.therm.nodes

/-- OPT_LANE_STAT state fields of a port (R295). -/
def State.laneStats (s : State) (p : Nat) : State :=
  iter 8 (fun l t =>
    let st := ((t.oport p).lane l).stage
    let v :=
      if !bit (t.sources (p / 8)) l then 5
      else if st = 5 then 4
      else if st = 2 ∨ st = 3 then 3
      else if st = 1 ∨ st = 4 then 1
      else if bit (t.rxMap p) l then 2
      else 0
    t.setRf (rPort p (0x40 + 8 * l)) 61 3 v) s

/-- Store the maps and widths of a port; lane changes of a port in service are counted, journalled and pulsed (R281, R296). -/
def State.setMaps (s : State) (p : Nat) (tx rx : BitVec 8) : State :=
  let gone := popcount (s.txMap p &&& ~~~ tx) + popcount (s.rxMap p &&& ~~~ rx)
  let came := popcount (tx &&& ~~~ (s.txMap p)) + popcount (rx &&& ~~~ (s.rxMap p))
  let r := rPort p 0
  let t := (((s.setRf r 36 8 tx.toNat).setRf r 28 8 rx.toNat).setRf r 48 4 (popcount tx)).setRf r 44 4 (popcount rx)
  let t := if s.inService p then
      iter (gone + came) (fun _ t => (t.journalOpen 0x40 0 6 p).pulse (642 + 4 * p)) (t.bump (rPort p 0x10) 16 16 gone)
    else t
  let t := t.setLevel (641 + 4 * p) (tx == 0xFF && rx == 0xFF)
  let t := if gone + came = 0 then t else t.mapChange
  t.laneStats p

/-! ### UP and DOWN (R281, R291) -/

/-- A fan-out of an I/O die ends (R289): the mesh returns and settles, the ports take no new one for 100 µs. -/
def State.endFan (s : State) (i : Nat) : State :=
  match Tab.get none i s.fan with
  | none => s
  | some (p, q) =>
    let t := { s with fan := Tab.put none i none s.fan, meshWait := p :: q :: s.meshWait }
    let t := (t.setRbit (rPort p 0) 56 false).setRbit (rPort q 0) 56 false
    let out := s.rf (rPort q 0) 52 4
    let t := t.setRf (rOpt i 0x10) (5 * out) 4 (q % 8)
    (t.modPort p fun o => { o with fanEnd := some s.time }).modPort q fun o => { o with fanEnd := some s.time }

/-- PORT_DOWN in the journal: OPT_PORT_STAT; where the partner's names stand behind it is open (R454, log 32). -/
def State.portJournal (s : State) (p : Nat) : State :=
  (s.journalPut 0x43 1 6 p (toBytes 8 (s.reg (rPort p 0)).toNat ++ s.freeBytes 28)).fresh

/-- A port leaves UP or training: DOWN with a cause (R281, R296). -/
def State.portDown (s : State) (p cause : Nat) : State :=
  let before := s.liveDirs
  let t := match Tab.get none (p / 8) s.fan with
    | some x => if x.1 = p ∨ x.2 = p then s.endFan (p / 8) else s
    | none => s
  let was := s.portUp p
  let t := (t.setRf (rPort p 0) 61 3 1).setRf (rPort p 0) 58 3 cause
  let t := ((t.setRbit (rBoot 0x110) p false).setLevel (640 + 4 * p) false).pulse (643 + 4 * p)
  let t := ((t.modPort p fun o => { o with training := false }).portJournal p).mapChange
  if was then t.portsChanged before else t

/-- A port becomes UP (R281, R291, R306). -/
def State.portRise (s : State) (p : Nat) : State :=
  let before := s.liveDirs
  let t := (s.setRf (rPort p 0) 61 3 3).setRf (rPort p 0) 58 3 0
  let t := (t.setRbit (rBoot 0x110) p true).setLevel (640 + 4 * p) true
  (t.creditStart p).mapChange.portsChanged before

/-- Judge a port after its lanes or its partner's have changed: up from training when both ends have verified min_lanes (R291) and both
maps hold them (R281); in service by the maps. -/
def State.judgePort (s : State) (p : Nat) : State :=
  let o := s.oport p
  let st := s.rf (rPort p 0) 61 3
  let m := s.minLanes p
  let maps := m ≤ popcount (s.txMap p) && m ≤ popcount (s.rxMap p)
  if st = 2 then
    if !o.training && maps && m ≤ popcount o.rxReady && m ≤ popcount (o.pReady &&& s.sources (p / 8)) then s.portRise p else s
  else if st = 3 then if maps then s else s.portDown p 3
  else if s.inService p && maps then s.portRise p
  else s

/-! ### Receiving lanes (R279, R280, R292, R293) -/

/-- A lane fails during a fan-out: it ends at once (R297). -/
def State.laneFan (s : State) (p : Nat) : State :=
  match Tab.get none (p / 8) s.fan with
  | some x => if x.1 = p ∨ x.2 = p then s.endFan (p / 8) else s
  | none => s

/-- The heater code of a ring at a temperature in 0.125 °C units: its table, interpolated (R282). Between two entries the
rounding is open: bit `free` decides it (log 34). -/
def State.heaterAt (s : State) (i ring temp : Nat) (free : Bool) : Nat :=
  let e (n : Nat) : Int := (Config.heater (128 * i + ring) n).toNat + Tab.get 0 ((128 * i + ring) * 128 + n) s.heatMove
  let clip (x : Int) : Nat := if x < 0 then 0 else Nat.min x.toNat 16383
  if temp ≤ 160 then clip (e 0)
  else if 880 ≤ temp then clip (e 90)
  else
    let n := temp / 8 - 20
    let fr := temp % 8
    let num := e n * (8 - fr) + e (n + 1) * fr
    clip (num / 8 + (if num % 8 ≠ 0 && free then 1 else 0))

/-- The register field of a ring's heater: rings 0 to 63 modulators, 64 to 127 receive filters, 8 × bundle + lane each. -/
def State.setHeater (s : State) (i ring temp : Nat) : State :=
  let q := ring % 64 / 8
  let l := ring % 8
  let v := s.heaterAt i ring temp ((Config.freeBits 1 s.freeIx) == 1)
  (s.setRf (rOpt i (0x1040 + 0x100 * q + 8 * l)) (if ring < 64 then 47 else 33) 14 v).fresh

/-- A ring is retuned from its table and due for recalibration (R280, R283). -/
def State.retuneRing (s : State) (i ring : Nat) : State :=
  let k := 128 * i + ring
  { s.setHeater i ring (s.photonic i) with recalDue := if hasNat s.recalDue k then s.recalDue else k :: s.recalDue }

/-- The receiver removes a lane from service and starts its recovery (R279, R280). Its map keeps the lane until the partner's map has
lost it (R278); with no lane left it can follow no map. -/
def State.removeLane (s : State) (p l : Nat) : State :=
  if bit (s.oport p).rxReady l then
    let t := s.modPort p fun o =>
      ({ o with rxReady := setBit o.rxReady l false, rxRemove := setBit o.rxRemove l true }).modLane l fun x =>
        { x with stage := 1, good := 0, asked := false }
    let t := (t.laneFan p).retuneRing (p / 8) (64 + 8 * (p % 8) + l)
    (if (t.oport p).rxReady = 0 then t.setMaps p (t.txMap p) 0 else t.laneStats p).judgePort p
  else s

/-- A lane of a recovery has been verified (R280). -/
def State.laneReady (s : State) (p l : Nat) : State :=
  let t := s.modPort p fun o =>
    ({ o with rxReady := setBit o.rxReady l true, rxRemove := setBit o.rxRemove l false,
              retune := setBit o.retune l false }).modLane l fun x => { x with stage := 0, asked := false }
  (t.laneStats p).judgePort p

/-- An expected identity flit is missing on a lane (R277, R279). -/
def State.idMissing (s : State) (p l : Nat) : State :=
  let t := (s.bump (rPort p 0x10) 32 16 1).modPort p fun o =>
    o.modLane l fun x => { x with missing := x.missing + 1, good := 0 }
  if 3 ≤ ((t.oport p).lane l).missing then t.removeLane p l else t

/-- Less than an identity interval has passed since a time (R276, R297). -/
def State.lately (s : State) (t : Option W64) : Bool := match t with | some e => (s.time - e).toNat < 26214 | none => false

/-- A flit with a bad CRC counts as missing, unless a good one has come on the lane in this interval (R277, R297). -/
def State.idBad (s : State) (p l : Nat) : State :=
  if s.lately ((s.oport p).lane l).goodAt then s
  else (s.modPort p fun o => o.modLane l fun x => { x with badAt := some s.time }).idMissing p l

/-- Whether a flit names the partner that the map expects (R289, R292). -/
def State.idExpected (s : State) (p : Nat) (f : IdFlit) : Bool :=
  match Tab.get none p s.portMap with
  | none => false
  | some m =>
    ((if s.rf (rFabPort p) 61 3 = 5 then fld f.fabricId 10 6 != fidDial s.self else f.fabricId == m.fid) && f.port == m.port)
      || (f.fanout && f.fanPort == m.port)

/-- A port enters training (R291): a held reach applies (R290), the receiver starts over. -/
def State.trainPort (s : State) (p : Nat) : State :=
  let t := ((s.setRf (rPort p 0) 61 3 2).setRf (rPort p 0) 58 3 0).mapChange
  let t := t.setRbit (rPort p 0) 57 (s.rbit (rPort p 8) 29)
  (t.modPort p fun o =>
    { o with training := true, rxReady := 0, rxRemove := 0, retune := 0, badIval := none, lanes := [] }).setMaps p (s.txMap p) 0

/-- Receivers of a die that its two harts are training (R291). -/
def State.training (s : State) (i : Nat) : Nat := ((List.range 8).filter fun q => (s.oport (8 * i + q)).training).length

/-- The next waiting ports of a die start, two at a time (R291). -/
def State.takePorts (s : State) (i : Nat) : State :=
  iter 2 (fun _ t =>
    if t.training i < 2 then
      match t.trainQ.find? fun p => p / 8 == i && t.portLive p with
      | some p => ({ t with trainQ := t.trainQ.erase p }).trainPort p
      | none => t
    else t) s

/-- What the flits of a partner say is kept (R277, R293, R297): a map without notice spoils its interval, lanes this port has not verified
are asked out of service, and the state of the lane follows. `mine`: the flit is of the port's own partner, not of a fan-out (R289). -/
def OPort.heard (o : OPort) (l : Nat) (f : IdFlit) (mine service known : Bool) (never txMap : BitVec 8) (now : W64) : OPort :=
  let o := o.modLane l fun x => { x with missing := 0, good := x.good + 1, wrong := false, goodAt := some now, badAt := none }
  let unver := if service then f.txMap &&& ~~~ o.rxReady &&& ~~~ o.rxRemove else 0
  let o := { o with
    badIval := if !known then some f.seq else if o.badIval == some f.seq then o.badIval else none,
    pTx := f.txMap, pNext := f.nextMap, pReach := f.reach, pFault := f.remoteFault, fault := false, rxRemove := o.rxRemove ||| unver }
  if mine then
    { o with pReady := f.rxReady &&& ~~~ never, pRemove := f.rxRemove, drop := o.drop &&& (f.rxReady ||| txMap) }
  else o

/-- An accepted identity flit (R277-R281, R289, R293). Whether a lane in service has errors at the partner is not visible here: that bit
is open (log 35). -/
def State.idAccept (s : State) (p l : Nat) (f : IdFlit) : State :=
  let i := p / 8
  let o := s.oport p
  let mine := !(f.fanout && some f.port ≠ (Tab.get none p s.portMap).map (·.port))
  let never := ~~~ (s.sources i)
  let noErrors := Config.freeBits 1 s.freeIx == 1
  let quietLane (j : Nat) : Bool := bit (s.txMap p) j && bit f.rxReady j && noErrors
  let badTune := (List.range 8).any fun j => bit f.retuneReq j && quietLane j
  let known := o.rxReady == 0 || f.txMap == o.pTx || f.txMap == o.pNext
  let unver := s.inService p && (f.txMap &&& ~~~ o.rxReady &&& ~~~ o.rxRemove) != 0
  let viol := (if mine && f.rxReady &&& never != 0 then 1 else 0) + (if mine && badTune then 1 else 0)
    + (if known then 0 else 1) + (if unver then 1 else 0)
  let withdrawn := s.lately (o.lane l).badAt && s.rf (rPort p 0x10) 32 16 != 0
  let t := (s.fresh).bump (rPort p 0x10) 0 16 viol
  let t := if withdrawn then t.setRf (rPort p 0x10) 32 16 (s.rf (rPort p 0x10) 32 16 - 1) else t
  let t := t.modPort p fun o => o.heard l f mine (s.inService p) known never (s.txMap p) s.time
  let moved := mine && (s.rf (rPort p 0) 0 16 != f.fabricId.toNat || s.rf (rPort p 0) 16 5 != f.port % 32)
  let t := if moved then t.mapChange else t
  let t := if mine then
      iter 8 (fun j t => if bit f.retuneReq j && !quietLane j then t.retuneRing i (8 * (p % 8) + j) else t)
        ((t.setRf (rPort p 0) 0 16 f.fabricId.toNat).setRf (rPort p 0) 16 5 f.port)
    else t
  let t := if mine && (f.rxRemove &&& s.txMap p) != 0 then t.laneFan p else t
  let x := (t.oport p).lane l
  let t := if 3 ≤ x.good && (x.stage == 1 || x.stage == 2 || x.stage == 4) then t.laneReady p l else t
  let r := (t.oport p).rxReady
  let rx := if r = 0 then 0 else f.txMap &&& (r ||| t.rxMap p)
  (if rx = t.rxMap p then t else t.setMaps p (t.txMap p) rx).judgePort p

/-- An identity flit on a lane (R277, R279, R292): one with a bad CRC is missing; another lane's or another port's removes the lane; a port
whose lanes all name another partner is miscabled. -/
def State.idFlit (s : State) (p l : Nat) (f : IdFlit) : State :=
  let st := s.rf (rPort p 0) 61 3
  if !s.portLive p || st == 0 || st == 4 || 8 ≤ l then s
  else if f.crc ≠ f.check then s.idBad p l
  else if f.magic ≠ 0x4C414E45 ∨ f.lane ≠ l then
    ((s.bump (rPort p 0x10) 32 16 1).modPort p fun o => o.modLane l fun x => { x with good := 0, wrong := false }).removeLane p l
  else if !s.idExpected p f then
    let t := ((s.bump (rPort p 0x10) 32 16 1).modPort p fun o => o.modLane l fun x => { x with good := 0, wrong := true }).removeLane p l
    if (List.range 8).all (fun j => ((t.oport p).lane j).wrong) && (st != 1 || s.inService p) then
      (((t.setRf (rPort p 0) 0 16 f.fabricId.toNat).setRf (rPort p 0) 16 5 f.port).portDown p 2).takePorts (p / 8)
    else t
  else s.idAccept p l f

/-- IDENTITY_FLIT_RX (R292). -/
def execIdentityFlitRx (p lane : Nat) (f : IdFlit) (s : State) : Host.Outcome State Fault Refusal := ret (s.idFlit p lane f)

/-- IDENTITY_FLIT_MISSING (R279). -/
def execIdentityFlitMissing (p lane : Nat) (s : State) : Host.Outcome State Fault Refusal :=
  ret (if s.portLive p && lane < 8 then s.idMissing p lane else s)

/-- The identity flits that a port sends at a boundary (R276, R277); bundle q of a fan-out sends none (R289). -/
def State.idSend (s : State) (p : Nat) : List IdFlit :=
  let o := s.oport p
  let fan := match Tab.get none (p / 8) s.fan with | some x => if x.1 = p then some x.2 else none | none => none
  (List.range 8).map fun l =>
    ({ magic := 0x4C414E45, fabricId := s.self, port := p, lane := l, reach := s.rbit (rPort p 0) 57, fanout := fan.isSome,
       fanPort := fan.getD 0, remoteFault := o.fault, txMap := s.txMap p, nextMap := o.announced.getD (s.txMap p),
       rxRemove := o.rxRemove, rxReady := o.rxReady, retuneReq := o.retune, seq := o.seq, fibre := s.rf (rPort p 0) 52 4,
       crc := 0 } : IdFlit).closed

/-- The map that a transmitter wants (R278, R284): it follows the partner's rx_remove and rx_ready and its own knowledge; a port not in
service carries only lanes the partner has ready. -/
def State.wantMap (s : State) (p : Nat) : BitVec 8 :=
  let o := s.oport p
  ((if s.inService p then s.txMap p ||| o.pReady else o.pReady) &&& ~~~ o.pRemove &&& ~~~ o.drop) &&& s.sources (p / 8)

/-- IDENTITY_BOUNDARY (R276, R278): an announced map takes effect; a wanted change is announced; identity flits leave. -/
def execIdentityBoundary (p : Nat) (s : State) : Host.Outcome State Fault Refusal :=
  let st := s.rf (rPort p 0) 61 3
  if s.portLive p && (st == 1 || st == 2 || st == 3) then
    let t := match (s.oport p).announced with
      | some m =>
        let t := if (s.txMap p &&& ~~~ m) != 0 then s.laneFan p else s
        (t.setMaps p m (t.rxMap p)).modPort p fun o => { o with announced := none }
      | none => s
    let want := t.wantMap p
    let t := t.modPort p fun o => { o with announced := if want == t.txMap p then none else some want, seq := o.seq + 1 }
    let t := t.judgePort p
    let silent := match Tab.get none (p / 8) t.fan with | some x => x.2 == p | none => false
    ret (if silent then t else t.send (.identity p (t.idSend p)))
  else ret s

/-- CODEWORD_RX (R275, R279): `symbols` corrected, or uncorrectable. -/
def execCodewordRx (p lane symbols : Nat) (uncorrectable : Bool) (s : State) : Host.Outcome State Fault Refusal :=
  if s.portLive p && lane < 8 then
    if uncorrectable || 15 < symbols then
      let t := (s.bump (rPort p 0x10) 48 16 1).modPort p fun o => o.modLane lane fun x => { x with uncorr := x.uncorr + 1 }
      ret (if 4 ≤ ((t.oport p).lane lane).uncorr then t.removeLane p lane else t)
    else ret (s.bump (rPort p 0x18) 0 64 symbols)
  else ret s

/-- ⌊−log₁₀⌋ of errors / symbols, 255 for none (R295). -/
def serField (errors symbols : Nat) : Nat :=
  if errors = 0 then 255
  else ((List.range 20).filter fun n => errors * 10 ^ (n + 1) ≤ symbols).length

/-- SER_WINDOW (R279): a 1 ms window of a lane. -/
def execSerWindow (p lane errors symbols : Nat) (s : State) : Host.Outcome State Fault Refusal :=
  if s.portLive p && lane < 8 then
    let t := s.setRf (rPort p (0x40 + 8 * lane)) 25 8 (serField errors symbols)
    let asked := ((t.oport p).lane lane).asked
    let t := t.modPort p fun o => o.modLane lane fun x => { x with uncorr := 0 }
    if 24 * symbols < errors * 100000 then ret (t.removeLane p lane)
    else if symbols ≤ errors * 100000 then
      if asked then ret t
      else
        let ring := 64 + 8 * (p % 8) + lane
        ret (({ t with recalDue := if hasNat t.recalDue (128 * (p / 8) + ring) then t.recalDue
                                   else (128 * (p / 8) + ring) :: t.recalDue }).modPort p fun o =>
          ({ o with retune := setBit o.retune lane true }).modLane lane fun x => { x with asked := true })
    else
      ret (t.modPort p fun o => ({ o with retune := if asked then setBit o.retune lane false else o.retune }).modLane lane fun x =>
        { x with asked := false })
  else ret s

/-- LANE_VERIFY_TIMEOUT (R280). -/
def execLaneVerifyTimeout (p lane : Nat) (s : State) : Host.Outcome State Fault Refusal :=
  if s.portLive p && lane < 8 then
    let x := (s.oport p).lane lane
    let next := if x.stage = 1 then 2 else if x.stage = 2 then 3 else if x.stage = 4 then 5 else x.stage
    if next = x.stage then ret s
    else
      let t := s.modPort p fun o =>
        ({ o with retune := if next = 2 then setBit o.retune lane true else o.retune }).modLane lane fun x =>
          { x with stage := next, good := 0 }
      ret (t.laneStats p)
  else ret s

/-- LANE_SWEEP_DONE (R280). -/
def execLaneSweepDone (p lane : Nat) (s : State) : Host.Outcome State Fault Refusal :=
  if s.portLive p && lane < 8 && ((s.oport p).lane lane).stage == 3 then
    ret ((s.modPort p fun o => o.modLane lane fun x => { x with stage := 4, good := 0 }).laneStats p)
  else ret s

/-- LANE_RETRY (R280). -/
def execLaneRetry (p lane : Nat) (s : State) : Host.Outcome State Fault Refusal :=
  if s.portLive p && lane < 8 && ((s.oport p).lane lane).stage == 5 then
    ret ((s.modPort p fun o => o.modLane lane fun x => { x with stage := 1, good := 0 }).laneStats p)
  else ret s

/-! ### Bring-up (R290, R291, R294) -/

/-- A port is DOWN with a cause and no link of its own behind it: the pulse of R296 when it was not so before. -/
def State.holdDown (s : State) (p cause : Nat) : State :=
  let t := (s.setRf (rPort p 0) 61 3 1).setRf (rPort p 0) 58 3 cause
  if s.rf (rPort p 0) 61 3 = 1 ∧ s.rf (rPort p 0) 58 3 = cause then t else t.mapChange.pulse (643 + 4 * p)

/-- A port joins the training order, unless the map or the driver holds it down or its I/O group is down (R291, R436). -/
def State.queuePort (s : State) (p : Nat) : State :=
  if s.rf (rFabPort p) 61 3 = 0 ∨ s.rbit (rPort p 8) 30 then s.holdDown p 4
  else if s.rf (rD2d (4 + p / 8) 0) 61 3 = 4 then s.holdDown p 6
  else
    let t := ((s.setRf (rPort p 0) 61 3 1).setRf (rPort p 0) 58 3 0).mapChange
    if hasNat t.trainQ p then t else { t with trainQ := t.trainQ ++ [p] }

/-- The fibre that the record names for a port, its own by default (R287). -/
def State.homeFibre (s : State) (p : Nat) : Nat := match Tab.get none p s.portMap with | some m => m.fibre | none => p % 8

/-- Steer a port to a fibre in both meshes; the output it leaves goes dark (R287, R288). -/
def State.steerPort (s : State) (p f : Nat) : State :=
  let i := p / 8
  let old := s.rf (rPort p 0) 52 4
  let t := if s.rf (rOpt i 0x10) (5 * old) 5 = 16 + p % 8 then s.setRf (rOpt i 0x10) (5 * old) 5 0 else s
  let t := (t.setRf (rOpt i 0x10) (5 * f) 5 (16 + p % 8)).setRf (rOpt i 0x18) (5 * (p % 8)) 5 (16 + f)
  t.setRf (rPort p 0) 52 4 f

/-- The ports of a die resume Table 5 at step 5, in ascending order, knowing nothing of their partners (R291, R294). -/
def State.resumeDie (s : State) (i : Nat) : State :=
  let t := s.setRf (rOpt i 0) 29 3 2
  (iter 8 (fun q t =>
    let p := 8 * i + q
    (((t.modPort p fun o => { OPort.reset with seq := o.seq, fanEnd := o.fanEnd }).setMaps p 0 0).queuePort p)) t).takePorts i

/-- An I/O die's lasers and tables are ready (Table 5, steps 3 to 5): steering is set and its ports are queued. -/
def State.dieLit (s : State) (i : Nat) : State :=
  (iter 8 (fun q t => t.steerPort (8 * i + q) (t.homeFibre (8 * i + q))) s).resumeDie i

/-- Move a port to the lowest free spare pair of its partner, where it trains from step 6 of Table 5 (R288); DOWN with cause 5 without
one. -/
def State.moveToSpare (s : State) (p : Nat) : State :=
  let i := p / 8
  let used := (List.range 8).map fun q => s.rf (rPort (8 * i + q) 0) 52 4
  let partner := (Tab.get none p s.portMap).map fun m => (m.fid, m.port)
  let free (f : Nat) : Bool := !hasNat used f && !hasNat s.badSpares (16 * i + f)
    && (match Tab.get none (16 * i + f) s.spareMap with | some x => some x == partner | none => false)
  match [8, 9].find? free with
  | none => if s.rf (rPort p 0) 61 3 = 1 ∧ s.rf (rPort p 0) 58 3 = 5 then s else s.portDown p 5
  | some f =>
    let t := ((s.portDown p 0).steerPort p f).journalOpen 0x42 0 6 p
    let t := ({ t with meshWait := p :: t.meshWait }).modPort p fun o => { o with pReady := 0, pRemove := 0, pFault := false }
    t.queuePort p

/-- PORT_TRAIN_DONE (R291): the lanes that the hart has verified; without light the port is DOWN with cause 1, or on a spare tries the
next one (R288). -/
def execPortTrainDone (p : Nat) (light : Bool) (verified : BitVec 8) (s : State) : Host.Outcome State Fault Refusal :=
  if s.portLive p && s.rf (rPort p 0) 61 3 == 2 && (s.oport p).training then
    let f := s.rf (rPort p 0) 52 4
    let t :=
      if light then
        ((s.modPort p fun o =>
          (List.range 8).foldl (fun o l =>
            if bit verified l then o.modLane l fun x => { x with stage := 0 }
            else o.modLane l fun x => { x with stage := 1, good := 0 })
            { o with training := false, rxReady := verified, rxRemove := ~~~ verified }).laneStats p).judgePort p
      else if 8 ≤ f then ({ s with badSpares := (16 * (p / 8) + f) :: s.badSpares }).moveToSpare p
      else s.portDown p 1
    ret (t.takePorts (p / 8))
  else ret s

/-- PORT_RETRY (R291, R292). -/
def execPortRetry (p : Nat) (s : State) : Host.Outcome State Fault Refusal :=
  let c := s.rf (rPort p 0) 58 3
  if s.portLive p && s.rf (rPort p 0) 61 3 == 1 && (c == 1 || c == 2) then ret ((s.queuePort p).takePorts (p / 8))
  else ret s

/-- A port leaves service to be brought up again (R290, R295). -/
def State.restartPort (s : State) (p : Nat) : State :=
  let t := if s.portUp p then s.portDown p 0 else (s.modPort p fun o => { o with training := false })
  (t.queuePort p).takePorts (p / 8)

/-- OPT_RETRAIN (R295): back to step 5 of Table 5; a spare fibre is released, a held reach applies. -/
def State.optRetrain (s : State) (p : Nat) : State :=
  if s.portLive p then
    let f := s.homeFibre p
    let t := if s.rf (rPort p 0) 52 4 = f then s
      else
        ({ s.steerPort p f with meshWait := p :: s.meshWait }).modPort p fun o =>
          { o with pReady := 0, pRemove := 0, pFault := false }
    t.restartPort p
  else s

/-- OPT_RETRAIN. -/
def execOptRetrain (p : Nat) (s : State) : Host.Outcome State Fault Refusal := ret (s.optRetrain p)

/-- ADMIN_DOWN (R295): held DOWN with cause 4, or released to bring-up. -/
def State.adminDown (s : State) (p : Nat) (down : Bool) : State :=
  if s.hasPort p then
    let t := s.setRbit (rPort p 8) 30 down
    if down then
      if s.rf (rPort p 0) 61 3 = 1 ∧ s.rf (rPort p 0) 58 3 = 4 then t
      else if s.rf (rPort p 0) 61 3 = 0 ∨ s.rf (rPort p 0) 61 3 = 4 then t
      else (({ t with trainQ := t.trainQ.erase p }).portDown p 4).takePorts (p / 8)
    else if s.rf (rPort p 0) 61 3 = 1 ∧ s.rf (rPort p 0) 58 3 = 4 then (t.queuePort p).takePorts (p / 8)
    else t
  else s

/-- ADMIN_DOWN. -/
def execAdminDown (p : Nat) (down : Bool) (s : State) : Host.Outcome State Fault Refusal := ret (s.adminDown p down)

/-- REACH_WRITE (R34, R290): held until the port's next bring-up. -/
def execReachWrite (p : Nat) (short : Bool) (s : State) : Host.Outcome State Fault Refusal :=
  ret (if s.hasPort p then s.setRbit (rPort p 8) 29 short else s)

/-! ### Rings (R282, R283) -/

/-- HEATER_UPDATE (R282, R283): every ring of a die follows its table at the model temperature of the photonic region; those that have
moved too far from their last calibration are due, and so are the rings `elapsed`, whose period has passed. -/
def execHeaterUpdate (i : Nat) (elapsed : List Nat) (s : State) : Host.Outcome State Fault Refusal :=
  if s.hasIo i && s.rf (rOpt i 0) 29 3 != 0 && s.rf (rOpt i 0) 29 3 != 4 then
    let temp := s.photonic i
    let t := s.setRf (rOpt i 0) 0 11 (Nat.min 2047 temp)
    let t := iter 128 (fun r t => t.setHeater i r temp) t
    let dt := s.rf (rOpt i 0x20) 8 8
    ret (iter 128 (fun r t =>
        let k := 128 * i + r
        let last := Tab.get 0 k t.heatTemp
        if (hasNat elapsed r || (dt != 0 && 4 * dt < (temp - last) + (last - temp))) && !hasNat t.recalDue k then
          { t with recalDue := k :: t.recalDue }
        else t) t)
  else ret s

/-- RING_RECAL_START (R283): at most 8 rings of a die at once; a receive filter that R280 is retuning waits (R297). -/
def execRingRecalStart (i ring : Nat) (s : State) : Host.Outcome State Fault Refusal :=
  let k := 128 * i + ring
  let p := 8 * i + ring % 64 / 8
  let st := ((s.oport p).lane (ring % 8)).stage
  if s.hasIo i && ring < 128 && !hasNat s.recalling k && (s.recalling.filter fun n => n / 128 == i).length < 8
      && (ring < 64 || st == 0 || st == 5) then
    ret { s with recalling := k :: s.recalling, recalDue := s.recalDue.filter (· != k) }
  else ret s

/-- RING_RECAL_DONE (R283): the entry for the current temperature moves toward the measured optimum, by at most 8 codes. -/
def execRingRecalDone (i ring optimum : Nat) (s : State) : Host.Outcome State Fault Refusal :=
  let k := 128 * i + ring
  if hasNat s.recalling k then
    let temp := s.photonic i
    let n := Nat.min 90 (temp / 8 - 20)
    let cur : Int := (Config.heater k n).toNat + Tab.get 0 (k * 128 + n) s.heatMove
    let d : Int := (optimum % 16384 : Nat) - cur
    let m : Int := if d < -8 then -8 else if 8 < d then 8 else d
    let t := { s with heatMove := Tab.upd 0 (k * 128 + n) (· + m) s.heatMove, recalling := s.recalling.filter (· != k),
                      heatTemp := Tab.put 0 k temp s.heatTemp,
                      recalDue := if m = d then s.recalDue else k :: s.recalDue }
    ret (t.setHeater i ring temp)
  else ret s

/-! ### Lasers (R284, R285) -/

/-- Both spares of OPT_LASER_MAP: used, channel, failed (R295). -/
def spareAt (n : Nat) : Nat × Nat × Nat := if n = 0 then (26, 23, 22) else (31, 28, 27)

/-- Try the spares from `n` on for a channel; `oks` are the outcomes of their verification (R284, R285). -/
def State.takeSpare (s : State) (i ch : Nat) : List Nat → List Bool → State × Bool
  | [], _ => (s, false)
  | n :: ns, oks =>
    let a := spareAt n
    let r := rOpt i 8
    if s.rbit r a.1 || s.rbit r a.2.2 then s.takeSpare i ch ns oks
    else if oks.headD true then
      let t := ((s.setRbit r a.1 true).setRf r a.2.1 3 ch).bump (rOpt i 0x28) 16 16 1
      (t.journalOpen 0x41 0 5 i, true)
    else ((s.setRbit r a.2.2 true).bump (rOpt i 0x28) 0 16 1).takeSpare i ch ns (oks.drop 1)

/-- LASER_FAIL (R284, R285, R297): fixed laser 0 to 7, or spare 8 or 9. Lane n leaves every transmit map at a boundary (R278) until its
partner verifies it again; a spare that takes over has lane n's modulator rings recalibrated. -/
def execLaserFail (i laser : Nat) (spareOk : List Bool) (s : State) : Host.Outcome State Fault Refusal :=
  let a := spareAt (laser - 8)
  let r := rOpt i 8
  let ch := if laser < 8 then laser else s.rf r a.2.1 3
  let serving := if laser < 8 then !s.rbit (rOpt i 0) (21 + laser) else s.rbit r a.1
  if s.hasIo i && laser < 10 && serving then
    let t := (s.bump (rOpt i 0x28) 0 16 1).journalOpen 0x41 0 5 i
    let t := if laser < 8 then t.setRbit (rOpt i 0) (21 + laser) true
      else (t.setRbit r a.1 false).setRbit r a.2.2 true
    let t := iter 8 (fun q t => t.modPort (8 * i + q) fun o => { o with drop := setBit o.drop ch true }) (t.endFan i)
    let x := t.takeSpare i ch [0, 1] spareOk
    let t := if x.2 then
        { x.1 with recalDue := ((List.range 8).map fun q => 128 * i + 8 * q + ch).filter (fun k => !hasNat x.1.recalDue k)
            ++ x.1.recalDue }
      else x.1.setRbit (rOpt i 0) (13 + ch) true
    ret (iter 8 (fun q t => (t.pulse (642 + 4 * (8 * i + q))).laneStats (8 * i + q)) t)
  else ret s

/-! ### Spare fibres (R288) -/

/-- FIBRE_DARK (R288): no light for 1 ms at the port's own receiver, which tells its partner, or the partner's remote_fault for 1 ms. -/
def execFibreDark (x : DarkPort) (s : State) : Host.Outcome State Fault Refusal :=
  if s.portLive x.port && (s.inService x.port || (s.rf (rPort x.port 0) 61 3 == 2 && !(s.oport x.port).training))
      && (x.own || (s.oport x.port).pFault) then
    ret (((if x.own then s.modPort x.port fun o => { o with fault := true } else s).moveToSpare x.port).takePorts (x.port / 8))
  else ret s

/-- SPARE_TRAIN_TIMEOUT (R288): the spare is bad and the next is tried. -/
def execSpareTrainTimeout (p : Nat) (s : State) : Host.Outcome State Fault Refusal :=
  let f := s.rf (rPort p 0) 52 4
  if s.portLive p && s.rf (rPort p 0) 61 3 == 2 && 8 ≤ f then
    ret ((({ s with badSpares := (16 * (p / 8) + f) :: s.badSpares }).moveToSpare p).takePorts (p / 8))
  else ret s

/-! ### Fan-out (R287, R289) -/

/-- The conditions of R289 on one port of a pair. -/
def State.fanReady (s : State) (p : Nat) : Bool :=
  s.portUp p && s.rbit (rPort p 0) 57 && (s.oport p).pReach && s.txMap p == 0xFF
    && (match (s.oport p).fanEnd with | some e => 100000 ≤ (s.time - e).toNat | none => true)

/-- A fan-out request of the collective engine (R289): whether it is applied. -/
def State.fanOut (s : State) (i p q : Nat) : State × Bool :=
  if s.hasIo i && p / 8 == i && q / 8 == i && p != q && (Tab.get none i s.fan).isNone && s.fanReady p && s.fanReady q then
    let out := s.rf (rPort q 0) 52 4
    let t := { s with fan := Tab.put none i (some (p, q)) s.fan, meshWait := p :: q :: s.meshWait }
    let t := (t.setRbit (rPort p 0) 56 true).setRbit (rPort q 0) 56 true
    (t.setRf (rOpt i 0x10) (5 * out) 4 (p % 8), true)
  else (s, false)

/-- FANOUT_END (R289). -/
def execFanoutEnd (i : Nat) (s : State) : Host.Outcome State Fault Refusal := ret (s.endFan i)

/-- MESH_SETTLE (R287): the ports that a mesh change touched transmit again, their held credits first. -/
def execMeshSettle (i : Nat) (s : State) : Host.Outcome State Fault Refusal :=
  let t := { s with meshWait := s.meshWait.filter fun p => p / 8 != i }
  ret (iter 8 (fun q t =>
    let p := 8 * i + q
    if hasNat s.meshWait p && t.portUp p then (List.range 8).foldl (fun t v => t.grantVc p v true) t else t) t)

/-- A takeover or a move to a spare fibre runs, which holds Midnight (R297). -/
def State.sparing (s : State) : Bool :=
  (List.range 32).any fun p => s.hasPort p && ((s.portUp p && ((s.oport p).drop &&& s.sources (p / 8)) != 0)
    || (s.rf (rPort p 0) 61 3 == 2 && 8 ≤ s.rf (rPort p 0) 52 4))

end Sys2Proof.Machine
end

