-- ==== Sys2Proof/Machine/Control.lean ====
section
/-! DEFINITION. The event controller, the mailboxes and the Crown's watchdogs (16_control_plane.md). -/

namespace Sys2Proof.Machine

/-! ### Event controller (R406-R410) -/

/-- A source fires: a level source holds it until a claim or PEND_CLR (R407). -/
def State.pendSetOne (s : State) (n : Nat) : State :=
  if s.srcLive n && s.evcSense n ≤ 5 then
    let t := if s.evcSense n ≤ 1 && !hasNat s.evcHeld n then { s with evcHeld := n :: s.evcHeld } else s
    t.fire n
  else s

/-- A source is cleared by PEND_CLR, or by a claim, which leaves latched rising pending (R407). -/
def State.pendClrOne (s : State) (n : Nat) (claim : Bool) : State :=
  let t := { s with evcHeld := s.evcHeld.filter (· != n) }
  match s.evcSense n with
  | 0 => if s.evcRaw n then t else t.setPend n false
  | 1 => if !s.evcRaw n && s.srcLive n then t else t.setPend n false
  | 5 => if claim then t else t.setPend n false
  | _ => t.setPend n false

/-- Apply to each source whose bit is 1. -/
def State.eachBit (s : State) (m : Nat) (v : W64) (f : State → Nat → State) : State :=
  iter 64 (fun j t => if bit v j then f t (64 * m + j) else t) s

/-- PEND_SET (R407). -/
def execPendSet (m : Nat) (v : W64) (s : State) : Host.Outcome State Fault Refusal :=
  ret (if m < 16 then s.eachBit m v fun t n => t.pendSetOne n else s)

/-- PEND_CLR (R407). -/
def execPendClr (m : Nat) (v : W64) (s : State) : Host.Outcome State Fault Refusal :=
  ret (if m < 16 then s.eachBit m v fun t n => t.pendClrOne n false else s)

/-- The pending source of highest priority on the line of target t, the lowest-numbered among equals (R409). -/
def State.claimable (s : State) (t : Nat) : Option Nat :=
  let thr := s.rf (rEvc (0x3080 + 8 * t)) 0 3
  let prio (n : Nat) : Nat := s.rf (rEvc (8 * n)) 24 3
  let on (n : Nat) : Bool :=
    s.evcPend n && s.rbit (rEvc (8 * n)) 31 && s.rf (rEvc (8 * n)) 20 4 == t && thr ≤ prio n
  ((List.range 1024).filter on).foldl (fun b n =>
    match b with | none => some n | some m => if prio m < prio n then some n else b) none

/-- EVC_CLAIMt's value and its claim (R409, R411). -/
def State.claim (s : State) (t : Nat) : W64 × State :=
  match s.claimable t with
  | none => (0, s)
  | some n => (BitVec.ofNat 64 (2 ^ 31 + s.rf (rEvc (8 * n)) 24 3 * 2 ^ 24 + n), s.pendClrOne n true)

/-- EVC_CLAIM (R409). -/
def execEvcClaim (t : Nat) (s : State) : Host.Outcome State Fault Refusal :=
  if t < 10 then
    let q := s.claim t
    ret (q.2.send (.busRead (rEvc (0x3000 + 8 * t)) q.1))
  else ret s

/-- Vectors written 1 are armed, and send at once when a source of theirs is pending. -/
def State.vecArm (s : State) (v : W64) : State :=
  iter 32 (fun j t =>
    if bit v j then
      let t := t.setRbit (rEvc 0x3100) j true
      if t.vecPend j then t.sendVec j else t
    else t) s

/-- EVC_VEC_ARM (R410). -/
def execEvcVecArm (v : BitVec 32) (s : State) : Host.Outcome State Fault Refusal := ret (s.vecArm (v.setWidth 64))

/-- MSIX_UNMASK (R410): the mask bit of a vector clears; a deferred message is sent. -/
def State.unmask (s : State) (v : Nat) : State :=
  let t := s.setRbit (rCrn (0x8008 + 16 * v)) 32 false
  if t.rbit (rCrn 0x9000) v then t.sendVec v else t

/-- MSIX_UNMASK. -/
def execMsixUnmask (v : Nat) (s : State) : Host.Outcome State Fault Refusal := ret (if v < 32 then s.unmask v else s)

/-- A write to EVC_SRC_CFGn (R406, R423): pending is kept, the new setting applies, a pending source is delivered. -/
def State.srcCfg (s : State) (n : Nat) (v : W64) : State :=
  let t := s.rwReg (rEvc (8 * n)) 0xF7F0001F v
  let raw := t.evcRaw n
  if t.evcSense n ≤ 1 then
    let u := t.setLevel n raw
    u.deliver n
  else t.deliver n

/-- EVENT_INPUT_CHANGE (R407, R408). -/
def execEventInputChange (n : Nat) (level : Bool) (s : State) : Host.Outcome State Fault Refusal :=
  ret (if n < 1024 then s.setLevel n level else s)

/-- PCIE_LINK_STATE_CHANGE (R411): source 971 pulses. -/
def execPcieLinkStateChange (s : State) : Host.Outcome State Fault Refusal := ret (s.pulse 971)

/-- WATCHDOG_EXPIRY (R404): the hart restarts; the third restart within 10 s halts the Crown, and each die is held
at k = 192 or above. -/
def execWatchdogExpiry (hart : Nat) (s : State) : Host.Outcome State Fault Refusal :=
  if hart < 4 && s.rf (rCrn 0) 29 3 == 2 then
    let now := s.time.toNat
    let l := now :: s.wdTimes.filter fun x => now < x + 10000000000
    let t := { s with wdTimes := l }
    if l.length < 3 then ret ((t.pulse 968).journalOpen 0x80 0 9 hart)
    else
      let t := ((t.setRf (rCrn 0) 29 3 4).setRbit (rBoot 0x118) 25 false).pulse 968
      let t := iter 4 (fun d t =>
        let r := rPwr (0x100 + 8 * d)
        if t.hasDie d then t.setRf r 55 9 (Nat.max 192 (t.rf r 55 9)) else t) t
      ret ((t.setLevel 969 true).journalOpen 0x80 1 9 hart)
  else ret s

/-! ### Core mailboxes (R412-R416) -/

def mbxData (c n : Nat) : Nat := rCore c (0x1000 + 8 * n)
def mbxStat (c : Nat) : Nat := rCore c 0x1040
def mbxMask (c : Nat) : Nat := rCore c 0x1050
def mbxSem (c : Nat) : Nat := rCore c 0x1058
def outData (c n : Nat) : Nat := rCore c (0x1080 + 8 * n)
def outStat (c : Nat) : Nat := rCore c 0x10C0

/-- A full inbound mailbox is written: COLLISION (R413). -/
def State.inHit (s : State) (c : Nat) : State :=
  if s.rbit (mbxStat c) 32 then s.setRbit (mbxStat c) 33 true else s

/-- Signal the mailbox's semaphore by a number of chimes (R414). -/
def State.chimeSignal (s : State) (c n : Nat) : State :=
  if n ≠ 0 && s.rbit (mbxSem c) 31 then s.signal c (s.rf (mbxSem c) 0 6) n else s

/-- Set chimes; those newly set and unmasked signal (R414). -/
def State.setChimes (s : State) (c : Nat) (ch : BitVec 32) : State :=
  let old : BitVec 32 := bits (s.reg (mbxStat c)) 0 32
  let fresh := ch &&& ~~~ old
  let mask : BitVec 32 := bits (s.reg (mbxMask c)) 0 32
  (s.setRf (mbxStat c) 0 32 (old ||| ch).toNat).chimeSignal c (popcount (fresh &&& ~~~ mask))

/-- Write an inbound data register (R413). -/
def State.inData (s : State) (c n : Nat) (v : W64) : State := (s.inHit c).setReg (mbxData c n) v

/-- MBX_IN_RING: go and chimes (R413). -/
def State.inRing (s : State) (c : Nat) (v : W64) : State :=
  let t := if bit v 32 then (s.inHit c).setRbit (mbxStat c) 32 true else s
  t.setChimes c (bits v 0 32)

/-- A trigger is delivered (R334): data registers, go, chime, then the semaphore. -/
def State.trigger (s : State) (c : Nat) (data : List W64) (chime rsem rinc : Nat) : State :=
  let t := s.inHit c
  let t := iter data.length (fun i t => t.setReg (mbxData c i) (nth 0 data i)) t
  let t := (t.setRbit (mbxStat c) 32 true).setChimes c (BitVec.ofNat 32 (2 ^ (chime % 32)))
  if rinc = 0 then t else t.signal c rsem rinc

/-- MBX_IN_RING (R413). -/
def execMbxInRing (c : Nat) (v : W64) (s : State) : Host.Outcome State Fault Refusal :=
  ret (if c < 64 && s.hasCore c then s.inRing c v else s)

/-- MBX_IN_DATA_WRITE (R413). -/
def execMbxInDataWrite (c n : Nat) (v : W64) (s : State) : Host.Outcome State Fault Refusal :=
  ret (if c < 64 && s.hasCore c && n < 8 then s.inData c n v else s)

/-- A write to MBX_IN_MASK: set chimes that become unmasked signal (R414). -/
def State.maskWrite (s : State) (c : Nat) (v : BitVec 32) : State :=
  let old : BitVec 32 := bits (s.reg (mbxMask c)) 0 32
  let ch : BitVec 32 := bits (s.reg (mbxStat c)) 0 32
  (s.setRf (mbxMask c) 0 32 v.toNat).chimeSignal c (popcount (ch &&& old &&& ~~~ v))

/-- MBX_IN_MASK_WRITE (R414). -/
def execMbxInMaskWrite (c : Nat) (v : BitVec 32) (s : State) : Host.Outcome State Fault Refusal :=
  ret (if c < 64 && s.hasCore c then s.maskWrite c v else s)

/-- MBOXOUT's effect (R415). -/
def State.mboxOut (s : State) (c : Nat) (data : List W64) : State :=
  let t := if s.rbit (outStat c) 32 then s.setRbit (outStat c) 33 true else s
  let t := iter data.length (fun i t => t.setReg (outData c i) (nth 0 data i)) t
  (t.setRbit (outStat c) 32 true).pulse (8 * c + 5)

/-- MBOXIN's effect (R148, R185): the copy, then go and the chimes copied clear; the mailbox is consumed. -/
def State.mboxIn (s : State) (c off : Nat) : State :=
  let st := s.reg (mbxStat c)
  let bytes := ((List.range 8).map fun i => toBytes 8 (s.reg (mbxData c i)).toNat).flatten
    ++ toBytes 8 (fld st 0 32 + (bit st 33).toNat * 2 ^ 32 + (bit st 32).toNat * 2 ^ 33)
  let own := bytes.take (0x1800000 - off)
  let t := s.poke (storeAddr c off) own
  let t := if own.length < 72 then t.coreViol c [storeAddr c (Nat.max off 0x1800000)] else t
  ((t.setRbit (mbxStat c) 32 false).setRf (mbxStat c) 0 32 0).pulse (8 * c + 6)

/-- Core reset's part in the mailboxes (R416). -/
def State.mbxReset (s : State) (c : Nat) : State := { s with regs := Tab.clear (rCore c 0x1000) 0xD0 s.regs }

/-! ### Host mailbox (R417) -/

def hostData (n : Nat) : Nat := rCrn (0x100 + 8 * n)
def hostCtrl : Nat := rCrn 0x180

/-- Set go of the host mailbox; `crown` says who (R417). -/
def State.hostRing (s : State) (crown : Bool) : State :=
  let t := if s.rbit hostCtrl 0 then s.setRbit hostCtrl 2 true else s
  (t.setRbit hostCtrl 0 true).setRbit hostCtrl 1 crown

/-- A data write to the host mailbox (R417). -/
def State.hostWrite (s : State) (n : Nat) (v : W64) : State :=
  let t := if s.rbit hostCtrl 0 then s.setRbit hostCtrl 2 true else s
  t.setReg (hostData n) v

/-- MBX_HOST_RING (R417). -/
def execMbxHostRing (crown : Bool) (s : State) : Host.Outcome State Fault Refusal := ret (s.hostRing crown)

end Sys2Proof.Machine
end

