-- ==== Sys2Proof/Machine/Hbm.lean ====
section
/-! DEFINITION. The stacked memory system (08_hbm_memory.md): engine reads and writes with block checks, error correction,
remaps, the controllers' queues, bring-up and maintenance. -/

namespace Sys2Proof.Machine

/-! ### Addresses (R200-R203) -/

/-- Bytes of the usable region of a stack (R200). -/
def usable : Nat := 0x1FC0000000

/-- Pseudo-channel of a stack offset (R203). -/
def hbmPc (off : Nat) : Nat :=
  let g := off >>> 11
  (g % 32) ^^^ ((g >>> 5) % 32) ^^^ ((g >>> 11) % 32) ^^^ ((g >>> 16) % 32) ^^^ ((g >>> 21) % 32)

/-- Bank of a stack offset (R203). -/
def hbmBank (off : Nat) : Nat :=
  let g := off >>> 11
  ((g >>> 5) % 64) ^^^ ((g >>> 11) % 64) ^^^ ((g >>> 17) % 64) ^^^ ((g >>> 23) % 8)

/-- Row of a stack offset (R203). -/
def hbmRow (off : Nat) : Nat := (off >>> 22) % 32768

/-- The column of a stack offset: the byte within its row (R203). -/
def hbmCol (off : Nat) : Nat := off % 2048

/-- The bank of a stack offset among all banks of the stack, and its row plus one: what `Stack.rows` holds for an open row. -/
def hbmOpen (off : Nat) : Nat × Nat := (64 * hbmPc off + hbmBank off, hbmRow off + 1)

/-- The marker of a poisoned block (R212). -/
def poisonMark : W64 := 0xFFFFFFFFFFFFFFFF

/-- The stored check word of the block at device-local address 4,096 × key (R201). -/
def State.chkOf (s : State) (key : Nat) : W64 := Tab.get 0 key s.chk

/-- Set a check word. -/
def State.setChk (s : State) (key : Nat) (v : W64) : State := { s with chk := Tab.put 0 key v s.chk }

/-- The check word that a read returns: where the address is dead it is poisoned (R205, R221). -/
def State.chkRead (s : State) (key : Nat) : W64 := if s.dead (4096 * key) then poisonMark else s.chkOf key

/-- Reads of this address carry the poison bit (R205, R450). -/
def State.poisoned (s : State) (a : Nat) : Bool :=
  s.populated a && (s.dead a || (match region a with | .hbm _ _ => s.chkOf (a / 4096) == poisonMark | _ => false))

/-! ### Reports (R228, R229) -/

/-- HBM_ERR_LOG holds the first event since it was read (R12, R228). -/
def State.errLog (s : State) (st kind a : Nat) : State :=
  if s.rf (rHbm st 0x48) 60 4 = 0 then
    s.setReg (rHbm st 0x48) (setFld (BitVec.ofNat 64 (a % 2 ^ 43)) 60 4 kind)
  else s

/-- Content loss: the pulse of source 514 + 4s and its journal record (R229). -/
def State.contentLoss (s : State) (st : Nat) : State :=
  (s.pulse (514 + 4 * st)).journalPut 0x21 1 3 st (toBytes 8 (s.reg (rHbm st 0x48)).toNat)

/-- A consumer reports lost content in the block at `a` (R215): kind 4 or 5. -/
def State.reportLost (s : State) (st kind a : Nat) : State :=
  ((s.errLog st kind a).bump (rHbm st 0x30) 16 16 1).contentLoss st

/-- A consumer received poisoned data at `a` (R205, R215). -/
def State.reportPoison (s : State) (a : Nat) : State :=
  match region a with
  | .hbm st _ => s.reportLost st 5 (a / 4096 * 4096)
  | _ => s

/-- A check that failed once and did not fail again is transient (R215, R228). -/
def State.transient (s : State) (st a : Nat) : State := (s.errLog st 3 a).bump (rHbm st 0x30) 0 16 1

/-- Source `who` has first failures of block `key` recorded: it is reading the block again. -/
def State.rereads (s : State) (who key : Nat) : Bool := s.rechecks.any fun p => p.1 == who && p.2 == key

/-- A source's first failures are forgotten, for one block or for all. -/
def State.dropRecheck (s : State) (who key : Nat) : State :=
  { s with rechecks := s.rechecks.filter fun p => !(p.1 == who && p.2 == key) }
def State.dropRechecks (s : State) (who : Nat) : State := { s with rechecks := s.rechecks.filter fun p => p.1 != who }

/-- Source `who` verifies the block that starts at `a` (R215): whether it may be consumed; none: the check has failed for the first
time, and the block is to be read again. -/
def State.verifyBlock (s : State) (who a : Nat) : State × Option Bool :=
  match region a with
  | .hbm st _ =>
    let key := a / 4096
    let again := s.rereads who key
    let t := s.dropRecheck who key
    let passed := if again then t.transient st a else t
    if s.poisoned a then (t.reportLost st 5 a, some false)
    else if s.chkOf key = 0 then (passed.bump (rHbm st 0x38) 0 32 1, some true)
    else if s.chkOf key = sealOf (s.read a 4096) then (passed, some true)
    else if again then (t.reportLost st 4 a, some false)
    else ({ s with rechecks := (who, key) :: s.rechecks }, none)
  | _ => (s, some true)

/-- Both reads of a verification in one step. -/
def State.verifyNow (s : State) (who a : Nat) : State × Bool :=
  let q := s.verifyBlock who a
  match q.2 with
  | some b => (q.1, b)
  | none => let r := q.1.verifyBlock who a; (r.1, r.2.getD false)

/-! ### Writes (R213, R459, R460) -/

/-- A block lies in a snapshot region (R458, R459). -/
def Vsp.covers (v : Vsp) (key : Nat) : Bool := v.regions.any fun r => r.1 ≤ key && key < r.1 + r.2

/-- Vespers' part of a write to a block: a pending block is read for the snapshot first, both reads of R215 before the write (R460);
the dirty bit is set (R459). -/
def State.vspTouch (s : State) (key : Nat) : State :=
  if s.vsp.covers key then
    let t :=
      if hasNat s.vsp.pend key then
        let q := s.verifyNow 361 (4096 * key)
        { q.1 with vsp := { q.1.vsp with pend := q.1.vsp.pend.filter (· != key),
                                         cap := q.1.vsp.cap ++ [(key, s.read (4096 * key) 4096, q.2)] } }
      else s
    if hasNat t.vsp.dirty key then t else { t with vsp := { t.vsp with dirty := key :: t.vsp.dirty } }
  else s

/-- A write within one 4 KiB block of HBM; `gen` makes a whole-block write a sealing write (R213). -/
def State.hbmPart (s : State) (a : Nat) (d : Bytes) (gen : Bool) : State :=
  if s.live a then
    let key := a / 4096
    let t := (s.vspTouch key).poke a d
    if a % 4096 = 0 ∧ d.length = 4096 then t.setChk key (if gen then sealOf d else 0)
    else if s.chkOf key = poisonMark then t
    else t.setChk key 0
  else s

/-- Bytes at an address cut at multiples of `n`. -/
def cuts (n : Nat) : Nat → Nat → Bytes → List (Nat × Bytes)
  | 0, _, _ => []
  | _, _, [] => []
  | fuel + 1, a, b :: bs =>
    let k := n - a % n
    (a, (b :: bs).take k) :: cuts n fuel (a + k) ((b :: bs).drop k)

/-- An engine's write at a device-local address: HBM by blocks, a core store as it is, nothing elsewhere (R41). -/
def State.store (s : State) (a : Nat) (d : Bytes) (gen : Bool) : State :=
  (cuts 4096 (d.length + 1) a d).foldl (fun t p =>
    match region p.1 with
    | .hbm _ _ => t.hbmPart p.1 p.2 gen
    | .store _ _ => t.poke p.1 p.2
    | _ => t) s

/-! ### Remaps (R220-R223) -/

/-- Entries in use. -/
def Stack.entries (k : Stack) : List Remap := k.remaps.filterMap (·.2)

/-- The lost, entries and spares fields of HBM_REPAIR_STAT, and the repair-resources level (R222, R228). -/
def State.repairStat (s : State) (st : Nat) : State :=
  let k := s.stack st
  let r := rHbm st 0x40
  let t := ((s.setRf r 48 16 (satAdd 16 0 k.lost.length)).setRf r 32 16 (satAdd 16 0 k.entries.length)).setRf r 14 18 k.taken.length
  t.setLevel (515 + 4 * st) (decide (30720 ≤ k.entries.length) || decide (196608 < k.taken.length + 1024))

/-- The lowest number that a list does not name. -/
def lowestFree (l : List Nat) : Nat := ((List.range (l.length + 1)).find? fun n => !hasNat l n).getD 0

/-- The remap entry of a block, with its index. -/
def Stack.entryOf (k : Stack) (block : Nat) : Option (Nat × Remap) :=
  (k.remaps.filterMap fun p => p.2.map fun r => (p.1, r)).find? fun p => p.2.block == block

/-- Declare an address lost (R221, R222), its check poisoned: kind 6 at its third repeat failure, kind 7 without resources. -/
def State.loseBlock (s : State) (st block kind : Nat) : State :=
  let t := s.modStack st fun k =>
    { k with lost := block :: k.lost,
             remaps := match k.entryOf block with
               | some p => Tab.put none p.1 (some { p.2 with lost := true }) k.remaps
               | none => k.remaps }
  let t := t.setChk (hbmAddr st (4096 * block) / 4096) poisonMark
  ((t.errLog st kind (hbmAddr st (4096 * block))).repairStat st).contentLoss st

/-- A failure of the block's current location (R220): a remap starts, or the address is lost. -/
def State.blockFails (s : State) (st block : Nat) (ue : Bool) : State :=
  let k := s.stack st
  if hasNat k.lost block then s
  else if k.copying.any (fun c => c.block == block) then s.modStack st fun k => { k with again := block :: k.again }
  else
    let old := k.entryOf block
    let used := k.entries.length + (k.copying.filter fun c => (k.entryOf c.block).isNone).length
    if (match old with | some p => decide (3 ≤ p.2.remaps) | none => false) then s.loseBlock st block 6
    else if 196608 ≤ k.taken.length || (old.isNone && 32768 ≤ used) then s.loseBlock st block 7
    else
      let sp := lowestFree k.taken
      (s.modStack st fun k => { k with taken := sp :: k.taken, copying := k.copying ++ [⟨block, sp, ue⟩] }).repairStat st

/-- A correctable error of a block at a time in seconds (R220). -/
def State.trackCe (s : State) (st block timeS : Nat) : State :=
  let k := s.stack st
  let window := Nat.max 1 (s.rf (rHbm st 0x18) 16 16)
  let thr := s.rf (rHbm st 0x18) 0 8
  let old := k.tracker.find? fun e => e.block == block
  let e : CeEntry := match old with
    | some e => if e.start + window < timeS then ⟨block, 1, timeS⟩ else { e with count := e.count + 1 }
    | none => ⟨block, 1, timeS⟩
  let rest := k.tracker.filter fun e => e.block != block
  let rest :=
    if rest.length < 1024 then rest
    else
      let low := rest.foldl (fun m e => Nat.min m e.count) (rest.headD e).count
      match rest.find? fun e => e.count == low with
      | some v => rest.filter fun e => e.block != v.block
      | none => rest
  let keep := match old with
    | some o => if o.start = e.start then k.tracker.map (fun x => if x.block = block then e else x) else rest ++ [e]
    | none => rest ++ [e]
  let t := s.modStack st fun k => { k with tracker := keep }
  if thr ≠ 0 ∧ e.count = thr then t.blockFails st block false else t

/-- The error-correction outcome of one 64 B read at a stack offset (R218). -/
def State.eccOutcome (s : State) (st off timeS : Nat) (o : Ecc) : State :=
  let block := off / 4096
  let a := hbmAddr st (off / 64 * 64)
  match o with
  | .good => s
  | .corrected =>
    ((((s.bump (rHbm st 0x20) 0 32 1).errLog st 1 a).vspTouch (a / 4096))).trackCe st block timeS
  | .uncorrectable =>
    let t := ((s.bump (rHbm st 0x28) 0 32 1).errLog st 2 a).contentLoss st
    (if hasNat (s.stack st).lost block then t else t.setChk (a / 4096) poisonMark).blockFails st block true

/-- The outcomes of a read of consecutive 64 B units. -/
def State.eccOutcomes (s : State) (st off timeS : Nat) : List Ecc → State
  | [] => s
  | o :: os => (s.eccOutcome st off timeS o).eccOutcomes st (off + 64) timeS os

/-! ### Failure and readiness of a stack (R224-R227) -/

/-- Data and poison of an accepted read, taken from memory now. -/
def State.capture (s : State) (st off len : Nat) : Bytes × List Bool :=
  (s.read (hbmAddr st off) len, (List.range (len / 64)).map fun i => s.poisoned (hbmAddr st (off + 64 * i)))

/-- BOOT_READY_STACK and the ready level follow the state (R224, R229). -/
def State.setStackState (s : State) (st v : Nat) : State :=
  ((s.setRf (rHbm st 0) 29 3 v).setRbit (rBoot 0x108) st (v == 2)).setLevel (512 + 4 * st) (v == 2)

/-- A stack becomes FAILED (R226, R230): accepted reads complete poisoned, accepted writes not yet applied are dropped. -/
def State.failStack (s : State) (st : Nat) : State :=
  let t := s.setStackState st 5
  let t := t.modStack st fun k =>
    { k with held := [], wbuf := [], batch := [], rows := [], copying := [], again := [], timeouts := [],
             reads := k.reads.map fun r => { r with got := some (List.replicate r.len 0, List.replicate (r.len / 64) true) } }
  ((t.journalPut 0x22 1 3 st (t.freeBytes 36)).fresh).mapChange

/-- Zero fill: every usable byte zero, every block unsealed (R224 step 6). -/
def State.zeroStack (s : State) (st : Nat) : State :=
  { s with mem := Tab.clear (hbmAddr st 0) usable s.mem, chk := Tab.clear (hbmAddr st 0 / 4096) (usable / 4096) s.chk }

/-! ### The controller's commands -/

/-- A request has a legal shape and lies in one granule of the stack (R204). -/
def legalReq (r : HbmReq) : Bool :=
  r.offset % 64 == 0 && r.len % 64 == 0 && 64 ≤ r.len && hbmCol r.offset + r.len ≤ 2048 && r.offset + r.len ≤ 0x2000000000
    && (!r.write || r.data.length == r.len)

/-- A request's access is silent and counted in the violation counter of its source (R41): the core's for its channels and
program loads, else the block's (log 86). -/
def State.sourceViol (s : State) (who a : Nat) : State :=
  if who < 256 then s.coreViol (who / 4) [a]
  else if who < 288 then s.bump (rDma ((who - 256) / 8) 0x800) 0 32 1
  else if who < 352 then s.coreViol (who - 288) [a]
  else if who < 356 then s.bump (rCol (0x8010 + 0x100 * (who - 352))) 0 32 1
  else if who < 360 then s.bump (rRsb (who - 356) 0x20) 0 32 1
  else s

/-- A request to a reserved region, or to a stack that is not mounted: reads return zeros, writes are dropped (R41, R200). -/
def State.silentReq (s : State) (st : Nat) (r : HbmReq) : State :=
  let t := s.sourceViol r.source (hbmAddr st r.offset)
  if r.write then t
  else t.send (.hbmRead st r.source r.offset (List.replicate r.len 0) (List.replicate (r.len / 64) false))

/-- The controller has room for a request (R210). -/
def Stack.room (k : Stack) (r : HbmReq) : Bool :=
  if r.write then Tab.get 0 (hbmPc r.offset) k.wbuf + r.len ≤ 65536
  else (k.reads.filter fun x => hbmPc x.offset == hbmPc r.offset).length < 256

/-- Enter an accepted request: a write is visible from now on (R204, R210), one to a block being copied is held (R223). -/
def State.enterReq (s : State) (st : Nat) (r : HbmReq) : State :=
  let isHeld := (s.stack st).copying.any fun c => c.block == r.offset / 4096
  if r.write then
    let t := s.modStack st fun k => { k with wbuf := Tab.upd 0 (hbmPc r.offset) (· + r.len) k.wbuf }
    if isHeld then t.modStack st fun k => { k with held := k.held ++ [r] }
    else t.store (hbmAddr st r.offset) r.data false
  else if isHeld then
    s.modStack st fun k => { k with held := k.held ++ [r], reads := k.reads ++ [⟨r.source, r.offset, r.len, none⟩] }
  else
    s.modStack st fun k => { k with reads := k.reads ++ [⟨r.source, r.offset, r.len, some (s.capture st r.offset r.len)⟩] }

/-- Command and address parity failed this often (R217): a retry that succeeds is counted, a third failure fails the stack. -/
def State.cmdParity (s : State) (st fails : Nat) : State :=
  if fails = 0 ∨ s.hbmState st = 5 then s
  else if fails < 3 then s.bump (rHbm st 0x20) 0 32 1
  else s.failStack st

/-- HBM_REQ_ACCEPT (R200, R204, R210, R217): a request without room waits at the die fabric and nothing changes. -/
def execHbmReqAccept (st : Nat) (r : HbmReq) (parityFails : Nat) (s : State) : Host.Outcome State Fault Refusal :=
  if !legalReq r || 32 ≤ st then ret s
  else if !s.hasStack st || usable < r.offset + r.len then ret (s.silentReq st r)
  else if (s.stack st).room r then
    let t := s.cmdParity st parityFails
    ret (if r.write && (t.hbmState st == 3 || t.hbmState st == 5) then t else t.enterReq st r)
  else ret s

/-- HBM_WRITE_BATCH_START (R209). -/
def execHbmWriteBatchStart (st pc ageNs : Nat) (s : State) : Host.Outcome State Fault Refusal :=
  let k := s.stack st
  let full := Tab.get 0 pc k.wbuf
  let lat := hasNat k.lat pc
  let due := if lat then 4096 ≤ full || 500 ≤ ageNs else 32768 ≤ full || 3000 ≤ ageNs
  if s.hasStack st && pc < 32 && 0 < full && due && !hasNat k.batch pc then
    ret (s.modStack st fun k => { k with batch := k.batch ++ [pc] })
  else ret s

/-- Every pseudo-channel without a batch in progress takes the requested mode; HBM_STATUS.sched follows once all have it (R34). -/
def State.schedApply (s : State) (st : Nat) : State :=
  let want := s.rbit (rHbm st 8) 0
  let t := s.modStack st fun k =>
    { k with lat := (List.range 32).filter fun pc => if hasNat k.batch pc then hasNat k.lat pc else want }
  if (List.range 32).all fun pc => hasNat (t.stack st).lat pc == want then t.setRbit (rHbm st 0) 28 want else t

/-- The open rows of a pseudo-channel are closed to prediction: which rows a batch leaves open is not told (log 86). -/
def Stack.closeRows (k : Stack) (pc : Nat) : Stack := { k with rows := k.rows.filter fun p => p.1 / 64 != pc }

/-- HBM_WRITE_BATCH_END (R34, R209): the buffer is empty, or an old read waits; what the batch then leaves buffered is open. -/
def execHbmWriteBatchEnd (st pc readAgeNs : Nat) (s : State) : Host.Outcome State Fault Refusal :=
  let k := s.stack st
  let lim := if hasNat k.lat pc then 500 else 2000
  if s.hasStack st && hasNat k.batch pc then
    let early := lim ≤ readAgeNs && k.reads.any (fun r => hbmPc r.offset == pc)
    let left := if early then (Config.freeBits 17 s.freeIx).toNat % (Tab.get 0 pc k.wbuf + 1) else 0
    let t := s.modStack st fun k =>
      { k.closeRows pc with batch := k.batch.filter (· != pc), wbuf := Tab.put 0 pc left k.wbuf }
    ret ((if early then t.fresh else t).schedApply st)
  else ret s

/-- The first read that a test takes, and the others. -/
def takeRead (p : HRead → Bool) : List HRead → Option (HRead × List HRead)
  | [] => none
  | r :: rs => if p r then some (r, rs) else (takeRead p rs).map fun q => (q.1, r :: q.2)

/-- The read that a pseudo-channel serves next (R209): the oldest while `aged` of its reads are 2 µs old (250 ns for latency), else the
oldest to an open row, else the oldest. A read held for a remap is passed over (R223). -/
def Stack.nextRead (k : Stack) (pc aged : Nat) : Option (HRead × List HRead) :=
  let mine := fun r : HRead => hbmPc r.offset == pc && r.got.isSome
  let hit := fun r : HRead => mine r && Tab.get 0 (hbmOpen r.offset).1 k.rows == (hbmOpen r.offset).2
  if aged = 0 then (takeRead hit k.reads).orElse fun _ => takeRead mine k.reads else takeRead mine k.reads

/-- HBM_READ_COMPLETE (R205, R209, R210, R217, R218): a read leaves pseudo-channel `pc` with its poison bits, and its row stays
open. -/
def execHbmReadComplete (x : ReadOut) (ecc : List Ecc) (timeS : Nat) (s : State) :
    Host.Outcome State Fault Refusal :=
  let s := if ((s.stack x.stack).nextRead x.pc x.aged).isSome then s.cmdParity x.stack x.parityFails else s
  match (s.stack x.stack).nextRead x.pc x.aged with
  | none => ret s
  | some (r, rest) =>
    let t := s.modStack x.stack fun k => { k with reads := rest, rows := Tab.put 0 (hbmOpen r.offset).1 (hbmOpen r.offset).2 k.rows }
    let n := r.len / 64
    let failed := s.hbmState x.stack == 5
    let ecc := if failed then [] else ecc.take n
    let t := t.eccOutcomes x.stack r.offset timeS ecc
    let got := r.got.getD ([], [])
    let bad := (List.range n).map fun i =>
      nth false got.2 i || (match nth .good ecc i with | .uncorrectable => true | _ => false)
    ret (t.send (.hbmRead x.stack r.source r.offset got.1 bad))

/-- Serve what was held for a block, in order (R223, R230). -/
def State.serveHeld (s : State) (st : Nat) : List HbmReq → State
  | [] => s
  | r :: rs =>
    let t :=
      if r.write then s.store (hbmAddr st r.offset) r.data false
      else
        let got := s.capture st r.offset r.len
        s.modStack st fun k =>
          match findIx (fun x => x.got.isNone && x.offset == r.offset && x.source == r.source) k.reads with
          | some i => { k with reads := setNth k.reads i ⟨r.source, r.offset, r.len, some got⟩ }
          | none => k
    t.serveHeld st rs

/-- The copy of a block to its spare completes (R220, R223, R230). -/
def State.remapDone (s : State) (st block : Nat) : State :=
  let k := s.stack st
  match k.copying.find? fun c => c.block == block with
  | none => s
  | some c =>
    let e : Remap := match k.entryOf block with
      | some p => { p.2 with remaps := p.2.remaps + 1, spare := c.spare }
      | none => ⟨block, 1, c.spare, false⟩
    let ix := match k.entryOf block with | some p => p.1 | none => lowestFree (k.remaps.map (·.1))
    let mine := k.held.filter fun r => r.offset / 4096 == block
    let t := s.modStack st fun k =>
      { k with copying := k.copying.filter (fun c => c.block != block), remaps := Tab.put none ix (some e) k.remaps,
               held := k.held.filter (fun r => r.offset / 4096 != block), again := k.again.filter (· != block) }
    let t := (t.errLog st (if c.ue then 9 else 8) (hbmAddr st (4096 * block))).repairStat st
    let t := (t.pulse (513 + 4 * st)).journalPut 0x20 0 3 st
      (toBytes 8 (t.reg (rHbm st 0x48)).toNat ++ toBytes 8 (t.reg (rHbm st 0x40)).toNat)
    let t := t.serveHeld st mine
    (k.again.filter (· == block)).foldl (fun t _ => t.blockFails st block true) t

/-- HBM_REMAP_COMPLETE. -/
def execHbmRemapComplete (st block : Nat) (s : State) : Host.Outcome State Fault Refusal := ret (s.remapDone st block)

/-- HBM_PC_TIMEOUT (R227). -/
def execHbmPcTimeout (st pc : Nat) (answered : Bool) (s : State) : Host.Outcome State Fault Refusal :=
  if s.hasStack st && pc < 32 && s.hbmState st != 5 then
    let n := if answered then 0 else Tab.get 0 pc (s.stack st).timeouts + 1
    if 3 ≤ n then ret (s.failStack st)
    else ret (s.modStack st fun k => { k with timeouts := Tab.put 0 pc n k.timeouts })
  else ret s

/-- The refresh level for a sensor reading in °C (R211): raised at once, lowered one round in four below the threshold
less 2 °C. -/
def State.refreshRound (s : State) (st temp : Nat) : State :=
  let r := rHbm st 0
  let t := s.setRf r 16 8 temp
  let lv := s.rf r 26 2
  let want := if 95 ≤ temp then 2 else if 85 ≤ temp then 1 else 0
  let lower := if lv = 2 then 93 else 83
  if lv < want then (t.setRf r 26 2 want).modStack st fun k => { k with cool := 0 }
  else if 0 < lv ∧ temp < lower then
    if 3 ≤ (s.stack st).cool then (t.setRf r 26 2 (lv - 1)).modStack st fun k => { k with cool := 0 }
    else t.modStack st fun k => { k with cool := k.cool + 1 }
  else t.modStack st fun k => { k with cool := 0 }

/-- HBM_SCRUB_READ (R219). -/
def execHbmScrubRead (st block : Nat) (ecc : List Ecc) (timeS : Nat) (s : State) : Host.Outcome State Fault Refusal :=
  if s.hasStack st && s.rbit (rHbm st 0x8) 1 && s.hbmState st == 2 && block < usable / 4096 then
    ret (s.eccOutcomes st (4096 * block) timeS (ecc.take 64))
  else ret s

/-- HBM_SCHED_APPLY (R34, R209, R230): on each pseudo-channel once its batch is over. -/
def execHbmSchedApply (st : Nat) (s : State) : Host.Outcome State Fault Refusal :=
  ret (if s.hasStack st then s.schedApply st else s)

/-- HBM_WAVE_START (R224): a stack of the second wave starts once the first wave of its die has finished. -/
def execHbmWaveStart (st : Nat) (s : State) : Host.Outcome State Fault Refusal :=
  let firstDone := (List.range 4).all fun i => 2 ≤ s.hbmState (st / 8 * 8 + i)
  if s.hasStack st && s.rf (rCrn 0) 29 3 != 3 && s.hbmState st == 0 && (st % 8 < 4 || firstDone) then ret (s.setRf (rHbm st 0) 29 3 1)
  else ret s

/-- In a recovery boot the first stack up takes the BAR2 window and is recorded (R447). -/
def State.recovered (s : State) (st : Nat) : State :=
  if s.rf (rCrn 0) 29 3 = 3 then (s.setReg (rCrn 0x200) (BitVec.ofNat 64 (hbmAddr st 0))).setRf (rBoot 0x10) 48 2 st else s

/-- In a recovery boot the next of stacks 0 to 3 is tried (R447). -/
def State.recoverNext (s : State) (st : Nat) : State :=
  if s.rf (rCrn 0) 29 3 = 3 && st < 3 && s.hasStack (st + 1) then s.setStackState (st + 1) 1 else s

/-- Rows that hard PPR may repair still: 2,048 a stack (R224). -/
def State.hardLeft (s : State) (st : Nat) : Nat := 2048 - Tab.get 0 st s.hppr

/-- Hard PPR repairs `n` more rows, which persists in the stack; HBM_REPAIR_STAT.hppr shows it (R224, R228). -/
def State.useHard (s : State) (st n : Nat) : State :=
  let v := Tab.get 0 st s.hppr + Nat.min n (s.hardLeft st)
  ({ s with hppr := Tab.put 0 st v s.hppr }).setRf (rHbm st 0x40) 0 14 v

/-- Steps 5 and 6 of Table 6 (R224): rows repaired, the other failing blocks remapped while entries and spares last, zero fill. -/
def State.testRepair (s : State) (st hard soft : Nat) (remapped : List Nat) : State :=
  let t := s.zeroStack st
  let t := (t.setRf (rHbm st 0x60) 16 16 (Nat.min hard (s.hardLeft st))).setRf (rHbm st 0x60) 0 16 soft
  let t := t.useHard st hard
  (remapped.foldl (fun t b =>
    let k := t.stack st
    if (k.entryOf b).isSome || hasNat k.lost b || 32768 ≤ k.entries.length || 196608 ≤ k.taken.length then t
    else
      let sp := lowestFree k.taken
      t.modStack st fun k =>
        { k with taken := sp :: k.taken, remaps := Tab.put none (lowestFree (k.remaps.map (·.1))) (some ⟨b, 1, sp, false⟩) k.remaps }) t).repairStat st

/-- STACK_BRINGUP_END (R224, R226): repair, zero fill and READY, or FAILED. `remapped` are the blocks that test remaps. -/
def execStackBringupEnd (st : Nat) (ok : Bool) (hard soft : Nat) (remapped : List Nat) (s : State) :
    Host.Outcome State Fault Refusal :=
  if s.hasStack st && s.hbmState st == 1 then
    if ok then
      let t := (s.modStack st fun _ => Stack.reset).testRepair st hard soft remapped
      ret (((t.schedApply st).setStackState st 2).recovered st)
    else ret ((s.failStack st).recoverNext st)
  else ret s

/-- HBM_MAINT_REQ (R225 steps 1 to 3): every accepted request completes, so running copies do too. -/
def State.maintReq (s : State) (st : Nat) : State :=
  if s.hasStack st && (s.hbmState st == 2 || s.hbmState st == 4) then
    let t := (s.stack st).copying.foldl (fun t c => t.remapDone st c.block) s
    let t := (t.stack st).copying.foldl (fun t c => t.remapDone st c.block) t
    (t.modStack st fun k => { k with wbuf := [], batch := [], rows := [] }).setStackState st 3
  else s

/-- HBM_MAINT_REQ. -/
def execHbmMaintReq (st : Nat) (s : State) : Host.Outcome State Fault Refusal := ret (s.maintReq st)

/-- HBM_MAINT_DONE (R225 steps 4 to 6): the test repairs `hard` and `soft` rows and remaps blocks; then `repaired` are the remap entries
whose rows hard PPR repairs, while hard-repair rows remain. -/
def execHbmMaintDone (st hard soft : Nat) (r : Retest) (s : State) : Host.Outcome State Fault Refusal :=
  if s.hasStack st && s.hbmState st == 3 then
    let t := s.testRepair st hard soft r.remapped
    let gone := ((t.stack st).remaps.filter fun p => p.2.isSome && hasNat r.repaired p.1).take (t.hardLeft st)
    let ixs := gone.map (·.1)
    let blocks := gone.filterMap fun p => p.2.map (·.block)
    let spares := gone.filterMap fun p => p.2.map (·.spare)
    let t := t.modStack st fun k =>
      { k with remaps := k.remaps.filter (fun p => !hasNat ixs p.1), taken := k.taken.filter (fun n => !hasNat spares n),
               lost := k.lost.filter (fun b => !hasNat blocks b) }
    ret ((((t.useHard st gone.length).repairStat st).schedApply st).setStackState st 2)
  else ret s

end Sys2Proof.Machine
end

