-- ==== Sys2Proof/Machine/D2d.lean ====
section
/-! DEFINITION. Die-to-die links (10_in_package_links.md): training, repair, fencing and steering of modules, the role exchange,
and the packets of the die-role protocol. -/

namespace Sys2Proof.Machine

/-! ### Modules and groups (R20, R253, R271) -/

/-- Modules of a group (R20). -/
def modulesOf (g : Nat) : Nat := if g < 4 then 24 else 16

/-- A module of a group that is mounted, its clock running: Midnight stops the module clocks (R20, R251, R253). -/
def State.d2dHere (s : State) (g m : Nat) : Bool := g < 8 && m < modulesOf g && s.hasGroup g && !s.midnight

def rMod (g m : Nat) : Nat := rD2d g (0x400 + 8 * m)
def State.modState (s : State) (g m : Nat) : Nat := s.rf (rMod g m) 61 3
def State.dmod (s : State) (g m : Nat) : DModule := Tab.get DModule.reset (32 * g + m) s.dmods
def State.modDmod (s : State) (g m : Nat) (f : DModule → DModule) : State :=
  { s with dmods := Tab.put DModule.reset (32 * g + m) (f (s.dmod g m)) s.dmods }

/-- An attached endpoint sits at the other end of a group (R268). -/
def State.endpointGroup (s : State) (g : Nat) : Bool := 4 ≤ g && s.endpointAt (g - 4)

/-- A module carries traffic: in normal mode, or retimed and in no training attempt (R254, R255, R258, R259). -/
def State.carries (s : State) (g m : Nat) : Bool :=
  let st := s.modState g m
  s.d2dHere g m && (st == 3 || st == 4 || st == 5 || (st == 1 && (s.dmod g m).train == 0))

/-- Modules of a group in a state. -/
def State.modsIn (s : State) (g : Nat) (p : Nat → Bool) : Nat := ((List.range (modulesOf g)).filter fun m => p (s.modState g m)).length

/-- D2D_CHANGE in the journal (R260, R454). -/
def State.d2dJournal (s : State) (g : Nat) : State := s.journalOpen 0x30 0 4 g

/-- The I/O die of a group is cut off: its ports report down; or it is reachable again (R261). -/
def State.ioCut (s : State) (g : Nat) (down : Bool) : State :=
  let i := g - 4
  if g < 4 then s
  else
    let t := s.setRbit (rBoot 0x118) (12 + i) (!down)
    iter 8 (fun q t =>
      let p := 8 * i + q
      let st := t.rf (rPort p 0) 61 3
      if !t.hasPort p then t
      else if down then
        (if st = 2 ∨ st = 3 ∨ (st = 1 ∧ t.rf (rPort p 0) 58 3 ≠ 4) then
          ({ t with trainQ := t.trainQ.erase p }).portDown p 6 else t)
      else if st = 1 ∧ t.rf (rPort p 0) 58 3 = 6 then (t.queuePort p).takePorts i
      else t) t

/-- D2D_GRP_STAT, the READY map and the level events follow the modules (R256, R261, R271, R272). -/
def State.judgeGroup (s : State) (g : Nat) : State :=
  let full := s.modsIn g (· == 3)
  let half := s.modsIn g fun x => x == 4 || x == 5
  let fenced := s.modsIn g (· == 6)
  let st := if 0 < full + half then 3 else if fenced = modulesOf g then 4 else if 0 < s.modsIn g (· == 2) then 2 else 1
  let r := rD2d g 0
  let was := s.rf r 61 3
  let t := (((s.setRf r 61 3 st).setRf r 40 8 full).setRf r 32 8 half).setRf r 24 8 fenced
  let t := (t.setLevel (768 + 8 * g) (st == 3)).setLevel (769 + 8 * g) (full == modulesOf g)
  let t := (t.setLevel (775 + 8 * g) (st == 4)).setRbit (rBoot 0x118) (4 + g) (st == 3)
  if st = 4 ∧ was ≠ 4 then ((t.journalPut 0x31 1 4 g (toBytes 8 (t.reg r).toNat)).mapChange).ioCut g true
  else if st = 3 ∧ was ≠ 3 then (if was = 4 then t.mapChange else t).ioCut g false
  else if st ≠ 4 ∧ was = 4 then t.mapChange
  else t

/-! ### Which dies reach which (R20-R22, R261) -/

/-- The two dies that a group joins: 0 to 3 compute, 4 to 7 I/O. -/
def groupEnds (g : Nat) : Nat × Nat :=
  match g with
  | 0 => (0, 1) | 1 => (2, 3) | 2 => (0, 2) | 3 => (1, 3) | _ => (g - 4, g)

/-- A group that carries traffic, as far as it is not down. -/
def State.joined (s : State) (g : Nat) : Bool := s.hasGroup g && (g < 4 || s.hasIo (g - 4)) && s.rf (rD2d g 0) 61 3 != 4

/-- The dies reached from a set over groups that are not down. -/
def State.reach (s : State) (from' : List Nat) : List Nat :=
  iter 8 (fun _ l => iter 8 (fun g l =>
    let e := groupEnds g
    if s.joined g && hasNat l e.1 && !hasNat l e.2 then e.2 :: l
    else if s.joined g && hasNat l e.2 && !hasNat l e.1 then e.1 :: l
    else l) l) from'

/-- The routes from compute die r to compute die d, in order of preference: the direct group, or the row's die before the column's
for a diagonal one (R21); where those are down the way around (R261). -/
def dieRoutes (r d : Nat) : List (List Nat) :=
  let row := r ^^^ 1
  let col := r ^^^ 2
  let diag := r ^^^ 3
  if d = r then [[]]
  else if d = row then [[d], [col, diag, d]]
  else if d = col then [[d], [row, diag, d]]
  else [[row, d], [col, d]]

/-- The group that joins two neighbouring compute dies. -/
def groupOf (a b : Nat) : Nat :=
  if a / 2 = b / 2 then a / 2 else 2 + a % 2

/-- Every hop of a route crosses a group that is not down. -/
def State.routeOpen (s : State) : Nat → List Nat → Bool
  | _, [] => true
  | r, d :: ds => s.joined (groupOf r d) && State.routeOpen s d ds

/-- The dies that a packet from compute die r to compute die d passes through, d last; none: they are cut off (R21, R261). -/
def State.dieRoute (s : State) (r d : Nat) : Option (List Nat) := (dieRoutes r d).find? (s.routeOpen r)

/-- Compute die d reaches no I/O die. -/
def State.dieCut (s : State) (d : Nat) : Bool := s.hasDie d && !(s.reach [d]).any (4 ≤ ·)

/-! ### Steering (R261) -/

/-- The steering table of a group; entry f starts at module f mod n (log 36). -/
def State.steering (s : State) (g : Nat) : List Nat :=
  match Tab.get [] g s.steer with
  | [] => (List.range 96).map fun f => f % modulesOf g
  | l => l

/-- The flow index of a packet (R261). -/
def flowIndex (srcUnit dstKey : Nat) : Nat := (srcUnit + 37 * dstKey) % 96

/-- The next surviving full-width module from `from` on, in ascending order around the group. -/
def State.nextFull (s : State) (g start : Nat) : Option Nat :=
  ((List.range (modulesOf g)).map fun i => (start + i) % modulesOf g).find? fun m => s.modState g m == 3

/-- The key of a packet's destination (R261): a stack or core store for requests, else its unit. -/
def dstKey (h : BitVec 128) : Nat :=
  if fld h 124 4 = 1 ∨ fld h 124 4 = 2 then
    match region (fld h 0 43) with
    | .hbm st _ => st
    | .store c _ => 32 + c
    | _ => 96 + fld h 64 8
  else 96 + fld h 64 8

/-- The flow of a packet. -/
def DrPkt.flow (k : DrPkt) : Nat := flowIndex (fld k.hdr 84 12) (dstKey k.hdr)

/-- The module that carries a packet: its flow's (R261), or the one whose credits it returns. -/
def State.drModule (s : State) (k : DrPkt) : Nat := k.via.getD (nth 0 (s.steering k.group) k.flow)

/-- Packets of a flow have been sent and not delivered. -/
def State.flowBusy (s : State) (g f : Nat) : Bool :=
  (List.range (modulesOf g)).any (fun m => (s.dmod g m).flight.any fun k => k.via.isNone && k.flow == f)
    || s.drQueue.any fun k => k.again && k.group == g && k.flow == f

/-- A steering entry passes to module m; new packets of a flow that is not yet delivered are held (R261). -/
def State.setEntry (s : State) (g f m : Nat) : State :=
  let l := setNth (s.steering g) f m
  let held := if s.flowBusy g f && !s.movedFlows.contains (g, f) then (g, f) :: s.movedFlows else s.movedFlows
  { s with steer := Tab.put [] g l s.steer, movedFlows := held }

/-- Pass entries one at a time to the surviving full-width modules (R261). -/
def State.passEntries (s : State) (g : Nat) : List Nat → State
  | [] => s
  | f :: fs =>
    match s.nextFull g (Tab.get 0 g s.steerLast) with
    | none => s.passEntries g fs
    | some m => ({ s.setEntry g f m with steerLast := Tab.put 0 g ((m + 1) % modulesOf g) s.steerLast }).passEntries g fs

/-- The entries of a module. -/
def State.entriesOf (s : State) (g m : Nat) : List Nat := (List.range 96).filter fun f => nth 0 (s.steering g) f == m

/-- A module lost width: a fenced one passes every entry, one at half width the second half of them (R261). -/
def State.passModule (s : State) (g m : Nat) : State :=
  let l := s.entriesOf g m
  match s.modState g m with
  | 6 => s.passEntries g l
  | 4 => s.passEntries g (l.drop ((l.length + 1) / 2))
  | 5 => s.passEntries g (l.drop ((l.length + 1) / 2))
  | _ => s

/-- A module joins or rejoins: the table is filled anew (R256, R261, log 36); flows that it moves are held while busy. -/
def State.resteer (s : State) (g : Nat) : State :=
  let t := iter 96 (fun f t => t.setEntry g f (f % modulesOf g)) { s with steerLast := Tab.put 0 g 0 s.steerLast }
  let t := (List.range (modulesOf g)).foldl (fun t m => t.passModule g m) t
  { t with movedFlows := t.movedFlows.filter fun p => p.1 != g || s.movedFlows.contains p
                                                       || nth 0 (t.steering g) p.2 != nth 0 (s.steering g) p.2 }

/-! ### Sending die-role packets (R261, R264-R267) -/

/-- A die-role packet header as numbers (R265). -/
def drHdr (type cls srcDie dstDie len : Nat) (poison sealed : Bool) (srcUnit tag dstUnit status addr : Nat) : BitVec 128 :=
  BitVec.ofNat 128 ((type % 16) * 2 ^ 124 + (cls % 8) * 2 ^ 121 + (srcDie % 8) * 2 ^ 118 + (dstDie % 8) * 2 ^ 115
    + (len % 128) * 2 ^ 108 + poison.toNat * 2 ^ 107 + sealed.toNat * 2 ^ 106 + (srcUnit % 4096) * 2 ^ 84 + (tag % 4096) * 2 ^ 72
    + (dstUnit % 256) * 2 ^ 64 + (status % 256) * 2 ^ 56 + addr % 2 ^ 43)

/-- A packet for the group's partner. -/
def drPkt (g : Nat) (hdr : BitVec 128) (data : Bytes) : DrPkt := ⟨g, hdr, data, false, none⟩

/-- 64 B units that a packet takes of its class's credits (R264, R267): header, payload and tail. -/
def drUnits (h : BitVec 128) : Nat := fld h 108 7 + (bit h 106).toNat + 1

/-- Minimum credits of a class (R264). -/
def minCredit (c : Nat) : Nat :=
  match c with
  | 0 => 8 | 1 => 64 | 2 => 256 | 3 => 64 | 4 => 256 | _ => 128

/-- The credits that a Moasin module advertises (R264): at least the minimum, and one whole packet (log 37). -/
def ownCredit (c : Nat) : Nat := Nat.max (minCredit c) 66

/-- The key of a module's class. -/
def drIx (g m c : Nat) : Nat := (32 * g + m) * 8 + c

/-- The class of a packet. -/
def drClass (h : BitVec 128) : Nat := fld h 121 3

/-- A packet leaves by module m: its credits are spent, it fills the flit in progress, behind NOP bytes where fewer than 16 of the flit's
payload are left (R265, R267); a CREDIT packet gives the partner its units back. -/
def State.drEmit (s : State) (m : Nat) (k : DrPkt) : State :=
  let g := k.group
  let i := drIx g m (drClass k.hdr)
  let left := Config.flitPayload - (s.dmod g m).pos
  let nops := if left < 16 then left else 0
  let from' := if left < 16 then 0 else (s.dmod g m).pos
  let t := { s with drCred := Tab.upd 0 i (· - drUnits k.hdr) s.drCred }
  let t := t.modDmod g m fun d =>
    { d with flight := d.flight ++ [k], pos := (from' + 16 + k.data.length) % Config.flitPayload }
  let t := if fld k.hdr 124 4 = 6 then
      { t with drPart := (List.range 6).foldl (fun p c =>
          Tab.upd 0 (drIx g m c) (· + ofBytes ((k.data.drop (2 * c)).take 2)) p) t.drPart }
    else t
  t.send (.dieRole g m nops k.hdr k.data)

/-- A packet for another compute die, whose group is down, takes the other way (R21, R261). -/
def State.drDetour (s : State) (k : DrPkt) : DrPkt :=
  let d := fld k.hdr 115 3
  let e := groupEnds k.group
  if k.group < 4 && k.via.isNone && s.rf (rD2d k.group 0) 61 3 == 4 && d < 4 then
    let r := if e.1 = d then e.2 else e.1
    match s.dieRoute r d with
    | some (n :: _) => { k with group := groupOf r n }
    | _ => k
  else k

/-- Send waiting die-role packets (R259, R261, R267): each module's packets of a class in order, while the module carries traffic and holds
credits for the whole packet; new packets of a moved flow are held. `blocked` are the modules' classes at which one waits. -/
def State.drPump (s : State) (blocked : List Nat) : List DrPkt → State
  | [] => s
  | k :: ks =>
    let k := s.drDetour k
    let m := s.drModule k
    let i := drIx k.group m (drClass k.hdr)
    let held := !k.again && k.via.isNone && s.movedFlows.contains (k.group, k.flow)
    if !held && !hasNat blocked i && s.carries k.group m && drUnits k.hdr ≤ Tab.get 0 i s.drCred then
      (s.drEmit m k).drPump blocked ks
    else
      let t := s.drPump (if held then blocked else i :: blocked) ks
      { t with drQueue := k :: t.drQueue }

/-- Send what waits. -/
def State.drGo (s : State) : State := ({ s with drQueue := [] }).drPump [] s.drQueue

/-- Queue a die-role packet and send what can go. -/
def State.drSend (s : State) (k : DrPkt) : State := ({ s with drQueue := s.drQueue ++ [k] }).drGo

/-- Freed units of a module's class are owed to its partner; a CREDIT packet returns all that is owed, once more than class 0 is, or half
of class 0 (R264, R266, log 37). -/
def State.drFree (s : State) (g m c n : Nat) : State :=
  let t := { s with drOwed := Tab.upd 0 (drIx g m c) (· + n) s.drOwed }
  let owed := (List.range 6).map fun c => Tab.get 0 (drIx g m c) t.drOwed
  if (owed.drop 1).any (0 < ·) || 4 ≤ nth 0 owed 0 then
    let t := { t with drOwed := (List.range 6).foldl (fun p c => Tab.put 0 (drIx g m c) 0 p) t.drOwed }
    t.drSend ⟨g, drHdr 6 0 0 0 1 false false 0 0 0 0 0, owed.flatMap (toBytes 2 ·) ++ List.replicate 52 0, false, some m⟩
  else t

/-! ### Fencing, attempts, lane tests (R257, R260) -/

/-- Fence a module (R260, R263): its entries pass on, and packets it had not delivered go first on their flow's new module (R261). -/
def State.fence (s : State) (g m cause : Nat) : State :=
  let r := rMod g m
  let t := (s.setRf r 61 3 6).setRf r 51 4 cause
  let lost := ((t.dmod g m).flight.filter fun (k : DrPkt) => k.via.isNone).map fun (k : DrPkt) => { k with again := true }
  let t := { t with drQueue := lost ++ t.drQueue.filter fun (k : DrPkt) => !(k.group == g && k.via == some m) }
  let t := t.modDmod g m fun d => { d with train := 0, width := 0, replays := [], fails := 0, flight := [] }
  let t := ((t.pulse (772 + 8 * g)).d2dJournal g).passModule g m
  (t.judgeGroup g).drGo

/-- A training attempt begins in normal mode, at a training state. -/
def State.beginTrain (s : State) (g m from' : Nat) : State :=
  ((s.modDmod g m fun d => { d with train := from' }).setRf (rMod g m) 61 3 2).judgeGroup g

/-- A training attempt fails (R257, R258): the module returns to retimed mode, its repair and width state cleared, and begins again from
MBINIT; an endpoint's begins afresh in normal mode (R268). After three failures in a row it is fenced. -/
def State.failAttempt (s : State) (g m : Nat) : State :=
  let r := rMod g m
  let n := s.rf r 59 2 + 1
  let t := ((s.setRf r 57 2 0).setRf r 55 2 0).setReg (rD2d g (0x600 + 8 * m)) 0
  let t := (t.modDmod g m fun d => { d with train := 2, width := 0, spare := 0, weak := 0 }).setRf r 59 2 n
  if 3 ≤ n then t.fence g m 2 else (t.setRf r 61 3 (if s.endpointGroup g then 2 else 1)).judgeGroup g

/-- The width that the lane test leaves a module (R260): 3 full, 4 lower half, 5 upper half, 6 fenced; `half` is the half it
already runs at, 0 for full. -/
def laneWidth (half : Nat) (failed : W64) (spareFailed : BitVec 4) : Nat :=
  let okLo := decide (popcount (bits failed 0 32) + popcount (bits spareFailed 0 2) ≤ 2)
  let okHi := decide (popcount (bits failed 32 32) + popcount (bits spareFailed 2 2) ≤ 2)
  if half = 4 then (if okLo then 4 else 6)
  else if half = 5 then (if okHi then 5 else 6)
  else if okLo && okHi then 3 else if okLo then 4 else if okHi then 5 else 6

/-- The data lanes that a width uses. -/
def widthLanes (w : Nat) : W64 := match w with | 4 => 0xFFFFFFFF | 5 => 0xFFFFFFFF00000000 | _ => 0xFFFFFFFFFFFFFFFF

/-- Apply a lane test (R260): failing data lanes and failing redundant lanes of this test, which a retrain adds to the repair map it
keeps (R259). -/
def State.laneTest (s : State) (g m : Nat) (failed : W64) (spareFailed : BitVec 4) : State :=
  let r := rMod g m
  let d := s.dmod g m
  let kept := d.train == 5
  let old := if kept then s.reg (rD2d g (0x600 + 8 * m)) else 0
  let oldSpare := if kept then d.spare else 0
  let failed := old ||| failed ||| d.weak
  let spare := oldSpare ||| spareFailed
  let half := if kept && d.width != 3 then d.width else 0
  let w := laneWidth half failed spare
  let t := (s.setReg (rD2d g (0x600 + 8 * m)) failed).modDmod g m fun d =>
    { d with weak := 0, train := 0, replays := [], fails := 0, spare := spare, width := w }
  if w = 6 then t.fence g m 1
  else
    let lo := if w = 5 then 0 else popcount (bits failed 0 32)
    let hi := if w = 4 then 0 else popcount (bits failed 32 32)
    let repaired := (failed &&& ~~~ old &&& widthLanes w) != 0
      || (bits (spare &&& ~~~ oldSpare) 0 2 != 0 && 0 < lo) || (bits (spare &&& ~~~ oldSpare) 2 2 != 0 && 0 < hi)
    let t := (((t.setRf r 61 3 w).setRf r 57 2 lo).setRf r 55 2 hi).setRf r 59 2 0
    let t := if repaired then (t.pulse (770 + 8 * g)).d2dJournal g else t
    let t := if w = 3 ∨ half = w then t else ((t.pulse (771 + 8 * g)).d2dJournal g).passModule g m
    t.judgeGroup g

/-- A retrain is counted, pulsed and journaled (R259, R270, R272). -/
def State.retrainNote (s : State) (g : Nat) : State := ((s.bump (rD2d g 0x10) 16 16 1).pulse (773 + 8 * g)).d2dJournal g

/-- The leader retrains a module (R259): its repair map is kept, its traffic waits. -/
def State.retrain (s : State) (g m : Nat) : State :=
  let st := s.modState g m
  if st = 3 ∨ st = 4 ∨ st = 5 then
    let t := (s.setRf (rMod g m) 61 3 2).modDmod g m fun d => { d with train := 5, replays := [], fails := 0 }
    (t.retrainNote g).judgeGroup g
  else s

/-! ### Training commands -/

/-- D2D_TRAIN_STATE_TIMEOUT (R257). -/
def execD2dTrainStateTimeout (g m : Nat) (s : State) : Host.Outcome State Fault Refusal :=
  ret (if s.d2dHere g m && (s.dmod g m).train != 0 then s.failAttempt g m else s)

/-- D2D_TRAIN_ACTIVE (R257, R260, R268): the module joins its group (R256, R261). -/
def execD2dTrainActive (g m : Nat) (failed : BitVec 64) (spareFailed : BitVec 4) (s : State) :
    Host.Outcome State Fault Refusal :=
  let d := s.dmod g m
  if s.d2dHere g m && d.role == 3 && 1 ≤ d.train && d.train ≤ 4 then ret ((s.laneTest g m failed spareFailed).resteer g).drGo
  else ret s

/-- D2D_STATE_REPORT (R257, R258): the follower's training state, width as D2D_MOD_STAT codes it (0 none yet) and lane map. A width or map
other than the leader's fails the attempt; a module in an attempt leaves retimed mode as the follower enters MBINIT. -/
def execD2dStateReport (g m : Nat) (r : StateReport) (s : State) : Host.Outcome State Fault Refusal :=
  let st := s.modState g m
  let d := s.dmod g m
  let active := st == 3 || st == 4 || st == 5
  let differs := if active || r.width != 0 then r.width != d.width || r.lanes != s.reg (rD2d g (0x600 + 8 * m)) else false
  if s.d2dHere g m && (active || d.train != 0) then
    if differs then ret (s.failAttempt g m)
    else if d.train != 0 && d.train < 5 && 2 ≤ r.train && r.train ≤ 4 then ret (s.beginTrain g m (Nat.max d.train r.train))
    else ret s
  else ret s

/-- In retimed mode logical bit i goes on lanes i, i + 16 and i + 32, and the receiver takes the majority (R254): every logical bit is right
while `bad` holds at most one lane of each triple. -/
def voteMasks (bad : W64) : Bool :=
  (List.range 16).all fun i => (bit bad i).toNat + (bit bad (i + 16)).toNat + (bit bad (i + 32)).toNat ≤ 1

/-- D2D_FLIT_RX (R254, R259): `bad` are the lanes that were wrong, which the vote of retimed mode masks; a flit whose CRC then fails is
replayed. More than 64 replays within 1 ms, or 8 failed replays of one flit, retrain. -/
def execD2dFlitRx (g m : Nat) (x : FlitCheck) (s : State) : Host.Outcome State Fault Refusal :=
  if s.carries g m then
    if x.crcOk || (s.modState g m == 1 && voteMasks x.bad) then ret (s.modDmod g m fun d => { d with fails := 0 })
    else
      let now := s.time.toNat
      let t := (s.bump (rD2d g 0x10) 32 32 1).modDmod g m fun d =>
        { d with fails := d.fails + 1, replays := now :: d.replays.filter (fun n => now < n + 1000000) }
      let d := t.dmod g m
      ret (if 64 < d.replays.length || 9 ≤ d.fails then t.retrain g m else t)
  else ret s

/-- D2D_RETRAIN_DONE (R259, R260): traffic resumes. -/
def execD2dRetrainDone (g m : Nat) (failed : BitVec 64) (spareFailed : BitVec 4) (s : State) :
    Host.Outcome State Fault Refusal :=
  if s.d2dHere g m && s.modState g m == 2 && (s.dmod g m).train == 5 then ret (s.laneTest g m failed spareFailed).drGo else ret s

/-- D2D_MARGIN_READ (R260, R262): lanes with a low margin are repaired by an immediate retrain. -/
def execD2dMarginRead (g m : Nat) (low : BitVec 64) (s : State) : Host.Outcome State Fault Refusal :=
  let v2 := g < 4 || nth 0 s.iodVer (g - 4) == 2
  let st := s.modState g m
  if s.d2dHere g m && v2 && low != 0 && (st == 3 || st == 4 || st == 5) then
    let t := (s.bump (rD2d g 0x10) 0 16 1).modDmod g m fun d => { d with weak := low }
    ret (t.retrain g m)
  else ret s

/-- FLOW_RELEASE (R261): every earlier packet of a moved flow has been delivered; what was held goes. A flow whose packets are still to be
replayed stays held. -/
def execFlowRelease (g flow : Nat) (s : State) : Host.Outcome State Fault Refusal :=
  if s.drQueue.any fun k => k.again && k.group == g && k.flow == flow then ret s
  else ret { s with movedFlows := s.movedFlows.filter (· != (g, flow)) }.drGo

/-! ### The role exchange (R263, R264, R268, R270) -/

/-- Class c of a ROLE_CRED payload (R263). -/
def roleCredit (v : W64) (c : Nat) : Nat := fld v (50 - 10 * c) 10

/-- ROLE_ADV of a compute die, the leader of each group (R253, R263). -/
def ownAdv (g : Nat) : W64 :=
  BitVec.ofNat 64 (2 ^ 60 + 2 ^ 56 + (groupEnds g).1 * 2 ^ 52 + 2 * 2 ^ 48 + modulesOf g * 2 ^ 40 + 64 * 2 ^ 32 + Config.makerId.toNat)

/-- ROLE_CRED of a Moasin module (R263, R264). -/
def ownCred : W64 := BitVec.ofNat 64 (((List.range 6).map fun c => ownCredit c * 2 ^ (50 - 10 * c)).sum)

/-- The leader begins the exchange on a module (R263). -/
def State.roleStart (s : State) (g m : Nat) : State :=
  let t := s.modDmod g m fun d => { d with role := 0, adv := none, cred := none }
  (t.send (.role g m 0 (ownAdv g))).send (.role g m 1 ownCred)

/-- The first reason for ROLE_NAK that a partner's messages meet (R263, R264, R268): 1 role, 2 version, 3 credits, 4 module
count, 5 largest packet. -/
def State.roleReason (s : State) (g : Nat) (adv cred : W64) : Option Nat :=
  let role := fld adv 60 4
  let roleOk := if g < 4 then role == 1 else if s.hasIo (g - 4) then role == 2 else role == 3 && g != 4
  let ucie := fld adv 48 4
  if !roleOk then some 1
  else if fld adv 56 4 ≠ 1 || !(ucie == 1 || ucie == 2) then some 2
  else if (List.range 6).any (fun c => roleCredit cred c < minCredit c) then some 3
  else if fld adv 40 8 ≠ modulesOf g then some 4
  else if fld adv 32 8 ≠ 64 then some 5
  else none

/-- The Crown runs: it has asked for normal mode on every group (R256 step 3); in a recovery boot it never does (R447). -/
def State.crownRuns (s : State) : Bool := s.rf (rCrn 0) 29 3 == 2

/-- Both role messages of a module have arrived: ROLE_ACK or ROLE_NAK is sent (R263). -/
def State.answerRole (s : State) (g m : Nat) : State :=
  let d := s.dmod g m
  match d.adv, d.cred with
  | some a, some c =>
    match s.roleReason g a c with
    | some r => (s.send (.role g m 3 (BitVec.ofNat 64 r))).fence g m 4
    | none =>
      let t := (s.send (.role g m 2 0)).modDmod g m fun d => { d with role := 3, missed := 0 }
      let t := ((t.setRf (rD2d g 0) 57 4 (fld a 60 4)).setRf (rD2d g 0) 53 4 (fld a 48 4)).setReg (rD2d g 0x20)
        (BitVec.ofNat 64 (fld a 0 32))
      let t := if fld a 60 4 = 3 && !hasNat t.attached (g - 4) then { t with attached := (g - 4) :: t.attached } else t
      let t := (List.range 6).foldl (fun t k =>
        { t with drCred := Tab.put 0 (drIx g m k) (roleCredit c k) t.drCred, drPart := Tab.put 0 (drIx g m k) (ownCredit k) t.drPart }) t
      if t.crownRuns then t.beginTrain g m 1 else t.drGo
  | _, _ => s

/-- A partner violation: counted and pulsed (R270, R272). -/
def State.partnerViol (s : State) (g : Nat) : State := (s.bump (rD2d g 0x18) 0 32 1).pulse (774 + 8 * g)

/-- A sideband message out of order, or after ROLE_ACK: a logged retrain (R270). A module that is not in normal mode begins its exchange, or
its training from MBINIT, again. -/
def State.sidebandBreach (s : State) (g m : Nat) : State :=
  let t := s.partnerViol g
  let st := s.modState g m
  if st = 3 ∨ st = 4 ∨ st = 5 then t.retrain g m
  else if (s.dmod g m).role = 3 then (t.retrainNote g).modDmod g m fun d => { d with train := if d.train = 0 then 0 else 2 }
  else (t.retrainNote g).roleStart g m

/-- The sideband of a module listens: it is mounted and not fenced. -/
def State.roleHere (s : State) (g m : Nat) : Bool := s.d2dHere g m && s.modState g m != 0 && s.modState g m != 6

/-- ROLE_ADV (R263). -/
def execRoleAdv (g m : Nat) (payload : W64) (s : State) : Host.Outcome State Fault Refusal :=
  if s.roleHere g m then
    if (s.dmod g m).role = 3 then ret (s.sidebandBreach g m)
    else ret ((s.modDmod g m fun d => { d with role := 1, adv := some payload }).answerRole g m)
  else ret s

/-- ROLE_CRED (R263): it follows ROLE_ADV. -/
def execRoleCred (g m : Nat) (payload : W64) (s : State) : Host.Outcome State Fault Refusal :=
  if s.roleHere g m then
    if (s.dmod g m).role ≠ 1 then ret (s.sidebandBreach g m)
    else ret ((s.modDmod g m fun d => { d with role := 2, cred := some payload }).answerRole g m)
  else ret s

/-- ROLE_ACK (R263): the follower's receipt of its leader's decision; before one it is out of order (R270). -/
def execRoleAck (g m : Nat) (s : State) : Host.Outcome State Fault Refusal :=
  if s.roleHere g m && (s.dmod g m).role != 3 then ret (s.sidebandBreach g m) else ret s

/-- ROLE_NAK (R263): the module is fenced. -/
def execRoleNak (g m reason : Nat) (s : State) : Host.Outcome State Fault Refusal :=
  if s.roleHere g m && reason ≤ 255 then ret (s.fence g m 4) else ret s

/-- ROLE_TIMEOUT (R263): no answer for 1 ms; two retries, then fenced with NO_ROLE. -/
def execRoleTimeout (g m : Nat) (s : State) : Host.Outcome State Fault Refusal :=
  let d := s.dmod g m
  if s.roleHere g m && d.role != 3 then
    if 2 ≤ d.missed then ret (s.fence g m 3)
    else ret ((s.modDmod g m fun d => { d with missed := d.missed + 1 }).roleStart g m)
  else ret s

/-- RETRAIN_ALL (R260, R271, R273): every module, fenced ones included, restarts from MBINIT; one whose role was not accepted begins its
exchange again. -/
def State.retrainAll (s : State) (g : Nat) : State :=
  let t := (List.range (modulesOf g)).foldl (fun t m =>
    if t.modState g m = 0 then t
    else
      let t := (t.setReg (rMod g m) (setFld 0 61 3 2)).setReg (rD2d g (0x600 + 8 * m)) 0
      let t := t.modDmod g m fun d => { d with train := 2, width := 0, spare := 0, missed := 0, replays := [], fails := 0, weak := 0 }
      let t := if (t.dmod g m).role = 3 then t else t.roleStart g m
      t.bump (rD2d g 0x10) 16 16 1) s
  ((t.pulse (773 + 8 * g)).d2dJournal g).judgeGroup g

/-- RETRAIN_ALL. -/
def execRetrainAll (g : Nat) (s : State) : Host.Outcome State Fault Refusal := ret (if g < 8 && s.hasGroup g then s.retrainAll g else s)

/-! ### Die-role packets (R264-R270) -/

/-- A violation notice for an offending header (R270). -/
def State.drNotice (s : State) (g : Nat) (h : BitVec 128) : State :=
  s.drSend (drPkt g (drHdr 7 0 0 (fld h 118 3) 1 false false 90 0 0 1 0) (toBytes 16 h.toNat ++ List.replicate 48 0))

/-- The classes that Table 7 gives a type (R266). -/
def typeClasses (type : Nat) : List Nat :=
  match type with
  | 0 => [0, 1, 2, 3, 4, 5] | 1 => [1, 5] | 2 => [1, 5] | 3 => [2] | 4 => [2] | 5 => [3, 4] | 6 => [0] | 7 => [0] | _ => []

/-- A malformed packet (R270): a reserved type, or a class that is not its type's; a len above 64, low address bits, a reserved
src_unit. -/
def drBad (h : BitVec 128) : Bool :=
  let u := fld h 84 12
  !hasNat (typeClasses (fld h 124 4)) (drClass h) || 64 < fld h 108 7 || fld h 0 6 != 0 || (96 < u && u < 0x800)

/-- The checks on an arriving packet (R264, R270): dropped and counted, or let through. Its buffer is free again after it. -/
def State.drCheck (s : State) (g m : Nat) (h : BitVec 128) : State × Bool :=
  let c := drClass h
  let i := drIx g m c
  if 6 ≤ c then ((s.partnerViol g).drNotice g h, false)
  else if Tab.get 0 i s.drPart < drUnits h then
    let t := (List.range 6).foldl (fun t k => { t with drPart := Tab.put 0 (drIx g m k) (ownCredit k) t.drPart,
                                                       drOwed := Tab.put 0 (drIx g m k) 0 t.drOwed }) s
    ((t.partnerViol g).retrain g m, false)
  else
    let t := { s with drPart := Tab.upd 0 i (· - drUnits h) s.drPart }
    let t := t.drFree g m c (drUnits h)
    if drBad h then ((t.partnerViol g).drNotice g h, false) else (t, true)

/-- The compute die that receives a packet on a group (R21): the end away from its entry, its destination where it is passed on. -/
def rxDie (g : Nat) (h : BitVec 128) : Nat :=
  let e := groupEnds g
  let src := fld h 118 3 % 4
  if 4 ≤ g then g - 4 else if src = e.1 then e.2 else if src = e.2 then e.1 else if fld h 115 3 = e.1 then e.1 else e.2

/-- The compute die that a device-local address belongs to (R321). -/
def dieOfAddr (a : Nat) : Nat :=
  match region a with
  | .hbm st _ => st / 8
  | .store c _ => c / 16
  | _ => 0

/-- A range that the receiving die does not serve: no memory there, or a die it is cut off from (R21, R41). -/
def State.drHole (s : State) (g : Nat) (h : BitVec 128) (a n : Nat) : Bool :=
  !s.populated a || !s.populated (a + n - 1) || (s.dieRoute (rxDie g h) (dieOfAddr a)).isNone

/-- Count a silent access in its requester's counter (R41, log 86): `src_unit` of the die `src_die` (R265), or the group of an attached
endpoint. -/
def State.drViol (s : State) (g : Nat) (h : BitVec 128) (a : Nat) : State :=
  let d := fld h 118 3
  let u := fld h 84 12
  if 0x800 ≤ u then s.bump (rD2d g 0x18) 0 32 1
  else if u < 64 then s.sourceViol (64 * d + u) a
  else if u < 72 then s.sourceViol (256 + 8 * d + (u - 64)) a
  else if u < 88 then s.sourceViol (288 + 16 * d + (u - 72)) a
  else if u = 88 then s.sourceViol (352 + d % 4) a
  else if u = 89 then s.sourceViol (356 + d % 4) a
  else s

/-- RD_REQ (R21, R266, R267, R269): answered with the data, zeros where nothing is served; `par` names the 64 B unit of the range whose
core-store parity fails: it stops the owning core, and the reply is poisoned (R146). -/
def execRdReq (g m : Nat) (hdr : BitVec 128) (par : Option Nat) (s : State) : Host.Outcome State Fault Refusal :=
  if s.carries g m then
    let q := s.drCheck g m hdr
    if q.2 then
      let a := fld hdr 0 43
      let n := fld hdr 108 7
      let hole := s.drHole g hdr a (64 * n)
      let t := if hole && n != 0 then q.1.drViol g hdr a else q.1
      let found := par.bind fun i => if i < n && !hole then
        (match region (a + 64 * i) with | .store c off => some (c, off / 64) | _ => none) else none
      let t := match found with | some p => t.parityFault 0 6 0 (.other p.1 p.2) | none => t
      let whole := n == 64 && a % 4096 == 0 && !hole && (match region a with | .hbm _ _ => true | _ => false)
      let bad := !hole && (List.range n).any fun i => t.poisoned (a + 64 * i)
      let data := (if hole then List.replicate (64 * n) 0 else t.read a (64 * n))
        ++ (if whole then toBytes 64 (t.chkRead (a / 4096)).toNat else [])
      ret (t.drSend (drPkt g (drHdr 3 2 (fld hdr 115 3) (fld hdr 118 3) n (bad || found.isSome) whole (fld hdr 84 12) (fld hdr 72 12)
        (fld hdr 64 8) 0 a) data))
    else ret q.1
  else ret s

/-- WR_REQ (R21, R213, R266): seal = 1 stores one whole aligned block with the check word of the tail; dropped where nothing is served. -/
def execWrReq (g m : Nat) (hdr : BitVec 128) (payload : Bytes) (tail : W64) (s : State) : Host.Outcome State Fault Refusal :=
  if s.carries g m then
    let q := s.drCheck g m hdr
    if q.2 then
      let a := fld hdr 0 43
      let n := fld hdr 108 7
      let d := (payload ++ List.replicate (64 * n) 0).take (64 * n)
      let hole := s.drHole g hdr a (64 * n)
      let t := if n = 0 then q.1 else if hole then q.1.drViol g hdr a else q.1.store a d false
      let sealed := bit hdr 106 && n == 64 && a % 4096 == 0 && !hole && (match region a with | .hbm _ _ => q.1.live a | _ => false)
      let t := if sealed then t.setChk (a / 4096) tail else t
      ret (t.drSend (drPkt g (drHdr 4 2 (fld hdr 115 3) (fld hdr 118 3) 0 false false (fld hdr 84 12) (fld hdr 72 12)
        (fld hdr 64 8) 0 a) []))
    else ret q.1
  else ret s

/-- A reply at a module matches no request: engines act on memory in their own steps, so none is outstanding when one arrives (R270,
log 38). It is dropped and counted. -/
def State.drReply (s : State) (g m : Nat) (hdr : BitVec 128) : State :=
  if s.carries g m then
    let q := s.drCheck g m hdr
    if q.2 then q.1.partnerViol g else q.1
  else s

/-- RD_RSP (R266, R270). -/
def execRdRsp (g m : Nat) (hdr : BitVec 128) (payload : Bytes) (tail : W64) (s : State) : Host.Outcome State Fault Refusal :=
  let _ := (payload, tail)
  ret (s.drReply g m hdr)

/-- WR_ACK (R266, R270). -/
def execWrAck (g m : Nat) (hdr : BitVec 128) (s : State) : Host.Outcome State Fault Refusal := ret (s.drReply g m hdr)

/-- The packets of a module that stay undelivered once its partner has freed `units` by class, oldest first. -/
def freeFlight (units : List Nat) : List DrPkt → List DrPkt
  | [] => []
  | k :: ks =>
    let c := drClass k.hdr
    if drUnits k.hdr ≤ nth 0 units c then freeFlight (setNth units c (nth 0 units c - drUnits k.hdr)) ks else k :: freeFlight units ks

/-- CREDIT (R264, R266): six 16-bit returns for the module; what they cover has been delivered, and waiting packets go. The packet takes
class 0 credits itself. -/
def execCredit (g m : Nat) (payload : Bytes) (s : State) : Host.Outcome State Fault Refusal :=
  if s.carries g m then
    let units := (List.range 6).map fun c => ofBytes ((payload.drop (2 * c)).take 2)
    let t := (List.range 6).foldl (fun t c => { t with drCred := Tab.upd 0 (drIx g m c) (· + nth 0 units c) t.drCred }) s
    let t := t.modDmod g m fun d => { d with flight := freeFlight units d.flight }
    let t := { t with drPart := Tab.upd 0 (drIx g m 0) (· - 2) t.drPart }
    ret (t.drFree g m 0 2).drGo
  else ret s

/-- MGMT (R266, R270): checked; its payload belongs to the Crown firmware's interface, and the spec gives it no effect here. -/
def execMgmt (g m : Nat) (hdr : BitVec 128) (payload : Bytes) (s : State) : Host.Outcome State Fault Refusal :=
  let _ := payload
  ret (if s.carries g m then (s.drCheck g m hdr).1 else s)

end Sys2Proof.Machine
end

