-- ==== Sys2Proof/Machine/Roseb.lean ====
section
/-! DEFINITION. Remote loads, stores, atomics, triggers and messages (13_remote_memory.md): the home, the requester, the
remote-line cache. -/

namespace Sys2Proof.Machine

/-! ### Targets (R42, R44, R45) -/

/-- What an address operand names. -/
inductive RTarget where
  | silent
  | absent
  | home (pos : Nat) (local' : Nat)
  deriving DecidableEq, Repr

/-- Decode an address operand (R42, R45): a device-local address is the package's own. -/
def State.target (s : State) (a : W64) : RTarget :=
  let me := fidPos s.self
  if fld a 43 21 = 0 then .home me (fld a 0 43)
  else if bit a 53 && fld a 43 10 == 0 then
    let pos := fld a 54 10
    if pos = me ∨ s.rbit (rFab (0x10000 + 8 * pos)) 31 then .home pos (fld a 0 43) else .absent
  else .silent

/-! ### REQ and RSP fields (R322, R323) -/

def reqBody (op : Nat) (w : Bool) (chk : Nat) (reissue : Bool) (rid epoch ack rlen addr : Nat) : BitVec 128 :=
  BitVec.ofNat 128 ((op % 64) * 2 ^ 122 + w.toNat * 2 ^ 121 + (chk % 4) * 2 ^ 119 + reissue.toNat * 2 ^ 118
    + (rid % 65536) * 2 ^ 96 + (epoch % 65536) * 2 ^ 80 + (ack % 65536) * 2 ^ 64 + (rlen % 8192) * 2 ^ 51 + addr % 2 ^ 43)

def rspBody (op status : Nat) (cached : Bool) (rid epoch old : Nat) : BitVec 128 :=
  BitVec.ofNat 128 ((op % 64) * 2 ^ 122 + (status % 256) * 2 ^ 114 + cached.toNat * 2 ^ 113 + (rid % 65536) * 2 ^ 96
    + (epoch % 65536) * 2 ^ 80 + old % 2 ^ 64)

def qOp (k : Packet) : Nat := fld k.body 122 6
def qRid (k : Packet) : Nat := fld k.body 96 16
def qAddr (k : Packet) : Nat := fld k.body 0 43

/-- Whether an op value is an atomic of R184. -/
def isAtomic (op : Nat) : Bool := 0x10 ≤ op && op ≤ 0x1A

/-- Bytes a request touches. -/
def qLen (k : Packet) : Nat :=
  if qOp k = 0 then fld k.body 51 13 else if qOp k = 1 then k.len else if isAtomic (qOp k) then (if bit k.body 121 then 8 else 4) else 0

/-- The 64-byte lines of a range. -/
def linesOf (a n : Nat) : List Nat := if n = 0 then [] else (List.range ((a + n - 1) / 64 - a / 64 + 1)).map (a / 64 + ·)

/-! ### The home (R325-R331) -/

/-- The package epoch (R329). -/
def State.epoch (s : State) : Nat := s.rf (rRsb 0 8) 0 16

/-- An address the home serves as absent: no memory there, a die cut off or dead (R321, R450). -/
def State.homeHole (s : State) (a : Nat) : Bool := !s.populated a || hasNat s.deadDies (dieOfAddr a) || s.dieCut (dieOfAddr a)

/-- Send a reply of this home (R321, R323); a reply to the own package is handed over directly. -/
def State.sendReply (s : State) (io : Nat) (r : Packet) : State :=
  if r.dst = s.self then { s with selfRsp := s.selfRsp ++ [(r.dstIo, { r with src := s.self, srcIo := io })] }
  else (s.inject io r .none).1

/-- A reply to a request packet. A REQ names its requester by I/O die only: that die's number stands for the requester's compute die
(R321, log 87). -/
def State.replyTo (s : State) (k : Packet) (status : Nat) (cached : Bool) (old : Nat) (payload : Bytes) : Packet :=
  { Packet.blank with kind := 2, pclass := 2, dst := k.src, dstIo := k.srcIo,
                      body := rspBody (qOp k) status cached (qRid k) s.epoch old, payload := payload, len := payload.length }

/-- The integer and float operations of the atomics (R184); width 32 or 64 bits. -/
def atomicNew (op n : Nat) (old v cmp : Nat) : Nat :=
  let si (x : Nat) : Int := (BitVec.ofNat n x).toInt
  match op with
  | 0x10 => (old + v) % 2 ^ n
  | 0x11 => (encodeElem .fp32 .rne false ((decodeElem .fp32 false old).add (decodeElem .fp32 false v)).1).1
  | 0x12 => if si v < si old then v else old
  | 0x13 => if si old < si v then v else old
  | 0x14 => Nat.min old v
  | 0x15 => Nat.max old v
  | 0x16 => old &&& v
  | 0x17 => old ||| v
  | 0x18 => old ^^^ v
  | 0x19 => v
  | 0x1A => if old = cmp then v else old
  | _ => old

/-- Apply one atomic at its address: the state, its old value, and poison (R326, R331). -/
def State.applyAtomic (s : State) (k : Packet) : State × Nat × Bool :=
  let a := qAddr k
  let n := if bit k.body 121 then 8 else 4
  if s.homeHole a then (s, 0, false)
  else if s.poisoned a then (s, 0, true)
  else
    let old := s.readN a n
    let v := ofBytes (k.payload.take n)
    let cmp := ofBytes ((k.payload.drop 8).take n)
    (s.store a (toBytes n (atomicNew (qOp k) (8 * n) old v cmp)) false, old, false)

/-- Apply the part of a request that lies in one line. -/
def State.applyPart (s : State) (h : HomeReq) (line : Nat) : State × HomeReq :=
  let a := qAddr h.k
  let n := qLen h.k
  let lo := Nat.max a (64 * line)
  let m := Nat.min (a + n) (64 * line + 64) - lo
  let rest := h.lines.filter (· != line)
  let hole := h.hole || s.homeHole lo
  let sick := if s.homeHole lo || !s.poisoned lo || hasNat h.sick (lo / 4096) then h.sick else h.sick ++ [lo / 4096]
  if qOp h.k = 0 then
    (s, { h with lines := rest, segs := h.segs ++ [(lo, if s.homeHole lo then List.replicate m 0 else s.read lo m)], hole := hole,
                 bad := h.bad || !sick.isEmpty, sick := sick })
  else if qOp h.k = 1 then
    let d := (h.k.payload.drop (lo - a)).take m
    (if s.homeHole lo then s else s.store lo d false, { h with lines := rest, hole := hole })
  else
    let q := s.applyAtomic h.k
    (q.1, { h with lines := rest, hole := hole, old := BitVec.ofNat 64 q.2.1, bad := h.bad || q.2.2, sick := sick })

/-- Bytes of a range from what has been read; zero where nothing was. -/
def segBytes (segs : List (Nat × Bytes)) (a n : Nat) : Bytes :=
  (List.range n).map fun i =>
    match segs.find? fun g => g.1 ≤ a + i && a + i < g.1 + g.2.length with
    | some g => nth 0 g.2 (a + i - g.1)
    | none => 0

/-- The number under which a request's verification is remembered for its second read (R215, log 86). -/
def HomeReq.who (h : HomeReq) : Nat := 4096 + ((h.io * 65536 + h.k.src.toNat) * 4 + h.k.srcIo % 4) * 65536 + qRid h.k

/-- A request with no part left leaves the queue: block checks, counters, reply and reply cache (R327, R328, R331). A load whose first
verification fails is read again, line by line, in its place (R215). -/
def State.homeFinish (s : State) (h : HomeReq) : State :=
  let k := h.k
  let a := qAddr k
  let n := qLen k
  let whole := n == 4096 && a % 4096 == 0 && (match region a with | .hbm _ _ => true | _ => false) && s.live a
  let v := if qOp k = 0 && whole && bit k.body 120 then s.verifyBlock h.who a
           else (h.sick.foldl (fun t b => t.reportPoison (4096 * b)) s, some true)
  match v.2 with
  | none =>
    { v.1 with homeQ := v.1.homeQ.map fun x => if x = h then { h with lines := linesOf a n, segs := [], bad := false, sick := [] } else x }
  | some good =>
    let t := ({ v.1 with homeQ := v.1.homeQ.erase h }).bump (rRsb h.io 0x10) 32 32 1
    let t := if h.hole then t.bump (rRsb h.io 0x20) 0 32 1 else t
    let t := if qOp k = 1 && whole then t.setChk (a / 4096) (if bit k.body 119 then sealOf k.payload else 0) else t
    let bad := h.bad || !good
    let payload := if qOp k = 0 && !bad then segBytes h.segs a n else []
    let old := if isAtomic (qOp k) && !bad then h.old.toNat else 0
    let r := t.replyTo k (if bad then 0x30 else 0) false old payload
    let t := if qOp k = 0 then t else { t with replies := t.replies ++ [⟨h.io, k.src, k.srcIo, k.dstIo, qRid k, r⟩] }
    let t := t.sendReply h.io r
    iter h.dupes (fun _ t => (t.bump (rRsb h.io 0x10) 0 16 1).sendReply h.io { r with body := setBit r.body 113 true }) t

/-- The run of atomics at the head of a line's queue: same op and width, at most 64 (R326). -/
def atomicRun (q : List HomeReq) : List HomeReq :=
  match q with
  | [] => []
  | h :: _ => if isAtomic (qOp h.k) then
      (q.takeWhile fun x => qOp x.k == qOp h.k && bit x.k.body 121 == bit h.k.body 121).take 64
    else [h]

/-- The run that a line's queue begins with, if its head is the oldest request of the unit: among lines, the one with the oldest head is
served first (R325). -/
def State.lineRun (s : State) (io line : Nat) : List HomeReq :=
  let q := s.homeQ.filter fun h => h.io == io && hasNat h.lines line
  if q.head? = s.homeQ.find? fun h => h.io == io then atomicRun q else []

/-- The head of a line's queue is applied (R325, R326). -/
def State.lineApply (s : State) (io line : Nat) : State :=
  let run := s.lineRun io line
  let t := if 2 ≤ run.length then s.bump (rRsb io 0x10) 16 16 run.length else s
  run.foldl (fun t h =>
    let r := t.applyPart h line
    let t := { r.1 with homeQ := r.1.homeQ.map fun x => if x = h then r.2 else x }
    if r.2.lines.isEmpty then t.homeFinish r.2 else t) t

/-- The replies that a request's ack_rid acknowledges are kept no longer (R327). -/
def State.freeReplies (s : State) (io : Nat) (k : Packet) : State :=
  let ack := fld k.body 64 16
  { s with replies := s.replies.filter fun r =>
    !(r.io == io && r.fid == k.src && r.srcIo == k.srcIo && r.unit == k.dstIo) || (r.rid + 65536 - ack) % 65536 < 32768 }

/-- A request reaches the home (R322, R325-R330). -/
def State.reqIn (s : State) (io : Nat) (k : Packet) : State :=
  let op := qOp k
  let s := s.freeReplies io k
  if !(op == 0 || op == 1 || (k.kind != 6 && (op == 0x20 || isAtomic op))) then
    (s.bump (rRsb io 0x20) 0 32 1).sendReply io (s.replyTo k 0x30 false 0 [])
  else if op = 0x20 then s.sendReply io (s.replyTo k 0 false 0 [])
  else if fld k.body 80 16 ≠ 0 && fld k.body 80 16 ≠ s.epoch then s.sendReply io (s.replyTo k 0x52 false 0 [])
  else if bit k.body 118 && op != 0 then
    match s.replies.find? fun r => r.io == io && r.fid == k.src && r.srcIo == k.srcIo && r.unit == k.dstIo && r.rid == qRid k with
    | some r => (s.bump (rRsb io 0x10) 0 16 1).sendReply io { r.k with body := setBit r.k.body 113 true }
    | none =>
      { s with homeQ := s.homeQ.map fun h =>
          if h.io = io ∧ h.k.src = k.src ∧ h.k.srcIo = k.srcIo ∧ h.k.dstIo = k.dstIo ∧ qRid h.k = qRid k then { h with dupes := h.dupes + 1 } else h }
  else
    let h : HomeReq := ⟨io, k, linesOf (qAddr k) (qLen k), [], 0, false, [], false, 0⟩
    if h.lines.isEmpty then s.homeFinish h else { s with homeQ := s.homeQ ++ [h] }

/-- Packets that an endpoint has accepted and holds until a gap fills (R307). -/
def State.heldOf (s : State) (io : Nat) : List Packet :=
  (s.fabRx.map fun x => if x.1 / 8388608 = io then (match x.2 with | some r => r.held | none => []) else []).flatten

/-- The home has a buffer for one more request beside those it holds and those already accepted (R308, R325). -/
def State.homeRoom (s : State) (io : Nat) : Bool :=
  (s.homeQ.filter fun h => h.io == io).length + ((s.heldOf io).filter fun k => k.kind == 1 || k.kind == 6).length < 4096

/-! ### The remote-line cache (R332, R333) -/

/-- The set of a line. -/
def rlcSet (pos line : Nat) : Nat := (line % 32768) ^^^ (pos * 32 % 32768)

/-- A cached line of a die. -/
def State.rlcFind (s : State) (die pos line : Nat) : Option RLine :=
  s.rlc.find? fun r => r.die == die && r.pos == pos && r.line == line

/-- Use a line: it becomes the most recent. -/
def State.rlcTouch (s : State) (r : RLine) : State := { s with rlc := r :: s.rlc.filter fun x => !(x.die == r.die && x.pos == r.pos && x.line == r.line) }

/-- Install a line; the least recently used of a full set leaves. -/
def State.rlcInstall (s : State) (r : RLine) : State :=
  let t := s.rlcTouch r
  let mine := t.rlc.filter fun x => x.die == r.die && rlcSet x.pos x.line == rlcSet r.pos r.line
  match mine[16]? with
  | some v => { t with rlc := t.rlc.filter (· != v) }
  | none => t

/-- Remove lines of a die: those that `p` names by position and line. -/
def State.rlcDrop (s : State) (die : Nat) (p : Nat → Nat → Bool) : State :=
  { s with rlc := s.rlc.filter fun x => !(x.die == die && p x.pos x.line) }

/-- A RST writes through the lines that the die holds (R332). -/
def State.rlcWrite (s : State) (die pos a : Nat) (d : Bytes) : State :=
  { s with rlc := s.rlc.map fun x =>
      if x.die = die ∧ x.pos = pos ∧ 64 * x.line < a + d.length ∧ a < 64 * x.line + 64 then
        { x with data := segBytes [(a, d), (64 * x.line, x.data)] (64 * x.line) 64 }
      else x }

/-- INV_ALL (R332). -/
def execInvAll (d : Nat) (s : State) : Host.Outcome State Fault Refusal :=
  ret (if s.hasDie d then s.rlcDrop d fun _ _ => true else s)

/-! ### The requester (R319-R330) -/

def RsbReq.key (q : RsbReq) : Nat := (q.io * 65536 + q.fid.toNat) * 4 + q.hio

/-- The epoch that requester `io` holds for a position (R329); the package's own is known. -/
def State.epochOf (s : State) (io : Nat) (fid : BitVec 16) : Nat :=
  if fid = s.self then s.epoch else (Tab.get 0 (1024 * io + fidPos fid) s.epochs).toNat

/-- The packet of a request (R322, R327). -/
def State.reqPacket (s : State) (q : RsbReq) : Packet :=
  let open' := (s.rsbOut.filter fun x => x.sent && x.key == q.key).map fun x => x.rid
  let ack := open'.foldl (fun m r => if (m + 65536 - r) % 65536 < 32768 then r else m) q.rid
  { Packet.blank with
      kind := q.kind, pclass := if q.kind = 6 then 5 else 1, dst := q.fid, dstIo := q.dstIo, src := s.self, srcIo := q.io,
      body := reqBody q.op q.w q.chk (0 < q.reissues) q.rid (s.epochOf q.io q.fid) ack (if q.op = 0 then q.len else 0) q.addr,
      payload := q.data, len := q.data.length }

/-- The Roseb global address that a request is aimed at (R42). -/
def RsbReq.global (q : RsbReq) : Nat := fidPos q.fid * 2 ^ 54 + 2 ^ 53 + q.addr

/-- A request that formed no packet is a silent access of whoever asked for it (R41, R45, R311). -/
def State.reqViol (s : State) (q : RsbReq) : State :=
  match q.client with
  | .cx c _ => s.coreViol c [q.global]
  | .dma ch _ _ _ => s.sourceViol ch q.global
  | _ => s

/-- Send a request: to the own home directly (a request for Vespers waits there for its command), else as a packet. Where the route is
gone a load, store or atomic forms no packet and is answered at once as R45 gives; a BULK packet is lost (R311), and its operation ends
BAD_BUS. -/
def State.reqSend (s : State) (q : RsbReq) : State :=
  let k := s.reqPacket q
  if q.fid = s.self then (if 0x30 ≤ q.op then { s with arrived := s.arrived ++ [(q.hio, k)] } else s.reqIn q.hio k)
  else
    match s.noRoute q.fid with
    | some _ =>
      let t := if q.kind = 6 then (s.inject q.io k .none).1 else s.reqViol q
      let n := if q.op = 0 && q.kind != 6 then q.len else 0
      let r : Packet := { Packet.blank with
        kind := 2, pclass := 2, src := q.fid, srcIo := q.hio, body := rspBody q.op (if q.kind = 6 then 0x30 else 0) false q.rid 0 0,
        payload := List.replicate n 0, len := n }
      { t with selfRsp := t.selfRsp ++ [(q.io, r)] }
    | none => (s.inject q.io k .none).1

/-- Send the waiting requests of one home endpoint, in order, while their numbers stay within a window of 64 of the oldest unanswered;
the first store or atomic to a position without an epoch waits for a PROBE (R327, R329). -/
def State.rsbPump : Nat → Nat → State → State
  | 0, _, s => s
  | fuel + 1, key, s =>
    match findIx (fun q : RsbReq => q.key == key && !q.sent) s.rsbOut with
    | none => s
    | some i =>
      match s.rsbOut[i]? with
      | none => s
      | some q =>
        let rid := Tab.get 0 key s.rsbRid
        let next := Tab.put 0 key ((rid + 1) % 65536) s.rsbRid
        if s.rsbOut.any fun x => x.sent && x.key == key && 64 ≤ (rid + 65536 - x.rid) % 65536 then s
        else if q.op ≠ 0 ∧ q.op < 0x20 ∧ s.epochOf q.io q.fid = 0 ∧ s.noRoute q.fid = none then
          if s.rsbOut.any (fun x => x.op == 0x20 && x.fid == q.fid && x.io == q.io) then s
          else
            let p : RsbReq := { q with op := 0x20, kind := 1, chk := 0, len := 0, data := [], rid := rid, sent := true,
                                       acked := false, reissues := 0, client := .none }
            ({ s with rsbOut := p :: s.rsbOut, rsbRid := next }).reqSend p
        else
          let q := { q with sent := true, rid := rid, acked := q.fid == s.self }
          State.rsbPump fuel key (({ s with rsbOut := setNth s.rsbOut i q, rsbRid := next }).reqSend q)

/-- Enter a request at its requester. -/
def State.rsbSubmit (s : State) (q : RsbReq) : State :=
  State.rsbPump (s.rsbOut.length + 1) q.key { s with rsbOut := s.rsbOut ++ [q] }

/-- A request to a position. -/
def State.rsbMake (s : State) (die pos kind op : Nat) (w : Bool) (chk addr len : Nat) (data : Bytes) (cl : RClient) : RsbReq :=
  let d := dieOfAddr addr
  { io := s.ioOf die, fid := s.dialFid pos, hio := s.ioOf d, dstIo := d, die := die, kind := kind, op := op, w := w, chk := chk,
    addr := addr, len := len, data := data, rid := 0, sent := false, acked := false, reissues := 0, client := cl }

/-- An ACK has covered a request in cum (R328). -/
def State.reqAcked (s : State) (io : Nat) (k : Packet) : State :=
  { s with rsbOut := s.rsbOut.map fun q =>
      if q.sent && q.io == io && q.fid == k.dst && q.dstIo == k.dstIo && q.rid == qRid k then { q with acked := true } else q }

/-- How a request ends without a reply (R328, R330): the code of its operation. -/
def lostCode (op : Nat) : Nat := if op = 0 then 0x30 else 0x50

/-- The waiting requests of a requester for a package may go, whatever endpoint of it they name. -/
def State.pumpPos (s : State) (io : Nat) (fid : BitVec 16) : State :=
  iter 4 (fun h t => State.rsbPump (t.rsbOut.length + 1) ((io * 65536 + fid.toNat) * 4 + h) t) s

/-- Take a request out; those of its package that wait may go. INDETERMINATE ends are counted (R330). -/
def State.rsbEnd (s : State) (q : RsbReq) (code : Nat) : State :=
  let t := { s with rsbOut := s.rsbOut.erase q }
  let t := if code = 0x50 && q.op < 0x20 then t.bump (rRsb q.io 0x18) 0 32 1 else t
  if q.op = 0x20 then t.pumpPos q.io q.fid else State.rsbPump (t.rsbOut.length + 1) q.key t

/-- The request that a reply answers: by its number and the home's I/O die, else by its number and package, since the home's I/O dies are
not known here (R321, R323, log 87). -/
def State.asked (s : State) (io : Nat) (k : Packet) : Option RsbReq :=
  let mine (q : RsbReq) : Bool := q.sent && q.io == io && q.fid == k.src && q.rid == qRid k
  (s.rsbOut.find? fun q => mine q && q.hio == k.srcIo).orElse fun _ => s.rsbOut.find? mine

/-- An EPOCH reply: the lines of that position leave the caches of the compute dies that the requester serves (R329). -/
def State.forgetPos (s : State) (io : Nat) (fid : BitVec 16) : State :=
  iter 4 (fun d t => if s.ioOf d = io then t.rlcDrop d fun pos _ => pos == fidPos fid else t) s

/-- A reply at its requester (R323, R328-R330): the state, and the request that ends with its code and the reply's old value
and payload. A reserved status is BAD_BUS and a violation. -/
def State.rspMatch (s : State) (io : Nat) (k : Packet) : State × Option (RsbReq × Nat × W64 × Bytes) :=
  let viol (t : State) : State := t.bump (rRsb io 0x20) 0 32 1
  match s.asked io k with
  | none => (viol s, none)
  | some q =>
    let ep : BitVec 16 := bits k.body 80 16
    let s := if ep = 0 ∨ q.fid = s.self then s else { s with epochs := Tab.put 0 (1024 * io + fidPos q.fid) ep s.epochs }
    let st := fld k.body 114 8
    let s := if st = 0 ∨ st = 0x30 ∨ st = 0x52 then s else viol s
    if q.op = 0x20 then (s.rsbEnd q 0, none)
    else if st = 0x52 then
      let s := s.forgetPos io q.fid
      if q.op = 0 then
        let q' := { q with sent := false, acked := false, reissues := 0 }
        (State.rsbPump (s.rsbOut.length + 1) q.key { s with rsbOut := s.rsbOut.map fun x => if x = q then q' else x }, none)
      else (s.rsbEnd q 0x50, some (q, 0x50, 0, []))
    else if st = 0 then (s.rsbEnd q 0, some (q, 0, bits k.body 0 64, k.payload.take k.len))
    else (s.rsbEnd q 0x30, some (q, 0x30, 0, []))

/-- A request whose packet was given up, or whose reissues are exhausted (R328, R330). A PROBE's end takes the operations that
wait for it with it (log 41). -/
def State.rsbFail (s : State) (q : RsbReq) : State × List (RsbReq × Nat × W64 × Bytes) :=
  if q.op = 0x20 then
    let stuck (x : RsbReq) : Bool := !x.sent && x.io == q.io && x.fid == q.fid && x.op != 0 && x.op < 0x20
    let waiting := s.rsbOut.filter stuck
    let t := { s with rsbOut := s.rsbOut.filter fun x => x != q && !stuck x }
    (waiting.foldl (fun t x => t.bump (rRsb x.io 0x18) 0 32 1) t, waiting.map fun x => (x, 0x50, 0, []))
  else (s.rsbEnd q (lostCode q.op), [(q, lostCode q.op, 0, [])])

/-- The packet of a request was given up by the transport (R307, R330). -/
def State.reqLost (s : State) (io : Nat) (k : Packet) : State × List (RsbReq × Nat × W64 × Bytes) :=
  match s.rsbOut.find? fun q => q.sent && q.io == io && q.fid == k.dst && q.dstIo == k.dstIo && q.rid == qRid k with
  | some q => s.rsbFail q
  | none => (s, [])

/-- The reissue timeout of a request after its ACK (R328): sent again, or given up. -/
def State.reissue (s : State) (io home rid : Nat) : State × List (RsbReq × Nat × W64 × Bytes) :=
  match findIx (fun q : RsbReq => q.sent && q.acked && q.io == io && q.fid.toNat * 4 + q.hio == home && q.rid == rid
      && q.fid != s.self) s.rsbOut with
  | none => (s, [])
  | some i =>
    match s.rsbOut[i]? with
    | none => (s, [])
    | some q =>
      if q.reissues < s.rf (rRsb io 0) 0 3 then
        let q := { q with reissues := q.reissues + 1, acked := false }
        (({ s with rsbOut := setNth s.rsbOut i q }).reqSend q, [])
      else s.rsbFail q

/-! ### CX operations at a core (R184, R319, R332, R333) -/

/-- Write bytes to a core's own store; what lies beyond it is dropped and counted (R41). -/
def State.ownWrite (s : State) (c off : Nat) (d : Bytes) : State :=
  let keep := d.take (0x1800000 - off)
  let t := s.poke (storeAddr c off) keep
  if keep.length < d.length then t.coreViol c [storeAddr c (off + keep.length)] else t

/-- Read bytes of a core's own store; what lies beyond it reads zero and is counted (R41). -/
def State.ownRead (s : State) (c off n : Nat) : State × Bytes :=
  let k := Nat.min n (0x1800000 - off)
  (if k < n then s.coreViol c [storeAddr c (off + k)] else s, s.read (storeAddr c off) k ++ List.replicate (n - k) 0)

/-- Consecutive lines as (first, count), at most 64 each. -/
def lineRuns : List Nat → List (Nat × Nat)
  | [] => []
  | l :: ls =>
    match lineRuns ls with
    | (m, n) :: rest => if m = l + 1 ∧ n < 64 then (l, n + 1) :: rest else (l, 1) :: (m, n) :: rest
    | [] => [(l, 1)]

/-- Lines of a position that a die's fills in flight may not install: a RINV covers them, or an atomic has gone to them (R332, R333). -/
def State.skipFills (s : State) (die pos : Nat) (ls : List Nat) : State :=
  { s with rldJobs := s.rldJobs.map fun (j : RldJob) =>
      if j.core / 16 = die ∧ j.pos = pos then { j with skip := ls ++ j.skip } else j }

/-- A RST of a die while fills are in flight: the lines that they install include its bytes (R333). -/
def State.ownFills (s : State) (die pos a : Nat) (d : Bytes) : State :=
  { s with rldJobs := s.rldJobs.map fun (j : RldJob) =>
      if j.core / 16 = die ∧ j.pos = pos then { j with own := (a, d) :: j.own } else j }

/-- Start an RLD, RST, RINV or atomic (R184, R186, R319, R332, R333, R337): a code when it is done at once. -/
def State.rsbStart (s : State) (c : Nat) (e : QEntry) (op : RsbOp) (f : RsbF) : State × Option Nat :=
  let a := e.s f.ra.toNat
  let off := (e.s f.rl.toNat).toNat
  let len := f.len.toNat
  let die := c / 16
  let atomicOp : Option Nat := match op with
    | .rld => none | .rst => none | .rinv => none
    | .add => some 0x10 | .fadd => some 0x11 | .smin => some 0x12 | .smax => some 0x13 | .umin => some 0x14 | .umax => some 0x15
    | .and => some 0x16 | .or => some 0x17 | .xor => some 0x18 | .swap => some 0x19 | .cas => some 0x1A
  let wide := match atomicOp with | some _ => f.w | none => true
  if atomicOp.isNone && len = 0 then (s, some 1)
  else if (fld a 0 3 % (if wide then 8 else 4) != 0) || (op != .rinv && off % 8 != 0) then (s, some 0x31)
  else
    let tgt := s.target a
    match op, atomicOp with
    | .rinv, _ =>
      (match tgt with
       | .home pos l =>
         let ls := linesOf l len
         let t := s.rlcDrop die fun p n => p == pos && hasNat ls n
         (t.skipFills die pos ls, some 0)
       | _ => (s.coreViol c [a.toNat], some 0))
    | .rld, _ =>
      (match tgt with
       | .home pos l =>
         let cx := RClient.cx c e.seq
         if f.nc || pos == fidPos s.self then
           let t := { s with rldJobs := s.rldJobs ++ [(⟨c, e.seq, off, l, len, pos, [], false, [], [], false⟩ : RldJob)] }
           (t.rsbSubmit (s.rsbMake die pos 1 0 false 3 l len [] cx), none)
         else
           let ls := linesOf l len
           let hit := ls.filterMap fun n => s.rlcFind die pos n
           if hit.length = ls.length then
             let t := (hit.foldl (fun t r => t.rlcTouch r) s).bump (rRlc (0x100 * die + 8)) 32 32 hit.length
             (t.ownWrite c off (segBytes (hit.map fun r => (64 * r.line, r.data)) l len), some 0)
           else
             let t := s.bump (rRlc (0x100 * die + 8)) 0 32 ls.length
             let t := { t with rldJobs := t.rldJobs ++ [(⟨c, e.seq, off, l, len, pos, [], true, [], [], false⟩ : RldJob)] }
             ((lineRuns ls).foldl (fun t r => t.rsbSubmit (t.rsbMake die pos 1 0 false 3 (64 * r.1) (64 * r.2) [] cx)) t, none)
       | _ => ((s.coreViol c [a.toNat]).ownWrite c off (List.replicate len 0), some 0))
    | .rst, _ =>
      let q := s.ownRead c off len
      (match tgt with
       | .home pos l =>
         (((q.1.rlcWrite die pos l q.2).ownFills die pos l q.2).rsbSubmit (s.rsbMake die pos 1 1 false 3 l len q.2 (.cx c e.seq)), none)
       | _ => (q.1.coreViol c [a.toNat], some 0))
    | _, none => (s, some 0)
    | _, some n =>
      let w := if f.w then 8 else 4
      (match tgt with
       | .home pos l =>
         let lo (r : BitVec 5) : Bytes := toBytes 8 ((e.s r.toNat).toNat % 2 ^ (8 * w))
         let d := lo f.rv ++ (if n = 0x1A then lo f.rcmp else [])
         let t := (s.rlcDrop die fun p x => p == pos && x == l / 64).skipFills die pos [l / 64]
         (t.rsbSubmit (s.rsbMake die pos 1 n f.w 0 l w d (.cx c e.seq)), none)
       | _ => ((s.coreViol c [a.toNat]).ownWrite c off (List.replicate w 0), some 0))

/-- A request of a CX instruction has ended (R319, R330, R331, R333): its bytes reach the core store, and the instruction is done
when none of its requests is left. -/
def State.cxDone (s : State) (c seq : Nat) (q : RsbReq) (code : Nat) (old : W64) (data : Bytes) : State :=
  if q.op = 0 then
    let t := { s with rldJobs := s.rldJobs.map fun (j : RldJob) =>
      if j.core = c ∧ j.seq = seq then { j with bad := j.bad || code != 0, segs := j.segs ++ [(q.addr, data)] } else j }
    match t.rldJobs.find? fun (j : RldJob) => j.core == c && j.seq == seq with
    | none => t
    | some j =>
      let t := if j.install && code == 0 then
          (linesOf q.addr q.len).foldl (fun t n =>
            if hasNat j.skip n then t else t.rlcInstall ⟨c / 16, j.pos, n, segBytes (j.own ++ [(q.addr, data)]) (64 * n) 64⟩) t
        else t
      if t.rsbOut.any (fun x => x.client == .cx c seq) then t
      else
        let t := { t with rldJobs := t.rldJobs.filter fun (x : RldJob) => !(x.core == c && x.seq == seq) }
        if j.bad then t.finish c seq 0x30 .none
        else (t.ownWrite c j.off (segBytes j.segs j.addr j.len)).finish c seq 0 .none
  else
    let off := match (s.core c).started.find? fun r => r.entry.seq == seq with
      | some r => match r.entry.ins with
        | .rsb _ f => (r.entry.s f.rl.toNat).toNat
        | _ => 0
      | none => 0
    let t := if isAtomic q.op && code == 0 then s.ownWrite c off (toBytes (if q.w then 8 else 4) old.toNat) else s
    t.finish c seq code .none

/-! ### Triggers and messages (R185, R334-R336) -/

def rMq (n o : Nat) : Nat := rRsb 0 (0x1000 + 0x20 * n + o)

/-- Slots of an endpoint queue (R338). -/
def State.mqSlots (s : State) (n : Nat) : Nat := 2 ^ Nat.min 16 (s.rf (rMq n 8) 11 5)

/-- An endpoint queue would refuse a message of `len` bytes (R336) when `held` more have been accepted for it and not yet delivered. -/
def State.mqFull (s : State) (n len held : Nat) : Bool :=
  s.rbit (rMq n 8) 31 && 64 + len ≤ 64 * 2 ^ s.rf (rMq n 8) 16 3
    && s.mqSlots n ≤ (s.rf (rMq n 0x10) 0 32 + 2 ^ 32 - s.rf (rMq n 0x18) 0 32) % 2 ^ 32 + held

/-- The header of a message slot (R336); the queues are I/O die 0's, whose CCLK count is CRN_TIME (R335, R405). -/
def slotHeader (k : Packet) (cclk : W64) : Bytes :=
  toBytes 2 k.src.toNat ++ toBytes 1 k.srcIo ++ toBytes 1 (fld k.body 114 6) ++ toBytes 2 k.len ++ toBytes 2 0
    ++ toBytes 8 cclk.toNat ++ List.replicate 48 0

/-- A message is delivered at I/O die `io`, `age` CCLK cycles after it arrived (R335, R336); a full queue was refused before this. -/
def State.msgIn (s : State) (io : Nat) (k : Packet) (age : W64) : State :=
  let ep := fld k.body 120 8
  let drop := s.bump (rRsb io 0x20) 0 32 1
  if ep < 0xF0 then
    if !s.rbit (rMq ep 8) 31 || 64 * 2 ^ s.rf (rMq ep 8) 16 3 < 64 + k.len then drop
    else if s.mqFull ep k.len 0 then s
    else
      let tail := s.rf (rMq ep 0x10) 0 32
      let base := s.rf (rMq ep 0) 0 43 / 4096 * 4096
      let a := base + (tail % s.mqSlots ep) * (64 * 2 ^ s.rf (rMq ep 8) 16 3)
      let t := s.store a (slotHeader k (s.time - age) ++ k.payload.take k.len) false
      let t := t.setRf (rMq ep 0x10) 0 32 (tail + 1)
      let core := s.rf (rMq ep 8) 24 6
      if s.rbit (rMq ep 8) 30 && s.hasCore core then t.setChimes core (BitVec.ofNat 32 (2 ^ s.rf (rMq ep 8) 19 5)) else t
  else if 0xF1 ≤ ep && ep ≤ 0xF3 && hasNat s.attached (ep - 0xF0) then
    let n := ceilDiv k.len 64
    s.drSend (drPkt (4 + (ep - 0xF0)) (drHdr 5 3 (ep - 0xF0) (4 + (ep - 0xF0)) n false false 89 0 ep 0 0)
      ((k.payload.take k.len ++ List.replicate (64 * n) 0).take (64 * n)))
  else drop

/-- A trigger is delivered (R334). -/
def State.trigIn (s : State) (io : Nat) (k : Packet) : State :=
  let core := fld k.body 122 6
  if s.hasCore core then
    let n := Nat.min 8 (fld k.body 113 4)
    s.trigger core ((List.range n).map fun i => BitVec.ofNat 64 (ofBytes ((k.payload.drop (8 * i)).take 8))) (fld k.body 117 5)
      (fld k.body 107 6) (fld k.body 103 4)
  else s.bump (rRsb io 0x20) 0 32 1

/-- Start a TRIG, MSG, MBOXOUT or MBOXIN (R185, R319, R320, R334, R335): a code when it is done at once. -/
def State.msgStart (s : State) (c : Nat) (e : QEntry) (op : MsgOp) (f : MsgF) : State × Option Nat :=
  let regs := (List.range f.nregs.toNat).map fun i => e.s (f.first.toNat + i)
  let fid : BitVec 16 := bits (e.s f.rd.toNat) 0 16
  let off := (e.s f.rl.toNat).toNat
  let io := s.ioOf (c / 16)
  match op with
  | .mboxout => (s.mboxOut c regs, some 0)
  | .mboxin => (s.mboxIn c off, some 0)
  | .trig =>
    let k : Packet := { Packet.blank with
      kind := 4, pclass := 3, dst := fid, dstIo := f.core.toNat / 16, src := s.self, srcIo := io,
      body := BitVec.ofNat 128 (f.core.toNat * 2 ^ 122 + f.chime.toNat * 2 ^ 117 + f.nregs.toNat * 2 ^ 113
        + f.rsem.toNat * 2 ^ 107 + f.rinc.toNat * 2 ^ 103),
      payload := (regs.map fun v => toBytes 8 v.toNat).flatten, len := 8 * f.nregs.toNat }
    if fid = s.self then (s.trigIn (s.ioOf k.dstIo) k, some 0)
    else
      let r := s.inject io k (.msg c e.seq)
      (r.1, if r.2 then none else some 0x30)
  | .msg =>
    let q := s.ownRead c off f.len.toNat
    let ep := f.ep.toNat
    let k : Packet := { Packet.blank with
      kind := 3, pclass := 3, dst := fid, dstIo := if 0xF0 ≤ ep ∧ ep ≤ 0xF3 then ep - 0xF0 else 0, src := s.self, srcIo := io,
      body := BitVec.ofNat 128 (ep * 2 ^ 120 + (c % 64) * 2 ^ 114), payload := q.2, len := f.len.toNat }
    if fid = s.self then
      if ep < 0xF0 && s.mqFull ep k.len 0 then ((q.1.bump (rRsb io 0x18) 0 32 1), some 0x50)
      else (q.1.msgIn (s.ioOf k.dstIo) k 0, some 0)
    else
      let r := q.1.inject io k (.msg c e.seq)
      (r.1, if r.2 then none else some 0x30)

end Sys2Proof.Machine
end

