-- ==== Sys2Proof/Decode.lean ====
section
/-! DEFINITION. The instruction words of a core (06_core_instructions.md): what a word of program memory spells, and the word of an
instruction. The opcode table gives no row any bits: `decodeTableWord` has nothing to read. -/

namespace Sys2Proof

/-- Bits of a table row: the table gives none (log 53). -/
def decodeTableWord (_nbits _w : Nat) : Option Instr := none

/-! ### Layouts (R154, R168-R185) -/

/-- Put fields (low bit, length, value) into an empty word. -/
def place (l : List (Nat × Nat × Nat)) : BitVec 128 := l.foldl (fun w f => setFld w f.1 f.2.1 f.2.2) 0

/-- The synchronisation block (R154). -/
def decSync (w : BitVec 128) : Sync :=
  { w0sem := bits w 90 6, w0cnt := bits w 86 4, w1sem := bits w 80 6, w1cnt := bits w 76 4,
    s0sem := bits w 70 6, s0inc := bits w 66 4, s1sem := bits w 60 6, s1inc := bits w 56 4 }

def Sync.fields (y : Sync) : List (Nat × Nat × Nat) :=
  [(90, 6, y.w0sem.toNat), (86, 4, y.w0cnt.toNat), (80, 6, y.w1sem.toNat), (76, 4, y.w1cnt.toNat),
   (70, 6, y.s0sem.toNat), (66, 4, y.s0inc.toNat), (60, 6, y.s1sem.toNat), (56, 4, y.s1inc.toNat)]

/-- Class and operation code (R153). -/
def head (cls op : Nat) : List (Nat × Nat × Nat) := [(124, 4, cls), (118, 6, op)]

/-- The layout of R168. -/
def decCtrlF (w : BitVec 128) : CtrlF :=
  { cond := bits w 114 4, sa := bits w 109 5, sb := bits w 104 5, imm := bit w 103, sem := bits w 97 6,
    imm32 := bits w 64 32, count := bits w 16 16, target := bits w 0 14 }

def CtrlF.fields (f : CtrlF) : List (Nat × Nat × Nat) :=
  [(114, 4, f.cond.toNat), (109, 5, f.sa.toNat), (104, 5, f.sb.toNat), (103, 1, f.imm.toNat), (97, 6, f.sem.toNat),
  (64, 32, f.imm32.toNat), (16, 16, f.count.toNat), (0, 14, f.target.toNat)]

/-- The layout of R169. -/
def decScalF (w : BitVec 128) : ScalF :=
  { sd := bits w 113 5, sa := bits w 108 5, sb := bits w 103 5, imm := bit w 102, imm32 := bits w 64 32, imm64 := bits w 0 64 }

def ScalF.fields (f : ScalF) : List (Nat × Nat × Nat) :=
  [(113, 5, f.sd.toNat), (108, 5, f.sa.toNat), (103, 5, f.sb.toNat), (102, 1, f.imm.toNat), (64, 32, f.imm32.toNat),
  (0, 64, f.imm64.toNat)]

/-- The layout of R171. -/
def decDescF (w : BitVec 128) : DescF :=
  { td := bits w 112 6, td2 := bits w 106 6, field := bits w 102 4, sa := bits w 97 5, imm := bit w 96, imm32 := bits w 64 32 }

def DescF.fields (f : DescF) : List (Nat × Nat × Nat) :=
  [(112, 6, f.td.toNat), (106, 6, f.td2.toNat), (102, 4, f.field.toNat), (97, 5, f.sa.toNat), (96, 1, f.imm.toNat),
  (64, 32, f.imm32.toNat)]

/-- The layout of R172. -/
def decChainF (w : BitVec 128) : ChainF :=
  { cd := bits w 114 4, cd2 := bits w 110 4, word := bits w 105 5, sa := bits w 100 5, imm := bit w 99, imm32 := bits w 64 32 }

def ChainF.fields (f : ChainF) : List (Nat × Nat × Nat) :=
  [(114, 4, f.cd.toNat), (110, 4, f.cd2.toNat), (105, 5, f.word.toNat), (100, 5, f.sa.toNat), (99, 1, f.imm.toNat),
  (64, 32, f.imm32.toNat)]

/-- The layout of R173. -/
def decDmaTdF (w : BitVec 128) : DmaTdF :=
  { channel := bits w 116 2, src := bits w 110 6, dst := bits w 104 6, check := bits w 102 2, swap := bits w 100 2,
    pace := bits w 98 2, paceId := bits w 96 2, cols := bits w 32 24, rows := bits w 8 24, sync := decSync w }

def DmaTdF.fields (f : DmaTdF) : List (Nat × Nat × Nat) :=
  [(116, 2, f.channel.toNat), (110, 6, f.src.toNat), (104, 6, f.dst.toNat), (102, 2, f.check.toNat), (100, 2, f.swap.toNat),
  (98, 2, f.pace.toNat), (96, 2, f.paceId.toNat), (32, 24, f.cols.toNat), (8, 24, f.rows.toNat)] ++ f.sync.fields

/-- The layout of R173. -/
def decDmaListF (w : BitVec 128) : DmaListF :=
  { channel := bits w 116 2, src := bits w 110 6, dst := bits w 104 6, check := bits w 102 2, swap := bits w 100 2,
    pace := bits w 98 2, paceId := bits w 96 2, listReg := bits w 51 5, count := bits w 32 19, sync := decSync w }

def DmaListF.fields (f : DmaListF) : List (Nat × Nat × Nat) :=
  [(116, 2, f.channel.toNat), (110, 6, f.src.toNat), (104, 6, f.dst.toNat), (102, 2, f.check.toNat), (100, 2, f.swap.toNat),
  (98, 2, f.pace.toNat), (96, 2, f.paceId.toNat), (51, 5, f.listReg.toNat), (32, 19, f.count.toNat)] ++ f.sync.fields

/-- The layout of R174. -/
def decMxF (w : BitVec 128) : MxF :=
  { m := bits w 109 9, rbase := bits w 101 8, acc := bits w 99 2, rc := bit w 98, keep := bit w 97, n := bits w 42 14,
    k := bits w 17 25, aTd := bits w 11 6, wTd := bits w 5 6, cd := bits w 1 4, sync := decSync w }

def MxF.fields (f : MxF) : List (Nat × Nat × Nat) :=
  [(109, 9, f.m.toNat), (101, 8, f.rbase.toNat), (99, 2, f.acc.toNat), (98, 1, f.rc.toNat), (97, 1, f.keep.toNat),
  (42, 14, f.n.toNat), (17, 25, f.k.toNat), (11, 6, f.aTd.toNat), (5, 6, f.wTd.toNat), (1, 4, f.cd.toNat)] ++ f.sync.fields

/-- The layout of R176. -/
def decVxF (w : BitVec 128) : VxF :=
  { vd := bits w 113 5, va := bits w 108 5, vb := bits w 103 5, vc := bits w 98 5, bc := bit w 97, lanes := bits w 46 10,
    rmode := bits w 44 2, sat := bit w 43, seedReg := bits w 38 5, stream := bits w 34 4, fmt := bits w 29 5,
    rowReg := bits w 24 5, colReg := bits w 19 5, td := bits w 13 6, sync := decSync w }

def VxF.fields (f : VxF) : List (Nat × Nat × Nat) :=
  [(113, 5, f.vd.toNat), (108, 5, f.va.toNat), (103, 5, f.vb.toNat), (98, 5, f.vc.toNat), (97, 1, f.bc.toNat),
  (46, 10, f.lanes.toNat), (44, 2, f.rmode.toNat), (43, 1, f.sat.toNat), (38, 5, f.seedReg.toNat), (34, 4, f.stream.toNat),
  (29, 5, f.fmt.toNat), (24, 5, f.rowReg.toNat), (19, 5, f.colReg.toNat), (13, 6, f.td.toNat)] ++ f.sync.fields

/-- The layout of R178. -/
def decVtF (w : BitVec 128) : VtF :=
  { src := bits w 112 6, dst := bits w 106 6, aux := bits w 100 6, dir := bit w 99, pin := bit w 98, rows := bits w 47 9,
    len := bits w 24 23, k := bits w 13 11, rmode := bits w 11 2, sat := bit w 10, seedReg := bits w 5 5,
    stream := bits w 1 4, sync := decSync w }

def VtF.fields (f : VtF) : List (Nat × Nat × Nat) :=
  [(112, 6, f.src.toNat), (106, 6, f.dst.toNat), (100, 6, f.aux.toNat), (99, 1, f.dir.toNat), (98, 1, f.pin.toNat),
  (47, 9, f.rows.toNat), (24, 23, f.len.toNat), (13, 11, f.k.toNat), (11, 2, f.rmode.toNat), (10, 1, f.sat.toNat),
  (5, 5, f.seedReg.toNat), (1, 4, f.stream.toNat)] ++ f.sync.fields

/-- The layout of R181. -/
def decSyncF (w : BitVec 128) : SyncF :=
  { sem := bits w 112 6, tmr := bits w 110 2, sa := bits w 105 5, inc := bits w 0 16, sync := decSync w }

def SyncF.fields (f : SyncF) : List (Nat × Nat × Nat) :=
  [(112, 6, f.sem.toNat), (110, 2, f.tmr.toNat), (105, 5, f.sa.toNat), (0, 16, f.inc.toNat)] ++ f.sync.fields

/-- The layout of R182. -/
def decPmarkF (w : BitVec 128) : PmarkF :=
  { phase := bits w 110 8, sa := bits w 105 5, sync := decSync w }

def PmarkF.fields (f : PmarkF) : List (Nat × Nat × Nat) :=
  [(110, 8, f.phase.toNat), (105, 5, f.sa.toNat)] ++ f.sync.fields

/-- The layout of R183. -/
def decColF (w : BitVec 128) : ColF :=
  { group := bits w 114 4, oper := bits w 112 2, src := bits w 106 6, dst := bits w 100 6, aux := bits w 50 6,
    root := bits w 34 16, count := bits w 2 32, sync := decSync w }

def ColF.fields (f : ColF) : List (Nat × Nat × Nat) :=
  [(114, 4, f.group.toNat), (112, 2, f.oper.toNat), (106, 6, f.src.toNat), (100, 6, f.dst.toNat), (50, 6, f.aux.toNat),
  (34, 16, f.root.toNat), (2, 32, f.count.toNat)] ++ f.sync.fields

/-- The layout of R184. -/
def decRsbF (w : BitVec 128) : RsbF :=
  { ra := bits w 113 5, rl := bits w 108 5, rv := bits w 103 5, rcmp := bits w 98 5, nc := bit w 97, w := bit w 96,
    len := bits w 43 13, sync := decSync w }

def RsbF.fields (f : RsbF) : List (Nat × Nat × Nat) :=
  [(113, 5, f.ra.toNat), (108, 5, f.rl.toNat), (103, 5, f.rv.toNat), (98, 5, f.rcmp.toNat), (97, 1, f.nc.toNat),
  (96, 1, f.w.toNat), (43, 13, f.len.toNat)] ++ f.sync.fields

/-- The layout of R185. -/
def decMsgF (w : BitVec 128) : MsgF :=
  { rd := bits w 113 5, rl := bits w 108 5, core := bits w 102 6, chime := bits w 97 5, nregs := bits w 52 4,
    first := bits w 47 5, rsem := bits w 41 6, rinc := bits w 37 4, len := bits w 24 13, ep := bits w 16 8, sync := decSync w }

def MsgF.fields (f : MsgF) : List (Nat × Nat × Nat) :=
  [(113, 5, f.rd.toNat), (108, 5, f.rl.toNat), (102, 6, f.core.toNat), (97, 5, f.chime.toNat), (52, 4, f.nregs.toNat),
  (47, 5, f.first.toNat), (41, 6, f.rsem.toNat), (37, 4, f.rinc.toNat), (24, 13, f.len.toNat), (16, 8, f.ep.toNat)] ++ f.sync.fields

/-! ### Operation codes -/

/-- The control class (R168). -/
def decClass0 (c op : Nat) (w : BitVec 128) : Option Instr :=
  match op with
  | 0 => some (.nop c (decCtrlF w))
  | 1 => some (.jmp c (decCtrlF w))
  | 2 => some (.br c (decCtrlF w))
  | 3 => some (.call c (decCtrlF w))
  | 4 => some (.ret c (decCtrlF w))
  | 5 => some (.halt c (decCtrlF w))
  | 6 => some (.swait c (decCtrlF w))
  | 7 => some (.qstat c (decCtrlF w))
  | _ => none

/-- The scalar class (R169). -/
def decClass1 (c op : Nat) (w : BitVec 128) : Option Instr :=
  match op with
  | 0 => some (.add c (decScalF w))
  | 1 => some (.sub c (decScalF w))
  | 2 => some (.and c (decScalF w))
  | 3 => some (.or c (decScalF w))
  | 4 => some (.xor c (decScalF w))
  | 5 => some (.sll c (decScalF w))
  | 6 => some (.srl c (decScalF w))
  | 7 => some (.sra c (decScalF w))
  | 8 => some (.mul c (decScalF w))
  | 9 => some (.mulhu c (decScalF w))
  | 10 => some (.min c (decScalF w))
  | 11 => some (.max c (decScalF w))
  | 12 => some (.minu c (decScalF w))
  | 13 => some (.maxu c (decScalF w))
  | 14 => some (.slt c (decScalF w))
  | 15 => some (.sltu c (decScalF w))
  | 16 => some (.li c (decScalF w))
  | 17 => some (.ld c (decScalF w) none)
  | 18 => some (.st c (decScalF w))
  | _ => none

/-- The descriptor class (R171). -/
def decClass2 (c op : Nat) (w : BitVec 128) : Option Instr :=
  match op with
  | 0 => some (.tdld c (decDescF w) none)
  | 1 => some (.tdst c (decDescF w))
  | 2 => some (.tdcpy c (decDescF w))
  | 3 => some (.tdset c (decDescF w))
  | 4 => some (.tdadd c (decDescF w))
  | _ => none

/-- The DMA class (R173). -/
def decClass3 (c op : Nat) (w : BitVec 128) : Option Instr :=
  match op with
  | 0 => some (.dmaTd c (decDmaTdF w))
  | 1 => some (.dmaList c (decDmaListF w))
  | _ => none

/-- The MX class (R174). -/
def decClass4 (c op : Nat) (w : BitVec 128) : Option Instr :=
  match op with
  | 0 => some (.mxQuad c (decMxF w))
  | 1 => some (.mxPair c false (decMxF w))
  | 2 => some (.mxPair c true (decMxF w))
  | 4 => some (.mxSingle c 0 (decMxF w))
  | 5 => some (.mxSingle c 1 (decMxF w))
  | 6 => some (.mxSingle c 2 (decMxF w))
  | 7 => some (.mxSingle c 3 (decMxF w))
  | 8 => some (.mxT64Single c 0 (decMxF w))
  | 9 => some (.mxT64Single c 1 (decMxF w))
  | 10 => some (.mxT64Single c 2 (decMxF w))
  | 11 => some (.mxT64Single c 3 (decMxF w))
  | 12 => some (.mxT64Pair c false (decMxF w))
  | 13 => some (.mxT64Pair c true (decMxF w))
  | 16 => some (.mxT16Single c 0 (decMxF w))
  | 17 => some (.mxT16Single c 1 (decMxF w))
  | 18 => some (.mxT16Single c 2 (decMxF w))
  | 19 => some (.mxT16Single c 3 (decMxF w))
  | 20 => some (.mxT16Pair c false (decMxF w))
  | 21 => some (.mxT16Pair c true (decMxF w))
  | _ => none

/-- The chain class (R172). -/
def decClass5 (c op : Nat) (w : BitVec 128) : Option Instr :=
  match op with
  | 0 => some (.cdld c (decChainF w) none)
  | 1 => some (.cdst c (decChainF w))
  | 2 => some (.cdcpy c (decChainF w))
  | 3 => some (.cdsetw c (decChainF w))
  | 4 => some (.cdlbase c (decChainF w))
  | 5 => some (.cdstream c (decChainF w))
  | _ => none

/-- The VX class (R177, R178). -/
def decClass6 (c op : Nat) (w : BitVec 128) : Option Instr :=
  match op with
  | 0 => some (.vld c (decVxF w))
  | 1 => some (.vst c (decVxF w))
  | 2 => some (.vadd c (decVxF w))
  | 3 => some (.vsub c (decVxF w))
  | 4 => some (.vmul c (decVxF w))
  | 5 => some (.vfma c (decVxF w))
  | 6 => some (.vmin c (decVxF w))
  | 7 => some (.vmax c (decVxF w))
  | 8 => some (.vcmpeq c (decVxF w))
  | 9 => some (.vcmplt c (decVxF w))
  | 10 => some (.vcmple c (decVxF w))
  | 11 => some (.vsel c (decVxF w))
  | 12 => some (.viadd c (decVxF w))
  | 13 => some (.visub c (decVxF w))
  | 14 => some (.vimul c (decVxF w))
  | 15 => some (.vand c (decVxF w))
  | 16 => some (.vor c (decVxF w))
  | 17 => some (.vxor c (decVxF w))
  | 18 => some (.vshl c (decVxF w))
  | 19 => some (.vshr c (decVxF w))
  | 20 => some (.vsra c (decVxF w))
  | 21 => some (.vmov c (decVxF w))
  | 32 => some (.vrsum c (decVtF w))
  | 33 => some (.vrssq c (decVtF w))
  | 34 => some (.vrmax c (decVtF w))
  | 35 => some (.vrmin c (decVtF w))
  | 36 => some (.vrargmax c (decVtF w))
  | 37 => some (.vrargmin c (decVtF w))
  | 40 => some (.vsort c (decVtF w))
  | 41 => some (.vtopk c (decVtF w))
  | _ => none

/-- The transcendental and conversion class (R179). -/
def decClass7 (c op : Nat) (w : BitVec 128) : Option Instr :=
  match op with
  | 0 => some (.vexp2 c (decVxF w))
  | 1 => some (.vlog2 c (decVxF w))
  | 2 => some (.vrcp c (decVxF w))
  | 3 => some (.vrsqrt c (decVxF w))
  | 4 => some (.vtanh c (decVxF w))
  | 5 => some (.verf c (decVxF w))
  | 8 => some (.vsigm c (decVxF w))
  | 9 => some (.vsilu c (decVxF w))
  | 10 => some (.vgelue c (decVxF w))
  | 11 => some (.vgelut c (decVxF w))
  | 16 => some (.vftoi c (decVxF w))
  | 17 => some (.vitof c (decVxF w))
  | 18 => some (.vqnt c (decVxF w))
  | _ => none

/-- The sync class (R181). -/
def decClass8 (c op : Nat) (w : BitVec 128) : Option Instr :=
  match op with
  | 0 => some (.sig c (decSyncF w))
  | 1 => some (.sign c (decSyncF w))
  | 2 => some (.tmr c (decSyncF w))
  | 3 => some (.evt c (decSyncF w))
  | _ => none

/-- The collective class (R183). -/
def decClass9 (c op : Nat) (w : BitVec 128) : Option Instr :=
  match op with
  | 0 => some (.allreduce c (decColF w))
  | 1 => some (.reducescatter c (decColF w))
  | 2 => some (.allgather c (decColF w))
  | 3 => some (.broadcast c (decColF w))
  | 4 => some (.reduce c (decColF w))
  | 5 => some (.barrier c (decColF w))
  | _ => none

/-- The Roseb class (R184). -/
def decClassA (c op : Nat) (w : BitVec 128) : Option Instr :=
  match op with
  | 0 => some (.rld c (decRsbF w))
  | 1 => some (.rst c (decRsbF w))
  | 2 => some (.rinv c (decRsbF w))
  | 16 => some (.raAdd c (decRsbF w))
  | 17 => some (.raFadd c (decRsbF w))
  | 18 => some (.raSmin c (decRsbF w))
  | 19 => some (.raSmax c (decRsbF w))
  | 20 => some (.raUmin c (decRsbF w))
  | 21 => some (.raUmax c (decRsbF w))
  | 22 => some (.raAnd c (decRsbF w))
  | 23 => some (.raOr c (decRsbF w))
  | 24 => some (.raXor c (decRsbF w))
  | 25 => some (.raSwap c (decRsbF w))
  | 26 => some (.raCas c (decRsbF w))
  | _ => none

/-- The message and trigger class (R185). -/
def decClassB (c op : Nat) (w : BitVec 128) : Option Instr :=
  match op with
  | 0 => some (.trig c (decMsgF w))
  | 1 => some (.msg c (decMsgF w))
  | 2 => some (.mboxout c (decMsgF w))
  | 3 => some (.mboxin c (decMsgF w))
  | _ => none

/-- The phase-mark class (R182). -/
def decClassC (c op : Nat) (w : BitVec 128) : Option Instr :=
  match op with
  | 0 => some (.pmark c (decPmarkF w))
  | 1 => some (.pmarkr c (decPmarkF w))
  | _ => none

/-- The instruction that a word spells for core c (R153); none for the words whose class or op no table assigns, which raise
illegal-instruction (R156). Reserved field values are judged by the instruction's own meaning. -/
def decodeCore (c : Nat) (w : BitVec 128) : Option Instr :=
  match fld w 124 4 with
  | 0 => decClass0 c (fld w 118 6) w
  | 1 => decClass1 c (fld w 118 6) w
  | 2 => decClass2 c (fld w 118 6) w
  | 3 => decClass3 c (fld w 118 6) w
  | 4 => decClass4 c (fld w 118 6) w
  | 5 => decClass5 c (fld w 118 6) w
  | 6 => decClass6 c (fld w 118 6) w
  | 7 => decClass7 c (fld w 118 6) w
  | 8 => decClass8 c (fld w 118 6) w
  | 9 => decClass9 c (fld w 118 6) w
  | 10 => decClassA c (fld w 118 6) w
  | 11 => decClassB c (fld w 118 6) w
  | 12 => decClassC c (fld w 118 6) w
  | _ => none

/-- The word of a core instruction, every field at its value and every rsvd bit 0; none for the other commands. -/
def encodeCore : Instr → Option (BitVec 128)
  | .nop _ f => some (place (head 0 0 ++ f.fields))
  | .jmp _ f => some (place (head 0 1 ++ f.fields))
  | .br _ f => some (place (head 0 2 ++ f.fields))
  | .call _ f => some (place (head 0 3 ++ f.fields))
  | .ret _ f => some (place (head 0 4 ++ f.fields))
  | .halt _ f => some (place (head 0 5 ++ f.fields))
  | .swait _ f => some (place (head 0 6 ++ f.fields))
  | .qstat _ f => some (place (head 0 7 ++ f.fields))
  | .add _ f => some (place (head 1 0 ++ f.fields))
  | .sub _ f => some (place (head 1 1 ++ f.fields))
  | .and _ f => some (place (head 1 2 ++ f.fields))
  | .or _ f => some (place (head 1 3 ++ f.fields))
  | .xor _ f => some (place (head 1 4 ++ f.fields))
  | .sll _ f => some (place (head 1 5 ++ f.fields))
  | .srl _ f => some (place (head 1 6 ++ f.fields))
  | .sra _ f => some (place (head 1 7 ++ f.fields))
  | .mul _ f => some (place (head 1 8 ++ f.fields))
  | .mulhu _ f => some (place (head 1 9 ++ f.fields))
  | .min _ f => some (place (head 1 10 ++ f.fields))
  | .max _ f => some (place (head 1 11 ++ f.fields))
  | .minu _ f => some (place (head 1 12 ++ f.fields))
  | .maxu _ f => some (place (head 1 13 ++ f.fields))
  | .slt _ f => some (place (head 1 14 ++ f.fields))
  | .sltu _ f => some (place (head 1 15 ++ f.fields))
  | .li _ f => some (place (head 1 16 ++ f.fields))
  | .ld _ f _ => some (place (head 1 17 ++ f.fields))
  | .st _ f => some (place (head 1 18 ++ f.fields))
  | .tdld _ f _ => some (place (head 2 0 ++ f.fields))
  | .tdst _ f => some (place (head 2 1 ++ f.fields))
  | .tdcpy _ f => some (place (head 2 2 ++ f.fields))
  | .tdset _ f => some (place (head 2 3 ++ f.fields))
  | .tdadd _ f => some (place (head 2 4 ++ f.fields))
  | .cdld _ f _ => some (place (head 5 0 ++ f.fields))
  | .cdst _ f => some (place (head 5 1 ++ f.fields))
  | .cdcpy _ f => some (place (head 5 2 ++ f.fields))
  | .cdsetw _ f => some (place (head 5 3 ++ f.fields))
  | .cdlbase _ f => some (place (head 5 4 ++ f.fields))
  | .cdstream _ f => some (place (head 5 5 ++ f.fields))
  | .dmaTd _ f => some (place (head 3 0 ++ f.fields))
  | .dmaList _ f => some (place (head 3 1 ++ f.fields))
  | .vld _ f => some (place (head 6 0 ++ f.fields))
  | .vst _ f => some (place (head 6 1 ++ f.fields))
  | .vadd _ f => some (place (head 6 2 ++ f.fields))
  | .vsub _ f => some (place (head 6 3 ++ f.fields))
  | .vmul _ f => some (place (head 6 4 ++ f.fields))
  | .vfma _ f => some (place (head 6 5 ++ f.fields))
  | .vmin _ f => some (place (head 6 6 ++ f.fields))
  | .vmax _ f => some (place (head 6 7 ++ f.fields))
  | .vcmpeq _ f => some (place (head 6 8 ++ f.fields))
  | .vcmplt _ f => some (place (head 6 9 ++ f.fields))
  | .vcmple _ f => some (place (head 6 10 ++ f.fields))
  | .vsel _ f => some (place (head 6 11 ++ f.fields))
  | .viadd _ f => some (place (head 6 12 ++ f.fields))
  | .visub _ f => some (place (head 6 13 ++ f.fields))
  | .vimul _ f => some (place (head 6 14 ++ f.fields))
  | .vand _ f => some (place (head 6 15 ++ f.fields))
  | .vor _ f => some (place (head 6 16 ++ f.fields))
  | .vxor _ f => some (place (head 6 17 ++ f.fields))
  | .vshl _ f => some (place (head 6 18 ++ f.fields))
  | .vshr _ f => some (place (head 6 19 ++ f.fields))
  | .vsra _ f => some (place (head 6 20 ++ f.fields))
  | .vmov _ f => some (place (head 6 21 ++ f.fields))
  | .vrsum _ f => some (place (head 6 32 ++ f.fields))
  | .vrssq _ f => some (place (head 6 33 ++ f.fields))
  | .vrmax _ f => some (place (head 6 34 ++ f.fields))
  | .vrmin _ f => some (place (head 6 35 ++ f.fields))
  | .vrargmax _ f => some (place (head 6 36 ++ f.fields))
  | .vrargmin _ f => some (place (head 6 37 ++ f.fields))
  | .vsort _ f => some (place (head 6 40 ++ f.fields))
  | .vtopk _ f => some (place (head 6 41 ++ f.fields))
  | .vexp2 _ f => some (place (head 7 0 ++ f.fields))
  | .vlog2 _ f => some (place (head 7 1 ++ f.fields))
  | .vrcp _ f => some (place (head 7 2 ++ f.fields))
  | .vrsqrt _ f => some (place (head 7 3 ++ f.fields))
  | .vtanh _ f => some (place (head 7 4 ++ f.fields))
  | .verf _ f => some (place (head 7 5 ++ f.fields))
  | .vsigm _ f => some (place (head 7 8 ++ f.fields))
  | .vsilu _ f => some (place (head 7 9 ++ f.fields))
  | .vgelue _ f => some (place (head 7 10 ++ f.fields))
  | .vgelut _ f => some (place (head 7 11 ++ f.fields))
  | .vftoi _ f => some (place (head 7 16 ++ f.fields))
  | .vitof _ f => some (place (head 7 17 ++ f.fields))
  | .vqnt _ f => some (place (head 7 18 ++ f.fields))
  | .sig _ f => some (place (head 8 0 ++ f.fields))
  | .sign _ f => some (place (head 8 1 ++ f.fields))
  | .tmr _ f => some (place (head 8 2 ++ f.fields))
  | .evt _ f => some (place (head 8 3 ++ f.fields))
  | .pmark _ f => some (place (head 12 0 ++ f.fields))
  | .pmarkr _ f => some (place (head 12 1 ++ f.fields))
  | .allreduce _ f => some (place (head 9 0 ++ f.fields))
  | .reducescatter _ f => some (place (head 9 1 ++ f.fields))
  | .allgather _ f => some (place (head 9 2 ++ f.fields))
  | .broadcast _ f => some (place (head 9 3 ++ f.fields))
  | .reduce _ f => some (place (head 9 4 ++ f.fields))
  | .barrier _ f => some (place (head 9 5 ++ f.fields))
  | .rld _ f => some (place (head 10 0 ++ f.fields))
  | .rst _ f => some (place (head 10 1 ++ f.fields))
  | .rinv _ f => some (place (head 10 2 ++ f.fields))
  | .raAdd _ f => some (place (head 10 16 ++ f.fields))
  | .raFadd _ f => some (place (head 10 17 ++ f.fields))
  | .raSmin _ f => some (place (head 10 18 ++ f.fields))
  | .raSmax _ f => some (place (head 10 19 ++ f.fields))
  | .raUmin _ f => some (place (head 10 20 ++ f.fields))
  | .raUmax _ f => some (place (head 10 21 ++ f.fields))
  | .raAnd _ f => some (place (head 10 22 ++ f.fields))
  | .raOr _ f => some (place (head 10 23 ++ f.fields))
  | .raXor _ f => some (place (head 10 24 ++ f.fields))
  | .raSwap _ f => some (place (head 10 25 ++ f.fields))
  | .raCas _ f => some (place (head 10 26 ++ f.fields))
  | .trig _ f => some (place (head 11 0 ++ f.fields))
  | .msg _ f => some (place (head 11 1 ++ f.fields))
  | .mboxout _ f => some (place (head 11 2 ++ f.fields))
  | .mboxin _ f => some (place (head 11 3 ++ f.fields))
  | .mxQuad _ f => some (place (head 4 0 ++ f.fields))
  | .mxPair _ b f => some (place (head 4 (1 + b.toNat) ++ f.fields))
  | .mxSingle _ a f => some (place (head 4 (4 + a.toNat) ++ f.fields))
  | .mxT64Single _ a f => some (place (head 4 (8 + a.toNat) ++ f.fields))
  | .mxT64Pair _ b f => some (place (head 4 (12 + b.toNat) ++ f.fields))
  | .mxT16Single _ a f => some (place (head 4 (16 + a.toNat) ++ f.fields))
  | .mxT16Pair _ b f => some (place (head 4 (20 + b.toNat) ++ f.fields))
  | _ => none

end Sys2Proof
end

