-- ==== Sys2Proof/Machine/Sequencer.lean ====
section
/-! DEFINITION. The sequencer: control, scalar, descriptor and chain classes (R122-R124, R168-R172), and the issue of queue
instructions (R122, R128). -/

namespace Sys2Proof.Machine

/-! ### Issue -/

/-- Core c's sequencer can issue: RUNNING, no instruction held for a full queue, no sequencer wait in force (R122, R130). -/
def State.issuing (s : State) (c : Nat) : Bool :=
  !s.pwrFail && s.hasCore c && (s.core c).run == .running && (s.core c).heldIns.isNone && (s.core c).swait.isNone

/-- Issue an instruction that acts as `f`: nothing when the core is not issuing; a faulty program word is PARITY_PROG. -/
def issue (c : Nat) (s : State) (f : State → State) : State :=
  if s.issuing c then
    if hasNat (s.core c).badProg (s.core c).pc then s.coreFault c 5 5 (s.core c).pc 0 else f s
  else s

/-- Illegal-instruction at issue (R157). -/
def State.illegal (s : State) (c : Nat) : State := s.coreFault c 1 5 (s.core c).pc 0

/-- The program counter advances; past 16,383 is PC_END (R124). -/
def State.advance (s : State) (c : Nat) : State :=
  if (s.core c).pc + 1 ≤ 16383 then s.modCore c fun k => { k with pc := k.pc + 1, issueSeq := k.issueSeq + 1 }
  else s.coreFault c 7 5 (s.core c).pc 0

/-- Jump to an index; past 16,383 is PC_END (R124). -/
def State.jump (s : State) (c target : Nat) : State :=
  if target ≤ 16383 then s.modCore c fun k => { k with pc := target, issueSeq := k.issueSeq + 1 }
  else s.coreFault c 7 5 (s.core c).pc 0

/-- Place a queue instruction at the tail of its queue, capturing what it names (R122, R128); a full queue holds it. -/
def State.enqueue (s : State) (c : Nat) (ins : QIns) : State :=
  let k := s.core c
  let e : QEntry := ⟨k.issueSeq, k.pc, ins, k.sreg, k.td, k.cd, s.numDefault⟩
  let q := ins.queue
  if (k.queue q).length < queueDepth q then (s.modCore c fun k => k.setQueue q (k.queue q ++ [e])).advance c
  else s.modCore c fun k => { k with heldIns := some (q, e) }

/-- Issue a queue instruction: field check, then descriptor check, then the queue (R145, R156, R187). -/
def issueQ (c : Nat) (ins : QIns) (illegal : Bool) (bad : QEntry → Bool) (s : State) : State :=
  issue c s fun s =>
    let k := s.core c
    if illegal then s.illegal c
    else if bad ⟨k.issueSeq, k.pc, ins, k.sreg, k.td, k.cd, s.numDefault⟩ then
      s.coreFault c 2 (queueNum ins.queue) k.pc 0
    else s.enqueue c ins

/-! ### Control class (R168) -/

/-- NOP: nothing but the advance. -/
def execNop (c : Nat) (_f : CtrlF) (s : State) : Host.Outcome State Fault Refusal :=
  ret (issue c s fun s => s.advance c)

/-- JMP. -/
def execJmp (c : Nat) (f : CtrlF) (s : State) : Host.Outcome State Fault Refusal :=
  ret (issue c s fun s => s.jump c f.target.toNat)

/-- A branch condition; codes 6 to 15 are reserved (R168). -/
def branchCond (cond : Nat) (a b : W64) : Option Bool :=
  match cond with
  | 0 => some (a == b) | 1 => some (a != b) | 2 => some (a.slt b) | 3 => some (!a.slt b)
  | 4 => some (a.ult b) | 5 => some (!a.ult b) | _ => none

/-- BR. -/
def execBr (c : Nat) (f : CtrlF) (s : State) : Host.Outcome State Fault Refusal :=
  ret (issue c s fun s =>
    match branchCond f.cond.toNat ((s.core c).s f.sa.toNat) (ctrlB f (s.core c)) with
    | none => s.illegal c
    | some true => s.jump c f.target.toNat
    | some false => s.advance c)

/-- CALL: pushes the index of the next instruction; RSTACK with 8 entries held (R124). -/
def execCall (c : Nat) (f : CtrlF) (s : State) : Host.Outcome State Fault Refusal :=
  ret (issue c s fun s =>
    let k := s.core c
    if 8 ≤ k.rstack.length then s.coreFault c 8 5 k.pc 0
    else (s.modCore c fun k => { k with rstack := (k.pc + 1) :: k.rstack }).jump c f.target.toNat)

/-- RET: RSTACK with none held (R124). -/
def execRet (c : Nat) (_f : CtrlF) (s : State) : Host.Outcome State Fault Refusal :=
  ret (issue c s fun s =>
    match (s.core c).rstack with
    | [] => s.coreFault c 8 5 (s.core c).pc 0
    | t :: rest => (s.modCore c fun k => { k with rstack := rest }).jump c t)

/-- HALT: as stop, with stop_cause halt (R150). -/
def execHalt (c : Nat) (_f : CtrlF) (s : State) : Host.Outcome State Fault Refusal :=
  ret (issue c s fun s =>
    (s.modCore c fun k => { k with pc := (k.pc + 1) % 16384, issueSeq := k.issueSeq + 1, stopCause := .halt }).setRun c
      .stopping)

/-- SWAIT: takes its count when it may, else the sequencer waits (R130); count 0 completes at once. -/
def execSwait (c : Nat) (f : CtrlF) (s : State) : Host.Outcome State Fault Refusal :=
  ret (issue c s fun s =>
    let k := s.core c
    let ws := [(f.sem.toNat, f.count.toNat)]
    if f.count = 0 then s.advance c
    else if k.mayTake k.issueSeq ws then (s.modCore c fun k => k.take ws).advance c
    else (s.modCore c fun k => { k with swait := some ⟨k.issueSeq, f.sem.toNat, f.count.toNat⟩ }).advance c)

/-- SWAIT_SATISFIED: the sequencer wait takes its count and issue goes on (R130). -/
def execSwaitSatisfied (c : Nat) (s : State) : Host.Outcome State Fault Refusal :=
  ret (if s.pwrFail then s else match (s.core c).swait with
    | none => s
    | some w =>
      if (s.core c).mayTake w.seq [(w.sem, w.count)] then
        s.modCore c fun k => { k.take [(w.sem, w.count)] with swait := none }
      else s)

/-- QSTAT: reads CORE_QSTAT of a queue into s[sa] and clears it (R142); queues 5 to 15 are illegal. -/
def execQstat (c : Nat) (f : CtrlF) (s : State) : Host.Outcome State Fault Refusal :=
  ret (issue c s fun s =>
    if 4 < f.cond.toNat then s.illegal c
    else
      let r := rCore c (0x80 + 8 * f.cond.toNat)
      let v := s.reg r
      ((s.setReg r 0).modCore c fun k => k.setS f.sa.toNat v).advance c)

/-- ILLEGAL_INSTR: the word at issue spells no instruction (R156, R157), or its fetch found a parity error (R127). -/
def execIllegalInstr (c : Nat) (w : BitVec 128) (par : Option Parity) (s : State) : Host.Outcome State Fault Refusal :=
  ret (issue c s fun s =>
    match par with
    | some p => s.parityFault c 5 (s.core c).pc p
    | none => if (decodeCore c w).isNone then s.illegal c else s)

/-! ### Scalar class (R169, R170) -/

/-- A scalar operation s[sd] ← op s[sa] b. -/
def scalar (op : W64 → W64 → W64) (c : Nat) (f : ScalF) (s : State) : Host.Outcome State Fault Refusal :=
  ret (issue c s fun s =>
    (s.modCore c fun k => k.setS f.sd.toNat (op (k.s f.sa.toNat) (scalB f k))).advance c)

/-- ADD. -/
def execAdd (c : Nat) (f : ScalF) (s : State) : Host.Outcome State Fault Refusal := scalar (fun a b => a + b) c f s
/-- SUB. -/
def execSub (c : Nat) (f : ScalF) (s : State) : Host.Outcome State Fault Refusal := scalar (fun a b => a - b) c f s
/-- AND. -/
def execAnd (c : Nat) (f : ScalF) (s : State) : Host.Outcome State Fault Refusal := scalar (fun a b => a &&& b) c f s
/-- OR. -/
def execOr (c : Nat) (f : ScalF) (s : State) : Host.Outcome State Fault Refusal := scalar (fun a b => a ||| b) c f s
/-- XOR. -/
def execXor (c : Nat) (f : ScalF) (s : State) : Host.Outcome State Fault Refusal := scalar (fun a b => a ^^^ b) c f s
/-- SLL: by the low 6 bits of b. -/
def execSll (c : Nat) (f : ScalF) (s : State) : Host.Outcome State Fault Refusal :=
  scalar (fun a b => a <<< (b.toNat % 64)) c f s
/-- SRL. -/
def execSrl (c : Nat) (f : ScalF) (s : State) : Host.Outcome State Fault Refusal :=
  scalar (fun a b => a >>> (b.toNat % 64)) c f s
/-- SRA. -/
def execSra (c : Nat) (f : ScalF) (s : State) : Host.Outcome State Fault Refusal :=
  scalar (fun a b => a.sshiftRight (b.toNat % 64)) c f s
/-- MUL: the low 64 bits. -/
def execMul (c : Nat) (f : ScalF) (s : State) : Host.Outcome State Fault Refusal := scalar (fun a b => a * b) c f s
/-- MULHU: the high 64 bits of the unsigned product. -/
def execMulhu (c : Nat) (f : ScalF) (s : State) : Host.Outcome State Fault Refusal :=
  scalar (fun a b => BitVec.ofNat 64 (a.toNat * b.toNat / 2 ^ 64)) c f s
/-- MIN, signed. -/
def execMin (c : Nat) (f : ScalF) (s : State) : Host.Outcome State Fault Refusal :=
  scalar (fun a b => if b.slt a then b else a) c f s
/-- MAX, signed. -/
def execMax (c : Nat) (f : ScalF) (s : State) : Host.Outcome State Fault Refusal :=
  scalar (fun a b => if a.slt b then b else a) c f s
/-- MINU. -/
def execMinu (c : Nat) (f : ScalF) (s : State) : Host.Outcome State Fault Refusal :=
  scalar (fun a b => if b.ult a then b else a) c f s
/-- MAXU. -/
def execMaxu (c : Nat) (f : ScalF) (s : State) : Host.Outcome State Fault Refusal :=
  scalar (fun a b => if a.ult b then b else a) c f s
/-- SLT. -/
def execSlt (c : Nat) (f : ScalF) (s : State) : Host.Outcome State Fault Refusal :=
  scalar (fun a b => if a.slt b then 1 else 0) c f s
/-- SLTU. -/
def execSltu (c : Nat) (f : ScalF) (s : State) : Host.Outcome State Fault Refusal :=
  scalar (fun a b => if a.ult b then 1 else 0) c f s
/-- LI. -/
def execLi (c : Nat) (f : ScalF) (s : State) : Host.Outcome State Fault Refusal :=
  ret (issue c s fun s => (s.modCore c fun k => k.setS f.sd.toNat f.imm64).advance c)

/-- How many of `n` bytes at an offset lie in the 24 MiB of the core store (R170). -/
def seqRoom (off n : Nat) : Nat := Nat.min n (0x1800000 - off)

/-- A sequencer access that leaves the core store is counted once, at its first address outside (R147, R170). -/
def State.seqViol (s : State) (c off n : Nat) : State :=
  if seqRoom off n < n then s.coreViol c [(storeAddr c off + seqRoom off n) % 2 ^ 64] else s

/-- A sequencer load of `n` bytes at an offset (R170): misaligned is a format error with queue 5; what lies at or above 24 MiB
reads zero and is counted; a parity error stops the core. -/
def seqLoad (c align n off : Nat) (par : Option Parity) (f : Bytes → Core → Core) (s : State) : State :=
  if off % align ≠ 0 then s.coreFault c 2 5 (s.core c).pc 0
  else match par with
    | some p => (s.seqViol c off n).parityFault c 5 (s.core c).pc p
    | none =>
      let got := s.read (storeAddr c off) (seqRoom off n) ++ List.replicate (n - seqRoom off n) 0
      ((s.seqViol c off n).modCore c (f got)).advance c

/-- A sequencer store (R170). -/
def seqStore (c align off : Nat) (data : Bytes) (s : State) : State :=
  if off % align ≠ 0 then s.coreFault c 2 5 (s.core c).pc 0
  else ((s.seqViol c off data.length).poke (storeAddr c off) (data.take (seqRoom off data.length))).advance c

/-- LD: 8 bytes at s[sa] + imm32. -/
def execLd (c : Nat) (f : ScalF) (par : Option Parity) (s : State) : Host.Outcome State Fault Refusal :=
  ret (issue c s fun s => seqLoad c 8 8 (seqOffset (s.core c) f.sa f.imm32) par
    (fun bs k => k.setS f.sd.toNat (BitVec.ofNat 64 (ofBytes bs))) s)

/-- ST: s[sd] to s[sa] + imm32. -/
def execSt (c : Nat) (f : ScalF) (s : State) : Host.Outcome State Fault Refusal :=
  ret (issue c s fun s => seqStore c 8 (seqOffset (s.core c) f.sa f.imm32)
    (toBytes 8 ((s.core c).s f.sd.toNat).toNat) s)

/-! ### Descriptor class (R171) -/

/-- Replace a tensor descriptor. -/
def Core.setTd (k : Core) (n : Nat) (v : BitVec 512) : Core := { k with td := Tab.put 0 n v k.td }

/-- Replace a chain descriptor. -/
def Core.setCd (k : Core) (n : Nat) (v : BitVec 1024) : Core := { k with cd := Tab.put 0 n v k.cd }

/-- TDLD. -/
def execTdld (c : Nat) (f : DescF) (par : Option Parity) (s : State) : Host.Outcome State Fault Refusal :=
  ret (issue c s fun s => seqLoad c 64 64 (seqOffset (s.core c) f.sa f.imm32) par
    (fun bs k => k.setTd f.td.toNat (BitVec.ofNat 512 (ofBytes bs))) s)

/-- TDST. -/
def execTdst (c : Nat) (f : DescF) (s : State) : Host.Outcome State Fault Refusal :=
  ret (issue c s fun s => seqStore c 64 (seqOffset (s.core c) f.sa f.imm32)
    (toBytes 64 (Tab.get 0 f.td.toNat (s.core c).td).toNat) s)

/-- TDCPY. -/
def execTdcpy (c : Nat) (f : DescF) (s : State) : Host.Outcome State Fault Refusal :=
  ret (issue c s fun s => (s.modCore c fun k => k.setTd f.td.toNat (Tab.get 0 f.td2.toNat k.td)).advance c)

/-- TDSET: field 1 is the format word; fields 11 to 15 are reserved. -/
def execTdset (c : Nat) (f : DescF) (s : State) : Host.Outcome State Fault Refusal :=
  ret (issue c s fun s =>
    let old := Tab.get 0 f.td.toNat (s.core c).td
    let v := (descV f (s.core c)).toNat
    match f.field.toNat, tdField f.field.toNat with
    | 1, _ =>
      let w := setFld (setFld (setFld old 443 5 v) 442 1 (v / 32)) 436 6 (v / 64)
      (s.modCore c fun k => k.setTd f.td.toNat w).advance c
    | _, some (lo, len) => (s.modCore c fun k => k.setTd f.td.toNat (setFld old lo len v)).advance c
    | _, none => s.illegal c)

/-- TDADD: field 1 and fields 11 to 15 are illegal. -/
def execTdadd (c : Nat) (f : DescF) (s : State) : Host.Outcome State Fault Refusal :=
  ret (issue c s fun s =>
    let old := Tab.get 0 f.td.toNat (s.core c).td
    let v := (descV f (s.core c)).toNat
    match tdField f.field.toNat with
    | some (lo, len) => (s.modCore c fun k => k.setTd f.td.toNat (setFld old lo len (fld old lo len + v))).advance c
    | none => s.illegal c)

/-! ### Chain class (R172) -/

/-- CDLD. -/
def execCdld (c : Nat) (f : ChainF) (par : Option Parity) (s : State) : Host.Outcome State Fault Refusal :=
  ret (issue c s fun s => seqLoad c 64 128 (seqOffset (s.core c) f.sa f.imm32) par
    (fun bs k => k.setCd f.cd.toNat (BitVec.ofNat 1024 (ofBytes bs))) s)

/-- CDST. -/
def execCdst (c : Nat) (f : ChainF) (s : State) : Host.Outcome State Fault Refusal :=
  ret (issue c s fun s => seqStore c 64 (seqOffset (s.core c) f.sa f.imm32)
    (toBytes 128 (Tab.get 0 f.cd.toNat (s.core c).cd).toNat) s)

/-- CDCPY. -/
def execCdcpy (c : Nat) (f : ChainF) (s : State) : Host.Outcome State Fault Refusal :=
  ret (issue c s fun s => (s.modCore c fun k => k.setCd f.cd.toNat (Tab.get 0 f.cd2.toNat k.cd)).advance c)

/-- Set a field of a chain descriptor from v. -/
def cdField (lo len c : Nat) (f : ChainF) (s : State) : Host.Outcome State Fault Refusal :=
  ret (issue c s fun s =>
    (s.modCore c fun k => k.setCd f.cd.toNat
      (setFld (Tab.get 0 f.cd.toNat k.cd) lo len (chainV f k).toNat)).advance c)

/-- CDSETW. -/
def execCdsetw (c : Nat) (f : ChainF) (s : State) : Host.Outcome State Fault Refusal :=
  cdField (32 * f.word.toNat) 32 c f s

/-- CDLBASE. -/
def execCdlbase (c : Nat) (f : ChainF) (s : State) : Host.Outcome State Fault Refusal := cdField 63 13 c f s

/-- CDSTREAM. -/
def execCdstream (c : Nat) (f : ChainF) (s : State) : Host.Outcome State Fault Refusal := cdField 114 4 c f s

/-! ### Held instructions and faults (R122, R144) -/

/-- SEQ_RESUME: a queue has room and the held instruction is placed (R122). -/
def execSeqResume (c : Nat) (s : State) : Host.Outcome State Fault Refusal :=
  ret (if s.pwrFail then s else match (s.core c).heldIns with
    | none => s
    | some (q, e) =>
      if ((s.core c).queue q).length < queueDepth q then
        (s.modCore c fun k => { k.setQueue q (k.queue q ++ [e]) with heldIns := none }).advance c
      else s)

/-- The detail bytes of a CORE_FAULT record (R454). -/
def faultDetail (s : State) (c : Nat) : Bytes := toBytes 8 (s.reg (rCore c 0x18)).toNat

/-- CORE_FAULTED: the started instructions have finished; CORE_FAULT, the state and the event are set, and the fault is
journalled (R144, R146, R454). -/
def execCoreFaulted (c : Nat) (s : State) : Host.Outcome State Fault Refusal :=
  ret (match (s.core c).fault with
    | none => s
    | some r =>
      if (s.core c).run == .stopping && !(s.core c).anyBusy then
        let v : W64 := BitVec.ofNat 64 (r.cause <<< 56 + (r.queue % 8) <<< 48 + (r.pc % 2 ^ 14) <<< 32 + r.detail % 2 ^ 32)
        let t := (s.setReg (rCore c 0x18) v).modCore c fun k => { k with fault := none }
        (t.setRun c .faulted).journalPut 0x10 1 2 c (faultDetail t c)
      else s)

end Sys2Proof.Machine
end

