-- ==== Sys2Proof/Machine/Dma.lean ====
section
/-! DEFINITION. DMA channels (09_dma.md). Channel 4c + n is core c's channel n; 256 + 8d + j is die d's channel j. -/

namespace Sys2Proof.Machine

/-! ### Channels (R231, R247, R248) -/

/-- A channel of a core. -/
def coreCh (ch : Nat) : Bool := ch < 256

/-- The core of a core channel. -/
def chCore (ch : Nat) : Nat := ch / 4

/-- The compute die of a channel. -/
def chDie (ch : Nat) : Nat := if coreCh ch then ch / 64 else (ch - 256) / 8

/-- The status register of a channel. -/
def chStat (ch : Nat) : Nat :=
  if coreCh ch then rCore (ch / 4) (0x2000 + 0x100 * (ch % 4)) else rDma ((ch - 256) / 8) (0x100 * (ch % 8) + 0x10)

/-- Channel ch. -/
def State.chan (s : State) (ch : Nat) : DChan := Tab.get DChan.reset ch s.dma

/-- Change a channel. -/
def State.modChan (s : State) (ch : Nat) (f : DChan → DChan) : State :=
  { s with dma := Tab.put DChan.reset ch (f (s.chan ch)) s.dma }

/-- Change the work of a channel. -/
def State.modWork (s : State) (ch : Nat) (f : DWork → DWork) : State :=
  s.modChan ch fun c => { c with work := c.work.map f }

/-- Change the transfer in progress. -/
def State.modCur (s : State) (ch : Nat) (f : DCur → DCur) : State :=
  s.modWork ch fun w => { w with cur := w.cur.map f }

/-- The state field of a channel: 0 IDLE, 1 RUNNING, 2 HALTED. -/
def State.chState (s : State) (ch : Nat) : Nat := s.rf (chStat ch) 62 2

/-- Set state and address; the halted level of a die channel follows (R249). -/
def State.setCh (s : State) (ch st addr : Nat) : State :=
  let t := (s.setRf (chStat ch) 62 2 st).setRf (chStat ch) 0 43 addr
  if coreCh ch then t else t.setLevel (897 + 16 * chDie ch + 2 * (ch % 8)) (st == 2)

/-- The code of the last completion or list. -/
def State.setChCode (s : State) (ch code : Nat) : State := s.setRf (chStat ch) 48 8 code

/-- Count silent violations of a channel (R41, R161, R231). -/
def State.dmaViol (s : State) (ch n a : Nat) : State :=
  if n = 0 then s
  else if coreCh ch then s.coreViol (chCore ch) (List.replicate n a)
  else s.bump (rDma (chDie ch) 0x800) 0 32 n

/-- A core ends its started work: abort, fault or reset (R246). -/
def Core.ending (k : Core) : Bool :=
  k.run == .resetting || (k.run == .stopping && (k.stopCause == .abort || k.stopCause == .fault))

/-- Pacing waits of a channel are released (R246). -/
def State.released (s : State) (ch : Nat) (w : DWork) : Bool := w.stop || (coreCh ch && (s.core (chCore ch)).ending)

/-! ### Transfers (R233-R235) -/

/-- A transfer as units: their number, length, addresses, how many bits of each are within the extents and the elements that
are not, and the options of R173 and R234. -/
structure Xfer where
  n       : Nat
  len     : Nat
  src     : Nat → Nat
  dst     : Nat → Nat
  srcBits : Nat → Nat
  dstBits : Nat → Nat
  srcOut  : Nat → Nat
  dstOut  : Nat → Nat
  check   : Nat
  swap    : Nat
  pace    : Nat
  paceId  : Nat
  bulk    : Bool
  aligned : Bool

/-- The transfer of a memory-resident descriptor (R234, R235). -/
def descXfer (w : BitVec 512) : Xfer :=
  let rows := fld w 328 24
  let len := fld w 352 32
  { n := if len = 0 then 0 else fld w 312 16 * rows, len := len,
    src := fun i => (fld w 448 64 + i / rows * fld w 174 46 + i % rows * fld w 266 46) % 2 ^ 64,
    dst := fun i => (fld w 384 64 + i / rows * fld w 128 46 + i % rows * fld w 220 46) % 2 ^ 64,
    srcBits := fun _ => 8 * len, dstBits := fun _ => 8 * len, srcOut := fun _ => 0, dstOut := fun _ => 0,
    check := fld w 83 2, swap := fld w 81 2, pace := fld w 79 2, paceId := fld w 73 6, bulk := bit w 69,
    aligned := len % 64 == 0 }

/-- Columns of a row of a tile that lie within the extents (R161). -/
def TD.validCols (t : TD) (cols m i2 i3 : Nat) : Nat :=
  if t.row + m < t.e1 ∧ i2 < t.e2 ∧ i3 < t.e3 then Nat.min cols (t.e0 - t.col) else 0

/-- The transfer of a DMA.TD (R173, R233). -/
def tdXfer (e : QEntry) (f : DmaTdF) : Xfer :=
  let a := e.td f.src.toNat
  let b := e.td f.dst.toNat
  let rows := f.rows.toNat
  let cols := f.cols.toNat
  let wd := a.format.width
  let i3 (i : Nat) := i / (a.e2 * rows)
  let i2 (i : Nat) := i / rows % a.e2
  let m (i : Nat) := i % rows
  { n := if cols = 0 then 0 else a.e3 * a.e2 * rows, len := cols * wd / 8,
    src := fun i => a.addr (a.row + m i) a.col (i2 i) (i3 i), dst := fun i => b.addr (b.row + m i) b.col (i2 i) (i3 i),
    srcBits := fun i => a.validCols cols (m i) (i2 i) (i3 i) * wd, dstBits := fun i => b.validCols cols (m i) (i2 i) (i3 i) * wd,
    srcOut := fun i => cols - a.validCols cols (m i) (i2 i) (i3 i), dstOut := fun i => cols - b.validCols cols (m i) (i2 i) (i3 i),
    check := f.check.toNat, swap := f.swap.toNat, pace := f.pace.toNat, paceId := f.paceId.toNat, bulk := false,
    aligned := cols * wd % 512 == 0 }

/-- The DMA.TD that a channel runs, if it runs one. -/
def DWork.td (w : DWork) : Option (QEntry × DmaTdF) :=
  match w.entry with
  | some e => match e.ins with
    | .dmaTd f => some (e, f)
    | _ => none
  | none => none

/-- The transfer in progress of a channel. -/
def DWork.xfer (w : DWork) (c : DCur) : Xfer :=
  match w.td with
  | some p => tdXfer p.1 p.2
  | none => descXfer c.w

/-- A transfer that moves nothing: one of its fields is 0 (R186, R244). -/
def Xfer.empty (x : Xfer) : Bool := x.n == 0

/-! ### Alignment (R238) -/

/-- The first address that breaks R238 in unit i: its source, its destination, then the start and the end of a run. -/
def Xfer.badUnit (x : Xfer) (i : Nat) : Option Nat :=
  let gen := x.check % 2 == 1
  let a := x.src i
  let b := x.dst i
  let starts := i == 0 || x.dst (i - 1) + x.len != b
  let ends := i + 1 == x.n || b + x.len != x.dst (i + 1)
  if a % 64 ≠ 0 || !x.aligned then some a
  else if b % 64 ≠ 0 then some b
  else if gen && starts && b % 4096 ≠ 0 then some b
  else if gen && ends && (b + x.len) % 4096 ≠ 0 then some (b + x.len)
  else none

/-- The first misaligned address of a transfer, in transfer order (R238, R247). -/
def Xfer.misaligned (x : Xfer) : Option Nat := if x.empty then none else (List.range x.n).findSome? x.badUnit

/-- Halt a channel: a core channel shows the offending address, a die channel the descriptor (R238, R239, R247, R248). -/
def State.haltCh (s : State) (ch a desc : Nat) : State :=
  if coreCh ch then (s.setCh ch 2 (a % 2 ^ 43)).setChCode ch 0x31 else s.setCh ch 2 (desc % 2 ^ 43)

/-! ### Ends of a transfer -/

/-- Where a unit's bytes lie (R42, R235): this package, a home, or nowhere. -/
inductive DEnd where
  | here (a : Nat)
  | far (pos a : Nat)
  | silent
  deriving DecidableEq, Repr

/-- The end that an address names for a channel: register space, absent parts and dies that the channel's die is cut off from are never
reached (R21, R41, R235). -/
def State.dEnd (s : State) (ch a : Nat) : DEnd :=
  let near (l : Nat) : DEnd :=
    let d := dieOfAddr l
    if s.populated l && (hasNat s.deadDies d || (s.dieRoute (chDie ch) d).isSome) then .here l else .silent
  if a < 2 ^ 43 then (match region a with | .hbm _ _ => near a | .store _ _ => near a | _ => .silent)
  else match s.target (BitVec.ofNat 64 a) with
    | .home pos l => .far pos l
    | _ => .silent

/-- Bytes rearranged within 16-bit or 32-bit units (R173, R241). -/
def swapBytes (mode : Nat) (d : Bytes) : Bytes :=
  match mode with
  | 1 => (chunksOf 2 d.length d).flatMap List.reverse
  | 2 => (chunksOf 4 d.length d).flatMap List.reverse
  | 3 => (chunksOf 4 d.length d).flatMap fun q => q.drop 2 ++ q.take 2
  | _ => d

/-- The bytes with every bit from `n` on zero (R161). -/
def keepBits (n : Nat) (d : Bytes) : Bytes := if 8 * d.length ≤ n then d else toBytes d.length (ofBytes d % 2 ^ n)

/-- The transfer in progress of a channel. -/
def State.cur (s : State) (ch : Nat) : Option DCur := (s.chan ch).work.bind (·.cur)

/-- Pieces that follow one another without a gap, joined. -/
def joinParts : List (Nat × Bytes) → List (Nat × Bytes)
  | [] => []
  | p :: ps =>
    match joinParts ps with
    | q :: qs => if p.1 + p.2.length = q.1 then (p.1, p.2 ++ q.2) :: qs else p :: q :: qs
    | [] => [p]

/-- Write bytes within one 4 KiB block of a destination: a whole block as such, sealed where the transfer generates checks (R213, R242);
a home is asked to (R319). -/
def State.dmaWrite (s : State) (ch : Nat) (x : Xfer) (a : Nat) (d : Bytes) : State :=
  match s.dEnd ch a with
  | .here l => s.store l d (x.check % 2 == 1)
  | .far pos l =>
    (s.modCur ch fun c => { c with waiting := c.waiting + 1 }).rsbSubmit
      (s.rsbMake (chDie ch) pos (if x.bulk then 6 else 1) 1 false x.check l d.length d (.dma ch true 0 0))
  | .silent => s

/-- Write what waits for a destination block. A block of which extents have dropped bytes is not whole: its other bytes are written without
a check (R161, R213, log 89). -/
def State.dmaFlush (s : State) (ch : Nat) (x : Xfer) (key : Nat) : State :=
  match s.cur ch with
  | none => s
  | some c =>
    let t := s.modCur ch fun c => { c with parts := c.parts.filter fun p => p.1 / 4096 != key }
    (joinParts (c.parts.filter fun p => p.1 / 4096 == key)).foldl (fun t p => t.dmaWrite ch x p.1 p.2) t

/-- Bytes for a destination wait for the rest of their block. -/
def State.dmaSink (s : State) (ch a : Nat) (d : Bytes) : State :=
  if d.isEmpty then s else s.modCur ch fun c => { c with parts := c.parts ++ [(a, d)] }

/-- The part of a unit's bytes that lies within the destination's extents: `room` bits of them (R161). -/
def State.dmaPut (s : State) (ch a : Nat) (d : Bytes) (room : Nat) : State :=
  if 8 * d.length ≤ room then s.dmaSink ch a d
  else
    let t := s.dmaSink ch a (d.take (room / 8))
    if room % 8 = 0 then t
    else
      let old := match t.dEnd ch (a + room / 8) with
        | .here l => t.readN l 1
        | _ => (Config.freeBits 8 t.freeIx).toNat
      let b := (nth 0 d (room / 8)).toNat % 2 ^ (room % 8) + old / 2 ^ (room % 8) * 2 ^ (room % 8)
      (t.fresh).dmaSink ch (a + room / 8) (toBytes 1 b)

/-! ### Moving a unit (R233, R240-R242) -/

/-- The source block at offset `off` of unit i is read whole: it starts there, lies within the extents, and the source goes on without a
gap to its end (R242). -/
def Xfer.blockWhole (x : Xfer) : Nat → Nat → Nat → Nat → Bool
  | 0, _, _, _ => false
  | fuel + 1, i, off, need =>
    if x.srcBits i < 8 * (off + Nat.min need (x.len - off)) then false
    else if need ≤ x.len - off then true
    else i + 1 < x.n && x.src (i + 1) == x.src i + x.len && x.blockWhole fuel (i + 1) 0 (need - (x.len - off))

/-- The destination goes on without a gap after unit i, and its units need not be visible one by one: runs of R238, or unpaced units. -/
def Xfer.goesOn (x : Xfer) (i : Nat) : Bool :=
  x.check % 2 == 1 || (x.pace == 0 && i + 1 < x.n && x.dst i + x.len == x.dst (i + 1))

/-- Requests of a channel that have not been sent are taken back: its reads, and after a failed write its writes (R240). -/
def State.dmaCancel (s : State) (ch : Nat) (writes : Bool) : State :=
  let mine (q : RsbReq) : Bool := !q.sent && (match q.client with | .dma c w _ _ => c == ch && (!w || writes) | _ => false)
  let n := (s.rsbOut.filter mine).length
  ({ s with rsbOut := s.rsbOut.filter fun q => !mine q }).modCur ch fun c => { c with waiting := c.waiting - n }

/-- The transfer meets a bus error (R240): what it wrote before stands, and nothing after it is written. A block that was to be sealed
and is not whole stays unwritten. -/
def State.dmaError (s : State) (ch : Nat) (x : Xfer) (write : Bool) : State :=
  let t := if x.check % 2 = 1 || write then s
    else match s.cur ch with
      | some c => (joinParts c.parts).foldl (fun t p => t.dmaWrite ch x p.1 p.2) s
      | none => s
  (t.modCur ch fun c => { c with code := 0x30, parts := [], got := [] }).dmaCancel ch write

/-- A line of unit i, read at offset `off`, goes to the destination; a destination block is written once its end is reached, or the unit's
where the destination does not go on (R235, R241, R242). -/
def State.dmaLine (s : State) (ch : Nat) (x : Xfer) (i off : Nat) (d : Bytes) : State :=
  let b := x.dst i + off
  let t := s.dmaPut ch b (swapBytes x.swap (keepBits (x.srcBits i - 8 * off) d)) (x.dstBits i - 8 * off)
  let last := x.len ≤ off + 64
  let t := if (b + 64) % 4096 = 0 || (last && !x.goesOn i) then t.dmaFlush ch x (b / 4096) else t
  t.modCur ch fun c => { c with moved := c.moved + d.length, toUnit := if last then i + 1 else i, toOff := if last then 0 else off + 64 }

/-- Move the 64 bytes at offset `off` of unit i, from a source in this package; a block whose first verification fails is read again
(R215, R240, R242). -/
def State.moveLine (s : State) (ch : Nat) (x : Xfer) (i off : Nat) : State :=
  match s.dEnd ch (x.src i + off) with
  | .here l =>
    let hbm := match region l with | .hbm _ _ => true | _ => false
    let v := if hbm && 2 ≤ x.check && l % 4096 == 0 && x.blockWhole 65 i off 4096 then s.verifyBlock ch l else (s, some true)
    (match v.2 with
    | none => v.1.modCur ch fun c => { c with hold := true }
    | some false => v.1.dmaError ch x false
    | some true =>
      if 8 * off < x.srcBits i ∧ v.1.poisoned l then (v.1.reportPoison l).dmaError ch x false
      else v.1.dmaLine ch x i off (v.1.read l 64))
  | _ => s.dmaLine ch x i off (List.replicate 64 0)

/-- Bytes that have come from a remote source, line by line. -/
def State.movePiece (s : State) (ch : Nat) (x : Xfer) (g : DGot) : State :=
  let t := s.modCur ch fun c => { c with got := c.got.erase g }
  match g.data with
  | none => t.dmaError ch x false
  | some d => iter (d.length / 64) (fun j t => t.dmaLine ch x g.unit (g.off + 64 * j) ((d.drop (64 * j)).take 64)) t

/-- The units that have started are written in order, as far as their data is there (R233, R235, R240). -/
def State.dmaPump (ch : Nat) (x : Xfer) : Nat → State → State
  | 0, s => s
  | fuel + 1, s =>
    match s.cur ch with
    | none => s
    | some c =>
      if c.code ≠ 0 || c.hold || c.unit ≤ c.toUnit then s
      else match s.dEnd ch (x.src c.toUnit) with
        | .far _ _ =>
          (match c.got.find? fun g => g.unit == c.toUnit && g.off == c.toOff with
          | some g => State.dmaPump ch x fuel (s.movePiece ch x g)
          | none => s)
        | _ => State.dmaPump ch x fuel (s.moveLine ch x c.toUnit c.toOff)

/-- Write what can be written. -/
def State.dmaRun (s : State) (ch : Nat) (x : Xfer) : State :=
  match s.cur ch with
  | some c => State.dmaPump ch x ((c.unit - c.toUnit) * (x.len / 64 + 1) + 1) s
  | none => s

/-- Ask for the pieces of unit i from a remote source: requests of at most 4 KiB, cut where the source crosses a 4 KiB boundary, with the
transfer's check field (R235, R242, R319). -/
def State.fetchUnit (ch : Nat) (x : Xfer) (i : Nat) : Nat → Nat → State → State
  | 0, _, s => s
  | fuel + 1, off, s =>
    if x.len ≤ off then s
    else
      let a := x.src i + off
      let n := Nat.min (x.len - off) (4096 - a % 4096)
      let t := match s.dEnd ch a with
        | .far pos l =>
          (s.modCur ch fun c => { c with waiting := c.waiting + 1 }).rsbSubmit
            (s.rsbMake (chDie ch) pos (if x.bulk then 6 else 1) 0 false x.check l n [] (.dma ch false i off))
        | _ => s.modCur ch fun c => { c with got := c.got ++ [⟨i, off, some (List.replicate n 0)⟩] }
      State.fetchUnit ch x i fuel (off + n) t

/-- The first byte of a unit's end that is dropped under R41. -/
def State.endSilent (s : State) (ch a n : Nat) : Option Nat :=
  ((List.range (ceilDiv n 64)).map (a + 64 * ·)).find? fun b => match s.dEnd ch b with | .silent => true | _ => false

/-- The silent violations of unit i, on each side: elements outside the extents, and one where part of the unit lies nowhere (R41, R161,
R233). -/
def State.unitViol (s : State) (ch : Nat) (x : Xfer) (i : Nat) : State :=
  let side (t : State) (bits out a : Nat) : State :=
    let t := t.dmaViol ch out (a + bits / 8)
    match t.endSilent ch a (ceilDiv bits 8) with
    | some b => t.dmaViol ch 1 b
    | none => t
  side (side s (x.srcBits i) (x.srcOut i) (x.src i)) (x.dstBits i) (x.dstOut i) (x.dst i)

/-- Start the next unit of a channel (R233, R235). -/
def State.moveUnit (s : State) (ch : Nat) (x : Xfer) : State :=
  match s.cur ch with
  | none => s
  | some c =>
    if c.code ≠ 0 || x.n ≤ c.unit then s
    else
      let t := (s.unitViol ch x c.unit).modCur ch fun c => { c with unit := c.unit + 1 }
      let t := match t.dEnd ch (x.src c.unit) with
        | .far _ _ => State.fetchUnit ch x c.unit (x.len / 4096 + 2) 0 t
        | _ => t
      t.dmaRun ch x

/-- Every unit of a transfer has been written, or it has met an error. -/
def DCur.allWritten (c : DCur) (x : Xfer) : Bool := x.empty || x.n ≤ c.toUnit || c.code != 0

/-! ### Pacing (R243) -/

/-- A credit arrives from a source: every channel that collects from it holds one. -/
def State.paceCredit (s : State) (src : Nat) : State :=
  { s with dma := s.dma.map fun p => if p.2.src = some src then (p.1, { p.2 with credit := true }) else p }

/-- The credit source that a transfer names, if it is paced by timer or channel. -/
def paceSrc (ch pace id : Nat) : Option Nat :=
  let core := if coreCh ch then chCore ch else 16 * chDie ch + id / 4
  match pace with
  | 1 => some (2 * (4 * core + id % 4))
  | 2 => some (2 * (if coreCh ch then ch / 4 * 4 + id % 4 else 256 + 8 * chDie ch + id % 8) + 1)
  | _ => none

/-- A transfer waits for credits: it is paced, not by its own channel. -/
def Xfer.paced (x : Xfer) (ch : Nat) : Bool := x.pace == 3 || (x.pace != 0 && paceSrc ch x.pace x.paceId != some (2 * ch + 1))

/-- Semaphore-paced transfers wait in the issue order of their instruction (R243). -/
def State.setPaced (s : State) (ch : Nat) (w : DWork) (on : Option Nat) : State :=
  match w.entry with
  | none => s
  | some e => s.modCore (chCore ch) fun k =>
      { k with paced := k.paced.filter (fun p => p.seq != e.seq) ++ (match on with | some sem => [⟨e.seq, sem, 1⟩] | none => []) }

/-! ### Completion (R245) -/

/-- A transfer of a channel has completed: a credit for those that name the channel (R243). -/
def State.dmaCount (s : State) (ch : Nat) : State :=
  let t := if coreCh ch then s else s.bump (rDma (chDie ch) (0x100 * (ch % 8) + 0x18)) 0 32 1
  t.paceCredit (2 * ch + 1)

/-- The work of a channel ends with a code (R236, R247-R249). -/
def State.endWork (s : State) (ch code : Nat) : State :=
  match (s.chan ch).work with
  | none => s
  | some w =>
    let t := (s.setPaced ch w none).modChan ch fun c => { c with work := none }
    let t := (t.setChCode ch code).dropRechecks ch
    let t := if t.chState ch = 2 then t else t.setCh ch 0 0
    match w.entry with
    | some e => t.finish (chCore ch) e.seq code .none
    | none => t.pulse (896 + 16 * chDie ch + 2 * (ch % 8))

/-- A DMA.TD whose units are done and whose requests are answered has completed (R240, R243). -/
def State.tdSettle (s : State) (ch : Nat) : State :=
  match (s.chan ch).work with
  | none => s
  | some w =>
    match w.cur, w.td with
    | some c, some _ =>
      if c.allWritten (w.xfer c) && c.waiting == 0 then (s.endWork ch c.code).dmaCount ch else s
    | _, _ => s

/-- A remote request of a channel has ended (R240, R242): a read's data waits for its turn, a failed write is a bus error. -/
def State.dmaReply (s : State) (ch : Nat) (write : Bool) (unit off code len : Nat) (data : Bytes) : State :=
  match (s.chan ch).work with
  | none => s
  | some w =>
    match w.cur with
    | none => s
    | some c =>
      let x := w.xfer c
      let t := s.modCur ch fun c => { c with waiting := c.waiting - 1 }
      let t :=
        if c.code ≠ 0 then t
        else if write then (if code = 0 then t else t.dmaError ch x true)
        else
          let d := if code = 0 then some ((data ++ List.replicate len 0).take len) else none
          (t.modCur ch fun c => { c with got := c.got ++ [⟨unit, off, d⟩] }).dmaRun ch x
      t.tdSettle ch

/-! ### Starting work (R173, R236, R238, R243) -/

/-- A transfer begins: its credit source takes over (R243), and an unpaced one runs its units. -/
def State.beginXfer (s : State) (ch : Nat) (w : DWork) (x : Xfer) : State :=
  let t := match paceSrc ch x.pace x.paceId with
    | some src => if (s.chan ch).src = some src then s else s.modChan ch fun c => { c with src := some src, credit := false }
    | none => s
  if x.paced ch && !s.released ch w then t.setPaced ch w (if x.pace = 3 then some x.paceId else none)
  else iter x.n (fun _ t => t.moveUnit ch x) t

/-- A core channel starts an instruction (R173, R233, R236, R239): a code when it is done at once. -/
def State.dmaStart (s : State) (c : Nat) (e : QEntry) : State × Option Nat :=
  match e.ins with
  | .dmaTd f =>
    let ch := 4 * c + f.channel.toNat
    let x := tdXfer e f
    if s.chState ch = 2 then (s.dmaCount ch, some 0x31)
    else if x.empty then ((s.setChCode ch 1).dmaCount ch, some 1)
    else match x.misaligned with
      | some a => ((s.haltCh ch a 0).dmaCount ch, some 0x31)
      | none =>
        let w : DWork := ⟨some e, 0, 0, some ⟨0, 0, 0, 0, 0, 0, 0, 0, [], false, []⟩, false, false, false⟩
        let t := (s.modChan ch fun k => { k with work := some w }).setCh ch 1 0
        ((t.beginXfer ch w x).tdSettle ch, none)
  | .dmaList f =>
    let ch := 4 * c + f.channel.toNat
    let head := e.s f.listReg.toNat
    if s.chState ch = 2 then (s, some 0x31)
    else if f.count = 0 then (s.setChCode ch 1, some 1)
    else if head.toNat % 64 ≠ 0 then (s.haltCh ch head.toNat 0, some 0x31)
    else
      let w : DWork := ⟨some e, head.toNat, f.count.toNat, none, false, false, false⟩
      ((s.modChan ch fun k => { k with work := some w }).setCh ch 1 0, none)
  | _ => (s, some 0)

/-- Whether the channel that a DMA instruction names is free to accept it (R173). -/
def State.dmaFree (s : State) (c : Nat) (e : QEntry) : Bool :=
  match e.ins with
  | .dmaTd f => (s.chan (4 * c + f.channel.toNat)).work.isNone
  | .dmaList f => (s.chan (4 * c + f.channel.toNat)).work.isNone
  | _ => true

/-- The code a list ends with (R236). -/
def DWork.listCode (w : DWork) (halted : Bool) : Nat :=
  if halted then 0x31 else if w.bad then 0x30 else if !w.some' then 1 else 0

/-- A descriptor is in format error (R237). -/
def descBad (ch : Nat) (w : BitVec 512) : Bool :=
  let pace := fld w 79 2
  let id := fld w 73 6
  (!coreCh ch && pace == 3) || (pace == 1 && coreCh ch && 4 ≤ id) || (pace == 2 && (if coreCh ch then 4 ≤ id else 8 ≤ id))
    || (bit w 72 && fld w 85 6 != 0)

/-- A parity error found by a channel's access (R146): in the core's own store it stops the core, elsewhere the other core. -/
def State.dmaParity (s : State) (ch : Nat) (p : Parity) : State :=
  match (s.chan ch).work, p with
  | some w, .other c u =>
    let t := s.parityFault c 6 0 (.other c u)
    (match w.cur with | some k => t.dmaError ch (w.xfer k) false | none => t)
  | some w, p =>
    match w.entry with
    | some e =>
      let t := (s.setPaced ch w none).modChan ch fun c => { c with work := none }
      let t := (t.setCh ch 0 0).modCore (chCore ch) fun k => { k with started := k.started.filter fun r => r.entry.seq != e.seq }
      t.parityFault (chCore ch) 0 e.pc p
    | none => (match w.cur with | some k => s.dmaError ch (w.xfer k) false | none => s)
  | none, _ => s

/-- DMA_DESC_BEGIN: the channel reads its next descriptor and checks it (R234-R238, R244, R246); an unpaced one runs. A head in Roseb
form, which R234 does not give a descriptor, reads as zeros by no request and is counted as a silent access (log 90). A parity error is
found by the first unit, whose violations count (R152). In Midnight no channel runs (R388). -/
def execDmaDescBegin (ch : Nat) (par : Option Parity) (s : State) : Host.Outcome State Fault Refusal :=
  ret (if s.pwrFail || s.midnight then s else match (s.chan ch).work with
    | none => s
    | some w =>
      if w.cur.isSome || w.td.isSome then s
      else if s.released ch w then s.endWork ch (w.listCode false)
      else
        let a := w.head
        let s := match s.dEnd ch a with | .here _ => s | _ => s.dmaViol ch 1 a
        let l := match s.dEnd ch a with | .here l => l | _ => 2 ^ 43
        if s.poisoned l then ((s.reportPoison l).modWork ch fun w => { w with bad := true }).endWork ch 0x30
        else
          let d : BitVec 512 := BitVec.ofNat 512 (ofBytes (s.read l 64))
          if descBad ch d then
            match w.entry with
            | some e =>
              let t := (s.modChan ch fun c => { c with work := none }).setCh ch 0 0
              (t.modCore (chCore ch) fun k => { k with started := k.started.filter fun r => r.entry.seq != e.seq }).coreFault
                (chCore ch) 2 0 e.pc 0
            | none => ((s.setRbit (chStat ch) 61 true).haltCh ch a a).endWork ch 0x31
          else
            let x := descXfer d
            let w' : DWork := { w with cur := some ⟨a, d, 0, 0, 0, 0, if x.empty then 1 else 0, 0, [], false, []⟩ }
            let t := (s.modChan ch fun c => { c with work := some w' }).setCh ch 1 a
            match x.misaligned with
            | some b => (t.haltCh ch b a).modCur ch fun c => { c with code := 0x31 }
            | none => match par with
              | some p => (if x.empty then t else t.unitViol ch x 0).dmaParity ch p
              | none => if x.empty then t else t.beginXfer ch w' x)

/-- DMA_UNIT_START: the next unit of a paced transfer starts on its credit, or unpaced once its waits are released (R243, R246). A block
that is to be read again is read now, and the transfer goes on (R215). -/
def execDmaUnitStart (ch : Nat) (par : Option Parity) (s : State) : Host.Outcome State Fault Refusal :=
  ret (if s.pwrFail || s.midnight then s else match (s.chan ch).work with
    | none => s
    | some w =>
      match w.cur with
      | none => s
      | some c =>
        let x := w.xfer c
        let go (t : State) : State := match par with
          | some p => ((t.unitViol ch x c.unit).dmaParity ch p).tdSettle ch
          | none =>
            let t := t.moveUnit ch x
            let t := if x.n ≤ c.unit + 1 then t.setPaced ch w none else t
            t.tdSettle ch
        if c.hold then
          let t := (s.modCur ch fun c => { c with hold := false }).dmaRun ch x
          (if x.paced ch && !s.released ch w then t else iter (x.n - c.unit) (fun _ t => t.moveUnit ch x) t).tdSettle ch
        else if c.code ≠ 0 || x.n ≤ c.unit then s
        else if s.released ch w || !x.paced ch then go (s.setPaced ch w none)
        else if x.pace = 3 then
          match w.entry with
          | none => s
          | some e =>
            if (s.core (chCore ch)).mayTake e.seq [(x.paceId, 1)] then
              go (s.modCore (chCore ch) fun k => k.take [(x.paceId, 1)])
            else s
        else if (s.chan ch).credit then go (s.modChan ch fun c => { c with credit := false })
        else s)

/-- The status word of a completed descriptor (R234, R245). -/
def State.writeBack (s : State) (c : DCur) : State :=
  if bit c.w 70 then
    s.store c.addr (toBytes 8 (c.code * 2 ^ 56 + 2 ^ 55 + Nat.min c.moved (2 ^ 48 - 1))) false
  else s

/-- DMA_DESC_COMPLETE: the descriptor writes its status, counts, and the list goes on or ends (R236, R243-R246). -/
def execDmaDescComplete (ch : Nat) (s : State) : Host.Outcome State Fault Refusal :=
  ret (if s.midnight then s else match (s.chan ch).work with
    | none => s
    | some w =>
      match w.cur, w.td with
      | some _, some _ => s
      | none, _ => s
      | some c, _ =>
        if c.allWritten (w.xfer c) && c.waiting == 0 then
          let t := ((s.writeBack c).setPaced ch w none).dmaCount ch
          let next := if bit c.w 72 then fld c.w 85 43 else c.addr + 64
          let w' : DWork := { w with cur := none, head := next, left := w.left - 1, bad := w.bad || c.code == 0x30,
                                     some' := w.some' || 0 < c.moved }
          let t := t.modChan ch fun k => { k with work := some w' }
          let t := if coreCh ch then t.setChCode ch c.code else t
          let halted := c.code == 0x31
          if halted || w'.left == 0 || bit c.w 71 || t.released ch w' then t.endWork ch (w'.listCode halted)
          else t.setCh ch 1 0
        else s)

/-! ### Die channels (R236, R239, R246, R248, R249) -/

/-- Channel 7 of a die belongs to Vespers while snapshots are on (R460). -/
def State.vspOwns (s : State) (j : Nat) : Bool := j == 7 && s.vsp.period != 0

/-- go on a die channel. -/
def State.chGo (s : State) (d j : Nat) : State :=
  let ch := 256 + 8 * d + j
  if s.chState ch ≠ 0 || s.vspOwns j then s.setRbit (chStat ch) 60 true
  else
    let head := s.rf (rDma d (0x100 * j)) 0 43
    let w : DWork := ⟨none, head, s.rf (rDma d (0x100 * j + 8)) 0 19, none, false, false, false⟩
    let t := (s.modChan ch fun c => { c with work := some w }).setCh ch 1 0
    if w.left = 0 then t.endWork ch 1
    else if head % 64 ≠ 0 then (t.haltCh ch head head).endWork ch 0x31
    else t

/-- abort on a die channel: its list ends after the descriptor in progress (R246). -/
def State.chAbort (s : State) (d j : Nat) : State :=
  let ch := 256 + 8 * d + j
  if s.vspOwns j then s else s.modWork ch fun w => { w with stop := true }

/-- clr_halt of a channel (R239). -/
def State.chClear (s : State) (ch : Nat) : State :=
  if s.chState ch = 2 then
    let t := if coreCh ch then s else s.setRbit (chStat ch) 61 false
    t.setCh ch 0 0
  else s

/-- A write to DMA_CH_CTRL (R248, R250). -/
def State.chCtrl (s : State) (d j : Nat) (v : W64) : State :=
  if s.hasDie d && d < 4 && j < 8 then
    let ch := 256 + 8 * d + j
    let t := s.rwReg (rDma d (0x100 * j + 8)) 0x7FFFF v
    let t := if bit v 62 then t.chAbort d j else t
    let t := if bit v 63 then (if bit v 62 then t.setRbit (chStat ch) 60 true else t.chGo d j) else t
    if bit v 61 && s.chState ch == 2 then t.chClear ch else t
  else s

/-- DMA_CH_GO. -/
def execDmaChGo (d j : Nat) (v : W64) (s : State) : Host.Outcome State Fault Refusal := ret (s.chCtrl d j (setBit v 63 true))

/-- DMA_CH_ABORT. -/
def execDmaChAbort (d j : Nat) (v : W64) (s : State) : Host.Outcome State Fault Refusal := ret (s.chCtrl d j (setBit v 62 true))

/-- DMA_CH_CLR_HALT. -/
def execDmaChClrHalt (d j : Nat) (s : State) : Host.Outcome State Fault Refusal :=
  ret (if d < 4 && s.hasDie d && j < 8 then s.chClear (256 + 8 * d + j) else s)

/-- CORE_DMA_CLR_HALT (R247). -/
def execCoreDmaClrHalt (c n : Nat) (s : State) : Host.Outcome State Fault Refusal :=
  ret (if c < 64 && s.hasCore c && n < 4 then s.chClear (4 * c + n) else s)

/-! ### Issue (R145, R156, R173) -/

/-- DMA.TD: pace 0b11 is reserved; both descriptors carry the same format. -/
def execDmaTd (c : Nat) (f : DmaTdF) (s : State) : Host.Outcome State Fault Refusal :=
  ret (issueQ c (.dmaTd f) (f.pace == 3)
    (fun e =>
      let a := e.td f.src.toNat
      let b := e.td f.dst.toNat
      e.tdBad a || e.tdBad b || a.fmt != b.fmt || a.mx != b.mx) s)

/-- DMA.LIST. -/
def execDmaList (c : Nat) (f : DmaListF) (s : State) : Host.Outcome State Fault Refusal :=
  ret (issueQ c (.dmaList f) false (fun _ => false) s)

end Sys2Proof.Machine
end

