-- ==== Sys2Proof/Machine/Func.lean ====
section
/-! DEFINITION. The transcendental functions of R63, R64 and R180: the function value to far below any place that a
rounding looks at, with `sticky` where it is not representable (log 13), and the compound activations. -/

namespace Sys2Proof

/-- Fixed-point places of the evaluation. -/
def fxBits : Nat := 1200

/-- Σ (t / n^2i) / (2i + 1), signs alternating when `alt`: artanh(1/n) or arctan(1/n) where t starts at 2^w / n. -/
def oddSeries (alt : Bool) (nn : Nat) : Nat → Nat → Nat → Int
  | 0, _, _ => 0
  | fuel + 1, t, k =>
    let term : Int := (t / k : Nat)
    (if alt && k % 4 == 3 then -term else term) + oddSeries alt nn fuel (t / nn) (k + 2)

/-- ln 2 in units of 2^-w: 2 artanh (1/3). -/
def ln2Fx (w : Nat) : Nat := (2 * oddSeries false 9 (w / 3 + 20) (2 ^ w / 3) 1).toNat

/-- π in units of 2^-w: 16 arctan (1/5) − 4 arctan (1/239). -/
def piFx (w : Nat) : Nat :=
  (16 * oddSeries true 25 (w / 4 + 20) (2 ^ w / 5) 1 - 4 * oddSeries true 57121 (w / 15 + 20) (2 ^ w / 239) 1).toNat

/-- Σ y^n / n! from term `n`, in units of 2^-w. -/
def expSeries (w y : Nat) : Nat → Nat → Nat → Nat
  | 0, _, _ => 0
  | fuel + 1, term, n => term + expSeries w y fuel (((term * y) >>> w) / n) (n + 1)

/-- e^y for 0 ≤ y < 1 in units of 2^-w. -/
def expFx (w y : Nat) : Nat := expSeries w y 320 (2 ^ w) 1

/-- e^y for a non-negative y in units of 2^-w: the fraction part and the power of two. -/
def expBig (w y : Nat) : Nat × Nat :=
  let l := ln2Fx w
  (expFx w (y % l), y / l)

/-- m · 2^e in units of 2^-w, cut to an integer. -/
def toFx (w m : Nat) (e : Int) : Nat := if -(w : Int) ≤ e then m <<< (e + w).toNat else m >>> (-(w : Int) - e).toNat

/-- 2^x: exact for integers; magnitudes beyond 2^13 are cut to it, far outside every format's range. -/
def exp2V (s : Bool) (m : Nat) (e : Int) : XV :=
  if m = 0 then .one
  else
    let big := ilog2 m e ≥ 13
    let w := fxBits
    let x : Int := if big then (8192 * 2 ^ w : Nat) else toFx w m e
    let x := if s then -x else x
    let n := x / (2 ^ w : Nat)
    let f := (x % (2 ^ w : Nat)).toNat
    if f = 0 then .fin false 1 n false
    else .fin false (expFx w ((f * ln2Fx w) >>> w)) (n - w) true

/-- The bits of log2 of y / 2^w in [1, 2), one a step, by repeated squaring. -/
def log2Bits (w : Nat) : Nat → Nat → Nat → Nat
  | 0, _, acc => acc
  | fuel + 1, y, acc =>
    let z := (y * y) >>> w
    if z < 2 ^ (w + 1) then log2Bits w fuel z (2 * acc) else log2Bits w fuel (z / 2) (2 * acc + 1)

/-- log2 of a positive value. -/
def log2V (m : Nat) (e : Int) : XV :=
  let x := ilog2 m e
  if m = 2 ^ m.log2 then .ofInt x
  else
    let p := 400
    let w := fxBits
    let fr := log2Bits w p (m <<< (w - m.log2)) 0
    let z : Int := x * (2 ^ p : Nat) + fr
    if z < 0 then .fin true (z.natAbs - 1) (-(p : Int)) true else .fin false z.natAbs (-(p : Int)) true

/-- Reciprocal square root of a positive value. -/
def rsqrtV (m : Nat) (e : Int) : XV :=
  let h := 2 * guardBits + 2 * m.log2
  let odd := e % 2 ≠ 0
  let h' : Nat := if odd then h + 1 else h
  let n := 2 ^ h'
  let t := Nat.sqrt (n / m)
  .fin false t (-((h' : Int) + e) / 2) (t * t * m != n)

/-- A value just below 1. -/
def almostOne (s : Bool) : XV := .fin s (2 ^ guardBits - 1) (-(guardBits : Int)) true

/-- tanh of a non-zero magnitude: (e^2x − 1) / (e^2x + 1). -/
def tanhV (s : Bool) (m : Nat) (e : Int) : XV :=
  if ilog2 m e ≥ 8 then almostOne s
  else
    let w := fxBits
    let p := expBig w (2 * toFx w m e)
    let a := p.1 <<< p.2
    .fin s (((a - 2 ^ w) <<< w) / (a + 2 ^ w)) (-(w : Int)) true

/-- Σ 2^n x^(2n+1) / (2n+1)!! in units of 2^-w, `x2` = 2x². -/
def erfSeries (w x2 : Nat) : Nat → Nat → Nat → Nat
  | 0, _, _ => 0
  | fuel + 1, t, k => t + erfSeries w x2 fuel (((t * x2) >>> w) / k) (k + 2)

/-- erf of a non-zero magnitude: 2/√π · e^(−x²) · the series above. -/
def erfV (s : Bool) (m : Nat) (e : Int) : XV :=
  if ilog2 m e ≥ 4 then almostOne s
  else
    let w := fxBits
    let x := toFx w m e
    let xx := (x * x) >>> w
    let sum := erfSeries w (2 * xx) 1600 x 3
    let p := expBig w xx
    let rootPi := Nat.sqrt (piFx (2 * w))
    .fin s ((2 * sum <<< (2 * w)) / (rootPi * (p.1 <<< p.2))) (-(w : Int)) true

/-- The functions of the transcendental lanes and the compound activations (R63, R166, R179). -/
inductive Fn where
  | exp2 | log2 | rcp | rsqrt | tanh | erf | sigmoid | silu | geluErf | geluTanh | identity
  deriving DecidableEq, Repr

/-- The value at an infinity (R180's table, R497). -/
def Fn.atInf (f : Fn) (neg : Bool) : XV × NumFlags :=
  match f with
  | .silu => (if neg then .negZero else .inf false, .none)
  | .geluErf => (if neg then .negZero else .inf false, .none)
  | .geluTanh => (if neg then .negZero else .inf false, .none)
  | .sigmoid => (if neg then .zero else .one, .none)
  | .tanh => (.fin neg 1 0 false, .none)
  | .erf => (.fin neg 1 0 false, .none)
  | .exp2 => (if neg then .zero else .inf false, .none)
  | .rcp => (.fin neg 0 0 false, .none)
  | .rsqrt => if neg then (.nan, .invalid) else (.zero, .none)
  | .log2 => if neg then (.nan, .invalid) else (.inf false, .none)
  | .identity => (.inf neg, .none)

/-- The exact value of a lane function (R63), to be rounded once; R497 and R180 for special operands. -/
def Fn.exact (f : Fn) (v : XV) : XV × NumFlags :=
  match v with
  | .nan => (.nan, .none)
  | .inf s => f.atInf s
  | .fin s m e st =>
    match f with
    | .exp2 => (exp2V s m e, .none)
    | .log2 => if m = 0 then (.inf true, .none) else if s then (.nan, .invalid) else (log2V m e, .none)
    | .rcp => XV.div .one (.fin s m e st)
    | .rsqrt => if m = 0 then (.inf s, .none) else if s then (.nan, .invalid) else (rsqrtV m e, .none)
    | .tanh => if m = 0 then (.fin s 0 0 false, .none) else (tanhV s m e, .none)
    | .erf => if m = 0 then (.fin s 0 0 false, .none) else (erfV s m e, .none)
    | _ => (.fin s m e st, .none)

/-- The constants of R180 in one arithmetic: log2 e, 1/√2, √(2/π), 0.044715. -/
structure ActConst where
  l2e : XV
  rs2 : XV
  s2p : XV
  cub : XV

/-- The binary32 constants of R180. -/
def const32 : ActConst :=
  ⟨decodeElem .fp32 false 0x3FB8AA3B, decodeElem .fp32 false 0x3F3504F3, decodeElem .fp32 false 0x3F4C422A,
   decodeElem .fp32 false 0x3D372713⟩

/-- The constants exact to long-form precision (R180). -/
def constLong : ActConst :=
  ⟨(XV.fin false ((2 ^ 800) / ln2Fx 400) (-400) true).toLong.1,
   (XV.fin false (Nat.sqrt (2 ^ 799)) (-400) true).toLong.1,
   (XV.fin false (Nat.sqrt ((2 ^ 1601) / piFx 800)) (-400) true).toLong.1,
   ((XV.ofInt 44715).div (.ofInt 1000000)).1.toLong.1⟩

/-- A compound activation by R180's sequences. `rd` rounds every operation but the last; the last is returned exact. -/
def Fn.sequence (rd : XV × NumFlags → XV × NumFlags) (k : ActConst) (f : Fn) (x : XV) : XV × NumFlags :=
  let mul (a b : XV × NumFlags) : XV × NumFlags := let p := a.1.mul b.1; (p.1, (a.2.or b.2).or p.2)
  let add (a b : XV × NumFlags) : XV × NumFlags := let p := a.1.add b.1; (p.1, (a.2.or b.2).or p.2)
  let fn (g : Fn) (a : XV × NumFlags) : XV × NumFlags := let p := g.exact a.1; (p.1, a.2.or p.2)
  let c (v : XV) : XV × NumFlags := (v, .none)
  let half := c (.fin false 1 (-1) false)
  let sigm := fn .rcp (rd (add (c .one) (rd (fn .exp2 (rd (mul (c x) (c k.l2e.neg)))))))
  match f with
  | .sigmoid => sigm
  | .silu => mul (c x) (rd sigm)
  | .geluErf => mul (rd (mul half (c x))) (rd (add (c .one) (rd (fn .erf (rd (mul (c x) (c k.rs2)))))))
  | .geluTanh =>
    let cube := rd (mul (c k.cub) (rd (mul (rd (mul (c x) (c x))) (c x))))
    let u := rd (add (c x) cube)
    mul (rd (mul half (c x))) (rd (add (c .one) (rd (fn .tanh (rd (mul (c k.s2p) u))))))
  | g => g.exact x

/-- Rounding an intermediate to binary32 under RNE, with the flags so far. -/
def rd32 (p : XV × NumFlags) : XV × NumFlags := let r := round32 p.1; (r.1, p.2.or r.2)

/-- A function whose last operation is still exact: binary32 sequences (R180) or long form (R64). -/
def Fn.eval (long : Bool) (f : Fn) (x : XV) : XV × NumFlags :=
  match x with
  | .nan => (.nan, .none)
  | .inf s => f.atInf s
  | x => if long then f.sequence longR constLong x else f.sequence rd32 const32 x

/-- A function in single-round mode: every operation, the last included, rounds to long form (R64). -/
def Fn.long (f : Fn) (x : XV) : XV × NumFlags := longR (f.eval true x)

end Sys2Proof
end

