-- ==== Sys2Proof/Machine/Vector.lean ====
section
/-! DEFINITION. The vector unit: classes 0x6 and 0x7 (R62, R63, R135-R138, R176-R180). Each row's command issues the
instruction; QUEUE_INSTR_START runs `vectorStart` on it. -/

namespace Sys2Proof.Machine

/-! ### Issue checks (R156, R163, R176-R178) -/

/-- The fmt codes a binary32 result may name (R176). -/
def resultFmt (c : Nat) : Bool := c ≤ 4 || c == 8

/-- A plain format that is input-only, or that no output row names (R56). -/
def notOutput (t : TD) : Bool :=
  match Fmt.ofCode t.fmt with
  | none => false
  | some f => f == .e8m0 || (!t.mx && (f == .e3m2 || f == .e2m3 || f == .e2m1 || f == .int4))

/-- Illegal field of a vector register instruction (R176, R177, R179). -/
def vxIllegal (op : VxOp) (f : VxF) (td : TD) : Bool :=
  let fc := f.fmt.toNat
  512 < f.lanes.toNat || f.rmode.toNat == 3 ||
  (match op with
   | .vld => fc != td.fmt || 13 < fc
   | .vst => fc != td.fmt || 13 < fc || notOutput td
   | .vadd | .vsub | .vmul | .vfma | .vmin | .vmax => !resultFmt fc
   | .vexp2 | .vlog2 | .vrcp | .vrsqrt | .vtanh | .verf | .vsigm | .vsilu | .vgelue | .vgelut | .vitof | .vqnt =>
     !resultFmt fc
   | .vcmpeq | .vcmplt | .vcmple | .vsel | .viadd | .visub | .vimul | .vand | .vor | .vxor | .vshl | .vshr | .vsra
   | .vmov | .vftoi => fc != 0)

/-- The first column of a VLD or VST (R177). -/
def vxCol (e : QEntry) (f : VxF) : Nat := (e.td f.td.toNat).col + (e.s f.colReg.toNat).toNat

/-- Descriptor format error of a vector register instruction (R163, R177). -/
def vxBad (op : VxOp) (f : VxF) (e : QEntry) : Bool :=
  let t := e.td f.td.toNat
  (op == .vld || op == .vst) && (e.tdBad t || (t.mx && vxCol e f % 32 != 0))

/-- Row length limit of a tensor operation (R178). -/
def vtLimit : VtOp → Nat
  | .vsort => 4096
  | .vtopk => 262144
  | _ => 4194304

/-- Illegal field of a vector tensor instruction (R178, R56); VSORT and VTOPK write aux_td too. -/
def vtIllegal (op : VtOp) (f : VtF) (dst aux : TD) : Bool :=
  f.rmode.toNat == 3 || 256 < f.rows.toNat || 1024 < f.k.toNat || vtLimit op < f.len.toNat ||
    (f.dir && op != .vsort) || notOutput dst || ((op == .vsort || op == .vtopk) && notOutput aux)

/-- FP32, INT32 or UINT32, plain: a key format (R178). -/
def keyFmt (t : TD) : Bool := !t.mx && (t.fmt == 0 || t.fmt == 10 || t.fmt == 11)

/-- Descriptor format error of a vector tensor instruction (R163, R178, R60). -/
def vtBad (op : VtOp) (f : VtF) (e : QEntry) : Bool :=
  let src := e.td f.src.toNat
  let dst := e.td f.dst.toNat
  e.tdBad src || e.tdBad dst || (dst.mx && dst.col % 32 != 0) ||
  (match op with
   | .vsort | .vtopk => !keyFmt src || e.tdBad (e.td f.aux.toNat)
   | .vrargmax | .vrargmin => dst.mx || !(dst.fmt == 10 || dst.fmt == 11)
   | _ => false)

/-! ### Lanes -/

/-- Lane j of a vector register (R127). -/
def Core.lane (k : Core) (r j : Nat) : BitVec 32 := Tab.get 0 (r * 512 + j) k.vreg

/-- Write lanes 0 to n − 1 of a vector register. -/
def Core.setLanes (k : Core) (r : Nat) (vs : List (BitVec 32)) : Core :=
  { k with vreg := vs.zipIdx.foldl (fun t p => Tab.put 0 (r * 512 + p.2) p.1 t) k.vreg }

/-- A lane as a binary32 value (R62). -/
def val32 (w : BitVec 32) : XV := decodeElem .fp32 false w.toNat

/-- A value as a binary32 lane: exact where binary32 holds it. -/
def lane32 (v : XV) : BitVec 32 := BitVec.ofNat 32 (encodeElem .fp32 .rne false v).1

/-- The last rounding of an operation: once, to fmt, held widened exactly (R176). -/
def toResult (fmt : Nat) (rm : RMode) (sat : Bool) (p : XV × NumFlags) : BitVec 32 × NumFlags :=
  let r := roundTo ((Fmt.ofCode fmt).getD .fp32) rm sat p.1
  (lane32 r.1, p.2.or r.2)

/-- The rounding fields of a vector register instruction (R176). -/
def vxRnd (e : QEntry) (f : VxF) : Rnd := ⟨f.rmode.toNat, f.sat, e.s f.seedReg.toNat, f.stream.toNat⟩

/-- The function of a class 0x7 operation (R179). -/
def VxOp.fn : VxOp → Fn
  | .vexp2 => .exp2 | .vlog2 => .log2 | .vrcp => .rcp | .vrsqrt => .rsqrt | .vtanh => .tanh | .verf => .erf
  | .vsigm => .sigmoid | .vsilu => .silu | .vgelue => .geluErf | .vgelut => .geluTanh
  | _ => .identity

/-- One lane of a register operation on operands a, b, c (R62, R177, R179). -/
def vxLane (op : VxOp) (fmt : Nat) (rm : RMode) (sat : Bool) (a b c : BitVec 32) : BitVec 32 × NumFlags :=
  let x := val32 a
  let y := val32 b
  let res := toResult fmt rm sat
  let word (w : BitVec 32) : BitVec 32 × NumFlags := (w, .none)
  let truth (t : Bool) : BitVec 32 × NumFlags := (if t then 0xFFFFFFFF else 0, .none)
  match op with
  | .vadd => res (x.add y)
  | .vsub => res (x.add y.neg)
  | .vmul => res (x.mul y)
  | .vfma => let p := x.mul y; let q := p.1.add (val32 c); res (q.1, p.2.or q.2)
  | .vmin => res (x.min y, .none)
  | .vmax => res (x.max y, .none)
  | .vcmpeq => truth (x.eqv y)
  | .vcmplt => truth (x.lt y)
  | .vcmple => truth (x.lt y || x.eqv y)
  | .vsel => word (if c ≠ 0 then a else b)
  | .viadd => word (a + b)
  | .visub => word (a - b)
  | .vimul => word (a * b)
  | .vand => word (a &&& b)
  | .vor => word (a ||| b)
  | .vxor => word (a ^^^ b)
  | .vshl => word (a <<< (b.toNat % 32))
  | .vshr => word (a >>> (b.toNat % 32))
  | .vsra => word (a.sshiftRight (b.toNat % 32))
  | .vmov => word a
  | .vftoi => let r := encodeElem .int32 rm sat x; (BitVec.ofNat 32 r.1, r.2)
  | .vitof => res (.ofInt a.toInt, .none)
  | .vqnt => res (x, .none)
  | op => res (op.fn.eval false x)

/-- The lanes of a register operation, with their flags (R176): lane j rounds at (s[row_reg], s[col_reg] + j). -/
def vxResult (k : Core) (e : QEntry) (op : VxOp) (f : VxF) : List (BitVec 32 × NumFlags) :=
  let row := (e.s f.rowReg.toNat).toNat
  let col := (e.s f.colReg.toNat).toNat
  let sb : BitVec 32 := bits (e.s f.vb.toNat) 0 32
  (List.range f.lanes.toNat).map fun j =>
    let a := k.lane f.va.toNat j
    let b := if f.bc then sb else k.lane f.vb.toNat j
    let a := if op == .vmov && f.bc then sb else a
    vxLane op f.fmt.toNat ((vxRnd e f).at 0 row (col + j)) f.sat a b (k.lane f.vc.toNat j)

/-- The flags of a list, ORed (R61). -/
def orFlags {α : Type} (l : List (α × NumFlags)) : NumFlags := l.foldl (fun a p => a.or p.2) .none

/-! ### Loads and stores (R135, R177) -/

/-- One loaded lane (R135): INT32 and UINT32 bits unchanged, plain elements widened exactly; long form rounds in the instruction's mode,
and so does an MX value, which binary32 may not hold (log 59). -/
def loadLane (s : State) (c : Nat) (e : QEntry) (f : VxF) (j : Nat) : BitVec 32 × NumFlags × List Nat :=
  let t := e.td f.td.toNat
  let r := t.row + (e.s f.rowReg.toNat).toNat
  let col := vxCol e f + j
  if t.format = .int32 ∨ t.format = .uint32 then
    let x := s.elemAt c t r col
    (BitVec.ofNat 32 x.1, .none, x.2)
  else
    let x := s.elemVal c t (e.scaleOf t) false r col
    let y := if t.mx ∨ t.format = .long then encodeElem .fp32 ((vxRnd e f).at 0 r col) f.sat x.1
      else encodeElem .fp32 .rne false x.1
    (BitVec.ofNat 32 y.1, y.2, x.2)

/-- The raw elements of one output row from column `c0` on, in blocks for an MX format (R60, R135). `off` counts the
roundings before this one (R58). -/
def encodeRow (t : TD) (rnd : Rnd) (off r c0 : Nat) (vs : List XV) : List Nat × List Nat × NumFlags :=
  let rms := (List.range vs.length).map fun j => rnd.at off r (c0 + j)
  if t.mx then
    let blocks := (chunksOf 32 (vs.length + 1) (vs.zip rms)).map fun b =>
      encodeBlock t.format (b.map (·.2)) (b.map (·.1))
    (blocks.flatMap (·.2.1), blocks.map (·.1), blocks.foldl (fun a b => a.or b.2.2) .none)
  else
    let es := (vs.zip rms).map fun p => encodeElem t.format p.2 rnd.sat p.1
    (es.map (·.1), [], orFlags es)

/-- Write raw elements along row r from column c0. -/
def State.putRow (s : State) (c : Nat) (t : TD) (r c0 : Nat) (raws : List Nat) : State :=
  raws.zipIdx.foldl (fun s p => s.putElem c t r (c0 + p.2) p.1) s

/-- Write one output row (R60, R105, R135): the elements, then for an MX format the padding of the last block where it lies
within e0, and the block scales. -/
def State.writeRow (s : State) (c : Nat) (e : QEntry) (t : TD) (rnd : Rnd) (off r c0 : Nat) (vs : List XV) :
    State × NumFlags :=
  let o := encodeRow t rnd off r c0 vs
  let s1 := s.putRow c t r c0 o.1
  if t.mx then
    let pad := (List.range ((32 - vs.length % 32) % 32)).filter fun i => c0 + vs.length + i < t.e0
    let s2 := pad.foldl (fun s i => s.putElem c t r (c0 + vs.length + i) 0) s1
    (s2.putRow c { e.scaleOf t with fmt := 13, mx := false } r (c0 / 32) o.2.1, o.2.2)
  else (s1, o.2.2)

/-- VST (R135, R177). -/
def storeLanes (s : State) (c : Nat) (e : QEntry) (f : VxF) : State × NumFlags :=
  let t := e.td f.td.toNat
  let r := t.row + (e.s f.rowReg.toNat).toNat
  let ws := (List.range f.lanes.toNat).map fun j => (s.core c).lane f.va.toNat j
  if t.format = .int32 ∨ t.format = .uint32 then (s.putRow c t r (vxCol e f) (ws.map (·.toNat)), .none)
  else s.writeRow c e t (vxRnd e f) 0 r (vxCol e f) (ws.map val32)

/-- The effect of a vector register instruction (R135, R176, R177, R179). -/
def vxStart (c : Nat) (e : QEntry) (op : VxOp) (f : VxF) (s : State) : State × NumFlags :=
  match op with
  | .vld =>
    let ls := (List.range f.lanes.toNat).map (loadLane s c e f)
    ((s.modCore c fun k => k.setLanes f.vd.toNat (ls.map (·.1))).coreViol c (ls.flatMap (·.2.2)),
     ls.foldl (fun a l => a.or l.2.1) .none)
  | .vst => if f.lanes = 0 then (s, .none) else storeLanes s c e f
  | op =>
    let ls := vxResult (s.core c) e op f
    (s.modCore c fun k => k.setLanes f.vd.toNat (ls.map (·.1)), orFlags ls)

/-! ### Row reductions (R136) -/

/-- Neighbours added in pairs, one level of a tree; a last element without a partner meets +0. -/
def pairUp (add : XV × NumFlags → XV × NumFlags → XV × NumFlags) : List (XV × NumFlags) → List (XV × NumFlags)
  | a :: b :: t => add a b :: pairUp add t
  | [a] => [add a (.zero, .none)]
  | [] => []

/-- A tree of pairwise additions down to one value (R112, R136); one value is itself. -/
def treeFold (add : XV × NumFlags → XV × NumFlags → XV × NumFlags) :
    Nat → List (XV × NumFlags) → XV × NumFlags
  | _, [] => (.zero, .none)
  | _, [a] => a
  | 0, a :: _ => a
  | fuel + 1, l => treeFold add fuel (pairUp add l)

/-- Addition rounded to binary32 under RNE. -/
def add32 (a b : XV × NumFlags) : XV × NumFlags := let p := a.1.add b.1; rd32 (p.1, (a.2.or b.2).or p.2)

/-- Product rounded to binary32 under RNE. -/
def mul32 (a b : XV × NumFlags) : XV × NumFlags := let p := a.1.mul b.1; rd32 (p.1, (a.2.or b.2).or p.2)

/-- vx_row_sum (R136): 512 lanes by column, then the tree. -/
def rowSum32 (xs : List (XV × NumFlags)) : XV × NumFlags :=
  let lane (j : Nat) := (xs.zipIdx.filter fun p => p.2 % 512 == j).foldl (fun a p => add32 a p.1) (.zero, .none)
  treeFold add32 10 ((List.range 512).map lane)

/-- Sum of squares in the same order (R136). -/
def rowSumSq32 (xs : List (XV × NumFlags)) : XV × NumFlags := rowSum32 (xs.map fun x => mul32 x x)

/-- The index of the extreme: the first NaN if any, else the lowest index among equal extremes (R136). -/
def argBest (better : XV → XV → Bool) : List (XV × Nat) → Option (XV × Nat) → Nat
  | [], none => 0xFFFFFFFF
  | [], some b => b.2
  | (v, i) :: t, b =>
    if v.isNan then i
    else match b with
      | none => argBest better t (some (v, i))
      | some w => argBest better t (some (if better v w.1 then (v, i) else w))

/-- a is a greater extreme than b, +0 above −0 (R136). -/
def greater (a b : XV) : Bool := b.lt a || (a.isZero && b.isZero && b.sign && !a.sign)

/-- The values of row i of a source, with violations. -/
def vtRow (s : State) (c : Nat) (e : QEntry) (f : VtF) (i : Nat) : List (XV × List Nat) :=
  let t := e.td f.src.toNat
  (List.range f.len.toNat).map fun j => s.elemVal c t (e.scaleOf t) false (t.row + i) (t.col + j)

/-! ### Sort and top-k (R137, R138) -/

/-- The rank class of a key in the total order of R137. -/
def keyClass (v : XV) : Nat :=
  match v with
  | .nan => 3
  | .inf true => 0
  | .inf false => 2
  | .fin _ _ _ _ => 1

/-- The total order of R137: a before b. -/
def keyLt (a b : XV) : Bool :=
  if keyClass a ≠ keyClass b then keyClass a < keyClass b
  else keyClass a == 1 && (a.lt b || (a.isZero && b.isZero && a.sign && !b.sign))

/-- Insert after every element that is not greater in the order: a stable insertion. -/
def insertBy {α : Type} (before : α → α → Bool) (x : α) : List α → List α
  | [] => [x]
  | y :: t => if before x y then x :: y :: t else y :: insertBy before x t

/-- A stable sort. -/
def sortBy {α : Type} (before : α → α → Bool) (l : List α) : List α :=
  l.foldl (fun acc x => insertBy before x acc) []

/-- Raw bits of a 32-bit payload in the format of a descriptor; other widths take the integer's value (log 14). -/
def payloadRaw (t : TD) (n : Nat) : Nat :=
  if t.format.width = 32 then n else (encodeElem t.format .rne false (.ofInt n)).1

/-- The rounding fields of a vector tensor instruction (R178). -/
def vtRnd (e : QEntry) (f : VtF) : Rnd := ⟨f.rmode.toNat, f.sat, e.s f.seedReg.toNat, f.stream.toNat⟩

/-- The value a reduction leaves for an empty row (R136). -/
def vtEmpty (op : VtOp) (f : Fmt) : XV :=
  match op, f with
  | .vrmax, .int32 => .ofInt (-(2 ^ 31))
  | .vrmin, .int32 => .ofInt (2 ^ 31 - 1)
  | .vrmax, .uint32 => .zero
  | .vrmin, .uint32 => .ofInt (2 ^ 32 - 1)
  | .vrmax, _ => .inf true
  | .vrmin, _ => .inf false
  | _, _ => .zero

/-- One row of a tensor operation. -/
def vtRowStart (c : Nat) (e : QEntry) (op : VtOp) (f : VtF) (i : Nat) (p : State × NumFlags) : State × NumFlags :=
  let s := p.1
  let src := e.td f.src.toNat
  let dst := e.td f.dst.toNat
  let aux := e.td f.aux.toNat
  let row := vtRow s c e f i
  let s := s.coreViol c (row.flatMap (·.2))
  let vals := row.map (·.1)
  let put (q : XV × NumFlags) : State × NumFlags :=
    let w := s.writeRow c e dst (vtRnd e f) 0 (dst.row + i) dst.col [q.1]
    (w.1, (p.2.or q.2).or w.2)
  let keep (ps : List (XV × Nat)) (raw : Nat → Nat) : State × NumFlags :=
    let w := s.writeRow c e dst (vtRnd e f) 0 (dst.row + i) dst.col (ps.map (·.1))
    (w.1.putRow c aux (aux.row + i) aux.col (ps.map fun q => raw q.2), p.2.or w.2)
  match op with
  | .vrsum => put (rowSum32 (vals.map round32))
  | .vrssq => put (rowSumSq32 (vals.map round32))
  | .vrmax => put (match vals with | [] => vtEmpty op src.format | v :: t => t.foldl XV.max v, .none)
  | .vrmin => put (match vals with | [] => vtEmpty op src.format | v :: t => t.foldl XV.min v, .none)
  | .vrargmax => (s.putElem c dst (dst.row + i) dst.col (argBest greater vals.zipIdx none), p.2)
  | .vrargmin => (s.putElem c dst (dst.row + i) dst.col (argBest (fun a b => greater b a) vals.zipIdx none), p.2)
  | .vsort =>
    if f.len = 0 then p
    else
      let before (a b : XV × Nat) : Bool := if f.dir then keyLt b.1 a.1 else keyLt a.1 b.1
      let pays := if f.pin then
          (List.range f.len.toNat).map fun j => s.elemAt c aux (aux.row + i) (aux.col + j)
        else []
      let s' := s.coreViol c (pays.flatMap (·.2))
      let ps := sortBy before vals.zipIdx
      let w := s'.writeRow c e dst (vtRnd e f) 0 (dst.row + i) dst.col (ps.map (·.1))
      let raw (n : Nat) : Nat := if f.pin then (nth (0, []) pays n).1 else payloadRaw aux n
      (w.1.putRow c aux (aux.row + i) aux.col (ps.map fun q => raw q.2), p.2.or w.2)
  | .vtopk =>
    if f.k = 0 then p
    else
      let ps := (sortBy (fun a b => keyLt b.1 a.1) vals.zipIdx).take f.k.toNat
      keep (ps ++ List.replicate (f.k.toNat - ps.length) (.inf true, 0xFFFFFFFF)) (payloadRaw aux)

/-- The effect of a vector tensor instruction (R136-R138, R178). -/
def vtStart (c : Nat) (e : QEntry) (op : VtOp) (f : VtF) (s : State) : State × NumFlags :=
  (List.range f.rows.toNat).foldl (fun p i => vtRowStart c e op f i p) (s, .none)

/-! ### Issue (R176, R178) -/

/-- Issue a vector register instruction. -/
def issueVx (op : VxOp) (c : Nat) (f : VxF) (s : State) : Host.Outcome State Fault Refusal :=
  ret (issueQ c (.vx op f) (vxIllegal op f (TD.ofBits (Tab.get 0 f.td.toNat (s.core c).td))) (vxBad op f) s)

/-- Issue a vector tensor instruction. -/
def issueVt (op : VtOp) (c : Nat) (f : VtF) (s : State) : Host.Outcome State Fault Refusal :=
  ret (issueQ c (.vt op f) (vtIllegal op f (TD.ofBits (Tab.get 0 f.dst.toNat (s.core c).td)) (TD.ofBits (Tab.get 0 f.aux.toNat (s.core c).td))) (vtBad op f) s)

/-- VLD (R177). -/
def execVld (c : Nat) (f : VxF) (s : State) : Host.Outcome State Fault Refusal := issueVx .vld c f s
/-- VST (R177). -/
def execVst (c : Nat) (f : VxF) (s : State) : Host.Outcome State Fault Refusal := issueVx .vst c f s
/-- VADD (R177). -/
def execVadd (c : Nat) (f : VxF) (s : State) : Host.Outcome State Fault Refusal := issueVx .vadd c f s
/-- VSUB (R177). -/
def execVsub (c : Nat) (f : VxF) (s : State) : Host.Outcome State Fault Refusal := issueVx .vsub c f s
/-- VMUL (R177). -/
def execVmul (c : Nat) (f : VxF) (s : State) : Host.Outcome State Fault Refusal := issueVx .vmul c f s
/-- VFMA (R177). -/
def execVfma (c : Nat) (f : VxF) (s : State) : Host.Outcome State Fault Refusal := issueVx .vfma c f s
/-- VMIN (R177). -/
def execVmin (c : Nat) (f : VxF) (s : State) : Host.Outcome State Fault Refusal := issueVx .vmin c f s
/-- VMAX (R177). -/
def execVmax (c : Nat) (f : VxF) (s : State) : Host.Outcome State Fault Refusal := issueVx .vmax c f s
/-- VCMPEQ (R177). -/
def execVcmpeq (c : Nat) (f : VxF) (s : State) : Host.Outcome State Fault Refusal := issueVx .vcmpeq c f s
/-- VCMPLT (R177). -/
def execVcmplt (c : Nat) (f : VxF) (s : State) : Host.Outcome State Fault Refusal := issueVx .vcmplt c f s
/-- VCMPLE (R177). -/
def execVcmple (c : Nat) (f : VxF) (s : State) : Host.Outcome State Fault Refusal := issueVx .vcmple c f s
/-- VSEL (R177). -/
def execVsel (c : Nat) (f : VxF) (s : State) : Host.Outcome State Fault Refusal := issueVx .vsel c f s
/-- VIADD (R177). -/
def execViadd (c : Nat) (f : VxF) (s : State) : Host.Outcome State Fault Refusal := issueVx .viadd c f s
/-- VISUB (R177). -/
def execVisub (c : Nat) (f : VxF) (s : State) : Host.Outcome State Fault Refusal := issueVx .visub c f s
/-- VIMUL (R177). -/
def execVimul (c : Nat) (f : VxF) (s : State) : Host.Outcome State Fault Refusal := issueVx .vimul c f s
/-- VAND (R177). -/
def execVand (c : Nat) (f : VxF) (s : State) : Host.Outcome State Fault Refusal := issueVx .vand c f s
/-- VOR (R177). -/
def execVor (c : Nat) (f : VxF) (s : State) : Host.Outcome State Fault Refusal := issueVx .vor c f s
/-- VXOR (R177). -/
def execVxor (c : Nat) (f : VxF) (s : State) : Host.Outcome State Fault Refusal := issueVx .vxor c f s
/-- VSHL (R177). -/
def execVshl (c : Nat) (f : VxF) (s : State) : Host.Outcome State Fault Refusal := issueVx .vshl c f s
/-- VSHR (R177). -/
def execVshr (c : Nat) (f : VxF) (s : State) : Host.Outcome State Fault Refusal := issueVx .vshr c f s
/-- VSRA (R177). -/
def execVsra (c : Nat) (f : VxF) (s : State) : Host.Outcome State Fault Refusal := issueVx .vsra c f s
/-- VMOV (R177). -/
def execVmov (c : Nat) (f : VxF) (s : State) : Host.Outcome State Fault Refusal := issueVx .vmov c f s
/-- VEXP2 (R179). -/
def execVexp2 (c : Nat) (f : VxF) (s : State) : Host.Outcome State Fault Refusal := issueVx .vexp2 c f s
/-- VLOG2 (R179). -/
def execVlog2 (c : Nat) (f : VxF) (s : State) : Host.Outcome State Fault Refusal := issueVx .vlog2 c f s
/-- VRCP (R179). -/
def execVrcp (c : Nat) (f : VxF) (s : State) : Host.Outcome State Fault Refusal := issueVx .vrcp c f s
/-- VRSQRT (R179). -/
def execVrsqrt (c : Nat) (f : VxF) (s : State) : Host.Outcome State Fault Refusal := issueVx .vrsqrt c f s
/-- VTANH (R179). -/
def execVtanh (c : Nat) (f : VxF) (s : State) : Host.Outcome State Fault Refusal := issueVx .vtanh c f s
/-- VERF (R179). -/
def execVerf (c : Nat) (f : VxF) (s : State) : Host.Outcome State Fault Refusal := issueVx .verf c f s
/-- VSIGM (R179). -/
def execVsigm (c : Nat) (f : VxF) (s : State) : Host.Outcome State Fault Refusal := issueVx .vsigm c f s
/-- VSILU (R179). -/
def execVsilu (c : Nat) (f : VxF) (s : State) : Host.Outcome State Fault Refusal := issueVx .vsilu c f s
/-- VGELUE (R179). -/
def execVgelue (c : Nat) (f : VxF) (s : State) : Host.Outcome State Fault Refusal := issueVx .vgelue c f s
/-- VGELUT (R179). -/
def execVgelut (c : Nat) (f : VxF) (s : State) : Host.Outcome State Fault Refusal := issueVx .vgelut c f s
/-- VFTOI (R179). -/
def execVftoi (c : Nat) (f : VxF) (s : State) : Host.Outcome State Fault Refusal := issueVx .vftoi c f s
/-- VITOF (R179). -/
def execVitof (c : Nat) (f : VxF) (s : State) : Host.Outcome State Fault Refusal := issueVx .vitof c f s
/-- VQNT (R179). -/
def execVqnt (c : Nat) (f : VxF) (s : State) : Host.Outcome State Fault Refusal := issueVx .vqnt c f s
/-- VRSUM (R178). -/
def execVrsum (c : Nat) (f : VtF) (s : State) : Host.Outcome State Fault Refusal := issueVt .vrsum c f s
/-- VRSSQ (R178). -/
def execVrssq (c : Nat) (f : VtF) (s : State) : Host.Outcome State Fault Refusal := issueVt .vrssq c f s
/-- VRMAX (R178). -/
def execVrmax (c : Nat) (f : VtF) (s : State) : Host.Outcome State Fault Refusal := issueVt .vrmax c f s
/-- VRMIN (R178). -/
def execVrmin (c : Nat) (f : VtF) (s : State) : Host.Outcome State Fault Refusal := issueVt .vrmin c f s
/-- VRARGMAX (R178). -/
def execVrargmax (c : Nat) (f : VtF) (s : State) : Host.Outcome State Fault Refusal := issueVt .vrargmax c f s
/-- VRARGMIN (R178). -/
def execVrargmin (c : Nat) (f : VtF) (s : State) : Host.Outcome State Fault Refusal := issueVt .vrargmin c f s
/-- VSORT (R178). -/
def execVsort (c : Nat) (f : VtF) (s : State) : Host.Outcome State Fault Refusal := issueVt .vsort c f s
/-- VTOPK (R178). -/
def execVtopk (c : Nat) (f : VtF) (s : State) : Host.Outcome State Fault Refusal := issueVt .vtopk c f s

end Sys2Proof.Machine
end

