-- ==== Sys2Proof/Machine/Chain.lean ====
section
/-! DEFINITION. Chain descriptors (R164-R167), matrix forms (R71, R78) and the checks of a matrix instruction at issue
(R50, R90, R96-R102, R175). -/

namespace Sys2Proof.Machine

/-! ### Chain descriptor fields (R164, R166) -/

/-- A chain descriptor's header, field by field (R164). -/
structure CD where
  numerics   : Nat
  rmode      : Nat
  sat        : Bool
  seedReg    : Nat
  stream     : Nat
  outTd      : Nat
  outFmt     : Nat
  outMx      : Bool
  gather     : Bool
  gatherSlot : Nat
  aTr        : Bool
  aUc        : Bool
  aUcFmt     : Nat
  wTr        : Bool
  wUc        : Bool
  wUcFmt     : Nat
  prs        : Nat
  prsSlot    : Nat
  rescale    : Bool
  nstages    : Nat
  ledgerBase : Nat
  prsEps     : Nat
  bitsAll    : BitVec 1024
  deriving DecidableEq, Repr

/-- The header fields of 1,024 descriptor bits. -/
def CD.ofBits (w : BitVec 1024) : CD :=
  { numerics := fld w 126 2, rmode := fld w 124 2, sat := bit w 123, seedReg := fld w 118 5, stream := fld w 114 4,
    outTd := fld w 108 6, outFmt := fld w 103 5, outMx := bit w 102, gather := bit w 101, gatherSlot := fld w 99 2,
    aTr := bit w 98, aUc := bit w 97, aUcFmt := fld w 92 5, wTr := bit w 91, wUc := bit w 90, wUcFmt := fld w 85 5,
    prs := fld w 83 2, prsSlot := fld w 81 2, rescale := bit w 80, nstages := fld w 76 4, ledgerBase := fld w 63 13,
    prsEps := fld w 3 32, bitsAll := w }

/-- Operand slot j: valid bit and tensor descriptor (R164). -/
def CD.slot (d : CD) (j : Nat) : Bool × Nat := (bit d.bitsAll (62 - 7 * j), fld d.bitsAll (56 - 7 * j) 6)

/-- Stage entry i (R164). -/
def CD.stage (d : CD) (i : Nat) : BitVec 112 := bits d.bitsAll (128 + 112 * i) 112

/-- Stage types (R166). -/
def stageType (e : BitVec 112) : Nat := fld e 108 4

/-- The stages of a chain. -/
def CD.stages (d : CD) : List (BitVec 112) := (List.range d.nstages).map d.stage

/-- The chain descriptor of a matrix instruction. -/
def QEntry.chain (e : QEntry) (f : MxF) : CD := CD.ofBits (e.cd f.cd.toNat)

/-- The tensor descriptor of a slot. -/
def QEntry.slotTd (e : QEntry) (d : CD) (j : Nat) : TD := e.td (d.slot j).2

/-- Step-exact numerics in effect: 0b00 takes the package default (R164, R33). -/
def QEntry.exact (e : QEntry) (d : CD) : Bool := d.numerics == 2 || (d.numerics == 0 && e.stepExact)

/-- The rounding fields of a chain (R164). -/
def chainRnd (e : QEntry) (d : CD) : Rnd := ⟨d.rmode, d.sat, e.s d.seedReg, d.stream⟩

/-! ### Forms (R71, R78) -/

/-- The arrays of a form. -/
def MxForm.arrays : MxForm → List Nat
  | .quad => [0, 1, 2, 3]
  | .pair b | .t64Pair b | .t16Pair b => if b then [2, 3] else [0, 1]
  | .single a | .t64Single a | .t16Single a => [a.toNat]

/-- Rows of a Tourbillon form; none for a normal form. -/
def MxForm.tour : MxForm → Option Nat
  | .t64Single _ | .t64Pair _ => some 64
  | .t16Single _ | .t16Pair _ => some 16
  | _ => none

def MxForm.isTour (x : MxForm) : Bool := x.tour.isSome

/-- Limits of M and N (R175). -/
def MxForm.maxM : MxForm → Nat
  | .t64Single _ | .t64Pair _ => 64
  | .t16Single _ | .t16Pair _ => 16
  | _ => 256

def MxForm.maxN : MxForm → Nat
  | .quad => 1024 | .pair _ => 512 | .single _ => 256
  | .t64Single _ => 1024 | .t64Pair _ => 2048 | .t16Single _ => 4096 | .t16Pair _ => 8192

/-- The accumulator entry of output element (m, n): array, row and column (R71, R78). -/
def MxForm.place (x : MxForm) (nn r0 m n : Nat) : Nat × Nat × Nat :=
  match x.tour with
  | none => (nth 0 x.arrays (n / 256), r0 + m, n % 256)
  | some t =>
    let first := if x.arrays.length = 2 then ceilDiv nn 2 else nn
    if n < first then (nth 0 x.arrays 0, t * (n / 256) + m, n % 256)
    else (nth 0 x.arrays 1, t * ((n - first) / 256) + m, (n - first) % 256)

/-- The key of an accumulator entry. -/
def accKey (p : Nat × Nat × Nat) : Nat := p.1 * 65536 + p.2.1 * 256 + p.2.2

/-! ### Operand formats (R50, R99) -/

/-- The element format of an operand after up-conversion (R96). -/
def effFmt (t : TD) (uc : Bool) (ucFmt : Nat) : Option Fmt := if uc then Fmt.ofCode ucFmt else Fmt.ofCode t.fmt

/-- The operand classes of Table 2: pairs lie within one (R50). -/
def pairOk (a w : Fmt) : Bool :=
  let small (f : Fmt) : Bool := f == .e2m1 || f == .e3m2 || f == .e2m3 || f == .e4m3 || f == .e5m2
  (small a && small w) || (a == .int4 && w == .int4) || (a == .int8 && w == .int8) || (a == .fp16 && w == .fp16)
    || (a == .bf16 && w == .bf16)

/-- The allowed up-conversions (R99, Table 3). -/
def upOk (a w : Fmt) : Bool :=
  match a with
  | .e2m1 => w == .e4m3 || w == .e5m2 || w == .bf16 || w == .fp16
  | .e3m2 | .e2m3 => w == .e4m3 || w == .bf16 || w == .fp16
  | .e4m3 | .e5m2 => w == .bf16 || w == .fp16
  | .int4 => w == .int8 || w == .e4m3 || w == .bf16
  | .int8 => w == .bf16 || w == .fp16
  | _ => false

/-- Whether the pair is 4-bit on both sides (R69). -/
def fourBit (a w : Option Fmt) : Bool :=
  match a, w with
  | some x, some y => x.width == 4 && y.width == 4
  | _, _ => false

/-! ### Checks -/

/-- finish mode (R174). -/
def mxFinish (f : MxF) : Bool := 2 ≤ f.acc.toNat

/-- acc modes that take init from the entry: accumulate, and finish with accumulate set (R79). -/
def mxAccumulates (f : MxF) : Bool := f.acc == 1 || f.acc == 3

/-- A chain output that no format may name (R56). -/
def inputOnly (d : CD) : Bool :=
  !d.outMx && (match Fmt.ofCode d.outFmt with
    | some .e3m2 | some .e2m3 | some .e2m1 | some .int4 => true
    | _ => false)

/-- Illegal-instruction of a matrix instruction (R50, R56, R90, R106, R175). A fence is checked for its field limits only. -/
def mxIllegal (form : MxForm) (f : MxF) (e : QEntry) : Bool :=
  let d := e.chain f
  let a := e.td f.aTd.toNat
  let w := e.td f.wTd.toNat
  let fa := effFmt a d.aUc d.aUcFmt
  let fw := effFmt w d.wUc d.wUcFmt
  let kMax := if form.isTour then 16777216 else if fourBit fa fw then 512 else 256
  form.maxM < f.m.toNat || form.maxN < f.n.toNat || kMax < f.k.toNat ||
    (!form.isTour && 256 < f.rbase.toNat + f.m.toNat) || (form.isTour && f.rbase != 0) ||
    (f.rc && (form.isTour || !mxFinish f)) || (f.keep && form.isTour) ||
    (f.m != 0 && f.n != 0 &&
      ((match fa, fw with | some x, some y => !pairOk x y | _, _ => false) || (mxFinish f && inputOnly d)))

/-- Rows the ledger has (R108). -/
def State.ledgerRows (s : State) (c : Nat) : Nat :=
  if s.rbit (rCore c 0x200) 31 then 128 * Nat.min (s.rf (rCore c 0x200) 24 7) 64 else 0

/-- Prologue format errors (R49, R83, R96-R99, R163). -/
def prologueBad (form : MxForm) (f : MxF) (e : QEntry) : Bool :=
  let d := e.chain f
  let a := e.td f.aTd.toNat
  let w := e.td f.wTd.toNat
  let upBad (t : TD) (uc : Bool) (u : Nat) : Bool := uc && (t.mx || (match Fmt.ofCode t.fmt, Fmt.ofCode u with
    | some x, some y => !upOk x y
    | _, _ => true))
  let trBad (t : TD) (tr : Bool) : Bool := tr && (t.mx || !(t.format.width == 8 || t.format.width == 16))
  let g := e.slotTd d d.gatherSlot
  let v := e.slotTd d d.prsSlot
  e.tdBad a || e.tdBad w || upBad a d.aUc d.aUcFmt || upBad w d.wUc d.wUcFmt || trBad a d.aTr || trBad w d.wTr ||
    (d.wTr && form.isTour) ||
    (d.aTr && 131072 < f.m.toNat * f.k.toNat * a.format.width / 8) ||
    (a.mx && (if d.aTr then a.row else a.col) % 32 != 0) || (w.mx && (if d.wTr then w.col else w.row) % 32 != 0) ||
    (form.isTour && (w.addr w.row w.col 0 0 % 256 != 0 || (1 < f.k.toNat && w.s1 % 256 != 0))) ||
    (d.gather && (d.aTr || !(d.slot d.gatherSlot).1 || g.mx || !(g.fmt == 10 || g.fmt == 11) ||
      g.addr g.row g.col 0 0 % 64 != 0 || a.s1 % 256 != 0 || a.addr 0 a.col 0 0 % 256 != 0)) ||
    (d.prs == 3 && (!(d.slot d.prsSlot).1 || v.mx || v.fmt != 0))

/-- Formats of add and multiply operands (R101, R167). -/
def stageOperandFmt (t : TD) : Bool :=
  !t.mx && (t.fmt == 0 || t.fmt == 1 || t.fmt == 2 || t.fmt == 3 || t.fmt == 4 || t.fmt == 8 || t.fmt == 12)

/-- One stage entry is a format error (R101, R166, R167, R191). -/
def stageBad (f : MxF) (e : QEntry) (d : CD) (x : BitVec 112) : Bool :=
  let slotBad (j : Nat) : Bool := !(d.slot j).1
  match stageType x with
  | 1 | 2 =>
    fld x 106 2 != 0 && (slotBad (fld x 104 2) || !stageOperandFmt (e.slotTd d (fld x 104 2)) ||
      e.tdBad (e.slotTd d (fld x 104 2)))
  | 3 =>
    let lo := decodeElem .fp32 false (fld x 32 32)
    let hi := decodeElem .fp32 false (fld x 0 32)
    lo.isNan || hi.isNan || hi.lt lo
  | 4 => fld x 105 3 == 7
  | 5 => 7 < fld x 104 4 || f.n.toNat % 2 == 1
  | 6 =>
    2 < fld x 105 3 || (fld x 105 3 == 2 && (slotBad (fld x 72 2) || (e.slotTd d (fld x 72 2)).mx ||
      (e.slotTd d (fld x 72 2)).fmt != 8))
  | 7 => false
  | 8 =>
    let kind := fld x 106 2
    kind == 3 || !f.rc || (bit x 105 && (kind == 0 || slotBad (fld x 103 2) || e.tdBad (e.slotTd d (fld x 103 2)))) ||
      (bit x 102 && (kind != 2 || slotBad (fld x 100 2) || e.tdBad (e.slotTd d (fld x 100 2))))
  | 9 => false
  | 14 =>
    let o := e.td d.outTd
    o.fmt != d.outFmt || o.mx != d.outMx || e.tdBad o || (o.mx && o.col % 32 != 0)
  | 15 => false
  | _ => true

/-- How many stages have a type. -/
def CD.countType (d : CD) (t : Nat) : Nat := (d.stages.filter fun x => stageType x == t).length

/-- A mask lies before every tap and normalise stage (R101). -/
def maskFirst : List Nat → Bool
  | [] => true
  | t :: ts => (!(t == 7 || t == 8) || !ts.any (· == 6)) && maskFirst ts

/-- The terminal stage is the last, and there is no other (R102). -/
def terminalLast : List Nat → Bool
  | [] => false
  | [t] => t == 14 || t == 15
  | t :: ts => !(t == 14 || t == 15) && terminalLast ts

/-- Whether a chain uses the ledger (R102). -/
def usesLedger (f : MxF) (d : CD) : Bool :=
  d.prs == 1 || d.prs == 2 || d.rescale ||
    (mxFinish f && d.stages.any fun x => stageType x == 7 || stageType x == 9)

/-- Output formats of a chain (R56): the others are format errors. -/
def chainOutOk (d : CD) : Bool :=
  match Fmt.ofCode d.outFmt with
  | none => false
  | some f => if d.outMx then f.hasMx else !(f == .int32 || f == .uint32 || f == .e8m0)

/-- Chain format errors (R91, R102, R167); `wire` is the wire format of a READY group (R118). -/
def chainBad (rows : Nat) (wire : Nat → Option Nat) (f : MxF) (e : QEntry) : Bool :=
  let d := e.chain f
  d.numerics == 3 || d.rmode == 3 || (usesLedger f d && rows < d.ledgerBase + f.m.toNat) ||
    (mxFinish f &&
      (d.nstages == 0 || 8 < d.nstages || !chainOutOk d || d.stages.any (stageBad f e d) ||
        !terminalLast (d.stages.map stageType) || 1 < d.countType 5 || 1 < d.countType 6 || 1 < d.countType 7 ||
        1 < d.countType 8 || 1 < d.countType 9 || !maskFirst (d.stages.map stageType) ||
        d.stages.any fun x => stageType x == 15 && (match wire (fld x 104 4) with
          | some w => d.outMx || d.outFmt != w
          | none => false)))

/-- Descriptor format error of a matrix instruction (R145, R163); a fence is not checked (R175). -/
def mxBad (rows : Nat) (wire : Nat → Option Nat) (form : MxForm) (f : MxF) (e : QEntry) : Bool :=
  f.m != 0 && f.n != 0 && (prologueBad form f e || chainBad rows wire f e)

end Sys2Proof.Machine
end

