-- ==== Sys2Proof/Machine/Matrix.lean ====
section
/-! DEFINITION. The matrix arrays: prologue (R96-R100), ledger reads (R108-R111, R116), weight staging (R76, R77), the
accumulation order (R53-R55), start and row order (R72-R74, R80, R82). -/

namespace Sys2Proof.Machine

/-! ### The row ledger (R108-R111) -/

/-- The device-local address of a ledger row (R108). -/
def State.ledgerAddr (s : State) (c row : Nat) : Nat := storeAddr c (s.rf (rCore c 0x200) 0 13 * 4096 + 32 * row)

/-- A ledger row lies in the populated core store. -/
def State.ledgerIn (s : State) (c row : Nat) : Bool := s.rf (rCore c 0x200) 0 13 * 4096 + 32 * row + 32 ≤ 0x1800000

/-- A ledger row (R109): mode (3 reads as empty), count, third, sum, max. -/
structure Ledger where
  mode  : Nat
  count : Nat
  third : XV
  sum   : XV
  max   : XV

/-- Read a ledger row, with the violating address if it lies beyond the core store. -/
def State.ledger (s : State) (c row : Nat) : Ledger × List Nat :=
  if s.ledgerIn c row then
    let w : BitVec 256 := BitVec.ofNat 256 (s.readN (s.ledgerAddr c row) 32)
    let mode := if fld w 224 2 = 3 then 0 else fld w 224 2
    (⟨mode, fld w 192 32, unpackLong (bits w 128 48), unpackLong (bits w 64 48), unpackLong (bits w 0 48)⟩, [])
  else (⟨0, 0, .zero, .zero, .zero⟩, [s.ledgerAddr c row])

/-- Write a ledger row; dropped and counted beyond the core store (R108). -/
def State.putLedger (s : State) (c row : Nat) (l : Ledger) : State :=
  if s.ledgerIn c row then
    let n := (l.mode % 4) <<< 224 + l.count <<< 192 + l.third.packLong.toNat <<< 128 + l.sum.packLong.toNat <<< 64
      + l.max.packLong.toNat
    s.poke (s.ledgerAddr c row) (toBytes 32 n)
  else s.coreViol c [s.ledgerAddr c row]

/-! ### Per-row scale (R100, R111) -/

/-- Element j of a vector read when the instruction started (R103). -/
def bufVal (bufs : Tab (List Nat)) (key : Nat) (t : TD) (j : Nat) : XV :=
  decodeElem t.format false (nth 0 (Tab.get [] key bufs) j)

/-- The factor f(m) of the per-row scale, in long form or in binary32 (R111), with violations. -/
def State.rowFactor (s : State) (c : Nat) (e : QEntry) (d : CD) (bufs : Tab (List Nat)) (long : Bool) (m : Nat) :
    (XV × NumFlags) × List Nat :=
  let rd (p : XV × NumFlags) : XV × NumFlags := if long then longR p else rd32 p
  match d.prs with
  | 0 => ((.one, .none), [])
  | 3 => ((bufVal bufs 100 (e.slotTd d d.prsSlot) m, .none), [])
  | k =>
    let l := s.ledger c (d.ledgerBase + m)
    if l.1.mode = 0 then ((.one, .none), l.2)
    else if k = 1 then
      (if l.1.sum.isZero then (.one, .none)
       else
         let sm := if long then (l.1.sum, NumFlags.none) else round32 l.1.sum
         let q := XV.one.div sm.1
         rd (q.1, sm.2.or q.2), l.2)
    else
      (if l.1.count = 0 then (.one, .none)
       else
         let third := if long then (l.1.third, NumFlags.none) else round32 l.1.third
         let cnt := if long then (XV.ofInt l.1.count, NumFlags.none) else round32 (.ofInt l.1.count)
         let q := third.1.div cnt.1
         let q := rd (q.1, (third.2.or cnt.2).or q.2)
         let a := q.1.add (decodeElem .fp32 false d.prsEps)
         let a := rd (a.1, q.2.or a.2)
         let r := Fn.rsqrt.exact a.1
         rd (r.1, a.2.or r.2), l.2)

/-! ### Operand values (R48, R96-R100, R162) -/

/-- The source row of activation row m under the gather (R97): none is a zero row. -/
def State.gatherRow (s : State) (c : Nat) (e : QEntry) (d : CD) (a : TD) (m : Nat) : Option Nat × List Nat :=
  if d.gather then
    let g := e.slotTd d d.gatherSlot
    let x := s.elemAt c g g.row (g.col + m)
    if x.1 = 0xFFFFFFFF then (none, x.2)
    else if a.e1 ≤ a.row + x.1 then (none, x.2 ++ [a.addr (a.row + x.1) a.col 0 0])
    else (some (a.row + x.1), x.2)
  else (some (a.row + m), [])

/-- A scaled activation element of a step-exact per-row scale, at its unchanged block scale (R100). -/
def scaledElem (rnd : Rnd) (f : Fmt) (mx : Bool) (fm : XV) (r c : Nat) (x : XV) : XV × NumFlags :=
  let p := x.mul fm
  let rm := rnd.at 15 r c
  let q := if mx ∧ f = .int8 then encodeInt 8 true 6 rm p.1 else encodeElem f rm rnd.sat p.1
  (decodeElem f mx q.1, p.2.or q.2)

/-- Row m of the activation operand, K elements, with flags and violations (R96-R100). -/
def State.actRow (s : State) (c : Nat) (e : QEntry) (f : MxF) (bufs : Tab (List Nat)) (m : Nat) :
    List XV × NumFlags × List Nat :=
  let d := e.chain f
  let a := e.td f.aTd.toNat
  let sc := e.scaleOf a
  let src := s.gatherRow c e d a m
  let step := d.prs ≠ 0 ∧ e.exact d
  let fac := if step then s.rowFactor c e d bufs false m else ((.one, .none), [])
  let fmt := (effFmt a d.aUc d.aUcFmt).getD .fp32
  let one (k : Nat) : (XV × NumFlags) × List Nat :=
    let at_ : Option (Nat × Nat) := if d.aTr then some (a.row + k, a.col + m) else src.1.map fun r => (r, a.col + k)
    match at_ with
    | none => (if step then scaledElem (chainRnd e d) fmt a.mx fac.1.1 0 0 .zero else (.zero, .none), [])
    | some (r, col) =>
      let x := s.elemAt c a r col
      let v := decodeElem a.format a.mx x.1
      let v := if step then scaledElem (chainRnd e d) fmt a.mx fac.1.1 r col v else (v, .none)
      if a.mx then
        let q := s.elemAt c { sc with fmt := 13 } r (col / 32)
        (if q.1 = 255 then (.nan, v.2) else (v.1.scale (q.1 - 127), v.2), x.2 ++ q.2)
      else (v, x.2)
  let es := (List.range f.k.toNat).map one
  (es.map (·.1.1), es.foldl (fun x y => x.or y.1.2) fac.1.2, src.2 ++ fac.2 ++ es.flatMap (·.2))

/-- Weight element (k, n) with violations (R98, R162). -/
def State.weight (s : State) (c : Nat) (e : QEntry) (f : MxF) (k n : Nat) : XV × List Nat :=
  let w := e.td f.wTd.toNat
  if (e.chain f).wTr then s.elemVal c w (e.scaleOf w) false (w.row + n) (w.col + k)
  else s.elemVal c w (e.scaleOf w) true (w.row + k) (w.col + n)

/-! ### Staging (R76, R77) -/

/-- The MX fields of a queue entry, where it is an MX instruction. -/
def QEntry.mx? (e : QEntry) : Option (MxForm × MxF) :=
  match e.ins with
  | .mx form f => some (form, f)
  | _ => none

/-- An instruction that is a no-op: M = 0 or N = 0 (R74). -/
def mxFence (f : MxF) : Bool := f.m == 0 || f.n == 0

/-- An instruction that stages weights: normal form, K non-zero, no weight-keep, not a fence (R74, R76, R77). -/
def mxStages (form : MxForm) (f : MxF) : Bool := !form.isTour && f.k != 0 && !f.keep && !mxFence f

/-- Load the shadow registers of the arrays of a form (R76): zero beyond K and N. -/
def State.stage (s : State) (c : Nat) (e : QEntry) (form : MxForm) (f : MxF) : State :=
  let cells := (List.range f.k.toNat).flatMap fun k => (List.range f.n.toNat).map fun n =>
    (nth 0 form.arrays (n / 256) * 131072 + k * 256 + n % 256, s.weight c e f k n)
  let t := s.modCore c fun kk =>
    let cleared := form.arrays.foldl (fun t a => Tab.clear (a * 131072) 131072 t) kk.wShadow
    { kk with wShadow := cells.foldl (fun t p => Tab.put .zero p.1 p.2.1 t) cleared, staging := none,
              staged := some e.seq }
  t.coreViol c (cells.flatMap (·.2.2))

/-- The weight swap of a normal form, or the clearing by a Tourbillon form (R76, R77). -/
def Core.swap (k : Core) (form : MxForm) : Core :=
  let cleared := form.arrays.foldl (fun t a => Tab.clear (a * 131072) 131072 t) k.wAct
  if form.isTour then { k with wAct := cleared }
  else
    let moved := k.wShadow.filter fun p => hasNat form.arrays (p.1 / 131072)
    { k with wAct := moved.foldr (fun p t => Tab.put .zero p.1 p.2 t) cleared }

/-! ### The accumulation order (R53-R55) -/

/-- The exact sum of a group's products (R53, R55): NaN and the two infinities are kept beside the sum. -/
def groupSum (ps : List (XV × NumFlags)) : XV × NumFlags :=
  let nan := ps.any fun p => p.1.isNan
  let pos := ps.any fun p => p.1 == .inf false
  let ng := ps.any fun p => p.1 == .inf true
  let fl := ps.foldl (fun a p => a.or p.2) NumFlags.none
  let fl := if pos && ng then fl.or .invalid else fl
  if nan || (pos && ng) then (.nan, fl)
  else if pos then (.inf false, fl)
  else if ng then (.inf true, fl)
  else ((ps.foldl (fun a p => (a.add p.1).1) XV.zero), fl)

/-- One output element from its init (R53): groups of 32 in ascending order, one long-form rounding each. -/
def dot (a : List XV) (w : Nat → XV) (init : XV) : XV × NumFlags :=
  let groups := chunksOf 32 (a.length + 1) a.zipIdx
  groups.foldl (fun acc g =>
    let s := groupSum (g.map fun p => p.1.mul (w p.2))
    let q := acc.1.add s.1
    longR (q.1, (acc.2.or s.2).or q.2)) (init, .none)

/-! ### Rows of a running instruction -/

/-- The accumulator entries of output row m, one for each n. -/
def accRowKeys (form : MxForm) (f : MxF) (m : Nat) : List Nat :=
  (List.range f.n.toNat).map fun n => accKey (form.place f.n.toNat f.rbase.toNat m n)

/-- The accumulator rows (array × 256 + row) that output row m touches. -/
def accRowsOf (form : MxForm) (f : MxF) (m : Nat) : List Nat :=
  ((accRowKeys form f m).map (· / 256)).dedup

/-- Rows of an earlier run still outstanding: not accumulated, or of a finish instruction not yet read (R80). -/
def MxRun.outstanding (r : MxRun) : List Nat :=
  match r.entry.mx? with
  | some (_, f) =>
    if mxFence f then [] else (List.range f.m.toNat).drop (if mxFinish f then r.emitted else r.acc)
  | none => []

/-- Whether an instruction taps the ledger (R114). -/
def mxTaps (e : QEntry) (f : MxF) : Bool := mxFinish f && (e.chain f).stages.any fun x => stageType x == 7

/-- Whether the accumulation of an instruction reads the ledger: a rescale, or a step-exact per-row scale (R114). -/
def mxReadsLedger (e : QEntry) (f : MxF) : Bool :=
  let d := e.chain f
  (d.rescale && mxAccumulates f) || ((d.prs == 1 || d.prs == 2) && e.exact d)

/-- Some earlier run has an outstanding tap of a ledger row (R114). -/
def tapPending (earlier : List MxRun) (row : Nat) : Bool :=
  earlier.any fun r => match r.entry.mx? with
    | some (_, f) => mxTaps r.entry f && r.outstanding.any fun m => (r.entry.chain f).ledgerBase + m == row
    | none => false

/-- Whether the epilogue of an instruction reads the ledger: a single-round per-row scale, or a divide (R114). -/
def mxEpiReads (e : QEntry) (f : MxF) : Bool :=
  let d := e.chain f
  mxFinish f && (((d.prs == 1 || d.prs == 2) && !e.exact d) || d.stages.any fun x => stageType x == 9)

/-- Some earlier run has still to read a ledger row: a tap of it waits (R114). -/
def readPending (earlier : List MxRun) (row : Nat) : Bool :=
  earlier.any fun r => match r.entry.mx? with
    | some (_, f) =>
      let base := (r.entry.chain f).ledgerBase
      !mxFence f && base ≤ row && row - base < f.m.toNat &&
        ((mxReadsLedger r.entry f && r.acc ≤ row - base) || (mxEpiReads r.entry f && r.emitted ≤ row - base))
    | none => false

/-- The runs of a core issued before an instruction. -/
def Core.earlierRuns (k : Core) (seq : Nat) : List MxRun := k.mxRuns.filter fun r => r.entry.seq < seq

/-- The ordering conditions of accumulator row m are clear (R80, R114). -/
def Core.rowReady (k : Core) (e : QEntry) (form : MxForm) (f : MxF) (m : Nat) : Bool :=
  let ks := accRowsOf form f m
  let early := k.earlierRuns e.seq
  (early.all fun r => match r.entry.mx? with
    | some (form', f') => r.outstanding.all fun m' => (accRowsOf form' f' m').all fun x => !hasNat ks x
    | none => true) &&
  !(mxReadsLedger e f && tapPending early ((e.chain f).ledgerBase + m))

/-- The entry of an accumulator key as a value. -/
def Core.accVal (k : Core) (key : Nat) : XV := unpackLong (Tab.get 0 key k.acc)

/-- Destination coordinates of element (0, 0) of a chain: the output descriptor's origin, or a drain's tile (R105, R118). -/
def chainOrigin (e : QEntry) (d : CD) : Nat × Nat :=
  let last := d.stage (d.nstages - 1)
  if stageType last = 15 then (fld last 72 24, fld last 48 24) else ((e.td d.outTd).row, (e.td d.outTd).col)

/-- Values rounded along an output row to the chain's output format in blocks or one by one, as the values they then have
(R60, R65). -/
def roundRow (fmt : Fmt) (mx : Bool) (rnd : Rnd) (off r c0 : Nat) (vs : List XV) : List XV × NumFlags :=
  let rms := (List.range vs.length).map fun j => rnd.at off r (c0 + j)
  if mx then
    let bs := (chunksOf 32 (vs.length + 1) (vs.zip rms)).map fun b => encodeBlock fmt (b.map (·.2)) (b.map (·.1))
    (bs.flatMap fun b => b.2.1.map fun x => mxValue fmt b.1 x, bs.foldl (fun a b => a.or b.2.2) .none)
  else
    let es := (vs.zip rms).map fun p => roundTo fmt p.2 rnd.sat p.1
    (es.map (·.1), orFlags es)

/-- The inits of output row m (R53, R79, R116). -/
def State.initRow (s : State) (c : Nat) (e : QEntry) (form : MxForm) (f : MxF) (m : Nat) :
    List XV × NumFlags × List Nat :=
  let d := e.chain f
  let ents := (accRowKeys form f m).map fun key => (s.core c).accVal key
  if mxAccumulates f then
    if d.rescale then
      let l := s.ledger c (d.ledgerBase + m)
      let alpha := if l.1.mode = 2 then l.1.third else .one
      let ps := ents.map fun x => x.mul alpha
      let o := chainOrigin e d
      match e.exact d, Fmt.ofCode d.outFmt with
      | true, some fm =>
        if fm = .long ∨ fm = .e8m0 then
          let q := ps.map longR
          (q.map (·.1), orFlags q, l.2)
        else
          let q := roundRow fm d.outMx (chainRnd e d) 14 (o.1 + m) o.2 (ps.map (·.1))
          (q.1, (orFlags ps).or q.2, l.2)
      | _, _ =>
        let q := ps.map longR
        (q.map (·.1), orFlags q, l.2)
    else (ents, .none, [])
  else (ents.map fun _ => .zero, .none, [])

/-- The stationary registers after row m of a Tourbillon instruction (R82): pass p stands in buffer p mod 2, so the last two passes
remain; rows at or beyond M, and K rows beyond K, hold zero. -/
def stationary (form : MxForm) (t kLen m : Nat) (act : List XV) (st : Tab XV) : Tab XV :=
  let last := (kLen - 1) / t
  let passes := if kLen = 0 then [] else if last = 0 then [0] else [last - 1, last]
  form.arrays.foldl (fun st a => passes.foldl (fun st p =>
    let b := a * 8192 + (p % 2) * 4096
    let st := if m = 0 then Tab.clear b 4096 st else st
    ((act.drop (p * t)).take t).zipIdx.foldl (fun st q => Tab.put .zero (b + m * 64 + q.2) q.1 st) st) st) st

/-- Accumulate output row m (R53): the entries take the sums. -/
def State.accumulate (s : State) (c : Nat) (e : QEntry) (form : MxForm) (f : MxF) (bufs : Tab (List Nat)) (m : Nat) :
    State × NumFlags :=
  let k := s.core c
  let ini := s.initRow c e form f m
  let act := s.actRow c e f bufs m
  let w (kk n : Nat) : XV :=
    if form.isTour then (s.weight c e f kk n).1
    else Tab.get .zero (nth 0 form.arrays (n / 256) * 131072 + kk * 256 + n % 256) k.wAct
  let sums := ini.1.zipIdx.map fun p => dot act.1 (fun kk => w kk p.2) p.1
  let acc := ((accRowKeys form f m).zip sums).foldl (fun t p => Tab.put 0 p.1 p.2.1.packLong t) k.acc
  let lost := if form.isTour ∧ m = 0 then
      (List.range f.k.toNat).flatMap fun kk => (List.range f.n.toNat).flatMap fun n => (s.weight c e f kk n).2
    else []
  let stat := match form.tour with
    | none => k.stat
    | some t => stationary form t f.k.toNat m act.1 k.stat
  ((s.modCore c fun k => { k with acc := acc, stat := stat }).coreViol c (ini.2.2 ++ act.2.2 ++ lost),
   (ini.2.1.or act.2.1).or (orFlags sums))

/-- Change one run. -/
def Core.modRun (k : Core) (seq : Nat) (g : MxRun → MxRun) : Core :=
  { k with mxRuns := k.mxRuns.map fun r => if r.entry.seq = seq then g r else r }

/-- The run of an instruction. -/
def Core.runOf (k : Core) (seq : Nat) : Option MxRun := k.mxRuns.find? fun r => r.entry.seq = seq

/-- Accumulate the next row of a run if its ordering conditions are clear. -/
def State.streamRow (s : State) (c seq : Nat) : State :=
  match (s.core c).runOf seq with
  | none => s
  | some r =>
    match r.entry.mx? with
    | none => s
    | some (form, f) =>
      if !mxFence f && r.acc < f.m.toNat && (s.core c).rowReady r.entry form f r.acc then
        let q := s.accumulate c r.entry form f r.bufs r.acc
        q.1.modCore c fun k => k.modRun seq fun x => { x with acc := x.acc + 1, flags := x.flags.or q.2 }
      else s

/-- The activation stream of a run goes on until it ends or an ordering condition pauses it (R80). -/
def State.stream (s : State) (c seq : Nat) : State := iter 256 (fun _ s => s.streamRow c seq) s

/-! ### Start (R72, R73) -/

/-- A run whose stream has not ended: it holds its arrays. -/
def MxRun.holds (r : MxRun) : Option (MxForm × MxF) :=
  match r.entry.mx? with
  | some (form, f) => if !mxFence f && r.acc < f.m.toNat then some (form, f) else none
  | none => none

/-- Arrays, bus halves and Tourbillon allowance are free for a form (R72). -/
def Core.arraysFree (k : Core) (form : MxForm) (f : MxF) : Bool :=
  let held := k.mxRuns.filterMap MxRun.holds
  let half (l : List Nat) := l.map (· / 2)
  mxFence f ||
  ((held.all fun h => h.1.arrays.all fun a => !hasNat form.arrays a) &&
   (form.isTour || held.all fun h => h.1.isTour || (half h.1.arrays).all fun b => !hasNat (half form.arrays) b) &&
   (!form.isTour || form.arrays.length + ((held.filter (·.1.isTour)).flatMap (·.1.arrays)).length ≤ 2))

/-- Issue a matrix instruction (R174). -/
def issueMx (wire : Nat → Option Nat) (form : MxForm) (c : Nat) (f : MxF) (s : State) :
    Host.Outcome State Fault Refusal :=
  let k := s.core c
  let e : QEntry := ⟨k.issueSeq, k.pc, .mx form f, k.sreg, k.td, k.cd, s.numDefault⟩
  ret (issueQ c (.mx form f) (mxIllegal form f e) (mxBad (s.ledgerRows c) wire form f) s)

/-- A parity error of a matrix instruction's accesses, `r` being the state after them: its run is dropped, the violations of those
accesses are counted (R70, R144, R152). -/
def State.mxParity (s : State) (c : Nat) (e : QEntry) (p : Parity) (r : State) : State :=
  ((s.keepViol c r).modCore c fun k => { k with mxRuns := k.mxRuns.filter fun r => r.entry.seq ≠ e.seq }).parityFault c 1 e.pc p

/-- MX_TAKE_COUNTS: the oldest unstarted MX instruction takes its counts (R73, R130). -/
def execMxTakeCounts (c : Nat) (s : State) : Host.Outcome State Fault Refusal :=
  ret (match (s.core c).qMx with
    | [] => s
    | e :: _ =>
      if !(s.core c).mxCounts && (s.core c).mayTake e.seq (waitSet e.ins.sync) then
        s.modCore c fun k => { k.take (waitSet e.ins.sync) with mxCounts := true }
      else s)

/-- WEIGHT_STAGING_START: the instruction that holds its counts begins to stage (R76). -/
def execWeightStagingStart (c : Nat) (s : State) : Host.Outcome State Fault Refusal :=
  ret (match (s.core c).qMx with
    | [] => s
    | e :: _ =>
      match e.mx? with
      | none => s
      | some (form, f) =>
        if (s.core c).mxCounts && mxStages form f && (s.core c).staging.isNone && (s.core c).staged != some e.seq then
          s.modCore c fun k => { k with staging := some e.seq }
        else s)

/-- WEIGHT_STAGING_DONE: the tile is in the shadow registers (R76); a parity error of its reads stops the core (R70). -/
def execWeightStagingDone (c : Nat) (par : Option Parity) (s : State) : Host.Outcome State Fault Refusal :=
  ret (match (s.core c).qMx with
    | [] => s
    | e :: _ =>
      match e.mx? with
      | none => s
      | some (form, f) =>
        if (s.core c).staging = some e.seq then
          match par with
          | some p => (s.keepViol c (s.stage c e form f)).parityFault c 1 e.pc p
          | none => s.stage c e form f
        else s)

/-- ACC_ROW_READY: a paused stream goes on (R80). -/
def execAccRowReady (c seq : Nat) (par : Option Parity) (s : State) : Host.Outcome State Fault Refusal :=
  ret (match (s.core c).runOf seq, par with
    | none, _ => s
    | some r, some p => s.mxParity c r.entry p (s.stream c seq)
    | some _, none => s.stream c seq)

/-- MX_COMPLETE: the last write is visible, or a fence's earlier instructions have all signalled (R74, R87, R132). -/
def execMxComplete (c seq : Nat) (s : State) : Host.Outcome State Fault Refusal :=
  ret (match (s.core c).runOf seq with
    | none => s
    | some r =>
      match r.entry.mx? with
      | none => s
      | some (_, f) =>
        let done : Bool :=
          if mxFence f then ((s.core c).earlierRuns seq).isEmpty
          else if mxFinish f then r.emitted == f.m.toNat && r.waiting.isEmpty
          else r.acc == f.m.toNat
        if done then
          let t := s.modCore c fun k => { k with mxRuns := k.mxRuns.filter fun x => x.entry.seq ≠ seq }
          (t.recordStatus c .mx r.code r.entry.pc r.flags).signals c r.entry.ins.sync
        else s)

end Sys2Proof.Machine
end

