-- ==== Sys2Proof/Machine/Epilogue.lean ====
section
/-! DEFINITION. The epilogue: stages, row ledger taps, store (R64-R66, R101-R117, R188-R193). -/

namespace Sys2Proof.Machine

/-- What the epilogue carries along one output row: the values, the encoding they have when a rounding just made them
(elements and block scales), flags, violating addresses and a ledger row to be written. -/
structure Row where
  vals   : List XV
  enc    : Option (List Nat × List Nat)
  flags  : NumFlags
  viol   : List Nat
  ledger : Option Ledger

/-- What a stage needs to know: core, instruction, chain, step-exact, output format and origin, row, vectors read at the start. -/
structure RowCtx where
  c     : Nat
  e     : QEntry
  f     : MxF
  d     : CD
  exact : Bool
  fmt   : Fmt
  mx    : Bool
  r0    : Nat
  c0    : Nat
  m     : Nat
  bufs  : Tab (List Nat)

/-- The context of row m of a finish instruction. -/
def rowCtx (c : Nat) (e : QEntry) (f : MxF) (bufs : Tab (List Nat)) (m : Nat) : RowCtx :=
  let d := e.chain f
  let o := chainOrigin e d
  ⟨c, e, f, d, e.exact d, (Fmt.ofCode d.outFmt).getD .fp32, d.outMx, o.1, o.2, m, bufs⟩

/-- The values of a row in the output format, at a stream offset (R56, R58, R60). -/
def RowCtx.encode (x : RowCtx) (off : Nat) (r : Row) : Row :=
  let rnd := chainRnd x.e x.d
  let t : TD := { TD.ofBits 0 with fmt := x.d.outFmt, mx := x.mx }
  let o := encodeRow t rnd off (x.r0 + x.m) x.c0 r.vals
  let vals := if x.mx then
      o.1.zipIdx.map fun p => mxValue x.fmt (nth 0 o.2.1 (p.2 / 32)) p.1
    else o.1.map fun n => decodeElem x.fmt false n
  { r with vals := vals, enc := some (o.1, o.2.1), flags := r.flags.or o.2.2 }

/-- The rounding that ends stage j of a step-exact chain (R65): through binary32 for MX and long-form outputs. -/
def RowCtx.stageRound (x : RowCtx) (j : Nat) (r : Row) : Row :=
  let rnd := chainRnd x.e x.d
  let pre (n : Nat) (v : XV) : XV × NumFlags :=
    if x.mx then round32 v
    else if x.fmt = .long then roundTo .fp32 (rnd.at j (x.r0 + x.m) (x.c0 + n)) rnd.sat v
    else (v, .none)
  let ps := r.vals.zipIdx.map fun p => pre p.2 p.1
  x.encode j { r with vals := ps.map (·.1), flags := r.flags.or (orFlags ps) }

/-- An operation's operands in the chain's arithmetic: binary32 in step-exact mode (R65). -/
def RowCtx.arg (x : RowCtx) (v : XV) : XV × NumFlags := if x.exact then round32 v else (v, .none)

/-- Rounding of an intermediate operation (R64, R65). -/
def RowCtx.rd (x : RowCtx) (p : XV × NumFlags) : XV × NumFlags := if x.exact then rd32 p else longR p

/-- Rounding of a stage's last operation: long form at once in single-round mode; later, with the row, in step-exact. -/
def RowCtx.last (x : RowCtx) (p : XV × NumFlags) : XV × NumFlags := if x.exact then p else longR p

/-- A row with the results of an operation. -/
def Row.with (r : Row) (ps : List (XV × NumFlags)) : Row :=
  { r with vals := ps.map (·.1), enc := none, flags := r.flags.or (orFlags ps) }

/-- Violations that count once per instruction, with row 0 (R189). -/
def RowCtx.once (x : RowCtx) (l : List Nat) : List Nat := if x.m = 0 then l else []

/-- The operand of an add or multiply stage i at column n (R101, R103). -/
def State.stageOperand (s : State) (x : RowCtx) (i : Nat) (st : BitVec 112) (n : Nat) : XV × List Nat :=
  let t := x.e.slotTd x.d (fld st 104 2)
  match fld st 106 2 with
  | 0 => (decodeElem .fp32 false (fld st 0 32), [])
  | 1 => (bufVal x.bufs (2 * i) t n, [])
  | 2 => (bufVal x.bufs (2 * i) t x.m, [])
  | _ =>
    let y := s.elemAt x.c t (t.row + x.m) (t.col + n)
    (decodeElem t.format false y.1, y.2)

/-- Add or multiply (R101). -/
def State.arith (s : State) (x : RowCtx) (mulp : Bool) (i : Nat) (st : BitVec 112) (r : Row) : Row :=
  let ops := (List.range r.vals.length).map fun n => s.stageOperand x i st n
  let ps := (r.vals.zip ops).map fun p =>
    let a := x.arg p.1
    let b := x.arg p.2.1
    let q := if mulp then a.1.mul b.1 else a.1.add b.1
    x.last (q.1, (a.2.or b.2).or q.2)
  { r.with ps with viol := r.viol ++ ops.flatMap (·.2) }

/-- The function codes of activation and gate stages (R166). -/
def actFn (code : Nat) : Fn :=
  match code with
  | 0 => .silu | 1 => .geluErf | 2 => .geluTanh | 3 => .sigmoid | 4 => .tanh | 5 => .exp2 | 6 => .rcp | _ => .identity

/-- Activation (R101, R180). -/
def RowCtx.activation (x : RowCtx) (g : Fn) (r : Row) : Row :=
  r.with (r.vals.map fun v =>
    let a := x.arg v
    let q := g.eval (!x.exact) a.1
    x.last (q.1, a.2.or q.2))

/-- Gate: f(y[n]) × y[n + N/2] (R101). -/
def RowCtx.gate (x : RowCtx) (g : Fn) (r : Row) : Row :=
  let h := r.vals.length / 2
  r.with ((r.vals.take h).zip (r.vals.drop h) |>.map fun p =>
    let a := x.arg p.1
    let b := x.arg p.2
    let q := g.eval (!x.exact) a.1
    let q := if g = .identity then (a.1, a.2) else x.rd (q.1, a.2.or q.2)
    let z := q.1.mul b.1
    x.last (z.1, (q.2.or b.2).or z.2))

/-! ### Mask (R188-R193) -/

/-- Positions beyond the sequence (R189). -/
def beyondSeq (p : Nat) : Bool := 2097152 ≤ p

/-- The position bases of a mask stage (R188). -/
def maskBases (e : QEntry) (st : BitVec 112) : Nat × Nat := (fld (e.s (fld st 100 5)) 0 21, fld (e.s (fld st 95 5)) 0 21)

/-- The block table entry of query block qb and key block kb (R191): outside the extents all is masked, with the address to count. -/
def State.maskEntry (s : State) (c : Nat) (t : TD) (qb kb : Nat) : Nat × List Nat :=
  let i : Int := (qb : Int) - t.row
  let j : Int := (kb : Int) - t.col
  let a := t.addr i.toNat j.toNat 0 0
  if i < 0 ∨ j < 0 ∨ (t.e1 : Int) ≤ i ∨ (t.e0 : Int) ≤ j ∨ t.e2 = 0 ∨ t.e3 = 0 then (0, [a])
  else if ownStore c a 1 then (s.readN a 1, []) else (0, [a])

/-- Blocks that `n` positions from a base touch. -/
def maskBlocks (b n : Nat) : Nat := (b + n - 1) / 256 - b / 256 + 1

/-- Causal masking, with and without a window (R190). -/
def causal (qp kp : Nat) : Bool := qp < kp
def windowed (w qp kp : Nat) : Bool := qp < kp || w < qp - kp

/-- Whether a position is masked (R190, R191); `qb`, `kb` are the bases and `w` the columns of the row. -/
def RowCtx.masked (x : RowCtx) (i : Nat) (st : BitVec 112) (qb kb w qp kp : Nat) : Bool :=
  let win := fld st 74 21
  beyondSeq qp || beyondSeq kp ||
  (match fld st 105 3 with
   | 0 => causal qp kp
   | 1 => windowed win qp kp
   | _ => match nth 0 (Tab.get [] (2 * i) x.bufs) ((qp / 256 - qb / 256) * maskBlocks kb w + (kp / 256 - kb / 256)) with
     | 1 => false
     | 2 => causal qp kp
     | 3 => windowed win qp kp
     | _ => true)

/-- The mask stage (R192): −infinity at masked positions; positions beyond the sequence count once per instruction (R189). -/
def RowCtx.mask (x : RowCtx) (i : Nat) (st : BitVec 112) (r : Row) : Row :=
  let b := maskBases x.e st
  let w := r.vals.length
  let vals := r.vals.zipIdx.map fun p => if x.masked i st b.1 b.2 w (b.1 + x.m) (b.2 + p.2) then .inf true else p.1
  let mm := x.f.m.toNat
  let seqViol := if beyondSeq (b.1 + mm - 1) then [b.1] else if beyondSeq (b.2 + w - 1) then [b.2] else []
  { r with vals := vals, enc := if vals = r.vals then r.enc else none, viol := r.viol ++ x.once seqViol }

/-! ### Operands read once per instruction (R103, R193) -/

/-- Columns of a row at stage i: half after a gate (R105). -/
def CD.widthAt (d : CD) (n i : Nat) : Nat := if (d.stages.take i).any fun x => stageType x == 5 then n / 2 else n

/-- Elements 0 to n − 1 of a vector along one row of its descriptor (R103), and violating addresses. -/
def State.vecBuf (s : State) (c : Nat) (t : TD) (n : Nat) : List Nat × List Nat :=
  let es := (List.range n).map fun j => s.elemAt c t t.row (t.col + j)
  (es.map (·.1), es.flatMap (·.2))

/-- The block table entries that a mask stage needs (R193), row by row. -/
def State.tableBuf (s : State) (c : Nat) (t : TD) (qb m kb w : Nat) : List Nat × List Nat :=
  let es := (List.range (maskBlocks qb m)).flatMap fun i =>
    (List.range (maskBlocks kb w)).map fun j => s.maskEntry c t (qb / 256 + i) (kb / 256 + j)
  (es.map (·.1), es.flatMap (·.2))

/-- The vectors of stage i, each with its key. -/
def State.stageBufs (s : State) (c : Nat) (e : QEntry) (f : MxF) (d : CD) (i : Nat) (st : BitVec 112) :
    List (Nat × List Nat × List Nat) :=
  let w := d.widthAt f.n.toNat i
  let vec (key slot n : Nat) := [(key, s.vecBuf c (e.slotTd d (fld st slot 2)) n)]
  match stageType st with
  | 1 | 2 => if fld st 106 2 = 1 then vec (2 * i) 104 w else if fld st 106 2 = 2 then vec (2 * i) 104 f.m.toNat else []
  | 6 =>
    let b := maskBases e st
    if fld st 105 3 = 2 then [(2 * i, s.tableBuf c (e.slotTd d (fld st 72 2)) b.1 f.m.toNat b.2 w)] else []
  | 8 =>
    (if fld st 106 2 ≠ 0 ∧ bit st 105 then vec (2 * i) 103 w else []) ++
      (if fld st 106 2 = 2 ∧ bit st 102 then vec (2 * i + 1) 100 w else [])
  | _ => []

/-- The vectors that an instruction reads when it starts, and violating addresses: the per-row scale, and the operands of a finish
instruction's stages. -/
def State.operandBufs (s : State) (c : Nat) (e : QEntry) (f : MxF) : Tab (List Nat) × List Nat :=
  let d := e.chain f
  let scale := if d.prs = 3 then [(100, s.vecBuf c (e.slotTd d d.prsSlot) f.m.toNat)] else []
  let stages := if mxFinish f then d.stages.zipIdx.flatMap fun p => s.stageBufs c e f d p.2 p.1 else []
  let all := if mxFence f then [] else stages ++ scale
  (all.foldl (fun t b => Tab.put [] b.1 b.2.1 t) [], all.flatMap (·.2.2))

/-! ### Sums along a row -/

/-- Long-form addition and multiplication. -/
def addLong (a b : XV × NumFlags) : XV × NumFlags := let p := a.1.add b.1; longR (p.1, (a.2.or b.2).or p.2)
def mulLong (a b : XV × NumFlags) : XV × NumFlags := let p := a.1.mul b.1; longR (p.1, (a.2.or b.2).or p.2)

/-- tree_sum (R112). -/
def treeSum (vs : List (XV × NumFlags)) : XV × NumFlags := treeFold addLong 23 vs

/-- The row sum in the chain's arithmetic: the tree of R112, or the order of R136 (R107, R113). -/
def RowCtx.rowSum (x : RowCtx) (vs : List (XV × NumFlags)) : XV × NumFlags := if x.exact then rowSum32 vs else treeSum vs

/-- Sum and product in the chain's arithmetic, rounded. -/
def RowCtx.add (x : RowCtx) (a b : XV × NumFlags) : XV × NumFlags := if x.exact then add32 a b else addLong a b
def RowCtx.mul (x : RowCtx) (a b : XV × NumFlags) : XV × NumFlags := if x.exact then mul32 a b else mulLong a b

/-- A function in the chain's arithmetic, rounded. -/
def RowCtx.fn (x : RowCtx) (g : Fn) (a : XV × NumFlags) : XV × NumFlags :=
  let q := g.exact a.1; x.rd (q.1, a.2.or q.2)

/-- A quotient, exact but for its last rounding. -/
def divX (a b : XV × NumFlags) : XV × NumFlags := let q := a.1.div b.1; (q.1, (a.2.or b.2).or q.2)

/-- The maximum of a row. -/
def rowMax (vs : List XV) : XV := vs.foldl XV.max (.inf true)

/-! ### Taps (R110-R113) -/

/-- The ledger row a tap merges into: empty on init or on another mode (R110). -/
def tapBase (init : Bool) (mode : Nat) (l : Ledger) : Ledger :=
  if init || l.mode != mode then ⟨mode, 0, .zero, .zero, .inf true⟩ else l

/-- The tap stage (R112, R113). -/
def State.tap (s : State) (x : RowCtx) (i : Nat) (st : BitVec 112) (r : Row) : Row :=
  let soft := bit st 107
  let q := s.ledger x.c (x.d.ledgerBase + x.m)
  let l := tapBase (bit st 106) (if soft then 2 else 1) q.1
  let vs := r.vals.map x.arg
  let cnt := satAdd 32 l.count r.vals.length
  let mNew := l.max.max (rowMax r.vals)
  let fl0 := orFlags vs
  if !soft then
    let sum := x.add (x.arg l.sum) (x.rowSum vs)
    let third := x.add (x.arg l.third) (x.rowSum (vs.map fun v => x.mul v v))
    { r with ledger := some ⟨1, cnt, third.1, sum.1, mNew⟩, viol := r.viol ++ q.2,
             flags := ((r.flags.or fl0).or sum.2).or third.2 }
  else if mNew = .inf true then
    let ps : List (XV × NumFlags) := r.vals.map fun _ => (.zero, .none)
    { r.with ps with ledger := some ⟨2, cnt, .one, l.sum, mNew⟩, viol := r.viol ++ q.2 }
  else
    let mn := x.arg mNew
    let ps := vs.map fun v => x.fn .exp2 (x.add v (mn.1.neg, mn.2))
    let alpha := x.fn .exp2 (x.add (x.arg l.max) (mn.1.neg, mn.2))
    let r1 := r.with ps
    let passed := if x.exact then ((x.stageRound (i + 1) r1).vals.map round32) else ps
    let sum := x.add (x.mul (x.arg l.sum) alpha) (x.rowSum passed)
    { r1 with ledger := some ⟨2, cnt, alpha.1, sum.1, mNew⟩, viol := r.viol ++ q.2,
              flags := ((r1.flags.or fl0).or alpha.2).or sum.2 }

/-! ### Normalise and divide (R107, R117) -/

/-- gamma or beta of a normalise stage (R107), as read at the start. -/
def RowCtx.normVec (x : RowCtx) (key en slot : Nat) (st : BitVec 112) (w : Nat) : Option (List XV) :=
  if bit st en then some ((List.range w).map fun n => bufVal x.bufs key (x.e.slotTd x.d (fld st slot 2)) n) else none

/-- The normalise stage (R107). -/
def RowCtx.normalise (x : RowCtx) (i : Nat) (st : BitVec 112) (r : Row) : Row :=
  let w := r.vals.length
  let kind := fld st 106 2
  let g := if kind = 0 then none else x.normVec (2 * i) 105 103 st w
  let b := if kind = 2 then x.normVec (2 * i + 1) 102 100 st w else none
  if r.vals.any XV.isNan then r.with (r.vals.map fun _ => (.nan, .none))
  else if kind = 0 ∧ r.vals.all (· == .inf true) then r.with (r.vals.map fun _ => (.zero, .none))
  else
    let ys := r.vals.map x.arg
    let fl0 := orFlags ys
    let mx := x.arg (rowMax r.vals)
    if kind = 0 then
      let es := ys.map fun y => x.fn .exp2 (x.add y (mx.1.neg, mx.2))
      let sm := x.rowSum es
      let out := r.with (es.map fun e => x.last (divX e sm))
      { out with flags := out.flags.or fl0 }
    else
      let n := x.rd (.ofInt w, .none)
      let cs := if kind = 2 then
          let mu := x.rd (divX (x.rowSum ys) n)
          ys.map fun y => x.add y (mu.1.neg, mu.2)
        else ys
      let v := x.rd (divX (x.rowSum (cs.map fun c => x.mul c c)) n)
      let rs := x.fn .rsqrt (x.add v (decodeElem .fp32 false (fld st 0 32), .none))
      let ts : List (XV × NumFlags) := cs.map fun c => let p := c.1.mul rs.1; (p.1, (c.2.or rs.2).or p.2)
      let res := ts.zipIdx.map fun p =>
        match g, b with
        | none, none => x.last p.1
        | some gs, none =>
          let t := x.rd p.1; let a := x.arg (nth .zero gs p.2); let q := t.1.mul a.1
          x.last (q.1, (t.2.or a.2).or q.2)
        | none, some bs =>
          let t := x.rd p.1; let a := x.arg (nth .zero bs p.2); let q := t.1.add a.1
          x.last (q.1, (t.2.or a.2).or q.2)
        | some gs, some bs =>
          let t := x.rd p.1; let a := x.arg (nth .zero gs p.2); let b := x.arg (nth .zero bs p.2)
          let q := t.1.mul a.1
          let z := q.1.add b.1
          x.last (z.1, (((t.2.or a.2).or b.2).or q.2).or z.2)
      let out := r.with res
      { out with flags := out.flags.or fl0 }

/-- The divide stage (R117). -/
def State.divideRow (s : State) (x : RowCtx) (r : Row) : Row :=
  let q := match r.ledger with
    | some l => (l, [])
    | none => s.ledger x.c (x.d.ledgerBase + x.m)
  let out :=
    if q.1.sum.isZero then r.with (r.vals.map fun _ => (.zero, .none))
    else r.with (r.vals.map fun v => x.last (divX (x.arg v) (x.arg q.1.sum)))
  { out with viol := out.viol ++ q.2 }

/-- One stage before the terminal one (R101). In step-exact mode its result is rounded to the output format, but a mask and a
stats tap make no operation that rounds (R65, R192, R193). -/
def State.stageRow (s : State) (x : RowCtx) (i : Nat) (st : BitVec 112) (r : Row) : Row :=
  let fin (q : Row) : Row := if x.exact then x.stageRound (i + 1) q else q
  match stageType st with
  | 1 => fin (s.arith x false i st r)
  | 2 => fin (s.arith x true i st r)
  | 3 =>
    let lo := decodeElem .fp32 false (fld st 32 32)
    let hi := decodeElem .fp32 false (fld st 0 32)
    fin (r.with (r.vals.map fun y => let a := x.arg y; ((a.1.max lo).min hi, a.2)))
  | 4 => fin (x.activation (actFn (fld st 105 3)) r)
  | 5 => fin (x.gate (actFn (fld st 104 4)) r)
  | 6 => x.mask i st r
  | 7 => if bit st 107 then fin (s.tap x i st r) else s.tap x i st r
  | 8 => fin (x.normalise i st r)
  | 9 => fin (s.divideRow x r)
  | _ => r

/-- The row as it reaches the terminal stage: the per-row scale of single-round mode, or the rounding of the product, then
every stage (R64, R65, R100). -/
def State.epilogueRow (s : State) (x : RowCtx) (form : MxForm) : Row :=
  let vals := (accRowKeys form x.f x.m).map fun key => (s.core x.c).accVal key
  let r0 : Row := ⟨vals, none, .none, [], none⟩
  let r1 :=
    if x.exact then x.encode 0 r0
    else if x.d.prs = 0 then r0
    else
      let fm := s.rowFactor x.c x.e x.d x.bufs true x.m
      { r0.with (vals.map fun v => mulLong (v, .none) (fm.1.1, .none)) with
        viol := fm.2, flags := r0.flags.or fm.1.2 }
  let body := (x.d.stages.take (x.d.nstages - 1)).zipIdx
  let r2 := body.foldl (fun r p => s.stageRow x p.2 p.1 r) r1
  match x.exact, r2.enc with
  | true, some _ => r2
  | true, none => x.encode x.d.nstages r2
  | false, _ => x.encode 0 r2

/-- Write an encoded row through the output descriptor (R60, R105). -/
def State.storeRow (s : State) (x : RowCtx) (raws scales : List Nat) : State :=
  let t := x.e.td x.d.outTd
  let w := raws.length
  let s1 := s.putRow x.c t (x.r0 + x.m) x.c0 raws
  if t.mx then
    let pad := (List.range ((32 - w % 32) % 32)).filter fun i => x.c0 + w + i < t.e0
    let s2 := pad.foldl (fun s i => s.putElem x.c t (x.r0 + x.m) (x.c0 + w + i) 0) s1
    s2.putRow x.c { x.e.scaleOf t with fmt := 13, mx := false } (x.r0 + x.m) (x.c0 / 32) scales
  else s1

/-- The epilogue of row m waits for an earlier instruction's access of its ledger row (R114): a tap or a read behind an earlier tap, a
tap behind an earlier read. -/
def Core.epiBlocked (k : Core) (e : QEntry) (f : MxF) (m : Nat) : Bool :=
  let early := k.earlierRuns e.seq
  let row := (e.chain f).ledgerBase + m
  ((mxEpiReads e f || mxTaps e f) && tapPending early row) || (mxTaps e f && readPending early row)

/-- EPILOGUE_ROW: the next accumulated row of a finish instruction goes through its stages and is stored, or waits to be
handed to the collective engine; while a row waits, the epilogue of its instruction waits (R27, R104, R118). -/
def execEpilogueRow (c seq : Nat) (par : Option Parity) (s : State) : Host.Outcome State Fault Refusal :=
  ret (match (s.core c).runOf seq with
    | none => s
    | some r =>
      match r.entry.mx? with
      | none => s
      | some (form, f) =>
        if mxFinish f && !mxFence f && r.emitted < r.acc && r.waiting.isEmpty && !(s.core c).epiBlocked r.entry f r.emitted then
          let x := rowCtx c r.entry f r.bufs r.emitted
          let row := s.epilogueRow x form
          match par with
          | some p => s.mxParity c r.entry p (s.coreViol c row.viol)
          | none =>
            let enc := row.enc.getD ([], [])
            let drain := stageType (x.d.stage (x.d.nstages - 1)) == 15
            let t := match row.ledger with
              | some l => s.putLedger c (x.d.ledgerBase + x.m) l
              | none => s
            let t := if drain then t else t.storeRow x enc.1 enc.2
            let hand := drain && r.code == 0
            (t.coreViol c row.viol).modCore c fun k =>
              { k.modRun seq (fun r => { r with emitted := r.emitted + 1, flags := r.flags.or row.flags,
                                                waiting := if hand then [enc.1] else [] }) with
                drainQ := if hand then k.drainQ ++ [seq] else k.drainQ }
        else s)

end Sys2Proof.Machine
end

