-- ==== Sys2Proof/Machine/Schedule.lean ====
section
/-! DEFINITION. The schedules and the arithmetic of collectives (R341-R354): which ranges a node sends and receives, and what it
sends. A schedule is a list of legs; what a node holds is a function of its members' contributions and the chunks received. -/

namespace Sys2Proof.Machine

/-! ### Members (R341) -/

/-- Members of a node. -/
def ColNode.size (x : ColNode) : Nat := popcount x.mask

/-- The member index of the first member of node i; of the number of nodes, the number of members. -/
def ColGrp.first (g : ColGrp) (i : Nat) : Nat := ((g.nodes.take i).map ColNode.size).sum

/-- n. -/
def ColGrp.n (g : ColGrp) : Nat := g.first g.nodes.length

/-- The node of this package at compute die d. -/
def ColGrp.nodeAt (g : ColGrp) (fid : BitVec 16) (d : Nat) : Option Nat := findIx (fun x : ColNode => x.fid == fid && x.die == d) g.nodes

/-- The node of member j. -/
def ColGrp.nodeOf (g : ColGrp) (j : Nat) : Nat := ((List.range g.nodes.length).find? fun i => j < g.first (i + 1)).getD 0

/-- The cores (0 to 63) of a node, ascending. -/
def ColNode.cores (x : ColNode) : List Nat := ((List.range 16).filter fun k => bit x.mask k).map (16 * x.die + ·)

/-- The member index of a core of node i. -/
def ColGrp.member (g : ColGrp) (i core : Nat) : Nat :=
  g.first i + (match g.nodes[i]? with | some x => (x.cores.filter (· < core)).length | none => 0)

/-! ### The data of an operation (R344, R345, R348) -/

/-- An operation seen from one node: group, run, node index. -/
structure ColCtx where
  g  : ColGrp
  r  : ColRun
  me : Nat

/-- The collective fields of an instruction. -/
def QEntry.col? (e : QEntry) : Option (ColOp × ColF) :=
  match e.ins with
  | .col op f => some (op, f)
  | _ => none

/-- The source descriptor of the operation at this node (its first member's). -/
def ColCtx.srcTd (x : ColCtx) : TD :=
  match x.r.joins with
  | j :: _ => match j.entry.col? with
    | some p => j.entry.td p.2.src.toNat
    | none => TD.ofBits 0
  | [] => TD.ofBits 0

/-- A barrier: BARRIER, or any operation with count 0 (R186, R344). -/
def ColCtx.barrier (x : ColCtx) : Bool := x.r.op == .barrier || x.r.count == 0

/-- Data is copied, not reduced. -/
def ColOp.copies (o : ColOp) : Bool := o == .allgather || o == .broadcast

/-- A ledger merge (R348). -/
def ColCtx.merge (x : ColCtx) : Bool := x.r.oper == 3 && !x.r.op.copies && !x.barrier

/-- The wire format of a group (R345). -/
def ColGrp.wire (g : ColGrp) : Fmt := if g.long then .long else if g.fp32 then .fp32 else .bf16

/-- Elements of a row of a ledger merge. -/
def ColCtx.width (x : ColCtx) : Nat := x.srcTd.e0

/-- Bits of one element on the wire. -/
def ColCtx.elemBits (x : ColCtx) : Nat := if x.r.op.copies then x.srcTd.format.width else x.g.wire.width

/-- Bits of one record of a stage: an element, a merged row with its ledger row, or a block exponent. -/
def ColCtx.recBits (x : ColCtx) (stage : Nat) : Nat :=
  if stage = 2 then 16 else if x.merge then x.width * x.elemBits + 256 else x.elemBits

/-- Elements before member j's share of the buffer. -/
def ColCtx.bound (x : ColCtx) (j : Nat) : Nat := if x.r.op = .allgather then j * x.r.count else j * x.r.count / x.g.n

/-- An element range as records: for a merge, the rows that hold any of it. -/
def ColCtx.recRange (x : ColCtx) (lo hi : Nat) : Nat × Nat :=
  if x.merge then (if lo = hi then (lo / x.width, lo / x.width) else (lo / x.width, ceilDiv hi x.width)) else (lo, hi)

/-- The records of the nodes from `a` up to `b`. -/
def ColCtx.share (x : ColCtx) (a b : Nat) : Nat × Nat := x.recRange (x.bound (x.g.first a)) (x.bound (x.g.first b))

/-- Every record of the operation's buffer. -/
def ColCtx.all (x : ColCtx) : Nat × Nat :=
  if x.barrier then (0, 0) else x.recRange 0 (if x.r.op = .allgather then x.g.n * x.r.count else x.r.count)

/-! ### The tree (R353) -/

/-- A leg: one range sent to or received from a node. Stages as in R356: 0 reduce, 1 distribute, 2 exponent pass. -/
structure Leg where
  send  : Bool
  peer  : Nat
  stage : Nat
  lo    : Nat
  hi    : Nat
  deriving DecidableEq, Repr

/-- Steps of one dimension at coordinate c: children (step, coordinate) in order, and the parent. -/
def dimTree (m r c : Nat) : Nat → Nat → List (Nat × Nat) × Option (Nat × Nat)
  | 0, _ => ([], none)
  | fuel + 1, k =>
    if m ≤ 2 ^ k then ([], none)
    else
      let c' := (c + m - r % m) % m
      if c' % 2 ^ (k + 1) = 2 ^ k then ([], some (k, (c' - 2 ^ k + r) % m))
      else
        let q := dimTree m r c fuel (k + 1)
        if c' % 2 ^ (k + 1) = 0 ∧ c' + 2 ^ k < m then ((k, (c' + 2 ^ k + r) % m) :: q.1, q.2) else q

/-- A neighbour in the tree and the nodes of the subtree that hangs on the link (with the root at node 0). -/
structure Link where
  node : Nat
  lo   : Nat
  hi   : Nat
  deriving DecidableEq, Repr

/-- Children in the order of the steps, and the parent, of node `me` under a root node. -/
def ColGrp.links (g : ColGrp) (root me : Nat) : List Link × Option Link :=
  let x (i : Nat) := i % g.nx
  let y (i : Nat) := i / g.nx % g.ny
  let z (i : Nat) := i / (g.nx * g.ny)
  let at' (a b c : Nat) := (c * g.ny + b) * g.nx + a
  let tx := dimTree g.nx (x root) (x me) 16 0
  let ty := dimTree g.ny (y root) (y me) 16 0
  let tz := dimTree g.nz (z root) (z me) 16 0
  let lx (own : Bool) (p : Nat × Nat) : Link :=
    let c := if own then x me else p.2
    ⟨at' p.2 (y me) (z me), at' c (y me) (z me), at' (Nat.min (c + 2 ^ p.1) g.nx) (y me) (z me)⟩
  let ly (own : Bool) (p : Nat × Nat) : Link :=
    let c := if own then y me else p.2
    ⟨at' (x me) p.2 (z me), at' 0 c (z me), at' 0 (Nat.min (c + 2 ^ p.1) g.ny) (z me)⟩
  let lz (own : Bool) (p : Nat × Nat) : Link :=
    let c := if own then z me else p.2
    ⟨at' (x me) (y me) p.2, at' 0 0 c, at' 0 0 (Nat.min (c + 2 ^ p.1) g.nz)⟩
  let cx := tx.1.map (lx false)
  match tx.2 with
  | some p => (cx, some (lx true p))
  | none =>
    let cy := cx ++ ty.1.map (ly false)
    match ty.2 with
    | some p => (cy, some (ly true p))
    | none => (cy ++ tz.1.map (lz false), tz.2.map (lz true))

/-- The root node of an operation (R353). -/
def ColCtx.root (x : ColCtx) : Nat :=
  if x.r.op = .reduce ∨ x.r.op = .broadcast then x.g.nodeOf x.r.root else 0

/-- The legs of the tree. -/
def ColCtx.treeLegs (x : ColCtx) : List Leg :=
  let t := x.g.links x.root x.me
  let up (l : Link) : Nat × Nat := if x.r.op = .allgather ∧ !x.barrier then x.share l.lo l.hi else x.all
  let down (l : Link) : Nat × Nat := if x.r.op = .reducescatter ∧ !x.barrier then x.share l.lo l.hi else x.all
  let leg (send : Bool) (stage : Nat) (f : Link → Nat × Nat) (l : Link) : Leg := ⟨send, l.node, stage, (f l).1, (f l).2⟩
  let par := t.2.toList
  let reduce := if x.r.op = .broadcast ∧ !x.barrier then [] else t.1.map (leg false 0 up) ++ par.map (leg true 0 up)
  let dist := if x.r.op = .reduce ∧ !x.barrier then [] else par.map (leg false 1 down) ++ (t.1.reverse).map (leg true 1 down)
  reduce ++ dist

/-! ### The rings (R354) -/

/-- The two halves of a range, ascending and descending. -/
def half (asc : Bool) (p : Nat × Nat) : Nat × Nat :=
  let m := p.1 + (p.2 - p.1 + 1) / 2
  if asc then (p.1, m) else (m, p.2)

/-- The legs of one dimension of size m at coordinate c: a reduce-scatter, or an all-gather. -/
def ringLegs (rs : Bool) (m c : Nat) (shard : Nat → Nat × Nat) (node : Nat → Nat) : List Leg :=
  let stage := if rs then 0 else 1
  let leg (send asc : Bool) (peer s : Nat) : Leg :=
    let h := half asc (shard (s % m)); ⟨send, node (peer % m), stage, h.1, h.2⟩
  (List.range (m - 1)).flatMap fun t =>
    if rs then
      [leg true true (c + 1) (c + 2 * m - 1 - t), leg true false (c + m - 1) (c + 1 + t),
       leg false true (c + m - 1) (c + 2 * m - 2 - t), leg false false (c + 1) (c + 2 + t)]
    else
      [leg true true (c + 1) (c + m - t), leg true false (c + m - 1) (c + t),
       leg false true (c + m - 1) (c + 2 * m - 1 - t), leg false false (c + 1) (c + 1 + t)]

/-- The legs of the rings. -/
def ColCtx.ring (x : ColCtx) : List Leg :=
  let g := x.g
  let cx := x.me % g.nx
  let cy := x.me / g.nx % g.ny
  let cz := x.me / (g.nx * g.ny)
  let at' (a b c : Nat) := (c * g.ny + b) * g.nx + a
  let lz (rs : Bool) := ringLegs rs g.nz cz (fun j => x.share (at' 0 0 j) (at' 0 0 (j + 1))) (fun j => at' cx cy j)
  let ly (rs : Bool) := ringLegs rs g.ny cy (fun j => x.share (at' 0 j cz) (at' 0 (j + 1) cz)) (fun j => at' cx j cz)
  let lx (rs : Bool) := ringLegs rs g.nx cx (fun j => x.share (at' j cy cz) (at' (j + 1) cy cz)) (fun j => at' j cy cz)
  let rs := lz true ++ ly true ++ lx true
  let ag := lx false ++ ly false ++ lz false
  match x.r.op with
  | .allreduce => rs ++ ag
  | .reducescatter => rs
  | _ => ag

/-- The exponent pass of a long-mode sum (R350): the tree, on 2 bytes per block. -/
def ColCtx.expLegs (x : ColCtx) : List Leg :=
  if x.g.long && x.r.oper == 0 && !x.r.op.copies && !x.barrier then
    let t := x.g.links x.root x.me
    let n := ceilDiv x.r.count 32
    let leg (send : Bool) (l : Link) : Leg := ⟨send, l.node, 2, 0, n⟩
    t.1.map (leg false) ++ t.2.toList.map (leg true) ++ t.2.toList.map (leg false) ++ (t.1.reverse).map (leg true)
  else []

/-- The schedule of an operation at a node: the exponent pass, then the data (R350, R352). -/
def ColCtx.legs (x : ColCtx) : List Leg := x.expLegs ++ (if x.r.ring then x.ring else x.treeLegs)

/-! ### Chunks of a leg (R355) -/

/-- Bytes of the buffer that a leg covers. -/
def ColCtx.legBytes (x : ColCtx) (l : Leg) : Nat × Nat :=
  (l.lo * x.recBits l.stage / 8, ceilDiv (l.hi * x.recBits l.stage) 8)

/-- The chunk indices of a leg; a barrier's leg is one empty chunk. -/
def ColCtx.legChunks (x : ColCtx) (l : Leg) : List Nat :=
  if x.barrier then [0]
  else
    let b := x.legBytes l
    if b.1 < b.2 then (List.range ((b.2 - 1) / 4096 - b.1 / 4096 + 1)).map (b.1 / 4096 + ·) else []

/-- The bytes of chunk k that a leg carries. -/
def ColCtx.chunkRange (x : ColCtx) (l : Leg) (k : Nat) : Nat × Nat :=
  let b := x.legBytes l
  (Nat.max b.1 (4096 * k), Nat.min b.2 (4096 * k + 4096))

/-- A byte received on leg i. -/
def ColCtx.rxByte (x : ColCtx) (i : Nat) (l : Leg) (pos : Nat) : Option Byte :=
  (x.r.rx.find? fun r => r.leg == i && r.index == pos / 4096).bind fun r => r.payload[pos - (x.chunkRange l (pos / 4096)).1]?

/-- A record received on leg i, once every byte of it is there. -/
def ColCtx.rxRec (x : ColCtx) (i : Nat) (l : Leg) (r : Nat) : Option Nat :=
  let w := x.recBits l.stage
  let a := r * w / 8
  let bs := (List.range (ceilDiv ((r + 1) * w) 8 - a)).map fun j => x.rxByte i l (a + j)
  if bs.all Option.isSome then some (ofBytes (bs.map fun b => b.getD 0) / 2 ^ (r * w % 8) % 2 ^ w) else none

/-- The receiving legs before leg `upto` that carry record r in a stage, in schedule order. -/
def ColCtx.rxLegs (_x : ColCtx) (legs : List Leg) (upto r : Nat) (stage : Nat) : List (Nat × Leg) :=
  ((legs.zipIdx.take upto).filter fun p => !p.1.send && p.1.stage == stage && p.1.lo ≤ r && r < p.1.hi).map fun p => (p.2, p.1)

/-- Every value of a list that holds only values. -/
def allSome {α : Type} (l : List (Option α)) : Option (List α) :=
  l.foldr (fun a b => match a, b with | some x, some y => some (x :: y) | _, _ => none) (some [])

/-! ### Contributions (R347-R350) -/

/-- The members of this node that contribute, in ascending core number: none while one has not joined. -/
def ColCtx.parts (x : ColCtx) : Option (List ColJoin) :=
  match x.g.nodes[x.me]? with
  | some nd => allSome (nd.cores.map fun c => x.r.joins.find? fun j => j.core == c)
  | none => none

/-- ⌊log₂ |v|⌋ of a finite non-zero value. -/
def expOf (v : XV) : Option Int :=
  match v with
  | .fin _ m e _ => if m = 0 then none else some (ilog2 m e)
  | _ => none

/-- The greater of two block exponents; none is no finite non-zero contribution. -/
def maxExp (a b : Option Int) : Option Int :=
  match a, b with
  | some x, some y => some (max x y)
  | some x, none => some x
  | none, y => y

/-- A block exponent on the wire: 16 bits, two's complement; 0x8000 is none (log 43). -/
def packExp (e : Option Int) : Nat := match e with | some v => (BitVec.ofInt 16 v).toNat | none => 0x8000

def unpackExp (w : Nat) : Option Int := if w % 65536 = 0x8000 then none else some (BitVec.ofNat 16 w).toInt

/-- Every contribution of the segment of 4 MiB that holds block b is there: its exponent pass may begin (R350). -/
def ColCtx.segmentIn (x : ColCtx) (ps : List ColJoin) (b : Nat) : Bool :=
  let lo := b / 16384 * 524288
  (List.range (Nat.min 524288 (x.r.count - lo))).all fun i => ps.all fun j => (Tab.get none (lo + i) j.got).isSome

/-- The largest exponent of this node's contributions to block b (R350). -/
def ColCtx.ownExp (x : ColCtx) (b : Nat) : Option (Option Int) :=
  match x.parts with
  | none => none
  | some ps => if !x.segmentIn ps b then none else
    let vs := ps.flatMap fun j => (List.range (Nat.min 32 (x.r.count - 32 * b))).map fun i => Tab.get none (32 * b + i) j.got
    (allSome vs).map fun raws => (raws.map fun w => expOf (decodeElem .long false w)).foldl maxExp none

/-- The exponent of block b that goes out on leg `upto`, or that the node ends with: from the root once it has come, else the
largest of its own and its children's. -/
def ColCtx.exp (x : ColCtx) (legs : List Leg) (upto b : Nat) : Option (Option Int) :=
  let got := (x.rxLegs legs upto b 2).map fun p => ((x.rxRec p.1 p.2 b).map unpackExp, p.2.peer)
  let par := (x.g.links x.root x.me).2
  match par, got.find? (fun q => match par with | some l => q.2 == l.node | none => false) with
  | some _, some q => q.1
  | _, _ =>
    match x.ownExp b, allSome (got.map (·.1)) with
    | some e, some es => some (es.foldl maxExp e)
    | _, _ => none

/-- L of R350. -/
def ColCtx.guard (x : ColCtx) : Nat := Nat.log2 (2 * x.g.n - 1) + 1

/-- A contribution rounded to a multiple of the block's quantum (R350). -/
def ColCtx.align (x : ColCtx) (e : Option Int) (v : XV) : XV :=
  match e, v with
  | some e, .fin s m k st => .fin s (roundAt .rne m k st (max (e + x.guard - 37) (-510))).1 (max (e + x.guard - 37) (-510)) false
  | _, v => v

/-- A block whose partial sums may overflow (R350). -/
def ColCtx.hot (x : ColCtx) (e : Option Int) : Bool := match e with | some e => decide (511 ≤ e + (x.guard : Int)) | none => false

/-- The operator on two partials, in long form (R347, R349). -/
def ColCtx.oper (x : ColCtx) (a b : XV × NumFlags) : XV × NumFlags :=
  match x.r.oper with
  | 1 => (a.1.max b.1, a.2.or b.2)
  | 2 => (a.1.min b.1, a.2.or b.2)
  | _ => addLong a b

/-- The node's own partial of element e (R347, R349, R350), once every member has contributed it. -/
def ColCtx.own (x : ColCtx) (legs : List Leg) (e : Nat) : Option (XV × NumFlags) :=
  match x.parts with
  | none => none
  | some ps =>
    match allSome (ps.map fun j => Tab.get none e j.got) with
    | none => none
    | some raws =>
      let vs := raws.map fun w => decodeElem x.g.wire false w
      if x.g.long && x.r.oper == 0 then
        match x.exp legs legs.length (e / 32) with
        | none => none
        | some k =>
          if vs.any XV.isNan then some (.nan, .none)
          else some (treeFold x.oper 17 (vs.map fun v => (x.align k v, NumFlags.none)))
      else if vs.any XV.isNan then some (.nan, .none)
      else some (treeFold x.oper 17 (vs.map fun v => (v, NumFlags.none)))

/-- The partial of element e before leg `upto`: the own one, then each received one in schedule order (R349). A sum that
reached 2^512 in a block that may overflow is left open (R350). -/
def ColCtx.red (x : ColCtx) (legs : List Leg) (upto e : Nat) : Option (XV × NumFlags) :=
  match x.own legs e, allSome ((x.rxLegs legs upto e 0).map fun p => x.rxRec p.1 p.2 e) with
  | some v, some raws =>
    let q := raws.foldl (fun a w => x.oper a (decodeElem x.g.wire false w, .none)) v
    let hot := x.g.long && x.r.oper == 0 && (match x.exp legs legs.length (e / 32) with | some k => x.hot k | none => false)
    if hot then
      let fl := q.2.or ⟨false, true, false, false⟩
      if q.2.of then some (unpackLong ((Config.freeBits (48 * (e + 1)) x.r.free).setWidth 48), fl) else some (q.1, fl)
    else some q
  | _, _ => none

/-- A value on the wire (R349, R350). -/
def ColCtx.toWire (x : ColCtx) (v : XV × NumFlags) : Nat × NumFlags :=
  if x.g.long then (v.1.packLong.toNat, v.2)
  else let q := encodeElem x.g.wire .rne false v.1; (q.1, v.2.or q.2)

/-! ### Ledger merge (R348) -/

/-- A partial result of a row: maximum, sum, count, output elements. -/
structure Part where
  mx    : XV
  sum   : XV × NumFlags
  count : Nat
  outs  : List (XV × NumFlags)

/-- Combine two partial results in long form (R348). -/
def Part.join (a b : Part) : Part :=
  let m := a.mx.max b.mx
  let scale (v : XV) : XV × NumFlags :=
    if v = .inf true then (.zero, .none)
    else
      let d := v.add m.neg
      let q := Fn.exp2.exact d.1
      longR (q.1, d.2.or q.2)
  let fa := scale a.mx
  let fb := scale b.mx
  let mix (p q : XV × NumFlags) : XV × NumFlags := addLong (mulLong p fa) (mulLong q fb)
  ⟨m, mix a.sum b.sum, satAdd 32 a.count b.count, (a.outs.zip b.outs).map fun p => mix p.1 p.2⟩

/-- Partial results of a node's members, in pairs (R112, R348). -/
def joinTree : Nat → List Part → Option Part
  | _, [] => none
  | _, [p] => some p
  | 0, p :: _ => some p
  | fuel + 1, l =>
    let rec pairs : List Part → List Part
      | a :: b :: t => a.join b :: pairs t
      | t => t
    joinTree fuel (pairs l)

/-- A ledger row as a partial's fields: of mode other than softmax it is empty (R348). -/
def ledgerPart (w : Nat) (outs : List XV) : Part :=
  let b : BitVec 256 := BitVec.ofNat 256 w
  if fld b 224 2 = 2 then
    ⟨unpackLong (bits b 0 48), (unpackLong (bits b 64 48), .none), fld b 192 32, outs.map fun v => (v, .none)⟩
  else ⟨.inf true, (.zero, .none), 0, outs.map fun v => (v, .none)⟩

/-- A merged ledger row (R109, R348). -/
def Part.ledger (p : Part) : Nat :=
  2 * 2 ^ 224 + p.count * 2 ^ 192 + p.sum.1.packLong.toNat * 2 ^ 64 + p.mx.packLong.toNat

/-- A row record: the output elements in the wire format, then the ledger row. -/
def ColCtx.rowRec (x : ColCtx) (p : Part) : Nat × NumFlags :=
  let w := x.elemBits
  let es := p.outs.map x.toWire
  (es.zipIdx.foldl (fun n q => n + q.1.1 * 2 ^ (q.2 * w)) (p.ledger * 2 ^ (x.width * w)), (orFlags es).or p.sum.2)

/-- A received row record as a partial result. -/
def ColCtx.recPart (x : ColCtx) (n : Nat) : Part :=
  let w := x.elemBits
  ledgerPart (n / 2 ^ (x.width * w)) ((List.range x.width).map fun j => decodeElem x.g.wire false (n / 2 ^ (j * w) % 2 ^ w))

/-- The partial result of row r before leg `upto`. -/
def ColCtx.row (x : ColCtx) (legs : List Leg) (upto r : Nat) : Option Part :=
  match x.parts with
  | none => none
  | some ps =>
    let own := allSome (ps.map fun j =>
      match Tab.get none r j.rows, allSome ((List.range x.width).map fun i => Tab.get none (r * x.width + i) j.got) with
      | some l, some es => some (ledgerPart l (es.map fun w => decodeElem x.g.wire false w))
      | _, _ => none)
    match own, allSome ((x.rxLegs legs upto r 0).map fun p => x.rxRec p.1 p.2 r) with
    | some os, some raws => (joinTree 17 os).map fun p => raws.foldl (fun a n => a.join (x.recPart n)) p
    | _, _ => none

/-! ### What a node holds of a record -/

/-- A copied element: the own member's, or one received (R344). -/
def ColCtx.copied (x : ColCtx) (legs : List Leg) (upto e : Nat) : Option Nat :=
  let own : Option Nat :=
    match x.g.nodes[x.me]? with
    | none => none
    | some nd =>
      let m := if x.r.op = .broadcast then x.r.root else e / x.r.count
      (x.r.joins.find? fun j => hasNat nd.cores j.core && x.g.member x.me j.core == m).bind fun j =>
        Tab.get none (if x.r.op = .broadcast then e else e % x.r.count) j.got
  match own with
  | some v => some v
  | none => (x.rxLegs legs upto e 0 ++ x.rxLegs legs upto e 1).findSome? fun p => x.rxRec p.1 p.2 e

/-- The record that the node holds in a stage before leg `upto`, as it travels, with the flags of forming it. -/
def ColCtx.record (x : ColCtx) (legs : List Leg) (upto stage r : Nat) : Option (Nat × NumFlags) :=
  if stage = 2 then (x.exp legs upto r).map fun e => (packExp e, .none)
  else if x.r.op.copies then (x.copied legs upto r).map fun v => (v, .none)
  else
    let down := if stage = 1 then x.rxLegs legs upto r 1 else []
    match down with
    | p :: _ => (x.rxRec p.1 p.2 r).map fun v => (v, .none)
    | [] =>
      let upto := if stage = 1 then legs.length else upto
      if x.merge then (x.row legs upto r).map x.rowRec else (x.red legs upto r).map x.toWire

/-- The result of a record once the operation's data has come. -/
def ColCtx.final (x : ColCtx) (legs : List Leg) (r : Nat) : Option (Nat × NumFlags) := x.record legs legs.length 1 r

/-- Every chunk of the receiving legs before `upto` has arrived: the condition to send when partials go whole (R352). -/
def ColCtx.arrivedBefore (x : ColCtx) (legs : List Leg) (upto : Nat) : Bool :=
  (legs.zipIdx.take upto).all fun p =>
    p.1.send || (x.legChunks p.1).all fun k => x.r.rx.any fun r => r.leg == p.2 && r.index == k

/-- The payload of chunk k of sending leg i, once everything in it is formed. -/
def ColCtx.payload (x : ColCtx) (legs : List Leg) (i : Nat) (l : Leg) (k : Nat) : Option Bytes :=
  if x.barrier then (if x.parts.isSome && x.arrivedBefore legs i then some [] else none)
  else if x.r.whole && l.stage != 2 && !x.arrivedBefore legs i then none
  else
    let b := x.chunkRange l k
    let w := x.recBits l.stage
    let r0 := 8 * b.1 / w
    let r1 := Nat.min l.hi (ceilDiv (8 * b.2) w)
    (allSome ((List.range (r1 - r0)).map fun j => x.record legs i l.stage (r0 + j))).map fun rs =>
      let n := rs.zipIdx.foldl (fun n q => n + q.1.1 * 2 ^ (q.2 * w)) 0
      toBytes (b.2 - b.1) (n / 2 ^ (8 * b.1 - r0 * w))

end Sys2Proof.Machine
end

