-- ==== Sys2Proof/Machine/Collective.lean ====
section
/-! DEFINITION. Collective engines (14_collectives.md): groups, operations at a node, chunks and windows, drains. -/

namespace Sys2Proof.Machine

/-! ### Registers (R365) -/

def rGrp (g o : Nat) : Nat := rCol (0x100 * g + o)
def rEng (i o : Nat) : Nat := rCol (0x8000 + 0x100 * i + o)

/-- COL_GRP_STAT.state. -/
def State.grpState (s : State) (g : Nat) : Nat := s.rf (rGrp g 0x20) 61 3

def State.setGrp (s : State) (g v : Nat) : State := s.setRf (rGrp g 0x20) 61 3 v

/-- Group g at compute die d. -/
def State.site (s : State) (g d : Nat) : ColSite := Tab.get ColSite.reset (4 * g + d) s.colSites

def State.modSite (s : State) (g d : Nat) (f : ColSite → ColSite) : State :=
  { s with colSites := Tab.put ColSite.reset (4 * g + d) (f (s.site g d)) s.colSites }

def State.modRun (s : State) (g d : Nat) (f : ColRun → ColRun) : State :=
  s.modSite g d fun x => { x with run := x.run.map f }

/-- The engine that serves a compute die (R22, R340). -/
def State.engOf (s : State) (d : Nat) : Nat := s.ioOf d

/-- The engine of I/O die i is READY. -/
def State.engReady (s : State) (i : Nat) : Bool := s.rf (rEng i 0) 30 2 == 1

/-- The context of the operation in progress. -/
def State.colCtx (s : State) (g d : Nat) : Option ColCtx :=
  match Tab.get none g s.colGrps, (s.site g d).run with
  | some grp, some r => (grp.nodeAt s.self d).map fun me => ⟨grp, r, me⟩
  | _, _ => none

/-- The wire format that issue checks a drain's output against: of a READY group (R118). -/
def State.wireFmt (s : State) (g : Nat) : Option Nat :=
  if s.grpState g = 2 then (Tab.get none g s.colGrps).map fun x => if x.long then 12 else if x.fp32 then 0 else 1 else none

/-- The group timeout in ms (R365). -/
def grpTimeout (v : Nat) : Nat := if v = 0 then 500 else Nat.min v 60000

/-! ### Slots (R355) -/

/-- Slots that an operation has reserved: `reserved` is one more than their number, 0 before they are (R355). -/
def ColRun.slots (r : ColRun) : Nat := r.reserved - 1

/-- Slots an engine has reserved. -/
def State.slotsUsed (s : State) (i : Nat) : Nat :=
  ((s.colSites.filter fun p => s.engOf (p.1 % 4) == i).map fun p => match p.2.run with | some r => r.slots | none => 0).sum

/-- COL_ENG_STAT.free_slots follows. -/
def State.freeSlots (s : State) (i : Nat) : State := s.setRf (rEng i 0) 0 14 (12288 - s.slotsUsed i)

/-- The nodes that send to a node under its schedule. -/
def senders (legs : List Leg) : List Nat := ((legs.filter fun l => !l.send).map (·.peer)).dedup

/-! ### Ends of operations (R358, R359, R362, R363) -/

/-- The opseq that the next operation of a group takes at this package. -/
def State.nextOpseq (s : State) (g v : Nat) : State := s.setRf (rGrp g 0x20) 27 8 v

/-- The drain stage of a matrix instruction names group g. -/
def drainsTo (e : QEntry) (f : MxF) (g : Nat) : Bool :=
  let d := e.chain f
  let st := d.stage (d.nstages - 1)
  mxFinish f && stageType st == 15 && fld st 104 4 == g

/-- The operation that the drain stage of a matrix instruction names (R118). -/
def drainOp (e : QEntry) (f : MxF) : ColOp :=
  let d := e.chain f
  if bit (d.stage (d.nstages - 1)) 103 then .allreduce else .reducescatter

/-- Drains of an ended operation complete without sending the rest, and so do those that wait to send their first row (R27). -/
def State.endDrains (s : State) (g c code : Nat) (op : ColOp) : State :=
  s.modCore c fun k => { k with mxRuns := k.mxRuns.map fun r => match r.entry.mx? with
    | some (_, f) =>
      if drainsTo r.entry f g && r.code == 0 && (0 < r.drained || (!r.waiting.isEmpty && drainOp r.entry f == op)) then
        { r with code := code, waiting := [] }
      else r
    | none => r }

/-- Elements that a member receives in dst_td, as (record of the buffer, place in dst_td) (R344, R348). -/
def ColCtx.takes (x : ColCtx) (core : Nat) : List (Nat × Nat) :=
  let m := x.g.member x.me core
  let whole (n : Nat) := (List.range n).map fun i => (i, i)
  if x.barrier then []
  else match x.r.op with
    | .allreduce => whole x.r.count
    | .allgather => whole (x.g.n * x.r.count)
    | .broadcast => if m = x.r.root then [] else whole x.r.count
    | .reduce => if m = x.r.root then whole x.r.count else []
    | .reducescatter =>
      let lo := x.bound m
      (List.range (x.bound (m + 1) - lo)).map fun i => (lo + i, i)
    | .barrier => []

/-- Element p of a tile in the order of R344. -/
def TD.elemAddr (t : TD) (p : Nat) : Option Nat :=
  let r := t.row + p / t.e0
  let c := t.col + p % t.e0
  if t.e0 ≠ 0 ∧ t.within r c 0 0 then some (t.addr r c 0 0) else none

/-- The least of a list of addresses, as a list. -/
def leastOf (l : List Nat) : List Nat :=
  match l with
  | [] => []
  | a :: t => [t.foldl Nat.min a]

/-- Bytes to be written, by address: the whole aligned blocks of HBM among them are sealed (R359). A block some of whose bytes nothing
holds is a silent access at the first of them (R41, R147). -/
def State.colWrite (s : State) (core : Nat) (cells : Tab (Option Byte)) : State :=
  let keys := (cells.map fun p => p.1 / 4096).dedup
  keys.foldl (fun t k =>
    let mine := cells.filter fun p => p.1 / 4096 == k
    let t := t.coreViol core (leastOf ((mine.map (·.1)).filter fun a => !s.populated a))
    let whole := mine.length == 4096 && (match region (4096 * k) with | .hbm _ _ => true | _ => false)
    if whole then t.store (4096 * k) (mine.map fun p => p.2.getD 0) true
    else mine.foldl (fun t p => t.store p.1 [p.2.getD 0] false) t) s

/-- Write raw elements at places of a destination descriptor; outside the extents they are dropped and counted (R161, R344). -/
def State.colElems (s : State) (core : Nat) (t : TD) (es : List (Nat × Nat)) : State :=
  let f := t.format
  let out := es.filterMap fun q => if (t.elemAddr q.1).isNone then some (t.addr (t.row + q.1 / t.e0) (t.col + q.1 % t.e0) 0 0) else none
  let cells := es.foldl (fun (cs : Tab (Option Byte)) q =>
    match t.elemAddr q.1 with
    | none => cs
    | some a =>
      let n := cellBytes f
      let sh := cellShift f (t.col + q.1 % t.e0)
      let old := ofBytes ((List.range n).map fun i => (Tab.get none (a + i) cs).getD (s.byte (a + i)))
      let m := (2 ^ f.width - 1) <<< sh
      let new := (old - (old &&& m)) + ((q.2 % 2 ^ f.width) <<< sh)
      (toBytes n new).zipIdx.foldl (fun cs b => Tab.put none (a + b.2) (some b.1) cs) cs) []
  (s.coreViol core out).colWrite core cells

/-- The contents of dst_td are left open (R363): each element that the member was to receive is free. -/
def State.colScramble (s : State) (x : ColCtx) (j : ColJoin) : State :=
  match j.entry.col? with
  | none => s
  | some (_, f) =>
    let t := j.entry.td f.dst.toNat
    let w := t.format.width
    ((x.takes j.core).foldl (fun t' p =>
      (t'.colElems j.core t [(p.2, (Config.freeBits w t'.freeIx).toNat)]).fresh) s)

/-- Whether every node of this package has ended the operations before `opseq` (R343). -/
def State.allPast (s : State) (g opseq : Nat) : Bool :=
  match Tab.get none g s.colGrps with
  | some grp => grp.nodes.all fun nd => nd.fid != s.self || (s.site g nd.die).opseq == opseq
  | none => true

/-- COL_END (R364, R454): group, opseq, code, engine state. -/
def State.colJournal (s : State) (g : Nat) : State := s.journalOpen 0x60 1 7 g

/-- The operation in progress at a node ends early with a code (R342, R357-R359, R363). -/
def State.colEnd (s : State) (g d code : Nat) : State :=
  match s.colCtx g d with
  | none => s
  | some x =>
    let left := x.r.joins.filter fun j => !j.done
    let t := if code = 0x40 then left.foldl (fun t j => t.colScramble x j) s else s
    let t := left.foldl (fun t j => t.finish j.core j.entry.seq code .none) t
    let t := x.r.joins.foldl (fun t j => t.endDrains g j.core code x.r.op) t
    let next := (x.r.opseq + 1) % 256
    let t := t.modSite g d fun y => { y with run := none, opseq := next, drains := [] }
    let t := { t with colWait := t.colWait.filter (· != 4 * g + d) }
    let t := (t.freeSlots (t.engOf d)).setRf (rGrp g 0x20) 0 8 code
    (t.bump (rGrp g 0x28) 16 16 1).colJournal g

/-- Instructions that wait in the engine complete with a code. -/
def State.colFlush (s : State) (g d code : Nat) : State :=
  ((s.site g d).waiting.foldl (fun t q => t.finish q.1 q.2.seq code .none) s).modSite g d fun y => { y with waiting := [] }

/-- An operation ends with PEER_ABSENT: the group is ABORTED at this package (R363). -/
def State.colAbort (s : State) (g d : Nat) : State :=
  if (s.colCtx g d).isSome then
    iter 4 (fun d t => t.colFlush g d 0x41) ((s.colEnd g d 0x40).setGrp g 3)
  else s

/-- An operation ended by R363 is counted in COL_ENG_CNT.timeouts. -/
def State.colLate (s : State) (g d : Nat) : State :=
  if (s.colCtx g d).isSome then (s.bump (rEng (s.engOf d) 8) 0 16 1).colAbort g d else s

/-! ### Groups (R340, R342) -/

/-- Tear a group down (R342): its operations end with PEER_ABSENT, and it is IDLE. -/
def State.colTeardown (s : State) (g : Nat) : State :=
  let t := iter 4 (fun d t => (t.colEnd g d 0x40).colFlush g d 0x41) s
  let t := t.setGrp g 0
  { t with colGrps := Tab.put none g none t.colGrps, colSites := Tab.clear (4 * g) 4 t.colSites }

/-- setup in COL_GRP_CTRL: the configuration is latched (R340, R342, R365). -/
def State.colSetup (s : State) (g : Nat) : State :=
  if s.grpState g = 1 || s.grpState g = 2 then s.setRbit (rGrp g 0x20) 56 true
  else
    let t := if s.grpState g = 3 then s.colTeardown g else s
    let c := t.reg (rGrp g 0x18)
    let sh := t.reg (rGrp g 0x10)
    let grp : ColGrp := ⟨t.rf (rGrp g 8) 0 43 / 64 * 64, fld sh 0 8, fld sh 8 8, fld sh 16 8, bit c 31, bit c 30, bit c 29,
      grpTimeout (fld c 0 16), t.rf (rGrp g 0x30) 0 12, []⟩
    ({ t with colGrps := Tab.put none g (some grp) t.colGrps }).setGrp g 1

/-- A write to COL_GRP_CTRL; teardown acts before setup (log 44). -/
def State.colCtrl (s : State) (g : Nat) (v : W64) : State :=
  let t := if bit v 30 then s.colTeardown g else s
  if bit v 31 then t.colSetup g else t

/-- COL_SETUP. -/
def execColSetup (g : Nat) (s : State) : Host.Outcome State Fault Refusal := ret (if g < 16 then s.colSetup g else s)

/-- COL_TEARDOWN. -/
def execColTeardown (g : Nat) (s : State) : Host.Outcome State Fault Refusal := ret (if g < 16 then s.colTeardown g else s)

/-- Engine source `who` reads blocks, each with how many of its bytes it reads: a whole block of HBM is verified, any other checked for
poison (R359). Whether the data may be used; none: a block is to be read a second time (R215). -/
def State.colRead (s : State) (who : Nat) (keys : List (Nat × Nat)) : State × Option Bool :=
  keys.foldl (fun p k =>
    let a := 4096 * k.1
    let q : State × Option Bool :=
      match region a with
      | .hbm _ _ =>
        if k.2 = 4096 then p.1.verifyBlock who a
        else if p.1.poisoned a then (p.1.reportPoison a, some false)
        else (p.1, some true)
      | _ => (p.1, some (!p.1.poisoned a))
    (q.1, match p.2, q.2 with | some x, some y => some (x && y) | _, _ => none)) (s, some true)

/-- Blocks of a range with how many of their bytes it holds. -/
def blocksOf (a n : Nat) : List (Nat × Nat) :=
  if n = 0 then []
  else (List.range ((a + n - 1) / 4096 - a / 4096 + 1)).map fun i =>
    let k := a / 4096 + i
    (k, Nat.min (a + n) (4096 * k + 4096) - Nat.max a (4096 * k))

/-- An entry repeats an earlier one's package and die. -/
def repeats : List ColNode → Bool
  | [] => false
  | x :: xs => xs.any (fun y => y.fid == x.fid && y.die == x.die) || repeats xs

/-- Format conditions of an operation in a group (R345, R348, R360). -/
def colFmtBad (g : ColGrp) (e : QEntry) (op : ColOp) (f : ColF) : Bool :=
  let a := e.td f.src.toNat
  let b := e.td f.dst.toNat
  if op = .barrier ∨ f.count = 0 then false
  else if op.copies then a.fmt != b.fmt || a.mx != b.mx
  else
    let w := if g.long then 12 else if g.fp32 then 0 else 1
    a.fmt != w || a.mx || b.mx
      || (if g.long then !(b.fmt == 12 || b.fmt == 0 || b.fmt == 1) else !(b.fmt == w || b.fmt == 0 || b.fmt == 12))
      || (f.oper == 3 && (a.e0 == 0 || f.count.toNat % a.e0 != 0))
      || (g.feed && (op == .allreduce || op == .reducescatter) && f.count.toNat != a.e0 * a.e1)

/-- The elements an operation writes at one member (R344). -/
def colWrites (g : ColGrp) (op : ColOp) (count : Nat) : Nat := if op = .allgather then g.n * count else count

/-- An instruction that its group turns away (R346). -/
def State.colRefused (s : State) (g : ColGrp) (core : Nat) (e : QEntry) (op : ColOp) (f : ColF) : Bool :=
  let member := match g.nodeAt s.self (core / 16) with
    | some i => (match g.nodes[i]? with | some nd => hasNat nd.cores core | none => false)
    | none => false
  !member || ((op == .reduce || op == .broadcast) && g.n ≤ f.root.toNat) || (2 ^ 32 - 1 < colWrites g op f.count.toNat)
    || colFmtBad g e op f

/-- Those of the instructions waiting at a node that the group turns away complete with NO_GROUP. -/
def State.colAdmit (s : State) (g d : Nat) : State :=
  match Tab.get none g s.colGrps with
  | none => s
  | some grp =>
    let bad (q : Nat × QEntry) : Bool := match q.2.col? with
      | some (op, f) => s.colRefused grp q.1 q.2 op f
      | none => true
    let w := (s.site g d).waiting
    ((w.filter bad).foldl (fun t q => t.finish q.1 q.2.seq 0x41 .none) s).modSite g d fun y => { y with waiting := w.filter fun q => !bad q }

/-- COL_SETUP_DONE: the table is read and checked; READY, or IDLE with an error (R342). A block that fails its check for the first time
is read again when the command comes again (R215). -/
def execColSetupDone (g : Nat) (s : State) : Host.Outcome State Fault Refusal :=
  ret (match Tab.get none g s.colGrps with
    | none => s
    | some grp =>
      if s.grpState g ≠ 1 then s
      else
        let n := grp.nx * grp.ny * grp.nz
        let fail (t : State) (cause : Nat) : State :=
          let t := iter 4 (fun d t => t.colFlush g d 0x41) t
          (({ t with colGrps := Tab.put none g none t.colGrps }).setGrp g 0).setRf (rGrp g 0x20) 57 4 cause
        if n = 0 || 16384 < n then fail s 2
        else
          let q := s.colRead (640 + g) (blocksOf grp.base (8 * n))
          match q.2 with
          | none => { s with rechecks := q.1.rechecks }
          | some false => fail q.1 1
          | some true =>
            let s := q.1
            let nodes := (List.range n).map fun i =>
              let w : BitVec 64 := BitVec.ofNat 64 (s.readN (grp.base + 8 * i) 8)
              (⟨bits w 0 16, fld w 16 2, bits w 32 16⟩ : ColNode)
            let grp := { grp with nodes := nodes }
            let mine := (List.range 4).filter fun d => (grp.nodeAt s.self d).isSome
            if nodes.any (fun x => x.mask == 0 || (x.fid == s.self && !s.hasDie x.die)) || repeats nodes then fail s 3
            else if mine.isEmpty then fail s 4
            else if 65536 < grp.n then fail s 5
            else
              let t := { s with colGrps := Tab.put none g (some grp) s.colGrps }
              let t := (t.setGrp g 2).setRf (rGrp g 0x20) 57 4 0
              let t := (t.setRf (rGrp g 0x20) 39 17 grp.n).setRf (rGrp g 0x20) 35 4 ((mine.map fun d => 2 ^ d).sum)
              iter 4 (fun d t => t.colAdmit g d) (t.nextOpseq g 0))

/-! ### Issue (R145, R183, R345) -/

/-- Illegal field of a collective instruction: oper or count where the row has none (R183). -/
def colIllegal (op : ColOp) (f : ColF) : Bool :=
  ((op == .allgather || op == .broadcast || op == .barrier) && f.oper != 0) || (op == .barrier && f.count != 0)

/-- Descriptor format error of a collective instruction (R163, R345). -/
def State.colBad (s : State) (op : ColOp) (f : ColF) (e : QEntry) : Bool :=
  let g := f.group.toNat
  if op == .barrier || f.count == 0 then false
  else
    e.tdBad (e.td f.src.toNat) || e.tdBad (e.td f.dst.toNat) || (f.oper == 3 && e.tdBad (e.td f.aux.toNat))
      || (match Tab.get none g s.colGrps with | some grp => s.grpState g == 2 && colFmtBad grp e op f | none => false)

/-- Issue a collective instruction. -/
def issueCol (op : ColOp) (c : Nat) (f : ColF) (s : State) : Host.Outcome State Fault Refusal :=
  ret (issueQ c (.col op f) (colIllegal op f) (s.colBad op f) s)

/-- ALLREDUCE. -/
def execAllreduce (c : Nat) (f : ColF) (s : State) : Host.Outcome State Fault Refusal := issueCol .allreduce c f s
/-- REDUCESCATTER. -/
def execReducescatter (c : Nat) (f : ColF) (s : State) : Host.Outcome State Fault Refusal := issueCol .reducescatter c f s
/-- ALLGATHER. -/
def execAllgather (c : Nat) (f : ColF) (s : State) : Host.Outcome State Fault Refusal := issueCol .allgather c f s
/-- BROADCAST. -/
def execBroadcast (c : Nat) (f : ColF) (s : State) : Host.Outcome State Fault Refusal := issueCol .broadcast c f s
/-- REDUCE. -/
def execReduce (c : Nat) (f : ColF) (s : State) : Host.Outcome State Fault Refusal := issueCol .reduce c f s
/-- BARRIER. -/
def execBarrier (c : Nat) (f : ColF) (s : State) : Host.Outcome State Fault Refusal := issueCol .barrier c f s

/-! ### Operations at a node (R343, R344, R359) -/

/-- Element p of a source descriptor: its raw bits and its cell; outside the extents it is zero (R161, R344). -/
def State.colElem (s : State) (t : TD) (p : Nat) : Nat × Option (Nat × Nat) :=
  match t.elemAddr p with
  | some a =>
    let n := cellBytes t.format
    ((s.readN a n >>> cellShift t.format (t.col + p % t.e0)) % 2 ^ t.format.width, some (a, n))
  | none => (0, none)

/-- Count the bytes of each block that cells hold. -/
def cellBlocks (cells : List (Nat × Nat)) : List (Nat × Nat) :=
  let bytes := (cells.flatMap fun c => (List.range c.2).map (c.1 + ·)).dedup
  ((bytes.map (· / 4096)).dedup).map fun k => (k, (bytes.filter (· / 4096 == k)).length)

/-- Whether a member's contribution comes from drains (R360). -/
def drainFed (g : ColGrp) (r : ColRun) : Bool := g.feed && (r.op == .allreduce || r.op == .reducescatter) && r.count != 0

/-- An instruction differs from the operation in progress (R343). -/
def ColRun.differs (r : ColRun) (e : QEntry) : Bool :=
  match e.col? with
  | some (op, f) => op != r.op || f.oper.toNat != r.oper || f.count.toNat != r.count || f.root.toNat != r.root
  | none => true

/-- A member's contribution in memory (R344, R348): its raw elements, its ledger rows, the cells that hold them, and the elements of
src_td outside its extents. -/
def State.colSource (s : State) (x : ColCtx) (core : Nat) (e : QEntry) :
    Tab (Option Nat) × Tab (Option Nat) × List (Nat × Nat) × List Nat :=
  match e.col? with
  | none => ([], [], [], [])
  | some (op, f) =>
    let none' := x.barrier || drainFed x.g x.r || (op == .broadcast && x.g.member x.me core != x.r.root)
    let t := e.td f.src.toNat
    let es := if none' then [] else (List.range x.r.count).map fun p => (p, s.colElem t p)
    let lost := es.filterMap fun q => if q.2.2.isNone then some (t.addr (t.row + q.1 / t.e0) (t.col + q.1 % t.e0) 0 0) else none
    let aux := e.td f.aux.toNat
    let rows := if x.merge && t.e0 != 0 then (List.range (x.r.count / t.e0)).map fun j =>
        let a := aux.addr (aux.row + j) aux.col 0 0
        (j, s.readN a 32, a) else []
    (es.foldl (fun (k : Tab (Option Nat)) q => Tab.put none q.1 (some q.2.1) k) [],
     rows.foldl (fun (k : Tab (Option Nat)) q => Tab.put none q.1 (some q.2.1) k) [],
     es.filterMap (fun q => q.2.2) ++ rows.map fun q => (q.2.2, 32), lost)

/-- The engine reads a member's source (R359): what it has not, or outside its extents, counts as silent accesses of the core. -/
def State.colGather (s : State) (g d core : Nat) (e : QEntry) : State × Option Bool :=
  match s.colCtx g d with
  | none => (s, some true)
  | some x =>
    let q := s.colSource x core e
    let holes := q.2.2.1.filterMap fun c => ((List.range c.2).map (c.1 + ·)).find? fun a => !s.populated a
    let v := (s.coreViol core (q.2.2.2 ++ holes)).colRead (512 + core) (cellBlocks q.2.2.1)
    (v.1.modRun g d fun r => { r with joins := r.joins.map fun j => if j.core = core then { j with got := q.1, rows := q.2.1 } else j },
     v.2)

/-- The instructions that take part in an operation: the first of each core that is not in `seen`; and the others. -/
def firstOfCores : List (Nat × QEntry) → List Nat → List (Nat × QEntry) × List (Nat × QEntry)
  | [], _ => ([], [])
  | q :: qs, seen =>
    let r := firstOfCores qs (q.1 :: seen)
    if hasNat seen q.1 then (r.1, q :: r.2) else (q :: r.1, r.2)

/-- The members whose instructions wait join the operation in progress, and their sources are read (R343, R344, R359). One that differs
ends it with PEER_ABSENT. A source that fails ends it with BAD_BUS; so does a parity error, which stops the owning core (R146). While a
block is to be read a second time, they wait (R215). -/
def State.colTake (s : State) (g d : Nat) (bad : Option (Nat × Nat)) : State :=
  match s.colCtx g d with
  | none => s
  | some x =>
    let q := firstOfCores (s.site g d).waiting (x.r.joins.map (·.core))
    let t := (s.modSite g d fun y => { y with waiting := q.2 }).modRun g d fun r =>
      { r with joins := r.joins ++ q.1.map fun p => (⟨p.1, p.2, [], [], false⟩ : ColJoin) }
    if q.1.isEmpty then s
    else if q.1.any fun p => x.r.differs p.2 then t.colAbort g d
    else
      let v := q.1.foldl (fun (a : State × Option Bool) p =>
        let b := a.1.colGather g d p.1 p.2
        (b.1, match a.2, b.2 with | some u, some w => some (u && w) | _, _ => none)) (t, some true)
      match bad, v.2 with
      | some p, _ => (v.1.parityFault p.1 6 0 (.other p.1 p.2)).colEnd g d 0x30
      | none, some true => v.1
      | none, some false => v.1.colEnd g d 0x30
      | none, none => { s with rechecks := v.1.rechecks }

/-- A collective instruction reaches its engine (R343, R346): a code when it completes at once. It waits, or joins the operation in
progress; `bad` as in `colTake`. -/
def State.colArrive (s : State) (c : Nat) (e : QEntry) (op : ColOp) (f : ColF) (bad : Option (Nat × Nat)) : State × Option Nat :=
  let g := f.group.toNat
  let d := c / 16
  if s.grpState g = 0 || s.grpState g = 3 then (s, some 0x41)
  else if s.grpState g = 2 && (match Tab.get none g s.colGrps with | some grp => s.colRefused grp c e op f | none => true) then
    (s, some 0x41)
  else
    let t := s.modSite g d fun y => { y with waiting := y.waiting ++ [(c, e)] }
    match (s.site g d).run with
    | some r => if r.joins.any (fun j => j.core == c) then (t, none) else (t.colTake g d bad, none)
    | none => (t, none)

/-- The operation that the first waiting instruction of a node begins: its algorithm (R352), and the window of its senders (R355). -/
def State.colBegin (s : State) (g d : Nat) (grp : ColGrp) (e : QEntry) (op : ColOp) (f : ColF) : State :=
  let y := s.site g d
  let bytes := if op.copies then ceilDiv (f.count.toNat * (e.td f.src.toNat).format.width) 8
    else f.count.toNat * grp.wire.width / 8
  let ringMin := s.rf (rCol 0x1000) 32 32
  let treeMax := Nat.min (s.rf (rCol 0x1000) 0 32) ringMin
  let tree := f.oper == 3 || op == .barrier || f.count == 0 || op == .reduce || op == .broadcast
  let r : ColRun := { opseq := y.opseq, op := op, oper := f.oper.toNat, count := f.count.toNat, root := f.root.toNat,
                      ring := !tree && ringMin < bytes, whole := bytes ≤ treeMax, reserved := 0, win := s.window 4, since := s.time,
                      joins := [], rx := [], tx := [], peers := [], fails := [], free := s.freeIx }
  let t := ((s.fresh).modSite g d fun y => { y with run := some r }).nextOpseq g ((y.opseq + 1) % 256)
  { t with colWait := t.colWait ++ [4 * g + d] }

/-- COL_OP_START: the next operation starts at a node and requests its slots, and the members that have arrived join; for one already
started, the members that wait for a second read join (R343, R352, R355). -/
def execColOpStart (g : Nat) (x : NodeStart) (s : State) : Host.Outcome State Fault Refusal :=
  ret (match Tab.get none g s.colGrps, (s.site g x.die).waiting with
    | some grp, (c, e) :: _ =>
      match e.col? with
      | some (op, f) =>
        if g < 16 && x.die < 4 && s.grpState g == 2 && (grp.nodeAt s.self x.die).isSome then
          let t := if (s.site g x.die).run.isNone then s.colBegin g x.die grp e op f else s
          t.colTake g x.die (x.par.bind (parityAt · c))
        else s
      | none => s
    | _, _ => s)

/-! ### Chunks (R355-R358) -/

/-- A CHUNK packet (R356). -/
def State.chunk (s : State) (g : ColGrp) (gn d node sub stage slot index opseq : Nat) (low : W64) (payload : Bytes) : Packet :=
  let nd := nth ⟨0, 0, 0⟩ g.nodes node
  { Packet.blank with
      kind := 5, pclass := 4, dst := nd.fid, dstIo := nd.die, src := s.self, srcIo := s.engOf d,
      body := BitVec.ofNat 128 (sub * 2 ^ 125 + gn * 2 ^ 121 + stage * 2 ^ 119 + slot * 2 ^ 109 + g.tag * 2 ^ 97 + index * 2 ^ 72
        + opseq * 2 ^ 64 + low.toNat),
      payload := payload, len := payload.length }

def kSub (k : Packet) : Nat := fld k.body 125 3
def kGrp (k : Packet) : Nat := fld k.body 121 4
def kStage (k : Packet) : Nat := fld k.body 119 2
def kSlot (k : Packet) : Nat := fld k.body 109 10
def kTag (k : Packet) : Nat := fld k.body 97 12
def kIndex (k : Packet) : Nat := fld k.body 72 24
def kOpseq (k : Packet) : Nat := fld k.body 64 8

/-- Drop a chunk at the engine that serves a die (R343, R356). -/
def State.colViol (s : State) (d : Nat) : State := s.bump (rEng (s.engOf d) 0x10) 0 32 1

/-- Send a chunk; one for a node of this package waits in `arrived` like one from the fabric. An operation whose chunk has no
route ends (R363). -/
def State.colSend (s : State) (g d : Nat) (k : Packet) : State :=
  if !s.engReady (s.engOf d) then s
  else if k.dst = s.self then { s with arrived := s.arrived ++ [(s.engOf k.dstIo, k.closed)] }
  else
    let r := s.inject (s.engOf d) k .none
    if r.2 then r.1 else r.1.colLate g d

/-- A residue mismatch count of an engine's arithmetic (R358): absorbed, or the engine fails. -/
def State.colResidue (s : State) (d n : Nat) : State :=
  let i := s.engOf d
  if n = 0 then s
  else if n < 3 then (s.bump (rEng i 8) 48 16 n).journalOpen 0x61 0 5 i
  else
    let t := (s.setRf (rEng i 0) 30 2 2).setRbit (rBoot 0x118) (16 + i) false
    let t := iter 16 (fun g t => iter 4 (fun d' t => if t.engOf d' = i then t.colEnd g d' 0x30 else t) t) t
    (t.journalOpen 0x60 1 5 i).mapChange

/-- The nodes that a chunk may come from: its package, and a die that the engine named serves (R301, R356). -/
def State.sendersOf (s : State) (g : ColGrp) (k : Packet) : List Nat :=
  (List.range g.nodes.length).filter fun i =>
    match g.nodes[i]? with
    | some nd => nd.fid == k.src && s.engOf nd.die == k.srcIo
    | none => false

/-- The leg that an arriving chunk belongs to: the first receiving leg from its sender and stage that still lacks that index. -/
def ColCtx.legFor (x : ColCtx) (legs : List Leg) (srcs : List Nat) (stage index : Nat) : Option (Nat × Leg) :=
  (legs.zipIdx.find? fun p => !p.1.send && hasNat srcs p.1.peer && p.1.stage == stage && hasNat (x.legChunks p.1) index
    && !(x.r.rx.any fun r => r.leg == p.2 && r.index == index)).map fun p => (p.2, p.1)

/-- A verified chunk is consumed, or dropped where no buffer holds it; its slot goes back to its sender (R343, R355, R357). -/
def State.colConsume (s : State) (g d : Nat) (k : Packet) (residue : Nat) : State :=
  match s.colCtx g d with
  | none => s
  | some x =>
    let legs := x.legs
    match x.legFor legs (s.sendersOf x.g k) (kStage k) (kIndex k) with
    | none => s.colViol d
    | some (i, l) =>
      let b := x.chunkRange l (kIndex k)
      if k.payload.length ≠ b.2 - b.1 ∧ !x.barrier then s.colViol d
      else
        let t := s.colResidue d residue
        if (t.colCtx g d).isNone then t
        else
          let t := t.modRun g d fun r => { r with rx := r.rx ++ [(⟨i, kIndex k, k.payload⟩ : ColRx)],
                                                  fails := r.fails.filter fun f => f.1 != l.peer * 1024 + kSlot k }
          t.colSend g d (t.chunk x.g g d l.peer 1 (kStage k) (kSlot k) (kIndex k) (kOpseq k) 1 [])

/-- A chunk that fails its check (R357): asked for again, or at the third failing copy the operation ends. -/
def State.colBadCheck (s : State) (g d : Nat) (k : Packet) : State :=
  match s.colCtx g d with
  | none => s
  | some x =>
    match (s.sendersOf x.g k).head? with
    | none => s.colViol d
    | some n =>
      let key := n * 1024 + kSlot k
      let old := ((x.r.fails.find? fun f => f.1 == key).map (·.2)).getD 0
      let i := s.engOf d
      if 2 ≤ old then s.colLate g d
      else
        let t := s.modRun g d fun r => { r with fails := (key, old + 1) :: r.fails.filter fun f => f.1 != key }
        (t.bump (rEng i 8) 32 16 1).colSend g d (t.chunk x.g g d n 2 (kStage k) (kSlot k) (kIndex k) (kOpseq k) 0 [])

/-- A chunk names a READY group by grp and gtag, with a stage that is not reserved, at a die that is a node of it (R356). -/
def State.colKnown (s : State) (k : Packet) : Bool :=
  s.grpState (kGrp k) == 2 && kStage k != 3 && (match Tab.get none (kGrp k) s.colGrps with
    | some grp => grp.tag == kTag k && (grp.nodeAt s.self k.dstIo).isSome
    | none => false)

/-- The window that the receiver has reserved for a chunk's sender (R355); for an operation not yet started, the one it will reserve. -/
def State.colWindow (s : State) (k : Packet) : Nat :=
  match s.colCtx (kGrp k) k.dstIo with
  | some x =>
    if kOpseq k ≠ x.r.opseq then s.window 4
    else if (s.sendersOf x.g k).any fun n => hasNat (senders x.legs) n then x.r.win else 0
  | none => s.window 4

/-- A DATA or EXPONENT chunk arrives at a node (R356, R357). -/
def State.colData (s : State) (k : Packet) (residue : Nat) : State :=
  let g := kGrp k
  let d := k.dstIo
  match Tab.get none g s.colGrps with
  | none => s.colViol d
  | some grp =>
    if !s.colKnown k || 3 < kSub k || s.colWindow k ≤ kSlot k then s.colViol d
    else
      let y := s.site g d
      let ahead := (kOpseq k + 256 - y.opseq) % 256
      let running := ahead == 0 && (match y.run with | some r => r.reserved != 0 | none => false)
      if 128 ≤ ahead then
        match (s.sendersOf grp k).head? with
        | some n => (s.colViol d).colSend g d (s.chunk grp g d n 1 (kStage k) (kSlot k) (kIndex k) (kOpseq k) 1 [])
        | none => s.colViol d
      else if !running then s.modSite g d fun y => { y with early := y.early ++ [(some residue, k)] }
      else if crc64 (k.payload.take k.len) != bits k.body 0 64 then s.colBadCheck g d k
      else s.colConsume g d k residue

/-- The group timeout of an operation restarts at each DATA chunk and GRANT received for it (R363). -/
def State.colHeard (s : State) (k : Packet) : State :=
  match s.colCtx (kGrp k) k.dstIo with
  | some x => if s.colKnown k && kOpseq k == x.r.opseq then s.modRun (kGrp k) k.dstIo fun r => { r with since := s.time } else s
  | none => s

/-- A packet has been taken from its engine's arrivals. -/
def State.taken (s : State) (k : Packet) : State := { s with arrived := s.arrived.erase (s.engOf k.dstIo, k) }

/-- DATA; a chunk with a reserved sub is taken here, and dropped (R356). -/
def execData (k : Packet) (residue : Nat) (s : State) : Host.Outcome State Fault Refusal :=
  let s := s.taken k
  ret (if k.kind = 5 ∧ k.dstIo < 4 ∧ (kSub k = 0 ∨ 3 < kSub k) then (s.colHeard k).colData k residue else s)

/-- EXPONENT (R350). -/
def execExponent (k : Packet) (s : State) : Host.Outcome State Fault Refusal :=
  let s := s.taken k
  ret (if k.kind = 5 ∧ k.dstIo < 4 ∧ kSub k = 3 then s.colData k 0 else s)

/-- GRANT: window indices return to the sender (R355, R356). -/
def State.colGrant (s : State) (k : Packet) : State :=
  let g := kGrp k
  let d := k.dstIo
  if !s.colKnown k then s.colViol d
  else match s.colCtx g d with
  | none => s
  | some x =>
    if kOpseq k ≠ x.r.opseq then s
    else
      let w := x.r.win
      let n := fld k.body 0 16
      let given (o : ColOut) : Bool := decide ((o.slot + w - kSlot k % w) % w < n)
      let srcs := s.sendersOf x.g k
      let ret' (p : ColPeer) : ColPeer := if hasNat srcs p.node then { p with sent := p.sent.filter fun o => !given o } else p
      s.modRun g d fun r => { r with peers := r.peers.map ret' }

/-- GRANT. -/
def execGrant (k : Packet) (s : State) : Host.Outcome State Fault Refusal :=
  let s := s.taken k
  ret (if k.kind = 5 ∧ k.dstIo < 4 ∧ kSub k = 1 then (s.colHeard k).colGrant k else s)

/-- REREQ: the retained copy goes out again; ignored once its slot has been granted back (R357, R366). -/
def State.colRereq (s : State) (k : Packet) : State :=
  let g := kGrp k
  let d := k.dstIo
  if !s.colKnown k then s.colViol d
  else
    let t := s.bump (rEng (s.engOf d) 8) 16 16 1
    match s.colCtx g d with
    | none => t
    | some x =>
      if kOpseq k ≠ x.r.opseq then t
      else
        let srcs := s.sendersOf x.g k
        match (x.r.peers.filter fun p => hasNat srcs p.node).findSome? fun p =>
            (p.sent.find? fun o => o.slot == kSlot k && o.index == kIndex k).map fun o => (p.node, o) with
        | some (n, o) => t.colSend g d (t.chunk x.g g d n o.sub o.stage o.slot o.index x.r.opseq (crc64 o.payload) o.payload)
        | none => t

/-- REREQ. -/
def execRereq (k : Packet) (s : State) : Host.Outcome State Fault Refusal :=
  let s := s.taken k
  ret (if k.kind = 5 ∧ k.dstIo < 4 ∧ kSub k = 2 then s.colRereq k else s)

/-- Chunks held for an operation that may now consume them (R356). -/
def State.colEarly (s : State) (g d : Nat) : State :=
  let held := (s.site g d).early
  held.foldl (fun t q => t.colData q.2 (q.1.getD 0)) (s.modSite g d fun y => { y with early := [] })

/-- COL_SLOT_RESERVE: the operation at the head of its engine's requests takes its windows (R355). -/
def execColSlotReserve (g d : Nat) (s : State) : Host.Outcome State Fault Refusal :=
  ret (match s.colCtx g d with
    | none => s
    | some x =>
      let i := s.engOf d
      let ahead := (s.colWait.takeWhile (· != 4 * g + d)).any fun k => s.engOf (k % 4) == i
      let need := (senders x.legs).length * x.r.win
      if hasNat s.colWait (4 * g + d) && !ahead && s.slotsUsed i + need ≤ 12288 then
        let t := ({ s with colWait := s.colWait.filter (· != 4 * g + d) }).modRun g d fun r => { r with reserved := need + 1 }
        (t.freeSlots i).colEarly g d
      else s)

/-- An earlier leg to the same node has still to send its chunk of the same stage and index: chunks that only their order tells apart
keep it. -/
def ColCtx.behind (x : ColCtx) (legs : List Leg) (i : Nat) (l : Leg) (k : Nat) : Bool :=
  (legs.zipIdx.take i).any fun q => q.1.send && q.1.peer == l.peer && q.1.stage == l.stage && hasNat (x.legChunks q.1) k
    && !(x.r.tx.any fun t => t == (q.2, k))

/-- The next chunk that a node may send: in schedule order, formed, and with a free window index at its receiver (R355). -/
def ColCtx.nextChunk (x : ColCtx) (legs : List Leg) : Option (Nat × Leg × Nat × Bytes) :=
  let open' (n : Nat) : Bool := (x.r.peers.filter fun p => p.node == n).all fun p => !(p.sent.any fun o => o.slot == p.next % x.r.win)
  (legs.zipIdx.filter fun p => p.1.send).findSome? fun (p : Leg × Nat) =>
    match (x.legChunks p.1).find? fun k => !(x.r.tx.any fun t => t == (p.2, k)) with
    | some k =>
      if open' p.1.peer && !x.behind legs p.2 p.1 k then (x.payload legs p.2 p.1 k).map fun b => (p.2, p.1, k, b) else none
    | none => none

/-- The output by which a chunk to a package leaves an engine: a port, or 32 + engine for its own package. -/
def State.colPort (s : State) (d : Nat) (x : ColCtx) (g node : Nat) : Nat :=
  let k := s.chunk x.g g d node 0 0 0 0 0 0 []
  match s.exit ⟨32 + s.engOf d, 4, false, 0, k⟩ with
  | some (p, _) => p
  | none => 32 + s.engOf d

/-- The outputs at which the operation of a group at a die has a chunk to send. -/
def State.colOffer (s : State) (g d : Nat) : Option Nat :=
  match s.colCtx g d with
  | none => none
  | some x => if x.r.reserved = 0 then none else (x.nextChunk x.legs).map fun q => s.colPort d x g q.2.1.peer

/-- It is the turn of group g at an output of an engine: round robin, one chunk per group (R355). -/
def State.colTurnOf (s : State) (i g port : Nat) : Bool :=
  let first := Tab.get 0 (64 * i + port) s.colTurn
  let place (n : Nat) : Nat := (n + 16 - first) % 16
  (List.range 16).all fun n => place g ≤ place n || (List.range 4).all fun d => s.engOf d != i || s.colOffer n d != some port

/-- CHUNK_SEND: the engine sends the next chunk of a group whose turn it is, into a slot that it holds (R355, R357). -/
def execChunkSend (g d : Nat) (s : State) : Host.Outcome State Fault Refusal :=
  ret (if s.pwrFail then s else match s.colCtx g d with
    | none => s
    | some x =>
      if x.r.reserved = 0 || !s.engReady (s.engOf d) then s
      else
        match x.nextChunk x.legs with
        | none => s
        | some (i, l, k, b) =>
          let port := s.colPort d x g l.peer
          if !s.colTurnOf (s.engOf d) g port then s
          else
            let p : ColPeer := (x.r.peers.find? fun p => p.node == l.peer).getD ⟨l.peer, 0, []⟩
            let slot := p.next % x.r.win
            let sub := if l.stage = 2 then 3 else 0
            let p' : ColPeer := { p with next := (slot + 1) % x.r.win, sent := p.sent ++ [(⟨slot, sub, l.stage, k, b⟩ : ColOut)] }
            let t := s.modRun g d fun r => { r with tx := (i, k) :: r.tx, peers := p' :: r.peers.filter fun q => q.node != l.peer }
            let t := { t with colTurn := Tab.put 0 (64 * s.engOf d + port) ((g + 1) % 16) t.colTurn }
            t.colSend g d (t.chunk x.g g d l.peer sub l.stage slot k x.r.opseq (crc64 b) b))

/-! ### Fan-out (R361) -/

/-- The formed chunks of distribution that wait for a node: index and payload. -/
def ColCtx.waitsFor (x : ColCtx) (legs : List Leg) (n : Nat) : List (Nat × Bytes) :=
  (legs.zipIdx.filter fun p => p.1.send && p.1.stage == 1 && p.1.peer == n).flatMap fun p =>
    (x.legChunks p.1).filterMap fun k =>
      if x.r.tx.any fun t => t == (p.2, k) then none else (x.payload legs p.2 p.1 k).map fun b => (k, b)

/-- At least 64 KiB of identical chunks of one operation of group g wait for two nodes that ports p and q reach (R361). -/
def State.fanWanted (s : State) (g i p q : Nat) : Bool :=
  (List.range 4).any fun d => s.engOf d == i && (match s.colCtx g d with
    | none => false
    | some x =>
      let legs := x.legs
      let at' (port : Nat) : List Nat := ((legs.filter fun l => l.send && l.stage == 1).map (·.peer)).dedup.filter fun n =>
        s.colPort d x g n == port
      (at' p).any fun a => (at' q).any fun b =>
        65536 ≤ (((x.waitsFor legs a).filter fun c => (x.waitsFor legs b).any fun e => e == c).map fun c => c.2.length).sum)

/-- FANOUT_REQUEST (R289, R361): the engine requests a fan-out for an operation of group g; COL_GRP_CNT.fanouts counts those applied. -/
def execFanoutRequest (g i p q : Nat) (s : State) : Host.Outcome State Fault Refusal :=
  ret (if g < 16 && s.fanWanted g i p q then
      let r := s.fanOut i p q
      if r.2 then r.1.bump (rCol (0x100 * g + 0x28)) 0 16 1 else r.1
    else s)

/-! ### Timeout and loss (R363) -/

/-- COL_GROUP_TIMEOUT: the count has reached the group's timeout. -/
def execColGroupTimeout (g d : Nat) (s : State) : Host.Outcome State Fault Refusal :=
  ret (match s.colCtx g d with
    | some x => if g < 16 && d < 4 && x.g.timeout * 1000000 ≤ (s.time - x.r.since).toNat then s.colLate g d else s
    | none => s)

/-- The transport gave up a chunk (R307, R363). -/
def State.colLost (s : State) (io : Nat) (k : Packet) : State :=
  let g := kGrp k
  iter 4 (fun d t =>
    match t.colCtx g d with
    | some x => if t.engOf d = io ∧ x.r.opseq = kOpseq k ∧ x.g.tag = kTag k then t.colLate g d else t
    | none => t) s

/-! ### Completion (R362) -/

/-- Convert a result to the destination's format (R345). -/
def ColCtx.toDst (x : ColCtx) (t : TD) (raw : Nat) : Nat × NumFlags :=
  if x.r.op.copies then (raw, .none) else encodeElem t.format .rne false (decodeElem x.g.wire false raw)

/-- Every chunk that the node sends has been sent, and granted back (R362). -/
def ColCtx.granted (x : ColCtx) (legs : List Leg) : Bool :=
  (legs.zipIdx.all fun p => !p.1.send || (x.legChunks p.1).all fun k => x.r.tx.any fun t => t == (p.2, k)) &&
  x.r.peers.all fun p => p.sent.isEmpty

/-- Everything that the node is to receive has come, and everything that it sends has been granted back (R362). -/
def ColCtx.settled (x : ColCtx) (legs : List Leg) : Bool := x.arrivedBefore legs legs.length && x.granted legs

/-- The conditions on which a member's instruction signals (R362): of one that receives nothing, the last two; of a BARRIER, that the
distribution reaches its node. -/
def ColCtx.mayEnd (x : ColCtx) (legs : List Leg) (core : Nat) : Bool :=
  if x.barrier then x.parts.isSome && x.arrivedBefore legs legs.length
  else if (x.takes core).isEmpty then x.granted legs
  else x.settled legs && (x.parts.isSome || x.r.op == .broadcast || x.r.op == .allgather)

/-- The flags that a node raises in an operation (R347, R349, R350). -/
def ColCtx.flags (x : ColCtx) (legs : List Leg) : NumFlags :=
  if x.barrier || x.r.op.copies then .none
  else
    let recs := (List.range (x.all.2)).filterMap fun r => x.final legs r
    let sent := (legs.zipIdx.filter fun p => p.1.send && p.1.stage != 2).flatMap fun p =>
      (List.range (p.1.hi - p.1.lo)).filterMap fun j => x.record legs p.2 p.1.stage (p.1.lo + j)
    (orFlags recs).or (orFlags sent)

/-- The results of a member, written to memory (R344, R345, R348, R359), with the flags of the conversions; none while a result
has not been formed. -/
def State.colDeliver (s : State) (x : ColCtx) (legs : List Leg) (j : ColJoin) : Option (State × NumFlags) :=
  match j.entry.col? with
  | none => none
  | some (_, f) =>
    let t := j.entry.td f.dst.toNat
    let takes := x.takes j.core
    let w := x.elemBits
    let value (e : Nat) : Option (Nat × NumFlags) :=
      if x.merge then (x.final legs (e / x.width)).map fun q => x.toDst t (q.1 / 2 ^ (e % x.width * w) % 2 ^ w)
      else (x.final legs e).map fun q => x.toDst t q.1
    match allSome (takes.map fun p => (value p.1).map fun q => (p.2, q)) with
    | none => none
    | some vs =>
      let u := s.colElems j.core t (vs.map fun q => (q.1, q.2.1))
      let fl := orFlags (vs.map (·.2))
      if x.merge then
        let rows := (takes.map fun p => p.1 / x.width).dedup
        let aux := j.entry.td f.aux.toNat
        match allSome (rows.map fun r => (x.final legs r).map (·.1)) with
        | none => none
        | some rs =>
          let cells := rs.zipIdx.foldl (fun (cs : Tab (Option Byte)) q =>
            (toBytes 32 (q.1 / 2 ^ (x.width * w))).zipIdx.foldl (fun cs b =>
              Tab.put none (aux.addr (aux.row + q.2) aux.col 0 0 + b.2) (some b.1) cs) cs) []
          some (u.colWrite j.core cells, fl)
      else some (u, fl)

/-- The operation has ended at a node once all its members have (R343). -/
def State.colClose (s : State) (g d : Nat) : State :=
  match s.colCtx g d with
  | none => s
  | some x =>
    match x.parts with
    | none => s
    | some ps =>
      if ps.all (fun j => j.done) && x.settled x.legs then
        let next := (x.r.opseq + 1) % 256
        let t := s.modSite g d fun y => { y with run := none, opseq := next, drains := [] }
        let t := (t.freeSlots (t.engOf d)).setRf (rGrp g 0x20) 0 8 0
        if t.allPast g next then t.bump (rGrp g 0x28) 32 32 1 else t
      else s

/-- COL_OP_COMPLETE: a member's results are visible and its instruction may complete (R362). A BARRIER completes when the
distribution reaches its node. -/
def execColOpComplete (g c : Nat) (s : State) : Host.Outcome State Fault Refusal :=
  let d := c / 16
  ret (if !(g < 16 && c < 64) then s
    else match s.colCtx g d with
    | none => s
    | some x =>
      let legs := x.legs
      match x.r.joins.find? fun j => j.core == c && !j.done with
      | none => s.colClose g d
      | some j =>
        if x.r.reserved ≠ 0 && x.mayEnd legs c then
          match s.colDeliver x legs j with
          | none => s
          | some (t, fl) =>
            let t := t.modRun g d fun r => { r with joins := r.joins.map fun i => if i.core = c then { i with done := true } else i }
            (t.finish c j.entry.seq 0 (fl.or (x.flags legs))).colClose g d
        else s)

end Sys2Proof.Machine
end

