-- ==== Sys2Proof/Machine/Drain.lean ====
section
/-! DEFINITION. Drains to the collective engines (R26, R27, R119, R120, R360), and the start of matrix instructions, which waits
behind a drain that waits. -/

namespace Sys2Proof.Machine

/-- Bytes that wait in the engine's staging: elements that some member has drained and others have not (R360). -/
def ColCtx.staged (x : ColCtx) : Nat :=
  let nd := nth ⟨0, 0, 0⟩ x.g.nodes x.me
  let all := (x.r.joins.flatMap fun j => j.got.map (·.1)).dedup
  let open' := all.filter fun e => !(nd.cores.all fun c => x.r.joins.any fun j => j.core == c && (Tab.get none e j.got).isSome)
  ((open'.map fun e => (x.r.joins.filter fun j => (Tab.get none e j.got).isSome).length).sum) * x.elemBits / 8

/-- The instruction whose row is the next to go: rows go in the order the epilogue finished them (R26). -/
def Core.drainHead (k : Core) : Option MxRun :=
  k.drainQ.findSome? fun q => match k.runOf q with
    | some r => if r.waiting.isEmpty then none else some r
    | none => none

/-- The order of drained rows once the row of an instruction has gone. -/
def Core.drainGone (k : Core) (seq : Nat) : List Nat := (k.drainQ.dropWhile fun q => q != seq).drop 1

/-- The engine refuses the first row of a drain to group g (R119). -/
def State.drainRefused (s : State) (c g outFmt : Nat) : Bool :=
  s.grpState g != 2 || (match Tab.get none g s.colGrps with
    | none => true
    | some grp =>
      !grp.feed || (if grp.long then 12 else if grp.fp32 then 0 else 1) != outFmt ||
        (match grp.nodeAt s.self (c / 16) with
         | none => true
         | some i => !hasNat (nth ⟨0, 0, 0⟩ grp.nodes i).cores c))

/-- A drain's waiting row goes to the engine, or its drain completes without sending; none while the row waits: for its operation to
start, or for a buffer (R27, R119, R360). -/
def State.handOff (s : State) (c : Nat) (r : MxRun) : Option State :=
  match r.entry.mx?, r.waiting with
  | some (_, f), raws :: rest =>
    let ch := r.entry.chain f
    let st := ch.stage (ch.nstages - 1)
    let g := fld st 104 4
    let d := c / 16
    let upd (s : State) (h : MxRun → MxRun) : State :=
      s.modCore c fun k => { k.modRun r.entry.seq h with drainQ := k.drainGone r.entry.seq }
    let stop (code : Nat) : State := upd s fun x => { x with code := code, waiting := [] }
    if r.drained = 0 && s.drainRefused c g ch.outFmt then some (stop 0x41)
    else match s.colCtx g d with
      | none => none
      | some x =>
        if !x.r.joins.any (fun j => j.core == c && !j.done) || x.r.reserved = 0 then none
        else if x.r.op != drainOp r.entry f then some (stop 0x41)
        else if 2097152 < x.staged + ((s.site g d).drains.map fun q => q.raws.length * x.elemBits / 8).sum + raws.length * x.elemBits / 8
        then none
        else
          let t := s.modSite g d fun y => { y with drains := y.drains ++
            [(⟨c, fld st 72 24 + r.drained, fld st 48 24, raws⟩ : ColDrain)] }
          some (upd t fun x => { x with waiting := rest, drained := x.drained + 1 })
  | _, _ => none

/-- A row of core c waits and no buffer is free for it (R27). -/
def State.drainWaits (s : State) (c : Nat) : Bool :=
  match (s.core c).drainHead with
  | some r => (s.handOff c r).isNone
  | none => false

/-- DRAIN_ROW: the row finished first goes to the engine once there is a buffer for it; the first row may be refused (R26, R27, R119). -/
def execDrainRow (c seq : Nat) (s : State) : Host.Outcome State Fault Refusal :=
  ret (match (s.core c).drainHead with
    | some r => if r.entry.seq = seq then (s.handOff c r).getD s else s
    | none => s)

/-- MX issue of a core is gated now: by the Regulator's step for the first quarters of an interval of 50 µs (R375), and at thermal step 4 of
its die for the first half (R383). -/
def State.mxGated (s : State) (c : Nat) : Bool :=
  let hot := if 4 ≤ s.rf (rThm (0x100 + 8 * (c / 16))) 32 4 then 2 else 0
  decide ((s.time - s.regl.began).toNat < 12500 * Nat.max (s.rf (rPwr 0x18) 24 2) hot)

/-- MX_START: the instruction at the head starts when its arrays are free, no drain waits for a buffer and issue is not gated (R27, R73,
R375): weight swap, the vectors read once (R103), then its stream. -/
def execMxStart (c : Nat) (par : Option Parity) (s : State) : Host.Outcome State Fault Refusal :=
  ret (if s.pwrFail || s.drainWaits c || s.mxGated c then s else match (s.core c).qMx with
    | [] => s
    | e :: rest =>
      match e.mx? with
      | none => s
      | some (form, f) =>
        let k := s.core c
        if k.mxCounts && k.arraysFree form f && (!mxStages form f || k.staged == some e.seq) then
          let b := s.operandBufs c e f
          let run : MxRun := ⟨e, 0, 0, [], 0, 0, .none, b.1⟩
          let t := s.modCore c fun k =>
            let k := if mxStages form f || (form.isTour && !mxFence f) then k.swap form else k
            { k with qMx := rest, mxCounts := false, staged := if mxStages form f then none else k.staged,
                     mxRuns := k.mxRuns ++ [run] }
          match par with
          | some p => t.mxParity c e p ((t.coreViol c b.2).stream c e.seq)
          | none => (t.coreViol c b.2).stream c e.seq
        else s)

/-- COL_DRAIN_ROW: the engine places a drained row in the group's buffer (R360). -/
def execColDrainRow (g c : Nat) (s : State) : Host.Outcome State Fault Refusal :=
  let d := c / 16
  ret (if !(g < 16 && c < 64) then s
    else match s.colCtx g d, (s.site g d).drains.find? fun q => q.core == c with
    | some x, some q =>
      let t := s.modSite g d fun y => { y with drains := y.drains.erase q }
      q.raws.zipIdx.foldl (fun t p =>
        match (t.site g d).run with
        | none => t
        | some r =>
          match r.joins.find? fun j => j.core == c with
          | none => t
          | some j =>
            let src := match j.entry.col? with | some (_, f) => j.entry.td f.src.toNat | none => TD.ofBits 0
            let col := q.col + p.2
            if src.e1 ≤ q.row || src.e0 ≤ col then t.coreViol c [src.addr q.row col 0 0]
            else
              let e := q.row * src.e0 + col
              if (Tab.get none e j.got).isSome then t.colViol d
              else t.modRun g d fun r => { r with joins := r.joins.map fun i =>
                if i.core = c then { i with got := Tab.put none e (some p.1) i.got } else i }) (let _ := x; t)
    | _, _ => s)

end Sys2Proof.Machine
end

