-- ==== Sys2Proof/Machine/Queues.lean ====
section
/-! DEFINITION. The queues: timers (R139), the start and completion of queue instructions (R128-R133, R141-R143, R181, R182),
and the issue of the matrix, sync, remote and message classes. -/

namespace Sys2Proof.Machine

/-! ### Pacing timers (R139) -/

def tmrReg (c n : Nat) : Nat := rCore c (0x100 + 8 * n)
def tmrCnt (c n : Nat) : Nat := rCore c (0x120 + 8 * n)

/-- A write to CORE_TMRn: enabled, the count takes the period; else the count stops and holds. -/
def State.timerWrite (s : State) (c n : Nat) (v : W64) : State :=
  let t := s.rwReg (tmrReg c n) 0xE03F0000FFFFFFFF v
  if bit v 63 then t.setRf (tmrCnt c n) 0 32 (fld v 0 32) else t

/-- A timer expires: its signal, its pacing tick, then the reload or the end. -/
def State.timerExpire (s : State) (c n : Nat) : State :=
  let r := s.reg (tmrReg c n)
  let t := if bit r 61 then s.signal c (fld r 48 6) 1 else s
  let t := t.paceCredit (2 * (4 * c + n))
  if bit r 62 && fld r 0 32 != 0 then t.setRf (tmrCnt c n) 0 32 (fld r 0 32)
  else (t.setRbit (tmrReg c n) 63 false).setRf (tmrCnt c n) 0 32 0

/-- One HCLK cycle of a timer: a count that reaches zero expires; a period of 0 expires in the next cycle. -/
def State.timerTick (s : State) (c n : Nat) : State :=
  if s.rbit (tmrReg c n) 63 then
    let k := s.rf (tmrCnt c n) 0 32
    if k ≤ 1 then s.timerExpire c n else s.setRf (tmrCnt c n) 0 32 (k - 1)
  else s

/-- A write to CORE_TMRn. -/
def execTimerWrite (c n : Nat) (v : W64) (s : State) : Host.Outcome State Fault Refusal :=
  ret (if c < 64 && s.hasCore c && n < 4 then s.timerWrite c n v else s)

/-- TIMER_EXPIRY: the time of a running timer has come (R139); it holds whatever the core's state (R152). -/
def execTimerExpiry (c n : Nat) (s : State) : Host.Outcome State Fault Refusal :=
  ret (if c < 64 && s.hasCore c && n < 4 && s.rbit (tmrReg c n) 63 then s.timerExpire c n else s)

/-! ### Phase marks (R140, R182) -/

/-- A mark: one of the last 1 µs is replaced, an older one is delivered first. -/
def State.mark (s : State) (c : Nat) (p : BitVec 8) : State :=
  s.modCore c fun k => { k.markDue s.hclk with markHeld := some (p, s.hclk) }

/-! ### Start (R129-R133) -/

/-- The queue's own start condition (R133, R173): SX runs one at a time, a DMA channel takes its next work when it is free. -/
def State.queueFree (s : State) (c : Nat) (q : Queue) (e : QEntry) : Bool :=
  match q with
  | .sx => !(s.core c).started.any fun r => r.entry.ins.queue == .sx
  | .dma => s.dmaFree c e
  | _ => true

/-- The effect of an instruction that starts: a code and flags when its work is done at once. -/
def State.startIns (s : State) (c : Nat) (e : QEntry) : State × Option (Nat × NumFlags) :=
  let done (p : State × Option Nat) : State × Option (Nat × NumFlags) := (p.1, p.2.map fun n => (n, .none))
  match e.ins with
  | .dmaTd _ => done (s.dmaStart c e)
  | .dmaList _ => done (s.dmaStart c e)
  | .mx _ _ => (s, none)
  | .vx op f => let r := vxStart c e op f s; (r.1, some (0, r.2))
  | .vt op f => let r := vtStart c e op f s; (r.1, some (0, r.2))
  | .sx op f =>
    (match op with
     | .sig => s
     | .sign => if f.inc = 0 then s else s.signal c f.sem.toNat f.inc.toNat
     | .tmr => s.timerWrite c f.tmr.toNat (e.s f.sa.toNat)
     | .evt => s.pulse (8 * c + 7), some (0, .none))
  | .pmark reg f => (s.mark c (if reg then bits (e.s f.sa.toNat) 0 8 else f.phase), some (0, .none))
  | .col op f => done (s.colArrive c e op f none)
  | .rsb op f => done (s.rsbStart c e op f)
  | .msg op f => done (s.msgStart c e op f)

/-- QUEUE_INSTR_START: the head of a queue takes its counts and starts (R129, R130). A parity error of its accesses stops the
core, and it neither writes nor signals (R144, R146). Matrix instructions start by their own commands. -/
def execQueueInstrStart (c : Nat) (q : Queue) (par : Option Parity) (s : State) : Host.Outcome State Fault Refusal :=
  ret (if s.pwrFail then s else match (s.core c).queue q with
    | [] => s
    | e :: rest =>
      if q != .mx && s.hasCore c && (s.core c).mayTake e.seq (waitSet e.ins.sync) && s.queueFree c q e then
        let t := s.modCore c fun k => (k.take (waitSet e.ins.sync)).setQueue q rest
        match par, e.ins with
        | some p, .col op f =>
          let r := (t.modCore c fun k => { k with started := k.started ++ [⟨e, 0, .none, false⟩] }).colArrive c e op f (parityAt p c)
          (match r.2 with | some code => r.1.finish c e.seq code .none | none => r.1)
        | some (.other d u), _ =>
          let t := t.parityFault d 6 0 (.other d u)
          let t := t.modCore c fun k => { k with started := k.started ++ [⟨e, 0, .none, false⟩] }
          t.finish c e.seq 0x30 .none
        | some p, _ => (t.keepViol c (t.startIns c e).1).parityFault c (queueNum q) e.pc p
        | none, _ =>
          let t := t.modCore c fun k => { k with started := k.started ++ [⟨e, 0, .none, false⟩] }
          let r := t.startIns c e
          match r.2 with
          | some (code, fl) => r.1.finish c e.seq code fl
          | none => r.1
      else s)

/-! ### Completion (R132, R133, R141-R143) -/

/-- An earlier instruction of a queue that completes in order is still there (R133). -/
def Core.mustWait (k : Core) (r : Started) : Bool :=
  let q := r.entry.ins.queue
  (q == .vx || q == .sx) && k.started.any fun x => x.entry.ins.queue == q && x.entry.seq < r.entry.seq

/-- INSTR_COMPLETE: a finished instruction records its status and flags and signals. -/
def execInstrComplete (c seq : Nat) (s : State) : Host.Outcome State Fault Refusal :=
  ret (match (s.core c).started.find? fun r => r.entry.seq == seq with
    | none => s
    | some r =>
      if r.finished && !(s.core c).mustWait r then
        let t := s.modCore c fun k => { k with started := k.started.filter fun x => x.entry.seq != seq }
        (t.recordStatus c r.entry.ins.queue r.code r.entry.pc r.flags).signals c r.entry.ins.sync
      else s)

/-! ### Issue of the matrix class (R174) -/

/-- Quad form. -/
def execMxQuad (c : Nat) (f : MxF) (s : State) : Host.Outcome State Fault Refusal := issueMx s.wireFmt .quad c f s
/-- Pair form. -/
def execMxPair (c : Nat) (pairB : Bool) (f : MxF) (s : State) : Host.Outcome State Fault Refusal := issueMx s.wireFmt (.pair pairB) c f s
/-- Single form. -/
def execMxSingle (c : Nat) (arr : BitVec 2) (f : MxF) (s : State) : Host.Outcome State Fault Refusal := issueMx s.wireFmt (.single arr) c f s
/-- Tourbillon, 64, single. -/
def execMxT64Single (c : Nat) (arr : BitVec 2) (f : MxF) (s : State) : Host.Outcome State Fault Refusal := issueMx s.wireFmt (.t64Single arr) c f s
/-- Tourbillon, 64, pair. -/
def execMxT64Pair (c : Nat) (pairB : Bool) (f : MxF) (s : State) : Host.Outcome State Fault Refusal := issueMx s.wireFmt (.t64Pair pairB) c f s
/-- Tourbillon, 16, single. -/
def execMxT16Single (c : Nat) (arr : BitVec 2) (f : MxF) (s : State) : Host.Outcome State Fault Refusal := issueMx s.wireFmt (.t16Single arr) c f s
/-- Tourbillon, 16, pair. -/
def execMxT16Pair (c : Nat) (pairB : Bool) (f : MxF) (s : State) : Host.Outcome State Fault Refusal := issueMx s.wireFmt (.t16Pair pairB) c f s

/-! ### Issue of the sync and phase-mark classes (R181, R182) -/

/-- Issue an instruction that no check of its fields refuses. -/
def issuePlain (ins : QIns) (c : Nat) (s : State) : Host.Outcome State Fault Refusal := ret (issueQ c ins false (fun _ => false) s)

/-- SIG. -/
def execSig (c : Nat) (f : SyncF) (s : State) : Host.Outcome State Fault Refusal := issuePlain (.sx .sig f) c s
/-- SIGN. -/
def execSign (c : Nat) (f : SyncF) (s : State) : Host.Outcome State Fault Refusal := issuePlain (.sx .sign f) c s
/-- TMR. -/
def execTmr (c : Nat) (f : SyncF) (s : State) : Host.Outcome State Fault Refusal := issuePlain (.sx .tmr f) c s
/-- EVT. -/
def execEvt (c : Nat) (f : SyncF) (s : State) : Host.Outcome State Fault Refusal := issuePlain (.sx .evt f) c s
/-- PMARK. -/
def execPmark (c : Nat) (f : PmarkF) (s : State) : Host.Outcome State Fault Refusal := issuePlain (.pmark false f) c s
/-- PMARKR. -/
def execPmarkr (c : Nat) (f : PmarkF) (s : State) : Host.Outcome State Fault Refusal := issuePlain (.pmark true f) c s

/-! ### Issue of the Roseb class (R184) -/

/-- RLD, RST and RINV: len is at most 4,096 and a multiple of 8. -/
def issueMove (op : RsbOp) (c : Nat) (f : RsbF) (s : State) : Host.Outcome State Fault Refusal :=
  ret (issueQ c (.rsb op f) (4096 < f.len.toNat || f.len.toNat % 8 != 0) (fun _ => false) s)

/-- Atomics: len is 0; FADD is 32 bits wide. -/
def issueAtomic (op : RsbOp) (c : Nat) (f : RsbF) (s : State) : Host.Outcome State Fault Refusal :=
  ret (issueQ c (.rsb op f) (f.len != 0 || (op == .fadd && f.w)) (fun _ => false) s)

/-- RLD. -/
def execRld (c : Nat) (f : RsbF) (s : State) : Host.Outcome State Fault Refusal := issueMove .rld c f s
/-- RST. -/
def execRst (c : Nat) (f : RsbF) (s : State) : Host.Outcome State Fault Refusal := issueMove .rst c f s
/-- RINV. -/
def execRinv (c : Nat) (f : RsbF) (s : State) : Host.Outcome State Fault Refusal := issueMove .rinv c f s
/-- RA.ADD. -/
def execRaAdd (c : Nat) (f : RsbF) (s : State) : Host.Outcome State Fault Refusal := issueAtomic .add c f s
/-- RA.FADD. -/
def execRaFadd (c : Nat) (f : RsbF) (s : State) : Host.Outcome State Fault Refusal := issueAtomic .fadd c f s
/-- RA.SMIN. -/
def execRaSmin (c : Nat) (f : RsbF) (s : State) : Host.Outcome State Fault Refusal := issueAtomic .smin c f s
/-- RA.SMAX. -/
def execRaSmax (c : Nat) (f : RsbF) (s : State) : Host.Outcome State Fault Refusal := issueAtomic .smax c f s
/-- RA.UMIN. -/
def execRaUmin (c : Nat) (f : RsbF) (s : State) : Host.Outcome State Fault Refusal := issueAtomic .umin c f s
/-- RA.UMAX. -/
def execRaUmax (c : Nat) (f : RsbF) (s : State) : Host.Outcome State Fault Refusal := issueAtomic .umax c f s
/-- RA.AND. -/
def execRaAnd (c : Nat) (f : RsbF) (s : State) : Host.Outcome State Fault Refusal := issueAtomic .and c f s
/-- RA.OR. -/
def execRaOr (c : Nat) (f : RsbF) (s : State) : Host.Outcome State Fault Refusal := issueAtomic .or c f s
/-- RA.XOR. -/
def execRaXor (c : Nat) (f : RsbF) (s : State) : Host.Outcome State Fault Refusal := issueAtomic .xor c f s
/-- RA.SWAP. -/
def execRaSwap (c : Nat) (f : RsbF) (s : State) : Host.Outcome State Fault Refusal := issueAtomic .swap c f s
/-- RA.CAS. -/
def execRaCas (c : Nat) (f : RsbF) (s : State) : Host.Outcome State Fault Refusal := issueAtomic .cas c f s

/-! ### Issue of the message class (R185) -/

/-- The limits of nregs and first, which bind the whole class. -/
def regsBad (f : MsgF) : Bool := 8 < f.nregs.toNat || 32 < f.first.toNat + f.nregs.toNat

/-- TRIG. -/
def execTrig (c : Nat) (f : MsgF) (s : State) : Host.Outcome State Fault Refusal :=
  ret (issueQ c (.msg .trig f) (regsBad f) (fun _ => false) s)
/-- MSG: len is at most 4,096. -/
def execMsg (c : Nat) (f : MsgF) (s : State) : Host.Outcome State Fault Refusal :=
  ret (issueQ c (.msg .msg f) (regsBad f || 4096 < f.len.toNat) (fun _ => false) s)
/-- MBOXOUT. -/
def execMboxout (c : Nat) (f : MsgF) (s : State) : Host.Outcome State Fault Refusal :=
  ret (issueQ c (.msg .mboxout f) (regsBad f) (fun _ => false) s)
/-- MBOXIN. -/
def execMboxin (c : Nat) (f : MsgF) (s : State) : Host.Outcome State Fault Refusal :=
  ret (issueQ c (.msg .mboxin f) (regsBad f) (fun _ => false) s)

end Sys2Proof.Machine
end

