-- ==== Sys2Proof/Machine/Cores.lean ====
section
/-! DEFINITION. Core control (R126, R149-R152), program loading, the ledger register (R108), software signals, the violation
count's read (R147). -/

namespace Sys2Proof.Machine

/-- PWR_STATUS.mode: 3 is Midnight (R391). -/
def State.powerMode (s : State) : Nat := s.rf (rPwr 0x18) 30 2

/-- A command is rejected (R150). -/
def State.coreReject (s : State) (c : Nat) : State := s.setRbit (rCore c 8) 25 true

/-- start (R150): from STOPPED with no load in progress, and not in Midnight (R389). -/
def State.coreStart (s : State) (c : Nat) : State :=
  let k := s.core c
  if k.run == .stopped && k.load.isNone && s.powerMode != 3 then
    (s.modCore c fun k => { k with pc := s.rf (rCore c 0x10) 0 14, stopCause := .none }).setRun c .running
  else s.coreReject c

/-- stop (R150): a RUNNING core drains its queues. -/
def State.coreStop (s : State) (c : Nat) : State :=
  if (s.core c).run == .running then (s.modCore c fun k => { k with stopCause := .stop }).setRun c .stopping else s

/-- abort (R150): unstarted instructions are discarded; a fault keeps its cause (R152). -/
def State.coreAbort (s : State) (c : Nat) : State :=
  let k := s.core c
  if k.run == .running || k.run == .stopping then
    (s.modCore c fun k => { k.discard with stopCause := if k.fault.isSome then k.stopCause else .abort }).setRun c .stopping
  else s

/-- reset (R150, R151): abort, then RESETTING until the started instructions and a program load have ended. A held write of
CORE_LEDGER_CFG is discarded (R108). -/
def State.coreReset (s : State) (c : Nat) : State :=
  if (s.core c).run == .resetting then s
  else (s.modCore c fun k => { k.discard with fault := none, ledgerHeld := none }).setRun c .resetting

/-- A write to CORE_CTRL: only the highest-numbered command bit acts (R149). -/
def State.coreCtrl (s : State) (c : Nat) (v : W64) : State :=
  if bit v 3 then s.coreReset c else if bit v 2 then s.coreAbort c else if bit v 1 then s.coreStop c
  else if bit v 0 then s.coreStart c else s

/-- A command at a mounted core of a die that is not dead (R450). -/
def atCore (c : Nat) (f : State → State) (s : State) : Host.Outcome State Fault Refusal :=
  ret (if c < 64 && s.hasCore c && !hasNat s.deadDies (c / 16) then f s else s)

/-- START. -/
def execStart (c : Nat) (s : State) : Host.Outcome State Fault Refusal := atCore c (fun s => s.coreStart c) s
/-- STOP. -/
def execStop (c : Nat) (s : State) : Host.Outcome State Fault Refusal := atCore c (fun s => s.coreStop c) s
/-- ABORT. -/
def execAbort (c : Nat) (s : State) : Host.Outcome State Fault Refusal := atCore c (fun s => s.coreAbort c) s
/-- RESET. -/
def execReset (c : Nat) (s : State) : Host.Outcome State Fault Refusal := atCore c (fun s => s.coreReset c) s

/-- CORE_STOPPED: every queue is empty after stop, halt or abort; stop and halt leave the next index in CORE_START_PC (R150). A
stopped core is at phase 0 (R140). -/
def execCoreStopped (c : Nat) (s : State) : Host.Outcome State Fault Refusal :=
  let k := s.core c
  ret (if k.run == .stopping && k.fault.isNone && !k.anyBusy && k.heldIns.isNone && k.swait.isNone then
      let t := if k.stopCause == .halt || k.stopCause == .stop then s.setReg (rCore c 0x10) (BitVec.ofNat 64 k.pc) else s
      (t.modCore c fun k => { k with phase := 0, markHeld := none }).setRun c .stopped
    else s)

/-- The state of a core after core reset (R127, R151): program memory and its faulty words stay. -/
def Core.afterReset (k : Core) : Core :=
  { Core.reset with prog := k.prog, badProg := k.badProg, issueSeq := k.issueSeq, run := k.run }

/-- The registers after core reset: CORE_START_PC, CORE_PROG_SRC and CORE_VIOL_THR keep their values (R151); mailboxes return to
reset (R416), the channels lose halt and credit (R246). -/
def State.coreRegsReset (s : State) (c : Nat) : State :=
  let pc := s.reg (rCore c 0x10)
  let src := s.reg (rCore c 0x40)
  let thr := s.reg (rCore c 0x38)
  let t := { s with regs := Tab.clear (rCore c 0) 0x1000 s.regs }
  let t := (((t.setReg (rCore c 0x10) pc).setReg (rCore c 0x40) src).setReg (rCore c 0x38) thr).mbxReset c
  iter 4 (fun n t => (t.chClear (4 * c + n)).modChan (4 * c + n) fun ch => { ch with src := none, credit := false }) t

/-- CORE_RESET_DONE: nothing started is left and no load is in progress; the core is reset and STOPPED (R151). -/
def execCoreResetDone (c : Nat) (s : State) : Host.Outcome State Fault Refusal :=
  let k := s.core c
  ret (if k.run == .resetting && !k.anyBusy && k.load.isNone then
      ((s.coreRegsReset c).modCore c Core.afterReset).setRun c .stopped
    else s)

/-! ### Program loading (R126) -/

def progLoad (c : Nat) : Nat := rCore c 0x48

/-- A load ends: done, its status, the event. -/
def State.loadEnd (s : State) (c status : Nat) : State :=
  let t := (((s.setRf (progLoad c) 32 4 status).setRbit (progLoad c) 61 true).setRbit (progLoad c) 62 false)
  (t.modCore c fun k => { k with load := none }).pulse (8 * c + 2)

/-- go in CORE_PROG_LOAD. -/
def State.loadGo (s : State) (c : Nat) : State :=
  let k := s.core c
  let src := (s.reg (rCore c 0x40)).toNat
  let len := s.rf (progLoad c) 16 15
  let dest := s.rf (progLoad c) 0 14
  if k.load.isSome then s.coreReject c
  else if k.run != .stopped && k.run != .faulted then s.loadEnd c 2
  else if len = 0 then s.loadEnd c 1
  else if 16384 < dest + len || 2 ^ 43 ≤ src then s.loadEnd c 3
  else if src % 64 ≠ 0 then s.loadEnd c 4
  else (s.modCore c fun k => { k with load := some ⟨src, len, dest⟩ }).setRbit (progLoad c) 62 true

/-- A write to CORE_PROG_LOAD: length and dest, done (W1C), go. -/
def State.progLoadWrite (s : State) (c : Nat) (v : W64) : State :=
  let t := s.rwReg (progLoad c) 0x7FFF3FFF v
  let t := if bit v 61 then t.setRbit (progLoad c) 61 false else t
  if bit v 63 then t.loadGo c else t

/-- PROG_LOAD_GO. -/
def execProgLoadGo (c : Nat) (v : W64) (s : State) : Host.Outcome State Fault Refusal :=
  atCore c (fun s => s.progLoadWrite c (setBit v 63 true)) s

/-- The blocks of a source in order (R126, R205): sealed whole ones are verified, and one read in part fails where it is poisoned.
The first that fails, if any; none: a block is to be read again (R215). -/
def State.loadCheck (s : State) (c : Nat) : List (Nat × Nat) → State × Option (Option Nat)
  | [] => (s, some none)
  | (k, n) :: rest =>
    let hbm := match region (4096 * k) with | .hbm _ _ => true | _ => false
    if hbm && (s.poisoned (4096 * k) || (n == 4096 && s.chkOf k != 0)) then
      let v := s.verifyBlock (288 + c) (4096 * k)
      match v.2 with
      | none => (v.1, none)
      | some true => State.loadCheck v.1 c rest
      | some false => (v.1, some (some k))
    else State.loadCheck s c rest

/-- Write program words. -/
def Core.putProg (k : Core) (i : Nat) (ws : List (BitVec 128)) : Core :=
  ws.zipIdx.foldl (fun k w => { k with prog := Tab.put 0 (i + w.2) w.1 k.prog, badProg := k.badProg.filter (· != i + w.2) }) k

/-- PROG_LOAD_DONE: the copy (R126); where a check fails for the first time the block is read again and the load goes on. From a block that fails its check onward the words are left open. A parity error in the
source stops the core that owns it (R146). -/
def execProgLoadDone (c : Nat) (par : Option Parity) (s : State) : Host.Outcome State Fault Refusal :=
  ret (match (s.core c).load with
    | none => s
    | some l =>
      let n := 16 * l.length
      let v := s.loadCheck c (blocksOf l.src n)
      match v.2 with
      | none => v.1
      | some failed =>
      let s := v.1.dropRechecks (288 + c)
      let holes := (blocksOf l.src n).filter fun b => !s.populated (4096 * b.1)
      let s := match holes with
        | [] => s
        | b :: _ => s.coreViol c [Nat.max l.src (4096 * b.1)]
      let v : State × Option Nat := match par with
        | some (.other d u) => (s.parityFault d 6 0 (.other d u),
            some (Nat.min (failed.getD (l.src / 4096 + n)) (storeAddr d (64 * u) / 4096)))
        | some (.store u) => (s.parityFault c 6 0 (.store u), some (Nat.min (failed.getD (l.src / 4096 + n)) (storeAddr c (64 * u) / 4096)))
        | _ => (s, failed)
      let good := match v.2 with
        | some k => Nat.min l.length ((4096 * k - l.src) / 16)
        | none => l.length
      let words := (List.range good).map fun i => BitVec.ofNat 128 (v.1.readN (l.src + 16 * i) 16)
      let open' := (List.range (l.length - good)).map fun i => Config.freeBits 128 (v.1.freeIx + i)
      let t := v.1.modCore c fun k => k.putProg l.dest (words ++ open')
      let t := { t with freeIx := t.freeIx + open'.length }
      t.loadEnd c (if v.2.isSome then 5 else 0))

/-! ### Signals by register, violations, the ledger (R108, R131, R147) -/

/-- A write to CORE_SEM_SIG. -/
def State.semSig (s : State) (c : Nat) (v : W64) : State := if fld v 0 16 = 0 then s else s.signal c (fld v 16 6) (fld v 0 16)

/-- CORE_SEM_SIG. -/
def execCoreSemSig (c : Nat) (v : W64) (s : State) : Host.Outcome State Fault Refusal := atCore c (fun s => s.semSig c v) s

/-- Some MX instruction of a core is issued and not completed. -/
def Core.mxActive (k : Core) : Bool := !k.qMx.isEmpty || !k.mxRuns.isEmpty

/-- The fields of CORE_LEDGER_CFG take a value: en, rows, base (R108). -/
def State.ledgerSet (s : State) (c : Nat) (v : BitVec 32) : State := s.rwReg (rCore c 0x200) 0xFF001FFF (v.setWidth 64)

/-- A write to CORE_LEDGER_CFG: while the MX queue is not idle it is held, and replaces one already held (R108). -/
def State.ledgerWrite (s : State) (c : Nat) (v : BitVec 32) : State :=
  if (s.core c).mxActive then s.modCore c fun k => { k with ledgerHeld := some v }
  else (s.modCore c fun k => { k with ledgerHeld := none }).ledgerSet c v

/-- LEDGER_CFG_WRITE. -/
def execLedgerCfgWrite (c : Nat) (v : BitVec 32) (s : State) : Host.Outcome State Fault Refusal :=
  atCore c (fun s => s.ledgerWrite c v) s

/-- LEDGER_CFG_APPLY: the MX queue is idle; a held write takes effect (R108). -/
def execLedgerCfgApply (c : Nat) (s : State) : Host.Outcome State Fault Refusal :=
  atCore c (fun s => match (s.core c).ledgerHeld with
    | some v => if (s.core c).mxActive then s else (s.modCore c fun k => { k with ledgerHeld := none }).ledgerSet c v
    | none => s) s

/-- A read of CORE_VIOL_CNT: it clears, and the address capture is armed again (R147). -/
def State.violRead (s : State) (c : Nat) : State := (s.setReg (rCore c 0x28) 0).setReg (rCore c 0x30) 0

/-- CORE_VIOL_CNT_READ. -/
def execCoreViolCntRead (c : Nat) (s : State) : Host.Outcome State Fault Refusal :=
  atCore c (fun s => (s.violRead c).send (.busRead (rCore c 0x28) (BitVec.ofNat 64 (s.rf (rCore c 0x28) 0 32)))) s

end Sys2Proof.Machine
end

