-- ==== Sys2Proof/Machine/Crown.lean ====
section
/-! DEFINITION. The Crown at work for the host (16_control_plane.md): the host mailbox's commands and the job queues. -/

namespace Sys2Proof.Machine

/-! ### The host mailbox (R417, R418) -/

/-- CRN_STATUS.state (R404). -/
def State.crown (s : State) : Nat := s.rf (rCrn 0) 29 3

/-- The Crown runs the firmware; a power failure leaves it idle (R466, R467). -/
def State.crownUp (s : State) : Bool := s.crown == 2 && !s.pwrFail

/-- The command that the host has rung: the mailbox is full, from the host. -/
def State.hostCmd (s : State) : Option Nat :=
  if s.rbit hostCtrl 0 && !s.rbit hostCtrl 1 then some (s.rf (hostData 0) 0 16) else none

/-- The Crown has read the mailbox: go is clear. -/
def State.hostTake (s : State) : State := s.setRbit hostCtrl 0 false

/-- Register n of the mailbox as a number. -/
def State.hostReg (s : State) (n : Nat) : Nat := (s.reg (hostData n)).toNat

/-- The Crown's reply: command and sequence number of register 0 as they came, the status, the registers given. -/
def State.hostReply (s : State) (cmd : W64) (status : Nat) (regs : List (Nat × Nat)) : State :=
  let t := s.hostWrite 0 (setFld cmd 32 8 status)
  (regs.foldl (fun t r => t.hostWrite r.1 (BitVec.ofNat 64 r.2)) t).hostRing true

/-- A host command that is answered at once: `f` gives the status and the registers of the reply. -/
def State.hostDo (s : State) (cmd : Nat) (f : State → State × Nat × List (Nat × Nat)) : State :=
  if s.hostCmd == some cmd then
    let r := f s.hostTake
    r.1.hostReply (s.reg (hostData 0)) r.2.1 r.2.2
  else s

/-- ECHO's effect: registers 1 to 15 as they are. -/
def State.doEcho (s : State) : State := s.hostDo 1 fun t => (t, 0, [])

/-- ECHO: served by the running Crown, and in a recovery boot (R418, R447). -/
def execEcho (s : State) : Host.Outcome State Fault Refusal := ret (if s.crownUp || s.crown == 3 then s.doEcho else s)

/-- The commands that some chapter gives. -/
def knownCmds : List Nat :=
  [0x01, 0x10, 0x11, 0x20, 0x21, 0x30, 0x31, 0x40, 0x41, 0x50, 0x51, 0x52, 0x53, 0x60]

/-- The commands that a recovery boot answers (R447): with no stack, ECHO alone. -/
def State.recoveryCmds (s : State) : List Nat :=
  if s.rf (rBoot 0x108) 0 32 = 0 then [0x01] else [0x01, 0x10, 0x30, 0x31]

/-- The command that the Crown answers UNSUPPORTED, if the mailbox holds one. -/
def State.unsupported? (s : State) : Option Nat :=
  match s.hostCmd with
  | some n =>
    if s.crownUp then (if hasNat knownCmds n then none else some n)
    else if s.crown = 3 then (if hasNat s.recoveryCmds n then none else some n)
    else none
  | none => none

/-- UNSUPPORTED's effect. -/
def State.doUnsupported (s : State) : State :=
  match s.unsupported? with
  | some n => s.hostDo n fun t => (t, 1, [])
  | none => s

/-- UNSUPPORTED (R418, R447). -/
def execUnsupported (s : State) : Host.Outcome State Fault Refusal := ret s.doUnsupported

/-! ### Job queues (R419-R422) -/

def jqBase (q : Nat) : Nat := rCrn (0x400 + 0x20 * q)
def jqCtrl (q : Nat) : Nat := rCrn (0x408 + 0x20 * q)
def jqTail (q : Nat) : Nat := rCrn (0x410 + 0x20 * q)
def jqHead (q : Nat) : Nat := rCrn (0x418 + 0x20 * q)

/-- Entries of a ring. -/
def State.jqSize (s : State) (q : Nat) : Nat := 2 ^ Nat.min 16 (s.rf (jqCtrl q) 0 5)

/-- Entries submitted and not completed, modulo 2³². -/
def State.jqLevel (s : State) (q : Nat) : Nat := (s.rf (jqTail q) 0 32 + 2 ^ 32 - s.rf (jqHead q) 0 32) % 2 ^ 32

/-- Overrun: the Crown stops the queue. -/
def State.jqJudge (s : State) (q : Nat) : State :=
  if s.crownUp && s.jqSize q < s.jqLevel q then s.setRbit (jqCtrl q) 30 true else s

/-- The address of a queue's next entry. -/
def State.jqEntry (s : State) (q : Nat) : Nat :=
  s.rf (jqBase q) 0 43 / 64 * 64 + 64 * (s.rf (jqHead q) 0 32 % s.jqSize q)

/-- A write to CRN_JQ_TAILq. -/
def State.jqTailWrite (s : State) (q : Nat) (v : BitVec 32) : State := (s.setRf (jqTail q) 0 32 v.toNat).jqJudge q

/-- A write to CRN_JQ_CTRLq: the size is ignored while en = 1; en written 1 clears ovf. -/
def State.jqCtrlWrite (s : State) (q : Nat) (v : BitVec 32) : State :=
  let t := if s.rbit (jqCtrl q) 31 then s else s.setRf (jqCtrl q) 0 5 (fld v 0 5)
  let t := t.setRbit (jqCtrl q) 31 (bit v 31)
  if bit v 31 then (t.setRbit (jqCtrl q) 30 false).jqJudge q else t

/-- A write to CRN_JQ_BASEq, ignored while en = 1. -/
def State.jqBaseWrite (s : State) (q : Nat) (v : W64) : State :=
  if s.rbit (jqCtrl q) 31 then s else s.rwReg (jqBase q) 0x7FFFFFFFFFF v

/-- JQ_TAIL_WRITE. -/
def execJqTailWrite (q : Nat) (v : BitVec 32) (s : State) : Host.Outcome State Fault Refusal :=
  ret (if q < 4 then s.jqTailWrite q v else s)
/-- JQ_ENABLE. -/
def execJqEnable (q : Nat) (v : BitVec 32) (s : State) : Host.Outcome State Fault Refusal :=
  ret (if q < 4 then s.jqCtrlWrite q v else s)

/-- The job of a queue. -/
def State.job (s : State) (q : Nat) : Option Job := Tab.get none q s.jobs

def State.setJob (s : State) (q : Nat) (j : Option Job) : State := { s with jobs := Tab.put none q j s.jobs }

def Job.kind (j : Job) : Nat := fld j.w 280 8

/-- The cores that a job acts on: those of its mask that are mounted, lowest first. -/
def State.jobCores (s : State) (j : Job) : List Nat := (List.range 64).filter fun c => bit j.w (64 + c) && s.hasCore c

/-- The queue may begin a job; with I/O group 4 down the Crown serves none (R261). -/
def State.jqReady (s : State) (q : Nat) : Bool :=
  s.rf (rD2d 4 0) 61 3 != 4 && s.rbit (jqCtrl q) 31 && !s.rbit (jqCtrl q) 30 && (s.job q).isNone && s.jqLevel q != 0

/-- JOB_PICKUP: the next queue in round robin that may begin a job begins it. -/
def execJobPickup (s : State) : Host.Outcome State Fault Refusal :=
  ret (let s := (List.range 4).foldl (fun t q => t.jqJudge q) s
    if !s.crownUp then s
    else match (List.range 4).find? fun i => s.jqReady ((s.jqLast + 1 + i) % 4) with
      | some i =>
        let q := (s.jqLast + 1 + i) % 4
        let w : BitVec 512 := BitVec.ofNat 512 (s.readN (s.jqEntry q) 64)
        ({ s with jqLast := q }).setJob q (some { w := w, acted := false, rejected := [], result := none })
      | none => s)

/-- Nothing is to be done (R421): no mounted core named, a LOAD of length 0, a SIGNAL of inc 0. -/
def State.jobEmpty (s : State) (j : Job) : Bool :=
  (s.jobCores j).isEmpty || (j.kind == 1 && fld j.w 240 15 == 0) || (j.kind == 7 && fld j.w 256 16 == 0)

/-- Run the action of a job of a kind once: `f` acts on one core and says whether that core refuses the command. -/
def State.jobAct (s : State) (q kind : Nat) (f : State → Job → Nat → State × Bool) : State :=
  match s.job q with
  | none => s
  | some j =>
    if !s.crownUp || j.kind != kind || j.acted then s
    else if s.jobEmpty j then s.setJob q (some { j with acted := true, result := some (1, 0) })
    else
      let r := (s.jobCores j).foldl (fun (a : State × List Nat) c =>
        let x := f a.1 j c
        (x.1, if x.2 then a.2 ++ [c] else a.2)) (s, [])
      r.1.setJob q (some { j with acted := true, rejected := r.2 })

/-- REJECTED with the lowest core that refused, or OK (R422). -/
def Job.plain (j : Job) : Nat × Nat := match j.rejected with | c :: _ => (0x60, c) | [] => (0, 0)

/-- Take a job's action and end it with its code. -/
def State.jobOnce (s : State) (q kind : Nat) (f : State → Job → Nat → State × Bool) : State :=
  let t := s.jobAct q kind f
  match t.job q with
  | some j => if j.kind == kind && j.acted && j.result.isNone then t.setJob q (some { j with result := some j.plain }) else t
  | none => t

/-- JOB_NOP. -/
def execJobNop (q : Nat) (s : State) : Host.Outcome State Fault Refusal := ret (s.jobOnce q 0 fun t _ _ => (t, false))

/-- JOB_LOAD: the program loads start (R126). -/
def execJobLoad (q : Nat) (s : State) : Host.Outcome State Fault Refusal :=
  ret (s.jobAct q 1 fun t j c =>
    let u := t.setRf (rCore c 0x40) 0 43 (fld j.w 128 43)
    let v : Nat := 2 ^ 63 + 2 ^ 61 + fld j.w 240 15 * 2 ^ 16 + fld j.w 224 14
    (u.progLoadWrite c (BitVec.ofNat 64 v), (t.core c).load.isSome))

/-- Whether a core refuses start (R150). -/
def State.startRefused (s : State) (c : Nat) : Bool :=
  let k := s.core c
  !(k.run == .stopped && k.load.isNone && s.powerMode != 3)

/-- JOB_START. -/
def execJobStart (q : Nat) (s : State) : Host.Outcome State Fault Refusal :=
  ret (s.jobOnce q 2 fun t j c =>
    let u := t.setRf (rCore c 0x10) 0 14 (fld j.w 224 14)
    (u.coreStart c, u.startRefused c))

/-- JOB_STOP. -/
def execJobStop (q : Nat) (s : State) : Host.Outcome State Fault Refusal := ret (s.jobOnce q 3 fun t _ c => (t.coreStop c, false))
/-- JOB_ABORT. -/
def execJobAbort (q : Nat) (s : State) : Host.Outcome State Fault Refusal := ret (s.jobOnce q 4 fun t _ c => (t.coreAbort c, false))
/-- JOB_RESET. -/
def execJobReset (q : Nat) (s : State) : Host.Outcome State Fault Refusal := ret (s.jobOnce q 5 fun t _ c => (t.coreReset c, false))

/-- JOB_WAIT: ends when every core is STOPPED or FAULTED, when its time has passed (`expired`), or at once with timeout 0. -/
def execJobWait (q : Nat) (expired : Bool) (s : State) : Host.Outcome State Fault Refusal :=
  let t := s.jobAct q 6 fun t _ _ => (t, false)
  ret (match t.job q with
    | some j =>
      if t.crownUp && j.kind == 6 && j.acted && j.result.isNone then
        let cores := t.jobCores j
        let faulted := cores.filter fun c => (t.core c).run == .faulted
        let going := cores.filter fun c => (t.core c).run != .faulted && (t.core c).run != .stopped
        if going.isEmpty || expired || fld j.w 192 32 == 0 then
          let code := match faulted, going with
            | c :: _, _ => (0x61, c)
            | [], c :: _ => (0x62, c)
            | [], [] => (0, 0)
          t.setJob q (some { j with result := some code })
        else t
      else t
    | none => t)

/-- JOB_SIGNAL. -/
def execJobSignal (q : Nat) (s : State) : Host.Outcome State Fault Refusal :=
  ret (s.jobOnce q 7 fun t j c => (t.signal c (fld j.w 272 6) (fld j.w 256 16), false))

/-- ILLEGAL_JOB: a reserved kind; nothing acts. -/
def execIllegalJob (q : Nat) (s : State) : Host.Outcome State Fault Refusal :=
  ret (match s.job q with
    | some j => if s.crownUp && 7 < j.kind && !j.acted then s.setJob q (some { j with acted := true, result := some (0x63, 0) }) else s
    | none => s)

/-- The code and detail of a job that has ended; a LOAD ends when no core that took it still loads (R421, R422). -/
def State.jobResult (s : State) (j : Job) : Option (Nat × Nat) :=
  if j.kind = 1 && j.acted && j.result.isNone then
    let mine := (s.jobCores j).filter fun c => !hasNat j.rejected c
    if mine.any fun c => (s.core c).load.isSome then none
    else match mine.find? fun c => s.rf (progLoad c) 32 4 != 0 with
      | some c => some (0x64, c * 256 + s.rf (progLoad c) 32 4)
      | none => some j.plain
  else j.result

/-- JOB_COMPLETE: the status word, the head, the events (R419). -/
def execJobComplete (q : Nat) (s : State) : Host.Outcome State Fault Refusal :=
  ret (match s.job q with
    | none => s
    | some j =>
      match (if s.crownUp then s.jobResult j else none) with
      | none => s
      | some r =>
        let t := s.store (s.jqEntry q) (toBytes 8 (r.1 * 2 ^ 56 + 2 ^ 55 + r.2)) false
        let t := (t.setJob q none).setRf (jqHead q) 0 32 (t.rf (jqHead q) 0 32 + 1)
        let t := t.pulse (960 + q)
        if r.1 = 0 || r.1 = 1 then t else t.pulse (964 + q))

end Sys2Proof.Machine
end

