-- ==== Sys2Proof/Machine/Vespers.lean ====
section
/-! DEFINITION. Vespers (18_resilience.md): snapshots at their source (R458-R460, R463) and hold slots at a buddy (R461, R462). -/

namespace Sys2Proof.Machine

/-- A VESPERS record (R454); its detail has no layout (log 32). -/
def State.vspJournal (s : State) (surfaced : Bool) : State := s.journalOpen 0x90 (if surfaced then 1 else 2) 0 0

/-! ### Configuration (R458) -/

/-- A region that lies wholly in the usable range of one mounted stack, in whole blocks. -/
def State.regionOk (s : State) (base len : Nat) : Bool :=
  base % 4096 == 0 && len % 4096 == 0 &&
    (match region base with
     | .hbm st off => s.hasStack st && off + len ≤ usable
     | _ => false)

/-- Two regions share a byte. -/
def overlap (a b : Nat × Nat) : Bool := a.1 < b.1 + b.2 && b.1 < a.1 + a.2

def anyOverlap : List (Nat × Nat) → Bool
  | [] => false
  | a :: l => l.any (overlap a) || anyOverlap l

/-- The blocks of the regions, in order: block j of the sequence. -/
def Vsp.sequence (v : Vsp) : List Nat := (v.regions.map fun r => (List.range r.2).map (r.1 + ·)).flatten

/-- VSP_CONFIG's effect: BUSY during a snapshot, BAD_CONFIG, or the new configuration with every block dirty. -/
def State.doVspConfig (s : State) : State :=
  s.hostDo 0x50 fun t =>
    let a := t.hostReg 1
    let n := t.readN (a + 2) 1
    let m := t.readN (a + 3) 1
    let buddies := (List.range n).map fun b => (BitVec.ofNat 16 (t.readN (a + 8 + 8 * b) 2), t.readN (a + 10 + 8 * b) 1)
    let regs := (List.range m).map fun r => (t.readN (a + 64 + 16 * r) 8, t.readN (a + 72 + 16 * r) 8)
    if t.vsp.running then (t, 0x18, [])
    else if n = 0 || 4 < n || m = 0 || 16 < m || regs.any (fun r => !t.regionOk r.1 r.2) || anyOverlap regs
        || buddies.any (fun b => fidDial b.1 != fidDial t.self) then (t, 0x20, [])
    else
      let blocks : List (Nat × Nat) := regs.map fun r => (r.1 / 4096, r.2 / 4096)
      let bs : List Buddy := buddies.map fun b => { fid := b.1, slot := b.2, stage := 0, sent := 0, waiting := 0 }
      let v : Vsp := { t.vsp with period := t.readN a 2, regions := blocks, cap := [], pend := [], count := 0, carry := false,
                                  buddies := bs }
      ({ t with vsp := { v with dirty := v.sequence } }, 0, [])

/-- VSP_CONFIG. -/
def execVspConfig (s : State) : Host.Outcome State Fault Refusal := ret (if s.crownUp then s.doVspConfig else s)

/-! ### Requests to a buddy (R461) -/

/-- A BULK request to buddy b. -/
def State.bulk (s : State) (b : Nat) (buddy : Buddy) (die op chk addr : Nat) (data : Bytes) (cl : Bool) : State :=
  s.rsbSubmit (s.rsbMake die (fidPos buddy.fid) 6 op false chk addr data.length data (if cl then .vsp b else .none))

/-- The payload of VSP_BEGIN, VSP_COMMIT and VSP_ABORT. -/
def vspPayload (step slot blocks : Nat) : Bytes :=
  toBytes 8 step ++ toBytes 1 slot ++ toBytes 7 blocks ++ List.replicate 48 0

/-- Change buddy b. -/
def Vsp.modBuddy (v : Vsp) (b : Nat) (f : Buddy → Buddy) : Vsp :=
  match v.buddies[b]? with
  | some x => { v with buddies := setNth v.buddies b (f x) }
  | none => v

/-- The log of buddy b: its base and its blocks; the package's own hold slots are known. -/
def State.logOf (s : State) (x : Buddy) : Nat × Nat :=
  if x.fid = s.self then let h := Tab.get Hold.reset x.slot s.holds; (h.log, h.blocks)
  else (Config.logBase x.fid x.slot, Config.logBlocks x.fid x.slot)

/-- Bytes of the index area: whole blocks of 8-byte entries. -/
def indexArea (blocks : Nat) : Nat := ceilDiv (8 * blocks) 4096 * 4096

/-- Each buddy in turn. -/
def State.eachBuddy (s : State) (f : State → Nat → Buddy → State) : State :=
  iter s.vsp.buddies.length (fun b t => match t.vsp.buddies[b]? with | some x => f t b x | none => t) s

/-! ### Abort (R463) -/

/-- The source aborts the snapshot: VSP_ABORT to each buddy, the remaining pending blocks dirty again, a surfaced record. -/
def State.vspAbort (s : State) : State :=
  if s.vsp.running then
    let forget (q : RsbReq) : RsbReq := match q.client with | .vsp _ => { q with client := .none } | _ => q
    let t := { s with rsbOut := s.rsbOut.map forget }
    let t := t.eachBuddy fun t b x => t.bulk b x 0 0x32 0 0 (vspPayload t.vsp.started x.slot 0) false
    let v := t.vsp
    let v := { v with running := false, pend := [], cap := [], aborted := v.aborted + 1,
                      dirty := (v.pend.filter fun k => !hasNat v.dirty k) ++ v.dirty }
    ({ t with vsp := v }).vspJournal true
  else s

/-! ### Steps (R459) -/

/-- Begin the snapshot of a step: the dirty set becomes pending; VSP_BEGIN to each buddy. -/
def State.vspBegin (s : State) (step : Nat) : State :=
  let v := s.vsp
  let v := { v with running := true, started := step, carry := false, moved := 0, cap := [],
                    pend := v.dirty.mergeSort (fun a b => a ≤ b), dirty := [],
                    buddies := v.buddies.map fun b => { b with stage := 0, sent := 0, waiting := 0 } }
  ({ s with vsp := v }).eachBuddy fun t b x => t.bulk b x 0 0x30 0 0 (vspPayload step x.slot 0) true

/-- VSP_STEP's effect: 0 started, 1 skipped, 2 not due, 3 Vespers off (R451, R459, R470). -/
def State.doVspStep (s : State) : State :=
  s.hostDo 0x52 fun t =>
    if t.drainRun.isSome || t.vsp.period = 0 then (t, 0, [(1, 3)])
    else
      let n := t.vsp.count + 1
      let u := { t with vsp := { t.vsp with count := n } }
      if n % u.vsp.period != 0 && !u.vsp.carry then (u, 0, [(1, 2)])
      else if u.vsp.running then
        let u := { u with vsp := { u.vsp with skipped := u.vsp.skipped + 1, carry := true } }
        (u.vspJournal false, 0, [(1, 1)])
      else (u.vspBegin (t.hostReg 1), 0, [(1, 0)])

/-- VSP_STEP. -/
def execVspStep (s : State) : Host.Outcome State Fault Refusal := ret (if s.crownUp then s.doVspStep else s)

/-! ### Reading and sending the blocks (R460, R461) -/

/-- Whether a block lies in a stack of die d. -/
def blockDie (key : Nat) : Nat := dieOfAddr (4096 * key)

/-- The next block of a die to be read: one read ahead of a write, else the lowest pending: its key, data, outcome of its check; none: it is
to be read a second time (R215). -/
def State.vspNext (s : State) (d : Nat) : Option (State × Nat × Bytes × Option Bool) :=
  match s.vsp.cap.find? fun c => blockDie c.1 == d with
  | some c => some ({ s with vsp := { s.vsp with cap := s.vsp.cap.erase c } }, c.1, c.2.1, some c.2.2)
  | none =>
    match s.vsp.pend.find? fun k => blockDie k == d with
    | some k =>
      let q := s.verifyBlock 361 (4096 * k)
      let gone := { q.1 with vsp := { q.1.vsp with pend := q.1.vsp.pend.filter (· != k) } }
      some (if q.2.isNone then q.1 else gone, k, s.read (4096 * k) 4096, q.2)
    | none => none

/-- VSP_COMMIT goes to every buddy once all blocks have been read and every RST answered. -/
def State.vspCommitTry (s : State) : State :=
  if s.vsp.running && s.vsp.pend.isEmpty && s.vsp.cap.isEmpty
      && s.vsp.buddies.all (fun b => b.stage == 1 && b.waiting == 0) then
    s.eachBuddy fun t b x =>
      let t := { t with vsp := t.vsp.modBuddy b fun y => { y with stage := 2 } }
      t.bulk b x 0 0x31 0 0 (vspPayload t.vsp.started x.slot x.sent) true
  else s

/-- VSP_BLOCK_READ: die d's channel 7 has read its next pending block; block j of the sequence goes to buddy j mod nbuddy, with
its mirror block index ⌊j / nbuddy⌋. -/
def execVspBlockRead (d : Nat) (s : State) : Host.Outcome State Fault Refusal :=
  ret (if !s.vsp.running || !s.crownUp then s
    else match s.vspNext d with
      | none => s
      | some (t, key, data, good) =>
        match good with
        | none => t
        | some false => t.vspAbort
        | some true =>
          let n := t.vsp.buddies.length
          let j := (findIx (· == key) t.vsp.sequence).getD 0
          match t.vsp.buddies[j % n]? with
          | none => t
          | some x =>
            let log := t.logOf x
            if log.2 ≤ x.sent then t.vspAbort
            else
              let t := { t with vsp := { t.vsp.modBuddy (j % n) (fun y => { y with sent := y.sent + 1, waiting := y.waiting + 2 })
                                          with moved := t.vsp.moved + 4096 } }
              let t := t.bulk (j % n) x d 1 3 (log.1 + indexArea log.2 + 4096 * x.sent) data true
              t.bulk (j % n) x d 1 3 (log.1 + 8 * x.sent) (toBytes 8 (j / n)) true)

/-- A reply to a request of Vespers for buddy b (R461, R463). -/
def State.vspReply (s : State) (b op code : Nat) : State :=
  if !s.vsp.running then s
  else if code != 0 then s.vspAbort
  else
    let v := s.vsp.modBuddy b fun x =>
      if op = 0x30 then { x with stage := 1 } else if op = 0x31 then { x with stage := 3 } else { x with waiting := x.waiting - 1 }
    ({ s with vsp := v }).vspCommitTry

/-- VSP_SNAPSHOT_COMPLETE: every buddy has answered VSP_COMMIT; `micros` is the snapshot's duration. -/
def execVspSnapshotComplete (micros : Nat) (s : State) : Host.Outcome State Fault Refusal :=
  ret (if s.vsp.running && s.vsp.buddies.all (fun b => b.stage == 3) then
      ({ s with vsp := { s.vsp with running := false, complete := s.vsp.started, micros := micros, last := s.vsp.moved } }).vspJournal false
    else s)

/-! ### The buddy (R451, R461, R462) -/

def State.hold (s : State) (n : Nat) : Hold := Tab.get Hold.reset n s.holds

def State.modHold (s : State) (n : Nat) (f : Hold → Hold) : State :=
  { s with holds := Tab.put Hold.reset n (f (s.hold n)) s.holds }

/-- VSP_HOLD's effect: a hold slot takes its configuration. -/
def State.doVspHold (s : State) : State :=
  s.hostDo 0x51 fun t =>
    let n := t.hostReg 1
    if 3 < n then (t, 0x20, [])
    else
      (t.modHold n fun h => { h with
        enable := t.rbit (hostData 2) 16, src := bits (t.reg (hostData 2)) 0 16, mirror := t.hostReg 3, bytes := t.hostReg 4,
        log := t.hostReg 5, blocks := t.hostReg 6, isOpen := false }, 0, [])

/-- VSP_HOLD. -/
def execVspHold (s : State) : Host.Outcome State Fault Refusal := ret (if s.crownUp then s.doVspHold else s)

/-- VSP_STATUS's effect (R462). -/
def State.doVspStatus (s : State) : State :=
  s.hostDo 0x53 fun t =>
    let v := t.vsp
    let n := t.hostReg 1
    let h := t.hold (n - 4)
    if n = 0 then
      (t, 0, [(1, if v.period = 0 then 0 else if v.running then 2 else 1), (2, v.complete), (3, v.started), (4, v.skipped),
              (5, v.aborted), (6, v.micros), (7, v.last)])
    else if 4 ≤ n && n < 8 then (t, 0, [(1, h.enable.toNat), (2, h.src.toNat), (3, h.step), (4, 0), (5, 0), (6, 0), (7, 0)])
    else (t, 0x20, [])

/-- VSP_STATUS. -/
def execVspStatus (s : State) : Host.Outcome State Fault Refusal := ret (if s.crownUp then s.doVspStatus else s)

/-- Answer a control request and keep the reply (R327). -/
def State.holdReply (s : State) (io : Nat) (k : Packet) (status : Nat) : State :=
  let r := s.replyTo k status false 0 []
  ({ s with replies := s.replies ++ [(⟨io, k.src, k.srcIo, k.dstIo, qRid k, r⟩ : Reply)] }).sendReply io r

/-- The hold slot that a control request names, if it may act: enabled, and its source the slot's. -/
def State.holdOf (s : State) (k : Packet) : Option Nat :=
  let n := ofBytes ((k.payload.drop 8).take 1)
  if n < 4 && (s.hold n).enable && (s.hold n).src == k.src then some n else none

/-- A control request at its buddy: a reissue answered before gets its reply again (R327, R328), a stale epoch STALE_EPOCH
(R329), a slot that may not act BAD_BUS; else `f` acts. -/
def State.holdDo (s : State) (io : Nat) (k : Packet) (op : Nat) (f : State → Nat → State) : State :=
  let t := { s with arrived := s.arrived.erase (io, k) }
  let s := t.freeReplies io k
  if !s.hasIo io || k.kind != 6 || qOp k != op then t
  else if fld k.body 80 16 ≠ 0 && fld k.body 80 16 ≠ s.epoch then s.sendReply io (s.replyTo k 0x52 false 0 [])
  else
    match s.replies.find? fun r => r.io == io && r.fid == k.src && r.srcIo == k.srcIo && r.unit == k.dstIo && r.rid == qRid k && bit k.body 118 with
    | some r => (s.bump (rRsb io 0x10) 0 16 1).sendReply io { r.k with body := setBit r.k.body 113 true }
    | none =>
      match s.holdOf k with
      | none => s.holdReply io k 0x30
      | some n => f s n

/-- VSP_BEGIN: the log's content is discarded. -/
def execVspBegin (io : Nat) (k : Packet) (s : State) : Host.Outcome State Fault Refusal :=
  ret (s.holdDo io k 0x30 fun t n => (t.modHold n fun h => { h with isOpen := true }).holdReply io k 0)

/-- VSP_ABORT: the log is discarded; an apply that has begun completes. -/
def execVspAbort (io : Nat) (k : Packet) (s : State) : Host.Outcome State Fault Refusal :=
  ret (s.holdDo io k 0x32 fun t n => (t.modHold n fun h => { h with isOpen := false }).holdReply io k 0)

/-- VSP_COMMIT: the apply of the log begins. -/
def execVspCommit (io : Nat) (k : Packet) (s : State) : Host.Outcome State Fault Refusal :=
  ret (s.holdDo io k 0x31 fun t n => if (t.hold n).apply.isSome then t else t.modHold n fun h => { h with apply := some (io, k) })

/-- Copy the log's blocks to the mirror at their indexes under check 0b11: whole aligned blocks are verified and sealed (R242). Whether all
stood their check; none: a block is to be read a second time (R215). -/
def State.applyLog (s : State) (slot : Nat) (h : Hold) (n : Nat) : State × Option Bool :=
  (List.range n).foldl (fun (a : State × Option Bool) i =>
    let src := h.log + indexArea h.blocks + 4096 * i
    let at' := 4096 * a.1.readN (h.log + 8 * i) 8
    let q : State × Option Bool := if src % 4096 = 0 then a.1.verifyBlock (362 + slot) src else (a.1, some true)
    let t := match q.2 with
      | some true => if h.bytes < at' + 4096 then q.1 else q.1.store (h.mirror + at') (q.1.read src 4096) ((h.mirror + at') % 4096 == 0)
      | _ => q.1
    (t, match a.2, q.2 with | some x, some y => some (x && y) | _, _ => none)) (s, some true)

/-- VSP_APPLY_DONE: the log is in the mirror; the step is recorded and the commit answered. -/
def execVspApplyDone (slot : Nat) (s : State) : Host.Outcome State Fault Refusal :=
  ret (let h := s.hold slot
    match h.apply with
    | none => s
    | some (io, k) =>
      let n := if h.isOpen then Nat.min h.blocks (ofBytes ((k.payload.drop 9).take 7)) else 0
      let r := s.applyLog slot h n
      match r.2 with
      | none => { s with rechecks := r.1.rechecks }
      | some good =>
        let t := r.1.modHold slot fun h =>
          { h with apply := none, isOpen := false, step := if good then ofBytes (k.payload.take 8) else h.step }
        (t.vspJournal false).holdReply io k (if good then 0 else 0x30))

end Sys2Proof.Machine
end

