-- ==== Sys2Proof/Machine/Deliver.lean ====
section
/-! DEFINITION. Packets between the fabric and the engines: what an endpoint accepts is handed on, replies end their operations,
a packet given up ends what sent it (R303, R307-R309, R323-R336), and an attached endpoint's messages (R269). -/

namespace Sys2Proof.Machine

/-! ### The end of a remote request -/

/-- A request has ended: who asked for it is told. -/
def State.endReq (s : State) (e : RsbReq × Nat × W64 × Bytes) : State :=
  match e.1.client with
  | .none => s
  | .cx core seq => s.cxDone core seq e.1 e.2.1 e.2.2.1 e.2.2.2
  | .dma ch write unit off => s.dmaReply ch write unit off e.2.1 e.1.len e.2.2.2
  | .vsp b => s.vspReply b e.1.op e.2.1

/-- A reply at its requester. -/
def State.rspIn (s : State) (io : Nat) (k : Packet) : State :=
  let q := s.rspMatch io k
  match q.2 with
  | some e => q.1.endReq e
  | none => q.1

/-- RSP: a reply from the fabric, or one of the own package's homes (R321). -/
def execRsp (io : Nat) (k : Packet) (s : State) : Host.Outcome State Fault Refusal :=
  let s := { s with selfRsp := s.selfRsp.erase (io, k), arrived := s.arrived.erase (io, k) }
  ret (if s.hasIo io && k.kind == 2 then s.rspIn io k else s)

/-- REISSUE_TIMEOUT (R328). -/
def execReissueTimeout (io home rid : Nat) (s : State) : Host.Outcome State Fault Refusal :=
  let q := s.reissue io home rid
  ret (q.2.foldl (fun t e => t.endReq e) q.1)

/-! ### The home -/

/-- REQ: queued by line, or answered at once (R325). -/
def execReq (io : Nat) (k : Packet) (s : State) : Host.Outcome State Fault Refusal :=
  let s := { s with arrived := s.arrived.erase (io, k) }
  ret (if s.hasIo io && (k.kind == 1 || k.kind == 6) && s.homeRoom io then s.reqIn io k else s)

/-- A parity error in the core store under a line: its owner faults, and the requests of the run are answered BAD_BUS (R146,
R331). -/
def State.lineParity (s : State) (io line c unit : Nat) : State :=
  let run := s.lineRun io line
  let t := s.parityFault c 6 0 (.store unit)
  run.foldl (fun t h =>
    let h' : HomeReq := { h with lines := h.lines.filter (· != line), bad := true }
    let t := { t with homeQ := t.homeQ.map fun x => if x = h then h' else x }
    if h'.lines.isEmpty then t.homeFinish h' else t) t

/-- LINE_APPLY (R325, R326); in Midnight the Roseb unit's clock stands (R33). -/
def execLineApply (io line : Nat) (par : Bool) (s : State) : Host.Outcome State Fault Refusal :=
  ret (if s.midnight then s else match par, region (64 * line) with
    | true, .store c off =>
      if s.hasCore c && !(s.lineRun io line).isEmpty then s.lineParity io line c (off / 64) else s.lineApply io line
    | _, _ => s.lineApply io line)

/-! ### Triggers and messages -/

/-- TRIG_DELIVER (R334). -/
def execTrigDeliver (io : Nat) (k : Packet) (s : State) : Host.Outcome State Fault Refusal :=
  let s := { s with arrived := s.arrived.erase (io, k) }
  ret (if s.hasIo io && k.kind == 4 then s.trigIn io k else s)

/-- MSG_DELIVER (R335, R336), `age` CCLK cycles after the packet arrived. -/
def execMsgDeliver (io : Nat) (k : Packet) (age : W64) (s : State) : Host.Outcome State Fault Refusal :=
  let s := { s with arrived := s.arrived.erase (io, k) }
  ret (if s.hasIo io && k.kind == 3 then s.msgIn io k age else s)

/-- DR_MSG (R266, R269): an attached endpoint's message to a core acts as a trigger, on the die it reaches or over the groups to another
(R21); a Goldotric unit's message is payload for firmware (log 38). How its 64 bytes hold that content the spec does
not say: the values are open (log 2). -/
def execDrMsg (g m : Nat) (hdr : BitVec 128) (payload : Bytes) (s : State) : Host.Outcome State Fault Refusal :=
  let _ := payload
  ret (if s.carries g m then
      let q := s.drCheck g m hdr
      if q.2 && 0x800 ≤ fld hdr 84 12 then
        let d := fld hdr 115 3
        let u := fld hdr 64 8
        if 15 < u || 3 < d || !q.1.hasDie d || hasNat q.1.deadDies d || (q.1.dieRoute (rxDie g hdr) d).isNone then
          (q.1.partnerViol g).drNotice g hdr
        else
          let f : BitVec 531 := Config.freeBits 531 q.1.freeIx
          let n := Nat.min 8 (fld f 527 4)
          q.1.fresh.trigger (16 * d + u) ((List.range n).map fun i => bits f (64 * i) 64) (fld f 512 5) (fld f 517 6) (fld f 523 4)
      else q.1
    else s)

/-! ### Endpoints (R303, R307-R309) -/

/-- An ACK: what it covers is released, and those who sent it are told (R307, R328). -/
def State.ackDo (s : State) (io : Nat) (k : Packet) : State :=
  let q := s.ackIn io k
  q.2.foldl (fun t p =>
    let t := match p.client with | .msg c seq => t.finish c seq 0 .none | .none => t
    if p.k.kind = 1 ∨ p.k.kind = 6 then t.reqAcked io p.k else t) q.1

/-- ACK. -/
def execAck (io : Nat) (k : Packet) (s : State) : Host.Outcome State Fault Refusal :=
  let s := { s with arrived := s.arrived.erase (io, k) }
  ret (if s.hasIo io && k.kind == 8 && k.crc == k.check then s.ackDo io k else s)

/-- A packet given up: its operation ends, INDETERMINATE for a trigger or message (R307, R330, R363). -/
def State.gaveUp (s : State) (io : Nat) (p : TxPkt) : State :=
  let t := match p.client with
    | .msg c seq => (s.bump (rRsb io 0x18) 0 32 1).finish c seq 0x50 .none
    | .none => s
  if p.k.kind = 1 ∨ p.k.kind = 6 then
    let q := t.reqLost io p.k
    q.2.foldl (fun t e => t.endReq e) q.1
  else if p.k.kind = 5 then t.colLost io p.k
  else t

/-- RESEND_TIMEOUT (R307): the packet goes out again, or is given up. -/
def execResendTimeout (io : Nat) (key : StreamKey) (seq : BitVec 32) (s : State) : Host.Outcome State Fault Refusal :=
  let q := s.resendOrGiveUp io key seq
  ret (match q.2 with
    | some p => q.1.gaveUp io p
    | none => q.1)

/-- A legal sequenced packet: a kind of Table 3 in its class (R302). -/
def sequenced (k : Packet) : Bool := 1 ≤ k.kind && k.kind ≤ 6 && kindClass k.kind == some k.pclass

/-- PACKET_INJECT (R307, R311). -/
def execPacketInject (io : Nat) (k : Packet) (s : State) : Host.Outcome State Fault Refusal :=
  ret (if s.hasIo io && sequenced k && k.len ≤ 4096 && k.payload.length == k.len then (s.inject io k .none).1 else s)

/-- An accepted packet goes to its engine. -/
def State.handOn (s : State) (io : Nat) (k : Packet) : State :=
  match k.kind with
  | 1 => s.reqIn io k
  | 2 => s.rspIn io k
  | 3 => s.msgIn io k 0
  | 4 => s.trigIn io k
  | 5 => if kSub k = 1 then s.colGrant k else if kSub k = 2 then s.colRereq k else s.colData k 0
  | 6 => if 0x30 ≤ qOp k && qOp k ≤ 0x32 then { s with arrived := s.arrived ++ [(io, k)] } else s.reqIn io k
  | _ => s

/-- The engine has a buffer for a packet beside those already accepted (R308): a request at its home, a message in its queue. -/
def State.engineRoom (s : State) (io : Nat) (k : Packet) : Bool :=
  match k.kind with
  | 1 => s.homeRoom io
  | 6 => s.homeRoom io
  | 3 =>
    let ep := fld k.body 120 8
    !(ep < 0xF0 && s.mqFull ep k.len ((s.heldOf io).filter fun q => q.kind == 3 && fld q.body 120 8 == ep).length)
  | _ => true

/-- PACKET_ARRIVE: accepted, held, answered with a NACK or discarded (R303, R307, R308); what may be delivered goes to its
engine in order. VC0 kinds act by their own commands. -/
def execPacketArrive (io : Nat) (k : Packet) (s : State) : Host.Outcome State Fault Refusal :=
  ret (if !(s.hasIo io && k.dst == s.self) then { s with arrived := s.arrived.erase (io, k) }
    else if k.kind = 8 then
      (if k.crc = k.check then ({ s with arrived := s.arrived.erase (io, k) }).ackDo io k
       else { s with arrived := s.arrived.erase (io, k) })
    else if sequenced k then
      let s := { s with arrived := s.arrived.erase (io, k) }
      if k.src = s.self then s.handOn io k
      else
        let q := s.acceptPacket io k (s.engineRoom io k)
        q.2.foldl (fun t p => t.handOn io p) q.1
    else s)

end Sys2Proof.Machine
end

