-- ==== Sys2Proof/Machine/Power.lean ====
section
/-! DEFINITION. Power and temperature (15_power_thermal.md): the Regulator, the Escapement, the thermal model, the trip, the coolant
loop, Midnight. Powers are in mW, temperatures in units of 0.125 °C; quotients are rounded down (log 50). -/

namespace Sys2Proof.Machine

/-! ### Registers -/

def rDie (d : Nat) : Nat := rPwr (0x100 + 8 * d)
def rTDie (d : Nat) : Nat := rThm (0x100 + 8 * d)

/-- The mounted compute dies. -/
def State.dies (s : State) : List Nat := (List.range 4).filter s.hasDie

/-- The trip is latched (R385). -/
def State.tripped (s : State) : Bool := s.rbit (rThm 0) 31

/-! ### Measurement (R367) -/

/-- RAIL_SAMPLE: one sample of every rail group and of the package, in mW; groups of parts that are not mounted read zero. -/
def execRailSample (compute uncore hbm io : List Nat) (island pkg : Nat) (s : State) : Host.Outcome State Fault Refusal :=
  ret (if !s.vin then s
    else
      let r := s.rails
      let dies := s.dies.foldl (fun t d => Tab.upd 0 d (· + (nth 0 compute d + nth 0 uncore d)) t) r.dies
      let hbms := ((List.range 32).filter s.hasStack).foldl (fun t n => Tab.upd 0 n (· + nth 0 hbm n) t) r.hbm
      let ios := (((List.range 4).filter s.hasIo).map fun i => nth 0 io i).sum
      let _ := island
      let nj := r.rest + pkg
      let t := { s with rails := { n := r.n + 1, dies := dies, hbm := hbms, io := r.io + ios, pkg := r.pkg + pkg, rest := nj % 1000 } }
      t.bump (rPwr 0x30) 0 64 (nj / 1000))

/-! ### The Regulator (R371-R378) -/

/-- (1.6 GHz / (9.6 GHz × 16 / k))³ as k³ / 96³. -/
def cube96 : Nat := 884736

/-- A core counts as running for the predictions (R373). -/
def State.coreRuns (s : State) (c : Nat) : Bool :=
  s.hasCore c && ((s.core c).run == .running || (s.core c).run == .stopping)

/-- The cores of die d that run. -/
def State.dieCores (s : State) (d : Nat) : List Nat := ((List.range 16).map (16 * d + ·)).filter s.coreRuns

def rPhase (n : Nat) : Nat := rPwr (0x3000 + 8 * n)

/-- The floor of k in the mode in effect (R38). -/
def modeFloor (mode : Nat) : Nat := match mode with | 0 => 86 | 1 => 96 | _ => 128

/-- The floor of k of a thermal step (R383). -/
def stepFloor (step : Nat) : Nat := match step with | 0 => 86 | 1 => 107 | 2 => 128 | 3 => 192 | _ => 256

/-- The thermal step of compute die d. -/
def State.dieStep (s : State) (d : Nat) : Nat := s.rf (rTDie d) 32 4

/-- What the Regulator knows of a die: measured and static power, dynamic power predicted at 1.6 GHz, the ratio ρ in millionths. -/
structure DieModel where
  meas    : Nat
  static  : Nat
  dyn     : Nat
  ratio   : Nat
  deriving DecidableEq, Repr

/-- Whether the prediction at k fits a budget (R373). -/
def DieModel.fits (m : DieModel) (k budget : Nat) : Bool :=
  m.ratio * (m.static * k ^ 3 + m.dyn * cube96) ≤ budget * 1000000 * k ^ 3

/-- The prediction at k. -/
def DieModel.power (m : DieModel) (k : Nat) : Nat := m.ratio * (m.static * k ^ 3 + m.dyn * cube96) / (1000000 * k ^ 3)

/-- The smallest k that fits, 256 where none does. -/
def DieModel.choose (m : DieModel) (budget : Nat) : Nat :=
  (((List.range 171).map (86 + ·)).find? fun k => m.fits k budget).getD 256

/-- The mean of the last ratios, held between 0.5 and 2.0; 1.0 with none. -/
def ratioOf (l : List Nat) : Nat := if l.isEmpty then 1000000 else Nat.min 2000000 (Nat.max 500000 (l.sum / l.length))

/-- Water-filling (R372): dies whose need is below an equal share get it; the rest share what remains. -/
def waterFill : Nat → Nat → List (Nat × Nat) → List (Nat × Nat)
  | 0, _, _ => []
  | _, _, [] => []
  | fuel + 1, total, l =>
    let share := total / l.length
    let low := l.filter fun x => x.2 < share
    if low.isEmpty then l.map fun x => (x.1, share)
    else low ++ waterFill fuel (total - (low.map (·.2)).sum) (l.filter fun x => !(x.2 < share))

/-- Attribution of an interval (R377): model energies to cores and phases, the residual to the die, or rescaled energies. -/
def State.attribute (s : State) (d energy : Nat) (model : Nat → Nat) : State :=
  let cores := (List.range 16).map (16 * d + ·)
  let total := (cores.map model).sum
  let give (f : Nat → Nat) (t : State) : State := cores.foldl (fun t c =>
    (t.bump (rPwr (0x1000 + 8 * c)) 0 64 (f c)).bump (rPwr (0x2000 + 8 * (t.core c).phase.toNat)) 0 64 (f c)) t
  if s.rbit (rPwr 0x18) 27 then
    (give (fun c => if total = 0 then 0 else model c * energy / total) s).setRbit (rPwr 0x38) 31 true
  else
    let t := give model s
    let r : W64 := t.reg (rPwr (0x140 + 8 * d))
    let v : Int := r.toInt + (energy : Int) - (total : Int)
    t.setReg (rPwr (0x140 + 8 * d)) (BitVec.ofInt 64 (max (-(2 ^ 63)) (min (2 ^ 63 - 1) v)))

/-- Learning of an interval (R376): each running core's share of its die's dynamic and HBM power joins the entry of its phase with
weight 1/8. -/
def State.learn (s : State) (d dyn hbm k : Nat) (model : Nat → Nat) : State :=
  let total := (((List.range 16).map (16 * d + ·)).map model).sum
  (s.dieCores d).foldl (fun t c =>
    let r := rPhase (t.core c).phase.toNat
    let a := if total = 0 then 0 else dyn * model c * k ^ 3 / (total * cube96)
    let b := if total = 0 then 0 else hbm * model c / (total * 10)
    let t := t.setRf r 0 32 (Nat.min (2 ^ 32 - 1) ((7 * t.rf r 0 32 + a) / 8))
    let t := t.setRf r 32 16 (Nat.min 65535 ((7 * t.rf r 32 16 + b) / 8))
    t.bump r 48 16 1) s

/-- The learned dynamic power of a die's running cores at 1.6 GHz; an entry not observed takes the mean of the last interval. -/
def State.dynOf (s : State) (d mean : Nat) : Nat :=
  ((s.dieCores d).map fun c =>
    let r := rPhase (s.core c).phase.toNat
    if s.rf r 48 16 = 0 then mean else s.rf r 0 32).sum

/-- The learned HBM power of the phases now marked on a die. -/
def State.hbmOf (s : State) (d mean : Nat) : Nat :=
  ((s.dieCores d).map fun c =>
    let r := rPhase (s.core c).phase.toNat
    if s.rf r 48 16 = 0 then mean else 10 * s.rf r 32 16).sum

/-- MODEL_DIVERGED (R378) after an interval: set by 20 % on any die over 100 ms, cleared by 10 % on every die for 1 s. -/
def State.judgeDiverged (s : State) : State :=
  let sums := s.dies.map fun d =>
    let l := Tab.get [] d s.regl.divs
    (l.length, (l.map (·.1)).sum, (l.map (·.2)).sum)
  let gap (x : Nat × Nat × Nat) : Nat := (x.2.1 - x.2.2) + (x.2.2 - x.2.1)
  let far := sums.any fun x => x.1 == 2000 && x.2.2 < 5 * gap x
  let near := sums.all fun x => 10 * gap x ≤ x.2.2
  let w := if near then s.regl.within + 1 else 0
  let b := if far then true else if 20000 ≤ w then false else s.rbit (rPwr 0x18) 27
  let t := { s with regl := { s.regl with within := w } }
  ((t.setRbit (rPwr 0x18) 27 b).setRbit (rThm 0) 21 b).setLevel 833 b

/-- The cap to come into effect (R369, R387): PWR_CAP held to its range, derated by a hot inlet. -/
def State.capNext (s : State) : Nat :=
  let cap := 1000 * Nat.min 5000 (Nat.max 1500 (s.rf (rPwr 8) 0 16))
  let inMax := 8 * s.rf (rThm 0x308) 16 8
  let inlet := s.rf (rThm 0x300) 53 11
  if s.rbit (rThm 0x300) 20 || inlet ≤ inMax then cap else cap * Nat.max 48 (160 - (inlet - inMax)) / 160

/-- Stacks in a state enter another (R388, R389). -/
def State.stacksTo (s : State) (v w : Nat) : State :=
  iter 32 (fun st t =>
    if t.hasStack st && t.hbmState st == v then ((t.modStack st fun k => { k with wbuf := [], batch := [], rows := [] }).schedApply st).setStackState st w else t) s

/-- The end of Midnight (R389): stacks READY, the mode in effect, ports back to bring-up. -/
def State.wake (s : State) (mode : Nat) : State :=
  let t := (s.stacksTo 4 2).setRf (rPwr 0x18) 30 2 mode
  let t := (t.setLevel 839 false).pulse 840
  iter 4 (fun i t => if t.hasIo i && t.rf (rOpt i 0) 29 3 == 3 then t.resumeDie i else t) t

/-- The written mode takes effect; one that ends Midnight wakes the package. Entry to Midnight has its own moment (R34, R389). -/
def State.applyMode (s : State) : State :=
  let want := s.rf (rPwr 0) 0 2
  let now := s.powerMode
  if want = 3 || want = now then s
  else if now = 3 then s.wake want
  else (s.setRf (rPwr 0x18) 30 2 want).pulse 840

/-- What the Regulator sets for an interval: each die's k and budget, MX gating, HBM admission (0 full, 1 50 %, 2 25 %), limiting, and
its own state. -/
structure Plan where
  k        : Nat → Nat
  budget   : Nat → Nat
  gating   : Nat
  hbmLim   : Nat
  limiting : Bool
  regl     : Regl

/-- The greater of the floors of die d: of the mode and of its thermal step (R371). -/
def State.floorOf (s : State) (d : Nat) : Nat := Nat.max (modeFloor s.powerMode) (stepFloor (s.dieStep d))

/-- The budgets, k and limits of the next interval (R371-R375). `m` are the dies' models; `pkg`, `io`, `hbm` the measured powers. -/
def State.plan (s : State) (m : Nat → DieModel) (pkg io hbm hbmLearned : Nat) : Plan :=
  let g := s.regl
  let dies := s.dies
  let ios := ((List.range 4).filter s.hasIo).length
  let reserve := 1000 * Nat.max (150 * ios) (s.rf (rPwr 0x10) 0 16)
  let oldK (d : Nat) : Nat := s.rf (rDie d) 55 9
  let overCap : Bool := g.cap != 0 && g.cap < pkg
  let excess : Int := if g.window = 0 then 0 else g.excess
  let excess := if g.cap = 0 then 0 else excess + (pkg : Int) - (g.cap : Int)
  let window := (g.window + 1) % 200
  let left := 200 - window
  let cap := s.capNext
  let rest := cap - reserve - g.ioOver - Nat.max hbm hbmLearned
  let scarce : Bool := rest < 100000 * dies.length
  let total := if scarce then 100000 * dies.length else rest - (if 0 < excess then excess.toNat / left else 0)
  let needs := dies.map fun d => (d, (m d).power (s.floorOf d))
  let shares := if scarce then dies.map fun d => (d, 100000) else waterFill 5 total needs
  let div := s.rbit (rPwr 0x18) 27
  let budget (d : Nat) : Nat :=
    if s.powerMode = 3 then 0
    else
      let b := match shares.find? fun x => x.1 == d with | some x => x.2 | none => 0
      Nat.max 100000 (if div then b * 9 / 10 else b)
  let scaled (d : Nat) : Nat :=
    let x := m d
    let old := Tab.get 0 d g.bud
    if old != 0 && 102 * old < 100 * x.meas then
      ({ meas := x.meas, static := x.static, dyn := (x.meas - x.static) * oldK d ^ 3 / cube96, ratio := 1000000 } : DieModel).choose old
    else 86
  let raised (d : Nat) : Nat := if overCap && oldK d != 0 then Nat.min 256 (oldK d + 1) else 86
  let k (d : Nat) : Nat :=
    let c := if s.powerMode = 3 then 256 else Nat.max ((m d).choose (budget d)) (Nat.max (scaled d) (raised d))
    Nat.max (s.floorOf d) (Nat.min 256 c)
  let limiting := s.powerMode != 3 && dies.any fun d => s.floorOf d < k d
  let stuck := overCap && dies.all fun d => oldK d == 256
  let gating := s.rf (rPwr 0x18) 24 2
  let fits := if overCap then 0 else g.fits + 1
  let gate : Nat × Nat :=
    if stuck then (if gating < 3 then (gating + 1, g.hbmLim) else (3, Nat.max 1 g.hbmLim))
    else if scarce then (gating, Nat.min 2 (g.hbmLim + 1))
    else if 20 ≤ fits then (if 0 < g.hbmLim then (gating, g.hbmLim - 1) else (gating - 1, 0))
    else (gating, g.hbmLim)
  { k := k, budget := budget, gating := gate.1, hbmLim := gate.2, limiting := limiting,
    regl := { g with
      began := s.time, cap := cap, ioOver := io - reserve, window := window, excess := excess, fits := fits, hbmLim := gate.2,
      pred := dies.map fun d => (d, (m d).power (k d)), bud := dies.map fun d => (d, budget d) } }

/-- PWR_DIEd for the next interval: k, the step, no droop floor, the budget and the prediction. -/
def State.planDie (s : State) (p : Plan) (m : Nat → DieModel) (d : Nat) (w : W64) : W64 :=
  let w := setFld (setFld w 55 9 (p.k d)) 52 3 (s.dieStep d)
  setFld (setFld (setBit w 51 false) 32 16 (p.budget d / 1000)) 0 16 ((m d).power (p.k d) / 1000)

/-- Put a plan into effect. -/
def State.applyPlan (s : State) (p : Plan) (m : Nat → DieModel) : State :=
  let t := s.dies.foldl (fun t d => t.setReg (rDie d) (s.planDie p m d (t.reg (rDie d)))) s
  let t := ((t.setRf (rPwr 0x18) 24 2 p.gating).setRbit (rPwr 0x18) 23 (p.hbmLim != 0)).setRbit (rPwr 0x18) 28 p.limiting
  ({ t with regl := p.regl }).setLevel 832 p.limiting

/-- The mean power of die d in the interval that ends, and of its stacks. -/
def State.meas (s : State) (d : Nat) : Nat := Tab.get 0 d s.rails.dies / Nat.max 1 s.rails.n
def State.hbmDie (s : State) (d : Nat) : Nat := ((List.range 8).map fun i => Tab.get 0 (8 * d + i) s.rails.hbm).sum / Nat.max 1 s.rails.n
/-- k of the interval that ends. -/
def State.oldK (s : State) (d : Nat) : Nat := Nat.max 86 (s.rf (rDie d) 55 9)
/-- Dynamic power of die d in the interval that ends. -/
def State.dynDie (s : State) (x : RegInputs) (d : Nat) : Nat := s.meas d - nth 0 x.dieStatic d

/-- A power as a register shows it, in W. -/
def watts (v : Nat) : Nat := Nat.min 65535 (v / 1000)

/-- PWR_MEAS of the interval that ends. -/
def State.measWord (s : State) : W64 :=
  let n := Nat.max 1 s.rails.n
  BitVec.ofNat 64 (watts (s.rails.pkg / n) * 2 ^ 48 + watts ((s.dies.map s.meas).sum) * 2 ^ 32
    + watts (((List.range 4).map s.hbmDie).sum) * 2 ^ 16 + watts (s.rails.io / n))

/-- The interval that ends is shown, attributed and learned; a waiting learn_clear clears the table (R367, R376, R377). `s` is the state
at the boundary. -/
def State.learnAll (t : State) (x : RegInputs) (s : State) : State :=
  let t := s.dies.foldl (fun t d =>
    let t := (t.setRf (rDie d) 16 16 (watts (s.meas d))).attribute d (Tab.get 0 d s.rails.dies / 1000) fun c => nth 0 x.coreModel c
    if t.regl.clear then t else t.learn d (s.dynDie x d) (s.hbmDie d) (s.oldK d) fun c => nth 0 x.coreModel c) t
  if t.regl.clear then { t with regs := Tab.clear (rPwr 0x3000) 0x800 t.regs, regl := { t.regl with clear := false } } else t

/-- The Regulator's records of the interval that ends: model and measured energies, ratios of measured to predicted power. -/
def State.records (s : State) (x : RegInputs) (g : Regl) : Regl :=
  let note (l : Tab (List (Nat × Nat))) (d : Nat) : Tab (List (Nat × Nat)) :=
    Tab.upd [] d (fun h => (((((List.range 16).map (16 * d + ·)).map fun c => nth 0 x.coreModel c).sum, Tab.get 0 d s.rails.dies / 1000) :: h).take 2000) l
  let ratio (l : Tab (List Nat)) (d : Nat) : Tab (List Nat) :=
    let p := Tab.get 0 d s.regl.pred
    if p = 0 then l else Tab.upd [] d (fun h => (s.meas d * 1000000 / p :: h).take 8) l
  { g with divs := s.dies.foldl note g.divs, ratios := s.dies.foldl ratio g.ratios, hbmPrev := s.dies.map fun d => (d, s.hbmDie d) }

/-- What the Regulator knows of die d when it sets the next interval: `s` at the boundary, `t` with the interval learned (R373, R378). -/
def State.dieModel (s t : State) (x : RegInputs) (d : Nat) : DieModel :=
  let at16 := s.dynDie x d * s.oldK d ^ 3 / cube96
  if t.rbit (rPwr 0x18) 27 then { meas := s.meas d, static := nth 0 x.dieStatic d, dyn := at16, ratio := 1000000 }
  else { meas := s.meas d, static := nth 0 x.dieStatic d, dyn := t.dynOf d (at16 / Nat.max 1 (t.dieCores d).length),
         ratio := ratioOf (Tab.get [] d t.regl.ratios) }

/-- The HBM power learned for the phases now marked. -/
def State.hbmLearned (t : State) : Nat :=
  (t.dies.map fun d => t.hbmOf d (Tab.get 0 d t.regl.hbmPrev / Nat.max 1 (t.dieCores d).length)).sum

/-- REGULATOR_INTERVAL (R372): measure, attribute and learn the interval that ends, then set the next one. -/
def execRegulatorInterval (x : RegInputs) (s : State) : Host.Outcome State Fault Refusal :=
  ret (if s.crown != 2 || s.pwrFail || s.off then s
    else
      let n := Nat.max 1 s.rails.n
      let t := (s.setReg (rPwr 0x20) s.measWord).learnAll x s
      let t := ({ t with regl := s.records x t.regl } : State).judgeDiverged.applyMode
      let p := t.plan (s.dieModel t x) (s.rails.pkg / n) (s.rails.io / n) ((List.range 4).map s.hbmDie).sum t.hbmLearned
      { t.applyPlan p (s.dieModel t x) with rails := { Rails.reset with rest := s.rails.rest } })

/-- A write to PWR_CAP; it takes effect at the next boundary (R369). -/
def State.pwrCapWrite (s : State) (v : W64) : State := s.rwReg (rPwr 8) 0xFFFF v

/-- PWR_CAP_WRITE. -/
def execPwrCapWrite (v : BitVec 32) (s : State) : Host.Outcome State Fault Refusal := ret (s.pwrCapWrite (v.setWidth 64))

/-- learn_clear acts at the next boundary (R394). -/
def State.learnClear (s : State) : State := { s with regl := { s.regl with clear := true } }

/-- attr_clear zeroes every attribution counter and residual. -/
def State.attrClear (s : State) : State :=
  { s with regs := Tab.clear (rPwr 0x140) 0x20 (Tab.clear (rPwr 0x1000) 0x200 (Tab.clear (rPwr 0x2000) 0x800 s.regs)) }

/-- LEARN_CLEAR. -/
def execLearnClear (s : State) : Host.Outcome State Fault Refusal := ret s.learnClear
/-- ATTR_CLEAR. -/
def execAttrClear (s : State) : Host.Outcome State Fault Refusal := ret s.attrClear

/-! ### The Escapement (R379) -/

/-- The Escapement of die d is armed: 64 unstretched ACLK cycles, of k / 153.6 ns each, have passed since its last stretch. -/
def State.armed (s : State) (d : Nat) : Bool :=
  !hasNat s.stretch d && (match Tab.get none d s.escEnd with
    | some e => 640 * Nat.max 86 (s.rf (rDie d) 55 9) ≤ 1536 * (s.time - e).toNat
    | none => true)

/-- DROOP_DETECT: an armed Escapement of die d begins to stretch; in Midnight no ACLK runs. -/
def execDroopDetect (d : Nat) (s : State) : Host.Outcome State Fault Refusal :=
  ret (if d < 4 && s.hasDie d && s.armed d && !s.midnight then ({ s with stretch := d :: s.stretch }).bump (rPwr 0x28) 16 16 1 else s)

/-- STRETCH_END: after `cycles` stretched cycles; when a detector still fires after 32, the droop floor applies. -/
def execStretchEnd (d cycles : Nat) (still : Bool) (s : State) : Host.Outcome State Fault Refusal :=
  ret (if hasNat s.stretch d then
      let n := Nat.min 32 cycles
      let t := ({ s with stretch := s.stretch.filter (· != d) }).bump (rPwr 0x28) 32 32 n
      let t := { t with escEnd := Tab.put none d (some s.time) t.escEnd }
      if n = 32 && still then
        let t := (t.setRf (rDie d) 55 9 (Nat.min 256 (t.rf (rDie d) 55 9 + 8))).setRbit (rDie d) 51 true
        (t.bump (rPwr 0x28) 0 16 1).pulse 838
      else t
    else s)

/-! ### The trip (R385) -/

/-- Every rail group but the always-on island is off: what it feeds is lost; the Crown, the endpoint, the event controller, the
journal, PWR and THM stay. -/
def State.railsOff (s : State) : State :=
  { s with
    off := true
    regs := s.regs.filter fun r => r.1 < 0x500000
    cores := [], mem := [], chk := [], ctls := [], vsp := Vsp.reset, holds := []
    fabTx := [], fabRx := [], router := [], arb := [], txCred := [], granted := [], occ := [], arrived := []
    altRun := [], deadLinks := [], deadOwn := [], fseqOwn := 0, fseqSeen := [], violNow := [], quiet := []
    oports := [], badSpares := [], fan := [], meshWait := [], trainQ := []
    dmods := [], steer := [], steerLast := [], movedFlows := [], drCred := [], drPart := [], drOwed := [], drQueue := [], attached := []
    rsbOut := [], rsbRid := [], epochs := [], rldJobs := [], rlc := [], homeQ := [], replies := [], selfRsp := []
    dma := [], colGrps := [], colSites := [], colWait := [], colTurn := [], recalling := [], recalDue := [], heatMove := [], heatTemp := []
    stretch := [], escEnd := [], rechecks := [] }

/-- READY bits of what no longer works: cores, stacks, ports, and all of misc but the Crown and the endpoint (R444). -/
def State.unready (s : State) : State :=
  (((s.setReg (rBoot 0x100) 0).setReg (rBoot 0x108) 0).setReg (rBoot 0x110) 0).setReg (rBoot 0x118)
    (s.reg (rBoot 0x118) &&& 0x3000000)

/-- A trip with a cause and a place; latched until PORST_N. -/
def State.trip (s : State) (cause place : Nat) : State :=
  if s.tripped then s
  else
    let t := ((s.setRbit (rThm 0) 31 true).setRf (rThm 0) 28 3 cause).setRf (rThm 0) 22 6 place
    let t := ((t.setRf (rThm 0x300) 21 10 1000).setLevel 847 true)
    let t := t.journalPut 0x72 1 0 0 (toBytes 4 (t.rf (rThm 0) 0 32))
    t.railsOff.unready

/-- A die of THM_DIEd is mounted and powered. -/
def State.hasTDie (s : State) (die : Nat) : Bool := if die < 4 then s.hasDie die else die < 8 && s.hasIo (die - 4)

/-- ANALOG_TRIP: die 0 to 3 a compute die, 4 to 7 an I/O die. With PORST_N low it trips too (R481). -/
def execAnalogTrip (die : Nat) (s : State) : Host.Outcome State Fault Refusal :=
  ret (if s.vin && (!s.off || s.porst) && ({ s with off := false }).hasTDie die then s.trip (if die < 4 then 1 else 2) die else s)

/-! ### The thermal model (R380-R384) -/

def nodesOf (die : Nat) : Nat := if die < 4 then 20 else 4

/-- The model temperature of a node. -/
def State.node (s : State) (die n : Nat) : Nat := Tab.get 0 (64 * die + n) s.therm.nodes

/-- The hottest node of a die: its temperature and its number. -/
def State.hottest (s : State) (die : Nat) : Nat × Nat :=
  (List.range (nodesOf die)).foldl (fun m n => if m.1 < s.node die n then (s.node die n, n) else m) (s.node die 0, 0)

/-- Thresholds as they act: never above the default, and none below the one before it (R383). -/
def actThr (defaults written : List Nat) : List Nat :=
  ((defaults.zip written).foldl (fun (a : List Nat × Nat) p => let v := Nat.max a.2 (Nat.min p.1 p.2); (a.1 ++ [v], v)) ([], 0)).1

/-- The step of a part after a judgement (R384): up at once to the highest threshold reached, down one at a time after 10 ms. `unit`
is the part's judgements in 10 ms, `inc` 1 for one of them. -/
def judgeStep (thr : List Nat) (step calm hot proj unit inc : Nat) : Nat × Nat :=
  let reached := (List.range thr.length).foldl (fun m i =>
    if 8 * nth 0 thr i ≤ hot || 8 * nth 0 thr i + 16 ≤ proj then i + 1 else m) 0
  if step < reached then (reached, 0)
  else if step = 0 then (0, 0)
  else
    let low := 8 * nth 0 thr (step - 1)
    if hot + 24 ≤ low && proj + 24 ≤ low then (if unit ≤ calm + inc then (step - 1, 0) else (step, calm + inc)) else (step, 0)

/-- The Crown's record has been applied: thresholds hold. -/
def State.thermalUp (s : State) : Bool := s.crown == 2 || s.crown == 4

/-- The step of die or stack changed: the events of Table 6. -/
def State.stepEvents (s : State) : State :=
  let t := s.pulse 834
  let t := iter 4 (fun d t => t.setLevel (842 + d) (t.dieStep d != 0)) t
  let t := t.setLevel 837 ((List.range 4).any fun i => t.dieStep (4 + i) != 0)
  t.setLevel 846 (t.reg (rThm 0x200) != 0)

/-- Judge a die's step and firmware trip; `inc` is 1 for a model update, the judgement that 10 ms are counted in. -/
def State.judgeDie (s : State) (die inc : Nat) : State :=
  let hot := (s.hottest die).1
  let proj := Tab.get 0 die s.therm.proj
  let c := s.reg (rThm 8)
  let r := s.reg (rThm 0x10)
  let thr := if die < 4 then actThr [100, 104, 108, 111] [fld c 24 8, fld c 16 8, fld c 8 8, fld c 0 8] else actThr [100] [fld r 16 8]
  let tripAt := if die < 4 then Nat.min 113 (fld r 24 8) else Nat.min 110 (fld r 8 8)
  if !s.thermalUp then s
  else if s.crown == 2 && 8 * tripAt ≤ hot then s.trip (if die < 4 then 3 else 4) die
  else
    let q := judgeStep thr (s.dieStep die) (Tab.get 0 die s.therm.calm) hot proj 1000 inc
    let t := { s with therm := { s.therm with calm := Tab.put 0 die q.2 s.therm.calm } }
    if q.1 = s.dieStep die then t else (t.setRf (rTDie die) 32 4 q.1).stepEvents

/-- The margins of R380 and R382: 5 °C each under MODEL_DIVERGED and for a broken diode. -/
def State.margin (s : State) (die n : Nat) : Nat :=
  (if s.rbit (rPwr 0x18) 27 then 40 else 0) + (if (Tab.get Diode.reset (64 * die + n) s.therm.diodes).broken then 40 else 0)

/-- model_max and hot_node follow the nodes. -/
def State.showDie (s : State) (die : Nat) : State :=
  let h := s.hottest die
  (s.setRf (rTDie die) 53 11 (Nat.min 2047 h.1)).setRf (rTDie die) 36 6 h.2

/-- THERMAL_MODEL_UPDATE: the node temperatures that the model gives, and its projection of the hottest 1 ms ahead. -/
def execThermalModelUpdate (die : Nat) (temps : List Nat) (projected : Nat) (s : State) : Host.Outcome State Fault Refusal :=
  ret (if s.hasTDie die then
      let nodes := (List.range (nodesOf die)).foldl (fun t n => Tab.put 0 (64 * die + n) (nth 0 temps n + s.margin die n) t) s.therm.nodes
      let extra := if s.rbit (rPwr 0x18) 27 then 40 else 0
      let t := { s with therm := { s.therm with nodes := nodes, proj := Tab.put 0 die (projected + extra) s.therm.proj } }
      (t.showDie die).judgeDie die 1
    else s)

/-- Set a node. -/
def State.setNode (s : State) (die n : Nat) (v : Int) : State :=
  { s with therm := { s.therm with nodes := Tab.put 0 (64 * die + n) v.toNat s.therm.nodes } }

/-- A DIODE record (R454); its detail has no layout (log 32). -/
def State.diodeJournal (s : State) (die : Nat) : State :=
  s.journalOpen 0x70 0 (if die < 4 then 1 else 5) (die % 4)

/-- A diode is found broken (R382): outside -20 to 150 °C, or a jump of more than 15 °C while the model moved by less than 3 °C, or apart
from the model for ten rounds while a neighbour is near its own. -/
def Diode.bad (d : Diode) (m v : Int) (apart : Nat) (near : Bool) : Bool :=
  decide (v < -160) || decide (1200 < v)
    || (match d.last with
        | some l => decide (120 < (v - l).natAbs) && decide ((m - d.model).natAbs < 24)
        | none => false)
    || (decide (10 ≤ apart) && near)

/-- One diode of a round (R381, R382): the reading corrects the model, disagrees, or finds the diode broken. -/
def State.diodeOne (s : State) (die n : Nat) (v : Int) (near : Bool) : State :=
  let key := 64 * die + n
  let d := Tab.get Diode.reset key s.therm.diodes
  let m : Int := s.node die n
  let gap := (v - m).natAbs
  let apart := if gap ≤ 80 then 0 else d.apart + 1
  let bad := d.bad m v apart near
  if d.broken then s
  else
    let t := { s with therm := { s.therm with diodes := Tab.put Diode.reset key ⟨some v, m, apart, bad⟩ s.therm.diodes } }
    if bad then ((t.setNode die n (m + 40)).diodeJournal die).pulse 835
    else if gap ≤ 80 then t.setNode die n (m + (v - m) / 4)
    else t

/-- Broken diodes of a die, and of the package. -/
def State.brokenOf (s : State) (die : Nat) : Nat :=
  (s.therm.diodes.filter fun x => x.1 / 64 == die && x.2.broken).length

/-- A node's diode is not broken. -/
def State.works (s : State) (die i : Nat) : Bool := !(Tab.get Diode.reset (64 * die + i) s.therm.diodes).broken

/-- A node's diode is not broken, and its reading is within 3 °C of the model. -/
def State.agrees (s : State) (die : Nat) (readings : List Int) (i : Nat) : Bool :=
  i < nodesOf die && s.works die i && decide ((nth 0 readings i - (s.node die i : Int)).natAbs ≤ 24)

/-- A neighbour agrees. Neighbouring nodes are those of the next numbers (log 51). -/
def State.near (s : State) (die : Nat) (readings : List Int) (i : Nat) : Bool :=
  s.agrees die readings (i + 1) || (1 ≤ i && s.agrees die readings (i - 1))

/-- Every working diode is more than 10 °C from the model. -/
def State.allApart (s : State) (die : Nat) (readings : List Int) : Bool :=
  ((List.range (nodesOf die)).all fun i => !s.works die i || decide (80 < (nth 0 readings i - (s.node die i : Int)).natAbs))
    && (List.range (nodesOf die)).any (s.works die)

/-- One reading for each node of a die. -/
def State.diodes (s : State) (die : Nat) (readings : List Int) : State :=
  iter (nodesOf die) (fun i t => t.diodeOne die i (nth 0 readings i) (s.near die readings i)) s

/-- Rounds in a row in which every diode of a die was apart: in the tenth the diodes' values are taken (R381). -/
def State.countApart (t : State) (die n : Nat) : State :=
  { t with therm := { t.therm with allBad := Tab.put 0 die n t.therm.allBad } }

/-- A die's register, and the package's count of broken diodes, after a round. -/
def State.showDiodes (t : State) (die : Nat) (readings : List Int) : State :=
  let top := ((List.range (nodesOf die)).filter (t.works die)).foldl (fun m i => max m (nth 0 readings i)) 0
  let total := ((List.range 8).map t.brokenOf).sum
  let t := ((t.setRf (rTDie die) 42 11 (Nat.min 2047 top.toNat)).setRf (rTDie die) 24 8 (t.brokenOf die))
  t.setRf (rThm 0) 12 8 (Nat.min 255 total)

/-- DIODE_ROUND: one reading a node. -/
def execDiodeRound (die : Nat) (readings : List Int) (s : State) : Host.Outcome State Fault Refusal :=
  ret (if s.hasTDie die then
      let rounds := if s.allApart die readings then Tab.get 0 die s.therm.allBad + 1 else 0
      let t := s.diodes die readings
      let t :=
        if 10 ≤ rounds then
          ((iter (nodesOf die) (fun i t => if s.works die i then t.setNode die i (nth 0 readings i) else t) t).diodeJournal die).countApart die 0
        else t.countApart die rounds
      ((t.showDiodes die readings).showDie die).judgeDie die 0
    else s)

/-- HBM_TEMP_ROUND (R211, R380, R383-R385): the refresh level by the sensor, in °C; the stack's step and trip by the sensor and the model
node, which the sensor has corrected, and by the node's projection. -/
def execHbmTempRound (st : Nat) (r : TempRound) (s : State) : Host.Outcome State Fault Refusal :=
  ret (if !s.hasStack st then s
    else
      let t := s.refreshRound st r.temp
      let t := { t with therm := { t.therm with nodes := Tab.put 0 (64 * 9 + st) r.node t.therm.nodes } }
      let c := t.reg (rThm 0x18)
      let step := t.rf (rThm 0x200) (2 * st) 2
      let hot := Nat.max (8 * r.temp) r.node
      if !t.thermalUp then t
      else if 8 * Nat.min 105 (fld c 8 8) ≤ hot then t.trip 5 (32 + st)
      else
        let q := judgeStep (actThr [97, 100] [fld c 24 8, fld c 16 8]) step (Tab.get 0 (32 + st) t.therm.calm) hot r.projected 10 1
        let t := { t with therm := { t.therm with calm := Tab.put 0 (32 + st) q.2 t.therm.calm } }
        if q.1 = step then t else (t.setRf (rThm 0x200) (2 * st) 2 q.1).stepEvents)

/-- PACKAGE_NODE_UPDATE (R380): the nodes that the Crown's model gives; the cold plate is shown. -/
def execPackageNodeUpdate (substrate coldPlate coolant : Nat) (s : State) : Host.Outcome State Fault Refusal :=
  ret (if s.crownUp then
      let put (n v : Nat) (t : Tab Nat) : Tab Nat := Tab.put 0 (64 * 8 + n) v t
      let t := { s with therm := { s.therm with nodes := put 0 substrate (put 1 coldPlate (put 2 coolant s.therm.nodes)) } }
      t.setRf (rThm 0x300) 31 11 (Nat.min 2047 coldPlate)
    else s)

/-! ### The coolant loop (R386, R387) -/

/-- COOL_DUTY_UPDATE: 0.1 % units; the integral is held between 0 and 100 %. -/
def execCoolDutyUpdate (s : State) : Host.Outcome State Fault Refusal :=
  ret (if !s.vin then s
    else if !s.crownUp || s.tripped || s.rbit (rThm 0x300) 20 || s.rbit (rThm 0x300) 19 then s.setRf (rThm 0x300) 21 10 1000
    else
      let hot := (s.dies.map fun d => (s.hottest d).1).foldl Nat.max 0
      let e : Int := (hot : Int) - 8 * (s.rf (rThm 0x308) 24 8 : Int)
      let sum : Int := max 0 (min 200000 ((s.therm.integ : Int) + e))
      let lo := 10 * Nat.min 100 (s.rf (rThm 0x308) 8 8)
      let v : Int := (24 * (s.rf (rPwr 0x20) 48 16 : Int) + 1000 * e + sum) / 200
      let duty := Nat.min 1000 (Nat.max lo v.toNat)
      ({ s with therm := { s.therm with integ := sum.toNat } }).setRf (rThm 0x300) 21 10 duty)

/-- A thermistor reading as a register shows it. -/
def showTemp (v : Int) : Nat := Nat.min 2047 v.toNat

/-- A thermistor's state after a reading: out of range it is broken, until it has read in range for 1 s. -/
def thermistor (broken : Bool) (ok : Nat) (v : Int) : Bool × Nat :=
  if v < -80 || 960 < v then (true, 0)
  else if broken then (if 100 ≤ ok + 1 then (false, 0) else (true, ok + 1))
  else (false, 0)

/-- COOLANT_READ (R387). -/
def execCoolantRead (inlet outlet : Int) (s : State) : Host.Outcome State Fault Refusal :=
  ret (if !s.vin then s
    else
      let r := rThm 0x300
      let a := thermistor (s.rbit r 20) s.therm.okIn inlet
      let b := thermistor (s.rbit r 19) s.therm.okOut outlet
      let hot := !a.1 && 8 * s.rf (rThm 0x308) 16 8 < showTemp inlet
      let t := { s with therm := { s.therm with okIn := a.2, okOut := b.2 } }
      let t := ((t.setRf r 53 11 (showTemp inlet)).setRf r 42 11 (showTemp outlet)).setRbit r 20 a.1
      let t := ((t.setRbit r 19 b.1).setRbit r 18 hot).setRbit (rPwr 0x18) 26 hot
      (t.setRbit (rThm 0) 20 (a.1 || b.1)).setLevel 836 (a.1 || b.1))

/-! ### Modes and Midnight (R34, R35, R388, R389) -/

/-- The lasers of every mounted I/O die enter a state (R294, R295): 3 keep-alive, from set point alone; 4 off. -/
def State.lasers (s : State) (v : Nat) : State :=
  iter 4 (fun i t => if t.hasIo i && (v == 4 || t.rf (rOpt i 0) 29 3 == 2) then t.setRf (rOpt i 0) 29 3 v else t) s

/-- Every port reports down to its partner, in the way of a failed link (R35, R313): FAULT notices leave for every live neighbour, then the
ports are DOWN (v = 1), or in MIDNIGHT (v = 4) with those that were down already; nothing waits to be trained. -/
def State.portsDown (s : State) (v : Nat) : State :=
  let t := s.liveDirs.foldl State.dirDies { s with trainQ := [] }
  let t := iter 32 (fun p t => if t.portUp p then State.flushVc0 p t.router.length t else t) t
  let t := iter 32 (fun p t => if t.hasPort p && 2 ≤ t.rf (rPort p 0) 61 3 then t.portDown p 0 else t) t
  if v = 1 then t
  else (iter 32 (fun p t => if t.hasPort p then (t.setRf (rPort p 0) 61 3 v).setRf (rPort p 0) 58 3 0 else t) t).mapChange

/-- A write to PWR_MODE: it takes effect at the next interval boundary; Midnight is held until nothing is in flight, and any other mode
ends a held request (R34, R389). A request for Midnight under a latched trip is ignored (R394). -/
def State.pwrModeWrite (s : State) (v : W64) : State :=
  let want := fld v 0 2
  if want = 3 && s.tripped then s
  else
    let t := s.setRf (rPwr 0) 0 2 want
    t.setRbit (rPwr 0x18) 29 (want == 3 && t.powerMode != 3)

/-- PWR_MODE_WRITE. -/
def execPwrModeWrite (v : BitVec 32) (s : State) : Host.Outcome State Fault Refusal := ret (s.pwrModeWrite (v.setWidth 64))

/-- No core is running and no DMA, collective or Roseb operation is in flight, neither at a die, at the home nor on its way in; no module
replays, and no takeover or sparing runs (R34, R273, R297, R388). -/
def State.quiet' (s : State) : Bool :=
  (List.range 64).all (fun c => !s.hasCore c || (s.core c).run == .stopped || (s.core c).run == .faulted)
    && s.dma.all (fun x => x.2.work.isNone) && s.colSites.all (fun x => x.2.run.isNone) && s.rsbOut.isEmpty && s.homeQ.isEmpty
    && s.arrived.all (fun q => q.2.kind != 1 && q.2.kind != 6)
    && (List.range 4).all (fun io => (s.heldOf io).all fun k => k.kind != 1 && k.kind != 6)
    && s.drQueue.isEmpty && s.dmods.all (fun x => x.2.fails == 0) && !s.sparing && !s.vsp.running

/-- MIDNIGHT_ENTRY (R388). -/
def execMidnightEntry (s : State) : Host.Outcome State Fault Refusal :=
  ret (if s.rbit (rPwr 0x18) 29 && s.quiet' && !s.off && !s.pwrFail then
      let t := ((s.portsDown 4).stacksTo 2 4).lasers 3
      let t := (t.setRbit (rPwr 0x18) 29 false).setRf (rPwr 0x18) 30 2 3
      (t.setLevel 839 true).pulse 840
    else s)

end Sys2Proof.Machine
end

