-- ==== Sys2Proof/Machine/Resilience.lean ====
section
/-! DEFINITION. Failure handling (18_resilience.md): dead dies, the journal, the fault map, drain and the power-fail sequence. -/

namespace Sys2Proof.Machine

/-! ### Dead dies (R450) -/

/-- Compute die d is dead: its READY bits clear, its work is gone, a snapshot in progress aborts (cause 5). -/
def State.dieDead (s : State) (d : Nat) : State :=
  if hasNat s.deadDies d then s
  else
    let t := s.setRf (rBoot 0x100) (16 * d) 16 0
    let t := ((t.setRf (rBoot 0x108) (8 * d) 8 0).setRbit (rBoot 0x118) d false).vspAbort
    let t := iter 16 (fun c t => t.setCore (16 * d + c) Core.reset) t
    let t := { t with deadDies := d :: t.deadDies, dma := Tab.clear (64 * d) 64 (Tab.clear (256 + 8 * d) 8 t.dma),
                      rldJobs := t.rldJobs.filter fun (j : RldJob) => j.core / 16 != d }
    (t.journalOpen 0x11 1 1 d).mapChange

/-- DIE_HEALTH_CHECK: `regulated` is false when the die's rail groups have read outside regulation for 1 ms. -/
def execDieHealthCheck (d : Nat) (answered regulated : Bool) (s : State) : Host.Outcome State Fault Refusal :=
  ret (if !s.crownUp || !(d < 4 && s.hasDie d) then s
    else
      let n := if answered then 0 else Tab.get 0 d s.dieMiss + 1
      let t := { s with dieMiss := Tab.put 0 d n s.dieMiss }
      if 3 ≤ n || !regulated || !hasNat (s.reach [d]) 4 then t.dieDead d else t)

/-- FAULT_N is low (R485). -/
def State.faultLow (s : State) : Bool :=
  s.crown != 2 || s.porst || s.tripped || s.pwrFail || !s.deadDies.isEmpty || (List.range 32).any fun st => s.hbmState st == 5

/-! ### The journal (R452-R456) -/

/-- Bytes of a record, check included (R453). -/
def JRec.bytes (r : JRec) : Bytes :=
  let l := toBytes 4 r.seq ++ toBytes 4 r.boot ++ toBytes 8 r.time.toNat ++ toBytes 2 r.unit
    ++ toBytes 1 (4 * (r.uclass % 16) + 64 * (r.cls % 4)) ++ toBytes 1 r.kind ++ (r.detail ++ List.replicate 36 0).take 36
  l ++ toBytes 8 (crc64 l).toNat

/-- JOURNAL_COMMIT: the oldest waiting record is written and source 970 pulses. When the backlog has cleared, the dropped records
are told in a DROPPED record, the next to be committed. -/
def execJournalCommit (s : State) : Host.Outcome State Fault Refusal :=
  ret (if !s.vin || s.porst then s
    else match s.backlog with
      | [] => s
      | r :: rest =>
        let t := { s with backlog := rest, journal := (s.journal ++ [{ r with seq := s.jNext }]).drop (s.journal.length - 4095),
                          jNext := (s.jNext + 1) % 2 ^ 32 }
        let t := if rest.isEmpty && t.jDropped != 0 then
            ({ t with jDropped := 0 }).journalPut 0x04 2 0 0 (toBytes 4 t.jDropped)
          else t
        t.pulse 970)

/-- HEALTH_RECORD (R455); its detail has no layout (log 32). -/
def execHealthRecord (s : State) : Host.Outcome State Fault Refusal := ret (if s.crownUp then s.journalOpen 0x02 2 0 0 else s)

/-- JRNL_READ's effect (R451, R456). With nothing copied, the first seq of the reply is open (log 2). -/
def State.doJrnlRead (s : State) : State :=
  s.hostDo 0x40 fun t =>
    let n := Nat.min 4096 (t.hostReg 3)
    let l := (t.journal.filter fun r => t.hostReg 2 ≤ r.seq).take n
    let first := match l with | r :: _ => r.seq | [] => (Config.freeBits 64 t.freeIx).toNat
    let u := t.store (t.hostReg 1) ((l.map JRec.bytes).flatten) false
    (u.fresh, 0, [(1, l.length), (2, first), (3, t.jNext)])

/-- JRNL_READ. -/
def execJrnlRead (s : State) : Host.Outcome State Fault Refusal := ret (if s.crownUp then s.doJrnlRead else s)

/-! ### The fault map (R457) -/

/-- A mask of the numbers below n that satisfy p. -/
def maskOf (n : Nat) (p : Nat → Bool) : Nat := ((List.range n).map fun i => if p i then 2 ^ i else 0).sum

/-- Compute dies a and b cannot reach each other (R21). -/
def State.cutPair (s : State) (a b : Nat) : Bool := a != b && s.hasDie a && s.hasDie b && !hasNat (s.reach [a]) b

/-- A port's eight bytes. -/
def State.portWord (s : State) (p : Nat) : Nat :=
  let r := s.reg (rPort p 0)
  if !s.hasPort p then 0
  else
    fld r 61 3 * 2 ^ 61 + fld r 58 3 * 2 ^ 58 + s.rf (rFabPort p) 61 3 * 2 ^ 55 + (s.quar p).toNat * 2 ^ 54
      + popcount (s.txMap p) * 2 ^ 50 + popcount (s.rxMap p) * 2 ^ 46 + fld r 16 5 * 2 ^ 16 + fld r 0 16

/-- The 512 bytes of the fault map. -/
def State.faultMapBytes (s : State) : Bytes :=
  toBytes 8 s.mapGen ++ toBytes 2 s.self.toNat ++ toBytes 2 (s.rf (rBoot 0x10) 32 16) ++ toBytes 4 0 ++ toBytes 8 s.mapTime.toNat
    ++ toBytes 2 (maskOf 16 fun i => s.cutPair (i / 4) (i % 4))
    ++ toBytes 1 (maskOf 8 fun g => s.rf (rD2d g 0) 61 3 == 4) ++ toBytes 1 (maskOf 4 (hasNat s.deadDies))
    ++ toBytes 1 (maskOf 4 fun i => s.rf (rD2d (4 + i) 0) 61 3 == 4) ++ toBytes 1 (maskOf 4 fun i => s.rf (rEng i 0) 30 2 == 2)
    ++ toBytes 2 0 ++ toBytes 4 (maskOf 32 fun st => s.hbmState st == 5) ++ toBytes 28 0
    ++ ((List.range 32).map fun p => toBytes 8 (s.portWord p)).flatten ++ List.replicate 192 0

/-- FAULT_MAP's effect: one snapshot of the map. -/
def State.doFaultMap (s : State) : State :=
  s.hostDo 0x41 fun t => (t.store (t.hostReg 1) t.faultMapBytes false, 0, [(1, t.mapGen)])

/-- FAULT_MAP. -/
def execFaultMap (s : State) : Host.Outcome State Fault Refusal := ret (if s.crownUp then s.doFaultMap else s)

/-! ### Drain (R465) -/

/-- A channel's work is cut at its next unit boundary: the descriptor in progress ends with BAD_BUS, and the list ends. -/
def State.cutChannel (s : State) (ch : Nat) : State :=
  (s.modWork ch fun w => { w with stop := true }).modCur ch fun c => { c with code := if c.code = 0 then 0x30 else c.code }

/-- Steps 1 and 2: job queues disabled, cores aborted, groups torn down, die channels 0 to 6 aborted, core DMA cut. -/
def State.drainStart (s : State) : State :=
  let t := iter 4 (fun q t => t.setRbit (jqCtrl q) 31 false) s
  let t := iter 64 (fun c t => if t.hasCore c then t.coreAbort c else t) t
  let t := iter 16 (fun g t => t.colTeardown g) t
  let t := iter 4 (fun d t => iter 7 (fun j t => (t.chAbort d j).cutChannel (256 + 8 * d + j)) t) t
  iter 256 (fun ch t => t.cutChannel ch) t

/-- DRAIN's effect: BUSY while a drain runs. -/
def State.doDrain (s : State) : State :=
  if s.hostCmd == some 0x60 then
    if s.drainRun.isSome then s.hostDo 0x60 fun t => (t, 0x18, [])
    else { s.hostTake.drainStart with drainRun := some (s.reg (hostData 0)) }
  else s

/-- DRAIN. -/
def execDrain (s : State) : Host.Outcome State Fault Refusal := ret (if s.crownUp then s.doDrain else s)

/-- Steps 3 of Table 7 has ended: cores STOPPED, no channel runs, no group is set up, no Roseb request is outstanding. -/
def State.quiesced (s : State) : Bool :=
  (List.range 64).all (fun c => !s.hasCore c || (s.core c).run == .stopped) && s.dma.all (fun x => x.2.work.isNone)
    && (List.range 16).all (fun g => s.grpState g == 0) && s.rsbOut.all (fun q => q.kind == 6)

/-- DRAIN_COMPLETE: a snapshot still in progress aborts (cause 4), Vespers is off, the reply goes; `micros` is the drain's time. -/
def execDrainComplete (micros : Nat) (s : State) : Host.Outcome State Fault Refusal :=
  ret (match s.drainRun with
    | none => s
    | some cmd =>
      if s.crownUp && s.quiesced then
        let t := s.vspAbort
        let t := { t with vsp := { t.vsp with period := 0 }, drainRun := none }
        (t.journalOpen 0x91 2 0 0).hostReply cmd 0 [(1, t.vsp.complete), (2, micros)]
      else s)

/-! ### Power failure (R466, R467, R470) -/

/-- A slot being programmed is left partial: it fails R433 if it is ever named (R441). -/
def State.abandonUpdate (s : State) : State :=
  match s.update with
  | some u => { s with update := none, flash := Tab.put none u.slot (some { u.img with readOk := false }) s.flash }
  | none => s

/-- PWRFAIL_ASSERT: Table 8. While PORST_N is low only the latch sets (R496). `inTime` goes into FINAL_WORDS, whose detail has no
layout (log 32). -/
def execPwrfailAssert (inTime : Bool) (s : State) : Host.Outcome State Fault Refusal :=
  let _ := inTime
  ret (if !s.vin || s.pwrFail then s
    else if s.porst then { s with pwrFail := true }
    else
      let t := s.setLevel 841 true
      let t := iter 4 (fun d t => if t.hasDie d then t.setRf (rDie d) 55 9 256 else t) t
      let t := t.vspAbort
      let t := iter 288 (fun ch t => t.cutChannel ch) t
      let t := { t.abandonUpdate with pwrFail := true, drainRun := none }
      let t := ((t.portsDown 1).journalOpen 0x03 1 0 0).lasers 4
      t.stacksTo 2 4)

end Sys2Proof.Machine
end

