-- ==== Sys2Proof/Machine/Dawn.lean ====
section
/-! DEFINITION. Resets, the commit log, the configuration record and Dawn (17_dawn_and_trust.md). -/

namespace Sys2Proof.Machine

/-! ### What a reset leaves (R424 Table 1, R469) -/

/-- The part after PORST_N or a loss of power: reset values (R15), and what Table 1 keeps. An update in progress is abandoned
(R441); records not yet committed are lost (R469, R496); the levels of the GPIO pins stay latched (R486). -/
def State.cold (s : State) : State :=
  let t := s.abandonUpdate
  let gpio := s.rf (rEvc (0x2180 + 8 * 15)) 12 8
  let u := { State.reset with
    pending := s.pending, freeIx := s.freeIx, out := s.out, grade := s.grade, iodVer := s.iodVer, journal := s.journal
    jNext := s.jNext, flash := t.flash, commits := s.commits, otpGold := s.otpGold, otpOwner := s.otpOwner
    ownerKeys := s.ownerKeys, svnFloor := s.svnFloor, hppr := s.hppr, vin := s.vin, perst := s.perst, tapIr := s.tapIr, scan := s.scan }
  u.setRf (rEvc (0x2180 + 8 * 15)) 12 8 gpio

/-- The registers of the PCIe function that a package reset keeps (Table 1), and CRN_TIME. -/
def keptReg (off : Nat) : Bool :=
  off == rCrn 8 || off == rCrn 0x200 || off == rEvc 0x3100 || (rCrn 0x8000 ≤ off && off < rCrn 0x9010)

/-- The part after a package reset, before Dawn (Table 1). -/
def State.warm (s : State) : State :=
  let t := s.cold
  { t with regs := s.regs.foldr (fun x r => if keptReg x.1 then Tab.put 0 x.1 x.2 r else r) (t.regs.filter fun x => !keptReg x.1)
           cfg := s.cfg, backlog := s.backlog, jDropped := s.jDropped }

/-- PERST_N or a hot reset: the PCIe function alone (Table 1). A recovery boot keeps its window fixed (R447). -/
def State.pciReset (s : State) : State :=
  let t := { s with cfg := [], heldLo := [], capHi := [], regs := Tab.clear (rCrn 0x8000) 0x1010 s.regs }
  let t := iter 32 (fun v t => t.setReg (rCrn (0x8008 + 16 * v)) 0x100000000) t
  let t := t.setReg (rEvc 0x3100) 0xFFFFFFFF
  if s.crown = 3 then t else t.setReg (rCrn 0x200) 0

/-! ### The commit log (R428, R429) -/

/-- The latest entry and its place: the highest seq in either sector. -/
def State.latestAt (s : State) : Option (Nat × CEntry) :=
  s.commits.foldl (fun b x =>
    match x.2, b with
    | none, _ => b
    | some e, none => some (x.1, e)
    | some e, some m => if m.2.seq < e.seq then some (x.1, e) else b) none

/-- The latest entry; with none, image slot A and record slot A. -/
def State.latest (s : State) : CEntry :=
  match s.latestAt with
  | some x => x.2
  | none => { seq := 0, bootCount := 0, imgSlot := 0, recSlot := 0, imgTrial := false, trialCount := 0, reverted := false }

/-- The place of the next entry. -/
def State.nextPlace (s : State) : Nat := match s.latestAt with | none => 0 | some x => (x.1 + 1) % 2048

/-- Append an entry with the next seq: behind the latest, or first in the other sector once that one is full. The other sector is
erased once fewer than 16 entries of this one remain empty. -/
def State.append (s : State) (e : CEntry) : State :=
  let n := { e with seq := s.latest.seq + 1 }
  let key := s.nextPlace
  let other := 1024 - key / 1024 * 1024
  let first := key % 1024 = 0
  let l := if first then Tab.clear key 1024 s.commits else s.commits
  let l := Tab.put none key (some n) l
  { s with commits := if 1008 < key % 1024 + 1 then Tab.clear other 1024 l else l }

/-! ### Acceptance of images and records (R433, R435) -/

/-- A Goldotric or owner key slot is programmed and not revoked; programmed bits [7:4], revoked bits [3:0]. -/
def slotLive (otp : BitVec 8) (n : Nat) : Bool := n < 4 && bit otp (4 + n) && !bit otp n

/-- Bytes of a whole image (R430, R431). -/
def imageSize (i : Image) : Nat := 128 + i.length + 5376

/-- The header's fields, for a kind, in a slot of a size. -/
def headerOk (i : Image) (kind room : Nat) : Bool :=
  i.magic == 0x44544E31 && i.fmtVer == 1 && i.kind == kind && i.rsvdOk && imageSize i ≤ room
    && (i.serial == 0 || i.serial == Config.serial)

/-- The signer's slot and both signatures. -/
def State.signedOk (s : State) (i : Image) : Bool :=
  i.sigOk && match i.signer with
    | some n => slotLive (if i.kind = 1 then s.otpGold else s.otpOwner) n
    | none => false

def imageRoom : Nat := 56 * 2 ^ 20
def recordRoom : Nat := 2 ^ 20

/-- Bits of a register that are loaded from a record: the fields whose Reset is cfg (R15, R435). -/
def cfgMask (off : Nat) : W64 :=
  if off < 0x200000 then 0
  else if off < 0x300000 then (if off < rEvc 0x2000 && off % 8 = 0 then 0x70000000 else 0)
  else if off < 0x400000 then (if off = rPwr 0 then 3 else if off = rPwr 8 || off = rPwr 0x10 then 0xFFFF else 0)
  else if off < 0x500000 then
    (if off = rThm 8 then 0xFFFFFFFF else if off = rThm 0x10 || off = rThm 0x18 || off = rThm 0x308 then 0xFFFFFF00 else 0)
  else if off < 0x600000 then
    (match off % 0x8000 with | 8 => 3 | 16 => 0xFFFFFFFF | 24 => 0xFFFF00FF | _ => 0)
  else if off < 0x700000 then 0
  else if off < 0x800000 then
    let o := off % 0x40000
    if o = 0x20 then 0xFFFFFFFF else if 0x1000 ≤ o && o < 0x1800 && o % 0x100 = 8 then 0x20F00000 else 0
  else if off < 0x900000 then
    let o := off - 0x800000
    if o = 0 then 0xFFFF else if o = 8 then 0x7FFFFFFFF else if o = 0x10 || o = 0x18 then 0xFFFFFFFFFF
    else if 0x10000 ≤ o && o < 0x12000 && o % 8 = 0 then 0x80000000
    else if 0x13000 ≤ o && o < 0x13100 && o % 8 = 0 then 0xE000000000000000 else 0
  else if off < 0x980000 then (if off % 0x20000 = 0 then 0xFFFF0007 else 0)
  else if off = rCol 0x1000 then 0xFFFFFFFFFFFFFFFF
  else 0

/-- An entry of a record is well formed (R435). -/
def entryOk (w : BitVec 128) : Bool :=
  match fld w 120 8 with
  | 0 => cfgMask (fld w 64 26) != 0
  | 1 => fld w 40 3 ≤ 5 && fld w 36 4 ≤ 9
  | 2 => true
  | 3 => true
  | _ => false

/-- The image in an image slot (0 A, 1 B), if R433 accepts it. -/
def State.slotImage (s : State) (n : Nat) : Option Image :=
  match Tab.get none n s.flash with
  | some i => if i.readOk && headerOk i 1 imageRoom && s.signedOk i && s.svnFloor ≤ i.svn then some i else none
  | none => none

/-- The record in a record slot, if R433 and R435 accept it. -/
def State.slotRecord (s : State) (n : Nat) : Option Image :=
  match Tab.get none (2 + n) s.flash with
  | some i =>
    if i.readOk && headerOk i 2 recordRoom && s.signedOk i && i.entries.length ≤ 8192 && i.entries.all entryOk then some i else none
  | none => none

/-! ### Applying a record (R436) -/

/-- Defaults that the chapters give their cfg fields. -/
def cfgDefaults : List (Nat × W64) :=
  ((List.range 32).map fun st => (rHbm st 0x10, (86400 : W64)))
    ++ ((List.range 4).map fun i => (rOpt i 0x20, (0x0064080A : W64)))
    ++ [(rFab 8, 0x408102040), (rFab 0x10, 0x0A1E0A1E14), (rFab 0x18, 0x0800C80014)]
    ++ ((List.range 4).map fun i => (rRsb i 0, (0x03E80003 : W64)))
    ++ [(rCol 0x1000, 0x0040000000010000), (rPwr 8, 4500), (rThm 8, 0x64686C6F), (rThm 0x10, 0x71646E00), (rThm 0x18, 0x61646900),
        (rThm 0x308, 0x552D1400)]

/-- A part that answers at its registers: one that is not mounted reads zero and ignores writes (R3), the blocks of a dead die read
zero (R450). -/
def State.mountedReg (s : State) (off : Nat) : Bool :=
  let alive (d : Nat) : Bool := !hasNat s.deadDies d
  if off < 0x500000 then true
  else if off < 0x600000 then
    let st := (off - 0x500000) / 0x8000
    s.hasStack st && alive (st / 8)
  else if off < 0x700000 then
    let g := (off - 0x600000) / 0x1000
    g < 8 && s.hasGroup g
  else if off < 0x800000 then s.hasIo ((off - 0x700000) / 0x40000)
  else if off < 0x900000 then
    let o := off - 0x800000
    if 0x13000 ≤ o && o < 0x14000 then s.hasPort ((o - 0x13000) / 8)
    else if 0x20000 ≤ o then s.hasIo ((o - 0x20000) / 0x100) else !s.off
  else if off < 0x980000 then s.hasIo ((off - 0x900000) / 0x20000)
  else if off < 0xA00000 then
    let d := (off - 0x980000) / 0x100
    d < 4 && s.hasDie d && alive d
  else if off < 0xB00000 then
    let o := off - 0xA00000
    if 0x8000 ≤ o then s.hasIo ((o - 0x8000) / 0x100) else !s.off
  else if off < 0xC00000 then
    let d := (off - 0xB00000) / 0x40000
    s.hasDie d && alive d
  else if 0x1000000 ≤ off && off < 0x2000000 then
    let c := (off - 0x1000000) / 0x40000
    s.hasCore c && alive (c / 16)
  else false

/-- Load cfg fields of one register. -/
def State.loadCfg (s : State) (off : Nat) (v : W64) : State :=
  if s.mountedReg off then
    let m := mergeMask (cfgMask off) (s.reg off) v
    if 0x200000 ≤ off && off < 0x202000 then s.srcCfg ((off - 0x200000) / 8) m else s.setReg off m
  else s

/-- Apply one entry of a record (R435). A port entry with fibre 8 or 9 names the partner of that spare pair (R288); for a port that has an
entry with the same partner it does no more (log 88). -/
def State.applyEntry (s : State) (w : BitVec 128) : State :=
  match fld w 120 8 with
  | 0 => s.loadCfg (fld w 64 26) (bits w 0 64)
  | 1 =>
    let p := fld w 96 5
    let f := fld w 36 4
    let m : PortMap := ⟨bits w 48 16, fld w 43 5, f⟩
    if s.hasPort p then
      let t := if 8 ≤ f then { s with spareMap := Tab.put none (16 * (p / 8) + f) (some (m.fid, m.port)) s.spareMap } else s
      if 8 ≤ f && (match Tab.get none p s.portMap with | some x => x.fid == m.fid && x.port == m.port | none => false) then t
      else { t.setRf (rFabPort p) 61 3 (fld w 40 3) with portMap := Tab.put none p (some m) t.portMap }
    else s
  | 2 => { s with pkgParams := Tab.put 0 (fld w 96 2) (bits w 0 32) s.pkgParams }
  | 3 => { s with numDefault := bit w 0 }
  | _ => s

/-- The record is applied: defaults first, then its entries in order; modes take effect as they start (R33, R436). -/
def State.applyRecord (s : State) (entries : List (BitVec 128)) : State :=
  let t := cfgDefaults.foldl (fun t d => t.loadCfg d.1 d.2) s
  let t := entries.foldl State.applyEntry t
  let t := iter 32 (fun st t => if t.hasStack st then t.schedApply st else t) t
  let want := t.rf (rPwr 0) 0 2
  if want = 3 then t.setRbit (rPwr 0x18) 29 true else t.setRf (rPwr 0x18) 30 2 want

/-! ### Bring-up of every function (Table 2 steps 4 to 16) -/

/-- The modules of a group start (R254, R256 steps 1 and 2): retimed between Goldotric dies, for normal mode at an endpoint (R268); the
leader begins the role exchange (R263). -/
def State.startGroup (s : State) (g : Nat) : State :=
  if s.hasGroup g then
    let v := if s.endpointGroup g then 2 else 1
    (iter (modulesOf g) (fun m t => (t.setRf (rMod g m) 61 3 v).roleStart g m) s).judgeGroup g
  else s

/-- The functions that start with the Crown: those with a bring-up of their own begin it, the others are ready. -/
def State.bringUp (s : State) : State :=
  let t := iter 8 (fun g t => t.startGroup g) s
  let t := iter 64 (fun c t => if t.hasCore c then (t.setRun c .stopped).setRbit (rBoot 0x100) c true else t) t
  let t := iter 4 (fun d t => if t.hasDie d then t.setRbit (rBoot 0x118) d true else t) t
  let t := iter 32 (fun st t => if t.hasStack st && st % 8 < 4 then t.setStackState st 1 else t) t
  let t := iter 4 (fun i t =>
    if t.hasIo i then
      let t := ((t.setRf (rEng i 0) 30 2 1).setRf (rEng i 0) 0 14 12288).setRbit (rBoot 0x118) (16 + i) true
      (t.setRbit (rBoot 0x118) (20 + i) true).dieLit i
    else t) t
  t.setRbit (rBoot 0x118) 26 (!t.off)

/-! ### Dawn (R425) -/

def gradeCode : Grade → Nat
  | .msn4432 => 1 | .msn4416 => 2 | .msn4232 => 3 | .msn2216 => 4

/-- The position of an I/O die is occupied in a grade (R2). -/
def gradeIo (g : Grade) (i : Nat) : Bool := match g with | .msn4432 => i < 4 | .msn4416 => i < 4 | _ => i == 0 || i == 2

/-- Identity (step 2): BOOT_ID and BOOT_SERIAL. -/
def State.identify (s : State) : State :=
  let ver := ((List.range 4).map fun i =>
    (if nth 0 s.iodVer i == 3 || gradeIo s.grade i then nth 0 s.iodVer i % 4 else 0) * 4 ^ i).sum
  (s.setReg (rBoot 0) (BitVec.ofNat 64 (gradeCode s.grade * 2 ^ 56 + ver * 2 ^ 48))).setReg (rBoot 8) Config.serial

/-- The entry of this Dawn before any image is tried (R429, R440). -/
def trialStep (e : CEntry) : CEntry :=
  if !e.imgTrial then e
  else if e.trialCount < 3 then { e with trialCount := e.trialCount + 1 }
  else { e with imgSlot := 1 - e.imgSlot, imgTrial := false, trialCount := 0, reverted := true }

/-- The image slots to try, in order (R438). -/
def slotOrder (sel : Nat) (e : CEntry) : List Nat :=
  match sel with | 0 => [e.imgSlot, 1 - e.imgSlot] | 1 => [0] | 2 => [1] | _ => []

/-- BOOT_STATUS as the boot leaves it, but for the stage. -/
def bootStatus (e : CEntry) (trial reverted absent recBad : Bool) (imgBad sel : Nat) : W64 :=
  BitVec.ofNat 64 (e.bootCount % 2 ^ 32 + (e.bootCount % 65535 + 1) * 2 ^ 32 + sel % 4 * 2 ^ 50 + recBad.toNat * 2 ^ 52
    + imgBad % 4 * 2 ^ 53 + absent.toNat * 2 ^ 55 + e.recSlot % 2 * 2 ^ 56 + reverted.toNat * 2 ^ 57 + trial.toNat * 2 ^ 58
    + e.imgSlot % 2 * 2 ^ 59)

/-- The entry is appended; its boot count and epoch are adopted (R429). -/
def State.adopt (s : State) (e : CEntry) (status : W64) : State :=
  iter 4 (fun i t => t.setRf (rRsb i 8) 0 16 (e.bootCount % 65535 + 1)) ((s.append e).setReg (rBoot 0x10) status)

/-- Every compute die is held at k = 192 or above (R404, R447). -/
def State.holdSlow (s : State) : State := iter 4 (fun d t => if t.hasDie d then t.setRf (rDie d) 55 9 192 else t) s

/-- The recovery boot (R447): the boot ROM serves the endpoint and tries stack 0 first; STACK_BRINGUP_END goes on from there. Modules are
retimed, as before the Crown (R256); normal mode stays down. -/
def State.recoveryBoot (s : State) : State :=
  let t := (s.setRf (rBoot 0x10) 61 3 6).setRf (rCrn 0) 29 3 3
  let t := (t.setRbit (rBoot 0x118) 24 (!t.perst)).holdSlow
  let t := iter 8 (fun g t => t.startGroup g) t
  if t.hasStack 0 then t.setStackState 0 1 else t

/-- The Crown runs the image and applies the record (steps 10 to 16). -/
def State.normalBoot (s : State) (i : Image) (record : Option Image) : State :=
  let t := (s.setRf (rBoot 0x10) 61 3 4).setReg (rCrn 0) (BitVec.ofNat 64 (i.version.toNat * 2 ^ 32 + 2 * 2 ^ 29 + s.rf (rCrn 0) 0 16))
  let t := { t with runSvn := i.svn }.applyRecord (match record with | some r => r.entries | none => [])
  ((t.setRbit (rBoot 0x118) 25 true).setRbit (rBoot 0x118) 24 (!t.perst)).bringUp

/-- Dawn from step 2: slots chosen, images verified, the entry appended, the boot that follows. -/
def State.dawn (s : State) (sel : Nat) : State :=
  let t := s.identify
  let old := t.latest
  let e := trialStep { old with bootCount := old.bootCount + 1, reverted := false }
  let order := slotOrder sel e
  let good := order.find? fun n => (t.slotImage n).isSome
  let bad := order.takeWhile fun n => (t.slotImage n).isNone
  let imgBad := (bad.map (2 ^ ·)).sum
  let t := bad.foldl (fun t _ => t.journalOpen 0x92 2 0 0) t
  match good with
  | none =>
    let r := { old with bootCount := old.bootCount + 1, reverted := false }
    (t.adopt r (bootStatus r false false false false imgBad sel)).recoveryBoot
  | some n =>
    let e := if n = e.imgSlot then e else { e with imgSlot := n, imgTrial := false, trialCount := 0 }
    let recs := [e.recSlot, 1 - e.recSlot]
    let rec' := recs.find? fun m => (t.slotRecord m).isSome
    let recBad := recs.head?.any fun m => (t.slotRecord m).isNone
    let e := match rec' with | some m => { e with recSlot := m } | none => e
    let u := t.adopt e (bootStatus e e.imgTrial e.reverted rec'.isNone recBad imgBad sel)
    match t.slotImage n with
    | some i => u.normalBoot i (rec'.bind t.slotRecord)
    | none => u

/-- BOOT_STATUS.stage. -/
def State.bootStage (s : State) : Nat := s.rf (rBoot 0x10) 61 3

/-- PORST_RELEASE: after a trip while PORST_N was low the rails stay off (R481); in the power-fail state nothing starts (R496). A loaded EXTEST acts as BYPASS from
here on (R488). -/
def execPorstRelease (bootSel : BitVec 2) (s : State) : Host.Outcome State Fault Refusal :=
  ret (if !s.vin || s.bootStage != 0 then s
    else
      let t := { s with porst := false, off := s.tripped, tapIr := if s.tapIr == TapIr.extest then .bypass else s.tapIr }
      if t.pwrFail then { t with off := true } else t.dawn bootSel.toNat)

/-- PORST_ASSERT. -/
def execPorstAssert (s : State) : Host.Outcome State Fault Refusal :=
  ret (if s.vin then { s.cold with porst := true, off := true } else s)

/-- A package reset: refused without its key, and while a trip is latched; BOOT_SEL stays as sampled. -/
def State.pkgReset (s : State) (v : W64) : State :=
  if fld v 16 16 = 0x0D1A && bit v 0 && s.vin && !s.porst && !s.tripped then s.warm.dawn (s.rf (rBoot 0x10) 50 2) else s

/-- PKG_RESET. -/
def execPkgReset (v : BitVec 32) (s : State) : Host.Outcome State Fault Refusal := ret (s.pkgReset (v.setWidth 64))

/-- DAWN in the journal: BOOT_STATUS, BOOT_ID, BOOT_READY_MISC (R454). -/
def State.dawnJournal (s : State) : State :=
  s.journalPut 0x01 2 0 0 (toBytes 8 (s.reg (rBoot 0x10)).toNat ++ toBytes 8 (s.reg (rBoot 0)).toNat ++ toBytes 8 (s.reg (rBoot 0x118)).toNat)

/-- DAWN_DONE (R426). -/
def execDawnDone (s : State) : Host.Outcome State Fault Refusal :=
  ret (if s.bootStage = 4 then ((s.setRbit (rBoot 0x10) 60 true).setRf (rBoot 0x10) 61 3 5).dawnJournal else s)

/-- PERST (R424, R482): while it is asserted the endpoint does not answer. -/
def execPerst (asserted : Bool) (s : State) : Host.Outcome State Fault Refusal :=
  ret (
    let t := { (if asserted then s.pciReset else s) with perst := asserted }
    if 2 ≤ t.crown then t.setRbit (rBoot 0x118) 24 (!asserted) else t)

/-- PCIE_HOT_RESET (R424). -/
def execPcieHotReset (s : State) : Host.Outcome State Fault Refusal := ret s.pciReset

/-- VIN_RISE (R477, R480): the converters start with PORST_N low. -/
def execVinRise (s : State) : Host.Outcome State Fault Refusal :=
  ret (if s.vin then s else { s.cold with vin := true, porst := true, off := true, tapIr := .idcode, scan := none })

/-- VIN_LOCKOUT (R469, R477): a power loss. -/
def execVinLockout (s : State) : Host.Outcome State Fault Refusal :=
  ret (if s.vin then { s.cold with vin := false, off := true, tapIr := .idcode, scan := none } else s)

end Sys2Proof.Machine
end

