-- ==== Sys2Proof/Machine/Trust.lean ====
section
/-! DEFINITION. Updates, owner keys, identity and attestation (17_dawn_and_trust.md). -/

namespace Sys2Proof.Machine

/-- The Crown answers a host command: RUNNING, or in a recovery boot the commands that it serves (R447). -/
def State.serves (s : State) (cmd : Nat) : Bool := s.crownUp || (s.crown == 3 && hasNat s.recoveryCmds cmd)

/-! ### Updates (R439-R441) -/

/-- Why an image is not accepted: FORMAT, SIG_FAIL, ROLLBACK or BAD_SOURCE (R433, R435, R439). -/
def State.imageFault (s : State) (i : Image) (length : Nat) : Option Nat :=
  let room := if i.kind = 1 then imageRoom else recordRoom
  if !i.readOk then some 0x17
  else if !((i.kind == 1 || i.kind == 2) && headerOk i i.kind room && imageSize i ≤ length) then some 0x10
  else if i.kind = 2 && !(i.entries.length ≤ 8192 && i.entries.all entryOk) then some 0x10
  else if !s.signedOk i then some 0x11
  else if i.kind = 1 && i.svn < s.svnFloor then some 0x12
  else none

/-- The flash slot of an image's kind that the latest entry does not name: 0, 1 image slots, 2, 3 record slots. -/
def State.freeSlot (s : State) (i : Image) : Nat := if i.kind = 1 then 1 - s.latest.imgSlot else 3 - s.latest.recSlot

/-- IMG_UPDATE's first half: checked, refused, or started with its slot erased (R440 steps 1 and 2). -/
def State.doImgUpdate (s : State) (i : Image) : State :=
  if s.hostCmd == some 0x10 then
    if s.update.isSome || (i.kind = 1 && s.latest.imgTrial) then s.hostDo 0x10 fun t => (t, 0x18, [])
    else match s.imageFault i (s.hostReg 2) with
      | some e => s.hostDo 0x10 fun t => (t, e, [])
      | none =>
        let slot := s.freeSlot i
        { s.hostTake with update := some ⟨i, slot, s.reg (hostData 0)⟩, flash := Tab.put none slot none s.flash }
  else s

/-- IMG_UPDATE: `img` is what the source holds, with the outcome of its checks. -/
def execImgUpdate (img : Image) (s : State) : Host.Outcome State Fault Refusal := ret (if s.serves 0x10 then s.doImgUpdate img else s)

/-- The entry of an update (R440 step 3); in a recovery boot there is no trial (R447). -/
def State.updateEntry (s : State) (u : Upd) : CEntry :=
  let e := { s.latest with reverted := false }
  if u.img.kind = 2 then { e with recSlot := u.slot - 2 }
  else { e with imgSlot := u.slot, imgTrial := s.crown != 3, trialCount := 0 }

/-- IMG_UPDATE_DONE: `programmed` is false when the flash fails (FLASH_FAIL), `readBack` is false when the slot read back is not
the image that R433 accepted (SIG_FAIL); neither appends an entry. -/
def execImgUpdateDone (programmed readBack : Bool) (s : State) : Host.Outcome State Fault Refusal :=
  ret (match s.update with
    | none => s
    | some u =>
      if !s.serves 0x10 then s
      else
        let good := programmed && readBack
        let t := { s with update := none, flash := Tab.put none u.slot (some { u.img with readOk := good }) s.flash }
        let t := if good then t.append (t.updateEntry u) else t
        (t.journalOpen 0x92 2 0 0).hostReply u.cmd (if !programmed then 0x13 else if !readBack then 0x11 else 0)
          (if good then [(1, u.slot % 2)] else []))

/-- IMG_CONFIRM's effect: a trial is in progress while the booted image runs on trial and the latest entry still says so. -/
def State.doImgConfirm (s : State) : State :=
  s.hostDo 0x11 fun t =>
    if t.latest.imgTrial && t.rbit (rBoot 0x10) 58 then
      (({ t with svnFloor := Nat.max t.svnFloor t.runSvn }).append { t.latest with imgTrial := false, trialCount := 0, reverted := false },
        0, [])
    else (t, 0x16, [])

/-- IMG_CONFIRM (R440). -/
def execImgConfirm (s : State) : Host.Outcome State Fault Refusal := ret (if s.crownUp then s.doImgConfirm else s)

/-! ### Owner keys (R442, R443) -/

/-- OWNER_CHALLENGE (R442): `nonce` is the device's fresh random number. -/
def execOwnerChallenge (nonce : BitVec 256) (s : State) : Host.Outcome State Fault Refusal :=
  ret (if s.crownUp then
      s.hostDo 0x20 fun t => ({ t with nonce := some nonce }, 0, (List.range 4).map fun i => (i + 1, fld nonce (64 * i) 64))
    else s)

/-- NONCE_EXPIRY (R442). -/
def execNonceExpiry (s : State) : Host.Outcome State Fault Refusal := ret { s with nonce := none }

/-- Some owner slot is programmed. -/
def State.owned (s : State) : Bool := fld s.otpOwner 4 4 != 0

/-- Owner slots that are programmed and not revoked. -/
def State.liveOwners (s : State) : List Nat := (List.range 4).filter (slotLive s.otpOwner)

/-- The outer signer qualifies (R443): the new key itself for the first enrolment, else the key of an unrevoked slot. -/
def State.ownerSigner (s : State) (kind : Nat) (outer digest : BitVec 384) : Bool :=
  if s.owned then s.liveOwners.any fun n => Tab.get 0 n s.ownerKeys == outer else kind == 3 && outer == digest

/-- The outcome of an owner request: its status. -/
def State.ownerFault (s : State) (i : Image) (slot : Nat) (nonce : BitVec 256) (outer digest : BitVec 384) (innerOk : Bool) : Nat :=
  let body := if i.kind = 3 then 5440 else 64
  if !i.readOk then 0x17
  else if !((i.kind == 3 || i.kind == 4) && headerOk i i.kind recordRoom && i.length == body && slot < 4) then 0x10
  else if !(i.sigOk && (i.kind == 4 || innerOk)) then 0x11
  else if !s.ownerSigner i.kind outer digest || s.nonce != some nonce then 0x14
  else if i.kind = 3 then (if bit s.otpOwner (4 + slot) || bit s.otpOwner slot then 0x15 else 0)
  else if s.liveOwners == [slot] then 0x14
  else 0

/-- OWNER_REQUEST (R442, R443): `outer` and `digest` are the key digests of the outer signer and of the new key. A nonce is used
once: a request that carries it ends it. -/
def execOwnerRequest (img : Image) (slot : Nat) (nonce : BitVec 256) (outer digest : BitVec 384) (innerOk : Bool) (s : State) :
    Host.Outcome State Fault Refusal :=
  ret (if s.crownUp then
      s.hostDo 0x21 fun t =>
        let e := t.ownerFault img slot nonce outer digest innerOk
        let u := if t.nonce == some nonce then { t with nonce := none } else t
        if e = 0 then
          (if img.kind = 3 then
            { u with otpOwner := setBit u.otpOwner (4 + slot) true, ownerKeys := Tab.put 0 slot digest u.ownerKeys }
          else { u with otpOwner := setBit u.otpOwner slot true }, 0, [(1, slot)])
        else (u, e, [])
    else s)

/-! ### Identity and attestation (R445, R446) -/

/-- The body of a report (Table 9), lowest byte first: its bits [2223:0] are the 278 bytes of zero, its magic is at the end. -/
def State.report (s : State) (fw rec' owner : BitVec 384) : Bytes :=
  let st := s.reg (rBoot 0x10)
  List.replicate 278 0
    ++ toBytes 4 (s.rf (rBoot 0x118) 0 32) ++ toBytes 4 (s.rf (rBoot 0x110) 0 32) ++ toBytes 4 (s.rf (rBoot 0x108) 0 32)
    ++ toBytes 8 (s.reg (rBoot 0x100)).toNat ++ toBytes 8 s.time.toNat
    ++ toBytes 1 (fld st 52 8) ++ toBytes 1 s.otpOwner.toNat
    ++ toBytes 48 owner.toNat ++ toBytes 48 (if bit st 55 then 0 else rec'.toNat) ++ toBytes 48 fw.toNat
    ++ toBytes 1 s.svnFloor ++ toBytes 1 s.runSvn ++ toBytes 4 (s.rf (rCrn 0) 32 32)
    ++ toBytes 2 (fld st 32 16) ++ toBytes 4 (fld st 0 32) ++ toBytes 1 (s.rf (rBoot 0) 48 8) ++ toBytes 1 (s.rf (rBoot 0) 56 8)
    ++ toBytes 2 s.self.toNat ++ toBytes 8 (s.reg (rBoot 8)).toNat
    ++ ((List.range 4).map fun i => toBytes 8 (s.hostReg (2 + i))).flatten ++ toBytes 4 0x41545354

/-- ATTEST (R446): the digests and the signature block are computed by the device's hash and identity keys, which the commands
supply. -/
def execAttest (fwDigest recDigest ownerDigest : BitVec 384) (signature : Bytes) (s : State) : Host.Outcome State Fault Refusal :=
  ret (if s.serves 0x30 then
      s.hostDo 0x30 fun t =>
        let b := t.report fwDigest recDigest ownerDigest ++ (signature ++ List.replicate 5376 0).take 5376
        (t.store (t.hostReg 1) b false, 0, [(1, 5888)])
    else s)

/-- The identity certificate (R430, R445): its known fields; the header serial and version, the public keys and the signature block are the identity store's. -/
def State.certBytes (s : State) : Bytes :=
  let free := (List.range 7552).map Config.cert
  List.replicate 104 0 ++ (free.drop 104).take 8 ++ toBytes 4 2048 ++ (free.drop 116).take 4 ++ toBytes 1 0 ++ toBytes 1 0xF0 ++ toBytes 2 1
    ++ toBytes 4 0x44544E31 ++ toBytes 8 Config.serial.toNat ++ toBytes 1 (gradeCode s.grade) ++ List.replicate 55 0 ++ free.drop 192

/-- IDENTITY_CERT's effect. -/
def State.doIdentityCert (s : State) : State :=
  s.hostDo 0x31 fun t => (t.store (t.hostReg 1) t.certBytes false, 0, [(1, 7552)])

/-- IDENTITY_CERT (R445). -/
def execIdentityCert (s : State) : Host.Outcome State Fault Refusal := ret (if s.serves 0x31 then s.doIdentityCert else s)

end Sys2Proof.Machine
end

