-- ==== Sys2Proof/Machine/Regs.lean ====
section
/-! DEFINITION. The register file as BAR0 accesses it (R9-R15): what each register is, what it reads, what a write does. -/

namespace Sys2Proof.Machine

/-! ### What each register is -/

/-- A register: 64 or 32 bits, and the masks of its RW, W1C, RC and acting (WO, W1S) fields; the other fields are RO. -/
structure RegShape where
  wide : Bool
  rw   : W64
  w1c  : W64
  rc   : W64
  acts : W64
  deriving DecidableEq, Repr

def r32 (rw w1c rc acts : W64) : Option RegShape := some ⟨false, rw, w1c, rc, acts⟩
def r64 (rw w1c rc acts : W64) : Option RegShape := some ⟨true, rw, w1c, rc, acts⟩

def m32 : W64 := 0xFFFFFFFF
def m43 : W64 := 0x7FFFFFFFFFF
def m64 : W64 := 0xFFFFFFFFFFFFFFFF

/-- o is one of n offsets, `step` apart, from `base` on. -/
def inRow (o base step n : Nat) : Bool := base ≤ o && o < base + step * n && (o - base) % step == 0

/-- Registers of a core (R121 and the tables of 04, 05, 09 and 16). -/
def coreShape (o : Nat) : Option RegShape :=
  match o with
  | 0x00 => r32 0 0 0 0xF
  | 0x08 => r32 0 0x03000000 0 0
  | 0x10 => r32 0x3FFF 0 0 0
  | 0x18 => r64 0 0 0 0
  | 0x20 => r32 0 0xF 0 0
  | 0x28 => r32 0 0 m32 0
  | 0x30 => r64 0 0 0 0
  | 0x38 => r32 m32 0 0 0
  | 0x40 => r64 m64 0 0 0
  | 0x48 => r64 0x7FFF3FFF 0x2000000000000000 0 0x8000000000000000
  | 0x200 => r32 0xFF001FFF 0 0 0
  | 0x600 => r64 0 0 0 0x3FFFFF
  | 0x1040 => r64 0 0x3FFFFFFFF 0 0
  | 0x1048 => r64 0 0 0 0x1FFFFFFFF
  | 0x1050 => r32 m32 0 0 0
  | 0x1058 => r32 0x8000003F 0 0 0
  | 0x10C0 => r64 0 0x300000000 0 0
  | _ =>
    if inRow o 0x80 8 5 then r64 0 0 0xFF03FFFFFFFFFFFF 0
    else if inRow o 0x100 8 4 then r64 0xE03F0000FFFFFFFF 0 0 0
    else if inRow o 0x120 8 4 then r64 0 0 0 0
    else if inRow o 0x400 8 64 then r64 0 0 0 0
    else if inRow o 0x1000 8 8 then r64 m64 0 0 0
    else if inRow o 0x1080 8 8 then r64 0 0 0 0
    else if inRow o 0x2000 0x100 4 then r64 0 0 0 0x2000000000000000
    else if inRow o 0x4000 8 32 then r64 0 0 0 0
    else none

/-- Registers of BOOT (R448). -/
def bootShape (o : Nat) : Option RegShape :=
  match o with
  | 0x00 => r64 0 0 0 0
  | 0x08 => r64 0 0 0 0
  | 0x10 => r64 0 0 0 0
  | 0x18 => r32 0 0 0 m32
  | 0x100 => r64 0 0 0 0
  | 0x108 => r32 0 0 0 0
  | 0x110 => r32 0 0 0 0
  | 0x118 => r32 0 0 0 0
  | _ => none

/-- Registers of CRN (R404, R405, R410, R418, R422). -/
def crnShape (o : Nat) : Option RegShape :=
  match o with
  | 0x00 => r64 0 0 0 0
  | 0x08 => r64 0 0 0 0
  | 0x10 => r32 0 0 m32 0
  | 0x180 => r64 0 5 0 0
  | 0x188 => r64 0 0 0 1
  | 0x200 => r64 0x7FFC0000000 0 0 0
  | 0x9000 => r64 0 0 0 0
  | _ =>
    if inRow o 0x100 8 16 then r64 m64 0 0 0
    else if inRow o 0x400 0x20 4 then r64 m43 0 0 0
    else if inRow o 0x408 0x20 4 then r32 0x8000001F 0 0 0
    else if inRow o 0x410 0x20 4 then r32 m32 0 0 0
    else if inRow o 0x418 0x20 4 then r32 0 0 0 0
    else if inRow o 0x8000 16 32 then r64 0xFFFFFFFFFFFFFFFC 0 0 0
    else if inRow o 0x8008 16 32 then r64 0x1FFFFFFFF 0 0 0
    else none

/-- Registers of EVC (R411). -/
def evcShape (o : Nat) : Option RegShape :=
  if inRow o 0 8 1024 then r32 0xF7F0001F 0 0 0
  else if inRow o 0x2000 8 16 then r64 0 0 0 0
  else if inRow o 0x2080 8 32 then r64 0 0 0 m64
  else if inRow o 0x2180 8 16 then r64 0 0 0 0
  else if inRow o 0x3000 8 10 then r32 0 0 0x870003FF 0
  else if inRow o 0x3080 8 10 then r32 7 0 0 0
  else if o = 0x3100 then r32 0 0 0 m32
  else if o = 0x3108 then r32 0 0 0 0
  else none

/-- Registers of PWR (R391). -/
def pwrShape (o : Nat) : Option RegShape :=
  match o with
  | 0x00 => r32 3 0 0 0
  | 0x08 => r32 0xFFFF 0 0 0
  | 0x10 => r32 0xFFFF 0 0 0
  | 0x18 => r32 0 0 0 0
  | 0x20 => r64 0 0 0 0
  | 0x28 => r64 0 0 m64 0
  | 0x30 => r64 0 0 0 0
  | 0x38 => r32 0 0x80000000 0 0
  | 0x40 => r32 0 0 0 0xC0000000
  | _ =>
    if inRow o 0x100 8 4 || inRow o 0x140 8 4 || inRow o 0x1000 8 64 || inRow o 0x2000 8 256 || inRow o 0x3000 8 256 then r64 0 0 0 0
    else none

/-- Registers of THM (R392). -/
def thmShape (o : Nat) : Option RegShape :=
  match o with
  | 0x00 => r32 0 0 0 0
  | 0x08 => r32 m32 0 0 0
  | 0x10 => r32 0xFFFFFF00 0 0 0
  | 0x18 => r32 0xFFFFFF00 0 0 0
  | 0x200 => r64 0 0 0 0
  | 0x300 => r64 0 0 0 0
  | 0x308 => r32 0xFFFFFF00 0 0 0
  | _ => if inRow o 0x100 8 8 then r64 0 0 0 0 else none

/-- Registers of a stack (R228). -/
def hbmShape (o : Nat) : Option RegShape :=
  match o with
  | 0x00 => r32 0 0 0 0
  | 0x08 => r32 3 0 0 0x80000000
  | 0x10 => r32 m32 0 0 0
  | 0x18 => r32 0xFFFF00FF 0 0 0
  | 0x20 => r32 0 0 m32 0
  | 0x28 => r32 0 0 m32 0
  | 0x30 => r32 0 0 m32 0
  | 0x38 => r32 0 0 m32 0
  | 0x40 => r64 0 0 0 0
  | 0x48 => r64 0 0 0xF00007FFFFFFFFFF 0
  | 0x50 => r32 0x7FFF 0 0 0
  | 0x58 => r64 0 0 0 0
  | 0x60 => r32 0 0 0 0
  | _ => none

/-- Registers of a D2D group (R271). -/
def d2dShape (g o : Nat) : Option RegShape :=
  match o with
  | 0x00 => r64 0 0 0 0
  | 0x08 => r32 0 0 0 0x80000000
  | 0x10 => r64 0 0 m64 0
  | 0x18 => r32 0 0 m32 0
  | 0x20 => r32 0 0 0 0
  | _ => if inRow o 0x400 8 (modulesOf g) || inRow o 0x600 8 (modulesOf g) then r64 0 0 0 0 else none

/-- Registers of an I/O die's optics (R295). -/
def optShape (o : Nat) : Option RegShape :=
  match o with
  | 0x00 => r32 0 0 0 0
  | 0x08 => r32 0 0 0 0
  | 0x10 => r64 0 0 0 0
  | 0x18 => r64 0 0 0 0
  | 0x20 => r32 m32 0 0 0
  | 0x28 => r32 0 0 m32 0
  | _ =>
    if 0x1000 ≤ o && o < 0x1800 then
      match o % 0x100 with
      | 0x00 => r64 0 0 0 0
      | 0x08 => r32 0x60F00000 0 0 0x80000000
      | 0x10 => r64 0 0 m64 0
      | 0x18 => r64 0 0 m64 0
      | p => if inRow p 0x40 8 8 then r64 0 0 0 0 else none
    else none

/-- Registers of FAB (R318). -/
def fabShape (o : Nat) : Option RegShape :=
  if o = 0 then r32 0 0 0 0
  else if o = 8 then r64 0x7FFFFFFFF 0 0 0
  else if o = 0x10 || o = 0x18 then r64 0xFFFFFFFFFF 0 0 0
  else if o = 0x100 then r64 0 0 0xFFE00000FFFFFFFF 0
  else if inRow o 0x10000 8 1024 then r32 0xE00003FF 0 0 0
  else if inRow o 0x12000 8 64 then r32 0xE00FFFFF 0 0 0
  else if inRow o 0x13000 8 32 then r64 0 0 m32 0x0800000000000000
  else if 0x20000 ≤ o && o < 0x20400 && inRow (o % 0x100) 0 8 6 then r64 0 0 m64 0
  else if 0x20000 ≤ o && o < 0x20400 && o % 0x100 = 0x30 then r32 0 0 0 0
  else none

/-- Registers of an I/O die's RSB section (R338). -/
def rsbShape (i o : Nat) : Option RegShape :=
  match o with
  | 0x00 => r32 0xFFFF0007 0 0 0
  | 0x08 => r32 0 0 0 0
  | 0x10 => r64 0 0 m64 0
  | 0x18 => r32 0 0 m32 0
  | 0x20 => r32 0 0 m32 0
  | _ =>
    if i ≠ 0 then none
    else if inRow o 0x1000 0x20 240 then r64 m43 0 0 0
    else if inRow o 0x1008 0x20 240 then r32 0xFFFFF800 0 0 0
    else if inRow o 0x1010 0x20 240 then r32 0 0 0 0
    else if inRow o 0x1018 0x20 240 then r32 m32 0 0 0
    else none

/-- Registers of COL (R365). -/
def colShape (o : Nat) : Option RegShape :=
  if o < 0x1000 then
    match o % 0x100 with
    | 0x00 => r32 0 0 0 0xC0000000
    | 0x08 => r64 m43 0 0 0
    | 0x10 => r32 0xFFFFFF 0 0 0
    | 0x18 => r32 0xE000FFFF 0 0 0
    | 0x20 => r64 0 0x0100000000000000 0 0
    | 0x28 => r64 0 0 m64 0
    | 0x30 => r32 0xFFF 0 0 0
    | _ => none
  else if o = 0x1000 then r64 m64 0 0 0
  else if 0x8000 ≤ o && o < 0x8400 then
    match o % 0x100 with
    | 0x00 => r32 0 0 0 0
    | 0x08 => r64 0 0 m64 0
    | 0x10 => r32 0 0 m32 0
    | _ => none
  else none

/-- Registers of a compute die's channels (R248). -/
def dmaShape (o : Nat) : Option RegShape :=
  if o < 0x800 then
    match o % 0x100 with
    | 0x00 => r64 m43 0 0 0
    | 0x08 => r64 0x7FFFF 0 0 0xE000000000000000
    | 0x10 => r64 0 0x1000000000000000 0 0
    | 0x18 => r32 0 0 m32 0
    | _ => none
  else if o = 0x800 then r32 0 0 m32 0
  else none

/-- The register at a BAR0 offset (R399); none where no table defines one (R14). -/
def regShape (off : Nat) : Option RegShape :=
  if off < 0x100000 then bootShape off
  else if off < 0x200000 then crnShape (off - 0x100000)
  else if off < 0x300000 then evcShape (off - 0x200000)
  else if off < 0x400000 then pwrShape (off - 0x300000)
  else if off < 0x500000 then thmShape (off - 0x400000)
  else if off < 0x600000 then hbmShape (off % 0x8000)
  else if off < 0x700000 then d2dShape ((off - 0x600000) / 0x1000) (off % 0x1000)
  else if off < 0x800000 then optShape (off % 0x40000)
  else if off < 0x900000 then fabShape (off - 0x800000)
  else if off < 0x980000 then rsbShape ((off - 0x900000) / 0x20000) (off % 0x20000)
  else if off < 0xA00000 then (match off % 0x100 with | 0 => r32 0 0 0 0x80000000 | 8 => r64 0 0 m64 0 | _ => none)
  else if off < 0xB00000 then colShape (off - 0xA00000)
  else if off < 0xC00000 then dmaShape (off % 0x40000)
  else if 0x1000000 ≤ off && off < 0x2000000 then coreShape (off % 0x40000)
  else none

/-! ### Reads (R10, R11) -/

def runCode : RunState → Nat
  | .stopped => 0 | .running => 1 | .stopping => 2 | .faulted => 3 | .resetting => 4
def causeCode : StopCause → Nat
  | .none => 0 | .halt => 1 | .stop => 2 | .abort => 3 | .fault => 4

/-- CORE_STATUS (R149). -/
def State.coreStatus (s : State) (c : Nat) : W64 :=
  let k := s.core c
  BitVec.ofNat 64 (runCode k.run * 2 ^ 29 + causeCode k.stopCause * 2 ^ 26 + s.rf (rCore c 8) 24 2 * 2 ^ 24
    + (k.busy .sx).toNat * 2 ^ 23 + (k.busy .cx).toNat * 2 ^ 22 + (k.busy .vx).toNat * 2 ^ 21 + (k.busy .mx).toNat * 2 ^ 20
    + (k.busy .dma).toNat * 2 ^ 19 + k.pc % 2 ^ 14)

/-- The scalar image (R128): sn while the core is STOPPED or FAULTED, else zero. -/
def Core.scalarImage (k : Core) (n : Nat) : W64 := if k.run == .stopped || k.run == .faulted then k.s n else 0

/-- HBM_REMAP_ENT for the entry that HBM_REMAP_IDX names (R228). -/
def State.remapEnt (s : State) (st : Nat) : W64 :=
  match Tab.get none (s.rf (rHbm st 0x50) 0 15) (s.stack st).remaps with
  | some e => BitVec.ofNat 64 (2 ^ 63 + e.remaps % 4 * 2 ^ 61 + e.lost.toNat * 2 ^ 60 + e.block % 2 ^ 25 * 2 ^ 35 + e.spare % 2 ^ 18 * 2 ^ 17)
  | none => 0

/-- The value of the register at an offset, without any effect of reading it. -/
def State.regValue (s : State) (off : Nat) : W64 :=
  if !(s.mountedReg off && (regShape off).isSome) then 0
  else if 0x1000000 ≤ off then
    let c := (off - 0x1000000) / 0x40000
    let o := off % 0x40000
    if o = 8 then s.coreStatus c
    else if inRow o 0x400 8 64 then BitVec.ofNat 64 ((s.core c).semVal ((o - 0x400) / 8))
    else if inRow o 0x4000 8 32 then (s.core c).scalarImage ((o - 0x4000) / 8)
    else s.reg off
  else if 0x500000 ≤ off && off < 0x600000 && off % 0x8000 = 0x58 then s.remapEnt ((off - 0x500000) / 0x8000)
  else if off = rEvc 0x3108 then BitVec.ofNat 64 (maskOf 32 s.vecPend)
  else if inRow off (rEvc 0x3000) 8 10 then (s.claim ((off - rEvc 0x3000) / 8)).1
  else s.reg off

/-- The effect of a read on the fields of a mask: RC fields clear (R11); a claim (R409); a violation count with its address (R147). -/
def State.regClear (s : State) (off : Nat) (m : W64) : State :=
  match regShape off with
  | none => s
  | some h =>
    if !s.mountedReg off || h.rc &&& m = 0 then s
    else if inRow off (rEvc 0x3000) 8 10 then (s.claim ((off - rEvc 0x3000) / 8)).2
    else if 0x1000000 ≤ off && off % 0x40000 = 0x28 then s.violRead ((off - 0x1000000) / 0x40000)
    else s.setReg off (s.reg off &&& ~~~ (h.rc &&& m))

/-- The high half of a register as a value. -/
def highHalf (v : W64) : W64 := v >>> 32

/-- A read of a register of 64 bits at its low half captures the high half (R10). -/
def State.lowRead (s : State) (off : Nat) : State × W64 :=
  let v := s.regValue off
  let t := s.regClear off m64
  ({ t with capHi := Tab.put none off (some (bits v 32 32)) t.capHi }, v &&& m32)

/-- Any read of BAR0 (R10): the state after it, and what it returns; an access of another size or alignment reads zero. -/
def State.regRead (s : State) (off size : Nat) : State × W64 :=
  let base := off / 8 * 8
  match regShape base with
  | none => (s, 0)
  | some h =>
    if size = 8 && off = base then (s.regClear base m64, s.regValue base)
    else if size = 4 && off = base then
      (if h.wide then s.lowRead base else (s.regClear base m64, s.regValue base))
    else if size = 4 && off = base + 4 && h.wide then
      match Tab.get none base s.capHi with
      | some c => ({ s with capHi := Tab.put none base none s.capHi }, c.setWidth 64)
      | none => (s.regClear base (~~~ m32), highHalf (s.regValue base))
    else (s, 0)

/-! ### Writes (R10, R11) -/

/-- The plain effect of a write: RW fields take the value, 1s clear W1C bits. -/
def State.plainWrite (s : State) (off : Nat) (h : RegShape) (v : W64) : State :=
  let t := s.rwReg off h.rw v
  t.setReg off (t.reg off &&& ~~~ (v &&& h.w1c))

/-- Writes to a core's registers. -/
def State.coreWrite (s : State) (c o : Nat) (h : RegShape) (v : W64) : State :=
  match o with
  | 0x00 => s.coreCtrl c v
  | 0x48 => s.progLoadWrite c v
  | 0x200 => s.ledgerWrite c (bits v 0 32)
  | 0x600 => s.semSig c v
  | 0x1048 => s.inRing c v
  | 0x1050 => s.maskWrite c (bits v 0 32)
  | _ =>
    if inRow o 0x100 8 4 then s.timerWrite c ((o - 0x100) / 8) v
    else if inRow o 0x1000 8 8 then s.inData c ((o - 0x1000) / 8) v
    else if inRow o 0x2000 0x100 4 then (if bit v 61 then s.chClear (4 * c + (o - 0x2000) / 0x100) else s)
    else s.plainWrite (rCore c o) h v

/-- Writes to CRN. In a recovery boot the BAR2 window is fixed (R447). -/
def State.crnWrite (s : State) (o : Nat) (h : RegShape) (v : W64) : State :=
  if inRow o 0x100 8 16 then s.hostWrite ((o - 0x100) / 8) v
  else if o = 0x188 then (if bit v 0 then s.hostRing false else s)
  else if o = 0x200 && s.crown == 3 then s
  else if inRow o 0x400 0x20 4 then s.jqBaseWrite ((o - 0x400) / 0x20) v
  else if inRow o 0x408 0x20 4 then s.jqCtrlWrite ((o - 0x408) / 0x20) (bits v 0 32)
  else if inRow o 0x410 0x20 4 then s.jqTailWrite ((o - 0x410) / 0x20) (bits v 0 32)
  else if inRow o 0x8008 16 32 then
    let n := (o - 0x8008) / 16
    let was := s.rbit (rCrn o) 32
    let t := s.plainWrite (rCrn o) h v
    if was && !bit v 32 then t.unmask n else t
  else s.plainWrite (rCrn o) h v

/-- Writes to EVC. -/
def State.evcWrite (s : State) (o : Nat) (h : RegShape) (v : W64) : State :=
  if inRow o 0 8 1024 then s.srcCfg (o / 8) v
  else if inRow o 0x2080 8 16 then s.eachBit ((o - 0x2080) / 8) v fun t n => t.pendSetOne n
  else if inRow o 0x2100 8 16 then s.eachBit ((o - 0x2100) / 8) v fun t n => t.pendClrOne n false
  else if o = 0x3100 then s.vecArm v
  else s.plainWrite (rEvc o) h v

/-- Writes to PWR. -/
def State.pwrWrite (s : State) (o : Nat) (h : RegShape) (v : W64) : State :=
  match o with
  | 0x00 => s.pwrModeWrite v
  | 0x08 => s.pwrCapWrite v
  | 0x40 =>
    let t := if bit v 31 then s.learnClear else s
    if bit v 30 then t.attrClear else t
  | _ => s.plainWrite (rPwr o) h v

/-- A write to OPT_PORT_CTRL: min_lanes and reach are set, then admin_down and retrain act (R290, R295). -/
def State.portCtrlWrite (s : State) (p : Nat) (v : W64) : State :=
  let t := (s.setRf (rPort p 8) 20 4 (fld v 20 4)).setRbit (rPort p 8) 29 (bit v 29)
  let t := if s.rf (rPort p 8) 20 4 = fld v 20 4 then t else t.judgePort p
  let t := if bit v 30 != s.rbit (rPort p 8) 30 then t.adminDown p (bit v 30) else t
  if bit v 31 then t.optRetrain p else t

/-- A write to a route or hall table entry: the run-time's use_alt stands beside the faults that the device still holds (R313). -/
def State.routeWrite (s : State) (o key : Nat) (h : RegShape) (v : W64) : State :=
  let t := s.plainWrite (rFab o) h v
  let t := { t with altRun := if bit v 29 then (if hasNat t.altRun key then t.altRun else key :: t.altRun) else t.altRun.filter (· != key) }
  t.applyAlts.reroute

/-- Writes to FAB. -/
def State.fabWrite (s : State) (o : Nat) (h : RegShape) (v : W64) : State :=
  if inRow o 0x10000 8 1024 then s.routeWrite o ((o - 0x10000) / 8) h v
  else if inRow o 0x12000 8 64 then s.routeWrite o (1024 + (o - 0x12000) / 8) h v
  else if inRow o 0x13000 8 32 then (if bit v 59 then s.quarEnd ((o - 0x13000) / 8) else s)
  else s.plainWrite (rFab o) h v

/-- A whole value takes effect on a register. -/
def State.regPut (s : State) (off : Nat) (v : W64) : State :=
  match regShape off with
  | none => s
  | some h =>
    if !s.mountedReg off then s
    else if off < 0x100000 then (if off = 0x18 then s.pkgReset v else s)
    else if off < 0x200000 then s.crnWrite (off - 0x100000) h v
    else if off < 0x300000 then s.evcWrite (off - 0x200000) h v
    else if off < 0x400000 then s.pwrWrite (off - 0x300000) h v
    else if 0x500000 ≤ off && off < 0x600000 && off % 0x8000 = 8 then
      let t := s.plainWrite off h v
      if bit v 31 then t.maintReq ((off - 0x500000) / 0x8000) else t
    else if 0x600000 ≤ off && off < 0x700000 && off % 0x1000 = 8 then
      (if bit v 31 then s.retrainAll ((off - 0x600000) / 0x1000) else s)
    else if 0x700000 ≤ off && off < 0x800000 && 0x1000 ≤ off % 0x40000 then
      (if off % 0x100 = 8 then s.portCtrlWrite ((off - 0x700000) / 0x40000 * 8 + (off % 0x40000 - 0x1000) / 0x100) v
       else s.plainWrite off h v)
    else if 0x800000 ≤ off && off < 0x900000 then s.fabWrite (off - 0x800000) h v
    else if 0x980000 ≤ off && off < 0xA00000 then
      (if off % 0x100 = 0 && bit v 31 then s.rlcDrop ((off - 0x980000) / 0x100) fun _ _ => true else s)
    else if 0xA00000 ≤ off && off < 0xA01000 && off % 0x100 = 0 then s.colCtrl ((off - 0xA00000) / 0x100) v
    else if 0xB00000 ≤ off && off < 0xC00000 && off % 0x100 = 8 then
      s.chCtrl ((off - 0xB00000) / 0x40000) (off % 0x40000 / 0x100) v
    else if 0x1000000 ≤ off then s.coreWrite ((off - 0x1000000) / 0x40000) (off % 0x40000) h v
    else s.plainWrite off h v

/-- Bits of a register that a write can act on. -/
def RegShape.writable (h : RegShape) : W64 := h.rw ||| h.w1c ||| h.acts

/-- A write of one 32-bit half (R10): a low half of a 64-bit register is held, a high half joins a held low half, or acts alone with
the RW fields of the low half as they are. A register of 32 bits takes it at once. -/
def State.halfWrite (s : State) (off : Nat) (v : BitVec 32) : State :=
  let base := off / 8 * 8
  match regShape base with
  | none => s
  | some h =>
    if !s.mountedReg base then s
    else if off = base then
      (if h.wide then { s with heldLo := Tab.put none base (some v) s.heldLo } else s.regPut base (v.setWidth 64))
    else if off = base + 4 && h.wide then
      match Tab.get none base s.heldLo with
      | some lo => ({ s with heldLo := Tab.put none base none s.heldLo }).regPut base (v.setWidth 64 <<< 32 ||| lo.setWidth 64)
      | none =>
        if h.writable &&& ~~~ m32 = 0 then s
        else s.regPut base (v.setWidth 64 <<< 32 ||| (s.reg base &&& h.rw &&& m32))
    else s

/-- Any write to BAR0 (R10); an access of another size or alignment is dropped. -/
def State.regWrite (s : State) (off size : Nat) (v : W64) : State :=
  if size = 8 && off % 8 = 0 then ({ s with heldLo := Tab.put none off none s.heldLo }).regPut off v
  else if size = 4 && off % 4 = 0 then s.halfWrite off (bits v 0 32)
  else s

end Sys2Proof.Machine
end

