-- ==== Sys2Proof/Machine/Host.lean ====
section
/-! DEFINITION. The PCI Express function (16_control_plane.md, R395-R401) and the host mailbox's poll (R418). -/

namespace Sys2Proof.Machine

/-- The endpoint has power and is out of reset (R424, R482). -/
def State.hostUp (s : State) : Bool := s.vin && !s.porst && !s.perst

/-! ### Configuration space (R396, R397) -/

/-- A configuration register as the specification lays out its header (log 52): the class code, BAR0 of 64 MiB, BAR2 of 16 GiB, no
BARs 4 and 5 and no expansion ROM; whatever else is the endpoint's. -/
def State.cfgRead (s : State) (off : Nat) : BitVec 32 :=
  let w : BitVec 32 := Tab.get 0 off s.cfg
  match off with
  | 0x08 => 0x12000000 ||| (Config.cfgSpace off w &&& 0xFF)
  | 0x10 => (w &&& 0xFC000000) ||| 0x4
  | 0x14 => w
  | 0x18 => 0xC
  | 0x1C => w &&& 0xFFFFFFFC
  | 0x20 => 0
  | 0x24 => 0
  | 0x30 => 0
  | _ => Config.cfgSpace off w

/-- PCIE_CONFIG_REQ (R397): request-retry status until the Crown runs. -/
def execPcieConfigReq (write : Bool) (offset : Nat) (v : BitVec 32) (s : State) : Host.Outcome State Fault Refusal :=
  ret (if !(s.hostUp && offset % 4 == 0 && offset < 4096) then s
    else if s.crown < 2 then s.send (.configRetry offset)
    else if write then { s with cfg := Tab.put 0 offset v s.cfg }
    else s.send (.config offset (s.cfgRead offset)))

/-- PCIE_ERROR (R397): logged in the advanced error reporting status and in the journal. -/
def execPcieError (status : BitVec 32) (s : State) : Host.Outcome State Fault Refusal :=
  ret (if s.hostUp then ({ s with aer := s.aer ||| status }).journalPut 0x81 0 0 0 (toBytes 4 status.toNat) else s)

/-! ### BAR2 (R401) -/

/-- The device-local address of a window offset. -/
def State.winAddr (s : State) (off : Nat) : Nat := s.rf (rCrn 0x200) 30 13 * 2 ^ 30 + off

/-- A request that touches a silent address is counted. -/
def State.winViol (s : State) (a n : Nat) : State :=
  if (List.range n).all fun i => s.populated (a + i) then s else s.bump (rCrn 0x10) 0 32 1

/-- The poisoned blocks of a range. -/
def State.poisonIn (s : State) (a n : Nat) : List Nat := ((blocksOf a n).map fun b => 4096 * b.1).filter s.poisoned

/-- A request of the host's size within the window. -/
def winOk (off n : Nat) : Bool := 0 < n && n ≤ 4096 && off + n ≤ 2 ^ 34

/-- BAR2_READ: poisoned data is marked, and logged. -/
def execBar2Read (offset len : Nat) (s : State) : Host.Outcome State Fault Refusal :=
  ret (if s.hostUp && winOk offset len then
      let a := s.winAddr offset
      let bad := s.poisonIn a len
      let t := bad.foldl (fun t b => t.reportPoison b) (s.winViol a len)
      t.send (.bar2Read offset (s.read a len) (!bad.isEmpty))
    else s)

/-- BAR2_WRITE: it never seals a block (R213); device-memory rules are those of any write. -/
def execBar2Write (offset : Nat) (data : Bytes) (s : State) : Host.Outcome State Fault Refusal :=
  ret (if s.hostUp && winOk offset data.length then
      let a := s.winAddr offset
      (s.winViol a data.length).store a data false
    else s)

/-! ### BAR0 (R10, R11) -/

/-- REG_WRITE. -/
def execRegWrite (offset size : Nat) (v : W64) (s : State) : Host.Outcome State Fault Refusal := ret (s.regWrite offset size v)

/-- REG_WRITE_HALF. -/
def execRegWriteHalf (offset : Nat) (v : BitVec 32) (s : State) : Host.Outcome State Fault Refusal :=
  ret (if offset % 4 = 0 then s.halfWrite offset v else s)

/-- REG_READ_LOW_HALF. -/
def execRegReadLowHalf (offset : Nat) (s : State) : Host.Outcome State Fault Refusal :=
  let r := s.regRead offset 4
  ret (r.1.send (.busRead offset r.2))

/-- RC_READ. -/
def execRcRead (offset size : Nat) (s : State) : Host.Outcome State Fault Refusal :=
  let r := s.regRead offset size
  ret (r.1.send (.busRead offset r.2))

/-! ### The poll of the host mailbox (R418) -/

/-- The commands of the mailbox that need nothing from outside; each acts only on its own command. The others are the rows of their
own names. -/
def State.pollDo (s : State) : State :=
  if s.crownUp then
    let t := s.doEcho.doUnsupported.doImgConfirm.doIdentityCert
    let t := t.doJrnlRead.doFaultMap.doVspConfig.doVspHold
    t.doVspStep.doVspStatus.doDrain
  else
    let t := if s.crown = 3 then s.doEcho.doUnsupported else s
    if t.serves 0x31 then t.doIdentityCert else t

/-- HOST_MBX_POLL. -/
def execHostMbxPoll (s : State) : Host.Outcome State Fault Refusal := ret s.pollDo

end Sys2Proof.Machine
end

