-- ==== Sys2Proof/Machine/Port.lean ====
section
/-! DEFINITION. The test access port (R488). -/

namespace Sys2Proof.Machine

/-- The duty of COOL_DEMAND in 0.1 %: released, 100 %, without VIN, in PORST_N and until the Crown runs (R386, R489). -/
def State.coolDuty (s : State) : Nat :=
  if !s.vin || s.porst || s.crown < 2 || s.crown == 3 || s.tripped then 1000 else s.rf (rThm 0x300) 21 10

/-- The pins of the model's state. THERMTRIP_N and FAULT_N follow R485; PWRFAIL_N is shown by the latch that its assertion set. -/
def State.pins (s : State) : Pins :=
  { gpio := bits (s.reg (rEvc (0x2180 + 8 * 15))) 12 8, porstN := !s.porst, perstN := !s.perst, pwrfailN := !s.pwrFail,
    thermtripN := !(s.vin && s.tripped), faultN := !(s.vin && s.faultLow),
    coolDuty := s.coolDuty }

/-- BYPASS. -/
def execBypass (s : State) : Host.Outcome State Fault Refusal := ret { s with tapIr := .bypass }

/-- IDCODE: version 1, 0x4D53, 0x9E5. -/
def execIdcode (s : State) : Host.Outcome State Fault Refusal := ret ({ s with tapIr := .idcode }.send (.tdo 0x14D539E5))

/-- SAMPLE/PRELOAD: the boundary register takes the pins. -/
def execSamplePreload (s : State) : Host.Outcome State Fault Refusal := ret { s with tapIr := .sample, scan := some s.pins }

/-- EXTEST acts only while PORST_N is low; else it is BYPASS (R488, R496). -/
def execExtest (s : State) : Host.Outcome State Fault Refusal := ret { s with tapIr := if s.porst then .extest else .bypass }

end Sys2Proof.Machine
end

