-- ==== Sys2Proof/Machine/Clock.lean ====
section
/-! DEFINITION. What time does on its own (log 1): CRN_TIME (R405) and the pacing timers (R139). -/

namespace Sys2Proof.Machine

/-- HCLK cycles per CCLK cycle are 1 in 10: one HCLK cycle passes when CRN_TIME reaches a multiple of 10. -/
def State.timers (s : State) : State :=
  iter 64 (fun c t => if t.hasCore c then iter 4 (fun n t => t.timerTick c n) t else t) s

/-- CRN_STATUS.heartbeat (R404): once per millisecond while hart 0 runs, which it does in ROM, firmware and recovery
firmware and not in HALTED (log 1). -/
def State.heartbeat (s : State) : State :=
  if s.rf (rCrn 0) 29 3 != 4 && !s.off && s.time.toNat % 1000000 = 0 then
    s.setRf (rCrn 0) 0 16 (s.rf (rCrn 0) 0 16 + 1)
  else s

/-- One CCLK cycle with no command: PORST_N stops the count. -/
def State.tick (s : State) : State :=
  if s.vin && !s.porst then
    let t := s.setReg (rCrn 8) (s.time + 1)
    let t := t.heartbeat
    if t.time.toNat % 10 = 0 && !t.off then t.timers.marksDue else t
  else s

end Sys2Proof.Machine
end

