-- ==== Sys2Proof/Machine/Dispatch.lean ====
section
/-! DEFINITION. The dispatch: one arm per command, one direct call of its meaning. -/

namespace Sys2Proof.Machine

/-- The effect of a command on everything but the queue. -/
def exec (i : Instr) (s : State) : Host.Outcome State Fault Refusal :=
  match i with
  | .nop c f => Sys2Proof.Machine.execNop c f s
  | .jmp c f => Sys2Proof.Machine.execJmp c f s
  | .br c f => Sys2Proof.Machine.execBr c f s
  | .call c f => Sys2Proof.Machine.execCall c f s
  | .ret c f => Sys2Proof.Machine.execRet c f s
  | .halt c f => Sys2Proof.Machine.execHalt c f s
  | .swait c f => Sys2Proof.Machine.execSwait c f s
  | .swaitSatisfied c => Sys2Proof.Machine.execSwaitSatisfied c s
  | .qstat c f => Sys2Proof.Machine.execQstat c f s
  | .illegalInstr c w par => Sys2Proof.Machine.execIllegalInstr c w par s
  | .add c f => Sys2Proof.Machine.execAdd c f s
  | .sub c f => Sys2Proof.Machine.execSub c f s
  | .and c f => Sys2Proof.Machine.execAnd c f s
  | .or c f => Sys2Proof.Machine.execOr c f s
  | .xor c f => Sys2Proof.Machine.execXor c f s
  | .sll c f => Sys2Proof.Machine.execSll c f s
  | .srl c f => Sys2Proof.Machine.execSrl c f s
  | .sra c f => Sys2Proof.Machine.execSra c f s
  | .mul c f => Sys2Proof.Machine.execMul c f s
  | .mulhu c f => Sys2Proof.Machine.execMulhu c f s
  | .min c f => Sys2Proof.Machine.execMin c f s
  | .max c f => Sys2Proof.Machine.execMax c f s
  | .minu c f => Sys2Proof.Machine.execMinu c f s
  | .maxu c f => Sys2Proof.Machine.execMaxu c f s
  | .slt c f => Sys2Proof.Machine.execSlt c f s
  | .sltu c f => Sys2Proof.Machine.execSltu c f s
  | .li c f => Sys2Proof.Machine.execLi c f s
  | .ld c f par => Sys2Proof.Machine.execLd c f par s
  | .st c f => Sys2Proof.Machine.execSt c f s
  | .tdld c f par => Sys2Proof.Machine.execTdld c f par s
  | .tdst c f => Sys2Proof.Machine.execTdst c f s
  | .tdcpy c f => Sys2Proof.Machine.execTdcpy c f s
  | .tdset c f => Sys2Proof.Machine.execTdset c f s
  | .tdadd c f => Sys2Proof.Machine.execTdadd c f s
  | .cdld c f par => Sys2Proof.Machine.execCdld c f par s
  | .cdst c f => Sys2Proof.Machine.execCdst c f s
  | .cdcpy c f => Sys2Proof.Machine.execCdcpy c f s
  | .cdsetw c f => Sys2Proof.Machine.execCdsetw c f s
  | .cdlbase c f => Sys2Proof.Machine.execCdlbase c f s
  | .cdstream c f => Sys2Proof.Machine.execCdstream c f s
  | .seqResume c => Sys2Proof.Machine.execSeqResume c s
  | .queueInstrStart c q par => Sys2Proof.Machine.execQueueInstrStart c q par s
  | .instrComplete c seq => Sys2Proof.Machine.execInstrComplete c seq s
  | .coreFaulted c => Sys2Proof.Machine.execCoreFaulted c s
  | .dmaTd c f => Sys2Proof.Machine.execDmaTd c f s
  | .dmaList c f => Sys2Proof.Machine.execDmaList c f s
  | .mxQuad c f => Sys2Proof.Machine.execMxQuad c f s
  | .mxPair c pairB f => Sys2Proof.Machine.execMxPair c pairB f s
  | .mxSingle c arr f => Sys2Proof.Machine.execMxSingle c arr f s
  | .mxT64Single c arr f => Sys2Proof.Machine.execMxT64Single c arr f s
  | .mxT64Pair c pairB f => Sys2Proof.Machine.execMxT64Pair c pairB f s
  | .mxT16Single c arr f => Sys2Proof.Machine.execMxT16Single c arr f s
  | .mxT16Pair c pairB f => Sys2Proof.Machine.execMxT16Pair c pairB f s
  | .mxTakeCounts c => Sys2Proof.Machine.execMxTakeCounts c s
  | .weightStagingStart c => Sys2Proof.Machine.execWeightStagingStart c s
  | .weightStagingDone c par => Sys2Proof.Machine.execWeightStagingDone c par s
  | .mxStart c par => Sys2Proof.Machine.execMxStart c par s
  | .accRowReady c seq par => Sys2Proof.Machine.execAccRowReady c seq par s
  | .epilogueRow c seq par => Sys2Proof.Machine.execEpilogueRow c seq par s
  | .drainRow c seq => Sys2Proof.Machine.execDrainRow c seq s
  | .mxComplete c seq => Sys2Proof.Machine.execMxComplete c seq s
  | .vld c f => Sys2Proof.Machine.execVld c f s
  | .vst c f => Sys2Proof.Machine.execVst c f s
  | .vadd c f => Sys2Proof.Machine.execVadd c f s
  | .vsub c f => Sys2Proof.Machine.execVsub c f s
  | .vmul c f => Sys2Proof.Machine.execVmul c f s
  | .vfma c f => Sys2Proof.Machine.execVfma c f s
  | .vmin c f => Sys2Proof.Machine.execVmin c f s
  | .vmax c f => Sys2Proof.Machine.execVmax c f s
  | .vcmpeq c f => Sys2Proof.Machine.execVcmpeq c f s
  | .vcmplt c f => Sys2Proof.Machine.execVcmplt c f s
  | .vcmple c f => Sys2Proof.Machine.execVcmple c f s
  | .vsel c f => Sys2Proof.Machine.execVsel c f s
  | .viadd c f => Sys2Proof.Machine.execViadd c f s
  | .visub c f => Sys2Proof.Machine.execVisub c f s
  | .vimul c f => Sys2Proof.Machine.execVimul c f s
  | .vand c f => Sys2Proof.Machine.execVand c f s
  | .vor c f => Sys2Proof.Machine.execVor c f s
  | .vxor c f => Sys2Proof.Machine.execVxor c f s
  | .vshl c f => Sys2Proof.Machine.execVshl c f s
  | .vshr c f => Sys2Proof.Machine.execVshr c f s
  | .vsra c f => Sys2Proof.Machine.execVsra c f s
  | .vmov c f => Sys2Proof.Machine.execVmov c f s
  | .vrsum c f => Sys2Proof.Machine.execVrsum c f s
  | .vrssq c f => Sys2Proof.Machine.execVrssq c f s
  | .vrmax c f => Sys2Proof.Machine.execVrmax c f s
  | .vrmin c f => Sys2Proof.Machine.execVrmin c f s
  | .vrargmax c f => Sys2Proof.Machine.execVrargmax c f s
  | .vrargmin c f => Sys2Proof.Machine.execVrargmin c f s
  | .vsort c f => Sys2Proof.Machine.execVsort c f s
  | .vtopk c f => Sys2Proof.Machine.execVtopk c f s
  | .vexp2 c f => Sys2Proof.Machine.execVexp2 c f s
  | .vlog2 c f => Sys2Proof.Machine.execVlog2 c f s
  | .vrcp c f => Sys2Proof.Machine.execVrcp c f s
  | .vrsqrt c f => Sys2Proof.Machine.execVrsqrt c f s
  | .vtanh c f => Sys2Proof.Machine.execVtanh c f s
  | .verf c f => Sys2Proof.Machine.execVerf c f s
  | .vsigm c f => Sys2Proof.Machine.execVsigm c f s
  | .vsilu c f => Sys2Proof.Machine.execVsilu c f s
  | .vgelue c f => Sys2Proof.Machine.execVgelue c f s
  | .vgelut c f => Sys2Proof.Machine.execVgelut c f s
  | .vftoi c f => Sys2Proof.Machine.execVftoi c f s
  | .vitof c f => Sys2Proof.Machine.execVitof c f s
  | .vqnt c f => Sys2Proof.Machine.execVqnt c f s
  | .sig c f => Sys2Proof.Machine.execSig c f s
  | .sign c f => Sys2Proof.Machine.execSign c f s
  | .tmr c f => Sys2Proof.Machine.execTmr c f s
  | .evt c f => Sys2Proof.Machine.execEvt c f s
  | .pmark c f => Sys2Proof.Machine.execPmark c f s
  | .pmarkr c f => Sys2Proof.Machine.execPmarkr c f s
  | .allreduce c f => Sys2Proof.Machine.execAllreduce c f s
  | .reducescatter c f => Sys2Proof.Machine.execReducescatter c f s
  | .allgather c f => Sys2Proof.Machine.execAllgather c f s
  | .broadcast c f => Sys2Proof.Machine.execBroadcast c f s
  | .reduce c f => Sys2Proof.Machine.execReduce c f s
  | .barrier c f => Sys2Proof.Machine.execBarrier c f s
  | .rld c f => Sys2Proof.Machine.execRld c f s
  | .rst c f => Sys2Proof.Machine.execRst c f s
  | .rinv c f => Sys2Proof.Machine.execRinv c f s
  | .raAdd c f => Sys2Proof.Machine.execRaAdd c f s
  | .raFadd c f => Sys2Proof.Machine.execRaFadd c f s
  | .raSmin c f => Sys2Proof.Machine.execRaSmin c f s
  | .raSmax c f => Sys2Proof.Machine.execRaSmax c f s
  | .raUmin c f => Sys2Proof.Machine.execRaUmin c f s
  | .raUmax c f => Sys2Proof.Machine.execRaUmax c f s
  | .raAnd c f => Sys2Proof.Machine.execRaAnd c f s
  | .raOr c f => Sys2Proof.Machine.execRaOr c f s
  | .raXor c f => Sys2Proof.Machine.execRaXor c f s
  | .raSwap c f => Sys2Proof.Machine.execRaSwap c f s
  | .raCas c f => Sys2Proof.Machine.execRaCas c f s
  | .trig c f => Sys2Proof.Machine.execTrig c f s
  | .msg c f => Sys2Proof.Machine.execMsg c f s
  | .mboxout c f => Sys2Proof.Machine.execMboxout c f s
  | .mboxin c f => Sys2Proof.Machine.execMboxin c f s
  | .start c => Sys2Proof.Machine.execStart c s
  | .stop c => Sys2Proof.Machine.execStop c s
  | .abort c => Sys2Proof.Machine.execAbort c s
  | .reset c => Sys2Proof.Machine.execReset c s
  | .coreStopped c => Sys2Proof.Machine.execCoreStopped c s
  | .coreResetDone c => Sys2Proof.Machine.execCoreResetDone c s
  | .progLoadGo c v => Sys2Proof.Machine.execProgLoadGo c v s
  | .progLoadDone c par => Sys2Proof.Machine.execProgLoadDone c par s
  | .coreSemSig c v => Sys2Proof.Machine.execCoreSemSig c v s
  | .timerWrite c n v => Sys2Proof.Machine.execTimerWrite c n v s
  | .timerExpiry c n => Sys2Proof.Machine.execTimerExpiry c n s
  | .ledgerCfgWrite c v => Sys2Proof.Machine.execLedgerCfgWrite c v s
  | .ledgerCfgApply c => Sys2Proof.Machine.execLedgerCfgApply c s
  | .coreViolCntRead c => Sys2Proof.Machine.execCoreViolCntRead c s
  | .dmaDescBegin ch par => Sys2Proof.Machine.execDmaDescBegin ch par s
  | .dmaUnitStart ch par => Sys2Proof.Machine.execDmaUnitStart ch par s
  | .dmaDescComplete ch => Sys2Proof.Machine.execDmaDescComplete ch s
  | .dmaChGo d j v => Sys2Proof.Machine.execDmaChGo d j v s
  | .dmaChAbort d j v => Sys2Proof.Machine.execDmaChAbort d j v s
  | .dmaChClrHalt d j => Sys2Proof.Machine.execDmaChClrHalt d j s
  | .coreDmaClrHalt c n => Sys2Proof.Machine.execCoreDmaClrHalt c n s
  | .hbmReqAccept st r parityFails => Sys2Proof.Machine.execHbmReqAccept st r parityFails s
  | .hbmWriteBatchStart st pc ageNs => Sys2Proof.Machine.execHbmWriteBatchStart st pc ageNs s
  | .hbmWriteBatchEnd st pc readAgeNs => Sys2Proof.Machine.execHbmWriteBatchEnd st pc readAgeNs s
  | .hbmReadComplete r ecc timeS => Sys2Proof.Machine.execHbmReadComplete r ecc timeS s
  | .hbmRemapComplete st block => Sys2Proof.Machine.execHbmRemapComplete st block s
  | .hbmPcTimeout st pc answered => Sys2Proof.Machine.execHbmPcTimeout st pc answered s
  | .hbmTempRound st r => Sys2Proof.Machine.execHbmTempRound st r s
  | .hbmScrubRead st block ecc timeS => Sys2Proof.Machine.execHbmScrubRead st block ecc timeS s
  | .hbmSchedApply st => Sys2Proof.Machine.execHbmSchedApply st s
  | .hbmWaveStart st => Sys2Proof.Machine.execHbmWaveStart st s
  | .hbmMaintReq st => Sys2Proof.Machine.execHbmMaintReq st s
  | .hbmMaintDone st hard soft r => Sys2Proof.Machine.execHbmMaintDone st hard soft r s
  | .roleAdv g m payload => Sys2Proof.Machine.execRoleAdv g m payload s
  | .roleCred g m payload => Sys2Proof.Machine.execRoleCred g m payload s
  | .roleAck g m => Sys2Proof.Machine.execRoleAck g m s
  | .roleNak g m reason => Sys2Proof.Machine.execRoleNak g m reason s
  | .roleTimeout g m => Sys2Proof.Machine.execRoleTimeout g m s
  | .d2dTrainStateTimeout g m => Sys2Proof.Machine.execD2dTrainStateTimeout g m s
  | .d2dTrainActive g m failed spareFailed => Sys2Proof.Machine.execD2dTrainActive g m failed spareFailed s
  | .d2dStateReport g m r => Sys2Proof.Machine.execD2dStateReport g m r s
  | .d2dFlitRx g m x => Sys2Proof.Machine.execD2dFlitRx g m x s
  | .d2dRetrainDone g m failed spareFailed => Sys2Proof.Machine.execD2dRetrainDone g m failed spareFailed s
  | .d2dMarginRead g m low => Sys2Proof.Machine.execD2dMarginRead g m low s
  | .flowRelease g flow => Sys2Proof.Machine.execFlowRelease g flow s
  | .retrainAll g => Sys2Proof.Machine.execRetrainAll g s
  | .rdReq g m hdr par => Sys2Proof.Machine.execRdReq g m hdr par s
  | .wrReq g m hdr payload tail => Sys2Proof.Machine.execWrReq g m hdr payload tail s
  | .rdRsp g m hdr payload tail => Sys2Proof.Machine.execRdRsp g m hdr payload tail s
  | .wrAck g m hdr => Sys2Proof.Machine.execWrAck g m hdr s
  | .drMsg g m hdr payload => Sys2Proof.Machine.execDrMsg g m hdr payload s
  | .credit g m payload => Sys2Proof.Machine.execCredit g m payload s
  | .mgmt g m hdr payload => Sys2Proof.Machine.execMgmt g m hdr payload s
  | .identityBoundary p => Sys2Proof.Machine.execIdentityBoundary p s
  | .identityFlitRx p lane flit => Sys2Proof.Machine.execIdentityFlitRx p lane flit s
  | .identityFlitMissing p lane => Sys2Proof.Machine.execIdentityFlitMissing p lane s
  | .codewordRx p lane symbols uncorrectable => Sys2Proof.Machine.execCodewordRx p lane symbols uncorrectable s
  | .serWindow p lane errors symbols => Sys2Proof.Machine.execSerWindow p lane errors symbols s
  | .laneVerifyTimeout p lane => Sys2Proof.Machine.execLaneVerifyTimeout p lane s
  | .laneSweepDone p lane => Sys2Proof.Machine.execLaneSweepDone p lane s
  | .laneRetry p lane => Sys2Proof.Machine.execLaneRetry p lane s
  | .heaterUpdate io elapsed => Sys2Proof.Machine.execHeaterUpdate io elapsed s
  | .ringRecalStart die ring => Sys2Proof.Machine.execRingRecalStart die ring s
  | .ringRecalDone die ring optimum => Sys2Proof.Machine.execRingRecalDone die ring optimum s
  | .laserFail die laser spareOk => Sys2Proof.Machine.execLaserFail die laser spareOk s
  | .fibreDark x => Sys2Proof.Machine.execFibreDark x s
  | .spareTrainTimeout p => Sys2Proof.Machine.execSpareTrainTimeout p s
  | .fanoutRequest g die p q => Sys2Proof.Machine.execFanoutRequest g die p q s
  | .fanoutEnd die => Sys2Proof.Machine.execFanoutEnd die s
  | .meshSettle die => Sys2Proof.Machine.execMeshSettle die s
  | .portTrainDone p light verified => Sys2Proof.Machine.execPortTrainDone p light verified s
  | .portRetry p => Sys2Proof.Machine.execPortRetry p s
  | .optRetrain p => Sys2Proof.Machine.execOptRetrain p s
  | .adminDown p down => Sys2Proof.Machine.execAdminDown p down s
  | .reachWrite p short => Sys2Proof.Machine.execReachWrite p short s
  | .frameRx x f => Sys2Proof.Machine.execFrameRx x f s
  | .creditFlitRx x f => Sys2Proof.Machine.execCreditFlitRx x f s
  | .frameSend x => Sys2Proof.Machine.execFrameSend x s
  | .frameAgeDrop p ix => Sys2Proof.Machine.execFrameAgeDrop p ix s
  | .packetInject io k => Sys2Proof.Machine.execPacketInject io k s
  | .packetArrive io k => Sys2Proof.Machine.execPacketArrive io k s
  | .ackTimer io key => Sys2Proof.Machine.execAckTimer io key s
  | .ack io k => Sys2Proof.Machine.execAck io k s
  | .nack io k => Sys2Proof.Machine.execNack io k s
  | .vnotice io k => Sys2Proof.Machine.execVnotice io k s
  | .resendTimeout io key seq => Sys2Proof.Machine.execResendTimeout io key seq s
  | .streamEntryExpiry io tx key => Sys2Proof.Machine.execStreamEntryExpiry io tx key s
  | .fault p k => Sys2Proof.Machine.execFault p k s
  | .violInterval p => Sys2Proof.Machine.execViolInterval p s
  | .clrQuar p => Sys2Proof.Machine.execClrQuar p s
  | .req io k => Sys2Proof.Machine.execReq io k s
  | .lineApply io line par => Sys2Proof.Machine.execLineApply io line par s
  | .rsp io k => Sys2Proof.Machine.execRsp io k s
  | .reissueTimeout io home rid => Sys2Proof.Machine.execReissueTimeout io home rid s
  | .trigDeliver io k => Sys2Proof.Machine.execTrigDeliver io k s
  | .msgDeliver io k age => Sys2Proof.Machine.execMsgDeliver io k age s
  | .invAll d => Sys2Proof.Machine.execInvAll d s
  | .colSetup g => Sys2Proof.Machine.execColSetup g s
  | .colSetupDone g => Sys2Proof.Machine.execColSetupDone g s
  | .colTeardown g => Sys2Proof.Machine.execColTeardown g s
  | .colOpStart g x => Sys2Proof.Machine.execColOpStart g x s
  | .colSlotReserve g d => Sys2Proof.Machine.execColSlotReserve g d s
  | .chunkSend g d => Sys2Proof.Machine.execChunkSend g d s
  | .data k residue => Sys2Proof.Machine.execData k residue s
  | .grant k => Sys2Proof.Machine.execGrant k s
  | .rereq k => Sys2Proof.Machine.execRereq k s
  | .exponent k => Sys2Proof.Machine.execExponent k s
  | .colDrainRow g c => Sys2Proof.Machine.execColDrainRow g c s
  | .colGroupTimeout g d => Sys2Proof.Machine.execColGroupTimeout g d s
  | .colOpComplete g c => Sys2Proof.Machine.execColOpComplete g c s
  | .railSample compute uncore hbm io island pkg => Sys2Proof.Machine.execRailSample compute uncore hbm io island pkg s
  | .regulatorInterval x => Sys2Proof.Machine.execRegulatorInterval x s
  | .droopDetect d => Sys2Proof.Machine.execDroopDetect d s
  | .stretchEnd d cycles still => Sys2Proof.Machine.execStretchEnd d cycles still s
  | .thermalModelUpdate die temps projected => Sys2Proof.Machine.execThermalModelUpdate die temps projected s
  | .packageNodeUpdate substrate coldPlate coolant => Sys2Proof.Machine.execPackageNodeUpdate substrate coldPlate coolant s
  | .diodeRound die readings => Sys2Proof.Machine.execDiodeRound die readings s
  | .analogTrip die => Sys2Proof.Machine.execAnalogTrip die s
  | .coolDutyUpdate => Sys2Proof.Machine.execCoolDutyUpdate s
  | .coolantRead inlet outlet => Sys2Proof.Machine.execCoolantRead inlet outlet s
  | .pwrModeWrite v => Sys2Proof.Machine.execPwrModeWrite v s
  | .midnightEntry => Sys2Proof.Machine.execMidnightEntry s
  | .pwrCapWrite v => Sys2Proof.Machine.execPwrCapWrite v s
  | .learnClear => Sys2Proof.Machine.execLearnClear s
  | .attrClear => Sys2Proof.Machine.execAttrClear s
  | .pcieConfigReq write offset v => Sys2Proof.Machine.execPcieConfigReq write offset v s
  | .pcieError status => Sys2Proof.Machine.execPcieError status s
  | .bar2Read offset len => Sys2Proof.Machine.execBar2Read offset len s
  | .bar2Write offset data => Sys2Proof.Machine.execBar2Write offset data s
  | .regWrite offset size v => Sys2Proof.Machine.execRegWrite offset size v s
  | .regWriteHalf offset v => Sys2Proof.Machine.execRegWriteHalf offset v s
  | .regReadLowHalf offset => Sys2Proof.Machine.execRegReadLowHalf offset s
  | .eventInputChange n level => Sys2Proof.Machine.execEventInputChange n level s
  | .pendSet m v => Sys2Proof.Machine.execPendSet m v s
  | .pendClr m v => Sys2Proof.Machine.execPendClr m v s
  | .evcClaim t => Sys2Proof.Machine.execEvcClaim t s
  | .evcVecArm v => Sys2Proof.Machine.execEvcVecArm v s
  | .msixUnmask v => Sys2Proof.Machine.execMsixUnmask v s
  | .watchdogExpiry hart => Sys2Proof.Machine.execWatchdogExpiry hart s
  | .mbxInRing c v => Sys2Proof.Machine.execMbxInRing c v s
  | .mbxInDataWrite c n v => Sys2Proof.Machine.execMbxInDataWrite c n v s
  | .mbxInMaskWrite c v => Sys2Proof.Machine.execMbxInMaskWrite c v s
  | .mbxHostRing crown => Sys2Proof.Machine.execMbxHostRing crown s
  | .hostMbxPoll => Sys2Proof.Machine.execHostMbxPoll s
  | .echo => Sys2Proof.Machine.execEcho s
  | .unsupported => Sys2Proof.Machine.execUnsupported s
  | .jqTailWrite q v => Sys2Proof.Machine.execJqTailWrite q v s
  | .jqEnable q v => Sys2Proof.Machine.execJqEnable q v s
  | .jobPickup => Sys2Proof.Machine.execJobPickup s
  | .jobNop q => Sys2Proof.Machine.execJobNop q s
  | .jobLoad q => Sys2Proof.Machine.execJobLoad q s
  | .jobStart q => Sys2Proof.Machine.execJobStart q s
  | .jobStop q => Sys2Proof.Machine.execJobStop q s
  | .jobAbort q => Sys2Proof.Machine.execJobAbort q s
  | .jobReset q => Sys2Proof.Machine.execJobReset q s
  | .jobWait q expired => Sys2Proof.Machine.execJobWait q expired s
  | .jobSignal q => Sys2Proof.Machine.execJobSignal q s
  | .illegalJob q => Sys2Proof.Machine.execIllegalJob q s
  | .jobComplete q => Sys2Proof.Machine.execJobComplete q s
  | .porstRelease bootSel => Sys2Proof.Machine.execPorstRelease bootSel s
  | .dawnDone => Sys2Proof.Machine.execDawnDone s
  | .porstAssert => Sys2Proof.Machine.execPorstAssert s
  | .pkgReset v => Sys2Proof.Machine.execPkgReset v s
  | .perst asserted => Sys2Proof.Machine.execPerst asserted s
  | .pcieHotReset => Sys2Proof.Machine.execPcieHotReset s
  | .imgUpdate img => Sys2Proof.Machine.execImgUpdate img s
  | .imgUpdateDone programmed readBack => Sys2Proof.Machine.execImgUpdateDone programmed readBack s
  | .imgConfirm => Sys2Proof.Machine.execImgConfirm s
  | .ownerChallenge nonce => Sys2Proof.Machine.execOwnerChallenge nonce s
  | .nonceExpiry => Sys2Proof.Machine.execNonceExpiry s
  | .ownerRequest img slot nonce outer digest innerOk => Sys2Proof.Machine.execOwnerRequest img slot nonce outer digest innerOk s
  | .attest fwDigest recDigest ownerDigest signature => Sys2Proof.Machine.execAttest fwDigest recDigest ownerDigest signature s
  | .identityCert => Sys2Proof.Machine.execIdentityCert s
  | .dieHealthCheck d answered regulated => Sys2Proof.Machine.execDieHealthCheck d answered regulated s
  | .journalCommit => Sys2Proof.Machine.execJournalCommit s
  | .healthRecord => Sys2Proof.Machine.execHealthRecord s
  | .jrnlRead => Sys2Proof.Machine.execJrnlRead s
  | .faultMap => Sys2Proof.Machine.execFaultMap s
  | .vspConfig => Sys2Proof.Machine.execVspConfig s
  | .vspHold => Sys2Proof.Machine.execVspHold s
  | .vspStep => Sys2Proof.Machine.execVspStep s
  | .vspStatus => Sys2Proof.Machine.execVspStatus s
  | .vspBlockRead d => Sys2Proof.Machine.execVspBlockRead d s
  | .vspBegin io k => Sys2Proof.Machine.execVspBegin io k s
  | .vspCommit io k => Sys2Proof.Machine.execVspCommit io k s
  | .vspApplyDone slot => Sys2Proof.Machine.execVspApplyDone slot s
  | .vspAbort io k => Sys2Proof.Machine.execVspAbort io k s
  | .vspSnapshotComplete micros => Sys2Proof.Machine.execVspSnapshotComplete micros s
  | .drain => Sys2Proof.Machine.execDrain s
  | .drainComplete micros => Sys2Proof.Machine.execDrainComplete micros s
  | .pwrfailAssert inTime => Sys2Proof.Machine.execPwrfailAssert inTime s
  | .vinRise => Sys2Proof.Machine.execVinRise s
  | .vinLockout => Sys2Proof.Machine.execVinLockout s
  | .bypass => Sys2Proof.Machine.execBypass s
  | .idcode => Sys2Proof.Machine.execIdcode s
  | .samplePreload => Sys2Proof.Machine.execSamplePreload s
  | .extest => Sys2Proof.Machine.execExtest s
  | .stackBringupEnd st ok hard soft remapped => Sys2Proof.Machine.execStackBringupEnd st ok hard soft remapped s
  | .rcRead offset size => Sys2Proof.Machine.execRcRead offset size s
  | .pcieLinkStateChange => Sys2Proof.Machine.execPcieLinkStateChange s

end Sys2Proof.Machine
end

