-- ==== Sys2Proof/Safety.lean ====
section
/-! DEFINITION. What the statements about the part are said with: when a core issues, what raising an event shows, and what no
command takes away. -/

namespace Sys2Proof.Machine

/-! ### Words -/

/-- A kind of core instruction whose word decodes to it, for every core and every value of its fields. -/
def Back {F : Type} (k : Nat → F → Instr) : Prop :=
  ∀ c f, ∃ w, encodeCore (k c f) = some w ∧ decodeCore c w = some (k c f)

/-! ### Cores -/

/-- Core c issues its next instruction: RUNNING, no instruction held, no wait in force, a good program word, and not the last index
(R122, R124, R130). -/
structure State.Ready (s : State) (c : Nat) : Prop where
  issuing : s.issuing c = true
  word    : hasNat (s.core c).badProg (s.core c).pc = false
  room    : (s.core c).pc < 16383

/-- A core that has issued one instruction and goes to an index. -/
def Core.at (k : Core) (pc : Nat) : Core := { k with pc := pc, issueSeq := k.issueSeq + 1 }

/-- A core that has issued one instruction and goes on (R122). -/
def Core.next (k : Core) : Core := k.at (k.pc + 1)

/-- The queue entry of an instruction that core c issues now: it captures the registers and descriptors as they are (R128). -/
def State.entryOf (s : State) (c : Nat) (ins : QIns) : QEntry :=
  ⟨(s.core c).issueSeq, (s.core c).pc, ins, (s.core c).sreg, (s.core c).td, (s.core c).cd, s.numDefault⟩

/-- The core with an entry at the tail of its queue, the sequencer gone on (R122). -/
def Core.queued (k : Core) (e : QEntry) : Core := (k.setQueue e.ins.queue (k.queue e.ins.queue ++ [e])).next

/-- Core c issues, and the queue of the instruction has room (R122). -/
def State.Takes (s : State) (c : Nat) (ins : QIns) : Prop :=
  s.Ready c ∧ ((s.core c).queue ins.queue).length < queueDepth ins.queue

/-- Running an instruction now places it at the tail of its queue, and does nothing else. -/
def Queues (i : Instr) (s : State) (c : Nat) (ins : QIns) : Prop :=
  exec i s = .next (s.setCore c ((s.core c).queued (s.entryOf c ins)))

/-- An entry at the head of its queue starts now (R129, R130, R133): the core is there and has power, the entry takes its counts,
its unit is free, and no started instruction bears its number. -/
structure State.Starts (s : State) (c : Nat) (e : QEntry) (rest : List QEntry) : Prop where
  power  : s.pwrFail = false
  here   : s.hasCore c = true
  head   : (s.core c).queue e.ins.queue = e :: rest
  counts : (s.core c).mayTake e.seq (waitSet e.ins.sync) = true
  free   : s.queueFree c e.ins.queue e = true
  only   : ∀ r ∈ (s.core c).started, r.entry.seq ≠ e.seq

/-- A core whose queue head has taken its counts and has started. -/
def Core.begun (k : Core) (e : QEntry) (rest : List QEntry) : Core :=
  { (k.take (waitSet e.ins.sync)).setQueue e.ins.queue rest with started := k.started ++ [⟨e, 0, .none, false⟩] }

/-- A core whose queue head has started and has done its work, with a status code and flags. -/
def Core.ended (k : Core) (e : QEntry) (rest : List QEntry) (code : Nat) (fl : NumFlags) : Core :=
  { (k.take (waitSet e.ins.sync)).setQueue e.ins.queue rest with started := k.started ++ [⟨e, code, fl, true⟩] }

/-! ### Events -/

/-- Registers in which raising an event shows: pending sources, input levels, EVC_VEC_ARM and the MSI-X pending bits. -/
def eventReg (o : Nat) : Prop :=
  (0x202000 ≤ o ∧ o < 0x202200) ∨ o = 0x203100 ∨ o = 0x109000

/-- `t` is `s` but for what raising events shows: those registers, and the messages that leave. -/
structure Raised (s t : State) : Prop where
  regs : ∀ o, ¬ eventReg o → t.reg o = s.reg o
  rest : { t with regs := s.regs, out := s.out } = s

/-- `t` is `s` but for the registers listed and what raising events shows. -/
structure Shows (s t : State) (os : List Nat) : Prop where
  regs : ∀ o, o ∉ os → ¬ eventReg o → t.reg o = s.reg o
  rest : { t with regs := s.regs, out := s.out } = s

/-- `t` is `s` but for the registers listed, what raising events shows, the links inside the package with the packets
they carry, and the journal's backlog. -/
structure Links (s t : State) (os : List Nat) : Prop where
  regs : ∀ o, o ∉ os → ¬ eventReg o → t.reg o = s.reg o
  rest : { t with regs := s.regs, out := s.out, dmods := s.dmods, steer := s.steer, steerLast := s.steerLast,
                  movedFlows := s.movedFlows, drQueue := s.drQueue, drCred := s.drCred, drPart := s.drPart,
                  backlog := s.backlog, jDropped := s.jDropped, freeIx := s.freeIx } = s

/-- Registers in which a change of the fabric's links shows: FAB_FAULT_LOG and the alternates of its two tables (R313). -/
def fabReg (o : Nat) : Prop := o = 0x800100 ∨ (0x810000 ≤ o ∧ o < 0x812200)

/-- Registers in which port p shows: its own, the READY map of the ports, and the fabric, which follows its ports. -/
def portReg (p o : Nat) : Prop := fabReg o ∨ o = 0x110 ∨ (rPort p 0 ≤ o ∧ o < rPort p 0x80)

/-- Registers in which the optics and the fabric show: their blocks, and the READY map of the ports. -/
def netReg (o : Nat) : Prop := (0x700000 ≤ o ∧ o < 0x900000) ∨ o = 0x110

/-- `t` is `s` but for the registers of `Q`, what raising events shows, the lane state of the ports of `P`, the orders of the optics,
the routers, and the journal's backlog. -/
structure NetR (Q P : Nat → Prop) (s t : State) : Prop where
  regs  : ∀ o, ¬ eventReg o → ¬ Q o → t.reg o = s.reg o
  lanes : ∀ q, ¬ P q → t.oport q = s.oport q
  rest  : { t with regs := s.regs, out := s.out, backlog := s.backlog, jDropped := s.jDropped, freeIx := s.freeIx,
                   mapGen := s.mapGen, mapTime := s.mapTime, oports := s.oports, meshWait := s.meshWait, recalDue := s.recalDue,
                   router := s.router,
                   arrived := s.arrived, granted := s.granted, txCred := s.txCred, occ := s.occ, deadLinks := s.deadLinks,
                   deadOwn := s.deadOwn, fseqOwn := s.fseqOwn } = s

/-- What the optics and the fabric may touch. -/
abbrev Net (s t : State) : Prop := NetR netReg (fun _ => True) s t
/-- What port p, its links and the fabric may touch. -/
abbrev PortOnly (p : Nat) (s t : State) : Prop := NetR (portReg p) (· = p) s t
/-- What the fabric may touch. -/
abbrev Fab (s t : State) : Prop := NetR fabReg (fun _ => False) s t

/-- Registers in which power management shows: the PWR block, and the model's divergence in THM_STATUS. -/
def pwrReg (o : Nat) : Prop := (rPwr 0 ≤ o ∧ o < rPwr 0x10000) ∨ o = rThm 0

/-- `t` is `s` but for the registers of power management, what raising events shows, and the Regulator's own state. -/
structure Powers (s t : State) : Prop where
  regs : ∀ o, ¬ eventReg o → ¬ pwrReg o → t.reg o = s.reg o
  rest : { t with regs := s.regs, out := s.out, rails := s.rails, regl := s.regl } = s

/-- `t` is a trip of `s` (R385): latched with its cause and place, cooling at 100 %, every rail group but the always-on island off, so that
memory, the cores and everything READY but the Crown and the endpoint are gone; the registers of the island stand. -/
structure Trips (s t : State) (cause place : Nat) : Prop where
  latched : t.tripped = true
  why     : t.rf (rThm 0) 28 3 = cause ∧ t.rf (rThm 0) 22 6 = place
  cooling : t.rf (rThm 0x300) 21 10 = 1000
  off     : t.off = true ∧ t.mem = [] ∧ t.cores = []
  ready   : t.reg (rBoot 0x100) = 0 ∧ t.reg (rBoot 0x108) = 0 ∧ t.reg (rBoot 0x110) = 0 ∧ t.reg (rBoot 0x118) = s.reg (rBoot 0x118) &&& 0x3000000
  regs    : ∀ o, o < 0x300000 → ¬ eventReg o → o ≠ rBoot 0x100 → o ≠ rBoot 0x108 → o ≠ rBoot 0x110 → o ≠ rBoot 0x118 → t.reg o = s.reg o

/-- `t` is `s` after a core fault of core c (R144): what was issued and not started is gone, the first fault is recorded, and the
core is on its way to FAULTED. -/
def Faults (s t : State) (c cause queue pc detail : Nat) : Prop :=
  Raised (s.setCore c { (s.core c).discard with
    fault := some ⟨cause, queue, pc, detail⟩, stopCause := .fault, run := .stopping }) t

/-! ### Memory -/

/-- `t` is `s` with bytes stored from an address on, where the part holds data: every other byte and every other field stands. -/
structure Stored (s t : State) (a : Nat) (d : Bytes) : Prop where
  bytes : ∀ x, t.byte x = if a ≤ x ∧ x < a + d.length ∧ s.live x = true then d.getD (x - a) 0 else s.byte x
  rest  : { t with mem := s.mem } = s

/-! ### What stands -/

/-- What no step takes away: the assembly grade and the key slots fixed at manufacture stand, a fuse that is burned stays
burned, the version floor does not fall, and memory and registers keep their canonical form. -/
structure Lasts (s t : State) : Prop where
  grade : t.grade = s.grade
  gold  : t.otpGold = s.otpGold
  owner : ∀ i, bit s.otpOwner i = true → bit t.otpOwner i = true
  floor : s.svnFloor ≤ t.svnFloor
  mem   : Memory.wf s.mem = true → Memory.wf t.mem = true
  regs  : Tab.wf (0 : W64) s.regs = true → Tab.wf (0 : W64) t.regs = true

end Sys2Proof.Machine
end

