-- ==== Sys2Proof/Certificates/Slice0/Obligations.lean ====
section
/-! DEFINITION. What is claimed of the part: the statements to prove. Each says what a rule of spec/ says the part does. -/

open Sys2Proof Sys2Proof.Machine

/-- The part at the release of reset: no command waits, every core is stopped at index 0 with its registers, descriptors and
accumulators at 0 (R126, R159, R164), memory reads zero, and no register is other than 0 but EVC_VEC_ARM, all ones (R410), and the
mask bits of the MSI-X table (the model's choice, log 6). -/
def Obligations.ResetValues : Prop :=
  State.reset.pending = [] ∧ State.reset.bootStage = 0 ∧ State.reset.crown = 0
  ∧ (∀ a, State.reset.byte a = 0)
  ∧ (∀ c, State.reset.core c = Core.reset)
  ∧ (∀ r, Core.reset.s r = 0)
  ∧ (∀ o, State.reset.reg o = if o = rEvc 0x3100 then 0xFFFFFFFF
      else if ∃ v ∈ List.range 32, o = rCrn (0x8008 + 16 * v) then 0x100000000 else 0)

/-- The part at the release of reset has memory and registers in canonical form, so that `StepKeeps` holds of every run from it. -/
def Obligations.ResetLasts : Prop :=
  Memory.wf State.reset.mem = true ∧ Tab.wf (0 : W64) State.reset.regs = true

/-- Words written out from the layouts of R168 to R185, each with the instruction that it spells. -/
def Obligations.DecodeWords : Prop :=
  let y : Sync := ⟨1, 2, 3, 4, 5, 6, 7, 8⟩
  ∀ c,
    decodeCore c 0 = some (.nop c ⟨0, 0, 0, false, 0, 0, 0, 0⟩)
    ∧ decodeCore c 0x00906980000000800000000000000005 = some (.br c ⟨4, 3, 9, true, 0, 0x80, 0, 5⟩)
    ∧ decodeCore c 0x10061140000000070000000000000000 = some (.add c ⟨3, 1, 2, true, 7, 0⟩)
    ∧ decodeCore c 0x143E0000000000000123456789ABCDEF = some (.li c ⟨31, 0, 0, false, 0, 0x0123456789ABCDEF⟩)
    ∧ decodeCore c 0x20C51A09000000800000000000000000 = some (.tdset c ⟨5, 6, 8, 4, true, 0x80⟩)
    ∧ decodeCore c 0x50C8FE48FFFFFFFF0000000000000000 = some (.cdsetw c ⟨2, 3, 31, 4, true, 0xFFFFFFFF⟩)
    ∧ decodeCore c 0x3021C8DB04834158780000640000C800 = some (.dmaTd c ⟨2, 7, 8, 3, 1, 2, 3, y, 100, 200⟩)
    ∧ decodeCore c 0x450200100440008400800000120020A4
        = some (.mxT16Pair c false ⟨16, 0, 2, false, false, ⟨1, 1, 0, 0, 2, 1, 0, 0⟩, 8192, 2304, 4, 5, 2⟩)
    ∧ decodeCore c 0x6082219204834158788039A50A5FE000
        = some (.vadd c ⟨1, 2, 3, 4, true, y, 512, 3, true, 6, 9, 8, 10, 11, 63⟩)
    ∧ decodeCore c 0x6A41083C048341587880040000801FDE
        = some (.vtopk c ⟨1, 2, 3, true, true, y, 256, 262144, 1024, 3, true, 30, 15⟩)
    ∧ decodeCore c 0x807FA20004834158780000000000FFFF = some (.sign c ⟨63, 2, 17, y, 65535⟩)
    ∧ decodeCore c 0xC03FC600048341587800000000000000 = some (.pmark c ⟨255, 3, y⟩)
    ∧ decodeCore c 0x903E042004834158780C48D37AB6FBBC = some (.allreduce c ⟨15, 2, 1, 2, y, 3, 0x1234, 0xDEADBEEF⟩)
    ∧ decodeCore c 0xA0022192048341587880000000000000 = some (.rld c ⟨1, 2, 3, 4, true, false, y, 4096⟩)
    ∧ decodeCore c 0xB0022FCA04834158788C43F000C80000 = some (.trig c ⟨1, 2, 63, 5, y, 8, 24, 33, 15, 4096, 200⟩)
    ∧ ∀ w, 13 ≤ fld w 124 4 → decodeCore c w = none

/-- Every step, from every state, answers a next state: it takes the one command in front of the queue and no other, and what the
part never loses stands: its grade (R1), and the key slots, fuses and version floor of its one-time-programmable store (R434). Memory and
registers keep their canonical form. -/
def Obligations.StepKeeps : Prop :=
  ∀ s : State, ∃ t, step s = .next t ∧ Lasts s t ∧ t.pending = s.pending.tail

/-- Encoding an instruction of a core and decoding the word gives the instruction back, with every field at every value (R153, R154,
R168 to R185). The parity errors that LD, TDLD and CDLD may find are no bits of the word. -/
def Obligations.RoundTrip : Prop :=
    (∀ k ∈ ([.nop, .jmp, .br, .call, .ret, .halt, .swait, .qstat] : List (Nat → CtrlF → Instr)), Back k)
    ∧ (∀ k ∈ ([.add, .sub, .and, .or, .xor, .sll, .srl, .sra, .mul, .mulhu, .min, .max, .minu, .maxu, .slt, .sltu, .li,
        (.ld · · none), .st] : List (Nat → ScalF → Instr)), Back k)
    ∧ (∀ k ∈ ([(.tdld · · none), .tdst, .tdcpy, .tdset, .tdadd] : List (Nat → DescF → Instr)), Back k)
    ∧ (∀ k ∈ ([(.cdld · · none), .cdst, .cdcpy, .cdsetw, .cdlbase, .cdstream] : List (Nat → ChainF → Instr)), Back k)
    ∧ (∀ k ∈ ([.dmaTd] : List (Nat → DmaTdF → Instr)), Back k)
    ∧ (∀ k ∈ ([.dmaList] : List (Nat → DmaListF → Instr)), Back k)
    ∧ (∀ k ∈ ([.vld, .vst, .vadd, .vsub, .vmul, .vfma, .vmin, .vmax, .vcmpeq, .vcmplt, .vcmple, .vsel, .viadd, .visub, .vimul,
        .vand, .vor, .vxor, .vshl, .vshr, .vsra, .vmov, .vexp2, .vlog2, .vrcp, .vrsqrt, .vtanh, .verf, .vsigm, .vsilu, .vgelue,
        .vgelut, .vftoi, .vitof, .vqnt] : List (Nat → VxF → Instr)), Back k)
    ∧ (∀ k ∈ ([.vrsum, .vrssq, .vrmax, .vrmin, .vrargmax, .vrargmin, .vsort, .vtopk] : List (Nat → VtF → Instr)), Back k)
    ∧ (∀ k ∈ ([.sig, .sign, .tmr, .evt] : List (Nat → SyncF → Instr)), Back k)
    ∧ (∀ k ∈ ([.pmark, .pmarkr] : List (Nat → PmarkF → Instr)), Back k)
    ∧ (∀ k ∈ ([.allreduce, .reducescatter, .allgather, .broadcast, .reduce, .barrier] : List (Nat → ColF → Instr)), Back k)
    ∧ (∀ k ∈ ([.rld, .rst, .rinv, .raAdd, .raFadd, .raSmin, .raSmax, .raUmin, .raUmax, .raAnd, .raOr, .raXor, .raSwap, .raCas]
        : List (Nat → RsbF → Instr)), Back k)
    ∧ (∀ k ∈ ([.trig, .msg, .mboxout, .mboxin] : List (Nat → MsgF → Instr)), Back k)
    ∧ (∀ b a, ∀ k ∈ ([.mxQuad, (.mxPair · b ·), (.mxSingle · a ·), (.mxT64Single · a ·), (.mxT64Pair · b ·), (.mxT16Single · a ·),
        (.mxT16Pair · b ·)] : List (Nat → MxF → Instr)), Back k)

/-- A step takes the command at the front of the queue and runs it on the part with the rest of the queue. -/
def Obligations.StepRunsFront : Prop :=
  ∀ (c : Instr) (rest : List Instr) (s : State),
    step { s with pending := c :: rest } = exec c { s with pending := rest }

/-- What the control class does at a core that issues (R124, R168): the next index, the target, the return stack; no other core,
register or byte changes. -/
def Obligations.ControlFlow : Prop :=
  ∀ (c : Nat) (f : CtrlF) (s : State), s.Ready c →
    let k := s.core c
    let a := k.s f.sa.toNat
    let b := if f.imm then f.imm32.signExtend 64 else k.s f.sb.toNat
    let taken := (f.cond = 0 ∧ a = b) ∨ (f.cond = 1 ∧ a ≠ b) ∨ (f.cond = 2 ∧ a.toInt < b.toInt)
      ∨ (f.cond = 3 ∧ b.toInt ≤ a.toInt) ∨ (f.cond = 4 ∧ a.toNat < b.toNat) ∨ (f.cond = 5 ∧ b.toNat ≤ a.toNat)
    exec (.nop c f) s = .next (s.setCore c k.next)
    ∧ exec (.jmp c f) s = .next (s.setCore c (k.at f.target.toNat))
    ∧ (f.cond.toNat ≤ 5 → taken → exec (.br c f) s = .next (s.setCore c (k.at f.target.toNat)))
    ∧ (f.cond.toNat ≤ 5 → ¬ taken → exec (.br c f) s = .next (s.setCore c k.next))
    ∧ (k.rstack.length < 8 →
        exec (.call c f) s = .next (s.setCore c { k.at f.target.toNat with rstack := (k.pc + 1) :: k.rstack }))
    ∧ (∀ t rest, k.rstack = t :: rest → t ≤ 16383 →
        exec (.ret c f) s = .next (s.setCore c { k.at t with rstack := rest }))

/-- The scalar class at a core that issues (R169): s[sd] takes the operation of s[sa] and b; a write to s0 is ignored (R127). -/
def Obligations.ScalarResults : Prop :=
  ∀ (c : Nat) (f : ScalF) (s : State), s.Ready c →
    let k := s.core c
    let a := k.s f.sa.toNat
    let b := if f.imm then f.imm32.signExtend 64 else k.s f.sb.toNat
    let n := b.toNat % 64
    let wrote (v : W64) : Core := if f.sd = 0 then k.next else { k.next with sreg := Tab.put 0 f.sd.toNat v k.sreg }
    let gives (i : Instr) (v : W64) : Prop := exec i s = .next (s.setCore c (wrote v))
    gives (.add c f) (BitVec.ofNat 64 (a.toNat + b.toNat))
    ∧ gives (.sub c f) (BitVec.ofInt 64 (a.toInt - b.toInt))
    ∧ gives (.and c f) (BitVec.ofNat 64 (a.toNat &&& b.toNat))
    ∧ gives (.or c f) (BitVec.ofNat 64 (a.toNat ||| b.toNat))
    ∧ gives (.xor c f) (BitVec.ofNat 64 (a.toNat ^^^ b.toNat))
    ∧ gives (.sll c f) (BitVec.ofNat 64 (a.toNat * 2 ^ n))
    ∧ gives (.srl c f) (BitVec.ofNat 64 (a.toNat / 2 ^ n))
    ∧ gives (.sra c f) (BitVec.ofInt 64 (a.toInt / 2 ^ n))
    ∧ gives (.mul c f) (BitVec.ofNat 64 (a.toNat * b.toNat))
    ∧ gives (.mulhu c f) (BitVec.ofNat 64 (a.toNat * b.toNat / 2 ^ 64))
    ∧ gives (.min c f) (if a.toInt ≤ b.toInt then a else b)
    ∧ gives (.max c f) (if b.toInt ≤ a.toInt then a else b)
    ∧ gives (.minu c f) (if a.toNat ≤ b.toNat then a else b)
    ∧ gives (.maxu c f) (if b.toNat ≤ a.toNat then a else b)
    ∧ gives (.slt c f) (if a.toInt < b.toInt then 1 else 0)
    ∧ gives (.sltu c f) (if a.toNat < b.toNat then 1 else 0)
    ∧ gives (.li c f) f.imm64

/-- The faults of the sequencer (R124, R144): at index 16,383 a NOP or a branch not taken is a core fault with cause PC_END, a call with 8
entries held and a return with none one with cause RSTACK, each with queue 5 and the instruction's program counter. -/
def Obligations.SequencerEnds : Prop :=
  ∀ (c : Nat) (f : CtrlF) (s : State), s.issuing c = true → hasNat (s.core c).badProg (s.core c).pc = false →
    (s.core c).fault = none → (s.core c).run = .running →
    let k := s.core c
    (k.pc = 16383 → ∃ t, exec (.nop c f) s = .next t ∧ Faults s t c 7 5 16383 0)
    ∧ (k.pc = 16383 → f.cond = 1 → f.imm = false → k.s f.sa.toNat = k.s f.sb.toNat →
        ∃ t, exec (.br c f) s = .next t ∧ Faults s t c 7 5 16383 0)
    ∧ (8 ≤ k.rstack.length → ∃ t, exec (.call c f) s = .next t ∧ Faults s t c 8 5 k.pc 0)
    ∧ (k.rstack = [] → ∃ t, exec (.ret c f) s = .next t ∧ Faults s t c 8 5 k.pc 0)

/-- LD, TDLD and CDLD inside the core store (R170-R172): the bytes at s[sa] + imm32, little-endian, and nothing else changes. -/
def Obligations.SequencerLoads : Prop :=
  ∀ (c : Nat) (s : State), s.Ready c →
    let k := s.core c
    let off (sa : BitVec 5) (i : BitVec 32) : Nat := (k.s sa.toNat + i.signExtend 64).toNat
    let at' (o n : Nat) : Nat := s.readN (storeAddr c o) n
    (∀ f : ScalF, off f.sa f.imm32 % 8 = 0 → off f.sa f.imm32 + 8 ≤ 0x1800000 →
      let v : W64 := BitVec.ofNat 64 (at' (off f.sa f.imm32) 8)
      exec (.ld c f none) s = .next (s.setCore c
        (if f.sd = 0 then k.next else { k.next with sreg := Tab.put 0 f.sd.toNat v k.sreg })))
    ∧ (∀ f : DescF, off f.sa f.imm32 % 64 = 0 → off f.sa f.imm32 + 64 ≤ 0x1800000 →
      exec (.tdld c f none) s = .next (s.setCore c { k.next with
        td := Tab.put 0 f.td.toNat (BitVec.ofNat 512 (at' (off f.sa f.imm32) 64)) k.td }))
    ∧ (∀ f : ChainF, off f.sa f.imm32 % 64 = 0 → off f.sa f.imm32 + 128 ≤ 0x1800000 →
      exec (.cdld c f none) s = .next (s.setCore c { k.next with
        cd := Tab.put 0 f.cd.toNat (BitVec.ofNat 1024 (at' (off f.sa f.imm32) 128)) k.cd }))

/-- ST, TDST and CDST inside the core store (R170-R172): the register's or descriptor's bytes, little-endian, at s[sa] + imm32;
every other byte and everything else stands. -/
def Obligations.SequencerStores : Prop :=
  ∀ (c : Nat) (s : State), s.Ready c →
    let k := s.core c
    let u := s.setCore c k.next
    let off (sa : BitVec 5) (i : BitVec 32) : Nat := (k.s sa.toNat + i.signExtend 64).toNat
    (∀ f : ScalF, off f.sa f.imm32 % 8 = 0 → off f.sa f.imm32 + 8 ≤ 0x1800000 →
      ∃ t, exec (.st c f) s = .next t ∧
        Stored u t (storeAddr c (off f.sa f.imm32)) (toBytes 8 (k.s f.sd.toNat).toNat))
    ∧ (∀ f : DescF, off f.sa f.imm32 % 64 = 0 → off f.sa f.imm32 + 64 ≤ 0x1800000 →
      ∃ t, exec (.tdst c f) s = .next t ∧
        Stored u t (storeAddr c (off f.sa f.imm32)) (toBytes 64 (Tab.get 0 f.td.toNat k.td).toNat))
    ∧ (∀ f : ChainF, off f.sa f.imm32 % 64 = 0 → off f.sa f.imm32 + 128 ≤ 0x1800000 →
      ∃ t, exec (.cdst c f) s = .next t ∧
        Stored u t (storeAddr c (off f.sa f.imm32)) (toBytes 128 (Tab.get 0 f.cd.toNat k.cd).toNat))

/-- A misaligned sequencer load or store is a core fault with cause DESC_FORMAT and queue 5; it reads and writes nothing
(R145, R170). -/
def Obligations.SequencerMisaligned : Prop :=
  ∀ (c : Nat) (s : State), s.Ready c → (s.core c).fault = none → (s.core c).run = .running →
    let k := s.core c
    let off (sa : BitVec 5) (i : BitVec 32) : Nat := (k.s sa.toNat + i.signExtend 64).toNat
    let stops (i : Instr) : Prop := ∃ t, exec i s = .next t ∧ Faults s t c 2 5 k.pc 0
    (∀ (f : ScalF) (p : Option Parity), off f.sa f.imm32 % 8 ≠ 0 → stops (.ld c f p) ∧ stops (.st c f))
    ∧ (∀ (f : DescF) (p : Option Parity), off f.sa f.imm32 % 64 ≠ 0 → stops (.tdld c f p) ∧ stops (.tdst c f))
    ∧ (∀ (f : ChainF) (p : Option Parity), off f.sa f.imm32 % 64 ≠ 0 → stops (.cdld c f p) ∧ stops (.cdst c f))

/-- HALT stops the core after it (R150, R168); a word that spells no instruction is a core fault with cause ILLEGAL_INSTR, queue 5
and the instruction's program counter, and enters no queue (R157). -/
def Obligations.SequencerStops : Prop :=
  ∀ (c : Nat) (f : CtrlF) (w : BitVec 128) (s : State), s.Ready c → (s.core c).fault = none → (s.core c).run = .running →
    let k := s.core c
    (∃ t, exec (.halt c f) s = .next t ∧
      Raised (s.setCore c { k.at ((k.pc + 1) % 16384) with stopCause := .halt, run := .stopping }) t)
    ∧ (decodeCore c w = none → ∃ t, exec (.illegalInstr c w none) s = .next t ∧ Faults s t c 1 5 k.pc 0)

/-- SWAIT and QSTAT (R129, R130, R142, R168): a count of 0 completes at once; a wait that may take its count takes it, any other
holds the sequencer until SWAIT_SATISFIED; QSTAT reads CORE_QSTAT into s[sa] and clears it. -/
def Obligations.SequencerWaits : Prop :=
  ∀ (c : Nat) (f : CtrlF) (s : State), s.Ready c →
    let k := s.core c
    let n := f.sem.toNat
    let took (m : Nat) : Core := { k with sem := Tab.put 0 n (BitVec.ofNat 16 (k.semVal n - m)) k.sem }
    (f.count = 0 → exec (.swait c f) s = .next (s.setCore c k.next))
    ∧ (f.count ≠ 0 → k.mayTake k.issueSeq [(n, f.count.toNat)] = true →
        exec (.swait c f) s = .next (s.setCore c (took f.count.toNat).next))
    ∧ (f.count ≠ 0 → k.mayTake k.issueSeq [(n, f.count.toNat)] = false →
        exec (.swait c f) s = .next (s.setCore c { k.next with swait := some ⟨k.issueSeq, n, f.count.toNat⟩ }))
    ∧ (f.cond.toNat ≤ 4 → exec (.qstat c f) s = .next
        ((s.setReg (rCore c (0x80 + 8 * f.cond.toNat)) 0).setCore c (if f.sa = 0 then k.next else
          { k.next with sreg := Tab.put 0 f.sa.toNat (s.reg (rCore c (0x80 + 8 * f.cond.toNat))) k.sreg })))

/-- A sequencer wait in force takes its count when it may, and issue goes on; a held instruction enters its queue when there is
room (R122, R130). -/
def Obligations.WaitSatisfied : Prop :=
  ∀ (c : Nat) (s : State), s.pwrFail = false →
    let k := s.core c
    (∀ w, k.swait = some w → k.mayTake w.seq [(w.sem, w.count)] = true →
      exec (.swaitSatisfied c) s = .next (s.setCore c
        { k with swait := none, sem := Tab.put 0 w.sem (BitVec.ofNat 16 (k.semVal w.sem - w.count)) k.sem }))
    ∧ (∀ q e, k.heldIns = some (q, e) → (k.queue q).length < queueDepth q → k.pc < 16383 →
      exec (.seqResume c) s = .next (s.setCore c { k.setQueue q (k.queue q ++ [e]) with
        heldIns := none, pc := k.pc + 1, issueSeq := k.issueSeq + 1 }))

/-- TDCPY, TDSET and TDADD (R171): the selected field of td takes v, or its own value plus v, modulo 2 to its width; every other
field stands. -/
def Obligations.DescriptorSets : Prop :=
  ∀ (c : Nat) (f : DescF) (s : State), s.Ready c →
    let k := s.core c
    let v := (if f.imm then f.imm32.signExtend 64 else k.s f.sa.toNat).toNat
    let o := TD.ofBits (Tab.get 0 f.td.toNat k.td)
    let gives (i : Instr) (t : TD) : Prop := ∃ w, TD.ofBits w = t ∧
      exec i s = .next (s.setCore c { k.next with td := Tab.put 0 f.td.toNat w k.td })
    exec (.tdcpy c f) s = .next (s.setCore c { k.next with td := Tab.put 0 f.td.toNat (Tab.get 0 f.td2.toNat k.td) k.td })
    ∧ (f.field = 0 → gives (.tdset c f) { o with base := v % 2 ^ 64 } ∧ gives (.tdadd c f) { o with base := (o.base + v) % 2 ^ 64 })
    ∧ (f.field = 1 → gives (.tdset c f) { o with fmt := v % 32, mx := v / 32 % 2 == 1, scaleTd := v / 64 % 64 })
    ∧ (f.field = 2 → gives (.tdset c f) { o with row := v % 2 ^ 24 } ∧ gives (.tdadd c f) { o with row := (o.row + v) % 2 ^ 24 })
    ∧ (f.field = 3 → gives (.tdset c f) { o with col := v % 2 ^ 24 } ∧ gives (.tdadd c f) { o with col := (o.col + v) % 2 ^ 24 })
    ∧ (f.field = 4 → gives (.tdset c f) { o with e0 := v % 2 ^ 32 } ∧ gives (.tdadd c f) { o with e0 := (o.e0 + v) % 2 ^ 32 })
    ∧ (f.field = 5 → gives (.tdset c f) { o with e1 := v % 2 ^ 32 } ∧ gives (.tdadd c f) { o with e1 := (o.e1 + v) % 2 ^ 32 })
    ∧ (f.field = 6 → gives (.tdset c f) { o with e2 := v % 2 ^ 32 } ∧ gives (.tdadd c f) { o with e2 := (o.e2 + v) % 2 ^ 32 })
    ∧ (f.field = 7 → gives (.tdset c f) { o with e3 := v % 2 ^ 32 } ∧ gives (.tdadd c f) { o with e3 := (o.e3 + v) % 2 ^ 32 })
    ∧ (f.field = 8 → gives (.tdset c f) { o with s1 := v % 2 ^ 48 } ∧ gives (.tdadd c f) { o with s1 := (o.s1 + v) % 2 ^ 48 })
    ∧ (f.field = 9 → gives (.tdset c f) { o with s2 := v % 2 ^ 48 } ∧ gives (.tdadd c f) { o with s2 := (o.s2 + v) % 2 ^ 48 })
    ∧ (f.field = 10 → gives (.tdset c f) { o with s3 := v % 2 ^ 48 } ∧ gives (.tdadd c f) { o with s3 := (o.s3 + v) % 2 ^ 48 })

/-- CDCPY, CDSETW, CDLBASE and CDSTREAM (R172): the part of cd that each names takes the low bits of v, and the rest of cd stands. -/
def Obligations.ChainSets : Prop :=
  ∀ (c : Nat) (f : ChainF) (s : State), s.Ready c →
    let k := s.core c
    let v := (if f.imm then f.imm32.signExtend 64 else k.s f.sa.toNat).toNat
    let o := Tab.get 0 f.cd.toNat k.cd
    let gives (i : Instr) (lo len : Nat) : Prop := ∃ w, fld w lo len = v % 2 ^ len
      ∧ (∀ lo' len', lo + len ≤ lo' ∨ lo' + len' ≤ lo → fld w lo' len' = fld o lo' len')
      ∧ exec i s = .next (s.setCore c { k.next with cd := Tab.put 0 f.cd.toNat w k.cd })
    exec (.cdcpy c f) s = .next (s.setCore c { k.next with cd := Tab.put 0 f.cd.toNat (Tab.get 0 f.cd2.toNat k.cd) k.cd })
    ∧ gives (.cdsetw c f) (32 * f.word.toNat) 32
    ∧ gives (.cdlbase c f) 63 13
    ∧ gives (.cdstream c f) 114 4

/-- Vector register instructions (R122, R128, R176, R177, R179): with at most 512 lanes, a rounding mode below 3 and the fmt that
the operation allows, each enters the vector queue with what it names captured; VLD and VST also need a sound descriptor. -/
def Obligations.VectorIssues : Prop :=
  ∀ (c : Nat) (f : VxF) (s : State),
    (f.lanes.toNat ≤ 512 → f.rmode ≠ 3 →
      ((f.fmt.toNat ≤ 4 ∨ f.fmt = 8) →
        ∀ p ∈ ([(.vadd, .vadd), (.vsub, .vsub), (.vmul, .vmul), (.vfma, .vfma), (.vmin, .vmin), (.vmax, .vmax),
            (.vexp2, .vexp2), (.vlog2, .vlog2), (.vrcp, .vrcp), (.vrsqrt, .vrsqrt), (.vtanh, .vtanh), (.verf, .verf),
            (.vsigm, .vsigm), (.vsilu, .vsilu), (.vgelue, .vgelue), (.vgelut, .vgelut), (.vitof, .vitof),
            (.vqnt, .vqnt)] : List ((Nat → VxF → Instr) × VxOp)),
          s.Takes c (.vx p.2 f) → Queues (p.1 c f) s c (.vx p.2 f))
      ∧ (f.fmt = 0 →
        ∀ p ∈ ([(.vcmpeq, .vcmpeq), (.vcmplt, .vcmplt), (.vcmple, .vcmple), (.vsel, .vsel), (.viadd, .viadd),
            (.visub, .visub), (.vimul, .vimul), (.vand, .vand), (.vor, .vor), (.vxor, .vxor), (.vshl, .vshl),
            (.vshr, .vshr), (.vsra, .vsra), (.vmov, .vmov), (.vftoi, .vftoi)] : List ((Nat → VxF → Instr) × VxOp)),
          s.Takes c (.vx p.2 f) → Queues (p.1 c f) s c (.vx p.2 f)))
    ∧ ∀ p ∈ ([(.vld, .vld), (.vst, .vst)] : List ((Nat → VxF → Instr) × VxOp)), s.Takes c (.vx p.2 f) →
        vxIllegal p.2 f (TD.ofBits (Tab.get 0 f.td.toNat (s.core c).td)) = false →
        vxBad p.2 f (s.entryOf c (.vx p.2 f)) = false → Queues (p.1 c f) s c (.vx p.2 f)

/-- Vector tensor, matrix, sync, collective, Roseb, message and DMA instructions (R122, R128, R173, R174, R178, R181 to R185): with
the fields that each class allows and sound descriptors, each enters its queue with what it names captured. -/
def Obligations.QueueIssues : Prop :=
  ∀ (c : Nat) (s : State),
    (∀ (f : VtF), ∀ p ∈ ([(.vrsum, .vrsum), (.vrssq, .vrssq), (.vrmax, .vrmax), (.vrmin, .vrmin), (.vrargmax, .vrargmax),
        (.vrargmin, .vrargmin), (.vsort, .vsort), (.vtopk, .vtopk)] : List ((Nat → VtF → Instr) × VtOp)),
      s.Takes c (.vt p.2 f) → vtIllegal p.2 f (TD.ofBits (Tab.get 0 f.dst.toNat (s.core c).td)) (TD.ofBits (Tab.get 0 f.aux.toNat (s.core c).td)) = false →
      vtBad p.2 f (s.entryOf c (.vt p.2 f)) = false → Queues (p.1 c f) s c (.vt p.2 f))
    ∧ (∀ (f : MxF) (b : Bool) (a : BitVec 2), ∀ p ∈ ([(.mxQuad c f, .quad), (.mxPair c b f, .pair b), (.mxSingle c a f, .single a),
        (.mxT64Single c a f, .t64Single a), (.mxT64Pair c b f, .t64Pair b), (.mxT16Single c a f, .t16Single a),
        (.mxT16Pair c b f, .t16Pair b)] : List (Instr × MxForm)),
      s.Takes c (.mx p.2 f) → mxIllegal p.2 f (s.entryOf c (.mx p.2 f)) = false →
      mxBad (s.ledgerRows c) s.wireFmt p.2 f (s.entryOf c (.mx p.2 f)) = false → Queues p.1 s c (.mx p.2 f))
    ∧ (∀ (f : SyncF), ∀ p ∈ ([(.sig, .sig), (.sign, .sign), (.tmr, .tmr), (.evt, .evt)] : List ((Nat → SyncF → Instr) × SxOp)),
      s.Takes c (.sx p.2 f) → Queues (p.1 c f) s c (.sx p.2 f))
    ∧ (∀ (f : PmarkF), (s.Takes c (.pmark false f) → Queues (.pmark c f) s c (.pmark false f))
      ∧ (s.Takes c (.pmark true f) → Queues (.pmarkr c f) s c (.pmark true f)))
    ∧ (∀ (f : ColF), ∀ p ∈ ([(.allreduce, .allreduce), (.reducescatter, .reducescatter), (.allgather, .allgather),
        (.broadcast, .broadcast), (.reduce, .reduce), (.barrier, .barrier)] : List ((Nat → ColF → Instr) × ColOp)),
      s.Takes c (.col p.2 f) → colIllegal p.2 f = false → s.colBad p.2 f (s.entryOf c (.col p.2 f)) = false → Queues (p.1 c f) s c (.col p.2 f))
    ∧ (∀ (f : RsbF), f.len.toNat ≤ 4096 → f.len.toNat % 8 = 0 →
      ∀ p ∈ ([(.rld, .rld), (.rst, .rst), (.rinv, .rinv)] : List ((Nat → RsbF → Instr) × RsbOp)),
      s.Takes c (.rsb p.2 f) → Queues (p.1 c f) s c (.rsb p.2 f))
    ∧ (∀ (f : RsbF), f.len = 0 → ∀ p ∈ ([(.raAdd, .add), (.raFadd, .fadd), (.raSmin, .smin), (.raSmax, .smax), (.raUmin, .umin),
        (.raUmax, .umax), (.raAnd, .and), (.raOr, .or), (.raXor, .xor), (.raSwap, .swap), (.raCas, .cas)] :
          List ((Nat → RsbF → Instr) × RsbOp)),
      s.Takes c (.rsb p.2 f) → (p.2 = .fadd → f.w = false) → Queues (p.1 c f) s c (.rsb p.2 f))
    ∧ (∀ (f : MsgF), (f.nregs.toNat ≤ 8 → f.first.toNat + f.nregs.toNat ≤ 32 →
        (s.Takes c (.msg .trig f) → Queues (.trig c f) s c (.msg .trig f))
        ∧ (s.Takes c (.msg .mboxout f) → Queues (.mboxout c f) s c (.msg .mboxout f))
        ∧ (f.len.toNat ≤ 4096 → s.Takes c (.msg .msg f) → Queues (.msg c f) s c (.msg .msg f))
        ∧ (s.Takes c (.msg .mboxin f) → Queues (.mboxin c f) s c (.msg .mboxin f))))
    ∧ (∀ (f : DmaTdF), f.pace ≠ 3 → s.Takes c (.dmaTd f) →
      let e := s.entryOf c (.dmaTd f)
      let a := e.td f.src.toNat
      let b := e.td f.dst.toNat
      e.tdBad a = false → e.tdBad b = false → a.fmt = b.fmt → a.mx = b.mx → Queues (.dmaTd c f) s c (.dmaTd f))
    ∧ (∀ (f : DmaListF), s.Takes c (.dmaList f) → Queues (.dmaList c f) s c (.dmaList f))

/-- At issue (R144 to R146, R156, R163, R187): an illegal field is a core fault with cause 1 and queue 5, and a descriptor in error
one with cause 2 and the number of its queue, each with the instruction's program counter; nothing enters a queue. -/
def Obligations.IssueRefused : Prop :=
  ∀ (c : Nat) (s : State), s.Ready c → (s.core c).fault = none → (s.core c).run = .running →
    let k := s.core c
    (∀ (f : VxF), f.rmode = 3 ∨ 512 < f.lanes.toNat → ∃ t, exec (.vadd c f) s = .next t ∧ Faults s t c 1 5 k.pc 0)
    ∧ (∀ (f : VxF), vxIllegal .vld f (TD.ofBits (Tab.get 0 f.td.toNat k.td)) = false →
        vxBad .vld f (s.entryOf c (.vx .vld f)) = true → ∃ t, exec (.vld c f) s = .next t ∧ Faults s t c 2 2 k.pc 0)
    ∧ (∀ (f : MxF), 256 < f.m.toNat → ∃ t, exec (.mxQuad c f) s = .next t ∧ Faults s t c 1 5 k.pc 0)
    ∧ (∀ (f : MxF), mxIllegal .quad f (s.entryOf c (.mx .quad f)) = false →
        mxBad (s.ledgerRows c) s.wireFmt .quad f (s.entryOf c (.mx .quad f)) = true →
        ∃ t, exec (.mxQuad c f) s = .next t ∧ Faults s t c 2 1 k.pc 0)
    ∧ (∀ (f : ColF), f.oper ≠ 0 → ∃ t, exec (.allgather c f) s = .next t ∧ Faults s t c 1 5 k.pc 0)
    ∧ (∀ (f : RsbF), 4096 < f.len.toNat ∨ f.len.toNat % 8 ≠ 0 → ∃ t, exec (.rld c f) s = .next t ∧ Faults s t c 1 5 k.pc 0)
    ∧ (∀ (f : RsbF), f.len ≠ 0 → ∃ t, exec (.raAdd c f) s = .next t ∧ Faults s t c 1 5 k.pc 0)
    ∧ (∀ (f : MsgF), 8 < f.nregs.toNat ∨ 32 < f.first.toNat + f.nregs.toNat →
        ∀ i ∈ ([.trig c f, .mboxout c f, .msg c f, .mboxin c f] : List Instr), ∃ t, exec i s = .next t ∧ Faults s t c 1 5 k.pc 0)
    ∧ (∀ (f : DmaTdF), f.pace = 3 → ∃ t, exec (.dmaTd c f) s = .next t ∧ Faults s t c 1 5 k.pc 0)
    ∧ (∀ (f : DescF), 11 ≤ f.field.toNat → ∃ t, exec (.tdset c f) s = .next t ∧ Faults s t c 1 5 k.pc 0)
    ∧ (∀ (f : CtrlF), 6 ≤ f.cond.toNat → ∃ t, exec (.br c f) s = .next t ∧ Faults s t c 1 5 k.pc 0)
    ∧ (∀ (f : CtrlF), 4 < f.cond.toNat → ∃ t, exec (.qstat c f) s = .next t ∧ Faults s t c 1 5 k.pc 0)

/-- A vector register instruction that is no load or store starts (R128, R129, R135, R176, R177, R179): lanes 0 to lanes − 1 of vd take
the operation's results of the lanes of va, vb (or, with bc, of the low half of s[vb] as it was at issue) and vc, in the rounding
that the entry captured; every other lane and every other field stands, and the entry's work is done with the flags of its lanes. The
lanes of the integer and logical operations are the 32-bit results. -/
def Obligations.VectorResults : Prop :=
  (∀ (c : Nat) (e : QEntry) (rest : List QEntry) (op : VxOp) (f : VxF) (s : State),
    s.Starts c e rest → e.ins = .vx op f → op ≠ .vld → op ≠ .vst → f.lanes.toNat ≤ 512 →
    let k := s.core c
    let b (j : Nat) : BitVec 32 := if f.bc then (e.s f.vb.toNat).truncate 32 else k.lane f.vb.toNat j
    let a (j : Nat) : BitVec 32 := if op = .vmov ∧ f.bc = true then b j else k.lane f.va.toNat j
    let row := (e.s f.rowReg.toNat).toNat
    let col := (e.s f.colReg.toNat).toNat
    let res (j : Nat) := vxLane op f.fmt.toNat ((vxRnd e f).at 0 row (col + j)) f.sat (a j) (b j) (k.lane f.vc.toNat j)
    ∃ (v : Tab (BitVec 32)) (fl : NumFlags),
      exec (.queueInstrStart c .vx none) s = .next (s.setCore c { k.ended e rest 0 fl with vreg := v })
      ∧ (∀ r j, j < 512 → ({ k with vreg := v } : Core).lane r j
          = if r = f.vd.toNat ∧ j < f.lanes.toNat then (res j).1 else k.lane r j)
      ∧ fl = ((List.range f.lanes.toNat).map res).foldl (fun x y => x.or y.2) .none)
  ∧ ∀ (m : Nat) (rm : RMode) (sat : Bool) (a b x : BitVec 32),
      let gives (op : VxOp) (w : BitVec 32) : Prop := vxLane op m rm sat a b x = (w, .none)
      gives .viadd (a + b) ∧ gives .visub (a - b) ∧ gives .vimul (a * b) ∧ gives .vand (a &&& b) ∧ gives .vor (a ||| b)
      ∧ gives .vxor (a ^^^ b) ∧ gives .vshl (a <<< (b.toNat % 32)) ∧ gives .vshr (a >>> (b.toNat % 32))
      ∧ gives .vsra (a.sshiftRight (b.toNat % 32)) ∧ gives .vmov a ∧ gives .vsel (if x = 0 then b else a)

/-- SX instructions start (R133, R139, R140, R181, R182): SIG does nothing but its signal set at completion; SIGN adds inc to its
semaphore; TMR writes CORE_TMR of timer tmr with s[sa]; EVT pulses source 8c + 7; PMARK and PMARKR
deliver a mark held long enough and hold their own, with the HCLK count. Each is done with status OK. -/
def Obligations.SyncResults : Prop :=
  ∀ (c : Nat) (e : QEntry) (rest : List QEntry) (f : SyncF) (g : PmarkF) (s : State), s.Starts c e rest →
    let k := s.core c
    let d := k.ended e rest 0 .none
    let go := exec (.queueInstrStart c .sx none) s
    let v := e.s f.sa.toNat
    (e.ins = .sx .sig f → go = .next (s.setCore c d))
    ∧ (e.ins = .sx .sign f → d.semVal f.sem.toNat + f.inc.toNat ≤ 65535 →
        go = .next (s.setCore c (if f.inc = 0 then d else d.setSem f.sem.toNat (d.semVal f.sem.toNat + f.inc.toNat))))
    ∧ (e.ins = .sx .tmr f → ∃ t, go = .next t ∧ { t with regs := s.regs } = s.setCore c d
        ∧ (∀ o, o ≠ rCore c (0x100 + 8 * f.tmr.toNat) → o ≠ rCore c (0x120 + 8 * f.tmr.toNat) → t.reg o = s.reg o)
        ∧ t.rf (rCore c (0x100 + 8 * f.tmr.toNat)) 0 32 = fld v 0 32
        ∧ t.rf (rCore c (0x100 + 8 * f.tmr.toNat)) 48 6 = fld v 48 6
        ∧ t.rf (rCore c (0x100 + 8 * f.tmr.toNat)) 61 3 = fld v 61 3
        ∧ t.rf (rCore c (0x120 + 8 * f.tmr.toNat)) 0 32
            = if bit v 63 then fld v 0 32 else s.rf (rCore c (0x120 + 8 * f.tmr.toNat)) 0 32)
    ∧ (e.ins = .sx .evt f → go = .next (((s.setCore c (k.begun e rest)).pulse (8 * c + 7)).setCore c d))
    ∧ (e.ins = .pmark false g → go = .next (s.setCore c { d.markDue s.hclk with markHeld := some (g.phase, s.hclk) }))
    ∧ (e.ins = .pmark true g → go = .next (s.setCore c { d.markDue s.hclk with markHeld := some ((e.s g.sa.toNat).truncate 8, s.hclk) }))

/-- VLD and VST (R128, R129, R135, R161, R176, R177). VLD: lane j of vd takes element (row + s[row_reg], col + s[col_reg] + j) of td, the
bits of an INT32 or UINT32 element as they are, any other widened to binary32, exactly but for long and MX elements; the other lanes stand (stated where the elements
lie in the core's own store). VST: lanes 0 to lanes − 1 of va go to those elements, as they are for INT32 and UINT32, else
encoded in the format of a plain td, and no core register changes. -/
def Obligations.VectorMemory : Prop :=
  ∀ (c : Nat) (e : QEntry) (rest : List QEntry) (f : VxF) (s : State), s.Starts c e rest → f.lanes.toNat ≤ 512 →
    let k := s.core c
    let t := e.td f.td.toNat
    let r := t.row + (e.s f.rowReg.toNat).toNat
    let col := t.col + (e.s f.colReg.toNat).toNat
    let whole : Prop := t.format = .int32 ∨ t.format = .uint32
    let mode (j : Nat) := (vxRnd e f).at 0 r (col + j)
    (e.ins = .vx .vld f →
      (∀ j, j < f.lanes.toNat → (s.elemAt c t r (col + j)).2 = [] ∧ (s.elemVal c t (e.scaleOf t) false r (col + j)).2 = []) →
      ∃ (v : Tab (BitVec 32)) (fl : NumFlags),
        exec (.queueInstrStart c .vx none) s = .next (s.setCore c { k.ended e rest 0 fl with vreg := v })
        ∧ ∀ n j, j < 512 → ({ k with vreg := v } : Core).lane n j
            = if n = f.vd.toNat ∧ j < f.lanes.toNat then
                BitVec.ofNat 32 (if whole then (s.elemAt c t r (col + j)).1
                  else if t.mx = true ∨ t.format = .long then (encodeElem .fp32 (mode j) f.sat (s.elemVal c t (e.scaleOf t) false r (col + j)).1).1
                  else (encodeElem .fp32 .rne false (s.elemVal c t (e.scaleOf t) false r (col + j)).1).1)
              else k.lane n j)
    ∧ (e.ins = .vx .vst f → t.mx = false →
      ∃ fl, exec (.queueInstrStart c .vx none) s = .next
        (((s.setCore c (k.begun e rest)).putRow c t r col ((List.range f.lanes.toNat).map fun j =>
            if whole then (k.lane f.va.toNat j).toNat
            else (encodeElem t.format (mode j) f.sat (decodeElem .fp32 false (k.lane f.va.toNat j).toNat)).1)).setCore c
          (k.ended e rest 0 fl)))

/-- INSTR_COMPLETE (R131 to R133, R141 to R143): a finished instruction leaves the started ones, its numeric flags join CORE_QSTAT of its
queue and CORE_NUMFLAGS, a status that counts adds one to the saturating count of CORE_QSTAT, which keeps the code and the program
counter of the first, and the semaphores of its signal set rise by its increments. Nothing else changes. (Stated where no semaphore
saturates.) -/
def Obligations.InstrCompletes : Prop :=
  ∀ (c : Nat) (r : Started) (s : State),
    let k := s.core c
    let q := r.entry.ins.queue
    let y := r.entry.ins.sync
    let qs := rCore c (0x80 + 8 * queueNum q)
    let nf := rCore c 0x20
    let counts : Prop := r.code ≠ 0 ∧ r.code ≠ 1
    k.started.find? (fun x => x.entry.seq == r.entry.seq) = some r → r.finished = true →
    (∀ x ∈ k.started, (q = .vx ∨ q = .sx) → x.entry.ins.queue = q → r.entry.seq ≤ x.entry.seq) →
    (∀ n, k.semVal n + y.s0inc.toNat + y.s1inc.toNat ≤ 65535) →
    ∃ (t : State) (u : Core), exec (.instrComplete c r.entry.seq) s = .next t
      ∧ { t with regs := s.regs } = s.setCore c u
      ∧ { u with sem := k.sem } = { k with started := k.started.filter fun x => x.entry.seq != r.entry.seq }
      ∧ (∀ n, u.semVal n = k.semVal n + (if n = y.s0sem.toNat then y.s0inc.toNat else 0)
          + (if n = y.s1sem.toNat then y.s1inc.toNat else 0))
      ∧ (∀ o, o ≠ qs → o ≠ nf → t.reg o = s.reg o)
      ∧ t.rf nf 0 4 = s.rf nf 0 4 ||| r.flags.toNat
      ∧ t.rf qs 32 4 = s.rf qs 32 4 ||| r.flags.toNat
      ∧ t.rf qs 0 32 = (if counts then min (s.rf qs 0 32 + 1) (2 ^ 32 - 1) else s.rf qs 0 32)
      ∧ t.rf qs 56 8 = (if counts ∧ s.rf qs 0 32 = 0 then r.code % 256 else s.rf qs 56 8)
      ∧ t.rf qs 36 14 = (if counts ∧ s.rf qs 0 32 = 0 then r.entry.pc % 2 ^ 14 else s.rf qs 36 14)

/-- CORE_FAULTED (R144, R146): when no started instruction is left, CORE_FAULT takes the cause, the queue, the program counter and the
detail of the first fault, and the core is FAULTED; the fault joins the journal's backlog as kind 0x10 with CORE_FAULT as its
detail (R454). Nothing else changes but what the level events show. -/
def Obligations.CoreFaults : Prop :=
  ∀ (c : Nat) (r : FaultRec) (s : State), (s.core c).fault = some r → (s.core c).run = .stopping → (s.core c).anyBusy = false →
    r.cause < 256 → r.queue < 8 → r.pc < 2 ^ 14 → r.detail < 2 ^ 32 → c < 64 →
    ∃ t u, exec (.coreFaulted c) s = .next t
      ∧ Raised ((s.setReg (rCore c 0x18) u).setCore c { s.core c with fault := none, run := .faulted }) { t with backlog := s.backlog }
      ∧ fld u 56 8 = r.cause ∧ fld u 48 3 = r.queue ∧ fld u 32 14 = r.pc ∧ fld u 0 32 = r.detail
      ∧ t.backlog = s.backlog ++ [⟨0, s.rf (rBoot 0x10) 0 32, s.time, c, 2, 1, 0x10, toBytes 8 u.toNat⟩]

/-- The oldest MX instruction takes its counts once (R73, R129, R130); one that stages weights and holds its counts begins to stage
(R76); when staging is done, the shadow registers of its arrays hold its K × N tile, array by 256 columns, and zero beyond it, and
those of the other arrays stand (R76). (The last where the tile lies inside the core store.) -/
def Obligations.MatrixStages : Prop :=
  ∀ (c : Nat) (e : QEntry) (rest : List QEntry) (form : MxForm) (f : MxF) (s : State),
    (s.core c).qMx = e :: rest → e.ins = .mx form f →
    let k := s.core c
    (k.mxCounts = false → k.mayTake e.seq (waitSet f.sync) = true →
      exec (.mxTakeCounts c) s = .next (s.setCore c { k.take (waitSet f.sync) with mxCounts := true }))
    ∧ (k.mxCounts = true → mxStages form f = true → k.staging = none → k.staged ≠ some e.seq →
      exec (.weightStagingStart c) s = .next (s.setCore c { k with staging := some e.seq }))
    ∧ (k.staging = some e.seq → f.k.toNat ≤ 512 → f.n.toNat ≤ 256 * form.arrays.length → form.arrays.Nodup →
      (∀ i j, i < f.k.toNat → j < f.n.toNat → (s.weight c e f i j).2 = []) →
      ∃ w, exec (.weightStagingDone c none) s = .next (s.setCore c { k with wShadow := w, staging := none, staged := some e.seq })
        ∧ (∀ a i j, a < form.arrays.length → i < 512 → j < 256 →
            Tab.get .zero (nth 0 form.arrays a * 131072 + i * 256 + j) w
              = if i < f.k.toNat ∧ 256 * a + j < f.n.toNat then (s.weight c e f i (256 * a + j)).1 else .zero)
        ∧ (∀ b i j, b ∉ form.arrays → i < 512 → j < 256 →
            Tab.get .zero (b * 131072 + i * 256 + j) w = Tab.get .zero (b * 131072 + i * 256 + j) k.wShadow))

/-- MX_START (R72 to R74, R76, R77): an instruction that holds its counts, whose arrays are free and whose weights are staged leaves its
queue and runs, while no drain waits for a buffer (R27) and issue is not gated (R375, R383); the vectors of its chain are read now, once
(R103). A fence (M or N 0) does nothing more. Any other makes its staged weights active (the shadow registers of its
arrays, array by array; a Tourbillon form clears them), leaves those of the other arrays, and its rows then go as ACC_ROW_READY
says. -/
def Obligations.MatrixStarts : Prop :=
  ∀ (c : Nat) (e : QEntry) (rest : List QEntry) (form : MxForm) (f : MxF) (s : State),
    s.pwrFail = false → s.drainWaits c = false → s.mxGated c = false → (s.core c).qMx = e :: rest → e.ins = .mx form f → (s.core c).mxCounts = true →
    (s.core c).arraysFree form f = true → (mxStages form f = true → (s.core c).staged = some e.seq) →
    (∀ r ∈ (s.core c).mxRuns, r.entry.seq ≠ e.seq) →
    let k := s.core c
    let b := s.operandBufs c e f
    let runs := k.mxRuns ++ [(⟨e, 0, 0, [], 0, 0, .none, b.1⟩ : MxRun)]
    (f.m = 0 ∨ f.n = 0 → exec (.mxStart c none) s = .next (s.setCore c { k with qMx := rest, mxCounts := false, mxRuns := runs }))
    ∧ (f.m ≠ 0 → f.n ≠ 0 → ∃ w : Tab XV,
        exec (.mxStart c none) s = exec (.accRowReady c e.seq none) ((s.setCore c { k with
          qMx := rest, mxCounts := false, mxRuns := runs, wAct := w,
          staged := if mxStages form f then none else k.staged }).coreViol c b.2)
        ∧ (∀ a i, i < 131072 → a ∈ form.arrays → Tab.get .zero (a * 131072 + i) w
            = if form.isTour then .zero else if mxStages form f then Tab.get .zero (a * 131072 + i) k.wShadow
              else Tab.get .zero (a * 131072 + i) k.wAct)
        ∧ (∀ a i, i < 131072 → a ∉ form.arrays → Tab.get .zero (a * 131072 + i) w = Tab.get .zero (a * 131072 + i) k.wAct))

/-- ACC_ROW_READY (R53 to R55, R79, R80): the last row m of a run, once the rows it waits for are done, gives accumulator entry
(m, n) the long-form sum of its products from its init, group of 32 by group of 32, and its other entries stand; the run has
then accumulated all its rows. (Where the row's operands lie inside the core store.) -/
def Obligations.MatrixRows : Prop :=
  ∀ (c : Nat) (r : MxRun) (form : MxForm) (f : MxF) (s : State),
    let k := s.core c
    let e := r.entry
    let m := r.acc
    let init := s.initRow c e form f m
    let act := s.actRow c e f r.bufs m
    let w (kk n : Nat) : XV := if form.isTour then (s.weight c e f kk n).1
      else Tab.get .zero (nth 0 form.arrays (n / 256) * 131072 + kk * 256 + n % 256) k.wAct
    let key (n : Nat) := accKey (form.place f.n.toNat f.rbase.toNat m n)
    let sum (n : Nat) := dot act.1 (fun kk => w kk n) (nth .zero init.1 n)
    k.runOf e.seq = some r → e.ins = .mx form f → f.n ≠ 0 → m + 1 = f.m.toNat → k.rowReady e form f m = true →
    (accRowKeys form f m).Nodup → init.1.length = f.n.toNat → init.2.2 = [] → act.2.2 = [] →
    (form.isTour = true → ∀ i j, i < f.k.toNat → j < f.n.toNat → (s.weight c e f i j).2 = []) →
    ∃ u, exec (.accRowReady c e.seq none) s = .next (s.setCore c u)
      ∧ { u with acc := k.acc, stat := k.stat, mxRuns := k.mxRuns } = k
      ∧ (∀ n, n < f.n.toNat → Tab.get 0 (key n) u.acc = (sum n).1.packLong)
      ∧ (∀ x, (∀ n, n < f.n.toNat → x ≠ key n) → Tab.get 0 x u.acc = Tab.get 0 x k.acc)
      ∧ (∃ fl, u.runOf e.seq = some { r with acc := f.m.toNat, flags := fl })

/-- EPILOGUE_ROW (R27, R56 to R58, R64, R79, R104, R105): where the chain is its terminal stage alone, without a per-row scale, in
single-round mode and into a plain format, the next accumulated row m of a finish instruction, none of whose rows waits for a buffer, is
encoded from its accumulator entries, element by element in the chain's rounding, and written through the output descriptor (or, for a
drain, waits to be handed to the collective engine, behind the rows of the core that were finished before it, R26); the run has then
emitted one row more. -/
def Obligations.MatrixStores : Prop :=
  ∀ (c : Nat) (r : MxRun) (form : MxForm) (f : MxF) (s : State),
    let k := s.core c
    let e := r.entry
    let m := r.emitted
    let d := e.chain f
    let o := chainOrigin e d
    let fmt := (Fmt.ofCode d.outFmt).getD .fp32
    let q (n : Nat) := encodeElem fmt ((chainRnd e d).at 0 (o.1 + m) (o.2 + n)) (chainRnd e d).sat
      (k.accVal (accKey (form.place f.n.toNat f.rbase.toNat m n)))
    let raws := (List.range f.n.toNat).map fun n => (q n).1
    let fl := ((List.range f.n.toNat).map q).foldl (fun a p => a.or p.2) NumFlags.none
    k.runOf e.seq = some r → e.ins = .mx form f → f.m ≠ 0 → f.n ≠ 0 → mxFinish f = true → m < r.acc → r.waiting = [] →
    k.epiBlocked e f m = false → d.nstages = 1 → d.prs = 0 → e.exact d = false → d.outMx = false → (e.td d.outTd).mx = false →
    exec (.epilogueRow c e.seq none) s = .next
      (if stageType (d.stage 0) = 15 then
        s.modCore c fun k => { k.modRun e.seq (fun x => { x with
          emitted := x.emitted + 1, flags := x.flags.or fl, waiting := if r.code = 0 then [raws] else [] }) with
          drainQ := if r.code = 0 then k.drainQ ++ [e.seq] else k.drainQ }
       else
        (s.putRow c (e.td d.outTd) (o.1 + m) o.2 raws).modCore c fun k => k.modRun e.seq fun x =>
          { x with emitted := x.emitted + 1, flags := x.flags.or fl, waiting := [] })

/-- MX_COMPLETE (R74, R87, R132, R142, R143): a run that has accumulated its rows (a finish instruction: emitted them and handed over
those of a drain; a fence: whose earlier instructions have all completed) leaves the matrix unit, its status and flags are
recorded for queue 1, and the semaphores of its signal set rise. Nothing else changes. (Stated where no semaphore saturates.) -/
def Obligations.MatrixCompletes : Prop :=
  ∀ (c : Nat) (r : MxRun) (form : MxForm) (f : MxF) (s : State),
    let k := s.core c
    let y := f.sync
    let qs := rCore c 0x88
    let nf := rCore c 0x20
    let counts : Prop := r.code ≠ 0 ∧ r.code ≠ 1
    k.runOf r.entry.seq = some r → r.entry.ins = .mx form f →
    (if f.m = 0 ∨ f.n = 0 then ∀ x ∈ k.mxRuns, r.entry.seq ≤ x.entry.seq
      else if mxFinish f then r.emitted = f.m.toNat ∧ r.waiting = [] else r.acc = f.m.toNat) →
    (∀ n, k.semVal n + y.s0inc.toNat + y.s1inc.toNat ≤ 65535) →
    ∃ (t : State) (u : Core), exec (.mxComplete c r.entry.seq) s = .next t
      ∧ { t with regs := s.regs } = s.setCore c u
      ∧ { u with sem := k.sem } = { k with mxRuns := k.mxRuns.filter fun x => x.entry.seq ≠ r.entry.seq }
      ∧ (∀ n, u.semVal n = k.semVal n + (if n = y.s0sem.toNat then y.s0inc.toNat else 0)
          + (if n = y.s1sem.toNat then y.s1inc.toNat else 0))
      ∧ (∀ o, o ≠ qs → o ≠ nf → t.reg o = s.reg o)
      ∧ t.rf nf 0 4 = s.rf nf 0 4 ||| r.flags.toNat
      ∧ t.rf qs 32 4 = s.rf qs 32 4 ||| r.flags.toNat
      ∧ t.rf qs 0 32 = (if counts then min (s.rf qs 0 32 + 1) (2 ^ 32 - 1) else s.rf qs 0 32)
      ∧ t.rf qs 56 8 = (if counts ∧ s.rf qs 0 32 = 0 then r.code % 256 else s.rf qs 56 8)
      ∧ t.rf qs 36 14 = (if counts ∧ s.rf qs 0 32 = 0 then r.entry.pc % 2 ^ 14 else s.rf qs 36 14)

/-- Elements of a tile (R47, R160, R161). Where element (r, c) lies within the extents and its cell in the core's own store, a write
of it is read back, changes no other element of its row and no byte outside its cell; where it does not, it reads zero, the write
is dropped, and the address is a violation. -/
def Obligations.TileElements : Prop :=
  ∀ (s : State) (core : Nat) (t : TD) (r c raw : Nat),
    let a := t.addr r c 0 0
    let n := cellBytes t.format
    let into : Prop := t.within r c 0 0 = true ∧ ownStore core a n = true
    let u := s.putElem core t r c raw
    (into → (∀ i, i < n → s.live (a + i) = true) →
      u.elemAt core t r c = (raw % 2 ^ t.format.width, [])
      ∧ (∀ c', c' ≠ c → colBytes t.format c' = colBytes t.format c → u.elemAt core t r c' = s.elemAt core t r c')
      ∧ (∀ x, ¬ (a ≤ x ∧ x < a + n) → u.byte x = s.byte x) ∧ { u with mem := s.mem } = s)
    ∧ (¬ into → s.elemAt core t r c = (0, [a]) ∧ u = s.coreViol core [a])

/-- The commands of CORE_CTRL and what ends them (R140, R148 to R151), at a mounted core of a live die. start from STOPPED with no load
in progress and outside Midnight takes the program counter from CORE_START_PC and runs; otherwise it is rejected. stop lets what
has issued finish; abort and reset discard what has not started, reset a held ledger write too. When all is done a stopped core's next index goes to CORE_START_PC
after stop and halt. Nothing else changes but what the level events show. -/
def Obligations.CoreCommands : Prop :=
  ∀ (c : Nat) (s : State), c < 64 → s.hasCore c = true → hasNat s.deadDies (c / 16) = false →
    let k := s.core c
    let goes (i : Instr) (k' : Core) (s' : State) : Prop := ∃ t, exec i s = .next t ∧ Raised (s'.setCore c k') t
    (k.run = .stopped → k.load = none → s.rf (rPwr 0x18) 30 2 ≠ 3 →
      goes (.start c) { k with pc := s.rf (rCore c 0x10) 0 14, stopCause := .none, run := .running } s)
    ∧ (k.run ≠ .stopped ∨ k.load ≠ none ∨ s.rf (rPwr 0x18) 30 2 = 3 → exec (.start c) s = .next (s.setRbit (rCore c 8) 25 true))
    ∧ (k.run = .running → goes (.stop c) { k with stopCause := .stop, run := .stopping } s)
    ∧ (k.run = .running ∨ k.run = .stopping →
      goes (.abort c) { k.discard with stopCause := if k.fault = none then .abort else k.stopCause, run := .stopping } s)
    ∧ (k.run ≠ .resetting → goes (.reset c) { k.discard with fault := none, ledgerHeld := none, run := .resetting } s)
    ∧ (k.run = .stopping → k.fault = none → k.anyBusy = false → k.heldIns = none → k.swait = none →
      goes (.coreStopped c) { k with phase := 0, markHeld := none, run := .stopped }
        (if k.stopCause = .halt ∨ k.stopCause = .stop then s.setReg (rCore c 0x10) (BitVec.ofNat 64 k.pc) else s))

/-- CORE_RESET_DONE (R127, R151, R246, R416): when nothing started is left and no load is in progress, the core is STOPPED with every
register, descriptor, semaphore, vector register and accumulator at reset, its program memory as it was; its registers are at
reset but CORE_START_PC, CORE_PROG_SRC and CORE_VIOL_THR; its four channels lose their source and credit. Every other core,
channel and register stands but for what the level events show. -/
def Obligations.CoreResetDone : Prop :=
  ∀ (c : Nat) (s : State), c < 64 → (s.core c).run = .resetting → (s.core c).anyBusy = false → (s.core c).load = none →
    ∃ t, exec (.coreResetDone c) s = .next t
      ∧ t.core c = { Core.reset with prog := (s.core c).prog, badProg := (s.core c).badProg, issueSeq := (s.core c).issueSeq }
      ∧ (∀ d, d ≠ c → t.core d = s.core d)
      ∧ (∀ o, o < 0x10D0 → t.reg (rCore c o) = if o = 0x10 ∨ o = 0x38 ∨ o = 0x40 then s.reg (rCore c o)
          else 0)
      ∧ (∀ o, ¬ (rCore c 0 ≤ o ∧ o < rCore c 0x10D0) → (∀ n, n < 4 → o ≠ chStat (4 * c + n)) → ¬ eventReg o → t.reg o = s.reg o)
      ∧ (∀ n, n < 4 → t.chState (4 * c + n) = if s.chState (4 * c + n) = 2 then 0 else s.chState (4 * c + n))
      ∧ (∀ n, n < 4 → t.chan (4 * c + n) = { s.chan (4 * c + n) with src := none, credit := false })
      ∧ (∀ ch, ¬ (4 * c ≤ ch ∧ ch < 4 * c + 4) → t.chan ch = s.chan ch)
      ∧ { t with regs := s.regs, cores := s.cores, dma := s.dma, out := s.out } = s

/-- Program loading (R126). go with a length, a range of program words and an aligned source is accepted at a core that is STOPPED or
FAULTED with none in progress, else it is rejected or ends at once with its status; when it is done from sources that hold, program words dest to
dest + length − 1 are the little-endian 16-byte words of the source and every other word stands. The end of a load pulses source
8c + 2. -/
def Obligations.ProgramLoads : Prop :=
  ∀ (c : Nat) (v : W64) (s : State), c < 64 → s.hasCore c = true → hasNat s.deadDies (c / 16) = false →
    let k := s.core c
    let src := (s.reg (rCore c 0x40)).toNat
    let len := fld v 16 15
    let dest := fld v 0 14
    let pl := rCore c 0x48
    let takes (u : W64) (k' : Core) (r : List (Nat × Nat)) : State := ({ s with rechecks := r }.setReg pl u).setCore c k'
    let ends (i : Instr) (status : Nat) (k' : Core) (r : List (Nat × Nat)) : Prop := ∃ t, exec i s = .next t ∧ (∃ u, t = (takes u k' r).pulse (8 * c + 2))
      ∧ t.rf pl 32 4 = status ∧ t.rbit pl 61 = true ∧ t.rbit pl 62 = false
    (k.load = none → (k.run = .stopped ∨ k.run = .faulted) → 0 < len → dest + len ≤ 16384 → src < 2 ^ 43 → src % 64 = 0 →
      ∃ u, exec (.progLoadGo c v) s = .next (takes u { k with load := some ⟨src, len, dest⟩ } s.rechecks) ∧ bit u 62 = true)
    ∧ (k.load = none → k.run ≠ .stopped → k.run ≠ .faulted → ends (.progLoadGo c v) 2 { k with load := none } s.rechecks)
    ∧ (k.load = none → (k.run = .stopped ∨ k.run = .faulted) → len = 0 → ends (.progLoadGo c v) 1 { k with load := none } s.rechecks)
    ∧ (k.load = none → (k.run = .stopped ∨ k.run = .faulted) → 0 < len → 16384 < dest + len ∨ 2 ^ 43 ≤ src →
        ends (.progLoadGo c v) 3 { k with load := none } s.rechecks)
    ∧ (k.load = none → (k.run = .stopped ∨ k.run = .faulted) → 0 < len → dest + len ≤ 16384 → src < 2 ^ 43 → src % 64 ≠ 0 →
        ends (.progLoadGo c v) 4 { k with load := none } s.rechecks)
    ∧ (k.load ≠ none → ∃ u, exec (.progLoadGo c v) s = .next ((s.setReg pl u).setRbit (rCore c 8) 25 true))
    ∧ ∀ l : Load, k.load = some l → (∀ b, l.src / 4096 ≤ b → 4096 * b < l.src + 16 * l.length → s.populated (4096 * b) = true
          ∧ ∀ st o, region (4096 * b) = .hbm st o → s.poisoned (4096 * b) = false ∧ (l.src ≤ 4096 * b → 4096 * b + 4096 ≤ l.src + 16 * l.length →
            s.chkOf b = 0 ∨ (s.chkOf b = sealOf (s.read (4096 * b) 4096) ∧ (288 + c, b) ∉ s.rechecks))) →
        ∃ p b, ends (.progLoadDone c none) 0 { k with load := none, prog := p, badProg := b } (s.rechecks.filter fun p => p.1 != 288 + c)
          ∧ (∀ i, i < l.length → Tab.get 0 (l.dest + i) p = BitVec.ofNat 128 (s.readN (l.src + 16 * i) 16) ∧ l.dest + i ∉ b)
          ∧ (∀ i, ¬ (l.dest ≤ i ∧ i < l.dest + l.length) → Tab.get 0 i p = Tab.get 0 i k.prog ∧ (i ∈ b ↔ i ∈ k.badProg))

/-- Registers of a core that act when written or read (R108, R131, R139, R147), at a mounted core of a live die. CORE_SEM_SIG adds to a
semaphore; CORE_TMRn written enabled loads its count; a timer that expires reloads, or stops; CORE_LEDGER_CFG takes its fields
when no MX instruction waits or runs, dropping a write still held, and is held otherwise; the held write applies once none does; a read of CORE_VIOL_CNT returns the
count and clears it with the captured address. -/
def Obligations.CoreRegisters : Prop :=
  ∀ (c n : Nat) (v : W64) (w : BitVec 32) (s : State), c < 64 → n < 4 → s.hasCore c = true → hasNat s.deadDies (c / 16) = false →
    let k := s.core c
    let tmr := rCore c (0x100 + 8 * n)
    let cnt := rCore c (0x120 + 8 * n)
    let led := rCore c 0x200
    let takes (t : State) : Prop := { t with regs := s.regs } = s ∧ (∀ o, o ≠ led → t.reg o = s.reg o)
      ∧ t.rbit led 31 = bit w 31 ∧ t.rf led 24 7 = fld w 24 7 ∧ t.rf led 0 13 = fld w 0 13
    (fld v 0 16 = 0 → exec (.coreSemSig c v) s = .next s)
    ∧ (fld v 0 16 ≠ 0 → k.semVal (fld v 16 6) + fld v 0 16 ≤ 65535 →
        exec (.coreSemSig c v) s = .next (s.setCore c (k.setSem (fld v 16 6) (k.semVal (fld v 16 6) + fld v 0 16))))
    ∧ (∃ t, exec (.timerWrite c n v) s = .next t ∧ { t with regs := s.regs } = s
        ∧ (∀ o, o ≠ tmr → o ≠ cnt → t.reg o = s.reg o)
        ∧ t.rf tmr 0 32 = fld v 0 32 ∧ t.rf tmr 48 6 = fld v 48 6 ∧ t.rf tmr 61 3 = fld v 61 3
        ∧ t.rf cnt 0 32 = if bit v 63 then fld v 0 32 else s.rf cnt 0 32)
    ∧ (s.rbit tmr 63 = true → s.rbit tmr 61 = false → ∃ t, exec (.timerExpiry c n) s = .next t
        ∧ { t with regs := s.regs } = s.paceCredit (2 * (4 * c + n))
        ∧ (∀ o, o ≠ tmr → o ≠ cnt → t.reg o = s.reg o)
        ∧ t.rbit tmr 63 = (s.rbit tmr 62 && s.rf tmr 0 32 != 0)
        ∧ t.rf cnt 0 32 = if s.rbit tmr 62 then s.rf tmr 0 32 else 0)
    ∧ (k.qMx = [] → k.mxRuns = [] → ∃ t u, exec (.ledgerCfgWrite c w) s = .next (t.setCore c u)
        ∧ takes t ∧ u = { k with ledgerHeld := none })
    ∧ (k.qMx ≠ [] ∨ k.mxRuns ≠ [] → exec (.ledgerCfgWrite c w) s = .next (s.setCore c { k with ledgerHeld := some w }))
    ∧ (k.ledgerHeld = some w → k.qMx = [] → k.mxRuns = [] → ∃ t u, exec (.ledgerCfgApply c) s = .next (t.setCore c u)
        ∧ takes t ∧ u = { k with ledgerHeld := none })
    ∧ exec (.coreViolCntRead c) s = .next { (s.setReg (rCore c 0x28) 0).setReg (rCore c 0x30) 0 with
        out := s.out ++ [.busRead (rCore c 0x28) (BitVec.ofNat 64 (s.rf (rCore c 0x28) 0 32))] }

/-- Channel control of a mounted die and the clearing of halts (R236, R239, R246, R248). go at an idle channel that Vespers does not
own takes the list head and count and runs from it; at a channel that is not idle, or together with abort, it is turned away
and says so. abort marks the list to end after its descriptor. A halted channel is cleared to IDLE with address 0 by clr_halt,
of a die or of a core; another stands. -/
def Obligations.DmaChannels : Prop :=
  ∀ (d j c n : Nat) (v : W64) (s : State), d < 4 → j < 8 → s.hasDie d = true → s.vspOwns j = false → c < 64 → n < 4 →
    s.hasCore c = true →
    let ch := 256 + 8 * d + j
    let head := s.rf (rDma d (0x100 * j)) 0 43
    let ctl := rDma d (0x100 * j + 8)
    let stat := rDma d (0x100 * j + 0x10)
    (s.chState ch = 0 → fld v 0 19 ≠ 0 → bit v 62 = false → head % 64 = 0 → ∃ t, exec (.dmaChGo d j v) s = .next t
        ∧ Shows (s.modChan ch fun k => { k with work := some ⟨none, head, fld v 0 19, none, false, false, false⟩ }) t [ctl, stat]
        ∧ t.chState ch = 1 ∧ t.rf stat 0 43 = 0 ∧ t.rf ctl 0 19 = fld v 0 19)
    ∧ (s.chState ch = 1 → bit v 62 = false → bit v 61 = false →
        exec (.dmaChGo d j v) s = .next ((s.rwReg ctl 0x7FFFF v).setRbit stat 60 true))
    ∧ (bit v 61 = false → exec (.dmaChAbort d j v) s =
        .next (let t := (s.rwReg ctl 0x7FFFF v).modChan ch fun k => { k with work := k.work.map fun w => { w with stop := true } }
          if bit v 63 then t.setRbit stat 60 true else t))
    ∧ (s.chState ch = 2 → ∃ t, exec (.dmaChClrHalt d j) s = .next t ∧ Shows s t [stat]
        ∧ t.chState ch = 0 ∧ t.rf stat 0 43 = 0 ∧ t.rbit stat 61 = false ∧ t.rf stat 48 8 = s.rf stat 48 8)
    ∧ (s.chState ch ≠ 2 → exec (.dmaChClrHalt d j) s = .next s)
    ∧ (s.chState (4 * c + n) = 2 → exec (.coreDmaClrHalt c n) s =
        .next ((s.setRf (rCore c (0x2000 + 0x100 * n)) 62 2 0).setRf (rCore c (0x2000 + 0x100 * n)) 0 43 0))
    ∧ (s.chState (4 * c + n) ≠ 2 → exec (.coreDmaClrHalt c n) s = .next s)

/-- A memory-resident descriptor on a channel (R233 to R236, R243, R245). DMA_DESC_BEGIN reads it, whole and in good format, from a
core store: an empty one is done at once, an aligned one paced by a timer or another channel waits for credits from its
source. DMA_UNIT_START takes one credit and moves one unit between core stores, its bytes rearranged as swap says, where nothing before it is
still to be written.
DMA_DESC_COMPLETE writes the status word where it is asked to, counts, gives those paced by the channel a credit, and goes on
to the next descriptor, or ends the list. -/
def Obligations.DmaTransfers : Prop :=
  ∀ (ch : Nat) (w : DWork) (s : State), (s.chan ch).work = some w → w.td = none → s.pwrFail = false → s.midnight = false → s.released ch w = false →
    let stat := chStat ch
    let runs (w' : DWork) (s : State) : State := (s.modChan ch fun k => { k with work := some w' })
    let held (a n : Nat) : Prop := ∃ c o, a = storeAddr c o ∧ c < 64 ∧ o + n ≤ 0x1800000 ∧ s.hasCore c = true
      ∧ hasNat s.deadDies (c / 16) = false ∧ (s.dieRoute (chDie ch) (c / 16)).isSome = true
    (∀ d : BitVec 512, w.cur = none → held w.head 64 → w.head % 64 = 0 → d = BitVec.ofNat 512 (s.readN w.head 64) →
      descBad ch d = false → (descXfer d).misaligned = none →
      ((descXfer d).empty = true → ∃ t, exec (.dmaDescBegin ch none) s = .next t
        ∧ Shows (runs { w with cur := some ⟨w.head, d, 0, 0, 0, 0, 1, 0, [], false, []⟩ } s) t [stat]
        ∧ t.chState ch = 1 ∧ t.rf stat 0 43 = w.head % 2 ^ 43)
      ∧ ∀ src, (descXfer d).empty = false → paceSrc ch (descXfer d).pace (descXfer d).paceId = some src → src ≠ 2 * ch + 1 →
        ∃ t, exec (.dmaDescBegin ch none) s = .next t
          ∧ Shows ((s.modChan ch fun k =>
              ⟨some { w with cur := some ⟨w.head, d, 0, 0, 0, 0, 0, 0, [], false, []⟩ }, some src, k.src == some src && k.credit⟩).setPaced ch w none) t [stat]
          ∧ t.chState ch = 1 ∧ t.rf stat 0 43 = w.head % 2 ^ 43)
    ∧ (∀ c : DCur, w.cur = some c →
      let x := descXfer c.w
      let src := x.src c.unit
      let dst := x.dst c.unit
      c.unit < x.n → x.len ≠ 0 → c.code = 0 → x.len % 64 = 0 → x.pace ≠ 3 → x.paced ch = true → (s.chan ch).credit = true →
      c.toUnit = c.unit → c.toOff = 0 → c.hold = false → c.parts = [] → (x.check % 2 = 0 ∨ (dst + x.len) % 4096 = 0) →
      held src x.len → held dst x.len → src % 64 = 0 → dst % 64 = 0 → (src + x.len ≤ dst ∨ dst + x.len ≤ src) →
      ∃ t, exec (.dmaUnitStart ch none) s = .next t
        ∧ Stored (let u := s.modChan ch fun k =>
              ⟨some { w with cur := some { c with unit := c.unit + 1, toUnit := c.unit + 1, moved := c.moved + x.len } }, k.src, false⟩
            if x.n ≤ c.unit + 1 then u.setPaced ch w none else u) t dst
          ((List.range (x.len / 64)).flatMap fun j => swapBytes x.swap (s.read (src + 64 * j) 64)))
    ∧ ∀ c : DCur, w.cur = some c → c.allWritten (descXfer c.w) = true → c.waiting = 0 →
      ∃ s1, (bit c.w 70 = false → s1 = s)
        ∧ (bit c.w 70 = true → held c.addr 8 → c.addr % 64 = 0 →
            Stored s s1 c.addr (toBytes 8 (c.code * 2 ^ 56 + 2 ^ 55 + Nat.min c.moved (2 ^ 48 - 1))))
        ∧ let w' : DWork := ⟨w.entry, if bit c.w 72 then fld c.w 85 43 else c.addr + 64, w.left - 1, none, w.bad || c.code == 0x30,
            w.some' || 0 < c.moved, w.stop⟩
          (c.code < 0x31 → 1 < w.left → bit c.w 71 = false → ∃ t, exec (.dmaDescComplete ch) s = .next t
            ∧ Shows (runs w' ((s1.setPaced ch w none).paceCredit (2 * ch + 1))) t
                (if coreCh ch then [stat] else [stat, rDma ((ch - 256) / 8) (0x100 * (ch % 8) + 0x18)])
            ∧ t.chState ch = 1 ∧ t.rf stat 0 43 = 0 ∧ t.rf stat 48 8 = (if coreCh ch then c.code else s1.rf stat 48 8)
            ∧ (coreCh ch = false → let n := rDma ((ch - 256) / 8) (0x100 * (ch % 8) + 0x18)
                t.rf n 0 32 = Nat.min (s1.rf n 0 32 + 1) (2 ^ 32 - 1)))
          ∧ (c.code < 0x31 → (w.left = 1 ∨ bit c.w 71 = true) → w.entry = none → coreCh ch = false → s1.chState ch = 1 →
            ∃ t, exec (.dmaDescComplete ch) s = .next t
            ∧ Shows (((s1.paceCredit (2 * ch + 1)).modChan ch fun k => { k with work := none }).dropRechecks ch) t
                [stat, rDma ((ch - 256) / 8) (0x100 * (ch % 8) + 0x18)]
            ∧ t.chState ch = 0 ∧ t.rf stat 0 43 = 0
            ∧ t.rf stat 48 8 = if w'.bad then 0x30 else if w'.some' then 0 else 1)

/-- The requests of a mounted stack (R204, R205, R209, R210, R213, R217, R223). A legal request that has room is accepted: a write
shows in memory at once and unseals its block unless it is poisoned, a read takes its data and poison, and either to a block
being copied is held; one or two parity failures are counted. A write batch starts when it is due and ends with its buffer
empty. The read that leaves a pseudo-channel with its data is the oldest one there that is not held, or the oldest to an open row where
none is old; its row is open then. A scheduling mode takes effect on a pseudo-channel between its batches and shows once all have it,
and a command answered, or not answered once or twice, is noted. -/
def Obligations.HbmRequests : Prop :=
  ∀ (st pc ns : Nat) (r : HbmReq) (p : Nat) (s : State), s.hasStack st = true → pc < 32 →
    let k := s.stack st
    let key := hbmAddr st r.offset / 4096
    let q := hbmPc r.offset
    let s0 := if p = 0 ∨ s.hbmState st = 5 then s else s.bump (rHbm st 0x20) 0 32 1
    let copied := k.copying.any fun c => c.block == r.offset / 4096
    let lat := hasNat k.lat pc
    let full := Tab.get 0 pc k.wbuf
    let legal := r.offset % 64 = 0 ∧ r.len % 64 = 0 ∧ 64 ≤ r.len ∧ r.offset % 2048 + r.len ≤ 2048 ∧ r.offset + r.len ≤ 0x1FC0000000
    let sets (f : Stack → Stack) : State := s.modStack st f
    let want := s.rbit (rHbm st 8) 0
    let takes (b : List Nat) (u : State) : State :=
      let v := u.modStack st fun k => { k with lat := (List.range 32).filter fun c => if hasNat b c then hasNat k.lat c else want }
      if (b.filter (· < 32)).all fun c => hasNat k.lat c == want then v.setRbit (rHbm st 0) 28 want else v
    let mine (y : HRead) : Prop := hbmPc y.offset = pc ∧ y.got ≠ none
    let hit (y : HRead) : Prop := mine y ∧ Tab.get 0 (hbmOpen y.offset).1 k.rows = (hbmOpen y.offset).2
    (legal → p < 3 → r.write = true → r.data.length = r.len → Tab.get 0 q k.wbuf + r.len ≤ 65536 → s.live (hbmAddr st r.offset) = true →
      s.vsp.covers key = false → copied = false →
      exec (.hbmReqAccept st r p) s = .next (
        let t := (s0.modStack st fun k => { k with wbuf := Tab.upd 0 q (· + r.len) k.wbuf }).poke (hbmAddr st r.offset) r.data
        if s.chkOf key = 0xFFFFFFFFFFFFFFFF then t else t.setChk key 0))
    ∧ (legal → p < 3 → r.write = true → r.data.length = r.len → Tab.get 0 q k.wbuf + r.len ≤ 65536 → s.hbmState st = 2 → copied = true →
      exec (.hbmReqAccept st r p) s = .next (s0.modStack st fun k =>
        { k with wbuf := Tab.upd 0 q (· + r.len) k.wbuf, held := k.held ++ [r] }))
    ∧ (legal → p < 3 → r.write = false → (k.reads.filter fun x => hbmPc x.offset == q).length < 256 →
      exec (.hbmReqAccept st r p) s = .next (s0.modStack st fun k =>
        if copied then { k with held := k.held ++ [r], reads := k.reads ++ [⟨r.source, r.offset, r.len, none⟩] }
        else { k with reads := k.reads ++ [⟨r.source, r.offset, r.len, some (s0.read (hbmAddr st r.offset) r.len,
          (List.range (r.len / 64)).map fun i => s0.poisoned (hbmAddr st (r.offset + 64 * i)))⟩] }))
    ∧ (0 < full → pc ∉ k.batch → (if lat then 4096 ≤ full ∨ 500 ≤ ns else 32768 ≤ full ∨ 3000 ≤ ns) →
      exec (.hbmWriteBatchStart st pc ns) s = .next (sets fun k => { k with batch := k.batch ++ [pc] }))
    ∧ (pc ∈ k.batch → ns < (if lat then 500 else 2000) →
      exec (.hbmWriteBatchEnd st pc ns) s =
        .next (takes (k.batch.filter (· != pc)) (sets fun k => { k with
          batch := k.batch.filter (· != pc), wbuf := Tab.put 0 pc 0 k.wbuf, rows := k.rows.filter fun p => p.1 / 64 != pc })))
    ∧ (∀ (hs rest : List HRead) (x : HRead) (d : Bytes × List Bool) (aged timeS : Nat), k.reads = hs ++ x :: rest → x.got = some d → p < 3 →
      (if aged = 0 ∧ ∃ y ∈ k.reads, hit y then hit x ∧ ∀ h ∈ hs, ¬ hit h else mine x ∧ ∀ h ∈ hs, ¬ mine h) →
      exec (.hbmReadComplete ⟨st, pc, aged, p⟩ [] timeS) s =
        .next ((s0.modStack st fun k => { k with
            reads := hs ++ rest, rows := Tab.put 0 (hbmOpen x.offset).1 (hbmOpen x.offset).2 k.rows }).send
          (.hbmRead st x.source x.offset d.1 ((List.range (x.len / 64)).map fun i => nth false d.2 i))))
    ∧ exec (.hbmSchedApply st) s = .next (takes k.batch s)
    ∧ ∀ answered, s.hbmState st ≠ 5 → (answered = true ∨ Tab.get 0 pc k.timeouts < 2) →
      exec (.hbmPcTimeout st pc answered) s =
        .next (sets fun k => { k with timeouts := Tab.put 0 pc (if answered then 0 else Tab.get 0 pc k.timeouts + 1) k.timeouts })

/-- Errors, remaps, bring-up and maintenance of a mounted stack (R218 to R227). An uncorrectable error found by the scrub poisons its
block's check word, is counted and reported, and takes a free spare; a corrected one is counted and tracked. A finished copy
makes the remap entry. Bring-up and maintenance leave the stack READY, zero and unsealed, the rows that hard PPR repaired counted while
it has rows left, the requested mode in force; a failed bring-up and a third unanswered command make it FAILED. -/
def Obligations.HbmRepair : Prop :=
  ∀ (st b pc hard soft timeS : Nat) (spares : List Nat) (s : State), s.hasStack st = true → b < 33292288 → pc < 32 →
    let k := s.stack st
    let a := hbmAddr st (4096 * b)
    let err := rHbm st 0x48
    let rep := rHbm st 0x40
    let lat := if s.rbit (rHbm st 8) 0 then List.range 32 else []
    let hards := Nat.min hard (2048 - Tab.get 0 st s.hppr)
    let tested (t : State) : Prop := t.rf (rHbm st 0x60) 16 16 = hards ∧ t.rf (rHbm st 0x60) 0 16 = soft
      ∧ t.hppr = Tab.put 0 st (Tab.get 0 st s.hppr + hards) s.hppr ∧ t.rf rep 0 14 = (Tab.get 0 st s.hppr + hards) % 2 ^ 14
      ∧ t.rbit (rHbm st 0) 28 = s.rbit (rHbm st 8) 0
      ∧ Shows { s with mem := t.mem, chk := t.chk, ctls := t.ctls, hppr := t.hppr } t [rHbm st 0, rBoot 0x108, rHbm st 0x60, rep]
    let kinds (t : State) (kind : Nat) : Prop := t.reg err = if s.rf err 60 4 = 0 then setFld (BitVec.ofNat 64 a) 60 4 kind else s.reg err
    let logs (t u : State) : State := { u with backlog := t.backlog, jDropped := t.jDropped }
    let status (t : State) (v : Nat) : Prop := t.hbmState st = v ∧ t.rbit (rBoot 0x108) st = (v == 2)
    let fails (i : Instr) : Prop := ∃ t, exec i s = .next t ∧ status t 5
      ∧ Shows { s with backlog := t.backlog, jDropped := t.jDropped, mapGen := s.mapGen + 1, mapTime := s.time, freeIx := s.freeIx + 1, ctls := t.ctls }
          t [rHbm st 0, rBoot 0x108]
      ∧ (∀ x, x ≠ st → t.stack x = s.stack x) ∧ (t.stack st).held = [] ∧ (∀ w, Tab.get 0 w (t.stack st).wbuf = 0)
      ∧ t.backlog.length = s.backlog.length + 1
    let zeroed (t : State) : Prop := (∀ x, a - 4096 * b ≤ x → x < a - 4096 * b + 0x1FC0000000 → Tab.get 0 x t.mem = 0)
      ∧ (∀ x, (a - 4096 * b) / 4096 ≤ x → x < (a - 4096 * b) / 4096 + 33292288 → t.chkOf x = 0)
      ∧ (∀ x, ¬ (a - 4096 * b ≤ x ∧ x < a - 4096 * b + 0x1FC0000000) → Tab.get 0 x t.mem = Tab.get 0 x s.mem)
      ∧ (∀ x, ¬ ((a - 4096 * b) / 4096 ≤ x ∧ x < (a - 4096 * b) / 4096 + 33292288) → t.chkOf x = s.chkOf x)
    (s.rbit (rHbm st 8) 1 = true → s.hbmState st = 2 → s.vsp.covers (a / 4096) = false →
      exec (.hbmScrubRead st b [] timeS) s = .next s
      ∧ (s.rf (rHbm st 0x18) 0 8 = 0 → k.tracker = [] → ∃ t, exec (.hbmScrubRead st b [.corrected] timeS) s = .next t
        ∧ Shows (s.modStack st fun k => { k with tracker := [⟨b, 1, timeS⟩] }) t [rHbm st 0x20, err]
        ∧ t.rf (rHbm st 0x20) 0 32 = Nat.min (s.rf (rHbm st 0x20) 0 32 + 1) (2 ^ 32 - 1) ∧ kinds t 1)
      ∧ (b ∉ k.lost → (∀ c ∈ k.copying, c.block ≠ b) → (∀ p ∈ k.remaps, ∀ e, p.2 = some e → e.block ≠ b) → k.taken.length < 196608 →
          k.entries.length + k.copying.length < 32768 →
          ∃ t sp, exec (.hbmScrubRead st b [.uncorrectable] timeS) s = .next t ∧ sp ∉ k.taken
            ∧ Shows (logs t ((s.setChk (a / 4096) 0xFFFFFFFFFFFFFFFF).modStack st fun k =>
                { k with taken := sp :: k.taken, copying := k.copying ++ [⟨b, sp, true⟩] })) t [rHbm st 0x28, err, rep]
            ∧ t.rf (rHbm st 0x28) 0 32 = Nat.min (s.rf (rHbm st 0x28) 0 32 + 1) (2 ^ 32 - 1) ∧ kinds t 2
            ∧ t.backlog = s.backlog ++ [⟨0, s.rf (rBoot 0x10) 0 32, s.time, st, 3, 1, 0x21, toBytes 8 (t.reg err).toNat⟩]))
    ∧ (∀ c ∈ k.copying, c.block = b → (∀ d ∈ k.copying, d.block = b → d = c) → (∀ r ∈ k.held, r.offset / 4096 ≠ b) → b ∉ k.again →
        (∀ p ∈ k.remaps, ∀ e, p.2 = some e → e.block ≠ b) →
        ∃ t ix, exec (.hbmRemapComplete st b) s = .next t ∧ (∀ p ∈ k.remaps, p.1 ≠ ix)
          ∧ Shows (logs t (s.modStack st fun k => { k with
              copying := k.copying.filter (fun c => c.block != b), remaps := Tab.put none ix (some ⟨b, 1, c.spare, false⟩) k.remaps })) t [err, rep]
          ∧ kinds t (if c.ue then 9 else 8))
    ∧ (s.rf (rCrn 0) 29 3 ≠ 3 → s.hbmState st = 0 → (st % 8 < 4 ∨ ∀ i, i < 4 → 2 ≤ s.hbmState (st / 8 * 8 + i)) →
        exec (.hbmWaveStart st) s = .next (s.setRf (rHbm st 0) 29 3 1))
    ∧ (s.rf (rCrn 0) 29 3 ≠ 3 → s.hbmState st = 1 → soft < 65536 →
        fails (.stackBringupEnd st false hard soft spares)
        ∧ ∃ t, exec (.stackBringupEnd st true hard soft spares) s = .next t ∧ status t 2 ∧ zeroed t
          ∧ tested t ∧ (spares.length ≤ 1 → t.stack st = { Stack.reset with
              remaps := (List.range spares.length).map fun i => (i, some ⟨nth 0 spares i, 1, i, false⟩), taken := List.range spares.length,
              lat := lat }))
    ∧ ((s.hbmState st = 2 ∨ s.hbmState st = 4) → k.copying = [] → ∃ t, exec (.hbmMaintReq st) s = .next t ∧ status t 3
        ∧ Shows (s.modStack st fun k => { k with wbuf := [], batch := [], rows := [] }) t [rHbm st 0, rBoot 0x108])
    ∧ (s.hbmState st = 3 → k.batch = [] → soft < 65536 → ∃ t, exec (.hbmMaintDone st hard soft ⟨[], []⟩) s = .next t ∧ status t 2 ∧ zeroed t
        ∧ tested t ∧ t.stack st = { k with lat := lat })
    ∧ (s.hbmState st ≠ 5 → 2 ≤ Tab.get 0 pc k.timeouts → fails (.hbmPcTimeout st pc false))

/-- Modules of a die-to-die group (R257 to R262): one that stays up through another module at full width, where nothing else changes, one
between compute dies, or one of an I/O die without a fan-out. The lane test of training, or of a retrain, which adds to the repair map it
keeps, gives the width that the failed lanes leave, with which the group is up, and fences a module with none; a failed attempt and a report
that disagrees send a module back to retimed mode, an endpoint's to training, and the third in a row fences it; the follower's MBINIT starts
an attempt in normal mode; too many replays and a low margin retrain. In retimed mode the vote masks one bad lane of each triple (R254). A
moved flow is released once nothing of it is to be replayed. -/
def Obligations.LinkTraining : Prop :=
  ∀ (g m train width : Nat) (failed low map : W64) (spare : BitVec 4) (s : State), s.d2dHere g m = true →
    let upheld : Prop := s.rf (rD2d g 0) 61 3 = 3 ∧ ∃ u, u < modulesOf g ∧ u ≠ m ∧ s.modState g u = 3
    upheld ∨ g < 4 ∨ Tab.get none (g - 4) s.fan = none →
    let r := rMod g m
    let lanes := rD2d g (0x600 + 8 * m)
    let cnt := rD2d g 0x10
    let d := s.dmod g m
    let os := [r, lanes, cnt, rD2d g 0, rBoot 0x118]
    let live := s.modState g m = 3 ∨ s.modState g m = 4 ∨ s.modState g m = 5
    let becomes (i : Instr) (st : Nat) (P : State → Prop) : Prop := ∃ t, exec i s = .next t ∧ (upheld → Links s t os ∧ t.rf (rD2d g 0) 61 3 = 3)
      ∧ t.mem = s.mem ∧ t.cores = s.cores ∧ t.modState g m = st ∧ (∀ v, v < modulesOf g → v ≠ m → t.modState g v = s.modState g v) ∧ P t
    let tests (i : Instr) (old : W64) (oldSpare : BitVec 4) (half : Nat) : Prop :=
      let f := old ||| failed ||| d.weak
      let lo := popcount (bits f 0 32) + popcount (bits (oldSpare ||| spare) 0 2)
      let hi := popcount (bits f 32 32) + popcount (bits (oldSpare ||| spare) 2 2)
      let w := if half = 4 then (if lo ≤ 2 then 4 else 6) else if half = 5 then (if hi ≤ 2 then 5 else 6)
        else if lo ≤ 2 ∧ hi ≤ 2 then 3 else if lo ≤ 2 then 4 else if hi ≤ 2 then 5 else 6
      becomes i w fun t => t.reg lanes = f ∧ if w = 6 then t.rf r 51 4 = 1 else t.rf r 59 2 = 0
        ∧ t.rf r 57 2 = (if w = 5 then 0 else popcount (bits f 0 32)) ∧ t.rf r 55 2 = (if w = 4 then 0 else popcount (bits f 32 32))
        ∧ (t.dmod g m).train = 0 ∧ (t.dmod g m).width = w ∧ t.rf (rD2d g 0) 61 3 = 3
    let attempts (i : Instr) : Prop :=
      (s.rf r 59 2 < 2 → becomes i (if 4 ≤ g ∧ nth 0 s.iodVer (g - 4) = 3 then 2 else 1) fun t => t.rf r 59 2 = s.rf r 59 2 + 1
        ∧ t.reg lanes = 0 ∧ (t.dmod g m).train = 2 ∧ (t.dmod g m).width = 0)
      ∧ (2 ≤ s.rf r 59 2 → becomes i 6 fun t => t.rf r 51 4 = 2)
    let retrains (i : Instr) (P : State → Prop) : Prop := becomes i 2 fun t => (t.dmod g m).train = 5
      ∧ t.rf cnt 16 16 = Nat.min (s.rf cnt 16 16 + 1) 65535 ∧ P t
    (d.role = 3 → 1 ≤ d.train → d.train ≤ 4 → tests (.d2dTrainActive g m failed spare) 0 0 0)
    ∧ (s.modState g m = 2 → d.train = 5 →
        tests (.d2dRetrainDone g m failed spare) (s.reg lanes) d.spare (if d.width = 3 then 0 else d.width))
    ∧ (d.train ≠ 0 → attempts (.d2dTrainStateTimeout g m))
    ∧ (live → width ≠ d.width ∨ map ≠ s.reg lanes → attempts (.d2dStateReport g m ⟨train, width, map⟩))
    ∧ (live → d.train = 0 → exec (.d2dStateReport g m ⟨train, d.width, s.reg lanes⟩) s = .next s)
    ∧ (¬ live → 1 ≤ d.train → d.train ≤ 4 → 2 ≤ train → train ≤ 4 → becomes (.d2dStateReport g m ⟨train, 0, map⟩) 2 fun t =>
        (t.dmod g m).train = Nat.max d.train train)
    ∧ (live → ∀ bad, exec (.d2dFlitRx g m ⟨true, bad⟩) s = .next (s.modDmod g m fun d => { d with fails := 0 }))
    ∧ (s.modState g m = 1 → d.train = 0 → ∀ bad : W64, (∀ i, i < 16 → (bit bad i).toNat + (bit bad (i + 16)).toNat + (bit bad (i + 32)).toNat ≤ 1) →
        exec (.d2dFlitRx g m ⟨false, bad⟩) s = .next (s.modDmod g m fun d => { d with fails := 0 }))
    ∧ (live → d.fails < 8 → d.replays = [] → ∀ bad, becomes (.d2dFlitRx g m ⟨false, bad⟩) (s.modState g m) fun t =>
        t.rf cnt 32 32 = Nat.min (s.rf cnt 32 32 + 1) (2 ^ 32 - 1) ∧ (t.dmod g m).fails = d.fails + 1)
    ∧ (live → 8 ≤ d.fails → ∀ bad, retrains (.d2dFlitRx g m ⟨false, bad⟩) fun t => t.rf cnt 32 32 = Nat.min (s.rf cnt 32 32 + 1) (2 ^ 32 - 1))
    ∧ (live → low ≠ 0 → (g < 4 ∨ nth 0 s.iodVer (g - 4) = 2) → retrains (.d2dMarginRead g m low) fun t => (t.dmod g m).weak = low
        ∧ t.rf cnt 0 16 = Nat.min (s.rf cnt 0 16 + 1) 65535)
    ∧ ∀ flow, (s.drQueue = [] → exec (.flowRelease g flow) s = .next { s with movedFlows := s.movedFlows.filter (· != (g, flow)) })
        ∧ ((∃ k ∈ s.drQueue, k.again = true ∧ k.group = g ∧ k.flow = flow) → exec (.flowRelease g flow) s = .next s)

/-- The role exchange (R263, R264, R268, R270) of a module that is neither absent nor fenced, in a group that stays up through another
module, where nothing else changes, in one between compute dies, or in one of an I/O die without a fan-out; and RETRAIN_ALL (R260, R271).
ROLE_ADV is noted; ROLE_CRED after it is answered: the partner is admitted when role, versions, credits, modules and packet size fit, its
credits and the part's own noted, and the module trains once the Crown runs; it is fenced when they do not fit. ROLE_ACK after the leader's
own changes nothing; ROLE_NAK fences; ROLE_TIMEOUT sends both messages again twice and then fences. A message out of order is counted, and
retrains the module or begins its training or exchange again. RETRAIN_ALL sends every module back to MBINIT, or to the exchange where its
partner is not admitted. -/
def Obligations.LinkRoles : Prop :=
  ∀ (g m reason : Nat) (adv cred : W64) (s : State), s.d2dHere g m = true →
    let r := rMod g m
    let upheld : Prop := s.rf (rD2d g 0) 61 3 = 3 ∧ ∃ u, u < modulesOf g ∧ u ≠ m ∧ s.modState g u = 3
    let alone (os : List Nat) (s t : State) : Prop := (upheld → Links s t os) ∧ t.mem = s.mem ∧ t.cores = s.cores
    let d := s.dmod g m
    let grp := rD2d g 0
    let cnt := rD2d g 0x10
    let os := [r, grp, rD2d g 0x20, rBoot 0x118]
    let roleOk := if g < 4 then fld adv 60 4 = 1 else if s.hasIo (g - 4) = true then fld adv 60 4 = 2 else fld adv 60 4 = 3 ∧ g ≠ 4
    let fits := roleOk ∧ fld adv 56 4 = 1 ∧ (fld adv 48 4 = 1 ∨ fld adv 48 4 = 2)
      ∧ (8 ≤ fld cred 50 10 ∧ 64 ≤ fld cred 40 10 ∧ 256 ≤ fld cred 30 10 ∧ 64 ≤ fld cred 20 10 ∧ 256 ≤ fld cred 10 10 ∧ 128 ≤ fld cred 0 10)
      ∧ fld adv 40 8 = modulesOf g ∧ fld adv 32 8 = 64
    let fences (i : Instr) (cause : Nat) : Prop := ∃ t, exec i s = .next t ∧ alone os s t ∧ t.modState g m = 6 ∧ t.rf r 51 4 = cause
    let crown := s.rf (rCrn 0) 29 3 = 2
    let live := s.modState g m = 3 ∨ s.modState g m = 4 ∨ s.modState g m = 5
    let breach (i : Instr) : Prop := ∃ t, exec i s = .next t ∧ alone [r, grp, cnt, rD2d g 0x18, rBoot 0x118] s t
      ∧ t.rf (rD2d g 0x18) 0 32 = Nat.min (s.rf (rD2d g 0x18) 0 32 + 1) (2 ^ 32 - 1)
      ∧ t.rf cnt 16 16 = Nat.min (s.rf cnt 16 16 + 1) 65535
      ∧ (live → t.modState g m = 2 ∧ (t.dmod g m).train = 5)
      ∧ (¬ live → t.modState g m = s.modState g m
          ∧ if d.role = 3 then (t.dmod g m).train = (if d.train = 0 then 0 else 2) else (t.dmod g m).role = 0)
    (upheld ∨ g < 4 ∨ Tab.get none (g - 4) s.fan = none → s.modState g m ≠ 0 → s.modState g m ≠ 6 →
      (d.role ≠ 3 → d.cred = none → exec (.roleAdv g m adv) s = .next (s.modDmod g m fun d => { d with role := 1, adv := some adv }))
      ∧ (d.role = 1 → d.adv = some adv → fits → ∃ t, exec (.roleCred g m cred) s = .next t
          ∧ alone os { s with attached := t.attached } t ∧ t.modState g m = (if crown then 2 else s.modState g m) ∧ (t.dmod g m).role = 3
          ∧ (t.dmod g m).train = (if crown then 1 else d.train)
          ∧ t.rf grp 57 4 = fld adv 60 4 ∧ t.rf grp 53 4 = fld adv 48 4 ∧ (t.reg (rD2d g 0x20)).toNat = fld adv 0 32
          ∧ (crown ∨ s.drQueue = [] → ∀ c, c < 6 → Tab.get 0 ((32 * g + m) * 8 + c) t.drCred = fld cred (50 - 10 * c) 10
            ∧ Tab.get 0 ((32 * g + m) * 8 + c) t.drPart = nth 0 [66, 66, 256, 66, 256, 128] c))
      ∧ (d.role = 1 → d.adv = some adv → ¬ fits → fences (.roleCred g m cred) 4)
      ∧ (reason ≤ 255 → fences (.roleNak g m reason) 4)
      ∧ (d.role ≠ 3 → d.missed < 2 → exec (.roleTimeout g m) s = .next (((s.modDmod g m fun d =>
          { d with missed := d.missed + 1, role := 0, adv := none, cred := none }).send (.role g m 0 (ownAdv g))).send (.role g m 1 ownCred)))
      ∧ (d.role ≠ 3 → 2 ≤ d.missed → fences (.roleTimeout g m) 3)
      ∧ (d.role = 3 → breach (.roleAdv g m adv)) ∧ (d.role ≠ 1 → breach (.roleCred g m cred)) ∧ (d.role ≠ 3 → breach (.roleAck g m)))
    ∧ (d.role = 3 → exec (.roleAck g m) s = .next s)
    ∧ ((∃ v, v < modulesOf g ∧ s.modState g v ≠ 0) → ∃ t, exec (.retrainAll g) s = .next t
        ∧ Links (if s.rf grp 61 3 = 4 then s.mapChange else s) t ((List.range (modulesOf g)).flatMap (fun v => [rMod g v, rD2d g (0x600 + 8 * v)]) ++ [grp, cnt, rBoot 0x118])
        ∧ (∀ v, v < modulesOf g → s.modState g v ≠ 0 → t.reg (rMod g v) = setFld 0 61 3 2 ∧ t.reg (rD2d g (0x600 + 8 * v)) = 0
            ∧ (t.dmod g v).train = 2 ∧ (t.dmod g v).width = 0 ∧ (t.dmod g v).role = (if (s.dmod g v).role = 3 then 3 else 0))
        ∧ (∀ v, v < modulesOf g → s.modState g v = 0 → t.reg (rMod g v) = s.reg (rMod g v))
        ∧ t.rf grp 61 3 = 2)

/-- Die-role packets at a module that carries them (R264 to R270), with well-formed headers within the credits that the part gave, nothing
owed, nothing waiting and credits for what answers. Each returns its units by a CREDIT packet on its module (units of class 0 once four are owed). RD_REQ answers with the data,
the poison and the check word of what it reads, with zeros and a count where the die serves nothing (R41), poisoned where core-store parity
fails (R146); WR_REQ to a core store stores its payload and acknowledges; a reply, which no request of the part waits for, counts as the
partner's (R270); an attached endpoint's message to a core of a live die that the part reaches acts as a trigger, with values that the
spec leaves open; a management packet does no more; CREDIT adds what it returns. -/
def Obligations.LinkPackets : Prop :=
  ∀ (g m : Nat) (h : BitVec 128) (payload : Bytes) (tail : W64) (s : State), s.carries g m = true → s.drQueue = [] →
    s.rf (rD2d g 0) 61 3 ≠ 4 → drBad h = false → (∀ k, k < 6 → Tab.get 0 (drIx g m k) s.drOwed = 0) →
    drUnits h ≤ Tab.get 0 (drIx g m (drClass h)) s.drPart → 2 ≤ Tab.get 0 (drIx g m 0) s.drCred →
    let a := fld h 0 43
    let n := fld h 108 7
    let taken : State := { s with drPart := Tab.upd 0 (drIx g m (drClass h)) (· - drUnits h) s.drPart }
    let owed (o : Tab Nat) : Tab Nat := (List.range 6).foldl (fun p k => Tab.put 0 (drIx g m k) 0 p) o
    let back : Bytes := (List.range 6).flatMap (fun k => toBytes 2 (if k = drClass h then drUnits h else 0)) ++ List.replicate 52 0
    let u : State := ({ taken with drOwed := owed (Tab.upd 0 (drIx g m (drClass h)) (· + drUnits h) s.drOwed) }).drEmit m
      ⟨g, drHdr 6 0 0 0 1 false false 0 0 0 0 0, back, false, some m⟩
    let via (r : BitVec 128) : Nat := nth 0 (s.steering g) (drPkt g r []).flow
    let goes (r : BitVec 128) : Prop := s.carries g (via r) = true ∧ drUnits r ≤ Tab.get 0 (drIx g (via r) (drClass r)) u.drCred
      ∧ (g, (drPkt g r []).flow) ∉ s.movedFlows
    let hole := s.drHole g h a (64 * n)
    let whole := n == 64 && a % 4096 == 0 && !hole && (match region a with | .hbm _ _ => true | _ => false)
    let bad := !hole && (List.range n).any fun i => s.poisoned (a + 64 * i)
    let rd (p : Bool) := drHdr 3 2 (fld h 115 3) (fld h 118 3) n p whole (fld h 84 12) (fld h 72 12) (fld h 64 8) 0 a
    let wr := drHdr 4 2 (fld h 115 3) (fld h 118 3) 0 false false (fld h 84 12) (fld h 72 12) (fld h 64 8) 0 a
    (fld h 124 4 = 1 →
      (hole = false → goes (rd bad) → exec (.rdReq g m h none) s = .next (u.drEmit (via (rd bad)) (drPkt g (rd bad)
          (s.read a (64 * n) ++ (if whole then toBytes 64 (s.chkRead (a / 4096)).toNat else [])))))
      ∧ (hole = true → n ≠ 0 → exec (.rdReq g m h none) s = .next ((u.drViol g h a).drSend (drPkt g (rd false) (List.replicate (64 * n) 0))))
      ∧ ∀ i c o, hole = false → i < n → region (a + 64 * i) = .store c o → whole = false → exec (.rdReq g m h (some i)) s =
          (let f := u.parityFault 0 6 0 (.other c (o / 64))
           .next (f.drSend (drPkt g (rd true) (f.read a (64 * n))))))
    ∧ (fld h 124 4 = 2 → payload.length = 64 * n → 0 < n → a % 4096 + 64 * n ≤ 4096 → hole = false → goes wr →
        (∃ c o, a = storeAddr c o ∧ c < 64 ∧ o < 0x1800000) →
        ∃ t, exec (.wrReq g m h payload tail) s = .next t ∧ Stored (u.drEmit (via wr) (drPkt g wr [])) t a payload)
    ∧ (fld h 124 4 = 3 → exec (.rdRsp g m h payload tail) s = .next (u.partnerViol g))
    ∧ (fld h 124 4 = 4 → exec (.wrAck g m h) s = .next (u.partnerViol g))
    ∧ (fld h 124 4 = 5 →
        (fld h 84 12 < 0x800 → exec (.drMsg g m h payload) s = .next u)
        ∧ (0x800 ≤ fld h 84 12 → fld h 64 8 ≤ 15 → fld h 115 3 ≤ 3 → s.hasDie (fld h 115 3) = true → hasNat s.deadDies (fld h 115 3) = false →
          (s.dieRoute (rxDie g h) (fld h 115 3)).isSome → ∃ (vals : List W64) (first sem inc : Nat), vals.length ≤ 8
            ∧ exec (.drMsg g m h payload) s = .next (u.fresh.trigger (16 * fld h 115 3 + fld h 64 8) vals first sem inc)))
    ∧ (fld h 124 4 = 7 → (4 ≤ drUnits h → exec (.mgmt g m h payload) s = .next u)
        ∧ (drUnits h < 4 → exec (.mgmt g m h payload) s = .next { taken with drOwed := Tab.upd 0 (drIx g m 0) (· + drUnits h) s.drOwed }))
    ∧ ∃ t, exec (.credit g m payload) s = .next t
        ∧ (∀ c, c < 6 → Tab.get 0 (drIx g m c) t.drCred = Tab.get 0 (drIx g m c) s.drCred + ofBytes ((payload.drop (2 * c)).take 2)
            ∧ Tab.get 0 (drIx g m c) t.drPart = Tab.get 0 (drIx g m c) s.drPart - (if c = 0 then 2 else 0)
            ∧ Tab.get 0 (drIx g m c) t.drOwed = if c = 0 then 2 else 0)
        ∧ (∀ i, ¬ (drIx g m 0 ≤ i ∧ i < drIx g m 0 + 6) → Tab.get 0 i t.drCred = Tab.get 0 i s.drCred ∧ Tab.get 0 i t.drPart = Tab.get 0 i s.drPart
            ∧ Tab.get 0 i t.drOwed = Tab.get 0 i s.drOwed)
        ∧ (t.dmod g m).flight = freeFlight ((List.range 6).map fun c => ofBytes ((payload.drop (2 * c)).take 2)) (s.dmod g m).flight
        ∧ { t with drCred := s.drCred, drPart := s.drPart, drOwed := s.drOwed, dmods := s.dmods } = s

/-- Bring-up of port p (R281, R288, R290, R291, R292, R295) on a lit die with no fan-out. A training port whose hart has verified enough
lanes, with enough at the partner and in both maps, is UP; without light it is DOWN with cause 1. While a hart is free and no port of the
die waits, PORT_RETRY and the release of ADMIN_DOWN train a port that the map uses, and OPT_RETRAIN trains one on its own fibre again.
ADMIN_DOWN holds a port DOWN with cause 4. A dark fibre moves the port to the lowest free spare of its partner and trains it there, and a
spare that does not train is bad: without another the port is DOWN with cause 5. A reach applies when the port trains. Nothing else
changes but the waiting ports of the die, which may begin to train. -/
def Obligations.OpticalPorts : Prop :=
  ∀ (p : Nat) (v : BitVec 8) (s : State), s.portLive p = true → Tab.get none (p / 8) s.fan = none → p ∉ s.trainQ.erase p →
    let i := p / 8
    let r := rPort p 0
    let st := s.rf r 61 3
    let cause := s.rf r 58 3
    let hart := (s.oport p).training
    let home := match Tab.get none p s.portMap with | some m => m.fibre | none => p % 8
    let waits (q : Nat) : Prop := q / 8 = i ∧ q ∈ s.trainQ
    let alone := ∀ q, ¬ waits q
    let at' (n : Nat) : Prop := st = n ∧ p ∉ s.trainQ
    let only (s' t : State) : Prop := NetR (fun o => portReg p o ∨ ∃ q, waits q ∧ portReg q o) (fun q => q = p ∨ waits q) s'
      { t with trainQ := s'.trainQ } ∧ (alone → t.trainQ = s'.trainQ)
    let mesh (o : Nat) : Prop := portReg p o ∨ o = rOpt i 0x10 ∨ o = rOpt i 0x18
    let trains (j : Instr) (Q : Nat → Prop) (s' : State) (f : Nat) : Prop := ∃ t, exec j s = .next t ∧ NetR Q (· = p) s' t ∧ t.rf r 61 3 = 2
      ∧ t.rf r 58 3 = 0 ∧ t.rbit r 57 = s.rbit (rPort p 8) 29 ∧ (t.oport p).training = true ∧ t.rf r 52 4 = f
    let down (j : Instr) (c : Nat) (s' : State) : Prop := ∃ t, exec j s = .next t ∧ only s' t ∧ t.rf r 61 3 = 1 ∧ t.rf r 58 3 = c
      ∧ t.rbit (rBoot 0x110) p = false ∧ (t.oport p).training = false
    let ready := alone ∧ s.rf (rFabPort p) 61 3 ≠ 0 ∧ s.rf (rD2d (4 + i) 0) 61 3 ≠ 4
      ∧ ((List.range 8).filter fun q => 8 * i + q != p && (s.oport (8 * i + q)).training).length < 2
    let released := s.rbit (rPort p 8) 30 = false
    let free (f : Nat) : Prop := (∀ q, q < 8 → s.rf (rPort (8 * i + q) 0) 52 4 ≠ f) ∧ 16 * i + f ∉ s.badSpares
      ∧ ∃ m, Tab.get none p s.portMap = some m ∧ Tab.get none (16 * i + f) s.spareMap = some (m.fid, m.port)
    let spare8 := { s with badSpares := (16 * i + 8) :: s.badSpares }
    let moved (t : State) (f : Nat) : Prop := t.rf (rOpt i 0x10) (5 * f) 5 = 16 + p % 8 ∧ t.rf (rOpt i 0x18) (5 * (p % 8)) 5 = 16 + f
    let moves (j : Instr) (f : Nat) (s' : State) : Prop := trains j mesh s' f ∧ ∀ t, exec j s = .next t → moved t f
    (at' 2 → hart = true → s.minLanes p ≤ popcount v → s.minLanes p ≤ popcount ((s.oport p).pReady &&& s.sources i) →
      s.minLanes p ≤ popcount (s.txMap p) → s.minLanes p ≤ popcount (s.rxMap p) → ∃ t, exec (.portTrainDone p true v) s = .next t
        ∧ only s t ∧ t.portUp p = true ∧ t.rf r 58 3 = 0 ∧ t.rbit (rBoot 0x110) p = true ∧ t.txMap p = s.txMap p ∧ t.rxMap p = s.rxMap p)
    ∧ (at' 2 → hart = true → s.rf r 52 4 < 8 → down (.portTrainDone p false v) 1 s)
    ∧ (ready → released → st = 1 → hart = false → cause = 1 ∨ cause = 2 → trains (.portRetry p) (portReg p) s (s.rf r 52 4))
    ∧ (ready → released → s.rf r 52 4 = home → trains (.optRetrain p) (portReg p) s (s.rf r 52 4))
    ∧ (st ≠ 0 → st ≠ 4 → ¬ (st = 1 ∧ cause = 4) → down (.adminDown p true) 4 s ∧ ∀ t, exec (.adminDown p true) s = .next t → t.rbit (rPort p 8) 30 = true)
    ∧ (ready → st = 1 → hart = false → cause = 4 → trains (.adminDown p false) (portReg p) s (s.rf r 52 4))
    ∧ exec (.reachWrite p true) s = .next (s.setRbit (rPort p 8) 29 true)
    ∧ exec (.reachWrite p false) s = .next (s.setRbit (rPort p 8) 29 false)
    ∧ (∀ own, at' 3 → own = true ∨ (s.oport p).pFault = true →
        (ready → released → free 8 → moves (.fibreDark ⟨p, own⟩) 8 s) ∧ (ready → released → ¬ free 8 → free 9 → moves (.fibreDark ⟨p, own⟩) 9 s)
        ∧ (¬ free 8 → ¬ free 9 → down (.fibreDark ⟨p, own⟩) 5 s))
    ∧ (at' 2 → s.rf r 52 4 = 8 → (ready → released → free 9 → moves (.spareTrainTimeout p) 9 spare8)
        ∧ (¬ free 9 → down (.spareTrainTimeout p) 5 spare8)
        ∧ (hart = true → (ready → released → free 9 → moves (.portTrainDone p false v) 9 spare8)
          ∧ (¬ free 9 → down (.portTrainDone p false v) 5 spare8)))

/-- Lanes of an UP port p (R275 to R281, R292, R293, R295) on a lit die with no fan-out. A boundary takes the announced map, announces the wanted one and sends an identity flit on each lane; an accepted identity flit is the partner's word; a bad one counts as
missing unless a good one came in its interval, and three missing, another lane's or port's flit, four uncorrectable codewords or too many
errors in a window take the lane out of service; a port whose lanes all name another partner is DOWN with cause 2. Fewer errors ask for a
retune; the steps of R280 follow each other. -/
def Obligations.OpticalLanes : Prop :=
  ∀ (p l : Nat) (f : IdFlit) (s : State), s.portLive p = true → Tab.get none (p / 8) s.fan = none → l < 8 →
    s.rf (rPort p 0) 61 3 = 3 →
    let i := p / 8
    let r := rPort p 0
    let o := s.oport p
    let x := o.lane l
    let lane (g : OLane → OLane) (s : State) : State := s.modPort p fun o => o.modLane l g
    let removes (j : Instr) : Prop := ∃ t, exec j s = .next t ∧ PortOnly p s t ∧ bit (t.oport p).rxReady l = false
      ∧ bit (t.oport p).rxRemove l = true ∧ t.rxMap p = (if setBit o.rxReady l false = 0 then 0 else s.rxMap p) ∧ ((t.oport p).lane l).stage = 1
    let cur := o.announced.getD (s.txMap p)
    let want := ((cur ||| o.pReady) &&& ~~~ o.pRemove &&& ~~~ o.drop) &&& s.sources i
    let lately (t : Option W64) : Prop := ∃ e, t = some e ∧ (s.time - e).toNat < 26214
    (∃ t fs, exec (.identityBoundary p) s = .next t ∧ PortOnly p s t ∧ t.out.getLast? = some (.identity p fs)
        ∧ (t.oport p).announced = (if want = cur then none else some want) ∧ (t.oport p).seq = o.seq + 1
        ∧ (s.minLanes p ≤ popcount cur → s.minLanes p ≤ popcount (s.rxMap p) → t.txMap p = cur ∧ t.portUp p = true)
        ∧ fs.length = 8 ∧ ∀ j, j < 8 → ∃ g, fs[j]? = some g ∧ g.magic = 0x4C414E45 ∧ g.fabricId = s.self ∧ g.port = p ∧ g.lane = j
          ∧ g.txMap = t.txMap p ∧ g.nextMap = ((t.oport p).announced.getD (t.txMap p)) ∧ g.rxReady = o.rxReady ∧ g.rxRemove = o.rxRemove
          ∧ g.retuneReq = o.retune ∧ g.remoteFault = o.fault ∧ g.crc = g.check)
    ∧ (f.crc = f.check → f.magic = 0x4C414E45 → f.lane = l → s.idExpected p f = true → f.fanout = false → f.retuneReq = 0 →
        ∃ t, exec (.identityFlitRx p l f) s = .next t ∧ PortOnly p s t ∧ (t.oport p).pTx = f.txMap ∧ (t.oport p).pNext = f.nextMap
          ∧ (t.oport p).pReach = f.reach ∧ (t.oport p).pFault = f.remoteFault ∧ (t.oport p).pReady = f.rxReady &&& s.sources i
          ∧ (t.oport p).pRemove = f.rxRemove ∧ ((t.oport p).lane l).missing = 0 ∧ ((t.oport p).lane l).good = x.good + 1
          ∧ ((t.oport p).lane l).goodAt = some s.time ∧ t.rf r 0 16 = f.fabricId.toNat ∧ t.rf r 16 5 = f.port % 32)
    ∧ (f.crc ≠ f.check → (lately x.goodAt → exec (.identityFlitRx p l f) s = .next s)
        ∧ (¬ lately x.goodAt → exec (.identityFlitRx p l f) s = exec (.identityFlitMissing p l) (lane (fun x => { x with badAt := some s.time }) s)))
    ∧ (f.crc = f.check → bit o.rxReady l = true → (f.magic ≠ 0x4C414E45 ∨ f.lane ≠ l)
        ∨ (s.idExpected p f = false ∧ ∃ j, j < 8 ∧ j ≠ l ∧ (o.lane j).wrong = false) → removes (.identityFlitRx p l f))
    ∧ (f.crc = f.check → f.magic = 0x4C414E45 → f.lane = l → s.idExpected p f = false → (∀ j, j < 8 → j ≠ l → (o.lane j).wrong = true) →
        p ∉ s.trainQ → ∃ t, exec (.identityFlitRx p l f) s = .next t ∧ ((∀ q ∈ s.trainQ, q / 8 ≠ i) → PortOnly p s t) ∧ t.rf r 61 3 = 1 ∧ t.rf r 58 3 = 2
          ∧ t.rf r 0 16 = f.fabricId.toNat ∧ t.rf r 16 5 = f.port % 32)
    ∧ (x.missing < 2 → exec (.identityFlitMissing p l) s
        = .next (lane (fun x => { x with missing := x.missing + 1, good := 0 }) (s.bump (rPort p 0x10) 32 16 1)))
    ∧ (2 ≤ x.missing → bit o.rxReady l = true → removes (.identityFlitMissing p l))
    ∧ (∀ n, n ≤ 15 → exec (.codewordRx p l n false) s = .next (s.bump (rPort p 0x18) 0 64 n))
    ∧ (∀ n, x.uncorr < 3 → exec (.codewordRx p l n true) s
        = .next (lane (fun x => { x with uncorr := x.uncorr + 1 }) (s.bump (rPort p 0x10) 48 16 1)))
    ∧ (∀ n, 3 ≤ x.uncorr → bit o.rxReady l = true → removes (.codewordRx p l n true))
    ∧ (∀ e n, let t := lane (fun x => { x with uncorr := 0 }) (s.setRf (rPort p (0x40 + 8 * l)) 25 8 (serField e n))
        let k := 128 * i + (64 + 8 * (p % 8) + l)
        (24 * n < e * 100000 → bit o.rxReady l = true → removes (.serWindow p l e n))
        ∧ (n ≤ e * 100000 → e * 100000 ≤ 24 * n → x.asked = false → exec (.serWindow p l e n) s
          = .next (({ t with recalDue := if k ∈ s.recalDue then s.recalDue else k :: s.recalDue }).modPort p fun o =>
              ({ o with retune := setBit o.retune l true }).modLane l fun x => { x with asked := true }))
        ∧ (n ≤ e * 100000 → e * 100000 ≤ 24 * n → x.asked = true → exec (.serWindow p l e n) s = .next t)
        ∧ (e * 100000 < n → exec (.serWindow p l e n) s
          = .next (t.modPort p fun o => ({ o with retune := if x.asked then setBit o.retune l false else o.retune }).modLane l fun x =>
              { x with asked := false })))
    ∧ (∀ a b, (a = 1 ∧ b = 2) ∨ (a = 2 ∧ b = 3) ∨ (a = 4 ∧ b = 5) → x.stage = a → exec (.laneVerifyTimeout p l) s
        = .next ((s.modPort p fun o => ({ o with retune := if b = 2 then setBit o.retune l true else o.retune }).modLane l fun x =>
            { x with stage := b, good := 0 }).laneStats p))
    ∧ (x.stage = 3 → exec (.laneSweepDone p l) s = .next ((lane (fun x => { x with stage := 4, good := 0 }) s).laneStats p))
    ∧ (x.stage = 5 → exec (.laneRetry p l) s = .next ((lane (fun x => { x with stage := 1, good := 0 }) s).laneStats p))

/-- Rings, lasers and meshes of a mounted I/O die i (R282 to R285, R287, R289, R295). The model temperature sets every ring's heater from its
table and makes due the rings that have moved too far from their last calibration, as are those whose period has passed; a calibration
corrects the table by at most 8 codes; a spare laser takes the place of one that fails, whose lane leaves every transmit map of the die and whose modulator rings are due; two
short-reach ports at full width take a fan-out and its end gives them back their own inputs, each while the mesh settles; then no port of
the die waits. -/
def Obligations.OpticalRings : Prop :=
  ∀ (i : Nat) (s : State), s.hasIo i = true →
    let r := rOpt i 0
    let heater (k : Nat) : Nat × Nat := (rOpt i (0x1040 + 0x100 * (k % 64 / 8) + 8 * (k % 8)), if k < 64 then 47 else 33)
    let temp := Tab.get 0 (64 * (4 + i)) s.therm.nodes
    let dt := s.rf (rOpt i 0x20) 8 8
    (s.rf r 29 3 ≠ 0 → s.rf r 29 3 ≠ 4 → ∀ elapsed, ∃ t, exec (.heaterUpdate i elapsed) s = .next t
        ∧ { t with regs := s.regs, freeIx := s.freeIx, recalDue := s.recalDue } = s ∧ t.rf r 0 11 = Nat.min 2047 temp
        ∧ (∀ o, o ≠ r → (∀ k, k < 128 → o ≠ (heater k).1) → t.reg o = s.reg o)
        ∧ (∀ k, k < 128 → ∃ b, t.rf (heater k).1 (heater k).2 14 = s.heaterAt i k temp b)
        ∧ ∀ n, n ∈ t.recalDue ↔ (n ∈ s.recalDue ∨ (128 * i ≤ n ∧ n < 128 * i + 128 ∧ (n - 128 * i ∈ elapsed
            ∨ (dt ≠ 0 ∧ 4 * dt < (temp - Tab.get 0 n s.heatTemp) + (Tab.get 0 n s.heatTemp - temp))))))
    ∧ (∀ k, k < 128 → (let st := ((s.oport (8 * i + k % 64 / 8)).lane (k % 8)).stage; k < 64 ∨ st = 0 ∨ st = 5) → 128 * i + k ∉ s.recalling →
        (s.recalling.filter fun n => n / 128 == i).length < 8 → exec (.ringRecalStart i k) s =
          .next { s with recalling := (128 * i + k) :: s.recalling, recalDue := s.recalDue.filter (· != 128 * i + k) })
    ∧ (∀ k best, k < 128 → 128 * i + k ∈ s.recalling → best < 16384 →
        let n := Nat.min 90 (temp / 8 - 20)
        let cur : Int := (Config.heater (128 * i + k) n).toNat + Tab.get 0 ((128 * i + k) * 128 + n) s.heatMove
        ∃ t, exec (.ringRecalDone i k best) s = .next t
          ∧ { t with regs := s.regs, freeIx := s.freeIx, heatMove := s.heatMove, recalling := s.recalling, heatTemp := s.heatTemp,
                     recalDue := s.recalDue } = s
          ∧ 128 * i + k ∉ t.recalling ∧ Tab.get 0 (128 * i + k) t.heatTemp = temp
          ∧ (∀ o, o ≠ (heater k).1 → t.reg o = s.reg o)
          ∧ (∃ b, t.rf (heater k).1 (heater k).2 14 = t.heaterAt i k temp b)
          ∧ (let d := Tab.get 0 ((128 * i + k) * 128 + n) t.heatMove - Tab.get 0 ((128 * i + k) * 128 + n) s.heatMove
             ((best : Int) - cur < -8 → d = -8 ∧ 128 * i + k ∈ t.recalDue) ∧ (8 < (best : Int) - cur → d = 8 ∧ 128 * i + k ∈ t.recalDue)
             ∧ (-8 ≤ (best : Int) - cur → (best : Int) - cur ≤ 8 → d = best - cur ∧ t.recalDue = s.recalDue))
          ∧ ∀ j, j ≠ (128 * i + k) * 128 + n → Tab.get 0 j t.heatMove = Tab.get 0 j s.heatMove)
    ∧ (∀ laser, laser < 8 → s.rbit r (21 + laser) = false → Tab.get none i s.fan = none → s.rbit (rOpt i 8) 26 = false → s.rbit (rOpt i 8) 22 = false →
        ∃ t, exec (.laserFail i laser [true]) s = .next t ∧ Net s t ∧ t.rbit r (21 + laser) = true ∧ t.rbit (rOpt i 8) 26 = true
          ∧ t.rf (rOpt i 8) 23 3 = laser
          ∧ ∀ q, q < 8 → bit (t.oport (8 * i + q)).drop laser = true ∧ 128 * i + 8 * q + laser ∈ t.recalDue)
    ∧ (∀ p q, p / 8 = i → q / 8 = i → p ≠ q →
        let ready (p : Nat) : Prop := s.portUp p = true ∧ s.rbit (rPort p 0) 57 = true ∧ (s.oport p).pReach = true ∧ s.txMap p = 0xFF
          ∧ ∀ e, (s.oport p).fanEnd = some e → 100000 ≤ (s.time - e).toNat
        let out := s.rf (rPort q 0) 52 4
        (Tab.get none i s.fan = none → ready p → ready q → ∀ g, g < 16 → s.fanWanted g i p q = true → exec (.fanoutRequest g i p q) s = .next
            ((((({ s with fan := Tab.put none i (some (p, q)) s.fan, meshWait := p :: q :: s.meshWait }).setRbit (rPort p 0) 56 true).setRbit
              (rPort q 0) 56 true).setRf (rOpt i 0x10) (5 * out) 4 (p % 8)).bump (rCol (0x100 * g + 0x28)) 0 16 1))
        ∧ (∀ g, ¬ (g < 16 ∧ s.fanWanted g i p q = true ∧ Tab.get none i s.fan = none ∧ ready p ∧ ready q) → exec (.fanoutRequest g i p q) s = .next s)
        ∧ (Tab.get none i s.fan = some (p, q) → ∃ t, exec (.fanoutEnd i) s = .next t
            ∧ { t with regs := s.regs, oports := s.oports, fan := s.fan, meshWait := s.meshWait } = s
            ∧ Tab.get none i t.fan = none ∧ t.meshWait = p :: q :: s.meshWait
            ∧ (t.oport p).fanEnd = some s.time ∧ (t.oport q).fanEnd = some s.time
            ∧ t.rbit (rPort p 0) 56 = false ∧ t.rbit (rPort q 0) 56 = false ∧ (out < 10 → t.rf (rOpt i 0x10) (5 * out) 4 = q % 8)
            ∧ (∀ o, o ≠ rPort p 0 → o ≠ rPort q 0 → o ≠ rOpt i 0x10 → t.reg o = s.reg o)
            ∧ ∀ j, j ≠ p → j ≠ q → t.oport j = s.oport j))
    ∧ (∃ t, exec (.meshSettle i) s = .next t ∧ Fab { s with meshWait := s.meshWait.filter fun p => p / 8 != i } t
        ∧ t.meshWait = s.meshWait.filter fun p => p / 8 != i)
    ∧ ((∀ p ∈ s.meshWait, p / 8 = i → s.portUp p = false) →
        exec (.meshSettle i) s = .next { s with meshWait := s.meshWait.filter fun p => p / 8 != i })

/-- Frames at a port p of a mounted die (R276, R293, R299 to R301, R304 to R306, R309, R312, R313, R316). A frame that breaks no rule, on
lanes the receiver has verified, spends the credits it was granted, waits in its input buffer and enters the router, whose frames cross to
another I/O die when they must; one that breaks a rule is counted and answered by a VNOTICE; a credit flit only returns credits. The frame
that arbitration chooses leaves with hops one less, dealt over the lanes of the map, and spends the credits of its channel; one that has
waited 1 ms is dropped. A FAULT newer than the last of its origin is logged, and its link counts as dead, or as live again. A second with few violations brings the end of a quarantine
nearer, CLR_QUAR ends it at once, and a VNOTICE is consumed. -/
def Obligations.FabricFrames : Prop :=
  ∀ (p slot : Nat) (f : Frame) (k : Packet) (s : State), s.hasPort p = true →
    let r := rFabPort p
    let hall := s.rf r 61 3 == 5
    let i := 8 * p + f.vc
    let t := s.takeCredits p f
    let held := { t with granted := Tab.upd 0 i (· - f.nflit) t.granted, occ := Tab.upd 0 i (· + f.nflit) t.occ }
    let fr : RFrame := ⟨p, f.vc, hall, s.time, f.packet⟩
    let n := Tab.get 0 p s.violNow
    let quiet := { s with violNow := Tab.put 0 p 0 s.violNow }
    let free (s : State) := (((({ s with quiet := Tab.put 0 p 0 s.quiet }).setRbit r 60 false).mapChange).journalOpen 0x51 2 6 p)
    (s.portUp p = true → s.quar p = false → f.bad = false →
      (s.flitsGood p slot f.nflit = true → f.type = 1 → s.violation p f = none →
        (f.packet.hops = 0 → exec (.frameRx ⟨p, slot⟩ f) s = .next (held.release fr))
        ∧ (f.packet.hops ≠ 0 → ¬ (f.packet.kind = 11 ∧ f.packet.dst = s.self) →
          (s.route f.packet hall = .here → exec (.frameRx ⟨p, slot⟩ f) s
            = .next (({ held with arrived := s.arrived ++ [(s.endpointOf f.packet, f.packet)] }).release fr).cross)
          ∧ (∀ ports q, s.route f.packet hall = .out ports q → exec (.frameRx ⟨p, slot⟩ f) s
            = .next ({ held with router := s.router ++ [fr] }).cross)
          ∧ (s.route f.packet hall = .drop → exec (.frameRx ⟨p, slot⟩ f) s = .next (held.release fr).cross)))
      ∧ (∀ c, s.flitsGood p slot (if f.type = 1 then f.nflit else 1) = true → f.type ≠ 0 → s.violation p f = some c → n < 1000 →
          exec (.frameRx ⟨p, slot⟩ f) s = .next ((({ (if c = 1 then s else t) with violNow := Tab.put 0 p (n + 1) s.violNow } : State).bump r 0 32 1).sendVc0
            (p / 8) 10 (bits (s.reg (rPort p 0)) 0 16) 0 (c * 2 ^ 120 + p * 2 ^ 115) f.first64))
      ∧ (s.flitsGood p slot 1 = true → f.hcrc = ({ f with type := 2 } : Frame).check → exec (.creditFlitRx ⟨p, slot⟩ f) s = .next t)
      ∧ (s.flitsGood p slot (if f.type = 1 then f.nflit else 1) = false → exec (.frameRx ⟨p, slot⟩ f) s = .next s))
    ∧ (∀ z : State, (∀ g ∈ z.router, z.crossing g = none) → z.cross = z)
    ∧ (∀ fr ports q, s.portUp p = true → p ∉ s.meshWait → Tab.get none (p / 8) s.fan = none → s.quar p = false → s.router = [fr] → fr.inp < 36 →
        fr.io = p / 8 → s.late fr = false →
        s.route fr.k fr.hall = .out ports q → q.pick ports = p → flitsOf q.len ≤ Tab.get 0 (8 * p + q.vc) s.txCred →
        (let a := Tab.get Arb.reset p s.arb
         q.pclass = 0 ∨ (q.pclass = a.cur % 5 + 1 ∧ flitsOf q.len ≤ nth 0 a.deficit (a.cur % 5))) →
        ∃ t z, exec (.frameSend ⟨p, slot⟩) s = .next t ∧ Fab { s with arb := t.arb } t ∧ t.router = []
          ∧ z.packet = { q with hops := q.hops - 1 } ∧ z.type = 1 ∧ z.vc = q.vc ∧ z.nflit = flitsOf q.len ∧ z.hcrc = z.check
          ∧ (32 ≤ fr.inp → t.out = s.out ++ [.frame p (dealt (s.txMap p) ((s.oport p).announced.getD (s.txMap p)) slot (flitsOf q.len)) z])
          ∧ Tab.get 0 (8 * p + q.vc) t.txCred = Tab.get 0 (8 * p + q.vc) s.txCred - flitsOf q.len)
    ∧ (∀ ix x, (((List.range s.router.length).zip s.router).filter fun x => x.2.inp == p)[ix]? = some x →
        exec (.frameAgeDrop p ix) s = .next ((({ s with router := s.router.eraseIdx x.1 }).release x.2).cross))
    ∧ (let pos := fidPos k.src
       let fseq := fld k.body 112 16
       k.kind = 11 → k.src ≠ s.self → k.crc = k.check →
       ((∀ o, Tab.get none pos s.fseqSeen = some o → let d := (fseq + 65536 - o) % 65536; 0 < d ∧ d < 32768) → s.rbit (rFab 0x100) 63 = false →
         ∃ t, exec (.fault p k) s = .next t ∧ Fab { s with fseqSeen := Tab.put none pos (some fseq) s.fseqSeen } t
           ∧ t.reg (rFab 0x100) = BitVec.ofNat 64 (2 ^ 63 + (bit k.body 108).toNat * 2 ^ 62 + fld k.body 109 3 * 2 ^ 59
               + fld k.body 102 6 * 2 ^ 53 + fseq * 2 ^ 16 + k.src.toNat)
           ∧ (⟨pos, fld k.body 109 3, fld k.body 102 6⟩ ∈ t.deadLinks ↔ bit k.body 108 = false))
       ∧ (Tab.get none pos s.fseqSeen = some fseq → exec (.fault p k) s = .next s))
    ∧ (k.kind = 11 → k.crc ≠ k.check → exec (.fault p k) s = .next s)
    ∧ (s.quar p = false → exec (.violInterval p) s = .next quiet ∧ exec (.clrQuar p) s = .next s)
    ∧ (s.quar p = true → exec (.clrQuar p) s = .next (free s)
        ∧ (n < 10 → Tab.get 0 p s.quiet < 9 → exec (.violInterval p) s = .next { quiet with quiet := Tab.put 0 p (Tab.get 0 p s.quiet + 1) s.quiet })
        ∧ (n < 10 → 9 ≤ Tab.get 0 p s.quiet → exec (.violInterval p) s = .next (free quiet))
        ∧ (10 ≤ n → exec (.violInterval p) s = .next { quiet with quiet := Tab.put 0 p 0 s.quiet }))
    ∧ exec (.vnotice (p / 8) k) s = .next { s with arrived := s.arrived.erase (p / 8, k) }

/-- Sequenced packets at the endpoint of a mounted I/O die io (R302, R303, R307 to R309, R311). With room in its window a packet leaves in its
stream; a destination without a route loses it. At the destination a packet is delivered in order, held ahead of it, acknowledged again,
discarded for its checksum, or answered by a NACK. An ACK releases what it covers and marks what it names; a NACK counts, and one for an
unknown stream starts it again; the resend timeout repeats a packet until its resends are spent; the ACK timer answers what has come since
the last ACK; an idle entry is freed, and with a receive entry for requests the replies cached for that requester (R327). -/
def Obligations.FabricStreams : Prop :=
  ∀ (io : Nat) (k : Packet) (key : StreamKey) (s : State), s.hasIo io = true →
    let no := streamNo io key
    let tno := streamNo io { key with unit := 0 }
    let rno := streamNo io ⟨k.src, k.srcIo, k.pclass, k.dstIo⟩
    let ano (c : Nat) := streamNo io ⟨k.src, k.srcIo, c, 0⟩
    let stop := if fidDial k.dst ≠ fidDial s.self && !hallClass k.pclass then some 3 else s.noRoute k.dst
    let got := { s with arrived := s.arrived.erase (io, k) }
    let legal := sequenced k = true ∧ k.len ≤ 4096 ∧ k.payload.length = k.len
    let mine : Packet := { k with src := s.self, srcIo := io, hops := 255, phase := 0, wpv := false, wpy := 0, wpx := 0 }
    let out (x : TxStream) (k : Packet) : Packet := ({ k with seq := x.next, syn := x.syn }).closed
    let send (x : TxStream) (k : Packet) (s : State) : State := { ((s.bump (rFabEp io 0) 0 64 1).injectRaw io (out x k)) with
      fabTx := Tab.put none (streamNo io ⟨k.dst, k.dstIo, k.pclass, 0⟩) (some { x with next := x.next + 1, sent := x.sent ++ [⟨out x k, 0, false, .none⟩], waiting := [] })
        ((s.bump (rFabEp io 0) 0 64 1).injectRaw io (out x k)).fabTx }
    let again (k : Packet) (s : State) : State :=
      (s.bump (rFabEp io 0x10) 0 64 1).injectRaw io { k with hops := 255, phase := 0, wpv := false, wpy := 0, wpx := 0 }
    (∀ c, legal → stop = some c → exec (.packetInject io k) s = .next (s.pktLost io mine c))
    ∧ (∀ x, legal → stop = none → s.pwrFail = false → Tab.get none (streamNo io ⟨k.dst, k.dstIo, k.pclass, 0⟩) s.fabTx = some x →
        x.live = true → x.waiting = [] → (x.sent.filter fun q => !q.acked).length < s.window k.pclass →
        exec (.packetInject io k) s = .next (send x mine s))
    ∧ (k.dst = s.self → k.src ≠ s.self → sequenced k = true →
        (k.crc ≠ k.check → exec (.packetArrive io k) s = .next got)
        ∧ (k.crc = k.check →
          (Tab.get none rno s.fabRx = none → k.syn = false → exec (.packetArrive io k) s = .next (got.sendNack io k 2))
          ∧ (Tab.get none rno s.fabRx = none → k.syn = true → s.rxLive io < 8192 → got.engineRoom io k = true → exec (.packetArrive io k) s
              = .next ((({ got.bump (rFabEp io 8) 0 64 1 with fabRx := Tab.put none rno (some ⟨k.seq + 1, [], 1⟩) s.fabRx }).epStreams io).handOn io k))
          ∧ (∀ x, Tab.get none rno s.fabRx = some x → x.held = [] → got.engineRoom io k = true →
              (k.seq = x.cum → x.since < 15 → exec (.packetArrive io k) s
                = .next (({ got.bump (rFabEp io 8) 0 64 1 with fabRx := Tab.put none rno (some ⟨x.cum + 1, [], x.since + 1⟩) s.fabRx }).handOn io k))
              ∧ (0 < seqDist k.seq x.cum → seqDist k.seq x.cum < 64 → x.since < 15 → exec (.packetArrive io k) s
                = .next { got.bump (rFabEp io 8) 0 64 0 with fabRx := Tab.put none rno (some ⟨x.cum, [k], x.since + 1⟩) s.fabRx })
              ∧ (2 ^ 31 ≤ seqDist k.seq x.cum → exec (.packetArrive io k) s
                = .next ((got.bump (rFabEp io 0x18) 0 64 1).sendAck io ⟨k.src, k.srcIo, k.pclass, k.dstIo⟩ x)))))
    ∧ (∀ x, k.kind = 8 → k.crc = k.check → Tab.get none (ano (fld k.body 29 3)) s.fabTx = some x → x.waiting = [] →
        seqDist x.next (bits k.body 96 32) ≤ 64 →
        let below (q : TxPkt) : Bool := 0 < seqDist (bits k.body 96 32) q.k.seq && seqDist (bits k.body 96 32) q.k.seq < 2 ^ 31
        let named (q : TxPkt) : Bool := 0 < seqDist q.k.seq (bits k.body 96 32) && seqDist q.k.seq (bits k.body 96 32) ≤ 64
          && bit (bits k.body 32 64 : BitVec 64) (seqDist q.k.seq (bits k.body 96 32) - 1)
        (∀ q ∈ x.sent, below q = true → q.client = .none ∧ q.k.kind ≠ 1 ∧ q.k.kind ≠ 6) → exec (.ack io k) s = .next { got with
          fabTx := Tab.put none (ano (fld k.body 29 3)) (some { x with syn := false, waiting := [], sent := (x.sent.filter fun q => !below q).map fun q => if named q then { q with acked := true } else q }) s.fabTx })
    ∧ (k.kind = 9 → k.crc = k.check → (fld k.body 88 8 = 1 → exec (.nack io k) s = .next (got.bump (rFabEp io 0x28) 32 16 1))
        ∧ ∀ x q rest, fld k.body 88 8 = 2 → Tab.get none (ano (fld k.body 85 3)) s.fabTx = some x → x.sent = q :: rest → q.acked = false →
          (∃ y ∈ x.sent, y.k.seq = bits k.body 96 32) →
          let q' := ({ q.k with syn := true }).closed
          exec (.nack io k) s = .next (again q' { got.bump (rFabEp io 0x28) 0 16 1 with
            fabTx := Tab.put none (ano (fld k.body 85 3)) (some { x with sent := { q with k := q' } :: rest }) s.fabTx }))
    ∧ ((k.kind = 8 ∨ k.kind = 9) → k.crc ≠ k.check → exec (.ack io k) s = .next got ∧ exec (.nack io k) s = .next got)
    ∧ (∀ x q, Tab.get none tno s.fabTx = some x → x.sent = [q] → q.acked = false →
        (q.resends < Nat.max 1 (s.rf (rFab 0x18) 32 8) → exec (.resendTimeout io key q.k.seq) s = .next (again q.k
          { s with fabTx := Tab.put none tno (some { x with sent := [{ q with resends := q.resends + 1 }] }) s.fabTx }))
        ∧ (Nat.max 1 (s.rf (rFab 0x18) 32 8) ≤ q.resends → x.waiting = [] → q.client = .none → q.k.kind ≠ 1 → q.k.kind ≠ 5 → q.k.kind ≠ 6 →
          exec (.resendTimeout io key q.k.seq) s = .next { s.pktLost io q.k 1 with
            fabTx := Tab.put none tno (some { x with sent := [], waiting := [] }) (s.pktLost io q.k 1).fabTx }))
    ∧ (∀ x, Tab.get none no s.fabRx = some x → (x.since = 0 → exec (.ackTimer io key) s = .next s)
        ∧ (0 < x.since → exec (.ackTimer io key) s = .next (s.sendAck io key x))
        ∧ (x.held = [] → exec (.streamEntryExpiry io false key) s = .next (({ s with
          fabRx := Tab.put none no none s.fabRx,
          replies := s.replies.filter fun r => !((key.pclass == 1 || key.pclass == 5) && r.io == io && r.fid == key.fid && r.srcIo == key.io
            && r.unit == key.unit) }).epStreams io))
        ∧ (x.held ≠ [] → exec (.streamEntryExpiry io false key) s = .next s))
    ∧ ∀ x, Tab.get none tno s.fabTx = some x → x.waiting = [] → (∀ q ∈ x.sent, q.acked = true) →
        (∀ y ∈ Tab.put none tno none s.fabTx, ∀ z, y.2 = some z → z.live = true) →
        exec (.streamEntryExpiry io true key) s = .next (({ s with fabTx := Tab.put none tno none s.fabTx }).epStreams io)

/-- The home of a mounted I/O die io (R321 to R331, R334 to R336), and INV_ALL (R332). A request joins the queue of its lines; a PROBE, one
of another epoch, and a repeated one whose reply is kept are answered at once. The head of a line's queue is applied when it is the oldest
request of the unit, and outside Midnight: a read, a store and an atomic, each answered when no part is left; otherwise it waits. A trigger sets registers, a semaphore and a chime of its core; a message takes the next slot
of its queue, with the count at its arrival; INV_ALL empties a die's cache. -/
def Obligations.RemoteHome : Prop :=
  ∀ (io line : Nat) (k : Packet) (h : HomeReq) (s : State), s.hasIo io = true →
    let got := { s with arrived := s.arrived.erase (io, k) }
    let acked := { got with replies := s.replies.filter fun r =>
      !(r.io == io && r.fid == k.src && r.srcIo == k.srcIo && r.unit == k.dstIo) || (r.rid + 65536 - fld k.body 64 16) % 65536 < 32768 }
    let op := qOp k
    let a := qAddr h.k
    let lo := Nat.max a (64 * line)
    let m := Nat.min (a + qLen h.k) (64 * line + 64) - lo
    let head := (s.homeQ.filter fun h => h.io == io && hasNat h.lines line) = [h] ∧ (s.homeQ.find? fun h => h.io == io) = some h
    let upd (h' : HomeReq) := fun x => if x = h then h' else x
    let ep := fld k.body 120 8
    let base := s.rf (rMq ep 0) 0 43 / 4096 * 4096
    let tail := s.rf (rMq ep 0x10) 0 32
    let slot := 64 * 2 ^ s.rf (rMq ep 8) 16 3
    (k.kind = 1 → s.homeRoom io = true →
      (op = 0x20 → exec (.req io k) s = .next (acked.sendReply io (acked.replyTo k 0 false 0 [])))
      ∧ (op = 0 ∨ op = 1 ∨ isAtomic op = true →
        (fld k.body 80 16 ≠ 0 → fld k.body 80 16 ≠ s.epoch → exec (.req io k) s = .next (acked.sendReply io (acked.replyTo k 0x52 false 0 [])))
        ∧ (fld k.body 80 16 = 0 ∨ fld k.body 80 16 = s.epoch →
          (bit k.body 118 = false ∨ op = 0 → linesOf (qAddr k) (qLen k) ≠ [] → exec (.req io k) s
            = .next { acked with homeQ := s.homeQ ++ [⟨io, k, linesOf (qAddr k) (qLen k), [], 0, false, [], false, 0⟩] })
          ∧ (∀ r, bit k.body 118 = true → op ≠ 0 →
              (acked.replies.find? fun r => r.io == io && r.fid == k.src && r.srcIo == k.srcIo && r.unit == k.dstIo && r.rid == qRid k) = some r →
              exec (.req io k) s = .next ((acked.bump (rRsb io 0x10) 0 16 1).sendReply io { r.k with body := setBit r.k.body 113 true })))))
    ∧ (s.midnight = false → head → s.homeHole lo = false → s.poisoned lo = false →
      (qOp h.k = 0 → h.lines = [line] → h.bad = false → h.sick = [] →
        let h' := { h with lines := [], segs := h.segs ++ [(lo, s.read lo m)] }
        exec (.lineApply io line false) s = .next (({ s with homeQ := s.homeQ.map (upd h') }).homeFinish h'))
      ∧ (qOp h.k = 1 → h.lines = [line] →
        let h' := { h with lines := [] }
        let t := s.store lo ((h.k.payload.drop (lo - a)).take m) false
        exec (.lineApply io line false) s = .next (({ t with homeQ := t.homeQ.map (upd h') }).homeFinish h'))
      ∧ (∀ l rest, qOp h.k = 0 → h.lines = [line, l] ++ rest → line ∉ l :: rest → h.bad = false → h.sick = [] →
          exec (.lineApply io line false) s = .next { s with homeQ := s.homeQ.map (upd { h with
            lines := l :: rest, segs := h.segs ++ [(lo, s.read lo m)] }) })
      ∧ (isAtomic (qOp h.k) = true → h.lines = [line] → h.bad = false → h.sick = [] → lo = a →
          let n := if bit h.k.body 121 then 8 else 4
          let old := s.readN a n
          let t := s.store a (toBytes n (atomicNew (qOp h.k) (8 * n) old (ofBytes (h.k.payload.take n)) (ofBytes ((h.k.payload.drop 8).take n)))) false
          let h' := { h with lines := [], old := BitVec.ofNat 64 old }
          exec (.lineApply io line false) s = .next (({ t with homeQ := t.homeQ.map (upd h') }).homeFinish h')))
    ∧ (∀ h h', (s.homeQ.filter fun h => h.io == io && hasNat h.lines line) = [h] → (s.homeQ.find? fun h => h.io == io) = some h' → h' ≠ h →
        exec (.lineApply io line false) s = .next s)
    ∧ (s.midnight = true → exec (.lineApply io line false) s = .next s)
    ∧ (k.kind = 4 →
        (s.hasCore (fld k.body 122 6) = true → exec (.trigDeliver io k) s = .next (got.trigger (fld k.body 122 6)
          ((List.range (Nat.min 8 (fld k.body 113 4))).map fun i => BitVec.ofNat 64 (ofBytes ((k.payload.drop (8 * i)).take 8)))
          (fld k.body 117 5) (fld k.body 107 6) (fld k.body 103 4)))
        ∧ (s.hasCore (fld k.body 122 6) = false → exec (.trigDeliver io k) s = .next (got.bump (rRsb io 0x20) 0 32 1)))
    ∧ (k.kind = 3 → ep < 0xF0 → ∀ age,
        (s.rbit (rMq ep 8) 31 = true → 64 + k.len ≤ slot → s.rbit (rMq ep 8) 30 = false →
          (tail + 2 ^ 32 - s.rf (rMq ep 0x18) 0 32) % 2 ^ 32 < s.mqSlots ep → exec (.msgDeliver io k age) s =
            .next ((got.store (base + (tail % s.mqSlots ep) * slot) (slotHeader k (s.time - age) ++ k.payload.take k.len) false).setRf (rMq ep 0x10) 0 32 (tail + 1)))
        ∧ (s.rbit (rMq ep 8) 31 = false ∨ slot < 64 + k.len → exec (.msgDeliver io k age) s = .next (got.bump (rRsb io 0x20) 0 32 1)))
    ∧ ∀ d, s.hasDie d = true → exec (.invAll d) s = .next { s with rlc := s.rlc.filter fun x => x.die != d }

/-- The requester of a mounted I/O die io (R323, R327 to R330), where no other request of the same home waits to be sent. A reply ends the
request it matches: its epoch is learned, a store or atomic is done, a read writes what it brought to the core store; a reply from a new
epoch ends a store or atomic INDETERMINATE and empties the cache of that package; one that matches nothing is counted. After its reissue
timeout a request is sent again, and given up once its reissues are spent. -/
def Obligations.RemoteRequester : Prop :=
  ∀ (io : Nat) (k : Packet) (q : RsbReq) (s : State), s.hasIo io = true →
    let got := { s with selfRsp := s.selfRsp.erase (io, k), arrived := s.arrived.erase (io, k) }
    let ep : BitVec 16 := bits k.body 80 16
    let learned := if ep = 0 ∨ q.fid = s.self then got else { got with epochs := Tab.put 0 (1024 * io + fidPos q.fid) ep s.epochs }
    let ended := { learned with rsbOut := s.rsbOut.erase q }
    let status := fld k.body 114 8
    (k.kind = 2 →
      (s.asked io k = none → exec (.rsp io k) s = .next (got.bump (rRsb io 0x20) 0 32 1))
      ∧ (s.asked io k = some q → (∀ x ∈ s.rsbOut.erase q, x.key = q.key ∨ x.key / 4 = q.io * 65536 + q.fid.toNat → x.sent = true) →
        (q.op = 0x20 → (status = 0 ∨ status = 0x30 ∨ status = 0x52) → exec (.rsp io k) s = .next ended)
        ∧ (q.op ≠ 0x20 → status = 0 → q.client = .none → exec (.rsp io k) s = .next ended)
        ∧ (∀ c n, q.op = 1 → status = 0 → q.client = .cx c n → exec (.rsp io k) s = .next (ended.finish c n 0 .none))
        ∧ (∀ c n j, q.op = 0 → status = 0 → q.client = .cx c n → s.rldJobs = [j] → j.core = c → j.seq = n → j.install = false → j.bad = false →
            (∀ x ∈ s.rsbOut.erase q, x.client ≠ .cx c n) → exec (.rsp io k) s = .next ((({ ended with rldJobs := [] }).ownWrite c j.off
              (segBytes (j.segs ++ [(q.addr, k.payload.take k.len)]) j.addr j.len)).finish c n 0 .none))
        ∧ (q.op ≠ 0 → q.op < 0x20 → status = 0x52 → q.client = .none → exec (.rsp io k) s
            = .next (({ learned.forgetPos io q.fid with rsbOut := s.rsbOut.erase q }).bump (rRsb q.io 0x18) 0 32 1))))
    ∧ (∀ fid x, x ∈ (s.forgetPos io fid).rlc ↔ x ∈ s.rlc ∧ (x.die < 4 → s.ioOf x.die = io → x.pos ≠ fidPos fid))
    ∧ (∀ q ∈ s.rsbOut, q.sent = true → q.io = io → q.fid = k.src → q.hio = k.srcIo → q.rid = qRid k →
        (∀ x ∈ s.rsbOut, x.sent = true → x.io = io → x.fid = k.src → x.rid = qRid k → x = q) → s.asked io k = some q)
    ∧ (s.rsbOut = [q] → q.sent = true → q.acked = true → q.io = io → q.fid ≠ s.self →
        let q' := { q with reissues := q.reissues + 1, acked := false }
        (q.reissues < s.rf (rRsb io 0) 0 3 → exec (.reissueTimeout io (q.fid.toNat * 4 + q.hio) q.rid) s = .next (({ s with rsbOut := [q'] }).reqSend q'))
        ∧ (s.rf (rRsb io 0) 0 3 ≤ q.reissues → q.client = .none → q.op < 0x20 → exec (.reissueTimeout io (q.fid.toNat * 4 + q.hio) q.rid) s
            = .next (if q.op = 0 then { s with rsbOut := [] } else ({ s with rsbOut := [] }).bump (rRsb io 0x18) 0 32 1)))

/-- Groups of collectives (R340 to R343, R352, R355, R363). A setup written while READY or SETTING_UP is rejected; in IDLE it latches the
registers; in ABORTED it tears the group down first. A teardown leaves the group IDLE. The table is read and checked: the cause of Table 2,
or READY. The first instruction that waits starts the next operation, and its elements are read; the operation at the head of its engine's
requests takes its slots. The group's timeout, counted from the last chunk or grant, ends the operation with PEER_ABSENT and the group is
ABORTED. -/
def Obligations.CollectiveGroups : Prop :=
  ∀ (g d : Nat) (s : State), g < 16 → d < 4 →
    let st := rGrp g 0x20
    let latched : ColGrp := ⟨s.rf (rGrp g 8) 0 43 / 64 * 64, s.rf (rGrp g 0x10) 0 8, s.rf (rGrp g 0x10) 8 8, s.rf (rGrp g 0x10) 16 8,
      s.rbit (rGrp g 0x18) 31, s.rbit (rGrp g 0x18) 30, s.rbit (rGrp g 0x18) 29, grpTimeout (s.rf (rGrp g 0x18) 0 16), s.rf (rGrp g 0x30) 0 12, []⟩
    let idle (t : State) (cause : Nat) : State :=
      (({ iter 4 (fun d t => t.colFlush g d 0x41) t with colGrps := Tab.put none g none t.colGrps } : State).setGrp g 0).setRf st 57 4 cause
    (s.grpState g = 1 ∨ s.grpState g = 2 → exec (.colSetup g) s = .next (s.setRbit st 56 true))
    ∧ (s.grpState g = 0 → exec (.colSetup g) s = .next (({ s with colGrps := Tab.put none g (some latched) s.colGrps }).setGrp g 1))
    ∧ (s.grpState g = 3 → ∀ t, exec (.colTeardown g) s = .next t → exec (.colSetup g) s = exec (.colSetup g) t)
    ∧ (∃ t, exec (.colTeardown g) s = .next t ∧ t.grpState g = 0 ∧ Tab.get none g t.colGrps = none ∧ t.site g d = ColSite.reset)
    ∧ (∀ grp, Tab.get none g s.colGrps = some grp →
      let n := grp.nx * grp.ny * grp.nz
      let nodes := (List.range n).map fun i => let w : BitVec 64 := BitVec.ofNat 64 (s.readN (grp.base + 8 * i) 8)
        (⟨bits w 0 16, fld w 16 2, bits w 32 16⟩ : ColNode)
      let full := { grp with nodes := nodes }
      let mine (d : Nat) : Prop := ∃ x ∈ nodes, x.fid = s.self ∧ x.die = d
      let unsound : Prop := (∃ x ∈ nodes, x.mask = 0 ∨ (x.fid = s.self ∧ s.hasDie x.die = false)) ∨ repeats nodes = true
      (s.grpState g = 1 →
        (n = 0 ∨ 16384 < n → exec (.colSetupDone g) s = .next (idle s 2))
        ∧ (0 < n → n ≤ 16384 → (∀ k ∈ blocksOf grp.base (8 * n), (∀ a b, region (4096 * k.1) ≠ .hbm a b) ∧ s.poisoned (4096 * k.1) = false) →
          (unsound → exec (.colSetupDone g) s = .next (idle s 3))
          ∧ (¬ unsound → (∀ d < 4, ¬ mine d) → exec (.colSetupDone g) s = .next (idle s 4))
          ∧ (¬ unsound → mine d → 65536 < full.n → exec (.colSetupDone g) s = .next (idle s 5))
          ∧ (¬ unsound → mine d → full.n ≤ 65536 → (∀ d < 4, (s.site g d).waiting = []) → ∃ t, exec (.colSetupDone g) s = .next t
            ∧ { t with regs := s.regs, colGrps := s.colGrps, colSites := s.colSites } = s
            ∧ (∀ o, o ≠ st → t.reg o = s.reg o) ∧ t.colGrps = Tab.put none g (some full) s.colGrps ∧ (∀ h d, d < 4 → t.site h d = s.site h d)
            ∧ t.grpState g = 2 ∧ t.rf st 57 4 = 0 ∧ t.rf st 39 17 = full.n ∧ t.rf st 27 8 = 0
            ∧ (∀ d < 4, t.rbit st (35 + d) = true ↔ mine d))))
      ∧ (∀ c e op f me, s.grpState g = 2 → (s.site g d).waiting = [(c, e)] → (s.site g d).run = none → e.col? = some (op, f) →
          grp.nodeAt s.self d = some me →
        let y := s.site g d
        let td := e.td f.src.toNat
        let bytes := if op.copies then ceilDiv (f.count.toNat * td.format.width) 8 else f.count.toNat * grp.wire.width / 8
        let ringMin := s.rf (rCol 0x1000) 32 32
        let run (ring : Bool) (got : Tab (Option Nat)) : ColRun := ⟨y.opseq, op, f.oper.toNat, f.count.toNat, f.root.toNat, ring,
          bytes ≤ Nat.min (s.rf (rCol 0x1000) 0 32) ringMin, 0, s.window 4, s.time, [⟨c, e, got, [], false⟩], [], [], [], [], s.freeIx⟩
        let starts (r : ColRun) : State := { ((s.fresh).modSite g d fun y => { y with run := some r, waiting := [] }).nextOpseq g ((y.opseq + 1) % 256)
          with colWait := s.colWait ++ [4 * g + d] }
        (f.count = 0 → exec (.colOpStart g ⟨d, none⟩) s = .next (starts (run false [])))
        ∧ (f.count ≠ 0 → op ≠ .barrier → (f.oper ≠ 3 ∨ op.copies = true) → grp.feed = false →
          (op = .broadcast → grp.member me c = f.root.toNat) →
          (∀ p < f.count.toNat, ∃ a, td.elemAddr p = some a ∧ ∀ x, x < cellBytes td.format → s.populated (a + x) = true ∧
            (∀ i j, region (4096 * ((a + x) / 4096)) ≠ .hbm i j) ∧ s.poisoned (4096 * ((a + x) / 4096)) = false) →
          exec (.colOpStart g ⟨d, none⟩) s = .next (starts (run (!(f.oper == 3 || op == .reduce || op == .broadcast) && decide (ringMin < bytes))
            ((List.range f.count.toNat).foldl (fun k p => Tab.put none p (some (s.colElem td p).1) k) [])))))
      ∧ (∀ r me, (s.site g d).run = some r → grp.nodeAt s.self d = some me →
        let x : ColCtx := ⟨grp, r, me⟩
        let need := (senders x.legs).length * r.win
        (∀ rest, s.colWait = (4 * g + d) :: rest → (4 * g + d) ∉ rest → s.slotsUsed (s.engOf d) + need ≤ 12288 → (s.site g d).early = [] →
          exec (.colSlotReserve g d) s = .next ((({ s with colWait := rest }).modSite g d fun y =>
            { y with run := some { r with reserved := need + 1 } }).freeSlots (s.engOf d)))
        ∧ ((s.time - r.since).toNat < grp.timeout * 1000000 → exec (.colGroupTimeout g d) s = .next s)
        ∧ (grp.timeout * 1000000 ≤ (s.time - r.since).toNat → ∃ t, exec (.colGroupTimeout g d) s = .next t ∧ t.grpState g = 3 ∧ (t.site g d).run = none ∧ (t.site g d).waiting = [])
        ∧ (∀ j, grp.timeout * 1000000 ≤ (s.time - r.since).toNat → r.joins = [j] → j.done = false → r.count = 0 →
          exec (.colGroupTimeout g d) s = .next (iter 4 (fun d t => t.colFlush g d 0x41)
            ((((({ (((s.bump (rEng (s.engOf d) 8) 0 16 1).finish j.core j.entry.seq 0x40 .none).endDrains g j.core 0x40 r.op).modSite g d (fun y =>
              { y with run := none, opseq := (r.opseq + 1) % 256, drains := [] }) with colWait := s.colWait.filter (· != 4 * g + d) } : State).freeSlots
              (s.engOf d)).setRf st 0 8 0x40).bump (rGrp g 0x28) 16 16 1).journalOpen 0x60 1 7 g |>.setGrp g 3)))))

/-- Chunks of an operation in progress at node d of group g (R343, R349, R355 to R357, R360, R362, R363). A chunk of another tag or stage,
or beyond its sender's window, is dropped and counted; a stale one gives its slot back; an early one is held; one that fails its check is
asked for again; one that verifies is taken for the leg it belongs to, and its slot is granted back. DATA and GRANT start the group's timeout
over. GRANT returns slots, REREQ has the retained copy sent again. The engine sends the next chunk of the group whose turn it is into a free
slot. A member completes once its results are written. The row drained first enters the engine and the group's buffer, in the order the rows
were finished; a drain that its group turns away ends with NO_GROUP. -/
def Obligations.CollectiveChunks : Prop :=
  ∀ (g d me : Nat) (grp : ColGrp) (r : ColRun) (s : State), g < 16 → d < 4 → Tab.get none g s.colGrps = some grp → s.grpState g = 2 →
    (s.site g d).run = some r → grp.nodeAt s.self d = some me →
    let x : ColCtx := ⟨grp, r, me⟩
    let io := s.engOf d
    let put (t : State) (r : ColRun) : State := t.modSite g d fun y => { y with run := some r }
    let ended (c : Nat) (r : ColRun) : ColRun := { r with joins := r.joins.map fun i => if i.core = c then { i with done := true } else i }
    (∀ k : Packet, k.kind = 5 → k.dstIo = d → kGrp k = g →
      let got := { s with arrived := s.arrived.erase (io, k) }
      let from' := s.sendersOf grp k
      let ahead := (kOpseq k + 256 - (s.site g d).opseq) % 256
      let win := if kOpseq k = r.opseq then (if from'.any fun n => hasNat (senders x.legs) n then r.win else 0) else s.window 4
      let known := kTag k = grp.tag ∧ kStage k ≠ 3
      let mine := known ∧ kOpseq k = r.opseq
      let heard := { r with since := s.time }
      let grant (n : Nat) : Packet := s.chunk grp g d n 1 (kStage k) (kSlot k) (kIndex k) (kOpseq k) 1 []
      (∀ i n z q, (kSub k = 0 ∧ i = .data k n ∧ (mine → z = put got heard ∧ q = heard) ∧ (¬ mine → z = got ∧ q = r))
          ∨ (kSub k = 3 ∧ n = 0 ∧ i = .exponent k ∧ z = got ∧ q = r) →
        (¬ known ∨ win ≤ kSlot k → exec i s = .next (z.bump (rEng io 0x10) 0 32 1))
        ∧ (known → kSlot k < win →
          (∀ a l, 128 ≤ ahead → from' = a :: l → exec i s = .next ((z.bump (rEng io 0x10) 0 32 1).colSend g d (grant a)))
          ∧ (0 < ahead → ahead < 128 → exec i s = .next (z.modSite g d fun y => { y with early := y.early ++ [(some n, k)] }))
          ∧ (∀ a l, ahead = 0 → r.reserved ≠ 0 → crc64 (k.payload.take k.len) ≠ bits k.body 0 64 → from' = a :: l → (∀ f ∈ r.fails, f.1 ≠ a * 1024 + kSlot k) →
            exec i s = .next (((put z { q with fails := (a * 1024 + kSlot k, 1) :: r.fails }).bump (rEng io 8) 32 16 1).colSend
              g d (s.chunk grp g d a 2 (kStage k) (kSlot k) (kIndex k) (kOpseq k) 0 [])))
          ∧ (∀ m l, ahead = 0 → r.reserved ≠ 0 → n = 0 → crc64 (k.payload.take k.len) = bits k.body 0 64 →
            x.legFor x.legs from' (kStage k) (kIndex k) = some (m, l) → k.payload.length = (x.chunkRange l (kIndex k)).2 - (x.chunkRange l (kIndex k)).1 →
            exec i s = .next ((put z (let fs := r.fails.filter fun f => f.1 != l.peer * 1024 + kSlot k
              { q with rx := r.rx ++ [⟨m, kIndex k, k.payload⟩], fails := fs })).colSend g d (grant l.peer)))))
      ∧ (kSub k = 1 → known →
        (kOpseq k ≠ r.opseq → exec (.grant k) s = .next got)
        ∧ (kOpseq k = r.opseq → exec (.grant k) s = .next (put got (
            let given (o : ColOut) : Bool := decide ((o.slot + r.win - kSlot k % r.win) % r.win < fld k.body 0 16)
            { heard with peers := r.peers.map fun p => if hasNat from' p.node then { p with sent := p.sent.filter fun o => !given o } else p }))))
      ∧ (kSub k = 2 → known →
        let t := got.bump (rEng io 8) 16 16 1
        (kOpseq k ≠ r.opseq → exec (.rereq k) s = .next t)
        ∧ (∀ p o, kOpseq k = r.opseq → r.peers = [p] → hasNat from' p.node = true → p.sent = [o] → o.slot = kSlot k → o.index = kIndex k →
          exec (.rereq k) s = .next (t.colSend g d (s.chunk grp g d p.node o.sub o.stage o.slot o.index r.opseq (crc64 o.payload) o.payload)))))
    ∧ (∀ i l k b, s.pwrFail = false → r.reserved ≠ 0 → s.engReady io = true → x.nextChunk x.legs = some (i, l, k, b) →
        let p : ColPeer := (r.peers.find? fun p => p.node == l.peer).getD ⟨l.peer, 0, []⟩
        let slot := p.next % r.win
        let sub := if l.stage = 2 then 3 else 0
        let port := s.colPort d x g l.peer
        (s.colTurnOf io g port = false → exec (.chunkSend g d) s = .next s)
        ∧ (s.colTurnOf io g port = true → exec (.chunkSend g d) s = .next (({ put s (
          let p' : ColPeer := { p with next := (slot + 1) % r.win, sent := p.sent ++ [(⟨slot, sub, l.stage, k, b⟩ : ColOut)] }
          { r with tx := (i, k) :: r.tx, peers := p' :: r.peers.filter fun q => q.node != l.peer }) with
            colTurn := Tab.put 0 (64 * io + port) ((g + 1) % 16) s.colTurn }).colSend g d (s.chunk grp g d l.peer sub l.stage slot k r.opseq (crc64 b) b))))
    ∧ (∀ c j t fl, c / 16 = d → r.joins.find? (fun j => j.core == c && !j.done) = some j → r.reserved ≠ 0 → r.count ≠ 0 → r.op ≠ .barrier →
        (x.takes c = [] → x.granted x.legs = true) →
        (x.takes c ≠ [] → x.settled x.legs = true ∧ (x.parts.isSome = true ∨ r.op = .broadcast ∨ r.op = .allgather)) →
        s.colDeliver x x.legs j = some (t, fl) →
        exec (.colOpComplete g c) s = .next (((t.modRun g d (ended c)).finish c j.entry.seq 0 (fl.or (x.flags x.legs))).colClose g d))
    ∧ (∀ c j f, c / 16 = d → r.joins.find? (fun j => j.core == c && !j.done) = some j → r.reserved ≠ 0 → r.count = 0 → j.entry.col? = some f →
        x.parts.isSome = true → x.arrivedBefore x.legs x.legs.length = true →
        exec (.colOpComplete g c) s = .next (((put s (ended c r)).finish c j.entry.seq 0 .none).colClose g d))
    ∧ (∀ c ps, c / 16 = d → r.joins.find? (fun j => j.core == c && !j.done) = none → x.parts = some ps → (∀ j ∈ ps, j.done = true) → x.settled x.legs = true →
        let t := ((s.modSite g d fun y => { y with run := none, opseq := (r.opseq + 1) % 256, drains := [] }).freeSlots io).setRf (rGrp g 0x20) 0 8 0
        exec (.colOpComplete g c) s = .next (if t.allPast g ((r.opseq + 1) % 256) then t.bump (rGrp g 0x28) 32 32 1 else t))
    ∧ (∀ c mr form f raws rest, c / 16 = d → (s.core c).drainHead = some mr → mr.entry.mx? = some (form, f) → mr.waiting = raws :: rest →
        let seq := mr.entry.seq
        let ch := mr.entry.chain f
        let st := ch.stage (ch.nstages - 1)
        let gone (t : State) (h : MxRun → MxRun) : State := t.modCore c fun k => { k.modRun seq h with drainQ := k.drainGone seq }
        let refused := s.drainRefused c g ch.outFmt
        fld st 104 4 = g →
        (∀ n, n ≠ seq → exec (.drainRow c n) s = .next s)
        ∧ (mr.drained = 0 → (grp.feed = false ∨ s.wireFmt g ≠ some ch.outFmt ∨ hasNat (nth ⟨0, 0, 0⟩ grp.nodes me).cores c = false) →
          exec (.drainRow c seq) s = .next (gone s fun x => { x with code := 0x41, waiting := [] }))
        ∧ (mr.drained ≠ 0 ∨ refused = false →
          (r.reserved = 0 ∨ (∀ j ∈ r.joins, j.core = c → j.done = true) → exec (.drainRow c seq) s = .next s)
          ∧ (∀ j, r.joins.find? (fun j => j.core == c && !j.done) = some j → r.reserved ≠ 0 → r.op = (if bit st 103 then .allreduce else .reducescatter) →
            x.staged + ((s.site g d).drains.map fun q => q.raws.length * x.elemBits / 8).sum + raws.length * x.elemBits / 8 ≤ 2097152 →
            exec (.drainRow c seq) s = .next (gone
              (s.modSite g d fun y => { y with drains := y.drains ++ [⟨c, fld st 72 24 + mr.drained, fld st 48 24, raws⟩] })
              fun x => { x with waiting := rest, drained := x.drained + 1 }))))
    ∧ (∀ c row col v j op f, c < 64 → c / 16 = d → (s.site g d).drains = [⟨c, row, col, [v]⟩] → r.joins = [j] → j.core = c → j.entry.col? = some (op, f) →
        let td := j.entry.td f.src.toNat
        row < td.e1 → col < td.e0 → Tab.get none (row * td.e0 + col) j.got = none →
        exec (.colDrainRow g c) s = .next (
          let j' : ColJoin := { j with got := Tab.put none (row * td.e0 + col) (some v) j.got }
          s.modSite g d fun y => { y with drains := [], run := some { r with joins := [j'] } }))

/-- Power (R34, R38, R367 to R379, R383, R388, R389, R394). Samples sum up until the Regulator's boundary, where the mean powers show, the
samples and a waiting learn_clear are spent, the written mode takes effect, and each compute die's k lies between its floors and 256. A mode
that ends Midnight makes the stacks READY there. An armed Escapement stretches and counts; a droop that lasts raises k by 8 and pulses its
event. Midnight waits until nothing is in flight; then its ports, stacks and lasers enter it. -/
def Obligations.PowerControl : Prop :=
  ∀ (s : State),
    (∀ compute uncore hbm io island pkg, s.vin = true → ∃ r, exec (.railSample compute uncore hbm io island pkg) s
        = .next (({ s with rails := r }).bump (rPwr 0x30) 0 64 ((s.rails.rest + pkg) / 1000)) ∧ r.n = s.rails.n + 1 ∧ r.pkg = s.rails.pkg + pkg
        ∧ r.rest = (s.rails.rest + pkg) % 1000 ∧ r.io = s.rails.io + (((List.range 4).filter s.hasIo).map fun i => nth 0 io i).sum
        ∧ (∀ d < 4, Tab.get 0 d r.dies = Tab.get 0 d s.rails.dies + if s.hasDie d then nth 0 compute d + nth 0 uncore d else 0)
        ∧ (∀ n < 32, Tab.get 0 n r.hbm = Tab.get 0 n s.rails.hbm + if s.hasStack n then nth 0 hbm n else 0))
    ∧ (∀ x, s.crown = 2 → s.pwrFail = false → s.off = false →
        let n := Nat.max 1 s.rails.n
        let want := s.rf (rPwr 0) 0 2
        let mode := if want = 3 then s.powerMode else want
        (¬ (s.powerMode = 3 ∧ want ≠ 3) → ∃ t, exec (.regulatorInterval x) s = .next t ∧ Powers s t ∧ t.rails = { Rails.reset with rest := s.rails.rest }
          ∧ t.regl.clear = false ∧ t.powerMode = mode
          ∧ t.rf (rPwr 0x20) 48 16 = Nat.min 65535 (s.rails.pkg / n / 1000) ∧ t.rf (rPwr 0x20) 0 16 = Nat.min 65535 (s.rails.io / n / 1000)
          ∧ ∀ d < 4, s.hasDie d = true → let k := t.rf (rDie d) 55 9
            modeFloor mode ≤ k ∧ stepFloor (s.dieStep d) ≤ k ∧ k ≤ 256 ∧ t.rf (rDie d) 52 3 = s.dieStep d % 8 ∧ t.rbit (rDie d) 51 = false)
        ∧ (s.powerMode = 3 → want ≠ 3 → ∃ t, exec (.regulatorInterval x) s = .next t ∧ t.powerMode = want ∧ t.cores = s.cores ∧ t.mem = s.mem
          ∧ ∀ st < 32, t.hbmState st = if s.hasStack st = true ∧ s.hbmState st = 4 then 2 else s.hbmState st))
    ∧ (∀ v, exec (.pwrCapWrite v) s = .next (s.rwReg (rPwr 8) 0xFFFF (v.setWidth 64)))
    ∧ exec .learnClear s = .next { s with regl := { s.regl with clear := true } }
    ∧ (∃ t, exec .attrClear s = .next t ∧ { t with regs := s.regs } = s ∧ ∀ o, t.reg o
        = if (rPwr 0x140 ≤ o ∧ o < rPwr 0x160) ∨ (rPwr 0x1000 ≤ o ∧ o < rPwr 0x1200) ∨ (rPwr 0x2000 ≤ o ∧ o < rPwr 0x2800) then 0 else s.reg o)
    ∧ (∀ d, d < 4 → s.hasDie d = true →
      (s.armed d = true → s.powerMode ≠ 3 → exec (.droopDetect d) s = .next (({ s with stretch := d :: s.stretch }).bump (rPwr 0x28) 16 16 1))
      ∧ (s.armed d = false ∨ s.powerMode = 3 → exec (.droopDetect d) s = .next s)
      ∧ (d ∈ s.stretch → s.armed d = false ∧ ∀ cycles still,
          let t := ({ s with stretch := s.stretch.filter (· != d), escEnd := Tab.put none d (some s.time) s.escEnd }).bump (rPwr 0x28) 32 32 (Nat.min 32 cycles)
          (32 ≤ cycles → still = true → exec (.stretchEnd d cycles still) s = .next ((((t.setRf (rDie d) 55 9 (Nat.min 256 (t.rf (rDie d) 55 9 + 8))).setRbit
            (rDie d) 51 true).bump (rPwr 0x28) 0 16 1).pulse 838))
          ∧ (cycles < 32 ∨ still = false → exec (.stretchEnd d cycles still) s = .next t)))
    ∧ (∀ v : BitVec 32, let want := fld (v.setWidth 64 : W64) 0 2
        exec (.pwrModeWrite v) s = .next (if want = 3 ∧ s.tripped = true then s
          else (s.setRf (rPwr 0) 0 2 want).setRbit (rPwr 0x18) 29 (want == 3 && s.powerMode != 3)))
    ∧ (s.off = false → s.pwrFail = false → s.rbit (rPwr 0x18) 29 = true →
        (s.quiet' = false → exec .midnightEntry s = .next s)
        ∧ (s.quiet' = true → (∀ i < 4, ∀ x, Tab.get none i s.fan = some x → x.1 / 8 = i ∧ x.2 / 8 = i) →
          ∃ t, exec .midnightEntry s = .next t ∧ t.powerMode = 3 ∧ t.rbit (rPwr 0x18) 29 = false ∧ t.cores = s.cores ∧ t.mem = s.mem
          ∧ (∀ st < 32, t.hbmState st = if s.hasStack st = true ∧ s.hbmState st = 2 then 4 else s.hbmState st)
          ∧ (∀ p < 32, s.hasPort p = true → t.rf (rPort p 0) 61 3 = 4)
          ∧ (∀ i < 4, s.hasIo i = true → t.rf (rOpt i 0) 29 3 ≠ 2)))

/-- Temperatures (R380 to R387). The analogue trip latches and cuts the rails. The model's nodes are taken with their margins; a part enters
the highest step whose threshold is reached, by its temperature or its projection, and leaves one step at a time; at the trip threshold the
Crown trips. A stack is judged by its sensor and its node, the hotter of the two. A diode moves its node by
a quarter of the difference, or is found broken. The Crown's package nodes are taken. The duty follows R386, or is 100 %. A thermistor out
of range is broken and a hot inlet derates the cap. -/
def Obligations.Temperatures : Prop :=
  ∀ (s : State),
    (∀ die, die < 8 → s.vin = true → (s.off = false ∨ s.porst = true) → ({ s with off := false } : State).hasTDie die = true →
      (s.tripped = true → exec (.analogTrip die) s = .next s)
      ∧ (s.tripped = false → ∃ t, exec (.analogTrip die) s = .next t ∧ Trips s t (if die < 4 then 1 else 2) die))
    ∧ (∀ die temps projected, s.hasTDie die = true →
        let node (n : Nat) := nth 0 temps n + s.margin die n
        let proj := projected + (if s.rbit (rPwr 0x18) 27 then 40 else 0)
        let c := s.reg (rThm 8)
        let r := s.reg (rThm 0x10)
        let thr := if die < 4 then actThr [100, 104, 108, 111] [fld c 24 8, fld c 16 8, fld c 8 8, fld c 0 8] else actThr [100] [fld r 16 8]
        let tripAt := if die < 4 then Nat.min 113 (fld r 24 8) else Nat.min 110 (fld r 8 8)
        let old := s.dieStep die
        (s.crown = 2 → s.tripped = false → (∃ n < nodesOf die, 8 * tripAt ≤ node n) →
          ∃ t, exec (.thermalModelUpdate die temps projected) s = .next t ∧ Trips s t (if die < 4 then 3 else 4) die)
        ∧ ((s.crown = 2 → ∀ n < nodesOf die, node n < 8 * tripAt) → ∃ t hot, exec (.thermalModelUpdate die temps projected) s = .next t
          ∧ t.cores = s.cores ∧ t.mem = s.mem ∧ (∀ n < nodesOf die, t.node die n = node n ∧ node n ≤ hot) ∧ (∃ n < nodesOf die, node n = hot)
          ∧ t.rf (rTDie die) 53 11 = Nat.min 2047 hot
          ∧ (s.thermalUp = false → t.dieStep die = old)
          ∧ (s.thermalUp = true → let reached (i : Nat) : Prop := 8 * nth 0 thr i ≤ hot ∨ 8 * nth 0 thr i + 16 ≤ proj
            let new := t.dieStep die
            (∀ i < thr.length, reached i → i + 1 ≤ new)
            ∧ (new < old → new + 1 = old ∧ hot + 24 ≤ 8 * nth 0 thr new ∧ proj + 24 ≤ 8 * nth 0 thr new ∧ 999 ≤ Tab.get 0 die s.therm.calm)
            ∧ (old < new → ∃ i, new = i + 1 ∧ reached i))))
    ∧ (∀ die readings n, s.hasTDie die = true → n < nodesOf die → (∃ i < nodesOf die, (Tab.get Diode.reset (64 * die + i) s.therm.diodes).broken = false
          ∧ (nth 0 readings i - (s.node die i : Int)).natAbs ≤ 80) →
        let d := Tab.get Diode.reset (64 * die + n) s.therm.diodes
        let v : Int := nth 0 readings n
        let m : Int := s.node die n
        d.broken = false →
        ((v - m).natAbs ≤ 80 → -160 ≤ v → v ≤ 1200 → (∀ l, d.last = some l → (v - l).natAbs ≤ 120) → ∃ t, exec (.diodeRound die readings) s = .next t
          ∧ t.node die n = (m + (v - m) / 4).toNat ∧ Tab.get Diode.reset (64 * die + n) t.therm.diodes = ⟨some v, m, 0, false⟩)
        ∧ (v < -160 ∨ 1200 < v → ∃ t, exec (.diodeRound die readings) s = .next t ∧ t.node die n = (m + 40).toNat
          ∧ (Tab.get Diode.reset (64 * die + n) t.therm.diodes).broken = true))
    ∧ (∀ a b c, s.crownUp = true → exec (.packageNodeUpdate a b c) s = .next ((
        let put (n v : Nat) (t : Tab Nat) : Tab Nat := Tab.put 0 (512 + n) v t
        ({ s with therm := { s.therm with nodes := put 0 a (put 1 b (put 2 c s.therm.nodes)) } } : State)).setRf (rThm 0x300) 31 11 (Nat.min 2047 b)))
    ∧ (s.vin = true →
        let r := rThm 0x300
        (s.crownUp = false ∨ s.tripped = true ∨ s.rbit r 20 = true ∨ s.rbit r 19 = true → exec .coolDutyUpdate s = .next (s.setRf r 21 10 1000))
        ∧ (s.crownUp = true → s.tripped = false → s.rbit r 20 = false → s.rbit r 19 = false → ∃ hot : Nat,
          let e : Int := (hot : Int) - 8 * (s.rf (rThm 0x308) 24 8 : Int)
          let sum : Int := max 0 (min 200000 ((s.therm.integ : Int) + e))
          let v : Int := (24 * (s.rf (rPwr 0x20) 48 16 : Int) + 1000 * e + sum) / 200
          (∀ d < 4, s.hasDie d = true → (s.hottest d).1 ≤ hot) ∧ (hot = 0 ∨ ∃ d < 4, s.hasDie d = true ∧ (s.hottest d).1 = hot)
          ∧ exec .coolDutyUpdate s = .next (({ s with therm := { s.therm with integ := sum.toNat } }).setRf r 21 10
              (Nat.min 1000 (Nat.max (10 * Nat.min 100 (s.rf (rThm 0x308) 8 8)) v.toNat))))
        ∧ (∀ inlet outlet : Int, ∃ t, exec (.coolantRead inlet outlet) s = .next t ∧ Shows { s with therm := t.therm } t [r, rPwr 0x18, rThm 0]
          ∧ t.rf r 53 11 = showTemp inlet ∧ t.rf r 42 11 = showTemp outlet
          ∧ (inlet < -80 ∨ 960 < inlet → t.rbit r 20 = true) ∧ (outlet < -80 ∨ 960 < outlet → t.rbit r 19 = true)
          ∧ (-80 ≤ inlet → inlet ≤ 960 → s.rbit r 20 = false ∨ 99 ≤ s.therm.okIn → t.rbit r 20 = false)
          ∧ (-80 ≤ outlet → outlet ≤ 960 → s.rbit r 19 = false ∨ 99 ≤ s.therm.okOut → t.rbit r 19 = false)
          ∧ (t.rbit (rPwr 0x18) 26 = true ↔ t.rbit r 20 = false ∧ 8 * s.rf (rThm 0x308) 16 8 < showTemp inlet)))
    ∧ (∀ st temp node projected, st < 32 → temp < 256 → s.hasStack st = true →
        let c := s.reg (rThm 0x18)
        let thr := actThr [97, 100] [fld c 24 8, fld c 16 8]
        let old := s.rf (rThm 0x200) (2 * st) 2
        let hot := Nat.max (8 * temp) node
        (s.thermalUp = true → s.tripped = false → 8 * Nat.min 105 (fld c 8 8) ≤ hot → ∃ t, exec (.hbmTempRound st ⟨temp, node, projected⟩) s = .next t ∧ Trips s t 5 (32 + st))
        ∧ (s.thermalUp = true → hot < 8 * Nat.min 105 (fld c 8 8) → ∃ t, exec (.hbmTempRound st ⟨temp, node, projected⟩) s = .next t ∧ t.mem = s.mem ∧ t.rf (rHbm st 0) 16 8 = temp
          ∧ Tab.get 0 (576 + st) t.therm.nodes = node
          ∧ let new := t.rf (rThm 0x200) (2 * st) 2
            let reached (i : Nat) : Prop := 8 * nth 0 thr i ≤ hot ∨ 8 * nth 0 thr i + 16 ≤ projected
            (∀ i < 2, reached i → i + 1 ≤ new) ∧ (old < new → ∃ i, new = i + 1 ∧ reached i)
            ∧ (new < old → new + 1 = old ∧ hot + 24 ≤ 8 * nth 0 thr new ∧ projected + 24 ≤ 8 * nth 0 thr new)))

/-- Events (R404, R406 to R411) and mailboxes (R412 to R417). An input change makes its source pending as its sense field says, and a source
that becomes pending on an armed, unmasked vector sends that vector's message and disarms it. PEND_SET fires sources, PEND_CLR clears them
as Table 3 says. A claim takes the pending source of highest priority on the line, the lowest-numbered among equals. Arming sends at once
where a source is pending; unmasking sends a deferred message. The third watchdog restart within 10 s halts the Crown. Chimes signal. -/
def Obligations.EventsAndMailboxes : Prop :=
  ∀ (s : State),
    (∀ n b, n < 1024 → ∃ t, exec (.eventInputChange n b) s = .next t ∧ Raised s t
      ∧ (s.srcLive n = false → t = s)
      ∧ (s.srcLive n = true → t.evcRaw n = b ∧ t.evcPend n = (match s.evcSense n with
          | 0 => b || hasNat s.evcHeld n
          | 1 => !b || hasNat s.evcHeld n
          | 2 => s.evcPend n || (b && !s.evcRaw n)
          | 3 => s.evcPend n || (!b && s.evcRaw n)
          | 4 => s.evcPend n || b != s.evcRaw n
          | 5 => s.evcPend n || (b && !s.evcRaw n)
          | _ => s.evcPend n)
        ∧ (s.evcPend n = false → t.evcPend n = true → let c := s.reg (rEvc (8 * n))
          let v := fld c 0 5
          if bit c 31 = true ∧ fld c 20 4 = 10 ∧ s.rbit (rEvc 0x3100) v = true ∧ s.rbit (rCrn (0x8008 + 16 * v)) 32 = false
          then t.rbit (rEvc 0x3100) v = false ∧ t.out = s.out ++ [.msix v (s.reg (rCrn (0x8000 + 16 * v))) (bits (s.reg (rCrn (0x8008 + 16 * v))) 0 32)]
          else t.out = s.out ∧ ∀ w < 32, t.rbit (rEvc 0x3100) w = s.rbit (rEvc 0x3100) w)))
    ∧ (∀ m v, m < 16 →
        (∃ t, exec (.pendSet m v) s = .next t ∧ Raised { s with evcHeld := t.evcHeld } t
          ∧ ∀ j < 64, let n := 64 * m + j
            t.evcPend n = (s.evcPend n || (bit v j && s.srcLive n && decide (s.evcSense n ≤ 5)))
            ∧ (n ∈ t.evcHeld ↔ n ∈ s.evcHeld ∨ (bit v j = true ∧ s.srcLive n = true ∧ s.evcSense n ≤ 1)))
        ∧ (∃ t, exec (.pendClr m v) s = .next t ∧ Raised { s with evcHeld := t.evcHeld } t ∧ t.out = s.out
          ∧ ∀ j < 64, let n := 64 * m + j
            t.evcPend n = (s.evcPend n && !(bit v j && (match s.evcSense n with | 0 => !s.evcRaw n | 1 => s.evcRaw n || !s.srcLive n | _ => true)))
            ∧ (n ∈ t.evcHeld ↔ n ∈ s.evcHeld ∧ bit v j = false)))
    ∧ (∀ line, line < 10 →
        let line' (n : Nat) : Prop := n < 1024 ∧ s.evcPend n = true ∧ s.rbit (rEvc (8 * n)) 31 = true
          ∧ s.rf (rEvc (8 * n)) 20 4 = line ∧ s.rf (rEvc (0x3080 + 8 * line)) 0 3 ≤ s.rf (rEvc (8 * n)) 24 3;
        ((∀ n, ¬ line' n) → exec (.evcClaim line) s = .next (s.send (.busRead (rEvc (0x3000 + 8 * line)) 0)))
        ∧ ((∃ n, line' n) → ∃ n t, line' n ∧ (∀ m, line' m → s.rf (rEvc (8 * m)) 24 3 < s.rf (rEvc (8 * n)) 24 3
              ∨ (s.rf (rEvc (8 * m)) 24 3 = s.rf (rEvc (8 * n)) 24 3 ∧ n ≤ m))
            ∧ exec (.evcClaim line) s = .next (t.send (.busRead (rEvc (0x3000 + 8 * line)) (BitVec.ofNat 64 (2 ^ 31 + s.rf (rEvc (8 * n)) 24 3 * 2 ^ 24 + n))))
            ∧ Raised { s with evcHeld := s.evcHeld.filter (· != n) } t ∧ (∀ m < 1024, m ≠ n → t.evcPend m = s.evcPend m)
            ∧ t.evcPend n = (match s.evcSense n with | 0 => s.evcRaw n | 1 => !s.evcRaw n && s.srcLive n | 5 => true | _ => false)))
    ∧ (∀ v, ∃ t, exec (.evcVecArm v) s = .next t ∧ Raised s t ∧
        let sends (j : Nat) : Bool := bit v j && s.vecPend j && !s.rbit (rCrn (0x8008 + 16 * j)) 32;
        (t.out = s.out ++ ((List.range 32).filter sends).map fun j => .msix j (s.reg (rCrn (0x8000 + 16 * j))) (bits (s.reg (rCrn (0x8008 + 16 * j))) 0 32))
        ∧ ∀ j < 32, t.rbit (rEvc 0x3100) j = ((s.rbit (rEvc 0x3100) j || bit v j) && !sends j)
          ∧ t.rbit (rCrn 0x9000) j = if sends j then false else (s.rbit (rCrn 0x9000) j || (bit v j && s.vecPend j)))
    ∧ (∀ v, v < 32 → ∃ t, exec (.msixUnmask v) s = .next t ∧ Shows s t [rCrn (0x8008 + 16 * v)] ∧ t.rbit (rCrn (0x8008 + 16 * v)) 32 = false
        ∧ if s.rbit (rCrn 0x9000) v = true ∧ s.rbit (rEvc 0x3100) v = true
          then t.rbit (rCrn 0x9000) v = false ∧ t.rbit (rEvc 0x3100) v = false
            ∧ t.out = s.out ++ [.msix v (s.reg (rCrn (0x8000 + 16 * v))) (bits (s.reg (rCrn (0x8008 + 16 * v))) 0 32)]
          else t.out = s.out)
    ∧ (∃ t, exec .pcieLinkStateChange s = .next t ∧ Raised s t ∧ t.evcPend 971 = (s.evcPend 971 || (decide (2 ≤ s.evcSense 971) && decide (s.evcSense 971 ≤ 5))))
    ∧ (∀ hart, hart < 4 → s.crown = 2 →
        let l := s.time.toNat :: s.wdTimes.filter fun x => s.time.toNat < x + 10000000000;
        (l.length < 3 → exec (.watchdogExpiry hart) s = .next ((({ s with wdTimes := l }).pulse 968).journalOpen 0x80 0 9 hart))
        ∧ (3 ≤ l.length → ∃ t, exec (.watchdogExpiry hart) s = .next t ∧ t.crown = 4 ∧ t.rbit (rBoot 0x118) 25 = false ∧ t.cores = s.cores ∧ t.mem = s.mem
          ∧ ∀ d < 4, s.hasDie d = true → 192 ≤ t.rf (rPwr (0x100 + 8 * d)) 55 9 ∧ s.rf (rPwr (0x100 + 8 * d)) 55 9 ≤ t.rf (rPwr (0x100 + 8 * d)) 55 9))
    ∧ (∀ c, c < 64 → s.hasCore c = true →
        let full := s.rbit (mbxStat c) 32
        let mask : BitVec 32 := bits (s.reg (mbxMask c)) 0 32
        let have' : BitVec 32 := bits (s.reg (mbxStat c)) 0 32
        let chimes (u : State) (n : Nat) : State := if n ≠ 0 ∧ s.rbit (mbxSem c) 31 = true then u.signal c (s.rf (mbxSem c) 0 6) n else u
        (∀ v, ∃ u, exec (.mbxInRing c v) s = .next (chimes u (popcount (bits v 0 32 &&& ~~~have' &&& ~~~mask))) ∧ Shows s u [mbxStat c]
          ∧ u.rbit (mbxStat c) 32 = (full || bit v 32) ∧ u.rbit (mbxStat c) 33 = (s.rbit (mbxStat c) 33 || (bit v 32 && full))
          ∧ bits (u.reg (mbxStat c)) 0 32 = have' ||| bits v 0 32)
        ∧ (∀ n v, n < 8 → ∃ u, exec (.mbxInDataWrite c n v) s = .next u ∧ Shows s u [mbxStat c, mbxData c n] ∧ u.reg (mbxData c n) = v
          ∧ u.reg (mbxStat c) = if full then setBit (s.reg (mbxStat c)) 33 true else s.reg (mbxStat c))
        ∧ (∀ v, exec (.mbxInMaskWrite c v) s = .next (chimes (s.setRf (mbxMask c) 0 32 v.toNat) (popcount (have' &&& mask &&& ~~~v)))))
    ∧ (∀ crown, ∃ t, exec (.mbxHostRing crown) s = .next t ∧ Shows s t [hostCtrl] ∧ t.rbit hostCtrl 0 = true ∧ t.rbit hostCtrl 1 = crown
        ∧ t.rbit hostCtrl 2 = (s.rbit hostCtrl 2 || s.rbit hostCtrl 0))

/-- Host accesses (R9 to R14, R395 to R401, R488). An access of BAR0 of another size or alignment than 32 or 64 bits reads zero and writes
nothing, as does one where no register is. A register's RW fields take what is written, 1s clear its W1C fields, and a read returns the
value and clears RC fields. Of a 64-bit register a low half written is held for the high half, and a low half read captures the high half.
Configuration requests are put off until the Crown runs. BAR2 reads and writes the window. The test port does its four instructions. -/
def Obligations.HostAccesses : Prop :=
  ∀ (s : State) (off : Nat),
    (∀ size v, ¬ (size = 8 ∧ off % 8 = 0) → ¬ (size = 4 ∧ off % 4 = 0) → exec (.regWrite off size v) s = .next s
        ∧ exec (.rcRead off size) s = .next (s.send (.busRead off 0)))
    ∧ (∀ v, regShape (off / 8 * 8) = none → exec (.regWriteHalf off v) s = .next s ∧ exec (.regReadLowHalf off) s = .next (s.send (.busRead off 0))
        ∧ exec (.rcRead off 8) s = .next (s.send (.busRead off 0)))
    ∧ (∀ v, off % 4 = 0 → exec (.regWrite off 4 v) s = exec (.regWriteHalf off (bits v 0 32)) s)
    ∧ (∀ h, off % 8 = 0 → regShape off = some h → h.wide = true →
        (∀ lo hi : BitVec 32, s.mountedReg off = true →
          exec (.regWriteHalf off lo) s = .next { s with heldLo := Tab.put none off (some lo) s.heldLo }
          ∧ (Tab.get none off s.heldLo = some lo → exec (.regWriteHalf (off + 4) hi) s
              = .next (({ s with heldLo := Tab.put none off none s.heldLo }).regPut off (hi.setWidth 64 <<< 32 ||| lo.setWidth 64)))
          ∧ (Tab.get none off s.heldLo = none → h.writable &&& ~~~ m32 ≠ 0 → exec (.regWriteHalf (off + 4) hi) s
              = .next (s.regPut off (hi.setWidth 64 <<< 32 ||| (s.reg off &&& h.rw &&& m32)))))
        ∧ (∃ t : State, exec (.regReadLowHalf off) s = .next (t.send (.busRead off (s.regValue off &&& m32)))
            ∧ Tab.get none off t.capHi = some (bits (s.regValue off) 32 32) ∧ { t with capHi := s.capHi } = s.regClear off m64)
        ∧ (∀ c, Tab.get none off s.capHi = some c → exec (.rcRead (off + 4) 4) s
            = .next (({ s with capHi := Tab.put none off none s.capHi }).send (.busRead (off + 4) (c.setWidth 64))))
        ∧ (Tab.get none off s.capHi = none → exec (.rcRead (off + 4) 4) s = .next ((s.regClear off (~~~ m32)).send (.busRead (off + 4) (s.regValue off >>> 32)))))
    ∧ (∀ h, off % 8 = 0 → regShape off = some h → s.mountedReg off = true →
        ((0x400000 ≤ off ∧ off < 0x500000) ∨ (0x900000 ≤ off ∧ off < 0x980000) ∨ (0xA00000 ≤ off ∧ off < 0xB00000 ∧ ¬ (off < 0xA01000 ∧ off % 0x100 = 0))
          ∨ (0xB00000 ≤ off ∧ off < 0xC00000 ∧ off % 0x100 ≠ 8)) →
        (∀ v, exec (.regWrite off 8 v) s = .next (({ s with heldLo := Tab.put none off none s.heldLo }).setReg off (mergeMask h.rw (s.reg off) v &&& ~~~ (v &&& h.w1c))))
        ∧ exec (.rcRead off 8) s = .next ((if h.rc = 0 then s else s.setReg off (s.reg off &&& ~~~ h.rc)).send (.busRead off (s.reg off))))
    ∧ (s.vin = true → s.porst = false → s.perst = false →
        (∀ (write : Bool) (v : BitVec 32), off % 4 = 0 → off < 4096 →
          (s.crown < 2 → exec (.pcieConfigReq write off v) s = .next (s.send (.configRetry off)))
          ∧ (2 ≤ s.crown → write = true → exec (.pcieConfigReq write off v) s = .next { s with cfg := Tab.put 0 off v s.cfg })
          ∧ (2 ≤ s.crown → write = false → ∃ w, exec (.pcieConfigReq write off v) s = .next (s.send (.config off w))
            ∧ (off = 8 → bits w 8 24 = 0x120000) ∧ (off = 0x10 → w = (Tab.get 0 0x10 s.cfg &&& 0xFC000000) ||| 4) ∧ (off = 0x14 → w = Tab.get 0 0x14 s.cfg)
            ∧ (off = 0x18 → w = 0xC) ∧ (off = 0x1C → w = Tab.get 0 0x1C s.cfg &&& 0xFFFFFFFC) ∧ (off = 0x20 ∨ off = 0x24 ∨ off = 0x30 → w = 0)))
        ∧ (∀ status : BitVec 32, exec (.pcieError status) s = .next (({ s with aer := s.aer ||| status }).journalPut 0x81 0 0 0 (toBytes 4 status.toNat)))
        ∧ (∀ len, 0 < len → len ≤ 4096 → off + len ≤ 2 ^ 34 →
          let a := s.rf (rCrn 0x200) 30 13 * 2 ^ 30 + off
          let seen := if ∀ i < len, s.populated (a + i) = true then s else s.bump (rCrn 0x10) 0 32 1
          ((∀ i < len, s.poisoned (a + i) = false) → exec (.bar2Read off len) s = .next (seen.send (.bar2Read off (s.read a len) false)))
          ∧ ((∃ i < len, s.poisoned (a + i) = true) → ∃ t : State, exec (.bar2Read off len) s = .next (t.send (.bar2Read off (s.read a len) true)))
          ∧ (∀ d : Bytes, d.length = len → exec (.bar2Write off d) s = .next (seen.store a d false)
            ∧ ((∃ c o, a = storeAddr c o ∧ c < 64 ∧ o < 0x1800000) → a % 4096 + len ≤ 4096 → ∃ t, exec (.bar2Write off d) s = .next t ∧ Stored seen t a d))))
    ∧ exec .bypass s = .next { s with tapIr := .bypass }
    ∧ exec .idcode s = .next ({ s with tapIr := .idcode }.send (.tdo 0x14D539E5))
    ∧ exec .samplePreload s = .next { s with tapIr := .sample, scan := some s.pins }
    ∧ exec .extest s = .next { s with tapIr := if s.porst then .extest else .bypass }

/-- The Crown at work (R417 to R422, R447). ECHO answers OK with its registers unchanged, an unknown command is answered UNSUPPORTED, and a
poll answers what the mailbox holds. A queue over its size stops. The queues that may begin a job take turns. A job acts on the mounted
cores of its mask, lowest first, or has nothing to do; a reserved kind acts on none; a wait ends when its cores have ended, at once, or
when its time has passed. A job that has ended writes its status, advances the head and pulses its events. -/
def Obligations.Jobs : Prop :=
  ∀ (s : State),
    let reply (status : Nat) : State := (((s.setRbit hostCtrl 0 false).setReg (hostData 0) (setFld (s.reg (hostData 0)) 32 8 status)).setRbit hostCtrl 0 true).setRbit hostCtrl 1 true
    (s.crownUp = true →
      (s.hostCmd = some 1 → exec .echo s = .next (reply 0) ∧ exec .hostMbxPoll s = .next (reply 0))
      ∧ (s.hostCmd ≠ some 1 → exec .echo s = .next s)
      ∧ (∀ n, s.hostCmd = some n → n ∉ [0x01, 0x10, 0x11, 0x20, 0x21, 0x30, 0x31, 0x40, 0x41, 0x50, 0x51, 0x52, 0x53, 0x60] →
          exec .unsupported s = .next (reply 1) ∧ exec .hostMbxPoll s = .next (reply 1))
      ∧ (s.hostCmd = none → exec .hostMbxPoll s = .next s ∧ exec .unsupported s = .next s))
    ∧ (∀ q, q < 4 →
        (∀ v : BitVec 32, let t := s.setRf (jqTail q) 0 32 v.toNat
          let full : Prop := s.crownUp = true ∧ 2 ^ Nat.min 16 (s.rf (jqCtrl q) 0 5) < (v.toNat + 2 ^ 32 - s.rf (jqHead q) 0 32) % 2 ^ 32
          (¬ full → exec (.jqTailWrite q v) s = .next t) ∧ (full → exec (.jqTailWrite q v) s = .next (t.setRbit (jqCtrl q) 30 true)))
        ∧ (∀ v : BitVec 32, ∃ t, exec (.jqEnable q v) s = .next t ∧ Shows s t [jqCtrl q] ∧ t.rbit (jqCtrl q) 31 = bit v 31
          ∧ t.rf (jqCtrl q) 0 5 = (if s.rbit (jqCtrl q) 31 then s.rf (jqCtrl q) 0 5 else fld v 0 5)
          ∧ (bit v 31 = false → t.rbit (jqCtrl q) 30 = s.rbit (jqCtrl q) 30)
          ∧ (bit v 31 = true → (t.rbit (jqCtrl q) 30 = true ↔ s.crownUp = true ∧ 2 ^ Nat.min 16 (t.rf (jqCtrl q) 0 5) < (s.rf (jqTail q) 0 32 + 2 ^ 32 - s.rf (jqHead q) 0 32) % 2 ^ 32))))
    ∧ ((∀ q < 4, s.jqLevel q ≤ s.jqSize q) → s.crownUp = true →
        ((∀ q < 4, s.jqReady q = false) → exec .jobPickup s = .next s)
        ∧ ∀ i < 4, (∀ k < i, s.jqReady ((s.jqLast + 1 + k) % 4) = false) → s.jqReady ((s.jqLast + 1 + i) % 4) = true →
          let q := (s.jqLast + 1 + i) % 4
          exec .jobPickup s = .next (({ s with jqLast := q }).setJob q (some ⟨BitVec.ofNat 512 (s.readN (s.jqEntry q) 64), false, [], none⟩)))
    ∧ (∀ (q : Nat) (j : Job), s.crownUp = true → s.job q = some j → j.acted = false → j.rejected = [] → j.result = none →
        let cores := (List.range 64).filter fun c => bit j.w (64 + c) && s.hasCore c
        let kind := fld j.w 280 8
        let ends (t : State) (code detail : Nat) : State := t.setJob q (some { j with acted := true, rejected := [], result := some (code, detail) })
        (kind = 0 → exec (.jobNop q) s = .next (ends s (if cores = [] then 1 else 0) 0))
        ∧ (kind = 1 → cores = [] ∨ fld j.w 240 15 = 0 → exec (.jobLoad q) s = .next (ends s 1 0))
        ∧ (kind = 1 → cores ≠ [] → fld j.w 240 15 ≠ 0 →
            let r := cores.foldl (fun (a : State × List Nat) c =>
              ((a.1.setRf (rCore c 0x40) 0 43 (fld j.w 128 43)).progLoadWrite c (BitVec.ofNat 64 (2 ^ 63 + 2 ^ 61 + fld j.w 240 15 * 2 ^ 16 + fld j.w 224 14)),
                if (a.1.core c).load.isSome then a.2 ++ [c] else a.2)) (s, [])
            exec (.jobLoad q) s = .next (r.1.setJob q (some { j with acted := true, rejected := r.2 })))
        ∧ (kind = 2 → cores ≠ [] →
            let r := cores.foldl (fun (a : State × List Nat) c =>
              ((a.1.setRf (rCore c 0x10) 0 14 (fld j.w 224 14)).coreStart c, if a.1.startRefused c then a.2 ++ [c] else a.2)) (s, [])
            exec (.jobStart q) s = .next (r.1.setJob q (some { j with acted := true, rejected := r.2, result := some (match r.2 with | c :: _ => (0x60, c) | [] => (0, 0)) })))
        ∧ (kind = 3 → cores ≠ [] → exec (.jobStop q) s = .next (ends (cores.foldl (fun t c => t.coreStop c) s) 0 0))
        ∧ (kind = 4 → cores ≠ [] → exec (.jobAbort q) s = .next (ends (cores.foldl (fun t c => t.coreAbort c) s) 0 0))
        ∧ (kind = 5 → cores ≠ [] → exec (.jobReset q) s = .next (ends (cores.foldl (fun t c => t.coreReset c) s) 0 0))
        ∧ (kind = 7 → cores ≠ [] → fld j.w 256 16 ≠ 0 →
            exec (.jobSignal q) s = .next (ends (cores.foldl (fun t c => t.signal c (fld j.w 272 6) (fld j.w 256 16)) s) 0 0))
        ∧ (7 < kind → exec (.illegalJob q) s = .next (s.setJob q (some { j with acted := true, result := some (0x63, 0) })))
        ∧ (∀ expired, kind = 6 → cores ≠ [] →
            let going := cores.filter fun c => (s.core c).run != .faulted && (s.core c).run != .stopped
            let faulted := cores.filter fun c => (s.core c).run == .faulted
            (going ≠ [] → expired = false → fld j.w 192 32 ≠ 0 → exec (.jobWait q expired) s = .next (s.setJob q (some { j with acted := true, rejected := [] })))
            ∧ (going = [] ∨ expired = true ∨ fld j.w 192 32 = 0 → exec (.jobWait q expired) s
              = .next (match faulted, going with | c :: _, _ => ends s 0x61 c | [], c :: _ => ends s 0x62 c | [], [] => ends s 0 0))))
    ∧ (∀ (q : Nat) (j : Job) (code detail : Nat), s.crownUp = true → s.job q = some j → s.jobResult j = some (code, detail) →
        let t := ((s.store (s.jqEntry q) (toBytes 8 (code * 2 ^ 56 + 2 ^ 55 + detail)) false).setJob q none)
        let u := (t.setRf (jqHead q) 0 32 (t.rf (jqHead q) 0 32 + 1)).pulse (960 + q)
        exec (.jobComplete q) s = .next (if code = 0 ∨ code = 1 then u else u.pulse (964 + q)))
    ∧ (∀ (j : Job), j.result ≠ none → s.jobResult j = j.result)
    ∧ (∀ (j : Job), fld j.w 280 8 = 1 → j.acted = true → j.result = none →
        let mine := ((List.range 64).filter fun c => bit j.w (64 + c) && s.hasCore c).filter fun c => c ∉ j.rejected
        ((∃ c ∈ mine, (s.core c).load ≠ none) → s.jobResult j = none)
        ∧ ((∀ c ∈ mine, (s.core c).load = none) → (∀ c ∈ mine, s.rf (progLoad c) 32 4 = 0) →
            s.jobResult j = some (match j.rejected with | c :: _ => (0x60, c) | [] => (0, 0))))

/-- Resets and Dawn (R424 to R426, R429, R438, R440, R447, R469, R477). A loss of power and PORST_N leave reset values, the GPIO latch and
what Table 1 keeps, the rows that a hard repair has replaced among it; a package reset keeps the PCIe function and CRN_TIME too; PERST_N and a hot reset reset the PCIe function alone. Dawn
boots the first slot that holds an accepted image and appends an entry with the next number and boot count, or, with none, makes a recovery
boot, in which every compute die is held at k = 192. A trial counts its boots, and ends with the other slot at the fourth. -/
def Obligations.Dawn : Prop :=
  ∀ (s : State),
    (∀ o, s.cold.reg o = if o = rEvc 0x21F8 then setFld (State.reset.reg o) 12 8 (s.rf (rEvc 0x21F8) 12 8) else State.reset.reg o)
    ∧ (∃ f, s.cold = { State.reset with regs := s.cold.regs, pending := s.pending, freeIx := s.freeIx, out := s.out, grade := s.grade, iodVer := s.iodVer, journal := s.journal, jNext := s.jNext, flash := f, commits := s.commits, otpGold := s.otpGold, otpOwner := s.otpOwner, ownerKeys := s.ownerKeys, svnFloor := s.svnFloor, hppr := s.hppr, vin := s.vin, perst := s.perst, tapIr := s.tapIr, scan := s.scan }
        ∧ (s.update = none → f = s.flash)
        ∧ ∀ u, s.update = some u → Tab.get none u.slot f = some { u.img with readOk := false } ∧ ∀ n, n ≠ u.slot → Tab.get none n f = Tab.get none n s.flash)
    ∧ (∃ r, s.warm = { s.cold with regs := r, cfg := s.cfg, backlog := s.backlog, jDropped := s.jDropped }
        ∧ ∀ o, s.warm.reg o = if o = rCrn 8 ∨ o = rCrn 0x200 ∨ o = rEvc 0x3100 ∨ (rCrn 0x8000 ≤ o ∧ o < rCrn 0x9010) then s.reg o else s.cold.reg o)
    ∧ exec .vinRise s = .next (if s.vin then s else { s.cold with vin := true, porst := true, off := true, tapIr := .idcode, scan := none })
    ∧ exec .vinLockout s = .next (if s.vin then { s.cold with vin := false, off := true, tapIr := .idcode, scan := none } else s)
    ∧ exec .porstAssert s = .next (if s.vin then { s.cold with porst := true, off := true } else s)
    ∧ (s.bootStage ≠ 0 ∨ s.vin = false → ∀ sel, exec (.porstRelease sel) s = .next s)
    ∧ (s.vin = true → s.bootStage = 0 →
        let tap : TapIr := if s.tapIr = .extest then .bypass else s.tapIr
        (s.pwrFail = true → ∀ sel, exec (.porstRelease sel) s = .next { s with porst := false, off := true, tapIr := tap })
        ∧ (s.pwrFail = false → ∀ sel, exec (.porstRelease sel) s = .next (({ s with porst := false, off := s.tripped, tapIr := tap }).dawn sel.toNat)))
    ∧ (∀ v : BitVec 32, exec (.pkgReset v) s = .next (if fld v 16 16 = 0x0D1A ∧ bit v 0 = true ∧ s.vin = true ∧ s.porst = false ∧ s.tripped = false
        then s.warm.dawn (s.rf (rBoot 0x10) 50 2) else s))
    ∧ (∀ sel, (∀ i < 4, Tab.get none i s.fan = none) →
        let old := s.latest
        let e : CEntry := { old with bootCount := old.bootCount + 1, reverted := false }
        let tried : CEntry := if old.imgTrial = false then e else if old.trialCount < 3 then { e with trialCount := old.trialCount + 1 }
          else { e with imgSlot := 1 - old.imgSlot, imgTrial := false, trialCount := 0, reverted := true }
        let order := if sel = 0 then [tried.imgSlot, 1 - tried.imgSlot] else if sel = 1 then [0] else if sel = 2 then [1] else []
        ((∀ n ∈ order, s.slotImage n = none) → let t := s.dawn sel
          t.crown = 3 ∧ t.bootStage = 6 ∧ t.latest = { e with seq := old.seq + 1 } ∧ t.rf (rBoot 0x10) 0 32 = e.bootCount % 2 ^ 32 ∧ t.cores = s.cores
          ∧ t.mem = s.mem ∧ ∀ d < 4, s.hasDie d = true → t.rf (rDie d) 55 9 = 192)
        ∧ (∀ hs rest n i, order = hs ++ n :: rest → (∀ m ∈ hs, s.slotImage m = none) → s.slotImage n = some i → let t := s.dawn sel
          t.crown = 2 ∧ t.bootStage = 4 ∧ t.runSvn = i.svn ∧ t.rf (rCrn 0) 32 32 = fld i.version 0 32 ∧ t.rf (rCrn 0) 0 16 = s.rf (rCrn 0) 0 16 ∧ t.rf (rBoot 0x10) 0 32 = e.bootCount % 2 ^ 32
          ∧ (∃ r, t.latest = { (if n = tried.imgSlot then tried else { tried with imgSlot := n, imgTrial := false, trialCount := 0 }) with seq := old.seq + 1, recSlot := r })
          ∧ t.mem = s.mem ∧ t.otpOwner = s.otpOwner ∧ t.svnFloor = s.svnFloor ∧ ∀ c < 64, s.hasCore c = true → (t.core c).run = .stopped))
    ∧ (exec .dawnDone s = .next (if s.bootStage = 4 then ((s.setRbit (rBoot 0x10) 60 true).setRf (rBoot 0x10) 61 3 5).dawnJournal else s))
    ∧ (∃ r, s.pciReset = { s with cfg := [], heldLo := [], capHi := [], regs := r } ∧ exec .pcieHotReset s = .next s.pciReset
        ∧ ∀ o, s.pciReset.reg o = if rCrn 0x8000 ≤ o ∧ o < rCrn 0x8200 ∧ o % 16 = 8 then 0x100000000 else if rCrn 0x8000 ≤ o ∧ o < rCrn 0x9010 then 0
          else if o = rEvc 0x3100 then 0xFFFFFFFF else if o = rCrn 0x200 ∧ s.crown ≠ 3 then 0 else s.reg o)
    ∧ (∀ asserted, let t := { (if asserted then s.pciReset else s) with perst := asserted }
        exec (.perst asserted) s = .next (if 2 ≤ s.crown then t.setRbit (rBoot 0x118) 24 (!asserted) else t))

/-- Updates, owner keys and identity (R431 to R434, R439 to R443, R445, R446). IMG_UPDATE checks an image and answers why not, or erases
the slot that the latest entry does not name; at its end it replies, and only a slot that reads back good gets an entry. IMG_CONFIRM ends a
trial and raises the floor. An owner request runs only with the nonce and a key that may sign it. ATTEST and IDENTITY_CERT write their
bytes. Any of them leaves the state as it is while the mailbox holds another command. -/
def Obligations.Trust : Prop :=
  ∀ (s : State),
    let reply (t : State) (cmd : W64) (status : Nat) (rs : List (Nat × Nat)) : State :=
      ((rs.foldl (fun t r => t.setReg (hostData r.1) (BitVec.ofNat 64 r.2)) (t.setReg (hostData 0) (setFld cmd 32 8 status))).setRbit hostCtrl 0 true).setRbit hostCtrl 1 true
    let c := s.reg (hostData 0)
    let t := s.setRbit hostCtrl 0 false
    let on : Prop := s.crownUp = true ∨ (s.crown = 3 ∧ s.rf (rBoot 0x108) 0 32 ≠ 0)
    (∀ e, (s.append e).latest = { e with seq := s.latest.seq + 1 })
    ∧ (on → s.hostCmd = some 0x10 → ∀ i : Image,
        let keys := if i.kind = 1 then s.otpGold else s.otpOwner
        let size := 128 + i.length + 5376
        let busy : Prop := s.update ≠ none ∨ (i.kind = 1 ∧ s.latest.imgTrial = true)
        let form : Prop := (i.kind = 1 ∨ i.kind = 2) ∧ i.magic = 0x44544E31 ∧ i.fmtVer = 1 ∧ i.rsvdOk = true ∧ size ≤ (if i.kind = 1 then 56 * 2 ^ 20 else 2 ^ 20)
          ∧ size ≤ (s.reg (hostData 2)).toNat ∧ (i.serial = 0 ∨ i.serial = Config.serial) ∧ (i.kind = 2 → i.entries.length ≤ 8192 ∧ ∀ w ∈ i.entries, entryOk w = true)
        let signed : Prop := i.sigOk = true ∧ ∃ n < 4, i.signer = some n ∧ bit keys (4 + n) = true ∧ bit keys n = false
        let old : Prop := i.kind = 1 ∧ i.svn < s.svnFloor
        let slot := if i.kind = 1 then 1 - s.latest.imgSlot else 3 - s.latest.recSlot
        (busy → exec (.imgUpdate i) s = .next (reply t c 0x18 []))
        ∧ (¬ busy → i.readOk = false → exec (.imgUpdate i) s = .next (reply t c 0x17 []))
        ∧ (¬ busy → i.readOk = true → ¬ form → exec (.imgUpdate i) s = .next (reply t c 0x10 []))
        ∧ (¬ busy → i.readOk = true → form → ¬ signed → exec (.imgUpdate i) s = .next (reply t c 0x11 []))
        ∧ (¬ busy → i.readOk = true → form → signed → old → exec (.imgUpdate i) s = .next (reply t c 0x12 []))
        ∧ (¬ busy → i.readOk = true → form → signed → ¬ old →
            exec (.imgUpdate i) s = .next { t with update := some ⟨i, slot, c⟩, flash := Tab.put none slot none s.flash }))
    ∧ (∀ (u : Upd), on → s.update = some u → s.rbit hostCtrl 0 = false →
        let left (ok : Bool) : State := { s with update := none, flash := Tab.put none u.slot (some { u.img with readOk := ok }) s.flash }
        let e : CEntry := if u.img.kind = 2 then { s.latest with reverted := false, recSlot := u.slot - 2 }
          else { s.latest with reverted := false, imgSlot := u.slot, imgTrial := decide (s.crown ≠ 3), trialCount := 0 }
        (∀ readBack, exec (.imgUpdateDone false readBack) s = .next (reply ((left false).journalOpen 0x92 2 0 0) u.cmd 0x13 []))
        ∧ exec (.imgUpdateDone true false) s = .next (reply ((left false).journalOpen 0x92 2 0 0) u.cmd 0x11 [])
        ∧ exec (.imgUpdateDone true true) s = .next (reply (((left true).append e).journalOpen 0x92 2 0 0) u.cmd 0 [(1, u.slot % 2)]))
    ∧ (s.update = none → ∀ programmed readBack, exec (.imgUpdateDone programmed readBack) s = .next s)
    ∧ (s.crownUp = true → s.hostCmd = some 0x11 →
        (s.latest.imgTrial = true ∧ s.rbit (rBoot 0x10) 58 = true → exec .imgConfirm s
          = .next (reply (({ t with svnFloor := max s.svnFloor s.runSvn } : State).append { s.latest with imgTrial := false, trialCount := 0, reverted := false }) c 0 []))
        ∧ (¬ (s.latest.imgTrial = true ∧ s.rbit (rBoot 0x10) 58 = true) → exec .imgConfirm s = .next (reply t c 0x16 [])))
    ∧ (s.crownUp = true → s.hostCmd = some 0x20 → ∀ n : BitVec 256, exec (.ownerChallenge n) s
        = .next (reply { t with nonce := some n } c 0 [(1, fld n 0 64), (2, fld n 64 64), (3, fld n 128 64), (4, fld n 192 64)]))
    ∧ exec .nonceExpiry s = .next { s with nonce := none }
    ∧ (s.crownUp = true → s.hostCmd = some 0x21 → ∀ (i : Image) (slot : Nat) (n : BitVec 256) (outer digest : BitVec 384) (innerOk : Bool),
        let live (k : Nat) : Prop := bit s.otpOwner (4 + k) = true ∧ bit s.otpOwner k = false
        let form : Prop := (i.kind = 3 ∨ i.kind = 4) ∧ i.magic = 0x44544E31 ∧ i.fmtVer = 1 ∧ i.rsvdOk = true ∧ (i.serial = 0 ∨ i.serial = Config.serial)
          ∧ i.length = (if i.kind = 3 then 5440 else 64) ∧ slot < 4
        let sig : Prop := i.sigOk = true ∧ (i.kind = 4 ∨ innerOk = true)
        let auth : Prop := s.nonce = some n ∧ ((fld s.otpOwner 4 4 = 0 ∧ i.kind = 3 ∧ outer = digest) ∨ (fld s.otpOwner 4 4 ≠ 0 ∧ ∃ k < 4, live k ∧ Tab.get 0 k s.ownerKeys = outer))
        let u : State := if s.nonce = some n then { t with nonce := none } else t
        let run := exec (.ownerRequest i slot n outer digest innerOk) s
        (i.readOk = false → run = .next (reply u c 0x17 []))
        ∧ (i.readOk = true → ¬ form → run = .next (reply u c 0x10 []))
        ∧ (i.readOk = true → form → ¬ sig → run = .next (reply u c 0x11 []))
        ∧ (i.readOk = true → form → sig → ¬ auth → run = .next (reply u c 0x14 []))
        ∧ (i.readOk = true → form → sig → auth → i.kind = 3 → bit s.otpOwner (4 + slot) = true ∨ bit s.otpOwner slot = true → run = .next (reply u c 0x15 []))
        ∧ (i.readOk = true → form → sig → auth → i.kind = 3 → bit s.otpOwner (4 + slot) = false → bit s.otpOwner slot = false →
            run = .next (reply { t with nonce := none, otpOwner := setBit s.otpOwner (4 + slot) true, ownerKeys := Tab.put 0 slot digest s.ownerKeys } c 0 [(1, slot)]))
        ∧ (i.readOk = true → form → sig → auth → i.kind = 4 → (∀ k < 4, live k ↔ k = slot) → run = .next (reply u c 0x14 []))
        ∧ (i.readOk = true → form → sig → auth → i.kind = 4 → ¬ (∀ k < 4, live k ↔ k = slot) →
            run = .next (reply { t with nonce := none, otpOwner := setBit s.otpOwner slot true } c 0 [(1, slot)])))
    ∧ (on → s.hostCmd = some 0x30 → ∀ (fw rc ow : BitVec 384) (sig : Bytes), sig.length = 5376 →
        ∃ b : Bytes, exec (.attest fw rc ow sig) s = .next (reply (t.store (s.reg (hostData 1)).toNat (b ++ sig) false) c 0 [(1, 5888)])
          ∧ b.length = 512 ∧ b.take 278 = List.replicate 278 0 ∧ (b.drop 298).take 8 = toBytes 8 s.time.toNat ∧ (b.drop 307).take 1 = [s.otpOwner]
          ∧ (b.drop 308).take 48 = toBytes 48 ow.toNat ∧ (b.drop 356).take 48 = toBytes 48 (if s.rbit (rBoot 0x10) 55 then 0 else rc.toNat)
          ∧ (b.drop 404).take 48 = toBytes 48 fw.toNat ∧ (b.drop 452).take 2 = toBytes 1 s.svnFloor ++ toBytes 1 s.runSvn
          ∧ (b.drop 454).take 4 = toBytes 4 (s.rf (rCrn 0) 32 32) ∧ (b.drop 460).take 4 = toBytes 4 (s.rf (rBoot 0x10) 0 32)
          ∧ (b.drop 468).take 8 = toBytes 8 (s.reg (rBoot 8)).toNat ∧ (∀ k < 4, (b.drop (476 + 8 * k)).take 8 = toBytes 8 (s.reg (hostData (2 + k))).toNat)
          ∧ b.drop 508 = toBytes 4 0x41545354)
    ∧ (on → s.hostCmd = some 0x31 →
        ∃ b : Bytes, exec .identityCert s = .next (reply (t.store (s.reg (hostData 1)).toNat b false) c 0 [(1, 7552)])
          ∧ b.length = 7552 ∧ (b.drop 112).take 4 = toBytes 4 2048 ∧ (b.drop 121).take 1 = [0xF0] ∧ (b.drop 122).take 6 = toBytes 2 1 ++ toBytes 4 0x44544E31
          ∧ (b.drop 128).take 8 = toBytes 8 Config.serial.toNat ∧ (b.drop 136).take 1 = toBytes 1 (gradeCode s.grade) ∧ (b.drop 137).take 55 = List.replicate 55 0)
    ∧ (s.hostCmd ≠ some 0x10 → ∀ i, exec (.imgUpdate i) s = .next s)
    ∧ (s.hostCmd ≠ some 0x11 → exec .imgConfirm s = .next s)
    ∧ (s.hostCmd ≠ some 0x20 → ∀ n, exec (.ownerChallenge n) s = .next s)
    ∧ (s.hostCmd ≠ some 0x21 → ∀ i slot n outer digest innerOk, exec (.ownerRequest i slot n outer digest innerOk) s = .next s)
    ∧ (s.hostCmd ≠ some 0x30 → ∀ fw rc ow sig, exec (.attest fw rc ow sig) s = .next s)
    ∧ (s.hostCmd ≠ some 0x31 → exec .identityCert s = .next s)

/-- Failure handling (R450, R452, R453, R456, R457, R465, R466). A compute die whose housekeeping has missed three checks is dead: its READY
bits clear, its cores and channels are gone, and it is journalled. A record is committed with the next number, the ring keeps 4,096, and the
count of dropped records follows once the backlog has cleared. JRNL_READ and FAULT_MAP write their bytes. A drain disables the queues, aborts
cores and channels and tears the groups down, and is answered once the package is quiescent. PWRFAIL_N is latched and leaves the part idle. -/
def Obligations.Resilience : Prop :=
  ∀ (s : State),
    let reply (t : State) (cmd : W64) (status : Nat) (rs : List (Nat × Nat)) : State :=
      ((rs.foldl (fun t r => t.setReg (hostData r.1) (BitVec.ofNat 64 r.2)) (t.setReg (hostData 0) (setFld cmd 32 8 status))).setRbit hostCtrl 0 true).setRbit hostCtrl 1 true
    let c := s.reg (hostData 0)
    let t := s.setRbit hostCtrl 0 false
    let arg (n : Nat) : Nat := (s.reg (hostData n)).toNat
    (∀ d answered regulated, s.crownUp = true → d < 4 → s.hasDie d = true →
        let n := if answered then 0 else Tab.get 0 d s.dieMiss + 1
        let w := { s with dieMiss := Tab.put 0 d n s.dieMiss }
        let dead : Prop := 3 ≤ n ∨ regulated = false ∨ hasNat (s.reach [d]) 4 = false
        (¬ dead ∨ d ∈ s.deadDies → exec (.dieHealthCheck d answered regulated) s = .next w)
        ∧ (dead → d ∉ s.deadDies → s.vsp.running = false → ∃ z : State, exec (.dieHealthCheck d answered regulated) s = .next z
          ∧ (∀ o, z.reg o = (((s.setRf (rBoot 0x100) (16 * d) 16 0).setRf (rBoot 0x108) (8 * d) 8 0).setRbit (rBoot 0x118) d false).reg o)
          ∧ z.deadDies = d :: s.deadDies ∧ (∀ k, z.core k = if k / 16 = d then Core.reset else s.core k)
          ∧ (∀ ch, z.chan ch = if (64 * d ≤ ch ∧ ch < 64 * d + 64) ∨ (256 + 8 * d ≤ ch ∧ ch < 256 + 8 * d + 8) then DChan.reset else s.chan ch)
          ∧ z.mem = s.mem ∧ z.mapGen = s.mapGen + 1 ∧ z.mapTime = s.time
          ∧ (∃ r : JRec, z.backlog = s.backlog ++ [r] ∧ r.kind = 0x11 ∧ r.cls = 1 ∧ r.uclass = 1 ∧ r.unit = d ∧ r.time = s.time)))
    ∧ (∀ d answered regulated, ¬ (s.crownUp = true ∧ d < 4 ∧ s.hasDie d = true) → exec (.dieHealthCheck d answered regulated) s = .next s)
    ∧ (s.vin = true → s.porst = false →
        (s.backlog = [] → exec .journalCommit s = .next s)
        ∧ ∀ r rest, s.backlog = r :: rest →
          let w := { s with backlog := rest, journal := (s.journal ++ [{ r with seq := s.jNext }]).drop (s.journal.length - 4095), jNext := (s.jNext + 1) % 2 ^ 32 }
          (rest ≠ [] ∨ s.jDropped = 0 → exec .journalCommit s = .next (w.pulse 970))
          ∧ (rest = [] → s.jDropped ≠ 0 → exec .journalCommit s
            = .next (({ w with jDropped := 0, backlog := [⟨0, s.rf (rBoot 0x10) 0 32, s.time, 0, 0, 2, 0x04, toBytes 4 s.jDropped⟩] }).pulse 970)))
    ∧ (s.vin = false ∨ s.porst = true → exec .journalCommit s = .next s)
    ∧ (s.crownUp = true → ∃ f, exec .healthRecord s = .next { s with backlog := s.backlog ++ [⟨0, s.rf (rBoot 0x10) 0 32, s.time, 0, 0, 2, 0x02, f⟩], freeIx := s.freeIx + 1 })
    ∧ (s.crownUp = false → exec .healthRecord s = .next s)
    ∧ (s.crownUp = true → s.hostCmd = some 0x40 →
        let l := (s.journal.filter fun r => arg 2 ≤ r.seq).take (min 4096 (arg 3))
        ∃ first z, exec .jrnlRead s = .next (reply z c 0 [(1, l.length), (2, first), (3, s.jNext)])
          ∧ z = { t.store (arg 1) ((l.map JRec.bytes).flatten) false with freeIx := z.freeIx } ∧ ∀ r m, l = r :: m → first = r.seq)
    ∧ (∀ r : JRec, r.bytes.length = 64 ∧ r.bytes.drop 56 = toBytes 8 (crc64 (r.bytes.take 56)).toNat ∧ r.bytes.take 16 = toBytes 4 r.seq ++ toBytes 4 r.boot ++ toBytes 8 r.time.toNat
        ∧ (r.bytes.drop 20).take 36 = (r.detail ++ List.replicate 36 0).take 36)
    ∧ (s.crownUp = true → s.hostCmd = some 0x41 →
        ∃ b : Bytes, exec .faultMap s = .next (reply (t.store (arg 1) b false) c 0 [(1, s.mapGen)])
          ∧ b.length = 512 ∧ b.take 16 = toBytes 8 s.mapGen ++ toBytes 2 s.self.toNat ++ toBytes 2 (s.rf (rBoot 0x10) 32 16) ++ toBytes 4 0
          ∧ (b.drop 16).take 8 = toBytes 8 s.mapTime.toNat ∧ (b.drop 27).take 1 = toBytes 1 (maskOf 4 (hasNat s.deadDies))
          ∧ (b.drop 32).take 4 = toBytes 4 (maskOf 32 fun st => s.hbmState st == 5) ∧ ∀ p < 32, (b.drop (64 + 8 * p)).take 8 = toBytes 8 (s.portWord p))
    ∧ (s.crownUp = true → s.hostCmd = some 0x60 →
        (s.drainRun ≠ none → exec .drain s = .next (reply t c 0x18 []))
        ∧ (s.drainRun = none →
          let a := iter 4 (fun q t => t.setRbit (jqCtrl q) 31 false) t
          let a := iter 64 (fun k t => if t.hasCore k then t.coreAbort k else t) a
          let a := iter 16 (fun g t => t.colTeardown g) a
          let a := iter 4 (fun d t => iter 7 (fun j t => (t.chAbort d j).cutChannel (256 + 8 * d + j)) t) a
          exec .drain s = .next { iter 256 (fun ch t => t.cutChannel ch) a with drainRun := some c }))
    ∧ (∀ micros cmd, s.drainRun = some cmd → s.crownUp = true → s.vsp.running = false → s.rbit hostCtrl 0 = false →
        (∀ k < 64, s.hasCore k = true → (s.core k).run = .stopped) → (∀ x ∈ s.dma, x.2.work = none) → (∀ g < 16, s.grpState g = 0) → (∀ q ∈ s.rsbOut, q.kind = 6) →
        exec (.drainComplete micros) s = .next (reply (({ s with vsp := { s.vsp with period := 0 }, drainRun := none }).journalOpen 0x91 2 0 0) cmd 0 [(1, s.vsp.complete), (2, micros)]))
    ∧ (s.drainRun = none → ∀ micros, exec (.drainComplete micros) s = .next s)
    ∧ (∀ micros k, k < 64 → s.hasCore k = true → (s.core k).run ≠ .stopped → exec (.drainComplete micros) s = .next s)
    ∧ (∀ inTime,
        (s.vin = false ∨ s.pwrFail = true → exec (.pwrfailAssert inTime) s = .next s)
        ∧ (s.vin = true → s.pwrFail = false → s.porst = true → exec (.pwrfailAssert inTime) s = .next { s with pwrFail := true })
        ∧ (s.vin = true → s.pwrFail = false → s.porst = false → s.vsp.running = false → (∀ i < 4, ∀ x, Tab.get none i s.fan = some x → x.1 / 8 = i ∧ x.2 / 8 = i) →
          ∃ z : State, exec (.pwrfailAssert inTime) s = .next z ∧ z.pwrFail = true ∧ z.drainRun = none ∧ z.mem = s.mem ∧ z.cores = s.cores ∧ z.crownUp = false
            ∧ (∀ d < 4, s.hasDie d = true → z.rf (rDie d) 55 9 = 256) ∧ (∀ i < 4, s.hasIo i = true → z.rf (rOpt i 0) 29 3 = 4)
            ∧ (∀ st < 32, z.hbmState st = if s.hasStack st = true ∧ s.hbmState st = 2 then 4 else s.hbmState st)))
    ∧ (s.hostCmd ≠ some 0x40 → exec .jrnlRead s = .next s) ∧ (s.hostCmd ≠ some 0x41 → exec .faultMap s = .next s) ∧ (s.hostCmd ≠ some 0x60 → exec .drain s = .next s)

/-- Vespers (R451, R458 to R463). A configuration block is judged and, accepted, marks every block of its regions dirty. A boundary starts
a snapshot, is skipped while one runs, is not due, or finds Vespers off. Each block read goes to its buddy's next log block and index entry;
one whose check fails is read again first, and lost content or a full log aborts. The snapshot completes when every buddy has answered. A hold slot opens, discards and applies its log for
its own source alone. -/
def Obligations.Vespers : Prop :=
  ∀ (s : State),
    let reply (t : State) (cmd : W64) (status : Nat) (rs : List (Nat × Nat)) : State :=
      ((rs.foldl (fun t r => t.setReg (hostData r.1) (BitVec.ofNat 64 r.2)) (t.setReg (hostData 0) (setFld cmd 32 8 status))).setRbit hostCtrl 0 true).setRbit hostCtrl 1 true
    let c := s.reg (hostData 0)
    let t := s.setRbit hostCtrl 0 false
    let arg (n : Nat) : Nat := (s.reg (hostData n)).toNat
    (s.crownUp = true → s.hostCmd = some 0x50 →
        let n := t.readN (arg 1 + 2) 1
        let m := t.readN (arg 1 + 3) 1
        let who (b : Nat) : BitVec 16 := BitVec.ofNat 16 (t.readN (arg 1 + 8 + 8 * b) 2)
        let base (r : Nat) : Nat := t.readN (arg 1 + 64 + 16 * r) 8
        let len (r : Nat) : Nat := t.readN (arg 1 + 72 + 16 * r) 8
        let good : Prop := (1 ≤ n ∧ n ≤ 4) ∧ (1 ≤ m ∧ m ≤ 16)
          ∧ (∀ r < m, base r % 4096 = 0 ∧ len r % 4096 = 0 ∧ ∃ st off, region (base r) = .hbm st off ∧ t.hasStack st = true ∧ off + len r ≤ usable)
          ∧ (∀ i j, i < j → j < m → base i + len i ≤ base j ∨ base j + len j ≤ base i) ∧ (∀ b < n, fidDial (who b) = fidDial t.self)
        (s.vsp.running = true → exec .vspConfig s = .next (reply t c 0x18 []))
        ∧ (s.vsp.running = false → ¬ good → exec .vspConfig s = .next (reply t c 0x20 []))
        ∧ (s.vsp.running = false → good →
            let blocks := (List.range m).map fun r => (base r / 4096, len r / 4096)
            exec .vspConfig s = .next (reply { t with vsp := { s.vsp with period := t.readN (arg 1) 2, regions := blocks, cap := [], pend := [], count := 0, carry := false, buddies := (List.range n).map (fun b => ⟨who b, t.readN (arg 1 + 10 + 8 * b) 1, 0, 0, 0⟩), dirty := (blocks.map fun r => (List.range r.2).map (r.1 + ·)).flatten } } c 0 [])))
    ∧ (s.crownUp = true → s.hostCmd = some 0x51 →
        (3 < arg 1 → exec .vspHold s = .next (reply t c 0x20 []))
        ∧ (arg 1 ≤ 3 → exec .vspHold s = .next (reply { t with holds := Tab.put Hold.reset (arg 1) { s.hold (arg 1) with enable := s.rbit (hostData 2) 16, src := bits (s.reg (hostData 2)) 0 16, mirror := arg 3, bytes := arg 4, log := arg 5, blocks := arg 6, isOpen := false } s.holds } c 0 [])))
    ∧ (s.crownUp = true → s.hostCmd = some 0x52 →
        let due : Prop := (s.vsp.count + 1) % s.vsp.period = 0 ∨ s.vsp.carry = true
        let w := { t with vsp := { s.vsp with count := s.vsp.count + 1 } }
        (s.drainRun ≠ none ∨ s.vsp.period = 0 → exec .vspStep s = .next (reply t c 0 [(1, 3)]))
        ∧ (s.drainRun = none → s.vsp.period ≠ 0 → ¬ due → exec .vspStep s = .next (reply w c 0 [(1, 2)]))
        ∧ (s.drainRun = none → s.vsp.period ≠ 0 → due → s.vsp.running = true →
            exec .vspStep s = .next (reply (State.vspJournal { w with vsp := { w.vsp with skipped := s.vsp.skipped + 1, carry := true } } false) c 0 [(1, 1)]))
        ∧ (s.drainRun = none → s.vsp.period ≠ 0 → due → s.vsp.running = false →
            let v := { w.vsp with running := true, started := arg 1, carry := false, moved := 0, cap := [], pend := s.vsp.dirty.mergeSort (fun a b => a ≤ b), dirty := [], buddies := s.vsp.buddies.map fun b => { b with stage := 0, sent := 0, waiting := 0 } }
            let u := ({ w with vsp := v }).eachBuddy fun t b x => t.bulk b x 0 0x30 0 0 (vspPayload (arg 1) x.slot 0) true
            u.rbit hostCtrl 0 = false → exec .vspStep s = .next (reply u c 0 [(1, 0)])))
    ∧ (s.crownUp = true → s.hostCmd = some 0x53 →
        (arg 1 = 0 → exec .vspStatus s = .next (reply t c 0 [(1, if s.vsp.period = 0 then 0 else if s.vsp.running then 2 else 1), (2, s.vsp.complete), (3, s.vsp.started), (4, s.vsp.skipped), (5, s.vsp.aborted), (6, s.vsp.micros), (7, s.vsp.last)]))
        ∧ (∀ n < 4, arg 1 = 4 + n → exec .vspStatus s = .next (reply t c 0 [(1, (s.hold n).enable.toNat), (2, (s.hold n).src.toNat), (3, (s.hold n).step), (4, 0), (5, 0), (6, 0), (7, 0)]))
        ∧ ((1 ≤ arg 1 ∧ arg 1 ≤ 3) ∨ 8 ≤ arg 1 → exec .vspStatus s = .next (reply t c 0x20 [])))
    ∧ (s.hostCmd ≠ some 0x50 → exec .vspConfig s = .next s) ∧ (s.hostCmd ≠ some 0x51 → exec .vspHold s = .next s)
    ∧ (s.hostCmd ≠ some 0x52 → exec .vspStep s = .next s) ∧ (s.hostCmd ≠ some 0x53 → exec .vspStatus s = .next s)
    ∧ (∀ d, (s.vsp.running = false ∨ s.crownUp = false ∨ ((∀ x ∈ s.vsp.cap, blockDie x.1 ≠ d) ∧ ∀ k ∈ s.vsp.pend, blockDie k ≠ d)) → exec (.vspBlockRead d) s = .next s)
    ∧ (∀ d key before after, s.vsp.running = true → s.crownUp = true → (∀ x ∈ s.vsp.cap, blockDie x.1 ≠ d) → s.vsp.pend = before ++ key :: after → (∀ k ∈ before, blockDie k ≠ d) → blockDie key = d →
        let q := s.verifyBlock 361 (4096 * key)
        let w := { q.1 with vsp := { q.1.vsp with pend := q.1.vsp.pend.filter (· != key) } }
        (q.2 = none → exec (.vspBlockRead d) s = .next q.1)
        ∧ (q.2 = some false → exec (.vspBlockRead d) s = .next w.vspAbort)
        ∧ (∀ j x, q.2 = some true → w.vsp.sequence[j]? = some key → (∀ i < j, w.vsp.sequence[i]? ≠ some key) → w.vsp.buddies[j % w.vsp.buddies.length]? = some x →
            let b := j % w.vsp.buddies.length
            let log := w.logOf x
            (log.2 ≤ x.sent → exec (.vspBlockRead d) s = .next w.vspAbort)
            ∧ (x.sent < log.2 →
              let u := { w with vsp := { w.vsp.modBuddy b (fun y => { y with sent := y.sent + 1, waiting := y.waiting + 2 }) with moved := w.vsp.moved + 4096 } }
              exec (.vspBlockRead d) s = .next ((u.bulk b x d 1 3 (log.1 + ceilDiv (8 * log.2) 4096 * 4096 + 4096 * x.sent) (s.read (4096 * key) 4096) true).bulk b x d 1 3
                (log.1 + 8 * x.sent) (toBytes 8 (j / w.vsp.buddies.length)) true))))
    ∧ (s.vsp.running = true →
        let w := ({ s with rsbOut := s.rsbOut.map fun (q : RsbReq) => match q.client with | .vsp _ => { q with client := .none } | _ => q }).eachBuddy fun t b x => t.bulk b x 0 0x32 0 0 (vspPayload t.vsp.started x.slot 0) false
        s.vspAbort = ({ w with vsp := { w.vsp with running := false, pend := [], cap := [], aborted := w.vsp.aborted + 1, dirty := (w.vsp.pend.filter fun k => !hasNat w.vsp.dirty k) ++ w.vsp.dirty } }).vspJournal true)
    ∧ (∀ micros, (s.vsp.running = true ∧ (∀ b ∈ s.vsp.buddies, b.stage = 3) → exec (.vspSnapshotComplete micros) s
          = .next (({ s with vsp := { s.vsp with running := false, complete := s.vsp.started, micros := micros, last := s.vsp.moved } }).vspJournal false))
        ∧ (¬ (s.vsp.running = true ∧ ∀ b ∈ s.vsp.buddies, b.stage = 3) → exec (.vspSnapshotComplete micros) s = .next s))
    ∧ (∀ io (k : Packet), s.hasIo io = true → k.kind = 6 → fld k.body 80 16 = 0 ∨ fld k.body 80 16 = s.epoch →
        let w := ({ s with arrived := s.arrived.erase (io, k) } : State).freeReplies io k
        (∀ r ∈ w.replies, ¬ (r.io = io ∧ r.fid = k.src ∧ r.srcIo = k.srcIo ∧ r.unit = k.dstIo ∧ r.rid = qRid k)) →
        let n := ofBytes ((k.payload.drop 8).take 1)
        let may : Prop := n < 4 ∧ (s.hold n).enable = true ∧ (s.hold n).src = k.src
        let set (f : Hold → Hold) : State := { w with holds := Tab.put Hold.reset n (f (s.hold n)) s.holds }
        let answer (u : State) (status : Nat) : State :=
          ({ u with replies := u.replies ++ [(⟨io, k.src, k.srcIo, k.dstIo, qRid k, u.replyTo k status false 0 []⟩ : Reply)] }).sendReply io (u.replyTo k status false 0 [])
        (qOp k = 0x30 → (may → exec (.vspBegin io k) s = .next (answer (set fun h => { h with isOpen := true }) 0)) ∧ (¬ may → exec (.vspBegin io k) s = .next (answer w 0x30)))
        ∧ (qOp k = 0x32 → (may → exec (.vspAbort io k) s = .next (answer (set fun h => { h with isOpen := false }) 0)) ∧ (¬ may → exec (.vspAbort io k) s = .next (answer w 0x30)))
        ∧ (qOp k = 0x31 → (may → (s.hold n).apply = none → exec (.vspCommit io k) s = .next (set fun h => { h with apply := some (io, k) })) ∧ (¬ may → exec (.vspCommit io k) s = .next (answer w 0x30))))
    ∧ (∀ slot, (s.hold slot).apply = none → exec (.vspApplyDone slot) s = .next s)
    ∧ (∀ slot io (k : Packet), (s.hold slot).apply = some (io, k) →
        let h := s.hold slot
        let n := if h.isOpen then min h.blocks (ofBytes ((k.payload.drop 9).take 7)) else 0
        let r := s.applyLog slot h n
        (r.2 = none → exec (.vspApplyDone slot) s = .next { s with rechecks := r.1.rechecks })
        ∧ (∀ good, r.2 = some good →
            let u := { r.1 with holds := Tab.put Hold.reset slot { r.1.hold slot with apply := none, isOpen := false, step := if good then ofBytes (k.payload.take 8) else (r.1.hold slot).step } r.1.holds }
            exec (.vspApplyDone slot) s = .next ((u.vspJournal false).holdReply io k (if good then 0 else 0x30))))
    ∧ (∀ slot (h : Hold), s.applyLog slot h 0 = (s, some true) ∧ ∀ n,
        let a := s.applyLog slot h n
        let src := h.log + ceilDiv (8 * h.blocks) 4096 * 4096 + 4096 * n
        let q := if src % 4096 = 0 then a.1.verifyBlock (362 + slot) src else (a.1, some true)
        let dest := 4096 * a.1.readN (h.log + 8 * n) 8
        let whole := (h.mirror + dest) % 4096 == 0
        (q.2 = none → s.applyLog slot h (n + 1) = (q.1, none))
        ∧ (q.2 = some false → s.applyLog slot h (n + 1) = (q.1, a.2.map fun _ => false))
        ∧ (q.2 = some true → s.applyLog slot h (n + 1) = (if h.bytes < dest + 4096 then q.1 else q.1.store (h.mirror + dest) (q.1.read src 4096) whole, a.2)))
end

