-- ==== Sys2Proof/Laws/Tab.lean ====
section
/-! SUPPORT. Sparse tables: a read after a write, and the canonical form that every table operation keeps. -/

namespace Sys2Proof

variable {α : Type}

theorem Tab.erase_eq_filter (k : Nat) (t : Tab α) : Tab.erase k t = t.filter fun p => p.1 ≠ k := by
  induction t with
  | nil => rfl
  | cons p t ih => obtain ⟨i, x⟩ := p; by_cases h : i = k <;> simp [Tab.erase, h, ih]

theorem Tab.get_erase (d : α) (j k : Nat) (t : Tab α) :
    Tab.get d j (Tab.erase k t) = if j = k then d else Tab.get d j t := by
  induction t with
  | nil => simp [Tab.erase, Tab.get]
  | cons p t ih =>
    obtain ⟨i, x⟩ := p
    by_cases h : i = k
    · subst h; by_cases hj : j = i
      · subst hj; simpa [Tab.erase] using ih
      · have : ¬i = j := fun e => hj e.symm
        simp [Tab.erase, Tab.get, ih, hj, this]
    · by_cases hj : i = j
      · subst hj; simp [Tab.erase, Tab.get, h]
      · simp [Tab.erase, Tab.get, h, hj, ih]

theorem Tab.get_insert (d : α) (j k : Nat) (v : α) (t : Tab α) :
    Tab.get d j (Tab.insert k v (Tab.erase k t)) = if j = k then v else Tab.get d j t := by

  have key : ∀ t : Tab α, (∀ p ∈ t, p.1 ≠ k) →
      Tab.get d j (Tab.insert k v t) = if j = k then v else Tab.get d j t := by
    intro t
    induction t with
    | nil => intro _; by_cases hj : j = k <;> simp [Tab.insert, Tab.get, hj, eq_comm]
    | cons p t ih =>
      obtain ⟨i, x⟩ := p
      intro hp
      have hi : i ≠ k := hp (i, x) (by simp)
      have ht := ih fun q hq => hp q (by simp [hq])
      by_cases hk : k < i
      · by_cases hj : j = k
        · subst hj; simp [Tab.insert, Tab.get, hk]
        · simp [Tab.insert, Tab.get, hk, hj, Ne.symm hj]
      · by_cases hj : i = j
        · subst hj; simp [Tab.insert, Tab.get, hk, hi]
        · simp [Tab.insert, Tab.get, hk, hj, ht]
  have hne : ∀ p ∈ Tab.erase k t, p.1 ≠ k := by
    intro p hp; rw [Tab.erase_eq_filter] at hp; simpa using (List.mem_filter.mp hp).2
  rw [key _ hne, Tab.get_erase]
  by_cases hj : j = k <;> simp [hj]

/-- A read after a write of one key. -/
theorem Tab.get_put [DecidableEq α] (d : α) (j k : Nat) (v : α) (t : Tab α) :
    Tab.get d j (Tab.put d k v t) = if j = k then v else Tab.get d j t := by
  unfold Tab.put
  split
  · next h => rw [Tab.get_erase, h]
  · exact Tab.get_insert d j k v t

@[simp] theorem Tab.get_put_self [DecidableEq α] (d : α) (k : Nat) (v : α) (t : Tab α) :
    Tab.get d k (Tab.put d k v t) = v := by simp [Tab.get_put]

theorem Tab.get_put_ne [DecidableEq α] (d : α) {j k : Nat} (v : α) (t : Tab α) (h : j ≠ k) :
    Tab.get d j (Tab.put d k v t) = Tab.get d j t := by simp [Tab.get_put, h]

/-- A read of a table from which a range of keys has been cleared. -/
theorem Tab.get_clear (d : α) (j lo n : Nat) (t : Tab α) :
    Tab.get d j (Tab.clear lo n t) = if lo ≤ j ∧ j < lo + n then d else Tab.get d j t := by
  induction t with
  | nil => simp [Tab.clear, Tab.get]
  | cons p t ih =>
    obtain ⟨i, x⟩ := p
    have hc : Tab.clear lo n ((i, x) :: t) = if lo ≤ i ∧ i < lo + n then Tab.clear lo n t else (i, x) :: Tab.clear lo n t := by
      simp only [Tab.clear, List.filter_cons]
      by_cases hp : lo ≤ i ∧ i < lo + n <;> simp [hp]
    rw [hc]
    by_cases hj : i = j
    · subst hj
      by_cases hp : lo ≤ i ∧ i < lo + n
      · rw [if_pos hp, ih]; simp [hp]
      · rw [if_neg hp, if_neg hp]; simp [Tab.get]
    · by_cases hp : lo ≤ i ∧ i < lo + n
      · rw [if_pos hp, ih]; simp [Tab.get, hj]
      · rw [if_neg hp]; simp [Tab.get, hj, ih]

/-- Two writes of one key are one. -/
theorem Tab.put_put [DecidableEq α] (d : α) (k : Nat) (v w : α) (t : Tab α) :
    Tab.put d k w (Tab.put d k v t) = Tab.put d k w t := by
  have he : ∀ t : Tab α, Tab.erase k (Tab.erase k t) = Tab.erase k t := by
    intro t; simp [Tab.erase_eq_filter, List.filter_filter]
  have hi : ∀ t : Tab α, Tab.erase k (Tab.insert k v t) = Tab.erase k t := by
    intro t
    induction t with
    | nil => simp [Tab.insert, Tab.erase]
    | cons p t ih =>
      obtain ⟨i, x⟩ := p
      by_cases h1 : k < i
      · simp [Tab.insert, h1, Tab.erase]
      · by_cases h2 : i = k <;> simp [Tab.insert, h1, Tab.erase, h2, ih]
  have hp : Tab.erase k (Tab.put d k v t) = Tab.erase k t := by
    unfold Tab.put; split <;> simp [he, hi]
  unfold Tab.put at hp ⊢
  rw [hp]

/-! ### The canonical form -/

variable [DecidableEq α]

theorem Tab.wfFrom_mono (d : α) {lo lo' : Nat} (h : lo' ≤ lo) (t : Tab α) :
    Tab.wfFrom d lo t = true → Tab.wfFrom d lo' t = true := by
  cases t with
  | nil => simp [Tab.wfFrom]
  | cons p t =>
    simp only [Tab.wfFrom, Bool.and_eq_true, decide_eq_true_eq]
    exact fun hh => ⟨⟨Nat.le_trans h hh.1.1, hh.1.2⟩, hh.2⟩

theorem Tab.wfFrom_filter (d : α) (p : Nat × α → Bool) (lo : Nat) (t : Tab α) :
    Tab.wfFrom d lo t = true → Tab.wfFrom d lo (t.filter p) = true := by
  induction t generalizing lo with
  | nil => simp
  | cons q t ih =>
    simp only [Tab.wfFrom, Bool.and_eq_true, decide_eq_true_eq]
    intro h
    by_cases hq : p q
    · simp only [List.filter_cons, hq, if_true, Tab.wfFrom, Bool.and_eq_true, decide_eq_true_eq]
      exact ⟨h.1, ih _ h.2⟩
    · simp only [List.filter_cons, hq]
      exact ih _ (Tab.wfFrom_mono d (by omega) _ h.2)

theorem Tab.wfFrom_insert (d : α) (k : Nat) (v : α) (hv : v ≠ d) (t : Tab α) (lo : Nat) (hk : lo ≤ k)
    (hne : ∀ p ∈ t, p.1 ≠ k) : Tab.wfFrom d lo t = true → Tab.wfFrom d lo (Tab.insert k v t) = true := by
  induction t generalizing lo with
  | nil => simp [Tab.insert, Tab.wfFrom, hk, hv]
  | cons p t ih =>
    obtain ⟨i, x⟩ := p
    have hi : i ≠ k := hne (i, x) (by simp)
    by_cases h : k < i
    · simp only [Tab.insert, h, if_true, Tab.wfFrom, Bool.and_eq_true, decide_eq_true_eq]
      intro hh; exact ⟨⟨hk, hv⟩, ⟨by omega, hh.1.2⟩, hh.2⟩
    · simp only [Tab.insert, h, if_false, Tab.wfFrom, Bool.and_eq_true, decide_eq_true_eq]
      intro hh
      exact ⟨hh.1, ih _ (by omega) (fun q hq => hne q (by simp [hq])) hh.2⟩

theorem Tab.wf_erase (d : α) (k : Nat) (t : Tab α) (h : Tab.wf d t = true) : Tab.wf d (Tab.erase k t) = true := by
  rw [Tab.erase_eq_filter]; exact Tab.wfFrom_filter d _ 0 t h

/-- A write keeps the canonical form. -/
theorem Tab.wf_put (d : α) (k : Nat) (v : α) (t : Tab α) (h : Tab.wf d t = true) : Tab.wf d (Tab.put d k v t) = true := by
  unfold Tab.put
  split
  · exact Tab.wf_erase d k t h
  · next hv =>
    refine Tab.wfFrom_insert d k v hv _ 0 (Nat.zero_le _) ?_ (Tab.wf_erase d k t h)
    intro p hp; rw [Tab.erase_eq_filter] at hp; simpa using (List.mem_filter.mp hp).2

theorem Tab.wf_filter (d : α) (p : Nat × α → Bool) (t : Tab α) (h : Tab.wf d t = true) :
    Tab.wf d (t.filter p) = true := Tab.wfFrom_filter d p 0 t h

/-- Clearing a range keeps the canonical form. -/
theorem Tab.wf_clear (d : α) (lo n : Nat) (t : Tab α) (h : Tab.wf d t = true) : Tab.wf d (Tab.clear lo n t) = true :=
  Tab.wf_filter d _ t h

@[simp] theorem Tab.wf_nil (d : α) : Tab.wf d [] = true := rfl

/-- A read after writes of a list of keys that gives a key one value. -/
theorem Tab.get_puts {β : Type} (d : α) (key : β → Nat) (val : β → α) (j : Nat) (v : α) (l : List β) :
    ∀ t : Tab α, (∀ p ∈ l, key p = j → val p = v) → (∃ p ∈ l, key p = j) →
      Tab.get d j (l.foldl (fun t p => Tab.put d (key p) (val p) t) t) = v := by
  have keep : ∀ (l : List β) (t : Tab α), (∀ p ∈ l, key p = j → val p = v) → Tab.get d j t = v →
      Tab.get d j (l.foldl (fun t p => Tab.put d (key p) (val p) t) t) = v := by
    intro l
    induction l with
    | nil => exact fun t _ h => h
    | cons p l ih =>
      intro t hv h
      refine ih _ (fun q hq => hv q (by simp [hq])) ?_
      rw [Tab.get_put]
      by_cases hk : j = key p
      · rw [if_pos hk]; exact hv p (by simp) hk.symm
      · rw [if_neg hk]; exact h
  induction l with
  | nil => intro t _ h; obtain ⟨p, hp, _⟩ := h; simp at hp
  | cons p l ih =>
    intro t hv h
    by_cases hk : key p = j
    · refine keep l _ (fun q hq => hv q (by simp [hq])) ?_
      rw [Tab.get_put, if_pos hk.symm]; exact hv p (by simp) hk
    · refine ih _ (fun q hq => hv q (by simp [hq])) ?_
      obtain ⟨q, hq, hqk⟩ := h
      rcases List.mem_cons.mp hq with rfl | hq
      · exact absurd hqk hk
      · exact ⟨q, hq, hqk⟩

/-- A read after writes of other keys. -/
theorem Tab.get_puts_ne {β : Type} (d : α) (key : β → Nat) (val : β → α) (j : Nat) (l : List β) :
    ∀ t : Tab α, (∀ p ∈ l, key p ≠ j) →
      Tab.get d j (l.foldl (fun t p => Tab.put d (key p) (val p) t) t) = Tab.get d j t := by
  induction l with
  | nil => exact fun t _ => rfl
  | cons p l ih =>
    intro t h
    rw [List.foldl_cons, ih _ (fun q hq => h q (by simp [hq])), Tab.get_put, if_neg (fun e => h p (by simp) e.symm)]

omit [DecidableEq α] in
/-- A read of a table from which ranges of keys have been cleared. -/
theorem Tab.get_clears (d : α) (j n : Nat) (l : List Nat) :
    ∀ t : Tab α, Tab.get d j (l.foldl (fun t a => Tab.clear (a * n) n t) t)
      = if ∃ a ∈ l, a * n ≤ j ∧ j < a * n + n then d else Tab.get d j t := by
  induction l with
  | nil => intro t; simp
  | cons a l ih =>
    intro t
    rw [List.foldl_cons, ih, Tab.get_clear]
    by_cases h1 : ∃ b ∈ l, b * n ≤ j ∧ j < b * n + n
    · rw [if_pos h1, if_pos (by obtain ⟨b, hb, hh⟩ := h1; exact ⟨b, by simp [hb], hh⟩)]
    · rw [if_neg h1]
      by_cases h2 : a * n ≤ j ∧ j < a * n + n
      · rw [if_pos h2, if_pos ⟨a, by simp, h2⟩]
      · rw [if_neg h2, if_neg]
        rintro ⟨b, hb, hh⟩
        rcases List.mem_cons.mp hb with rfl | hb
        · exact h2 hh
        · exact h1 ⟨b, hb, hh⟩

/-- A read after every entry of one table has been written into another. -/
theorem Tab.get_over (d : α) (j : Nat) (l t : Tab α) :
    Tab.get d j (l.foldr (fun p t => Tab.put d p.1 p.2 t) t)
      = if ∃ p ∈ l, p.1 = j then Tab.get d j l else Tab.get d j t := by
  induction l with
  | nil => simp
  | cons p l ih =>
    obtain ⟨i, v⟩ := p
    rw [List.foldr_cons, Tab.get_put]
    by_cases h : j = i
    · subst h; simp [Tab.get]
    · have hi : ¬ i = j := fun e => h e.symm
      have hm : (∃ p ∈ (i, v) :: l, p.1 = j) ↔ ∃ p ∈ l, p.1 = j := by simp [hi]
      rw [if_neg h, ih, if_congr hm rfl rfl]
      simp only [Tab.get, hi, if_false]

omit [DecidableEq α] in
theorem Tab.get_filter (d : α) (j : Nat) (P : Nat → Bool) (t : Tab α) :
    Tab.get d j (t.filter fun p => P p.1) = if P j then Tab.get d j t else d := by
  induction t with
  | nil => simp [Tab.get]
  | cons p t ih =>
    obtain ⟨i, v⟩ := p
    rw [List.filter_cons]
    by_cases hp : P i = true
    · simp only [hp, if_true, Tab.get, ih]
      by_cases hj : i = j
      · subst hj; simp [hp]
      · simp [hj]
    · have hp' : P i = false := by simpa using hp
      simp only [hp', Tab.get, Bool.false_eq_true, if_false, ih]
      by_cases hj : i = j
      · subst hj; simp [hp']
      · simp [hj]

omit [DecidableEq α] in
/-- A key with no entry reads as the default. -/
theorem Tab.get_none (d : α) (j : Nat) (t : Tab α) (h : ¬ ∃ p ∈ t, p.1 = j) : Tab.get d j t = d := by
  induction t with
  | nil => rfl
  | cons p t ih =>
    obtain ⟨i, v⟩ := p
    have hi : ¬ i = j := fun e => h ⟨(i, v), by simp, e⟩
    simp only [Tab.get, hi, if_false]
    exact ih fun ⟨q, hq, hh⟩ => h ⟨q, by simp [hq], hh⟩

end Sys2Proof
end

