-- ==== Sys2Proof/Laws/Commits.lean ====
section
/-! SUPPORT. The commit log: an appended entry is the latest (R429). -/

namespace Sys2Proof.Machine

variable {α : Type}

theorem Tab.mem_insert (k : Nat) (v : α) (t : Tab α) (x : Nat × α) : x ∈ Tab.insert k v t ↔ x = (k, v) ∨ x ∈ t := by
  induction t with
  | nil => simp [Tab.insert]
  | cons p t ih =>
    obtain ⟨i, y⟩ := p
    unfold Tab.insert
    split
    · simp
    · rw [List.mem_cons, ih, List.mem_cons]
      tauto

theorem Tab.mem_put_some (k : Nat) (v : α) [DecidableEq α] (t : Tab (Option α)) (x : Nat × Option α) :
    x ∈ Tab.put none k (some v) t ↔ x = (k, some v) ∨ (x ∈ t ∧ x.1 ≠ k) := by
  unfold Tab.put
  rw [if_neg (by simp), Tab.mem_insert, Tab.erase_eq_filter, List.mem_filter]
  simp

/-- The highest number of a list of entries, with its place. -/
def topOf (l : Tab (Option CEntry)) : Option (Nat × CEntry) :=
  l.foldl (fun b x =>
    match x.2, b with
    | none, _ => b
    | some e, none => some (x.1, e)
    | some e, some m => if m.2.seq < e.seq then some (x.1, e) else b) none

theorem topOf_spec (l : Tab (Option CEntry)) :
    (topOf l = none → ∀ x ∈ l, x.2 = none) ∧ (∀ m, topOf l = some m → (m.1, some m.2) ∈ l ∧ ∀ x ∈ l, ∀ e, x.2 = some e → e.seq ≤ m.2.seq) := by
  induction l using List.reverseRecOn with
  | nil => exact ⟨fun _ x hx => absurd hx (by simp), fun m h => by simp [topOf] at h⟩
  | append_singleton l a ih =>
    unfold topOf at *
    rw [List.foldl_append, List.foldl_cons, List.foldl_nil]
    generalize l.foldl _ none = b at *
    obtain ⟨k, o⟩ := a
    obtain ⟨h1, h2⟩ := ih
    cases o with
    | none =>
      refine ⟨fun h x hx => ?_, fun m h => ?_⟩
      · rcases List.mem_append.mp hx with h' | h'
        · exact h1 h x h'
        · rw [List.mem_singleton] at h'; rw [h']
      · obtain ⟨p, q⟩ := h2 m h
        refine ⟨by simp [p], fun x hx e he => ?_⟩
        rcases List.mem_append.mp hx with h' | h'
        · exact q x h' e he
        · rw [List.mem_singleton] at h'; rw [h'] at he; exact absurd he (by simp)
    | some e =>
      cases b with
      | none =>
        refine ⟨fun h => absurd h (by simp), fun m h => ?_⟩
        have hm : (k, e) = m := by simpa using h
        subst hm
        refine ⟨by simp, fun x hx e' he => ?_⟩
        rcases List.mem_append.mp hx with h' | h'
        · rw [h1 rfl x h'] at he; exact absurd he (by simp)
        · rw [List.mem_singleton] at h'; rw [h'] at he
          have : e = e' := by simpa using he
          rw [this]
      | some n =>
        obtain ⟨p, q⟩ := h2 n rfl
        dsimp only
        by_cases hs : n.2.seq < e.seq
        · rw [if_pos hs]
          refine ⟨fun h => absurd h (by simp), fun m h => ?_⟩
          have hm : (k, e) = m := by simpa using h
          subst hm
          refine ⟨by simp, fun x hx e' he => ?_⟩
          rcases List.mem_append.mp hx with h' | h'
          · exact Nat.le_trans (q x h' e' he) (Nat.le_of_lt hs)
          · rw [List.mem_singleton] at h'; rw [h'] at he
            have : e = e' := by simpa using he
            rw [this]
        · rw [if_neg hs]
          refine ⟨fun h => absurd h (by simp), fun m h => ?_⟩
          have hm : n = m := by simpa using h
          subst hm
          refine ⟨by simp [p], fun x hx e' he => ?_⟩
          rcases List.mem_append.mp hx with h' | h'
          · exact q x h' e' he
          · rw [List.mem_singleton] at h'; rw [h'] at he
            have : e = e' := by simpa using he
            rw [← this]; exact Nat.le_of_not_lt hs

/-- An entry above every other is the latest. -/
theorem topOf_of (l : Tab (Option CEntry)) (k : Nat) (e : CEntry) (h : (k, some e) ∈ l) (hs : ∀ x ∈ l, ∀ f, x.2 = some f → x = (k, some e) ∨ f.seq < e.seq) :
    topOf l = some (k, e) := by
  obtain ⟨h1, h2⟩ := topOf_spec l
  cases ht : topOf l with
  | none => exact absurd (h1 ht _ h) (by simp)
  | some m =>
    obtain ⟨p, q⟩ := h2 m ht
    have hle := q _ h e rfl
    rcases hs _ p m.2 rfl with he | he
    · have e1 : m.1 = k := congrArg Prod.fst he
      have e2 : some m.2 = some e := congrArg Prod.snd he
      rw [← e1, ← Option.some.inj e2]
    · omega

/-- R429: the entry appended is the latest, its number one above the latest before it. -/
theorem State.append_latest (s : State) (e : CEntry) : (s.append e).latest = { e with seq := s.latest.seq + 1 } := by
  have top : s.latestAt = topOf s.commits := rfl
  obtain ⟨h1, h2⟩ := topOf_spec s.commits
  have low : ∀ x ∈ s.commits, ∀ f, x.2 = some f → f.seq < s.latest.seq + 1 := by
    intro x hx f hf
    unfold State.latest
    rw [top]
    cases ht : topOf s.commits with
    | none => rw [h1 ht x hx] at hf; exact absurd hf (by simp)
    | some m => exact Nat.lt_succ_of_le ((h2 m ht).2 x hx f hf)
  generalize hn : ({ e with seq := s.latest.seq + 1 } : CEntry) = n
  have hseq : n.seq = s.latest.seq + 1 := by rw [← hn]
  obtain ⟨key, L, hL, hin, hsub⟩ : ∃ key L, (s.append e).commits = L ∧ (key, some n) ∈ L ∧ ∀ x ∈ L, x = (key, some n) ∨ x ∈ s.commits := by
    refine ⟨s.nextPlace, _, rfl, ?_, ?_⟩
    · unfold State.append
      dsimp only
      rw [hn]
      generalize s.nextPlace = key
      have hp : (key, some n) ∈ Tab.put none key (some n) (if key % 1024 = 0 then Tab.clear key 1024 s.commits else s.commits) := (Tab.mem_put_some _ _ _ _).mpr (.inl rfl)
      split
      · unfold Tab.clear
        rw [List.mem_filter]
        refine ⟨hp, ?_⟩
        simp only [Bool.not_eq_true', Bool.and_eq_false_iff, decide_eq_false_iff_not]
        omega
      · exact hp
    · unfold State.append
      dsimp only
      rw [hn]
      generalize s.nextPlace = key
      intro x hx
      have hx' : x ∈ Tab.put none key (some n) (if key % 1024 = 0 then Tab.clear key 1024 s.commits else s.commits) := by
        split at hx
        · exact (List.mem_filter.mp hx).1
        · exact hx
      rcases (Tab.mem_put_some _ _ _ _).mp hx' with h | h
      · exact .inl h
      · right
        have := h.1
        split at this
        · exact (List.mem_filter.mp this).1
        · exact this
  have ht : (s.append e).latestAt = some (key, n) := by
    show topOf (s.append e).commits = _
    rw [hL]
    refine topOf_of L key n hin fun x hx f hf => ?_
    rcases hsub x hx with h | h
    · exact .inl h
    · exact .inr (by rw [hseq]; exact low x h f hf)
  show (match (s.append e).latestAt with | some x => x.2 | none => _) = n
  rw [ht]

end Sys2Proof.Machine
end

