-- ==== Sys2Proof/Laws/Fields.lean ====
section
/-! SUPPORT. Bit fields: a field read after one is set. -/

namespace Sys2Proof

theorem fld_lt {n : Nat} (w : BitVec n) (lo len : Nat) : fld w lo len < 2 ^ len := (w.extractLsb' lo len).isLt

theorem getLsbD_setFld {n : Nat} (w : BitVec n) (lo len v i : Nat) (hi : i < n) :
    (setFld w lo len v).getLsbD i = if lo ≤ i ∧ i < lo + len then v.testBit (i - lo) else w.getLsbD i := by
  unfold setFld maskAt
  simp only [BitVec.getLsbD_or, BitVec.getLsbD_and, BitVec.getLsbD_not, BitVec.getLsbD_ofNat, Nat.testBit_shiftLeft, hi,
    decide_true, Bool.true_and, Nat.testBit_two_pow_sub_one, Nat.testBit_mod_two_pow]
  by_cases h : lo ≤ i ∧ i < lo + len
  · have h2 : i - lo < len := by omega
    simp [h.1, h.2, h2]
  · rw [if_neg h]
    by_cases h1 : lo ≤ i
    · have h2 : ¬ i - lo < len := by omega
      simp [h1, h2]
    · simp [h1]

/-- The field that was set. -/
theorem fld_setFld {n : Nat} (w : BitVec n) (lo len v : Nat) (h : lo + len ≤ n) :
    fld (setFld w lo len v) lo len = v % 2 ^ len := by
  apply Nat.eq_of_testBit_eq
  intro i
  unfold fld
  rw [Nat.testBit_mod_two_pow]
  by_cases hi : i < len
  · rw [BitVec.testBit_toNat, BitVec.getLsbD_extractLsb', getLsbD_setFld _ _ _ _ _ (by omega)]
    simp [hi]
  · rw [BitVec.testBit_toNat, BitVec.getLsbD_of_ge _ _ (by omega)]
    simp [hi]

/-- A field that lies apart from the one that was set. -/
theorem fld_setFld_ne {n : Nat} (w : BitVec n) (lo len v lo' len' : Nat) (h : lo + len ≤ lo' ∨ lo' + len' ≤ lo) :
    fld (setFld w lo len v) lo' len' = fld w lo' len' := by
  apply Nat.eq_of_testBit_eq
  intro i
  unfold fld
  rw [BitVec.testBit_toNat, BitVec.testBit_toNat, BitVec.getLsbD_extractLsb', BitVec.getLsbD_extractLsb']
  by_cases hi : i < len'
  · by_cases hn : lo' + i < n
    · rw [getLsbD_setFld _ _ _ _ _ hn, if_neg (by omega)]
    · rw [BitVec.getLsbD_of_ge _ _ (by omega), BitVec.getLsbD_of_ge _ _ (by omega)]
  · simp [hi]

theorem bit_eq_fld {n : Nat} (w : BitVec n) (i : Nat) : bit w i = (fld w i 1 == 1) := by
  unfold bit fld
  have h : (w.extractLsb' i 1).getLsbD 0 = w.getLsbD i := by rw [BitVec.getLsbD_extractLsb']; simp
  rw [← h]
  generalize w.extractLsb' i 1 = x
  revert x
  decide

@[simp] theorem fld_zero (n lo len : Nat) : fld (0 : BitVec n) lo len = 0 := by unfold fld; simp

/-- A bit that was set. -/
theorem bit_setBit {n : Nat} (w : BitVec n) (i : Nat) (b : Bool) (h : i < n) : bit (setBit w i b) i = b := by
  rw [bit_eq_fld, setBit, fld_setFld _ _ _ _ (by omega)]; cases b <;> rfl

theorem bit_setBit_ne {n : Nat} (w : BitVec n) (i j : Nat) (b : Bool) (h : j ≠ i) : bit (setBit w i b) j = bit w j := by
  rw [bit_eq_fld, bit_eq_fld, setBit, fld_setFld_ne _ _ _ _ _ _ (by omega)]

theorem bit_setFld_ne {n : Nat} (w : BitVec n) (lo len v j : Nat) (h : j < lo ∨ lo + len ≤ j) :
    bit (setFld w lo len v) j = bit w j := by
  rw [bit_eq_fld, bit_eq_fld, fld_setFld_ne _ _ _ _ _ _ (by omega)]

theorem fld_setBit_ne {n : Nat} (w : BitVec n) (i lo len : Nat) (b : Bool) (h : i < lo ∨ lo + len ≤ i) :
    fld (setBit w i b) lo len = fld w lo len := fld_setFld_ne _ _ _ _ _ _ (by omega)

theorem bits_toNat {n : Nat} (w : BitVec n) (lo len : Nat) : (bits w lo len).toNat = fld w lo len := rfl

/-- A field that a write mask covers takes the written bits. -/
theorem fld_mergeMask {n : Nat} (m w v : BitVec n) (lo len : Nat) (h : ∀ i < len, m.getLsbD (lo + i) = true) :
    fld (mergeMask m w v) lo len = fld v lo len := by
  apply Nat.eq_of_testBit_eq
  intro i
  unfold fld mergeMask
  rw [BitVec.testBit_toNat, BitVec.testBit_toNat, BitVec.getLsbD_extractLsb', BitVec.getLsbD_extractLsb']
  by_cases hi : i < len
  · have := h i hi
    have hn : lo + i < n := by
      by_contra hh; rw [BitVec.getLsbD_of_ge _ _ (by omega)] at this; simp at this
    simp only [BitVec.getLsbD_or, BitVec.getLsbD_and, BitVec.getLsbD_not, this]; simp [hn]
  · simp [hi]

/-- A field that a write mask leaves alone stands. -/
theorem fld_mergeMask_ne {n : Nat} (m w v : BitVec n) (lo len : Nat) (h : ∀ i < len, m.getLsbD (lo + i) = false) :
    fld (mergeMask m w v) lo len = fld w lo len := by
  apply Nat.eq_of_testBit_eq
  intro i
  unfold fld mergeMask
  rw [BitVec.testBit_toNat, BitVec.testBit_toNat, BitVec.getLsbD_extractLsb', BitVec.getLsbD_extractLsb']
  by_cases hi : i < len
  · have := h i hi
    by_cases hn : lo + i < n
    · simp only [BitVec.getLsbD_or, BitVec.getLsbD_and, BitVec.getLsbD_not, this]; simp [hn]
    · rw [BitVec.getLsbD_of_ge _ _ (by omega), BitVec.getLsbD_of_ge _ _ (by omega)]
  · simp [hi]

theorem fld_ofNat (v lo len : Nat) (h : lo + len ≤ 64) : fld (BitVec.ofNat 64 v) lo len = v / 2 ^ lo % 2 ^ len := by
  unfold fld
  rw [BitVec.extractLsb'_toNat, BitVec.toNat_ofNat, Nat.shiftRight_eq_div_pow]
  conv => lhs; rw [show 64 = lo + (64 - lo) by omega, Nat.pow_add, Nat.mod_mul_right_div_self]
  exact Nat.mod_mod_of_dvd _ (Nat.pow_dvd_pow 2 (by omega))

end Sys2Proof
end

