-- ==== Sys2Proof/Laws/State.lean ====
section
/-! SUPPORT. The state's fields under each primitive update, and a register, core or byte read after a write of one. -/

namespace Sys2Proof.Machine

/-! `setReg` -/

@[simp] theorem State.setReg_pending (s : State) (off : Nat) (v : W64) : (s.setReg off v).pending = s.pending := rfl
@[simp] theorem State.setReg_freeIx (s : State) (off : Nat) (v : W64) : (s.setReg off v).freeIx = s.freeIx := rfl
@[simp] theorem State.setReg_heldLo (s : State) (off : Nat) (v : W64) : (s.setReg off v).heldLo = s.heldLo := rfl
@[simp] theorem State.setReg_capHi (s : State) (off : Nat) (v : W64) : (s.setReg off v).capHi = s.capHi := rfl
@[simp] theorem State.setReg_mem (s : State) (off : Nat) (v : W64) : (s.setReg off v).mem = s.mem := rfl
@[simp] theorem State.setReg_cores (s : State) (off : Nat) (v : W64) : (s.setReg off v).cores = s.cores := rfl
@[simp] theorem State.setReg_grade (s : State) (off : Nat) (v : W64) : (s.setReg off v).grade = s.grade := rfl
@[simp] theorem State.setReg_evcHeld (s : State) (off : Nat) (v : W64) : (s.setReg off v).evcHeld = s.evcHeld := rfl
@[simp] theorem State.setReg_out (s : State) (off : Nat) (v : W64) : (s.setReg off v).out = s.out := rfl
@[simp] theorem State.setReg_journal (s : State) (off : Nat) (v : W64) : (s.setReg off v).journal = s.journal := rfl
@[simp] theorem State.setReg_backlog (s : State) (off : Nat) (v : W64) : (s.setReg off v).backlog = s.backlog := rfl
@[simp] theorem State.setReg_jNext (s : State) (off : Nat) (v : W64) : (s.setReg off v).jNext = s.jNext := rfl
@[simp] theorem State.setReg_jDropped (s : State) (off : Nat) (v : W64) : (s.setReg off v).jDropped = s.jDropped := rfl
@[simp] theorem State.setReg_numDefault (s : State) (off : Nat) (v : W64) : (s.setReg off v).numDefault = s.numDefault := rfl
@[simp] theorem State.setReg_ctls (s : State) (off : Nat) (v : W64) : (s.setReg off v).ctls = s.ctls := rfl
@[simp] theorem State.setReg_hppr (s : State) (off : Nat) (v : W64) : (s.setReg off v).hppr = s.hppr := rfl
@[simp] theorem State.setReg_rechecks (s : State) (off : Nat) (v : W64) : (s.setReg off v).rechecks = s.rechecks := rfl
@[simp] theorem State.setReg_chk (s : State) (off : Nat) (v : W64) : (s.setReg off v).chk = s.chk := rfl
@[simp] theorem State.setReg_vsp (s : State) (off : Nat) (v : W64) : (s.setReg off v).vsp = s.vsp := rfl
@[simp] theorem State.setReg_deadDies (s : State) (off : Nat) (v : W64) : (s.setReg off v).deadDies = s.deadDies := rfl
@[simp] theorem State.setReg_mapGen (s : State) (off : Nat) (v : W64) : (s.setReg off v).mapGen = s.mapGen := rfl
@[simp] theorem State.setReg_mapTime (s : State) (off : Nat) (v : W64) : (s.setReg off v).mapTime = s.mapTime := rfl
@[simp] theorem State.setReg_fabTx (s : State) (off : Nat) (v : W64) : (s.setReg off v).fabTx = s.fabTx := rfl
@[simp] theorem State.setReg_fabRx (s : State) (off : Nat) (v : W64) : (s.setReg off v).fabRx = s.fabRx := rfl
@[simp] theorem State.setReg_router (s : State) (off : Nat) (v : W64) : (s.setReg off v).router = s.router := rfl
@[simp] theorem State.setReg_arb (s : State) (off : Nat) (v : W64) : (s.setReg off v).arb = s.arb := rfl
@[simp] theorem State.setReg_txCred (s : State) (off : Nat) (v : W64) : (s.setReg off v).txCred = s.txCred := rfl
@[simp] theorem State.setReg_granted (s : State) (off : Nat) (v : W64) : (s.setReg off v).granted = s.granted := rfl
@[simp] theorem State.setReg_occ (s : State) (off : Nat) (v : W64) : (s.setReg off v).occ = s.occ := rfl
@[simp] theorem State.setReg_arrived (s : State) (off : Nat) (v : W64) : (s.setReg off v).arrived = s.arrived := rfl
@[simp] theorem State.setReg_altRun (s : State) (off : Nat) (v : W64) : (s.setReg off v).altRun = s.altRun := rfl
@[simp] theorem State.setReg_deadLinks (s : State) (off : Nat) (v : W64) : (s.setReg off v).deadLinks = s.deadLinks := rfl
@[simp] theorem State.setReg_deadOwn (s : State) (off : Nat) (v : W64) : (s.setReg off v).deadOwn = s.deadOwn := rfl
@[simp] theorem State.setReg_fseqOwn (s : State) (off : Nat) (v : W64) : (s.setReg off v).fseqOwn = s.fseqOwn := rfl
@[simp] theorem State.setReg_fseqSeen (s : State) (off : Nat) (v : W64) : (s.setReg off v).fseqSeen = s.fseqSeen := rfl
@[simp] theorem State.setReg_violNow (s : State) (off : Nat) (v : W64) : (s.setReg off v).violNow = s.violNow := rfl
@[simp] theorem State.setReg_quiet (s : State) (off : Nat) (v : W64) : (s.setReg off v).quiet = s.quiet := rfl
@[simp] theorem State.setReg_portMap (s : State) (off : Nat) (v : W64) : (s.setReg off v).portMap = s.portMap := rfl
@[simp] theorem State.setReg_spareMap (s : State) (off : Nat) (v : W64) : (s.setReg off v).spareMap = s.spareMap := rfl
@[simp] theorem State.setReg_oports (s : State) (off : Nat) (v : W64) : (s.setReg off v).oports = s.oports := rfl
@[simp] theorem State.setReg_badSpares (s : State) (off : Nat) (v : W64) : (s.setReg off v).badSpares = s.badSpares := rfl
@[simp] theorem State.setReg_fan (s : State) (off : Nat) (v : W64) : (s.setReg off v).fan = s.fan := rfl
@[simp] theorem State.setReg_meshWait (s : State) (off : Nat) (v : W64) : (s.setReg off v).meshWait = s.meshWait := rfl
@[simp] theorem State.setReg_trainQ (s : State) (off : Nat) (v : W64) : (s.setReg off v).trainQ = s.trainQ := rfl
@[simp] theorem State.setReg_heatMove (s : State) (off : Nat) (v : W64) : (s.setReg off v).heatMove = s.heatMove := rfl
@[simp] theorem State.setReg_heatTemp (s : State) (off : Nat) (v : W64) : (s.setReg off v).heatTemp = s.heatTemp := rfl
@[simp] theorem State.setReg_recalling (s : State) (off : Nat) (v : W64) : (s.setReg off v).recalling = s.recalling := rfl
@[simp] theorem State.setReg_recalDue (s : State) (off : Nat) (v : W64) : (s.setReg off v).recalDue = s.recalDue := rfl
@[simp] theorem State.setReg_iodVer (s : State) (off : Nat) (v : W64) : (s.setReg off v).iodVer = s.iodVer := rfl
@[simp] theorem State.setReg_dmods (s : State) (off : Nat) (v : W64) : (s.setReg off v).dmods = s.dmods := rfl
@[simp] theorem State.setReg_steer (s : State) (off : Nat) (v : W64) : (s.setReg off v).steer = s.steer := rfl
@[simp] theorem State.setReg_steerLast (s : State) (off : Nat) (v : W64) : (s.setReg off v).steerLast = s.steerLast := rfl
@[simp] theorem State.setReg_movedFlows (s : State) (off : Nat) (v : W64) : (s.setReg off v).movedFlows = s.movedFlows := rfl
@[simp] theorem State.setReg_drCred (s : State) (off : Nat) (v : W64) : (s.setReg off v).drCred = s.drCred := rfl
@[simp] theorem State.setReg_drPart (s : State) (off : Nat) (v : W64) : (s.setReg off v).drPart = s.drPart := rfl
@[simp] theorem State.setReg_drOwed (s : State) (off : Nat) (v : W64) : (s.setReg off v).drOwed = s.drOwed := rfl
@[simp] theorem State.setReg_drQueue (s : State) (off : Nat) (v : W64) : (s.setReg off v).drQueue = s.drQueue := rfl
@[simp] theorem State.setReg_attached (s : State) (off : Nat) (v : W64) : (s.setReg off v).attached = s.attached := rfl
@[simp] theorem State.setReg_wdTimes (s : State) (off : Nat) (v : W64) : (s.setReg off v).wdTimes = s.wdTimes := rfl
@[simp] theorem State.setReg_rsbOut (s : State) (off : Nat) (v : W64) : (s.setReg off v).rsbOut = s.rsbOut := rfl
@[simp] theorem State.setReg_rsbRid (s : State) (off : Nat) (v : W64) : (s.setReg off v).rsbRid = s.rsbRid := rfl
@[simp] theorem State.setReg_epochs (s : State) (off : Nat) (v : W64) : (s.setReg off v).epochs = s.epochs := rfl
@[simp] theorem State.setReg_rldJobs (s : State) (off : Nat) (v : W64) : (s.setReg off v).rldJobs = s.rldJobs := rfl
@[simp] theorem State.setReg_rlc (s : State) (off : Nat) (v : W64) : (s.setReg off v).rlc = s.rlc := rfl
@[simp] theorem State.setReg_homeQ (s : State) (off : Nat) (v : W64) : (s.setReg off v).homeQ = s.homeQ := rfl
@[simp] theorem State.setReg_replies (s : State) (off : Nat) (v : W64) : (s.setReg off v).replies = s.replies := rfl
@[simp] theorem State.setReg_selfRsp (s : State) (off : Nat) (v : W64) : (s.setReg off v).selfRsp = s.selfRsp := rfl
@[simp] theorem State.setReg_dma (s : State) (off : Nat) (v : W64) : (s.setReg off v).dma = s.dma := rfl
@[simp] theorem State.setReg_colGrps (s : State) (off : Nat) (v : W64) : (s.setReg off v).colGrps = s.colGrps := rfl
@[simp] theorem State.setReg_colSites (s : State) (off : Nat) (v : W64) : (s.setReg off v).colSites = s.colSites := rfl
@[simp] theorem State.setReg_colWait (s : State) (off : Nat) (v : W64) : (s.setReg off v).colWait = s.colWait := rfl
@[simp] theorem State.setReg_colTurn (s : State) (off : Nat) (v : W64) : (s.setReg off v).colTurn = s.colTurn := rfl
@[simp] theorem State.setReg_off (s : State) (off : Nat) (v : W64) : (s.setReg off v).off = s.off := rfl
@[simp] theorem State.setReg_porst (s : State) (off : Nat) (v : W64) : (s.setReg off v).porst = s.porst := rfl
@[simp] theorem State.setReg_jobs (s : State) (off : Nat) (v : W64) : (s.setReg off v).jobs = s.jobs := rfl
@[simp] theorem State.setReg_jqLast (s : State) (off : Nat) (v : W64) : (s.setReg off v).jqLast = s.jqLast := rfl
@[simp] theorem State.setReg_holds (s : State) (off : Nat) (v : W64) : (s.setReg off v).holds = s.holds := rfl
@[simp] theorem State.setReg_drainRun (s : State) (off : Nat) (v : W64) : (s.setReg off v).drainRun = s.drainRun := rfl
@[simp] theorem State.setReg_flash (s : State) (off : Nat) (v : W64) : (s.setReg off v).flash = s.flash := rfl
@[simp] theorem State.setReg_commits (s : State) (off : Nat) (v : W64) : (s.setReg off v).commits = s.commits := rfl
@[simp] theorem State.setReg_otpGold (s : State) (off : Nat) (v : W64) : (s.setReg off v).otpGold = s.otpGold := rfl
@[simp] theorem State.setReg_otpOwner (s : State) (off : Nat) (v : W64) : (s.setReg off v).otpOwner = s.otpOwner := rfl
@[simp] theorem State.setReg_ownerKeys (s : State) (off : Nat) (v : W64) : (s.setReg off v).ownerKeys = s.ownerKeys := rfl
@[simp] theorem State.setReg_svnFloor (s : State) (off : Nat) (v : W64) : (s.setReg off v).svnFloor = s.svnFloor := rfl
@[simp] theorem State.setReg_runSvn (s : State) (off : Nat) (v : W64) : (s.setReg off v).runSvn = s.runSvn := rfl
@[simp] theorem State.setReg_update (s : State) (off : Nat) (v : W64) : (s.setReg off v).update = s.update := rfl
@[simp] theorem State.setReg_nonce (s : State) (off : Nat) (v : W64) : (s.setReg off v).nonce = s.nonce := rfl
@[simp] theorem State.setReg_dieMiss (s : State) (off : Nat) (v : W64) : (s.setReg off v).dieMiss = s.dieMiss := rfl
@[simp] theorem State.setReg_pwrFail (s : State) (off : Nat) (v : W64) : (s.setReg off v).pwrFail = s.pwrFail := rfl
@[simp] theorem State.setReg_vin (s : State) (off : Nat) (v : W64) : (s.setReg off v).vin = s.vin := rfl
@[simp] theorem State.setReg_perst (s : State) (off : Nat) (v : W64) : (s.setReg off v).perst = s.perst := rfl
@[simp] theorem State.setReg_cfg (s : State) (off : Nat) (v : W64) : (s.setReg off v).cfg = s.cfg := rfl
@[simp] theorem State.setReg_aer (s : State) (off : Nat) (v : W64) : (s.setReg off v).aer = s.aer := rfl
@[simp] theorem State.setReg_tapIr (s : State) (off : Nat) (v : W64) : (s.setReg off v).tapIr = s.tapIr := rfl
@[simp] theorem State.setReg_scan (s : State) (off : Nat) (v : W64) : (s.setReg off v).scan = s.scan := rfl
@[simp] theorem State.setReg_rails (s : State) (off : Nat) (v : W64) : (s.setReg off v).rails = s.rails := rfl
@[simp] theorem State.setReg_regl (s : State) (off : Nat) (v : W64) : (s.setReg off v).regl = s.regl := rfl
@[simp] theorem State.setReg_therm (s : State) (off : Nat) (v : W64) : (s.setReg off v).therm = s.therm := rfl
@[simp] theorem State.setReg_stretch (s : State) (off : Nat) (v : W64) : (s.setReg off v).stretch = s.stretch := rfl
@[simp] theorem State.setReg_escEnd (s : State) (off : Nat) (v : W64) : (s.setReg off v).escEnd = s.escEnd := rfl
@[simp] theorem State.setReg_pkgParams (s : State) (off : Nat) (v : W64) : (s.setReg off v).pkgParams = s.pkgParams := rfl

/-! `setCore` -/

@[simp] theorem State.setCore_pending (s : State) (c : Nat) (k : Core) : (s.setCore c k).pending = s.pending := rfl
@[simp] theorem State.setCore_freeIx (s : State) (c : Nat) (k : Core) : (s.setCore c k).freeIx = s.freeIx := rfl
@[simp] theorem State.setCore_regs (s : State) (c : Nat) (k : Core) : (s.setCore c k).regs = s.regs := rfl
@[simp] theorem State.setCore_heldLo (s : State) (c : Nat) (k : Core) : (s.setCore c k).heldLo = s.heldLo := rfl
@[simp] theorem State.setCore_capHi (s : State) (c : Nat) (k : Core) : (s.setCore c k).capHi = s.capHi := rfl
@[simp] theorem State.setCore_mem (s : State) (c : Nat) (k : Core) : (s.setCore c k).mem = s.mem := rfl
@[simp] theorem State.setCore_grade (s : State) (c : Nat) (k : Core) : (s.setCore c k).grade = s.grade := rfl
@[simp] theorem State.setCore_evcHeld (s : State) (c : Nat) (k : Core) : (s.setCore c k).evcHeld = s.evcHeld := rfl
@[simp] theorem State.setCore_out (s : State) (c : Nat) (k : Core) : (s.setCore c k).out = s.out := rfl
@[simp] theorem State.setCore_journal (s : State) (c : Nat) (k : Core) : (s.setCore c k).journal = s.journal := rfl
@[simp] theorem State.setCore_backlog (s : State) (c : Nat) (k : Core) : (s.setCore c k).backlog = s.backlog := rfl
@[simp] theorem State.setCore_jNext (s : State) (c : Nat) (k : Core) : (s.setCore c k).jNext = s.jNext := rfl
@[simp] theorem State.setCore_jDropped (s : State) (c : Nat) (k : Core) : (s.setCore c k).jDropped = s.jDropped := rfl
@[simp] theorem State.setCore_numDefault (s : State) (c : Nat) (k : Core) : (s.setCore c k).numDefault = s.numDefault := rfl
@[simp] theorem State.setCore_ctls (s : State) (c : Nat) (k : Core) : (s.setCore c k).ctls = s.ctls := rfl
@[simp] theorem State.setCore_hppr (s : State) (c : Nat) (k : Core) : (s.setCore c k).hppr = s.hppr := rfl
@[simp] theorem State.setCore_rechecks (s : State) (c : Nat) (k : Core) : (s.setCore c k).rechecks = s.rechecks := rfl
@[simp] theorem State.setCore_chk (s : State) (c : Nat) (k : Core) : (s.setCore c k).chk = s.chk := rfl
@[simp] theorem State.setCore_vsp (s : State) (c : Nat) (k : Core) : (s.setCore c k).vsp = s.vsp := rfl
@[simp] theorem State.setCore_deadDies (s : State) (c : Nat) (k : Core) : (s.setCore c k).deadDies = s.deadDies := rfl
@[simp] theorem State.setCore_mapGen (s : State) (c : Nat) (k : Core) : (s.setCore c k).mapGen = s.mapGen := rfl
@[simp] theorem State.setCore_mapTime (s : State) (c : Nat) (k : Core) : (s.setCore c k).mapTime = s.mapTime := rfl
@[simp] theorem State.setCore_fabTx (s : State) (c : Nat) (k : Core) : (s.setCore c k).fabTx = s.fabTx := rfl
@[simp] theorem State.setCore_fabRx (s : State) (c : Nat) (k : Core) : (s.setCore c k).fabRx = s.fabRx := rfl
@[simp] theorem State.setCore_router (s : State) (c : Nat) (k : Core) : (s.setCore c k).router = s.router := rfl
@[simp] theorem State.setCore_arb (s : State) (c : Nat) (k : Core) : (s.setCore c k).arb = s.arb := rfl
@[simp] theorem State.setCore_txCred (s : State) (c : Nat) (k : Core) : (s.setCore c k).txCred = s.txCred := rfl
@[simp] theorem State.setCore_granted (s : State) (c : Nat) (k : Core) : (s.setCore c k).granted = s.granted := rfl
@[simp] theorem State.setCore_occ (s : State) (c : Nat) (k : Core) : (s.setCore c k).occ = s.occ := rfl
@[simp] theorem State.setCore_arrived (s : State) (c : Nat) (k : Core) : (s.setCore c k).arrived = s.arrived := rfl
@[simp] theorem State.setCore_altRun (s : State) (c : Nat) (k : Core) : (s.setCore c k).altRun = s.altRun := rfl
@[simp] theorem State.setCore_deadLinks (s : State) (c : Nat) (k : Core) : (s.setCore c k).deadLinks = s.deadLinks := rfl
@[simp] theorem State.setCore_deadOwn (s : State) (c : Nat) (k : Core) : (s.setCore c k).deadOwn = s.deadOwn := rfl
@[simp] theorem State.setCore_fseqOwn (s : State) (c : Nat) (k : Core) : (s.setCore c k).fseqOwn = s.fseqOwn := rfl
@[simp] theorem State.setCore_fseqSeen (s : State) (c : Nat) (k : Core) : (s.setCore c k).fseqSeen = s.fseqSeen := rfl
@[simp] theorem State.setCore_violNow (s : State) (c : Nat) (k : Core) : (s.setCore c k).violNow = s.violNow := rfl
@[simp] theorem State.setCore_quiet (s : State) (c : Nat) (k : Core) : (s.setCore c k).quiet = s.quiet := rfl
@[simp] theorem State.setCore_portMap (s : State) (c : Nat) (k : Core) : (s.setCore c k).portMap = s.portMap := rfl
@[simp] theorem State.setCore_spareMap (s : State) (c : Nat) (k : Core) : (s.setCore c k).spareMap = s.spareMap := rfl
@[simp] theorem State.setCore_oports (s : State) (c : Nat) (k : Core) : (s.setCore c k).oports = s.oports := rfl
@[simp] theorem State.setCore_badSpares (s : State) (c : Nat) (k : Core) : (s.setCore c k).badSpares = s.badSpares := rfl
@[simp] theorem State.setCore_fan (s : State) (c : Nat) (k : Core) : (s.setCore c k).fan = s.fan := rfl
@[simp] theorem State.setCore_meshWait (s : State) (c : Nat) (k : Core) : (s.setCore c k).meshWait = s.meshWait := rfl
@[simp] theorem State.setCore_trainQ (s : State) (c : Nat) (k : Core) : (s.setCore c k).trainQ = s.trainQ := rfl
@[simp] theorem State.setCore_heatMove (s : State) (c : Nat) (k : Core) : (s.setCore c k).heatMove = s.heatMove := rfl
@[simp] theorem State.setCore_heatTemp (s : State) (c : Nat) (k : Core) : (s.setCore c k).heatTemp = s.heatTemp := rfl
@[simp] theorem State.setCore_recalling (s : State) (c : Nat) (k : Core) : (s.setCore c k).recalling = s.recalling := rfl
@[simp] theorem State.setCore_recalDue (s : State) (c : Nat) (k : Core) : (s.setCore c k).recalDue = s.recalDue := rfl
@[simp] theorem State.setCore_iodVer (s : State) (c : Nat) (k : Core) : (s.setCore c k).iodVer = s.iodVer := rfl
@[simp] theorem State.setCore_dmods (s : State) (c : Nat) (k : Core) : (s.setCore c k).dmods = s.dmods := rfl
@[simp] theorem State.setCore_steer (s : State) (c : Nat) (k : Core) : (s.setCore c k).steer = s.steer := rfl
@[simp] theorem State.setCore_steerLast (s : State) (c : Nat) (k : Core) : (s.setCore c k).steerLast = s.steerLast := rfl
@[simp] theorem State.setCore_movedFlows (s : State) (c : Nat) (k : Core) : (s.setCore c k).movedFlows = s.movedFlows := rfl
@[simp] theorem State.setCore_drCred (s : State) (c : Nat) (k : Core) : (s.setCore c k).drCred = s.drCred := rfl
@[simp] theorem State.setCore_drPart (s : State) (c : Nat) (k : Core) : (s.setCore c k).drPart = s.drPart := rfl
@[simp] theorem State.setCore_drOwed (s : State) (c : Nat) (k : Core) : (s.setCore c k).drOwed = s.drOwed := rfl
@[simp] theorem State.setCore_drQueue (s : State) (c : Nat) (k : Core) : (s.setCore c k).drQueue = s.drQueue := rfl
@[simp] theorem State.setCore_attached (s : State) (c : Nat) (k : Core) : (s.setCore c k).attached = s.attached := rfl
@[simp] theorem State.setCore_wdTimes (s : State) (c : Nat) (k : Core) : (s.setCore c k).wdTimes = s.wdTimes := rfl
@[simp] theorem State.setCore_rsbOut (s : State) (c : Nat) (k : Core) : (s.setCore c k).rsbOut = s.rsbOut := rfl
@[simp] theorem State.setCore_rsbRid (s : State) (c : Nat) (k : Core) : (s.setCore c k).rsbRid = s.rsbRid := rfl
@[simp] theorem State.setCore_epochs (s : State) (c : Nat) (k : Core) : (s.setCore c k).epochs = s.epochs := rfl
@[simp] theorem State.setCore_rldJobs (s : State) (c : Nat) (k : Core) : (s.setCore c k).rldJobs = s.rldJobs := rfl
@[simp] theorem State.setCore_rlc (s : State) (c : Nat) (k : Core) : (s.setCore c k).rlc = s.rlc := rfl
@[simp] theorem State.setCore_homeQ (s : State) (c : Nat) (k : Core) : (s.setCore c k).homeQ = s.homeQ := rfl
@[simp] theorem State.setCore_replies (s : State) (c : Nat) (k : Core) : (s.setCore c k).replies = s.replies := rfl
@[simp] theorem State.setCore_selfRsp (s : State) (c : Nat) (k : Core) : (s.setCore c k).selfRsp = s.selfRsp := rfl
@[simp] theorem State.setCore_dma (s : State) (c : Nat) (k : Core) : (s.setCore c k).dma = s.dma := rfl
@[simp] theorem State.setCore_colGrps (s : State) (c : Nat) (k : Core) : (s.setCore c k).colGrps = s.colGrps := rfl
@[simp] theorem State.setCore_colSites (s : State) (c : Nat) (k : Core) : (s.setCore c k).colSites = s.colSites := rfl
@[simp] theorem State.setCore_colWait (s : State) (c : Nat) (k : Core) : (s.setCore c k).colWait = s.colWait := rfl
@[simp] theorem State.setCore_colTurn (s : State) (c : Nat) (k : Core) : (s.setCore c k).colTurn = s.colTurn := rfl
@[simp] theorem State.setCore_off (s : State) (c : Nat) (k : Core) : (s.setCore c k).off = s.off := rfl
@[simp] theorem State.setCore_porst (s : State) (c : Nat) (k : Core) : (s.setCore c k).porst = s.porst := rfl
@[simp] theorem State.setCore_jobs (s : State) (c : Nat) (k : Core) : (s.setCore c k).jobs = s.jobs := rfl
@[simp] theorem State.setCore_jqLast (s : State) (c : Nat) (k : Core) : (s.setCore c k).jqLast = s.jqLast := rfl
@[simp] theorem State.setCore_holds (s : State) (c : Nat) (k : Core) : (s.setCore c k).holds = s.holds := rfl
@[simp] theorem State.setCore_drainRun (s : State) (c : Nat) (k : Core) : (s.setCore c k).drainRun = s.drainRun := rfl
@[simp] theorem State.setCore_flash (s : State) (c : Nat) (k : Core) : (s.setCore c k).flash = s.flash := rfl
@[simp] theorem State.setCore_commits (s : State) (c : Nat) (k : Core) : (s.setCore c k).commits = s.commits := rfl
@[simp] theorem State.setCore_otpGold (s : State) (c : Nat) (k : Core) : (s.setCore c k).otpGold = s.otpGold := rfl
@[simp] theorem State.setCore_otpOwner (s : State) (c : Nat) (k : Core) : (s.setCore c k).otpOwner = s.otpOwner := rfl
@[simp] theorem State.setCore_ownerKeys (s : State) (c : Nat) (k : Core) : (s.setCore c k).ownerKeys = s.ownerKeys := rfl
@[simp] theorem State.setCore_svnFloor (s : State) (c : Nat) (k : Core) : (s.setCore c k).svnFloor = s.svnFloor := rfl
@[simp] theorem State.setCore_runSvn (s : State) (c : Nat) (k : Core) : (s.setCore c k).runSvn = s.runSvn := rfl
@[simp] theorem State.setCore_update (s : State) (c : Nat) (k : Core) : (s.setCore c k).update = s.update := rfl
@[simp] theorem State.setCore_nonce (s : State) (c : Nat) (k : Core) : (s.setCore c k).nonce = s.nonce := rfl
@[simp] theorem State.setCore_dieMiss (s : State) (c : Nat) (k : Core) : (s.setCore c k).dieMiss = s.dieMiss := rfl
@[simp] theorem State.setCore_pwrFail (s : State) (c : Nat) (k : Core) : (s.setCore c k).pwrFail = s.pwrFail := rfl
@[simp] theorem State.setCore_vin (s : State) (c : Nat) (k : Core) : (s.setCore c k).vin = s.vin := rfl
@[simp] theorem State.setCore_perst (s : State) (c : Nat) (k : Core) : (s.setCore c k).perst = s.perst := rfl
@[simp] theorem State.setCore_cfg (s : State) (c : Nat) (k : Core) : (s.setCore c k).cfg = s.cfg := rfl
@[simp] theorem State.setCore_aer (s : State) (c : Nat) (k : Core) : (s.setCore c k).aer = s.aer := rfl
@[simp] theorem State.setCore_tapIr (s : State) (c : Nat) (k : Core) : (s.setCore c k).tapIr = s.tapIr := rfl
@[simp] theorem State.setCore_scan (s : State) (c : Nat) (k : Core) : (s.setCore c k).scan = s.scan := rfl
@[simp] theorem State.setCore_rails (s : State) (c : Nat) (k : Core) : (s.setCore c k).rails = s.rails := rfl
@[simp] theorem State.setCore_regl (s : State) (c : Nat) (k : Core) : (s.setCore c k).regl = s.regl := rfl
@[simp] theorem State.setCore_therm (s : State) (c : Nat) (k : Core) : (s.setCore c k).therm = s.therm := rfl
@[simp] theorem State.setCore_stretch (s : State) (c : Nat) (k : Core) : (s.setCore c k).stretch = s.stretch := rfl
@[simp] theorem State.setCore_escEnd (s : State) (c : Nat) (k : Core) : (s.setCore c k).escEnd = s.escEnd := rfl
@[simp] theorem State.setCore_pkgParams (s : State) (c : Nat) (k : Core) : (s.setCore c k).pkgParams = s.pkgParams := rfl

/-! `modCore` -/

@[simp] theorem State.modCore_pending (s : State) (c : Nat) (f : Core → Core) : (s.modCore c f).pending = s.pending := rfl
@[simp] theorem State.modCore_freeIx (s : State) (c : Nat) (f : Core → Core) : (s.modCore c f).freeIx = s.freeIx := rfl
@[simp] theorem State.modCore_regs (s : State) (c : Nat) (f : Core → Core) : (s.modCore c f).regs = s.regs := rfl
@[simp] theorem State.modCore_heldLo (s : State) (c : Nat) (f : Core → Core) : (s.modCore c f).heldLo = s.heldLo := rfl
@[simp] theorem State.modCore_capHi (s : State) (c : Nat) (f : Core → Core) : (s.modCore c f).capHi = s.capHi := rfl
@[simp] theorem State.modCore_mem (s : State) (c : Nat) (f : Core → Core) : (s.modCore c f).mem = s.mem := rfl
@[simp] theorem State.modCore_grade (s : State) (c : Nat) (f : Core → Core) : (s.modCore c f).grade = s.grade := rfl
@[simp] theorem State.modCore_evcHeld (s : State) (c : Nat) (f : Core → Core) : (s.modCore c f).evcHeld = s.evcHeld := rfl
@[simp] theorem State.modCore_out (s : State) (c : Nat) (f : Core → Core) : (s.modCore c f).out = s.out := rfl
@[simp] theorem State.modCore_journal (s : State) (c : Nat) (f : Core → Core) : (s.modCore c f).journal = s.journal := rfl
@[simp] theorem State.modCore_backlog (s : State) (c : Nat) (f : Core → Core) : (s.modCore c f).backlog = s.backlog := rfl
@[simp] theorem State.modCore_jNext (s : State) (c : Nat) (f : Core → Core) : (s.modCore c f).jNext = s.jNext := rfl
@[simp] theorem State.modCore_jDropped (s : State) (c : Nat) (f : Core → Core) : (s.modCore c f).jDropped = s.jDropped := rfl
@[simp] theorem State.modCore_numDefault (s : State) (c : Nat) (f : Core → Core) : (s.modCore c f).numDefault = s.numDefault := rfl
@[simp] theorem State.modCore_ctls (s : State) (c : Nat) (f : Core → Core) : (s.modCore c f).ctls = s.ctls := rfl
@[simp] theorem State.modCore_hppr (s : State) (c : Nat) (f : Core → Core) : (s.modCore c f).hppr = s.hppr := rfl
@[simp] theorem State.modCore_rechecks (s : State) (c : Nat) (f : Core → Core) : (s.modCore c f).rechecks = s.rechecks := rfl
@[simp] theorem State.modCore_chk (s : State) (c : Nat) (f : Core → Core) : (s.modCore c f).chk = s.chk := rfl
@[simp] theorem State.modCore_vsp (s : State) (c : Nat) (f : Core → Core) : (s.modCore c f).vsp = s.vsp := rfl
@[simp] theorem State.modCore_deadDies (s : State) (c : Nat) (f : Core → Core) : (s.modCore c f).deadDies = s.deadDies := rfl
@[simp] theorem State.modCore_mapGen (s : State) (c : Nat) (f : Core → Core) : (s.modCore c f).mapGen = s.mapGen := rfl
@[simp] theorem State.modCore_mapTime (s : State) (c : Nat) (f : Core → Core) : (s.modCore c f).mapTime = s.mapTime := rfl
@[simp] theorem State.modCore_fabTx (s : State) (c : Nat) (f : Core → Core) : (s.modCore c f).fabTx = s.fabTx := rfl
@[simp] theorem State.modCore_fabRx (s : State) (c : Nat) (f : Core → Core) : (s.modCore c f).fabRx = s.fabRx := rfl
@[simp] theorem State.modCore_router (s : State) (c : Nat) (f : Core → Core) : (s.modCore c f).router = s.router := rfl
@[simp] theorem State.modCore_arb (s : State) (c : Nat) (f : Core → Core) : (s.modCore c f).arb = s.arb := rfl
@[simp] theorem State.modCore_txCred (s : State) (c : Nat) (f : Core → Core) : (s.modCore c f).txCred = s.txCred := rfl
@[simp] theorem State.modCore_granted (s : State) (c : Nat) (f : Core → Core) : (s.modCore c f).granted = s.granted := rfl
@[simp] theorem State.modCore_occ (s : State) (c : Nat) (f : Core → Core) : (s.modCore c f).occ = s.occ := rfl
@[simp] theorem State.modCore_arrived (s : State) (c : Nat) (f : Core → Core) : (s.modCore c f).arrived = s.arrived := rfl
@[simp] theorem State.modCore_altRun (s : State) (c : Nat) (f : Core → Core) : (s.modCore c f).altRun = s.altRun := rfl
@[simp] theorem State.modCore_deadLinks (s : State) (c : Nat) (f : Core → Core) : (s.modCore c f).deadLinks = s.deadLinks := rfl
@[simp] theorem State.modCore_deadOwn (s : State) (c : Nat) (f : Core → Core) : (s.modCore c f).deadOwn = s.deadOwn := rfl
@[simp] theorem State.modCore_fseqOwn (s : State) (c : Nat) (f : Core → Core) : (s.modCore c f).fseqOwn = s.fseqOwn := rfl
@[simp] theorem State.modCore_fseqSeen (s : State) (c : Nat) (f : Core → Core) : (s.modCore c f).fseqSeen = s.fseqSeen := rfl
@[simp] theorem State.modCore_violNow (s : State) (c : Nat) (f : Core → Core) : (s.modCore c f).violNow = s.violNow := rfl
@[simp] theorem State.modCore_quiet (s : State) (c : Nat) (f : Core → Core) : (s.modCore c f).quiet = s.quiet := rfl
@[simp] theorem State.modCore_portMap (s : State) (c : Nat) (f : Core → Core) : (s.modCore c f).portMap = s.portMap := rfl
@[simp] theorem State.modCore_spareMap (s : State) (c : Nat) (f : Core → Core) : (s.modCore c f).spareMap = s.spareMap := rfl
@[simp] theorem State.modCore_oports (s : State) (c : Nat) (f : Core → Core) : (s.modCore c f).oports = s.oports := rfl
@[simp] theorem State.modCore_badSpares (s : State) (c : Nat) (f : Core → Core) : (s.modCore c f).badSpares = s.badSpares := rfl
@[simp] theorem State.modCore_fan (s : State) (c : Nat) (f : Core → Core) : (s.modCore c f).fan = s.fan := rfl
@[simp] theorem State.modCore_meshWait (s : State) (c : Nat) (f : Core → Core) : (s.modCore c f).meshWait = s.meshWait := rfl
@[simp] theorem State.modCore_trainQ (s : State) (c : Nat) (f : Core → Core) : (s.modCore c f).trainQ = s.trainQ := rfl
@[simp] theorem State.modCore_heatMove (s : State) (c : Nat) (f : Core → Core) : (s.modCore c f).heatMove = s.heatMove := rfl
@[simp] theorem State.modCore_heatTemp (s : State) (c : Nat) (f : Core → Core) : (s.modCore c f).heatTemp = s.heatTemp := rfl
@[simp] theorem State.modCore_recalling (s : State) (c : Nat) (f : Core → Core) : (s.modCore c f).recalling = s.recalling := rfl
@[simp] theorem State.modCore_recalDue (s : State) (c : Nat) (f : Core → Core) : (s.modCore c f).recalDue = s.recalDue := rfl
@[simp] theorem State.modCore_iodVer (s : State) (c : Nat) (f : Core → Core) : (s.modCore c f).iodVer = s.iodVer := rfl
@[simp] theorem State.modCore_dmods (s : State) (c : Nat) (f : Core → Core) : (s.modCore c f).dmods = s.dmods := rfl
@[simp] theorem State.modCore_steer (s : State) (c : Nat) (f : Core → Core) : (s.modCore c f).steer = s.steer := rfl
@[simp] theorem State.modCore_steerLast (s : State) (c : Nat) (f : Core → Core) : (s.modCore c f).steerLast = s.steerLast := rfl
@[simp] theorem State.modCore_movedFlows (s : State) (c : Nat) (f : Core → Core) : (s.modCore c f).movedFlows = s.movedFlows := rfl
@[simp] theorem State.modCore_drCred (s : State) (c : Nat) (f : Core → Core) : (s.modCore c f).drCred = s.drCred := rfl
@[simp] theorem State.modCore_drPart (s : State) (c : Nat) (f : Core → Core) : (s.modCore c f).drPart = s.drPart := rfl
@[simp] theorem State.modCore_drOwed (s : State) (c : Nat) (f : Core → Core) : (s.modCore c f).drOwed = s.drOwed := rfl
@[simp] theorem State.modCore_drQueue (s : State) (c : Nat) (f : Core → Core) : (s.modCore c f).drQueue = s.drQueue := rfl
@[simp] theorem State.modCore_attached (s : State) (c : Nat) (f : Core → Core) : (s.modCore c f).attached = s.attached := rfl
@[simp] theorem State.modCore_wdTimes (s : State) (c : Nat) (f : Core → Core) : (s.modCore c f).wdTimes = s.wdTimes := rfl
@[simp] theorem State.modCore_rsbOut (s : State) (c : Nat) (f : Core → Core) : (s.modCore c f).rsbOut = s.rsbOut := rfl
@[simp] theorem State.modCore_rsbRid (s : State) (c : Nat) (f : Core → Core) : (s.modCore c f).rsbRid = s.rsbRid := rfl
@[simp] theorem State.modCore_epochs (s : State) (c : Nat) (f : Core → Core) : (s.modCore c f).epochs = s.epochs := rfl
@[simp] theorem State.modCore_rldJobs (s : State) (c : Nat) (f : Core → Core) : (s.modCore c f).rldJobs = s.rldJobs := rfl
@[simp] theorem State.modCore_rlc (s : State) (c : Nat) (f : Core → Core) : (s.modCore c f).rlc = s.rlc := rfl
@[simp] theorem State.modCore_homeQ (s : State) (c : Nat) (f : Core → Core) : (s.modCore c f).homeQ = s.homeQ := rfl
@[simp] theorem State.modCore_replies (s : State) (c : Nat) (f : Core → Core) : (s.modCore c f).replies = s.replies := rfl
@[simp] theorem State.modCore_selfRsp (s : State) (c : Nat) (f : Core → Core) : (s.modCore c f).selfRsp = s.selfRsp := rfl
@[simp] theorem State.modCore_dma (s : State) (c : Nat) (f : Core → Core) : (s.modCore c f).dma = s.dma := rfl
@[simp] theorem State.modCore_colGrps (s : State) (c : Nat) (f : Core → Core) : (s.modCore c f).colGrps = s.colGrps := rfl
@[simp] theorem State.modCore_colSites (s : State) (c : Nat) (f : Core → Core) : (s.modCore c f).colSites = s.colSites := rfl
@[simp] theorem State.modCore_colWait (s : State) (c : Nat) (f : Core → Core) : (s.modCore c f).colWait = s.colWait := rfl
@[simp] theorem State.modCore_colTurn (s : State) (c : Nat) (f : Core → Core) : (s.modCore c f).colTurn = s.colTurn := rfl
@[simp] theorem State.modCore_off (s : State) (c : Nat) (f : Core → Core) : (s.modCore c f).off = s.off := rfl
@[simp] theorem State.modCore_porst (s : State) (c : Nat) (f : Core → Core) : (s.modCore c f).porst = s.porst := rfl
@[simp] theorem State.modCore_jobs (s : State) (c : Nat) (f : Core → Core) : (s.modCore c f).jobs = s.jobs := rfl
@[simp] theorem State.modCore_jqLast (s : State) (c : Nat) (f : Core → Core) : (s.modCore c f).jqLast = s.jqLast := rfl
@[simp] theorem State.modCore_holds (s : State) (c : Nat) (f : Core → Core) : (s.modCore c f).holds = s.holds := rfl
@[simp] theorem State.modCore_drainRun (s : State) (c : Nat) (f : Core → Core) : (s.modCore c f).drainRun = s.drainRun := rfl
@[simp] theorem State.modCore_flash (s : State) (c : Nat) (f : Core → Core) : (s.modCore c f).flash = s.flash := rfl
@[simp] theorem State.modCore_commits (s : State) (c : Nat) (f : Core → Core) : (s.modCore c f).commits = s.commits := rfl
@[simp] theorem State.modCore_otpGold (s : State) (c : Nat) (f : Core → Core) : (s.modCore c f).otpGold = s.otpGold := rfl
@[simp] theorem State.modCore_otpOwner (s : State) (c : Nat) (f : Core → Core) : (s.modCore c f).otpOwner = s.otpOwner := rfl
@[simp] theorem State.modCore_ownerKeys (s : State) (c : Nat) (f : Core → Core) : (s.modCore c f).ownerKeys = s.ownerKeys := rfl
@[simp] theorem State.modCore_svnFloor (s : State) (c : Nat) (f : Core → Core) : (s.modCore c f).svnFloor = s.svnFloor := rfl
@[simp] theorem State.modCore_runSvn (s : State) (c : Nat) (f : Core → Core) : (s.modCore c f).runSvn = s.runSvn := rfl
@[simp] theorem State.modCore_update (s : State) (c : Nat) (f : Core → Core) : (s.modCore c f).update = s.update := rfl
@[simp] theorem State.modCore_nonce (s : State) (c : Nat) (f : Core → Core) : (s.modCore c f).nonce = s.nonce := rfl
@[simp] theorem State.modCore_dieMiss (s : State) (c : Nat) (f : Core → Core) : (s.modCore c f).dieMiss = s.dieMiss := rfl
@[simp] theorem State.modCore_pwrFail (s : State) (c : Nat) (f : Core → Core) : (s.modCore c f).pwrFail = s.pwrFail := rfl
@[simp] theorem State.modCore_vin (s : State) (c : Nat) (f : Core → Core) : (s.modCore c f).vin = s.vin := rfl
@[simp] theorem State.modCore_perst (s : State) (c : Nat) (f : Core → Core) : (s.modCore c f).perst = s.perst := rfl
@[simp] theorem State.modCore_cfg (s : State) (c : Nat) (f : Core → Core) : (s.modCore c f).cfg = s.cfg := rfl
@[simp] theorem State.modCore_aer (s : State) (c : Nat) (f : Core → Core) : (s.modCore c f).aer = s.aer := rfl
@[simp] theorem State.modCore_tapIr (s : State) (c : Nat) (f : Core → Core) : (s.modCore c f).tapIr = s.tapIr := rfl
@[simp] theorem State.modCore_scan (s : State) (c : Nat) (f : Core → Core) : (s.modCore c f).scan = s.scan := rfl
@[simp] theorem State.modCore_rails (s : State) (c : Nat) (f : Core → Core) : (s.modCore c f).rails = s.rails := rfl
@[simp] theorem State.modCore_regl (s : State) (c : Nat) (f : Core → Core) : (s.modCore c f).regl = s.regl := rfl
@[simp] theorem State.modCore_therm (s : State) (c : Nat) (f : Core → Core) : (s.modCore c f).therm = s.therm := rfl
@[simp] theorem State.modCore_stretch (s : State) (c : Nat) (f : Core → Core) : (s.modCore c f).stretch = s.stretch := rfl
@[simp] theorem State.modCore_escEnd (s : State) (c : Nat) (f : Core → Core) : (s.modCore c f).escEnd = s.escEnd := rfl
@[simp] theorem State.modCore_pkgParams (s : State) (c : Nat) (f : Core → Core) : (s.modCore c f).pkgParams = s.pkgParams := rfl

/-! `send` -/

@[simp] theorem State.send_pending (s : State) (o : Out) : (s.send o).pending = s.pending := rfl
@[simp] theorem State.send_freeIx (s : State) (o : Out) : (s.send o).freeIx = s.freeIx := rfl
@[simp] theorem State.send_regs (s : State) (o : Out) : (s.send o).regs = s.regs := rfl
@[simp] theorem State.send_heldLo (s : State) (o : Out) : (s.send o).heldLo = s.heldLo := rfl
@[simp] theorem State.send_capHi (s : State) (o : Out) : (s.send o).capHi = s.capHi := rfl
@[simp] theorem State.send_mem (s : State) (o : Out) : (s.send o).mem = s.mem := rfl
@[simp] theorem State.send_cores (s : State) (o : Out) : (s.send o).cores = s.cores := rfl
@[simp] theorem State.send_grade (s : State) (o : Out) : (s.send o).grade = s.grade := rfl
@[simp] theorem State.send_evcHeld (s : State) (o : Out) : (s.send o).evcHeld = s.evcHeld := rfl
@[simp] theorem State.send_journal (s : State) (o : Out) : (s.send o).journal = s.journal := rfl
@[simp] theorem State.send_backlog (s : State) (o : Out) : (s.send o).backlog = s.backlog := rfl
@[simp] theorem State.send_jNext (s : State) (o : Out) : (s.send o).jNext = s.jNext := rfl
@[simp] theorem State.send_jDropped (s : State) (o : Out) : (s.send o).jDropped = s.jDropped := rfl
@[simp] theorem State.send_numDefault (s : State) (o : Out) : (s.send o).numDefault = s.numDefault := rfl
@[simp] theorem State.send_ctls (s : State) (o : Out) : (s.send o).ctls = s.ctls := rfl
@[simp] theorem State.send_hppr (s : State) (o : Out) : (s.send o).hppr = s.hppr := rfl
@[simp] theorem State.send_rechecks (s : State) (o : Out) : (s.send o).rechecks = s.rechecks := rfl
@[simp] theorem State.send_chk (s : State) (o : Out) : (s.send o).chk = s.chk := rfl
@[simp] theorem State.send_vsp (s : State) (o : Out) : (s.send o).vsp = s.vsp := rfl
@[simp] theorem State.send_deadDies (s : State) (o : Out) : (s.send o).deadDies = s.deadDies := rfl
@[simp] theorem State.send_mapGen (s : State) (o : Out) : (s.send o).mapGen = s.mapGen := rfl
@[simp] theorem State.send_mapTime (s : State) (o : Out) : (s.send o).mapTime = s.mapTime := rfl
@[simp] theorem State.send_fabTx (s : State) (o : Out) : (s.send o).fabTx = s.fabTx := rfl
@[simp] theorem State.send_fabRx (s : State) (o : Out) : (s.send o).fabRx = s.fabRx := rfl
@[simp] theorem State.send_router (s : State) (o : Out) : (s.send o).router = s.router := rfl
@[simp] theorem State.send_arb (s : State) (o : Out) : (s.send o).arb = s.arb := rfl
@[simp] theorem State.send_txCred (s : State) (o : Out) : (s.send o).txCred = s.txCred := rfl
@[simp] theorem State.send_granted (s : State) (o : Out) : (s.send o).granted = s.granted := rfl
@[simp] theorem State.send_occ (s : State) (o : Out) : (s.send o).occ = s.occ := rfl
@[simp] theorem State.send_arrived (s : State) (o : Out) : (s.send o).arrived = s.arrived := rfl
@[simp] theorem State.send_altRun (s : State) (o : Out) : (s.send o).altRun = s.altRun := rfl
@[simp] theorem State.send_deadLinks (s : State) (o : Out) : (s.send o).deadLinks = s.deadLinks := rfl
@[simp] theorem State.send_deadOwn (s : State) (o : Out) : (s.send o).deadOwn = s.deadOwn := rfl
@[simp] theorem State.send_fseqOwn (s : State) (o : Out) : (s.send o).fseqOwn = s.fseqOwn := rfl
@[simp] theorem State.send_fseqSeen (s : State) (o : Out) : (s.send o).fseqSeen = s.fseqSeen := rfl
@[simp] theorem State.send_violNow (s : State) (o : Out) : (s.send o).violNow = s.violNow := rfl
@[simp] theorem State.send_quiet (s : State) (o : Out) : (s.send o).quiet = s.quiet := rfl
@[simp] theorem State.send_portMap (s : State) (o : Out) : (s.send o).portMap = s.portMap := rfl
@[simp] theorem State.send_spareMap (s : State) (o : Out) : (s.send o).spareMap = s.spareMap := rfl
@[simp] theorem State.send_oports (s : State) (o : Out) : (s.send o).oports = s.oports := rfl
@[simp] theorem State.send_badSpares (s : State) (o : Out) : (s.send o).badSpares = s.badSpares := rfl
@[simp] theorem State.send_fan (s : State) (o : Out) : (s.send o).fan = s.fan := rfl
@[simp] theorem State.send_meshWait (s : State) (o : Out) : (s.send o).meshWait = s.meshWait := rfl
@[simp] theorem State.send_trainQ (s : State) (o : Out) : (s.send o).trainQ = s.trainQ := rfl
@[simp] theorem State.send_heatMove (s : State) (o : Out) : (s.send o).heatMove = s.heatMove := rfl
@[simp] theorem State.send_heatTemp (s : State) (o : Out) : (s.send o).heatTemp = s.heatTemp := rfl
@[simp] theorem State.send_recalling (s : State) (o : Out) : (s.send o).recalling = s.recalling := rfl
@[simp] theorem State.send_recalDue (s : State) (o : Out) : (s.send o).recalDue = s.recalDue := rfl
@[simp] theorem State.send_iodVer (s : State) (o : Out) : (s.send o).iodVer = s.iodVer := rfl
@[simp] theorem State.send_dmods (s : State) (o : Out) : (s.send o).dmods = s.dmods := rfl
@[simp] theorem State.send_steer (s : State) (o : Out) : (s.send o).steer = s.steer := rfl
@[simp] theorem State.send_steerLast (s : State) (o : Out) : (s.send o).steerLast = s.steerLast := rfl
@[simp] theorem State.send_movedFlows (s : State) (o : Out) : (s.send o).movedFlows = s.movedFlows := rfl
@[simp] theorem State.send_drCred (s : State) (o : Out) : (s.send o).drCred = s.drCred := rfl
@[simp] theorem State.send_drPart (s : State) (o : Out) : (s.send o).drPart = s.drPart := rfl
@[simp] theorem State.send_drOwed (s : State) (o : Out) : (s.send o).drOwed = s.drOwed := rfl
@[simp] theorem State.send_drQueue (s : State) (o : Out) : (s.send o).drQueue = s.drQueue := rfl
@[simp] theorem State.send_attached (s : State) (o : Out) : (s.send o).attached = s.attached := rfl
@[simp] theorem State.send_wdTimes (s : State) (o : Out) : (s.send o).wdTimes = s.wdTimes := rfl
@[simp] theorem State.send_rsbOut (s : State) (o : Out) : (s.send o).rsbOut = s.rsbOut := rfl
@[simp] theorem State.send_rsbRid (s : State) (o : Out) : (s.send o).rsbRid = s.rsbRid := rfl
@[simp] theorem State.send_epochs (s : State) (o : Out) : (s.send o).epochs = s.epochs := rfl
@[simp] theorem State.send_rldJobs (s : State) (o : Out) : (s.send o).rldJobs = s.rldJobs := rfl
@[simp] theorem State.send_rlc (s : State) (o : Out) : (s.send o).rlc = s.rlc := rfl
@[simp] theorem State.send_homeQ (s : State) (o : Out) : (s.send o).homeQ = s.homeQ := rfl
@[simp] theorem State.send_replies (s : State) (o : Out) : (s.send o).replies = s.replies := rfl
@[simp] theorem State.send_selfRsp (s : State) (o : Out) : (s.send o).selfRsp = s.selfRsp := rfl
@[simp] theorem State.send_dma (s : State) (o : Out) : (s.send o).dma = s.dma := rfl
@[simp] theorem State.send_colGrps (s : State) (o : Out) : (s.send o).colGrps = s.colGrps := rfl
@[simp] theorem State.send_colSites (s : State) (o : Out) : (s.send o).colSites = s.colSites := rfl
@[simp] theorem State.send_colWait (s : State) (o : Out) : (s.send o).colWait = s.colWait := rfl
@[simp] theorem State.send_colTurn (s : State) (o : Out) : (s.send o).colTurn = s.colTurn := rfl
@[simp] theorem State.send_off (s : State) (o : Out) : (s.send o).off = s.off := rfl
@[simp] theorem State.send_porst (s : State) (o : Out) : (s.send o).porst = s.porst := rfl
@[simp] theorem State.send_jobs (s : State) (o : Out) : (s.send o).jobs = s.jobs := rfl
@[simp] theorem State.send_jqLast (s : State) (o : Out) : (s.send o).jqLast = s.jqLast := rfl
@[simp] theorem State.send_holds (s : State) (o : Out) : (s.send o).holds = s.holds := rfl
@[simp] theorem State.send_drainRun (s : State) (o : Out) : (s.send o).drainRun = s.drainRun := rfl
@[simp] theorem State.send_flash (s : State) (o : Out) : (s.send o).flash = s.flash := rfl
@[simp] theorem State.send_commits (s : State) (o : Out) : (s.send o).commits = s.commits := rfl
@[simp] theorem State.send_otpGold (s : State) (o : Out) : (s.send o).otpGold = s.otpGold := rfl
@[simp] theorem State.send_otpOwner (s : State) (o : Out) : (s.send o).otpOwner = s.otpOwner := rfl
@[simp] theorem State.send_ownerKeys (s : State) (o : Out) : (s.send o).ownerKeys = s.ownerKeys := rfl
@[simp] theorem State.send_svnFloor (s : State) (o : Out) : (s.send o).svnFloor = s.svnFloor := rfl
@[simp] theorem State.send_runSvn (s : State) (o : Out) : (s.send o).runSvn = s.runSvn := rfl
@[simp] theorem State.send_update (s : State) (o : Out) : (s.send o).update = s.update := rfl
@[simp] theorem State.send_nonce (s : State) (o : Out) : (s.send o).nonce = s.nonce := rfl
@[simp] theorem State.send_dieMiss (s : State) (o : Out) : (s.send o).dieMiss = s.dieMiss := rfl
@[simp] theorem State.send_pwrFail (s : State) (o : Out) : (s.send o).pwrFail = s.pwrFail := rfl
@[simp] theorem State.send_vin (s : State) (o : Out) : (s.send o).vin = s.vin := rfl
@[simp] theorem State.send_perst (s : State) (o : Out) : (s.send o).perst = s.perst := rfl
@[simp] theorem State.send_cfg (s : State) (o : Out) : (s.send o).cfg = s.cfg := rfl
@[simp] theorem State.send_aer (s : State) (o : Out) : (s.send o).aer = s.aer := rfl
@[simp] theorem State.send_tapIr (s : State) (o : Out) : (s.send o).tapIr = s.tapIr := rfl
@[simp] theorem State.send_scan (s : State) (o : Out) : (s.send o).scan = s.scan := rfl
@[simp] theorem State.send_rails (s : State) (o : Out) : (s.send o).rails = s.rails := rfl
@[simp] theorem State.send_regl (s : State) (o : Out) : (s.send o).regl = s.regl := rfl
@[simp] theorem State.send_therm (s : State) (o : Out) : (s.send o).therm = s.therm := rfl
@[simp] theorem State.send_stretch (s : State) (o : Out) : (s.send o).stretch = s.stretch := rfl
@[simp] theorem State.send_escEnd (s : State) (o : Out) : (s.send o).escEnd = s.escEnd := rfl
@[simp] theorem State.send_pkgParams (s : State) (o : Out) : (s.send o).pkgParams = s.pkgParams := rfl

/-! `fresh` -/

@[simp] theorem State.fresh_pending (s : State) : s.fresh.pending = s.pending := rfl
@[simp] theorem State.fresh_regs (s : State) : s.fresh.regs = s.regs := rfl
@[simp] theorem State.fresh_heldLo (s : State) : s.fresh.heldLo = s.heldLo := rfl
@[simp] theorem State.fresh_capHi (s : State) : s.fresh.capHi = s.capHi := rfl
@[simp] theorem State.fresh_mem (s : State) : s.fresh.mem = s.mem := rfl
@[simp] theorem State.fresh_cores (s : State) : s.fresh.cores = s.cores := rfl
@[simp] theorem State.fresh_grade (s : State) : s.fresh.grade = s.grade := rfl
@[simp] theorem State.fresh_evcHeld (s : State) : s.fresh.evcHeld = s.evcHeld := rfl
@[simp] theorem State.fresh_out (s : State) : s.fresh.out = s.out := rfl
@[simp] theorem State.fresh_journal (s : State) : s.fresh.journal = s.journal := rfl
@[simp] theorem State.fresh_backlog (s : State) : s.fresh.backlog = s.backlog := rfl
@[simp] theorem State.fresh_jNext (s : State) : s.fresh.jNext = s.jNext := rfl
@[simp] theorem State.fresh_jDropped (s : State) : s.fresh.jDropped = s.jDropped := rfl
@[simp] theorem State.fresh_numDefault (s : State) : s.fresh.numDefault = s.numDefault := rfl
@[simp] theorem State.fresh_ctls (s : State) : s.fresh.ctls = s.ctls := rfl
@[simp] theorem State.fresh_hppr (s : State) : s.fresh.hppr = s.hppr := rfl
@[simp] theorem State.fresh_rechecks (s : State) : s.fresh.rechecks = s.rechecks := rfl
@[simp] theorem State.fresh_chk (s : State) : s.fresh.chk = s.chk := rfl
@[simp] theorem State.fresh_vsp (s : State) : s.fresh.vsp = s.vsp := rfl
@[simp] theorem State.fresh_deadDies (s : State) : s.fresh.deadDies = s.deadDies := rfl
@[simp] theorem State.fresh_mapGen (s : State) : s.fresh.mapGen = s.mapGen := rfl
@[simp] theorem State.fresh_mapTime (s : State) : s.fresh.mapTime = s.mapTime := rfl
@[simp] theorem State.fresh_fabTx (s : State) : s.fresh.fabTx = s.fabTx := rfl
@[simp] theorem State.fresh_fabRx (s : State) : s.fresh.fabRx = s.fabRx := rfl
@[simp] theorem State.fresh_router (s : State) : s.fresh.router = s.router := rfl
@[simp] theorem State.fresh_arb (s : State) : s.fresh.arb = s.arb := rfl
@[simp] theorem State.fresh_txCred (s : State) : s.fresh.txCred = s.txCred := rfl
@[simp] theorem State.fresh_granted (s : State) : s.fresh.granted = s.granted := rfl
@[simp] theorem State.fresh_occ (s : State) : s.fresh.occ = s.occ := rfl
@[simp] theorem State.fresh_arrived (s : State) : s.fresh.arrived = s.arrived := rfl
@[simp] theorem State.fresh_altRun (s : State) : s.fresh.altRun = s.altRun := rfl
@[simp] theorem State.fresh_deadLinks (s : State) : s.fresh.deadLinks = s.deadLinks := rfl
@[simp] theorem State.fresh_deadOwn (s : State) : s.fresh.deadOwn = s.deadOwn := rfl
@[simp] theorem State.fresh_fseqOwn (s : State) : s.fresh.fseqOwn = s.fseqOwn := rfl
@[simp] theorem State.fresh_fseqSeen (s : State) : s.fresh.fseqSeen = s.fseqSeen := rfl
@[simp] theorem State.fresh_violNow (s : State) : s.fresh.violNow = s.violNow := rfl
@[simp] theorem State.fresh_quiet (s : State) : s.fresh.quiet = s.quiet := rfl
@[simp] theorem State.fresh_portMap (s : State) : s.fresh.portMap = s.portMap := rfl
@[simp] theorem State.fresh_spareMap (s : State) : s.fresh.spareMap = s.spareMap := rfl
@[simp] theorem State.fresh_oports (s : State) : s.fresh.oports = s.oports := rfl
@[simp] theorem State.fresh_badSpares (s : State) : s.fresh.badSpares = s.badSpares := rfl
@[simp] theorem State.fresh_fan (s : State) : s.fresh.fan = s.fan := rfl
@[simp] theorem State.fresh_meshWait (s : State) : s.fresh.meshWait = s.meshWait := rfl
@[simp] theorem State.fresh_trainQ (s : State) : s.fresh.trainQ = s.trainQ := rfl
@[simp] theorem State.fresh_heatMove (s : State) : s.fresh.heatMove = s.heatMove := rfl
@[simp] theorem State.fresh_heatTemp (s : State) : s.fresh.heatTemp = s.heatTemp := rfl
@[simp] theorem State.fresh_recalling (s : State) : s.fresh.recalling = s.recalling := rfl
@[simp] theorem State.fresh_recalDue (s : State) : s.fresh.recalDue = s.recalDue := rfl
@[simp] theorem State.fresh_iodVer (s : State) : s.fresh.iodVer = s.iodVer := rfl
@[simp] theorem State.fresh_dmods (s : State) : s.fresh.dmods = s.dmods := rfl
@[simp] theorem State.fresh_steer (s : State) : s.fresh.steer = s.steer := rfl
@[simp] theorem State.fresh_steerLast (s : State) : s.fresh.steerLast = s.steerLast := rfl
@[simp] theorem State.fresh_movedFlows (s : State) : s.fresh.movedFlows = s.movedFlows := rfl
@[simp] theorem State.fresh_drCred (s : State) : s.fresh.drCred = s.drCred := rfl
@[simp] theorem State.fresh_drPart (s : State) : s.fresh.drPart = s.drPart := rfl
@[simp] theorem State.fresh_drOwed (s : State) : s.fresh.drOwed = s.drOwed := rfl
@[simp] theorem State.fresh_drQueue (s : State) : s.fresh.drQueue = s.drQueue := rfl
@[simp] theorem State.fresh_attached (s : State) : s.fresh.attached = s.attached := rfl
@[simp] theorem State.fresh_wdTimes (s : State) : s.fresh.wdTimes = s.wdTimes := rfl
@[simp] theorem State.fresh_rsbOut (s : State) : s.fresh.rsbOut = s.rsbOut := rfl
@[simp] theorem State.fresh_rsbRid (s : State) : s.fresh.rsbRid = s.rsbRid := rfl
@[simp] theorem State.fresh_epochs (s : State) : s.fresh.epochs = s.epochs := rfl
@[simp] theorem State.fresh_rldJobs (s : State) : s.fresh.rldJobs = s.rldJobs := rfl
@[simp] theorem State.fresh_rlc (s : State) : s.fresh.rlc = s.rlc := rfl
@[simp] theorem State.fresh_homeQ (s : State) : s.fresh.homeQ = s.homeQ := rfl
@[simp] theorem State.fresh_replies (s : State) : s.fresh.replies = s.replies := rfl
@[simp] theorem State.fresh_selfRsp (s : State) : s.fresh.selfRsp = s.selfRsp := rfl
@[simp] theorem State.fresh_dma (s : State) : s.fresh.dma = s.dma := rfl
@[simp] theorem State.fresh_colGrps (s : State) : s.fresh.colGrps = s.colGrps := rfl
@[simp] theorem State.fresh_colSites (s : State) : s.fresh.colSites = s.colSites := rfl
@[simp] theorem State.fresh_colWait (s : State) : s.fresh.colWait = s.colWait := rfl
@[simp] theorem State.fresh_colTurn (s : State) : s.fresh.colTurn = s.colTurn := rfl
@[simp] theorem State.fresh_off (s : State) : s.fresh.off = s.off := rfl
@[simp] theorem State.fresh_porst (s : State) : s.fresh.porst = s.porst := rfl
@[simp] theorem State.fresh_jobs (s : State) : s.fresh.jobs = s.jobs := rfl
@[simp] theorem State.fresh_jqLast (s : State) : s.fresh.jqLast = s.jqLast := rfl
@[simp] theorem State.fresh_holds (s : State) : s.fresh.holds = s.holds := rfl
@[simp] theorem State.fresh_drainRun (s : State) : s.fresh.drainRun = s.drainRun := rfl
@[simp] theorem State.fresh_flash (s : State) : s.fresh.flash = s.flash := rfl
@[simp] theorem State.fresh_commits (s : State) : s.fresh.commits = s.commits := rfl
@[simp] theorem State.fresh_otpGold (s : State) : s.fresh.otpGold = s.otpGold := rfl
@[simp] theorem State.fresh_otpOwner (s : State) : s.fresh.otpOwner = s.otpOwner := rfl
@[simp] theorem State.fresh_ownerKeys (s : State) : s.fresh.ownerKeys = s.ownerKeys := rfl
@[simp] theorem State.fresh_svnFloor (s : State) : s.fresh.svnFloor = s.svnFloor := rfl
@[simp] theorem State.fresh_runSvn (s : State) : s.fresh.runSvn = s.runSvn := rfl
@[simp] theorem State.fresh_update (s : State) : s.fresh.update = s.update := rfl
@[simp] theorem State.fresh_nonce (s : State) : s.fresh.nonce = s.nonce := rfl
@[simp] theorem State.fresh_dieMiss (s : State) : s.fresh.dieMiss = s.dieMiss := rfl
@[simp] theorem State.fresh_pwrFail (s : State) : s.fresh.pwrFail = s.pwrFail := rfl
@[simp] theorem State.fresh_vin (s : State) : s.fresh.vin = s.vin := rfl
@[simp] theorem State.fresh_perst (s : State) : s.fresh.perst = s.perst := rfl
@[simp] theorem State.fresh_cfg (s : State) : s.fresh.cfg = s.cfg := rfl
@[simp] theorem State.fresh_aer (s : State) : s.fresh.aer = s.aer := rfl
@[simp] theorem State.fresh_tapIr (s : State) : s.fresh.tapIr = s.tapIr := rfl
@[simp] theorem State.fresh_scan (s : State) : s.fresh.scan = s.scan := rfl
@[simp] theorem State.fresh_rails (s : State) : s.fresh.rails = s.rails := rfl
@[simp] theorem State.fresh_regl (s : State) : s.fresh.regl = s.regl := rfl
@[simp] theorem State.fresh_therm (s : State) : s.fresh.therm = s.therm := rfl
@[simp] theorem State.fresh_stretch (s : State) : s.fresh.stretch = s.stretch := rfl
@[simp] theorem State.fresh_escEnd (s : State) : s.fresh.escEnd = s.escEnd := rfl
@[simp] theorem State.fresh_pkgParams (s : State) : s.fresh.pkgParams = s.pkgParams := rfl

/-! `modStack` -/

@[simp] theorem State.modStack_pending (s : State) (st : Nat) (f : Stack → Stack) : (s.modStack st f).pending = s.pending := rfl
@[simp] theorem State.modStack_freeIx (s : State) (st : Nat) (f : Stack → Stack) : (s.modStack st f).freeIx = s.freeIx := rfl
@[simp] theorem State.modStack_regs (s : State) (st : Nat) (f : Stack → Stack) : (s.modStack st f).regs = s.regs := rfl
@[simp] theorem State.modStack_heldLo (s : State) (st : Nat) (f : Stack → Stack) : (s.modStack st f).heldLo = s.heldLo := rfl
@[simp] theorem State.modStack_capHi (s : State) (st : Nat) (f : Stack → Stack) : (s.modStack st f).capHi = s.capHi := rfl
@[simp] theorem State.modStack_mem (s : State) (st : Nat) (f : Stack → Stack) : (s.modStack st f).mem = s.mem := rfl
@[simp] theorem State.modStack_cores (s : State) (st : Nat) (f : Stack → Stack) : (s.modStack st f).cores = s.cores := rfl
@[simp] theorem State.modStack_grade (s : State) (st : Nat) (f : Stack → Stack) : (s.modStack st f).grade = s.grade := rfl
@[simp] theorem State.modStack_evcHeld (s : State) (st : Nat) (f : Stack → Stack) : (s.modStack st f).evcHeld = s.evcHeld := rfl
@[simp] theorem State.modStack_out (s : State) (st : Nat) (f : Stack → Stack) : (s.modStack st f).out = s.out := rfl
@[simp] theorem State.modStack_journal (s : State) (st : Nat) (f : Stack → Stack) : (s.modStack st f).journal = s.journal := rfl
@[simp] theorem State.modStack_backlog (s : State) (st : Nat) (f : Stack → Stack) : (s.modStack st f).backlog = s.backlog := rfl
@[simp] theorem State.modStack_jNext (s : State) (st : Nat) (f : Stack → Stack) : (s.modStack st f).jNext = s.jNext := rfl
@[simp] theorem State.modStack_jDropped (s : State) (st : Nat) (f : Stack → Stack) : (s.modStack st f).jDropped = s.jDropped := rfl
@[simp] theorem State.modStack_numDefault (s : State) (st : Nat) (f : Stack → Stack) : (s.modStack st f).numDefault = s.numDefault := rfl
@[simp] theorem State.modStack_hppr (s : State) (st : Nat) (f : Stack → Stack) : (s.modStack st f).hppr = s.hppr := rfl
@[simp] theorem State.modStack_rechecks (s : State) (st : Nat) (f : Stack → Stack) : (s.modStack st f).rechecks = s.rechecks := rfl
@[simp] theorem State.modStack_chk (s : State) (st : Nat) (f : Stack → Stack) : (s.modStack st f).chk = s.chk := rfl
@[simp] theorem State.modStack_vsp (s : State) (st : Nat) (f : Stack → Stack) : (s.modStack st f).vsp = s.vsp := rfl
@[simp] theorem State.modStack_deadDies (s : State) (st : Nat) (f : Stack → Stack) : (s.modStack st f).deadDies = s.deadDies := rfl
@[simp] theorem State.modStack_mapGen (s : State) (st : Nat) (f : Stack → Stack) : (s.modStack st f).mapGen = s.mapGen := rfl
@[simp] theorem State.modStack_mapTime (s : State) (st : Nat) (f : Stack → Stack) : (s.modStack st f).mapTime = s.mapTime := rfl
@[simp] theorem State.modStack_fabTx (s : State) (st : Nat) (f : Stack → Stack) : (s.modStack st f).fabTx = s.fabTx := rfl
@[simp] theorem State.modStack_fabRx (s : State) (st : Nat) (f : Stack → Stack) : (s.modStack st f).fabRx = s.fabRx := rfl
@[simp] theorem State.modStack_router (s : State) (st : Nat) (f : Stack → Stack) : (s.modStack st f).router = s.router := rfl
@[simp] theorem State.modStack_arb (s : State) (st : Nat) (f : Stack → Stack) : (s.modStack st f).arb = s.arb := rfl
@[simp] theorem State.modStack_txCred (s : State) (st : Nat) (f : Stack → Stack) : (s.modStack st f).txCred = s.txCred := rfl
@[simp] theorem State.modStack_granted (s : State) (st : Nat) (f : Stack → Stack) : (s.modStack st f).granted = s.granted := rfl
@[simp] theorem State.modStack_occ (s : State) (st : Nat) (f : Stack → Stack) : (s.modStack st f).occ = s.occ := rfl
@[simp] theorem State.modStack_arrived (s : State) (st : Nat) (f : Stack → Stack) : (s.modStack st f).arrived = s.arrived := rfl
@[simp] theorem State.modStack_altRun (s : State) (st : Nat) (f : Stack → Stack) : (s.modStack st f).altRun = s.altRun := rfl
@[simp] theorem State.modStack_deadLinks (s : State) (st : Nat) (f : Stack → Stack) : (s.modStack st f).deadLinks = s.deadLinks := rfl
@[simp] theorem State.modStack_deadOwn (s : State) (st : Nat) (f : Stack → Stack) : (s.modStack st f).deadOwn = s.deadOwn := rfl
@[simp] theorem State.modStack_fseqOwn (s : State) (st : Nat) (f : Stack → Stack) : (s.modStack st f).fseqOwn = s.fseqOwn := rfl
@[simp] theorem State.modStack_fseqSeen (s : State) (st : Nat) (f : Stack → Stack) : (s.modStack st f).fseqSeen = s.fseqSeen := rfl
@[simp] theorem State.modStack_violNow (s : State) (st : Nat) (f : Stack → Stack) : (s.modStack st f).violNow = s.violNow := rfl
@[simp] theorem State.modStack_quiet (s : State) (st : Nat) (f : Stack → Stack) : (s.modStack st f).quiet = s.quiet := rfl
@[simp] theorem State.modStack_portMap (s : State) (st : Nat) (f : Stack → Stack) : (s.modStack st f).portMap = s.portMap := rfl
@[simp] theorem State.modStack_spareMap (s : State) (st : Nat) (f : Stack → Stack) : (s.modStack st f).spareMap = s.spareMap := rfl
@[simp] theorem State.modStack_oports (s : State) (st : Nat) (f : Stack → Stack) : (s.modStack st f).oports = s.oports := rfl
@[simp] theorem State.modStack_badSpares (s : State) (st : Nat) (f : Stack → Stack) : (s.modStack st f).badSpares = s.badSpares := rfl
@[simp] theorem State.modStack_fan (s : State) (st : Nat) (f : Stack → Stack) : (s.modStack st f).fan = s.fan := rfl
@[simp] theorem State.modStack_meshWait (s : State) (st : Nat) (f : Stack → Stack) : (s.modStack st f).meshWait = s.meshWait := rfl
@[simp] theorem State.modStack_trainQ (s : State) (st : Nat) (f : Stack → Stack) : (s.modStack st f).trainQ = s.trainQ := rfl
@[simp] theorem State.modStack_heatMove (s : State) (st : Nat) (f : Stack → Stack) : (s.modStack st f).heatMove = s.heatMove := rfl
@[simp] theorem State.modStack_heatTemp (s : State) (st : Nat) (f : Stack → Stack) : (s.modStack st f).heatTemp = s.heatTemp := rfl
@[simp] theorem State.modStack_recalling (s : State) (st : Nat) (f : Stack → Stack) : (s.modStack st f).recalling = s.recalling := rfl
@[simp] theorem State.modStack_recalDue (s : State) (st : Nat) (f : Stack → Stack) : (s.modStack st f).recalDue = s.recalDue := rfl
@[simp] theorem State.modStack_iodVer (s : State) (st : Nat) (f : Stack → Stack) : (s.modStack st f).iodVer = s.iodVer := rfl
@[simp] theorem State.modStack_dmods (s : State) (st : Nat) (f : Stack → Stack) : (s.modStack st f).dmods = s.dmods := rfl
@[simp] theorem State.modStack_steer (s : State) (st : Nat) (f : Stack → Stack) : (s.modStack st f).steer = s.steer := rfl
@[simp] theorem State.modStack_steerLast (s : State) (st : Nat) (f : Stack → Stack) : (s.modStack st f).steerLast = s.steerLast := rfl
@[simp] theorem State.modStack_movedFlows (s : State) (st : Nat) (f : Stack → Stack) : (s.modStack st f).movedFlows = s.movedFlows := rfl
@[simp] theorem State.modStack_drCred (s : State) (st : Nat) (f : Stack → Stack) : (s.modStack st f).drCred = s.drCred := rfl
@[simp] theorem State.modStack_drPart (s : State) (st : Nat) (f : Stack → Stack) : (s.modStack st f).drPart = s.drPart := rfl
@[simp] theorem State.modStack_drOwed (s : State) (st : Nat) (f : Stack → Stack) : (s.modStack st f).drOwed = s.drOwed := rfl
@[simp] theorem State.modStack_drQueue (s : State) (st : Nat) (f : Stack → Stack) : (s.modStack st f).drQueue = s.drQueue := rfl
@[simp] theorem State.modStack_attached (s : State) (st : Nat) (f : Stack → Stack) : (s.modStack st f).attached = s.attached := rfl
@[simp] theorem State.modStack_wdTimes (s : State) (st : Nat) (f : Stack → Stack) : (s.modStack st f).wdTimes = s.wdTimes := rfl
@[simp] theorem State.modStack_rsbOut (s : State) (st : Nat) (f : Stack → Stack) : (s.modStack st f).rsbOut = s.rsbOut := rfl
@[simp] theorem State.modStack_rsbRid (s : State) (st : Nat) (f : Stack → Stack) : (s.modStack st f).rsbRid = s.rsbRid := rfl
@[simp] theorem State.modStack_epochs (s : State) (st : Nat) (f : Stack → Stack) : (s.modStack st f).epochs = s.epochs := rfl
@[simp] theorem State.modStack_rldJobs (s : State) (st : Nat) (f : Stack → Stack) : (s.modStack st f).rldJobs = s.rldJobs := rfl
@[simp] theorem State.modStack_rlc (s : State) (st : Nat) (f : Stack → Stack) : (s.modStack st f).rlc = s.rlc := rfl
@[simp] theorem State.modStack_homeQ (s : State) (st : Nat) (f : Stack → Stack) : (s.modStack st f).homeQ = s.homeQ := rfl
@[simp] theorem State.modStack_replies (s : State) (st : Nat) (f : Stack → Stack) : (s.modStack st f).replies = s.replies := rfl
@[simp] theorem State.modStack_selfRsp (s : State) (st : Nat) (f : Stack → Stack) : (s.modStack st f).selfRsp = s.selfRsp := rfl
@[simp] theorem State.modStack_dma (s : State) (st : Nat) (f : Stack → Stack) : (s.modStack st f).dma = s.dma := rfl
@[simp] theorem State.modStack_colGrps (s : State) (st : Nat) (f : Stack → Stack) : (s.modStack st f).colGrps = s.colGrps := rfl
@[simp] theorem State.modStack_colSites (s : State) (st : Nat) (f : Stack → Stack) : (s.modStack st f).colSites = s.colSites := rfl
@[simp] theorem State.modStack_colWait (s : State) (st : Nat) (f : Stack → Stack) : (s.modStack st f).colWait = s.colWait := rfl
@[simp] theorem State.modStack_colTurn (s : State) (st : Nat) (f : Stack → Stack) : (s.modStack st f).colTurn = s.colTurn := rfl
@[simp] theorem State.modStack_off (s : State) (st : Nat) (f : Stack → Stack) : (s.modStack st f).off = s.off := rfl
@[simp] theorem State.modStack_porst (s : State) (st : Nat) (f : Stack → Stack) : (s.modStack st f).porst = s.porst := rfl
@[simp] theorem State.modStack_jobs (s : State) (st : Nat) (f : Stack → Stack) : (s.modStack st f).jobs = s.jobs := rfl
@[simp] theorem State.modStack_jqLast (s : State) (st : Nat) (f : Stack → Stack) : (s.modStack st f).jqLast = s.jqLast := rfl
@[simp] theorem State.modStack_holds (s : State) (st : Nat) (f : Stack → Stack) : (s.modStack st f).holds = s.holds := rfl
@[simp] theorem State.modStack_drainRun (s : State) (st : Nat) (f : Stack → Stack) : (s.modStack st f).drainRun = s.drainRun := rfl
@[simp] theorem State.modStack_flash (s : State) (st : Nat) (f : Stack → Stack) : (s.modStack st f).flash = s.flash := rfl
@[simp] theorem State.modStack_commits (s : State) (st : Nat) (f : Stack → Stack) : (s.modStack st f).commits = s.commits := rfl
@[simp] theorem State.modStack_otpGold (s : State) (st : Nat) (f : Stack → Stack) : (s.modStack st f).otpGold = s.otpGold := rfl
@[simp] theorem State.modStack_otpOwner (s : State) (st : Nat) (f : Stack → Stack) : (s.modStack st f).otpOwner = s.otpOwner := rfl
@[simp] theorem State.modStack_ownerKeys (s : State) (st : Nat) (f : Stack → Stack) : (s.modStack st f).ownerKeys = s.ownerKeys := rfl
@[simp] theorem State.modStack_svnFloor (s : State) (st : Nat) (f : Stack → Stack) : (s.modStack st f).svnFloor = s.svnFloor := rfl
@[simp] theorem State.modStack_runSvn (s : State) (st : Nat) (f : Stack → Stack) : (s.modStack st f).runSvn = s.runSvn := rfl
@[simp] theorem State.modStack_update (s : State) (st : Nat) (f : Stack → Stack) : (s.modStack st f).update = s.update := rfl
@[simp] theorem State.modStack_nonce (s : State) (st : Nat) (f : Stack → Stack) : (s.modStack st f).nonce = s.nonce := rfl
@[simp] theorem State.modStack_dieMiss (s : State) (st : Nat) (f : Stack → Stack) : (s.modStack st f).dieMiss = s.dieMiss := rfl
@[simp] theorem State.modStack_pwrFail (s : State) (st : Nat) (f : Stack → Stack) : (s.modStack st f).pwrFail = s.pwrFail := rfl
@[simp] theorem State.modStack_vin (s : State) (st : Nat) (f : Stack → Stack) : (s.modStack st f).vin = s.vin := rfl
@[simp] theorem State.modStack_perst (s : State) (st : Nat) (f : Stack → Stack) : (s.modStack st f).perst = s.perst := rfl
@[simp] theorem State.modStack_cfg (s : State) (st : Nat) (f : Stack → Stack) : (s.modStack st f).cfg = s.cfg := rfl
@[simp] theorem State.modStack_aer (s : State) (st : Nat) (f : Stack → Stack) : (s.modStack st f).aer = s.aer := rfl
@[simp] theorem State.modStack_tapIr (s : State) (st : Nat) (f : Stack → Stack) : (s.modStack st f).tapIr = s.tapIr := rfl
@[simp] theorem State.modStack_scan (s : State) (st : Nat) (f : Stack → Stack) : (s.modStack st f).scan = s.scan := rfl
@[simp] theorem State.modStack_rails (s : State) (st : Nat) (f : Stack → Stack) : (s.modStack st f).rails = s.rails := rfl
@[simp] theorem State.modStack_regl (s : State) (st : Nat) (f : Stack → Stack) : (s.modStack st f).regl = s.regl := rfl
@[simp] theorem State.modStack_therm (s : State) (st : Nat) (f : Stack → Stack) : (s.modStack st f).therm = s.therm := rfl
@[simp] theorem State.modStack_stretch (s : State) (st : Nat) (f : Stack → Stack) : (s.modStack st f).stretch = s.stretch := rfl
@[simp] theorem State.modStack_escEnd (s : State) (st : Nat) (f : Stack → Stack) : (s.modStack st f).escEnd = s.escEnd := rfl
@[simp] theorem State.modStack_pkgParams (s : State) (st : Nat) (f : Stack → Stack) : (s.modStack st f).pkgParams = s.pkgParams := rfl

/-! `mapChange` -/

@[simp] theorem State.mapChange_pending (s : State) : s.mapChange.pending = s.pending := rfl
@[simp] theorem State.mapChange_freeIx (s : State) : s.mapChange.freeIx = s.freeIx := rfl
@[simp] theorem State.mapChange_regs (s : State) : s.mapChange.regs = s.regs := rfl
@[simp] theorem State.mapChange_heldLo (s : State) : s.mapChange.heldLo = s.heldLo := rfl
@[simp] theorem State.mapChange_capHi (s : State) : s.mapChange.capHi = s.capHi := rfl
@[simp] theorem State.mapChange_mem (s : State) : s.mapChange.mem = s.mem := rfl
@[simp] theorem State.mapChange_cores (s : State) : s.mapChange.cores = s.cores := rfl
@[simp] theorem State.mapChange_grade (s : State) : s.mapChange.grade = s.grade := rfl
@[simp] theorem State.mapChange_evcHeld (s : State) : s.mapChange.evcHeld = s.evcHeld := rfl
@[simp] theorem State.mapChange_out (s : State) : s.mapChange.out = s.out := rfl
@[simp] theorem State.mapChange_journal (s : State) : s.mapChange.journal = s.journal := rfl
@[simp] theorem State.mapChange_backlog (s : State) : s.mapChange.backlog = s.backlog := rfl
@[simp] theorem State.mapChange_jNext (s : State) : s.mapChange.jNext = s.jNext := rfl
@[simp] theorem State.mapChange_jDropped (s : State) : s.mapChange.jDropped = s.jDropped := rfl
@[simp] theorem State.mapChange_numDefault (s : State) : s.mapChange.numDefault = s.numDefault := rfl
@[simp] theorem State.mapChange_ctls (s : State) : s.mapChange.ctls = s.ctls := rfl
@[simp] theorem State.mapChange_hppr (s : State) : s.mapChange.hppr = s.hppr := rfl
@[simp] theorem State.mapChange_rechecks (s : State) : s.mapChange.rechecks = s.rechecks := rfl
@[simp] theorem State.mapChange_chk (s : State) : s.mapChange.chk = s.chk := rfl
@[simp] theorem State.mapChange_vsp (s : State) : s.mapChange.vsp = s.vsp := rfl
@[simp] theorem State.mapChange_deadDies (s : State) : s.mapChange.deadDies = s.deadDies := rfl
@[simp] theorem State.mapChange_fabTx (s : State) : s.mapChange.fabTx = s.fabTx := rfl
@[simp] theorem State.mapChange_fabRx (s : State) : s.mapChange.fabRx = s.fabRx := rfl
@[simp] theorem State.mapChange_router (s : State) : s.mapChange.router = s.router := rfl
@[simp] theorem State.mapChange_arb (s : State) : s.mapChange.arb = s.arb := rfl
@[simp] theorem State.mapChange_txCred (s : State) : s.mapChange.txCred = s.txCred := rfl
@[simp] theorem State.mapChange_granted (s : State) : s.mapChange.granted = s.granted := rfl
@[simp] theorem State.mapChange_occ (s : State) : s.mapChange.occ = s.occ := rfl
@[simp] theorem State.mapChange_arrived (s : State) : s.mapChange.arrived = s.arrived := rfl
@[simp] theorem State.mapChange_altRun (s : State) : s.mapChange.altRun = s.altRun := rfl
@[simp] theorem State.mapChange_deadLinks (s : State) : s.mapChange.deadLinks = s.deadLinks := rfl
@[simp] theorem State.mapChange_deadOwn (s : State) : s.mapChange.deadOwn = s.deadOwn := rfl
@[simp] theorem State.mapChange_fseqOwn (s : State) : s.mapChange.fseqOwn = s.fseqOwn := rfl
@[simp] theorem State.mapChange_fseqSeen (s : State) : s.mapChange.fseqSeen = s.fseqSeen := rfl
@[simp] theorem State.mapChange_violNow (s : State) : s.mapChange.violNow = s.violNow := rfl
@[simp] theorem State.mapChange_quiet (s : State) : s.mapChange.quiet = s.quiet := rfl
@[simp] theorem State.mapChange_portMap (s : State) : s.mapChange.portMap = s.portMap := rfl
@[simp] theorem State.mapChange_spareMap (s : State) : s.mapChange.spareMap = s.spareMap := rfl
@[simp] theorem State.mapChange_oports (s : State) : s.mapChange.oports = s.oports := rfl
@[simp] theorem State.mapChange_badSpares (s : State) : s.mapChange.badSpares = s.badSpares := rfl
@[simp] theorem State.mapChange_fan (s : State) : s.mapChange.fan = s.fan := rfl
@[simp] theorem State.mapChange_meshWait (s : State) : s.mapChange.meshWait = s.meshWait := rfl
@[simp] theorem State.mapChange_trainQ (s : State) : s.mapChange.trainQ = s.trainQ := rfl
@[simp] theorem State.mapChange_heatMove (s : State) : s.mapChange.heatMove = s.heatMove := rfl
@[simp] theorem State.mapChange_heatTemp (s : State) : s.mapChange.heatTemp = s.heatTemp := rfl
@[simp] theorem State.mapChange_recalling (s : State) : s.mapChange.recalling = s.recalling := rfl
@[simp] theorem State.mapChange_recalDue (s : State) : s.mapChange.recalDue = s.recalDue := rfl
@[simp] theorem State.mapChange_iodVer (s : State) : s.mapChange.iodVer = s.iodVer := rfl
@[simp] theorem State.mapChange_dmods (s : State) : s.mapChange.dmods = s.dmods := rfl
@[simp] theorem State.mapChange_steer (s : State) : s.mapChange.steer = s.steer := rfl
@[simp] theorem State.mapChange_steerLast (s : State) : s.mapChange.steerLast = s.steerLast := rfl
@[simp] theorem State.mapChange_movedFlows (s : State) : s.mapChange.movedFlows = s.movedFlows := rfl
@[simp] theorem State.mapChange_drCred (s : State) : s.mapChange.drCred = s.drCred := rfl
@[simp] theorem State.mapChange_drPart (s : State) : s.mapChange.drPart = s.drPart := rfl
@[simp] theorem State.mapChange_drOwed (s : State) : s.mapChange.drOwed = s.drOwed := rfl
@[simp] theorem State.mapChange_drQueue (s : State) : s.mapChange.drQueue = s.drQueue := rfl
@[simp] theorem State.mapChange_attached (s : State) : s.mapChange.attached = s.attached := rfl
@[simp] theorem State.mapChange_wdTimes (s : State) : s.mapChange.wdTimes = s.wdTimes := rfl
@[simp] theorem State.mapChange_rsbOut (s : State) : s.mapChange.rsbOut = s.rsbOut := rfl
@[simp] theorem State.mapChange_rsbRid (s : State) : s.mapChange.rsbRid = s.rsbRid := rfl
@[simp] theorem State.mapChange_epochs (s : State) : s.mapChange.epochs = s.epochs := rfl
@[simp] theorem State.mapChange_rldJobs (s : State) : s.mapChange.rldJobs = s.rldJobs := rfl
@[simp] theorem State.mapChange_rlc (s : State) : s.mapChange.rlc = s.rlc := rfl
@[simp] theorem State.mapChange_homeQ (s : State) : s.mapChange.homeQ = s.homeQ := rfl
@[simp] theorem State.mapChange_replies (s : State) : s.mapChange.replies = s.replies := rfl
@[simp] theorem State.mapChange_selfRsp (s : State) : s.mapChange.selfRsp = s.selfRsp := rfl
@[simp] theorem State.mapChange_dma (s : State) : s.mapChange.dma = s.dma := rfl
@[simp] theorem State.mapChange_colGrps (s : State) : s.mapChange.colGrps = s.colGrps := rfl
@[simp] theorem State.mapChange_colSites (s : State) : s.mapChange.colSites = s.colSites := rfl
@[simp] theorem State.mapChange_colWait (s : State) : s.mapChange.colWait = s.colWait := rfl
@[simp] theorem State.mapChange_colTurn (s : State) : s.mapChange.colTurn = s.colTurn := rfl
@[simp] theorem State.mapChange_off (s : State) : s.mapChange.off = s.off := rfl
@[simp] theorem State.mapChange_porst (s : State) : s.mapChange.porst = s.porst := rfl
@[simp] theorem State.mapChange_jobs (s : State) : s.mapChange.jobs = s.jobs := rfl
@[simp] theorem State.mapChange_jqLast (s : State) : s.mapChange.jqLast = s.jqLast := rfl
@[simp] theorem State.mapChange_holds (s : State) : s.mapChange.holds = s.holds := rfl
@[simp] theorem State.mapChange_drainRun (s : State) : s.mapChange.drainRun = s.drainRun := rfl
@[simp] theorem State.mapChange_flash (s : State) : s.mapChange.flash = s.flash := rfl
@[simp] theorem State.mapChange_commits (s : State) : s.mapChange.commits = s.commits := rfl
@[simp] theorem State.mapChange_otpGold (s : State) : s.mapChange.otpGold = s.otpGold := rfl
@[simp] theorem State.mapChange_otpOwner (s : State) : s.mapChange.otpOwner = s.otpOwner := rfl
@[simp] theorem State.mapChange_ownerKeys (s : State) : s.mapChange.ownerKeys = s.ownerKeys := rfl
@[simp] theorem State.mapChange_svnFloor (s : State) : s.mapChange.svnFloor = s.svnFloor := rfl
@[simp] theorem State.mapChange_runSvn (s : State) : s.mapChange.runSvn = s.runSvn := rfl
@[simp] theorem State.mapChange_update (s : State) : s.mapChange.update = s.update := rfl
@[simp] theorem State.mapChange_nonce (s : State) : s.mapChange.nonce = s.nonce := rfl
@[simp] theorem State.mapChange_dieMiss (s : State) : s.mapChange.dieMiss = s.dieMiss := rfl
@[simp] theorem State.mapChange_pwrFail (s : State) : s.mapChange.pwrFail = s.pwrFail := rfl
@[simp] theorem State.mapChange_vin (s : State) : s.mapChange.vin = s.vin := rfl
@[simp] theorem State.mapChange_perst (s : State) : s.mapChange.perst = s.perst := rfl
@[simp] theorem State.mapChange_cfg (s : State) : s.mapChange.cfg = s.cfg := rfl
@[simp] theorem State.mapChange_aer (s : State) : s.mapChange.aer = s.aer := rfl
@[simp] theorem State.mapChange_tapIr (s : State) : s.mapChange.tapIr = s.tapIr := rfl
@[simp] theorem State.mapChange_scan (s : State) : s.mapChange.scan = s.scan := rfl
@[simp] theorem State.mapChange_rails (s : State) : s.mapChange.rails = s.rails := rfl
@[simp] theorem State.mapChange_regl (s : State) : s.mapChange.regl = s.regl := rfl
@[simp] theorem State.mapChange_therm (s : State) : s.mapChange.therm = s.therm := rfl
@[simp] theorem State.mapChange_stretch (s : State) : s.mapChange.stretch = s.stretch := rfl
@[simp] theorem State.mapChange_escEnd (s : State) : s.mapChange.escEnd = s.escEnd := rfl
@[simp] theorem State.mapChange_pkgParams (s : State) : s.mapChange.pkgParams = s.pkgParams := rfl

/-! `setRf` -/

@[simp] theorem State.setRf_pending (s : State) (off lo len v : Nat) : (s.setRf off lo len v).pending = s.pending := rfl
@[simp] theorem State.setRf_freeIx (s : State) (off lo len v : Nat) : (s.setRf off lo len v).freeIx = s.freeIx := rfl
@[simp] theorem State.setRf_heldLo (s : State) (off lo len v : Nat) : (s.setRf off lo len v).heldLo = s.heldLo := rfl
@[simp] theorem State.setRf_capHi (s : State) (off lo len v : Nat) : (s.setRf off lo len v).capHi = s.capHi := rfl
@[simp] theorem State.setRf_mem (s : State) (off lo len v : Nat) : (s.setRf off lo len v).mem = s.mem := rfl
@[simp] theorem State.setRf_cores (s : State) (off lo len v : Nat) : (s.setRf off lo len v).cores = s.cores := rfl
@[simp] theorem State.setRf_grade (s : State) (off lo len v : Nat) : (s.setRf off lo len v).grade = s.grade := rfl
@[simp] theorem State.setRf_evcHeld (s : State) (off lo len v : Nat) : (s.setRf off lo len v).evcHeld = s.evcHeld := rfl
@[simp] theorem State.setRf_out (s : State) (off lo len v : Nat) : (s.setRf off lo len v).out = s.out := rfl
@[simp] theorem State.setRf_journal (s : State) (off lo len v : Nat) : (s.setRf off lo len v).journal = s.journal := rfl
@[simp] theorem State.setRf_backlog (s : State) (off lo len v : Nat) : (s.setRf off lo len v).backlog = s.backlog := rfl
@[simp] theorem State.setRf_jNext (s : State) (off lo len v : Nat) : (s.setRf off lo len v).jNext = s.jNext := rfl
@[simp] theorem State.setRf_jDropped (s : State) (off lo len v : Nat) : (s.setRf off lo len v).jDropped = s.jDropped := rfl
@[simp] theorem State.setRf_numDefault (s : State) (off lo len v : Nat) : (s.setRf off lo len v).numDefault = s.numDefault := rfl
@[simp] theorem State.setRf_ctls (s : State) (off lo len v : Nat) : (s.setRf off lo len v).ctls = s.ctls := rfl
@[simp] theorem State.setRf_hppr (s : State) (off lo len v : Nat) : (s.setRf off lo len v).hppr = s.hppr := rfl
@[simp] theorem State.setRf_rechecks (s : State) (off lo len v : Nat) : (s.setRf off lo len v).rechecks = s.rechecks := rfl
@[simp] theorem State.setRf_chk (s : State) (off lo len v : Nat) : (s.setRf off lo len v).chk = s.chk := rfl
@[simp] theorem State.setRf_vsp (s : State) (off lo len v : Nat) : (s.setRf off lo len v).vsp = s.vsp := rfl
@[simp] theorem State.setRf_deadDies (s : State) (off lo len v : Nat) : (s.setRf off lo len v).deadDies = s.deadDies := rfl
@[simp] theorem State.setRf_mapGen (s : State) (off lo len v : Nat) : (s.setRf off lo len v).mapGen = s.mapGen := rfl
@[simp] theorem State.setRf_mapTime (s : State) (off lo len v : Nat) : (s.setRf off lo len v).mapTime = s.mapTime := rfl
@[simp] theorem State.setRf_fabTx (s : State) (off lo len v : Nat) : (s.setRf off lo len v).fabTx = s.fabTx := rfl
@[simp] theorem State.setRf_fabRx (s : State) (off lo len v : Nat) : (s.setRf off lo len v).fabRx = s.fabRx := rfl
@[simp] theorem State.setRf_router (s : State) (off lo len v : Nat) : (s.setRf off lo len v).router = s.router := rfl
@[simp] theorem State.setRf_arb (s : State) (off lo len v : Nat) : (s.setRf off lo len v).arb = s.arb := rfl
@[simp] theorem State.setRf_txCred (s : State) (off lo len v : Nat) : (s.setRf off lo len v).txCred = s.txCred := rfl
@[simp] theorem State.setRf_granted (s : State) (off lo len v : Nat) : (s.setRf off lo len v).granted = s.granted := rfl
@[simp] theorem State.setRf_occ (s : State) (off lo len v : Nat) : (s.setRf off lo len v).occ = s.occ := rfl
@[simp] theorem State.setRf_arrived (s : State) (off lo len v : Nat) : (s.setRf off lo len v).arrived = s.arrived := rfl
@[simp] theorem State.setRf_altRun (s : State) (off lo len v : Nat) : (s.setRf off lo len v).altRun = s.altRun := rfl
@[simp] theorem State.setRf_deadLinks (s : State) (off lo len v : Nat) : (s.setRf off lo len v).deadLinks = s.deadLinks := rfl
@[simp] theorem State.setRf_deadOwn (s : State) (off lo len v : Nat) : (s.setRf off lo len v).deadOwn = s.deadOwn := rfl
@[simp] theorem State.setRf_fseqOwn (s : State) (off lo len v : Nat) : (s.setRf off lo len v).fseqOwn = s.fseqOwn := rfl
@[simp] theorem State.setRf_fseqSeen (s : State) (off lo len v : Nat) : (s.setRf off lo len v).fseqSeen = s.fseqSeen := rfl
@[simp] theorem State.setRf_violNow (s : State) (off lo len v : Nat) : (s.setRf off lo len v).violNow = s.violNow := rfl
@[simp] theorem State.setRf_quiet (s : State) (off lo len v : Nat) : (s.setRf off lo len v).quiet = s.quiet := rfl
@[simp] theorem State.setRf_portMap (s : State) (off lo len v : Nat) : (s.setRf off lo len v).portMap = s.portMap := rfl
@[simp] theorem State.setRf_spareMap (s : State) (off lo len v : Nat) : (s.setRf off lo len v).spareMap = s.spareMap := rfl
@[simp] theorem State.setRf_oports (s : State) (off lo len v : Nat) : (s.setRf off lo len v).oports = s.oports := rfl
@[simp] theorem State.setRf_badSpares (s : State) (off lo len v : Nat) : (s.setRf off lo len v).badSpares = s.badSpares := rfl
@[simp] theorem State.setRf_fan (s : State) (off lo len v : Nat) : (s.setRf off lo len v).fan = s.fan := rfl
@[simp] theorem State.setRf_meshWait (s : State) (off lo len v : Nat) : (s.setRf off lo len v).meshWait = s.meshWait := rfl
@[simp] theorem State.setRf_trainQ (s : State) (off lo len v : Nat) : (s.setRf off lo len v).trainQ = s.trainQ := rfl
@[simp] theorem State.setRf_heatMove (s : State) (off lo len v : Nat) : (s.setRf off lo len v).heatMove = s.heatMove := rfl
@[simp] theorem State.setRf_heatTemp (s : State) (off lo len v : Nat) : (s.setRf off lo len v).heatTemp = s.heatTemp := rfl
@[simp] theorem State.setRf_recalling (s : State) (off lo len v : Nat) : (s.setRf off lo len v).recalling = s.recalling := rfl
@[simp] theorem State.setRf_recalDue (s : State) (off lo len v : Nat) : (s.setRf off lo len v).recalDue = s.recalDue := rfl
@[simp] theorem State.setRf_iodVer (s : State) (off lo len v : Nat) : (s.setRf off lo len v).iodVer = s.iodVer := rfl
@[simp] theorem State.setRf_dmods (s : State) (off lo len v : Nat) : (s.setRf off lo len v).dmods = s.dmods := rfl
@[simp] theorem State.setRf_steer (s : State) (off lo len v : Nat) : (s.setRf off lo len v).steer = s.steer := rfl
@[simp] theorem State.setRf_steerLast (s : State) (off lo len v : Nat) : (s.setRf off lo len v).steerLast = s.steerLast := rfl
@[simp] theorem State.setRf_movedFlows (s : State) (off lo len v : Nat) : (s.setRf off lo len v).movedFlows = s.movedFlows := rfl
@[simp] theorem State.setRf_drCred (s : State) (off lo len v : Nat) : (s.setRf off lo len v).drCred = s.drCred := rfl
@[simp] theorem State.setRf_drPart (s : State) (off lo len v : Nat) : (s.setRf off lo len v).drPart = s.drPart := rfl
@[simp] theorem State.setRf_drOwed (s : State) (off lo len v : Nat) : (s.setRf off lo len v).drOwed = s.drOwed := rfl
@[simp] theorem State.setRf_drQueue (s : State) (off lo len v : Nat) : (s.setRf off lo len v).drQueue = s.drQueue := rfl
@[simp] theorem State.setRf_attached (s : State) (off lo len v : Nat) : (s.setRf off lo len v).attached = s.attached := rfl
@[simp] theorem State.setRf_wdTimes (s : State) (off lo len v : Nat) : (s.setRf off lo len v).wdTimes = s.wdTimes := rfl
@[simp] theorem State.setRf_rsbOut (s : State) (off lo len v : Nat) : (s.setRf off lo len v).rsbOut = s.rsbOut := rfl
@[simp] theorem State.setRf_rsbRid (s : State) (off lo len v : Nat) : (s.setRf off lo len v).rsbRid = s.rsbRid := rfl
@[simp] theorem State.setRf_epochs (s : State) (off lo len v : Nat) : (s.setRf off lo len v).epochs = s.epochs := rfl
@[simp] theorem State.setRf_rldJobs (s : State) (off lo len v : Nat) : (s.setRf off lo len v).rldJobs = s.rldJobs := rfl
@[simp] theorem State.setRf_rlc (s : State) (off lo len v : Nat) : (s.setRf off lo len v).rlc = s.rlc := rfl
@[simp] theorem State.setRf_homeQ (s : State) (off lo len v : Nat) : (s.setRf off lo len v).homeQ = s.homeQ := rfl
@[simp] theorem State.setRf_replies (s : State) (off lo len v : Nat) : (s.setRf off lo len v).replies = s.replies := rfl
@[simp] theorem State.setRf_selfRsp (s : State) (off lo len v : Nat) : (s.setRf off lo len v).selfRsp = s.selfRsp := rfl
@[simp] theorem State.setRf_dma (s : State) (off lo len v : Nat) : (s.setRf off lo len v).dma = s.dma := rfl
@[simp] theorem State.setRf_colGrps (s : State) (off lo len v : Nat) : (s.setRf off lo len v).colGrps = s.colGrps := rfl
@[simp] theorem State.setRf_colSites (s : State) (off lo len v : Nat) : (s.setRf off lo len v).colSites = s.colSites := rfl
@[simp] theorem State.setRf_colWait (s : State) (off lo len v : Nat) : (s.setRf off lo len v).colWait = s.colWait := rfl
@[simp] theorem State.setRf_colTurn (s : State) (off lo len v : Nat) : (s.setRf off lo len v).colTurn = s.colTurn := rfl
@[simp] theorem State.setRf_off (s : State) (off lo len v : Nat) : (s.setRf off lo len v).off = s.off := rfl
@[simp] theorem State.setRf_porst (s : State) (off lo len v : Nat) : (s.setRf off lo len v).porst = s.porst := rfl
@[simp] theorem State.setRf_jobs (s : State) (off lo len v : Nat) : (s.setRf off lo len v).jobs = s.jobs := rfl
@[simp] theorem State.setRf_jqLast (s : State) (off lo len v : Nat) : (s.setRf off lo len v).jqLast = s.jqLast := rfl
@[simp] theorem State.setRf_holds (s : State) (off lo len v : Nat) : (s.setRf off lo len v).holds = s.holds := rfl
@[simp] theorem State.setRf_drainRun (s : State) (off lo len v : Nat) : (s.setRf off lo len v).drainRun = s.drainRun := rfl
@[simp] theorem State.setRf_flash (s : State) (off lo len v : Nat) : (s.setRf off lo len v).flash = s.flash := rfl
@[simp] theorem State.setRf_commits (s : State) (off lo len v : Nat) : (s.setRf off lo len v).commits = s.commits := rfl
@[simp] theorem State.setRf_otpGold (s : State) (off lo len v : Nat) : (s.setRf off lo len v).otpGold = s.otpGold := rfl
@[simp] theorem State.setRf_otpOwner (s : State) (off lo len v : Nat) : (s.setRf off lo len v).otpOwner = s.otpOwner := rfl
@[simp] theorem State.setRf_ownerKeys (s : State) (off lo len v : Nat) : (s.setRf off lo len v).ownerKeys = s.ownerKeys := rfl
@[simp] theorem State.setRf_svnFloor (s : State) (off lo len v : Nat) : (s.setRf off lo len v).svnFloor = s.svnFloor := rfl
@[simp] theorem State.setRf_runSvn (s : State) (off lo len v : Nat) : (s.setRf off lo len v).runSvn = s.runSvn := rfl
@[simp] theorem State.setRf_update (s : State) (off lo len v : Nat) : (s.setRf off lo len v).update = s.update := rfl
@[simp] theorem State.setRf_nonce (s : State) (off lo len v : Nat) : (s.setRf off lo len v).nonce = s.nonce := rfl
@[simp] theorem State.setRf_dieMiss (s : State) (off lo len v : Nat) : (s.setRf off lo len v).dieMiss = s.dieMiss := rfl
@[simp] theorem State.setRf_pwrFail (s : State) (off lo len v : Nat) : (s.setRf off lo len v).pwrFail = s.pwrFail := rfl
@[simp] theorem State.setRf_vin (s : State) (off lo len v : Nat) : (s.setRf off lo len v).vin = s.vin := rfl
@[simp] theorem State.setRf_perst (s : State) (off lo len v : Nat) : (s.setRf off lo len v).perst = s.perst := rfl
@[simp] theorem State.setRf_cfg (s : State) (off lo len v : Nat) : (s.setRf off lo len v).cfg = s.cfg := rfl
@[simp] theorem State.setRf_aer (s : State) (off lo len v : Nat) : (s.setRf off lo len v).aer = s.aer := rfl
@[simp] theorem State.setRf_tapIr (s : State) (off lo len v : Nat) : (s.setRf off lo len v).tapIr = s.tapIr := rfl
@[simp] theorem State.setRf_scan (s : State) (off lo len v : Nat) : (s.setRf off lo len v).scan = s.scan := rfl
@[simp] theorem State.setRf_rails (s : State) (off lo len v : Nat) : (s.setRf off lo len v).rails = s.rails := rfl
@[simp] theorem State.setRf_regl (s : State) (off lo len v : Nat) : (s.setRf off lo len v).regl = s.regl := rfl
@[simp] theorem State.setRf_therm (s : State) (off lo len v : Nat) : (s.setRf off lo len v).therm = s.therm := rfl
@[simp] theorem State.setRf_stretch (s : State) (off lo len v : Nat) : (s.setRf off lo len v).stretch = s.stretch := rfl
@[simp] theorem State.setRf_escEnd (s : State) (off lo len v : Nat) : (s.setRf off lo len v).escEnd = s.escEnd := rfl
@[simp] theorem State.setRf_pkgParams (s : State) (off lo len v : Nat) : (s.setRf off lo len v).pkgParams = s.pkgParams := rfl

/-! `setRbit` -/

@[simp] theorem State.setRbit_pending (s : State) (off i : Nat) (b : Bool) : (s.setRbit off i b).pending = s.pending := rfl
@[simp] theorem State.setRbit_freeIx (s : State) (off i : Nat) (b : Bool) : (s.setRbit off i b).freeIx = s.freeIx := rfl
@[simp] theorem State.setRbit_heldLo (s : State) (off i : Nat) (b : Bool) : (s.setRbit off i b).heldLo = s.heldLo := rfl
@[simp] theorem State.setRbit_capHi (s : State) (off i : Nat) (b : Bool) : (s.setRbit off i b).capHi = s.capHi := rfl
@[simp] theorem State.setRbit_mem (s : State) (off i : Nat) (b : Bool) : (s.setRbit off i b).mem = s.mem := rfl
@[simp] theorem State.setRbit_cores (s : State) (off i : Nat) (b : Bool) : (s.setRbit off i b).cores = s.cores := rfl
@[simp] theorem State.setRbit_grade (s : State) (off i : Nat) (b : Bool) : (s.setRbit off i b).grade = s.grade := rfl
@[simp] theorem State.setRbit_evcHeld (s : State) (off i : Nat) (b : Bool) : (s.setRbit off i b).evcHeld = s.evcHeld := rfl
@[simp] theorem State.setRbit_out (s : State) (off i : Nat) (b : Bool) : (s.setRbit off i b).out = s.out := rfl
@[simp] theorem State.setRbit_journal (s : State) (off i : Nat) (b : Bool) : (s.setRbit off i b).journal = s.journal := rfl
@[simp] theorem State.setRbit_backlog (s : State) (off i : Nat) (b : Bool) : (s.setRbit off i b).backlog = s.backlog := rfl
@[simp] theorem State.setRbit_jNext (s : State) (off i : Nat) (b : Bool) : (s.setRbit off i b).jNext = s.jNext := rfl
@[simp] theorem State.setRbit_jDropped (s : State) (off i : Nat) (b : Bool) : (s.setRbit off i b).jDropped = s.jDropped := rfl
@[simp] theorem State.setRbit_numDefault (s : State) (off i : Nat) (b : Bool) : (s.setRbit off i b).numDefault = s.numDefault := rfl
@[simp] theorem State.setRbit_ctls (s : State) (off i : Nat) (b : Bool) : (s.setRbit off i b).ctls = s.ctls := rfl
@[simp] theorem State.setRbit_hppr (s : State) (off i : Nat) (b : Bool) : (s.setRbit off i b).hppr = s.hppr := rfl
@[simp] theorem State.setRbit_rechecks (s : State) (off i : Nat) (b : Bool) : (s.setRbit off i b).rechecks = s.rechecks := rfl
@[simp] theorem State.setRbit_chk (s : State) (off i : Nat) (b : Bool) : (s.setRbit off i b).chk = s.chk := rfl
@[simp] theorem State.setRbit_vsp (s : State) (off i : Nat) (b : Bool) : (s.setRbit off i b).vsp = s.vsp := rfl
@[simp] theorem State.setRbit_deadDies (s : State) (off i : Nat) (b : Bool) : (s.setRbit off i b).deadDies = s.deadDies := rfl
@[simp] theorem State.setRbit_mapGen (s : State) (off i : Nat) (b : Bool) : (s.setRbit off i b).mapGen = s.mapGen := rfl
@[simp] theorem State.setRbit_mapTime (s : State) (off i : Nat) (b : Bool) : (s.setRbit off i b).mapTime = s.mapTime := rfl
@[simp] theorem State.setRbit_fabTx (s : State) (off i : Nat) (b : Bool) : (s.setRbit off i b).fabTx = s.fabTx := rfl
@[simp] theorem State.setRbit_fabRx (s : State) (off i : Nat) (b : Bool) : (s.setRbit off i b).fabRx = s.fabRx := rfl
@[simp] theorem State.setRbit_router (s : State) (off i : Nat) (b : Bool) : (s.setRbit off i b).router = s.router := rfl
@[simp] theorem State.setRbit_arb (s : State) (off i : Nat) (b : Bool) : (s.setRbit off i b).arb = s.arb := rfl
@[simp] theorem State.setRbit_txCred (s : State) (off i : Nat) (b : Bool) : (s.setRbit off i b).txCred = s.txCred := rfl
@[simp] theorem State.setRbit_granted (s : State) (off i : Nat) (b : Bool) : (s.setRbit off i b).granted = s.granted := rfl
@[simp] theorem State.setRbit_occ (s : State) (off i : Nat) (b : Bool) : (s.setRbit off i b).occ = s.occ := rfl
@[simp] theorem State.setRbit_arrived (s : State) (off i : Nat) (b : Bool) : (s.setRbit off i b).arrived = s.arrived := rfl
@[simp] theorem State.setRbit_altRun (s : State) (off i : Nat) (b : Bool) : (s.setRbit off i b).altRun = s.altRun := rfl
@[simp] theorem State.setRbit_deadLinks (s : State) (off i : Nat) (b : Bool) : (s.setRbit off i b).deadLinks = s.deadLinks := rfl
@[simp] theorem State.setRbit_deadOwn (s : State) (off i : Nat) (b : Bool) : (s.setRbit off i b).deadOwn = s.deadOwn := rfl
@[simp] theorem State.setRbit_fseqOwn (s : State) (off i : Nat) (b : Bool) : (s.setRbit off i b).fseqOwn = s.fseqOwn := rfl
@[simp] theorem State.setRbit_fseqSeen (s : State) (off i : Nat) (b : Bool) : (s.setRbit off i b).fseqSeen = s.fseqSeen := rfl
@[simp] theorem State.setRbit_violNow (s : State) (off i : Nat) (b : Bool) : (s.setRbit off i b).violNow = s.violNow := rfl
@[simp] theorem State.setRbit_quiet (s : State) (off i : Nat) (b : Bool) : (s.setRbit off i b).quiet = s.quiet := rfl
@[simp] theorem State.setRbit_portMap (s : State) (off i : Nat) (b : Bool) : (s.setRbit off i b).portMap = s.portMap := rfl
@[simp] theorem State.setRbit_spareMap (s : State) (off i : Nat) (b : Bool) : (s.setRbit off i b).spareMap = s.spareMap := rfl
@[simp] theorem State.setRbit_oports (s : State) (off i : Nat) (b : Bool) : (s.setRbit off i b).oports = s.oports := rfl
@[simp] theorem State.setRbit_badSpares (s : State) (off i : Nat) (b : Bool) : (s.setRbit off i b).badSpares = s.badSpares := rfl
@[simp] theorem State.setRbit_fan (s : State) (off i : Nat) (b : Bool) : (s.setRbit off i b).fan = s.fan := rfl
@[simp] theorem State.setRbit_meshWait (s : State) (off i : Nat) (b : Bool) : (s.setRbit off i b).meshWait = s.meshWait := rfl
@[simp] theorem State.setRbit_trainQ (s : State) (off i : Nat) (b : Bool) : (s.setRbit off i b).trainQ = s.trainQ := rfl
@[simp] theorem State.setRbit_heatMove (s : State) (off i : Nat) (b : Bool) : (s.setRbit off i b).heatMove = s.heatMove := rfl
@[simp] theorem State.setRbit_heatTemp (s : State) (off i : Nat) (b : Bool) : (s.setRbit off i b).heatTemp = s.heatTemp := rfl
@[simp] theorem State.setRbit_recalling (s : State) (off i : Nat) (b : Bool) : (s.setRbit off i b).recalling = s.recalling := rfl
@[simp] theorem State.setRbit_recalDue (s : State) (off i : Nat) (b : Bool) : (s.setRbit off i b).recalDue = s.recalDue := rfl
@[simp] theorem State.setRbit_iodVer (s : State) (off i : Nat) (b : Bool) : (s.setRbit off i b).iodVer = s.iodVer := rfl
@[simp] theorem State.setRbit_dmods (s : State) (off i : Nat) (b : Bool) : (s.setRbit off i b).dmods = s.dmods := rfl
@[simp] theorem State.setRbit_steer (s : State) (off i : Nat) (b : Bool) : (s.setRbit off i b).steer = s.steer := rfl
@[simp] theorem State.setRbit_steerLast (s : State) (off i : Nat) (b : Bool) : (s.setRbit off i b).steerLast = s.steerLast := rfl
@[simp] theorem State.setRbit_movedFlows (s : State) (off i : Nat) (b : Bool) : (s.setRbit off i b).movedFlows = s.movedFlows := rfl
@[simp] theorem State.setRbit_drCred (s : State) (off i : Nat) (b : Bool) : (s.setRbit off i b).drCred = s.drCred := rfl
@[simp] theorem State.setRbit_drPart (s : State) (off i : Nat) (b : Bool) : (s.setRbit off i b).drPart = s.drPart := rfl
@[simp] theorem State.setRbit_drOwed (s : State) (off i : Nat) (b : Bool) : (s.setRbit off i b).drOwed = s.drOwed := rfl
@[simp] theorem State.setRbit_drQueue (s : State) (off i : Nat) (b : Bool) : (s.setRbit off i b).drQueue = s.drQueue := rfl
@[simp] theorem State.setRbit_attached (s : State) (off i : Nat) (b : Bool) : (s.setRbit off i b).attached = s.attached := rfl
@[simp] theorem State.setRbit_wdTimes (s : State) (off i : Nat) (b : Bool) : (s.setRbit off i b).wdTimes = s.wdTimes := rfl
@[simp] theorem State.setRbit_rsbOut (s : State) (off i : Nat) (b : Bool) : (s.setRbit off i b).rsbOut = s.rsbOut := rfl
@[simp] theorem State.setRbit_rsbRid (s : State) (off i : Nat) (b : Bool) : (s.setRbit off i b).rsbRid = s.rsbRid := rfl
@[simp] theorem State.setRbit_epochs (s : State) (off i : Nat) (b : Bool) : (s.setRbit off i b).epochs = s.epochs := rfl
@[simp] theorem State.setRbit_rldJobs (s : State) (off i : Nat) (b : Bool) : (s.setRbit off i b).rldJobs = s.rldJobs := rfl
@[simp] theorem State.setRbit_rlc (s : State) (off i : Nat) (b : Bool) : (s.setRbit off i b).rlc = s.rlc := rfl
@[simp] theorem State.setRbit_homeQ (s : State) (off i : Nat) (b : Bool) : (s.setRbit off i b).homeQ = s.homeQ := rfl
@[simp] theorem State.setRbit_replies (s : State) (off i : Nat) (b : Bool) : (s.setRbit off i b).replies = s.replies := rfl
@[simp] theorem State.setRbit_selfRsp (s : State) (off i : Nat) (b : Bool) : (s.setRbit off i b).selfRsp = s.selfRsp := rfl
@[simp] theorem State.setRbit_dma (s : State) (off i : Nat) (b : Bool) : (s.setRbit off i b).dma = s.dma := rfl
@[simp] theorem State.setRbit_colGrps (s : State) (off i : Nat) (b : Bool) : (s.setRbit off i b).colGrps = s.colGrps := rfl
@[simp] theorem State.setRbit_colSites (s : State) (off i : Nat) (b : Bool) : (s.setRbit off i b).colSites = s.colSites := rfl
@[simp] theorem State.setRbit_colWait (s : State) (off i : Nat) (b : Bool) : (s.setRbit off i b).colWait = s.colWait := rfl
@[simp] theorem State.setRbit_colTurn (s : State) (off i : Nat) (b : Bool) : (s.setRbit off i b).colTurn = s.colTurn := rfl
@[simp] theorem State.setRbit_off (s : State) (off i : Nat) (b : Bool) : (s.setRbit off i b).off = s.off := rfl
@[simp] theorem State.setRbit_porst (s : State) (off i : Nat) (b : Bool) : (s.setRbit off i b).porst = s.porst := rfl
@[simp] theorem State.setRbit_jobs (s : State) (off i : Nat) (b : Bool) : (s.setRbit off i b).jobs = s.jobs := rfl
@[simp] theorem State.setRbit_jqLast (s : State) (off i : Nat) (b : Bool) : (s.setRbit off i b).jqLast = s.jqLast := rfl
@[simp] theorem State.setRbit_holds (s : State) (off i : Nat) (b : Bool) : (s.setRbit off i b).holds = s.holds := rfl
@[simp] theorem State.setRbit_drainRun (s : State) (off i : Nat) (b : Bool) : (s.setRbit off i b).drainRun = s.drainRun := rfl
@[simp] theorem State.setRbit_flash (s : State) (off i : Nat) (b : Bool) : (s.setRbit off i b).flash = s.flash := rfl
@[simp] theorem State.setRbit_commits (s : State) (off i : Nat) (b : Bool) : (s.setRbit off i b).commits = s.commits := rfl
@[simp] theorem State.setRbit_otpGold (s : State) (off i : Nat) (b : Bool) : (s.setRbit off i b).otpGold = s.otpGold := rfl
@[simp] theorem State.setRbit_otpOwner (s : State) (off i : Nat) (b : Bool) : (s.setRbit off i b).otpOwner = s.otpOwner := rfl
@[simp] theorem State.setRbit_ownerKeys (s : State) (off i : Nat) (b : Bool) : (s.setRbit off i b).ownerKeys = s.ownerKeys := rfl
@[simp] theorem State.setRbit_svnFloor (s : State) (off i : Nat) (b : Bool) : (s.setRbit off i b).svnFloor = s.svnFloor := rfl
@[simp] theorem State.setRbit_runSvn (s : State) (off i : Nat) (b : Bool) : (s.setRbit off i b).runSvn = s.runSvn := rfl
@[simp] theorem State.setRbit_update (s : State) (off i : Nat) (b : Bool) : (s.setRbit off i b).update = s.update := rfl
@[simp] theorem State.setRbit_nonce (s : State) (off i : Nat) (b : Bool) : (s.setRbit off i b).nonce = s.nonce := rfl
@[simp] theorem State.setRbit_dieMiss (s : State) (off i : Nat) (b : Bool) : (s.setRbit off i b).dieMiss = s.dieMiss := rfl
@[simp] theorem State.setRbit_pwrFail (s : State) (off i : Nat) (b : Bool) : (s.setRbit off i b).pwrFail = s.pwrFail := rfl
@[simp] theorem State.setRbit_vin (s : State) (off i : Nat) (b : Bool) : (s.setRbit off i b).vin = s.vin := rfl
@[simp] theorem State.setRbit_perst (s : State) (off i : Nat) (b : Bool) : (s.setRbit off i b).perst = s.perst := rfl
@[simp] theorem State.setRbit_cfg (s : State) (off i : Nat) (b : Bool) : (s.setRbit off i b).cfg = s.cfg := rfl
@[simp] theorem State.setRbit_aer (s : State) (off i : Nat) (b : Bool) : (s.setRbit off i b).aer = s.aer := rfl
@[simp] theorem State.setRbit_tapIr (s : State) (off i : Nat) (b : Bool) : (s.setRbit off i b).tapIr = s.tapIr := rfl
@[simp] theorem State.setRbit_scan (s : State) (off i : Nat) (b : Bool) : (s.setRbit off i b).scan = s.scan := rfl
@[simp] theorem State.setRbit_rails (s : State) (off i : Nat) (b : Bool) : (s.setRbit off i b).rails = s.rails := rfl
@[simp] theorem State.setRbit_regl (s : State) (off i : Nat) (b : Bool) : (s.setRbit off i b).regl = s.regl := rfl
@[simp] theorem State.setRbit_therm (s : State) (off i : Nat) (b : Bool) : (s.setRbit off i b).therm = s.therm := rfl
@[simp] theorem State.setRbit_stretch (s : State) (off i : Nat) (b : Bool) : (s.setRbit off i b).stretch = s.stretch := rfl
@[simp] theorem State.setRbit_escEnd (s : State) (off i : Nat) (b : Bool) : (s.setRbit off i b).escEnd = s.escEnd := rfl
@[simp] theorem State.setRbit_pkgParams (s : State) (off i : Nat) (b : Bool) : (s.setRbit off i b).pkgParams = s.pkgParams := rfl

/-! `bump` -/

@[simp] theorem State.bump_pending (s : State) (off lo len n : Nat) : (s.bump off lo len n).pending = s.pending := rfl
@[simp] theorem State.bump_freeIx (s : State) (off lo len n : Nat) : (s.bump off lo len n).freeIx = s.freeIx := rfl
@[simp] theorem State.bump_heldLo (s : State) (off lo len n : Nat) : (s.bump off lo len n).heldLo = s.heldLo := rfl
@[simp] theorem State.bump_capHi (s : State) (off lo len n : Nat) : (s.bump off lo len n).capHi = s.capHi := rfl
@[simp] theorem State.bump_mem (s : State) (off lo len n : Nat) : (s.bump off lo len n).mem = s.mem := rfl
@[simp] theorem State.bump_cores (s : State) (off lo len n : Nat) : (s.bump off lo len n).cores = s.cores := rfl
@[simp] theorem State.bump_grade (s : State) (off lo len n : Nat) : (s.bump off lo len n).grade = s.grade := rfl
@[simp] theorem State.bump_evcHeld (s : State) (off lo len n : Nat) : (s.bump off lo len n).evcHeld = s.evcHeld := rfl
@[simp] theorem State.bump_out (s : State) (off lo len n : Nat) : (s.bump off lo len n).out = s.out := rfl
@[simp] theorem State.bump_journal (s : State) (off lo len n : Nat) : (s.bump off lo len n).journal = s.journal := rfl
@[simp] theorem State.bump_backlog (s : State) (off lo len n : Nat) : (s.bump off lo len n).backlog = s.backlog := rfl
@[simp] theorem State.bump_jNext (s : State) (off lo len n : Nat) : (s.bump off lo len n).jNext = s.jNext := rfl
@[simp] theorem State.bump_jDropped (s : State) (off lo len n : Nat) : (s.bump off lo len n).jDropped = s.jDropped := rfl
@[simp] theorem State.bump_numDefault (s : State) (off lo len n : Nat) : (s.bump off lo len n).numDefault = s.numDefault := rfl
@[simp] theorem State.bump_ctls (s : State) (off lo len n : Nat) : (s.bump off lo len n).ctls = s.ctls := rfl
@[simp] theorem State.bump_hppr (s : State) (off lo len n : Nat) : (s.bump off lo len n).hppr = s.hppr := rfl
@[simp] theorem State.bump_rechecks (s : State) (off lo len n : Nat) : (s.bump off lo len n).rechecks = s.rechecks := rfl
@[simp] theorem State.bump_chk (s : State) (off lo len n : Nat) : (s.bump off lo len n).chk = s.chk := rfl
@[simp] theorem State.bump_vsp (s : State) (off lo len n : Nat) : (s.bump off lo len n).vsp = s.vsp := rfl
@[simp] theorem State.bump_deadDies (s : State) (off lo len n : Nat) : (s.bump off lo len n).deadDies = s.deadDies := rfl
@[simp] theorem State.bump_mapGen (s : State) (off lo len n : Nat) : (s.bump off lo len n).mapGen = s.mapGen := rfl
@[simp] theorem State.bump_mapTime (s : State) (off lo len n : Nat) : (s.bump off lo len n).mapTime = s.mapTime := rfl
@[simp] theorem State.bump_fabTx (s : State) (off lo len n : Nat) : (s.bump off lo len n).fabTx = s.fabTx := rfl
@[simp] theorem State.bump_fabRx (s : State) (off lo len n : Nat) : (s.bump off lo len n).fabRx = s.fabRx := rfl
@[simp] theorem State.bump_router (s : State) (off lo len n : Nat) : (s.bump off lo len n).router = s.router := rfl
@[simp] theorem State.bump_arb (s : State) (off lo len n : Nat) : (s.bump off lo len n).arb = s.arb := rfl
@[simp] theorem State.bump_txCred (s : State) (off lo len n : Nat) : (s.bump off lo len n).txCred = s.txCred := rfl
@[simp] theorem State.bump_granted (s : State) (off lo len n : Nat) : (s.bump off lo len n).granted = s.granted := rfl
@[simp] theorem State.bump_occ (s : State) (off lo len n : Nat) : (s.bump off lo len n).occ = s.occ := rfl
@[simp] theorem State.bump_arrived (s : State) (off lo len n : Nat) : (s.bump off lo len n).arrived = s.arrived := rfl
@[simp] theorem State.bump_altRun (s : State) (off lo len n : Nat) : (s.bump off lo len n).altRun = s.altRun := rfl
@[simp] theorem State.bump_deadLinks (s : State) (off lo len n : Nat) : (s.bump off lo len n).deadLinks = s.deadLinks := rfl
@[simp] theorem State.bump_deadOwn (s : State) (off lo len n : Nat) : (s.bump off lo len n).deadOwn = s.deadOwn := rfl
@[simp] theorem State.bump_fseqOwn (s : State) (off lo len n : Nat) : (s.bump off lo len n).fseqOwn = s.fseqOwn := rfl
@[simp] theorem State.bump_fseqSeen (s : State) (off lo len n : Nat) : (s.bump off lo len n).fseqSeen = s.fseqSeen := rfl
@[simp] theorem State.bump_violNow (s : State) (off lo len n : Nat) : (s.bump off lo len n).violNow = s.violNow := rfl
@[simp] theorem State.bump_quiet (s : State) (off lo len n : Nat) : (s.bump off lo len n).quiet = s.quiet := rfl
@[simp] theorem State.bump_portMap (s : State) (off lo len n : Nat) : (s.bump off lo len n).portMap = s.portMap := rfl
@[simp] theorem State.bump_spareMap (s : State) (off lo len n : Nat) : (s.bump off lo len n).spareMap = s.spareMap := rfl
@[simp] theorem State.bump_oports (s : State) (off lo len n : Nat) : (s.bump off lo len n).oports = s.oports := rfl
@[simp] theorem State.bump_badSpares (s : State) (off lo len n : Nat) : (s.bump off lo len n).badSpares = s.badSpares := rfl
@[simp] theorem State.bump_fan (s : State) (off lo len n : Nat) : (s.bump off lo len n).fan = s.fan := rfl
@[simp] theorem State.bump_meshWait (s : State) (off lo len n : Nat) : (s.bump off lo len n).meshWait = s.meshWait := rfl
@[simp] theorem State.bump_trainQ (s : State) (off lo len n : Nat) : (s.bump off lo len n).trainQ = s.trainQ := rfl
@[simp] theorem State.bump_heatMove (s : State) (off lo len n : Nat) : (s.bump off lo len n).heatMove = s.heatMove := rfl
@[simp] theorem State.bump_heatTemp (s : State) (off lo len n : Nat) : (s.bump off lo len n).heatTemp = s.heatTemp := rfl
@[simp] theorem State.bump_recalling (s : State) (off lo len n : Nat) : (s.bump off lo len n).recalling = s.recalling := rfl
@[simp] theorem State.bump_recalDue (s : State) (off lo len n : Nat) : (s.bump off lo len n).recalDue = s.recalDue := rfl
@[simp] theorem State.bump_iodVer (s : State) (off lo len n : Nat) : (s.bump off lo len n).iodVer = s.iodVer := rfl
@[simp] theorem State.bump_dmods (s : State) (off lo len n : Nat) : (s.bump off lo len n).dmods = s.dmods := rfl
@[simp] theorem State.bump_steer (s : State) (off lo len n : Nat) : (s.bump off lo len n).steer = s.steer := rfl
@[simp] theorem State.bump_steerLast (s : State) (off lo len n : Nat) : (s.bump off lo len n).steerLast = s.steerLast := rfl
@[simp] theorem State.bump_movedFlows (s : State) (off lo len n : Nat) : (s.bump off lo len n).movedFlows = s.movedFlows := rfl
@[simp] theorem State.bump_drCred (s : State) (off lo len n : Nat) : (s.bump off lo len n).drCred = s.drCred := rfl
@[simp] theorem State.bump_drPart (s : State) (off lo len n : Nat) : (s.bump off lo len n).drPart = s.drPart := rfl
@[simp] theorem State.bump_drOwed (s : State) (off lo len n : Nat) : (s.bump off lo len n).drOwed = s.drOwed := rfl
@[simp] theorem State.bump_drQueue (s : State) (off lo len n : Nat) : (s.bump off lo len n).drQueue = s.drQueue := rfl
@[simp] theorem State.bump_attached (s : State) (off lo len n : Nat) : (s.bump off lo len n).attached = s.attached := rfl
@[simp] theorem State.bump_wdTimes (s : State) (off lo len n : Nat) : (s.bump off lo len n).wdTimes = s.wdTimes := rfl
@[simp] theorem State.bump_rsbOut (s : State) (off lo len n : Nat) : (s.bump off lo len n).rsbOut = s.rsbOut := rfl
@[simp] theorem State.bump_rsbRid (s : State) (off lo len n : Nat) : (s.bump off lo len n).rsbRid = s.rsbRid := rfl
@[simp] theorem State.bump_epochs (s : State) (off lo len n : Nat) : (s.bump off lo len n).epochs = s.epochs := rfl
@[simp] theorem State.bump_rldJobs (s : State) (off lo len n : Nat) : (s.bump off lo len n).rldJobs = s.rldJobs := rfl
@[simp] theorem State.bump_rlc (s : State) (off lo len n : Nat) : (s.bump off lo len n).rlc = s.rlc := rfl
@[simp] theorem State.bump_homeQ (s : State) (off lo len n : Nat) : (s.bump off lo len n).homeQ = s.homeQ := rfl
@[simp] theorem State.bump_replies (s : State) (off lo len n : Nat) : (s.bump off lo len n).replies = s.replies := rfl
@[simp] theorem State.bump_selfRsp (s : State) (off lo len n : Nat) : (s.bump off lo len n).selfRsp = s.selfRsp := rfl
@[simp] theorem State.bump_dma (s : State) (off lo len n : Nat) : (s.bump off lo len n).dma = s.dma := rfl
@[simp] theorem State.bump_colGrps (s : State) (off lo len n : Nat) : (s.bump off lo len n).colGrps = s.colGrps := rfl
@[simp] theorem State.bump_colSites (s : State) (off lo len n : Nat) : (s.bump off lo len n).colSites = s.colSites := rfl
@[simp] theorem State.bump_colWait (s : State) (off lo len n : Nat) : (s.bump off lo len n).colWait = s.colWait := rfl
@[simp] theorem State.bump_colTurn (s : State) (off lo len n : Nat) : (s.bump off lo len n).colTurn = s.colTurn := rfl
@[simp] theorem State.bump_off (s : State) (off lo len n : Nat) : (s.bump off lo len n).off = s.off := rfl
@[simp] theorem State.bump_porst (s : State) (off lo len n : Nat) : (s.bump off lo len n).porst = s.porst := rfl
@[simp] theorem State.bump_jobs (s : State) (off lo len n : Nat) : (s.bump off lo len n).jobs = s.jobs := rfl
@[simp] theorem State.bump_jqLast (s : State) (off lo len n : Nat) : (s.bump off lo len n).jqLast = s.jqLast := rfl
@[simp] theorem State.bump_holds (s : State) (off lo len n : Nat) : (s.bump off lo len n).holds = s.holds := rfl
@[simp] theorem State.bump_drainRun (s : State) (off lo len n : Nat) : (s.bump off lo len n).drainRun = s.drainRun := rfl
@[simp] theorem State.bump_flash (s : State) (off lo len n : Nat) : (s.bump off lo len n).flash = s.flash := rfl
@[simp] theorem State.bump_commits (s : State) (off lo len n : Nat) : (s.bump off lo len n).commits = s.commits := rfl
@[simp] theorem State.bump_otpGold (s : State) (off lo len n : Nat) : (s.bump off lo len n).otpGold = s.otpGold := rfl
@[simp] theorem State.bump_otpOwner (s : State) (off lo len n : Nat) : (s.bump off lo len n).otpOwner = s.otpOwner := rfl
@[simp] theorem State.bump_ownerKeys (s : State) (off lo len n : Nat) : (s.bump off lo len n).ownerKeys = s.ownerKeys := rfl
@[simp] theorem State.bump_svnFloor (s : State) (off lo len n : Nat) : (s.bump off lo len n).svnFloor = s.svnFloor := rfl
@[simp] theorem State.bump_runSvn (s : State) (off lo len n : Nat) : (s.bump off lo len n).runSvn = s.runSvn := rfl
@[simp] theorem State.bump_update (s : State) (off lo len n : Nat) : (s.bump off lo len n).update = s.update := rfl
@[simp] theorem State.bump_nonce (s : State) (off lo len n : Nat) : (s.bump off lo len n).nonce = s.nonce := rfl
@[simp] theorem State.bump_dieMiss (s : State) (off lo len n : Nat) : (s.bump off lo len n).dieMiss = s.dieMiss := rfl
@[simp] theorem State.bump_pwrFail (s : State) (off lo len n : Nat) : (s.bump off lo len n).pwrFail = s.pwrFail := rfl
@[simp] theorem State.bump_vin (s : State) (off lo len n : Nat) : (s.bump off lo len n).vin = s.vin := rfl
@[simp] theorem State.bump_perst (s : State) (off lo len n : Nat) : (s.bump off lo len n).perst = s.perst := rfl
@[simp] theorem State.bump_cfg (s : State) (off lo len n : Nat) : (s.bump off lo len n).cfg = s.cfg := rfl
@[simp] theorem State.bump_aer (s : State) (off lo len n : Nat) : (s.bump off lo len n).aer = s.aer := rfl
@[simp] theorem State.bump_tapIr (s : State) (off lo len n : Nat) : (s.bump off lo len n).tapIr = s.tapIr := rfl
@[simp] theorem State.bump_scan (s : State) (off lo len n : Nat) : (s.bump off lo len n).scan = s.scan := rfl
@[simp] theorem State.bump_rails (s : State) (off lo len n : Nat) : (s.bump off lo len n).rails = s.rails := rfl
@[simp] theorem State.bump_regl (s : State) (off lo len n : Nat) : (s.bump off lo len n).regl = s.regl := rfl
@[simp] theorem State.bump_therm (s : State) (off lo len n : Nat) : (s.bump off lo len n).therm = s.therm := rfl
@[simp] theorem State.bump_stretch (s : State) (off lo len n : Nat) : (s.bump off lo len n).stretch = s.stretch := rfl
@[simp] theorem State.bump_escEnd (s : State) (off lo len n : Nat) : (s.bump off lo len n).escEnd = s.escEnd := rfl
@[simp] theorem State.bump_pkgParams (s : State) (off lo len n : Nat) : (s.bump off lo len n).pkgParams = s.pkgParams := rfl

/-! `rwReg` -/

@[simp] theorem State.rwReg_pending (s : State) (off : Nat) (m v : W64) : (s.rwReg off m v).pending = s.pending := rfl
@[simp] theorem State.rwReg_freeIx (s : State) (off : Nat) (m v : W64) : (s.rwReg off m v).freeIx = s.freeIx := rfl
@[simp] theorem State.rwReg_heldLo (s : State) (off : Nat) (m v : W64) : (s.rwReg off m v).heldLo = s.heldLo := rfl
@[simp] theorem State.rwReg_capHi (s : State) (off : Nat) (m v : W64) : (s.rwReg off m v).capHi = s.capHi := rfl
@[simp] theorem State.rwReg_mem (s : State) (off : Nat) (m v : W64) : (s.rwReg off m v).mem = s.mem := rfl
@[simp] theorem State.rwReg_cores (s : State) (off : Nat) (m v : W64) : (s.rwReg off m v).cores = s.cores := rfl
@[simp] theorem State.rwReg_grade (s : State) (off : Nat) (m v : W64) : (s.rwReg off m v).grade = s.grade := rfl
@[simp] theorem State.rwReg_evcHeld (s : State) (off : Nat) (m v : W64) : (s.rwReg off m v).evcHeld = s.evcHeld := rfl
@[simp] theorem State.rwReg_out (s : State) (off : Nat) (m v : W64) : (s.rwReg off m v).out = s.out := rfl
@[simp] theorem State.rwReg_journal (s : State) (off : Nat) (m v : W64) : (s.rwReg off m v).journal = s.journal := rfl
@[simp] theorem State.rwReg_backlog (s : State) (off : Nat) (m v : W64) : (s.rwReg off m v).backlog = s.backlog := rfl
@[simp] theorem State.rwReg_jNext (s : State) (off : Nat) (m v : W64) : (s.rwReg off m v).jNext = s.jNext := rfl
@[simp] theorem State.rwReg_jDropped (s : State) (off : Nat) (m v : W64) : (s.rwReg off m v).jDropped = s.jDropped := rfl
@[simp] theorem State.rwReg_numDefault (s : State) (off : Nat) (m v : W64) : (s.rwReg off m v).numDefault = s.numDefault := rfl
@[simp] theorem State.rwReg_ctls (s : State) (off : Nat) (m v : W64) : (s.rwReg off m v).ctls = s.ctls := rfl
@[simp] theorem State.rwReg_hppr (s : State) (off : Nat) (m v : W64) : (s.rwReg off m v).hppr = s.hppr := rfl
@[simp] theorem State.rwReg_rechecks (s : State) (off : Nat) (m v : W64) : (s.rwReg off m v).rechecks = s.rechecks := rfl
@[simp] theorem State.rwReg_chk (s : State) (off : Nat) (m v : W64) : (s.rwReg off m v).chk = s.chk := rfl
@[simp] theorem State.rwReg_vsp (s : State) (off : Nat) (m v : W64) : (s.rwReg off m v).vsp = s.vsp := rfl
@[simp] theorem State.rwReg_deadDies (s : State) (off : Nat) (m v : W64) : (s.rwReg off m v).deadDies = s.deadDies := rfl
@[simp] theorem State.rwReg_mapGen (s : State) (off : Nat) (m v : W64) : (s.rwReg off m v).mapGen = s.mapGen := rfl
@[simp] theorem State.rwReg_mapTime (s : State) (off : Nat) (m v : W64) : (s.rwReg off m v).mapTime = s.mapTime := rfl
@[simp] theorem State.rwReg_fabTx (s : State) (off : Nat) (m v : W64) : (s.rwReg off m v).fabTx = s.fabTx := rfl
@[simp] theorem State.rwReg_fabRx (s : State) (off : Nat) (m v : W64) : (s.rwReg off m v).fabRx = s.fabRx := rfl
@[simp] theorem State.rwReg_router (s : State) (off : Nat) (m v : W64) : (s.rwReg off m v).router = s.router := rfl
@[simp] theorem State.rwReg_arb (s : State) (off : Nat) (m v : W64) : (s.rwReg off m v).arb = s.arb := rfl
@[simp] theorem State.rwReg_txCred (s : State) (off : Nat) (m v : W64) : (s.rwReg off m v).txCred = s.txCred := rfl
@[simp] theorem State.rwReg_granted (s : State) (off : Nat) (m v : W64) : (s.rwReg off m v).granted = s.granted := rfl
@[simp] theorem State.rwReg_occ (s : State) (off : Nat) (m v : W64) : (s.rwReg off m v).occ = s.occ := rfl
@[simp] theorem State.rwReg_arrived (s : State) (off : Nat) (m v : W64) : (s.rwReg off m v).arrived = s.arrived := rfl
@[simp] theorem State.rwReg_altRun (s : State) (off : Nat) (m v : W64) : (s.rwReg off m v).altRun = s.altRun := rfl
@[simp] theorem State.rwReg_deadLinks (s : State) (off : Nat) (m v : W64) : (s.rwReg off m v).deadLinks = s.deadLinks := rfl
@[simp] theorem State.rwReg_deadOwn (s : State) (off : Nat) (m v : W64) : (s.rwReg off m v).deadOwn = s.deadOwn := rfl
@[simp] theorem State.rwReg_fseqOwn (s : State) (off : Nat) (m v : W64) : (s.rwReg off m v).fseqOwn = s.fseqOwn := rfl
@[simp] theorem State.rwReg_fseqSeen (s : State) (off : Nat) (m v : W64) : (s.rwReg off m v).fseqSeen = s.fseqSeen := rfl
@[simp] theorem State.rwReg_violNow (s : State) (off : Nat) (m v : W64) : (s.rwReg off m v).violNow = s.violNow := rfl
@[simp] theorem State.rwReg_quiet (s : State) (off : Nat) (m v : W64) : (s.rwReg off m v).quiet = s.quiet := rfl
@[simp] theorem State.rwReg_portMap (s : State) (off : Nat) (m v : W64) : (s.rwReg off m v).portMap = s.portMap := rfl
@[simp] theorem State.rwReg_spareMap (s : State) (off : Nat) (m v : W64) : (s.rwReg off m v).spareMap = s.spareMap := rfl
@[simp] theorem State.rwReg_oports (s : State) (off : Nat) (m v : W64) : (s.rwReg off m v).oports = s.oports := rfl
@[simp] theorem State.rwReg_badSpares (s : State) (off : Nat) (m v : W64) : (s.rwReg off m v).badSpares = s.badSpares := rfl
@[simp] theorem State.rwReg_fan (s : State) (off : Nat) (m v : W64) : (s.rwReg off m v).fan = s.fan := rfl
@[simp] theorem State.rwReg_meshWait (s : State) (off : Nat) (m v : W64) : (s.rwReg off m v).meshWait = s.meshWait := rfl
@[simp] theorem State.rwReg_trainQ (s : State) (off : Nat) (m v : W64) : (s.rwReg off m v).trainQ = s.trainQ := rfl
@[simp] theorem State.rwReg_heatMove (s : State) (off : Nat) (m v : W64) : (s.rwReg off m v).heatMove = s.heatMove := rfl
@[simp] theorem State.rwReg_heatTemp (s : State) (off : Nat) (m v : W64) : (s.rwReg off m v).heatTemp = s.heatTemp := rfl
@[simp] theorem State.rwReg_recalling (s : State) (off : Nat) (m v : W64) : (s.rwReg off m v).recalling = s.recalling := rfl
@[simp] theorem State.rwReg_recalDue (s : State) (off : Nat) (m v : W64) : (s.rwReg off m v).recalDue = s.recalDue := rfl
@[simp] theorem State.rwReg_iodVer (s : State) (off : Nat) (m v : W64) : (s.rwReg off m v).iodVer = s.iodVer := rfl
@[simp] theorem State.rwReg_dmods (s : State) (off : Nat) (m v : W64) : (s.rwReg off m v).dmods = s.dmods := rfl
@[simp] theorem State.rwReg_steer (s : State) (off : Nat) (m v : W64) : (s.rwReg off m v).steer = s.steer := rfl
@[simp] theorem State.rwReg_steerLast (s : State) (off : Nat) (m v : W64) : (s.rwReg off m v).steerLast = s.steerLast := rfl
@[simp] theorem State.rwReg_movedFlows (s : State) (off : Nat) (m v : W64) : (s.rwReg off m v).movedFlows = s.movedFlows := rfl
@[simp] theorem State.rwReg_drCred (s : State) (off : Nat) (m v : W64) : (s.rwReg off m v).drCred = s.drCred := rfl
@[simp] theorem State.rwReg_drPart (s : State) (off : Nat) (m v : W64) : (s.rwReg off m v).drPart = s.drPart := rfl
@[simp] theorem State.rwReg_drOwed (s : State) (off : Nat) (m v : W64) : (s.rwReg off m v).drOwed = s.drOwed := rfl
@[simp] theorem State.rwReg_drQueue (s : State) (off : Nat) (m v : W64) : (s.rwReg off m v).drQueue = s.drQueue := rfl
@[simp] theorem State.rwReg_attached (s : State) (off : Nat) (m v : W64) : (s.rwReg off m v).attached = s.attached := rfl
@[simp] theorem State.rwReg_wdTimes (s : State) (off : Nat) (m v : W64) : (s.rwReg off m v).wdTimes = s.wdTimes := rfl
@[simp] theorem State.rwReg_rsbOut (s : State) (off : Nat) (m v : W64) : (s.rwReg off m v).rsbOut = s.rsbOut := rfl
@[simp] theorem State.rwReg_rsbRid (s : State) (off : Nat) (m v : W64) : (s.rwReg off m v).rsbRid = s.rsbRid := rfl
@[simp] theorem State.rwReg_epochs (s : State) (off : Nat) (m v : W64) : (s.rwReg off m v).epochs = s.epochs := rfl
@[simp] theorem State.rwReg_rldJobs (s : State) (off : Nat) (m v : W64) : (s.rwReg off m v).rldJobs = s.rldJobs := rfl
@[simp] theorem State.rwReg_rlc (s : State) (off : Nat) (m v : W64) : (s.rwReg off m v).rlc = s.rlc := rfl
@[simp] theorem State.rwReg_homeQ (s : State) (off : Nat) (m v : W64) : (s.rwReg off m v).homeQ = s.homeQ := rfl
@[simp] theorem State.rwReg_replies (s : State) (off : Nat) (m v : W64) : (s.rwReg off m v).replies = s.replies := rfl
@[simp] theorem State.rwReg_selfRsp (s : State) (off : Nat) (m v : W64) : (s.rwReg off m v).selfRsp = s.selfRsp := rfl
@[simp] theorem State.rwReg_dma (s : State) (off : Nat) (m v : W64) : (s.rwReg off m v).dma = s.dma := rfl
@[simp] theorem State.rwReg_colGrps (s : State) (off : Nat) (m v : W64) : (s.rwReg off m v).colGrps = s.colGrps := rfl
@[simp] theorem State.rwReg_colSites (s : State) (off : Nat) (m v : W64) : (s.rwReg off m v).colSites = s.colSites := rfl
@[simp] theorem State.rwReg_colWait (s : State) (off : Nat) (m v : W64) : (s.rwReg off m v).colWait = s.colWait := rfl
@[simp] theorem State.rwReg_colTurn (s : State) (off : Nat) (m v : W64) : (s.rwReg off m v).colTurn = s.colTurn := rfl
@[simp] theorem State.rwReg_off (s : State) (off : Nat) (m v : W64) : (s.rwReg off m v).off = s.off := rfl
@[simp] theorem State.rwReg_porst (s : State) (off : Nat) (m v : W64) : (s.rwReg off m v).porst = s.porst := rfl
@[simp] theorem State.rwReg_jobs (s : State) (off : Nat) (m v : W64) : (s.rwReg off m v).jobs = s.jobs := rfl
@[simp] theorem State.rwReg_jqLast (s : State) (off : Nat) (m v : W64) : (s.rwReg off m v).jqLast = s.jqLast := rfl
@[simp] theorem State.rwReg_holds (s : State) (off : Nat) (m v : W64) : (s.rwReg off m v).holds = s.holds := rfl
@[simp] theorem State.rwReg_drainRun (s : State) (off : Nat) (m v : W64) : (s.rwReg off m v).drainRun = s.drainRun := rfl
@[simp] theorem State.rwReg_flash (s : State) (off : Nat) (m v : W64) : (s.rwReg off m v).flash = s.flash := rfl
@[simp] theorem State.rwReg_commits (s : State) (off : Nat) (m v : W64) : (s.rwReg off m v).commits = s.commits := rfl
@[simp] theorem State.rwReg_otpGold (s : State) (off : Nat) (m v : W64) : (s.rwReg off m v).otpGold = s.otpGold := rfl
@[simp] theorem State.rwReg_otpOwner (s : State) (off : Nat) (m v : W64) : (s.rwReg off m v).otpOwner = s.otpOwner := rfl
@[simp] theorem State.rwReg_ownerKeys (s : State) (off : Nat) (m v : W64) : (s.rwReg off m v).ownerKeys = s.ownerKeys := rfl
@[simp] theorem State.rwReg_svnFloor (s : State) (off : Nat) (m v : W64) : (s.rwReg off m v).svnFloor = s.svnFloor := rfl
@[simp] theorem State.rwReg_runSvn (s : State) (off : Nat) (m v : W64) : (s.rwReg off m v).runSvn = s.runSvn := rfl
@[simp] theorem State.rwReg_update (s : State) (off : Nat) (m v : W64) : (s.rwReg off m v).update = s.update := rfl
@[simp] theorem State.rwReg_nonce (s : State) (off : Nat) (m v : W64) : (s.rwReg off m v).nonce = s.nonce := rfl
@[simp] theorem State.rwReg_dieMiss (s : State) (off : Nat) (m v : W64) : (s.rwReg off m v).dieMiss = s.dieMiss := rfl
@[simp] theorem State.rwReg_pwrFail (s : State) (off : Nat) (m v : W64) : (s.rwReg off m v).pwrFail = s.pwrFail := rfl
@[simp] theorem State.rwReg_vin (s : State) (off : Nat) (m v : W64) : (s.rwReg off m v).vin = s.vin := rfl
@[simp] theorem State.rwReg_perst (s : State) (off : Nat) (m v : W64) : (s.rwReg off m v).perst = s.perst := rfl
@[simp] theorem State.rwReg_cfg (s : State) (off : Nat) (m v : W64) : (s.rwReg off m v).cfg = s.cfg := rfl
@[simp] theorem State.rwReg_aer (s : State) (off : Nat) (m v : W64) : (s.rwReg off m v).aer = s.aer := rfl
@[simp] theorem State.rwReg_tapIr (s : State) (off : Nat) (m v : W64) : (s.rwReg off m v).tapIr = s.tapIr := rfl
@[simp] theorem State.rwReg_scan (s : State) (off : Nat) (m v : W64) : (s.rwReg off m v).scan = s.scan := rfl
@[simp] theorem State.rwReg_rails (s : State) (off : Nat) (m v : W64) : (s.rwReg off m v).rails = s.rails := rfl
@[simp] theorem State.rwReg_regl (s : State) (off : Nat) (m v : W64) : (s.rwReg off m v).regl = s.regl := rfl
@[simp] theorem State.rwReg_therm (s : State) (off : Nat) (m v : W64) : (s.rwReg off m v).therm = s.therm := rfl
@[simp] theorem State.rwReg_stretch (s : State) (off : Nat) (m v : W64) : (s.rwReg off m v).stretch = s.stretch := rfl
@[simp] theorem State.rwReg_escEnd (s : State) (off : Nat) (m v : W64) : (s.rwReg off m v).escEnd = s.escEnd := rfl
@[simp] theorem State.rwReg_pkgParams (s : State) (off : Nat) (m v : W64) : (s.rwReg off m v).pkgParams = s.pkgParams := rfl

/-! Reads after writes -/

theorem State.reg_setReg (s : State) (off o : Nat) (v : W64) :
    (s.setReg off v).reg o = if o = off then v else s.reg o := Tab.get_put 0 o off v s.regs

@[simp] theorem State.reg_setReg_self (s : State) (off : Nat) (v : W64) : (s.setReg off v).reg off = v := by
  simp [State.reg_setReg]

theorem State.reg_setReg_ne (s : State) {off o : Nat} (v : W64) (h : o ≠ off) : (s.setReg off v).reg o = s.reg o := by
  simp [State.reg_setReg, h]

theorem State.reg_setRf_ne (s : State) {off o lo len v : Nat} (h : o ≠ off) : (s.setRf off lo len v).reg o = s.reg o :=
  State.reg_setReg_ne s _ h

theorem State.reg_setRbit_ne (s : State) {off o i : Nat} {b : Bool} (h : o ≠ off) : (s.setRbit off i b).reg o = s.reg o :=
  State.reg_setReg_ne s _ h

@[simp] theorem State.reg_setRf_self (s : State) (off lo len v : Nat) :
    (s.setRf off lo len v).reg off = setFld (s.reg off) lo len v := State.reg_setReg_self s off _

@[simp] theorem State.reg_setRbit_self (s : State) (off i : Nat) (b : Bool) :
    (s.setRbit off i b).reg off = setBit (s.reg off) i b := State.reg_setReg_self s off _

@[simp] theorem State.reg_setCore (s : State) (c : Nat) (k : Core) (o : Nat) : (s.setCore c k).reg o = s.reg o := rfl

@[simp] theorem State.reg_modCore (s : State) (c : Nat) (f : Core → Core) (o : Nat) : (s.modCore c f).reg o = s.reg o := rfl

@[simp] theorem State.reg_send (s : State) (x : Out) (o : Nat) : (s.send x).reg o = s.reg o := rfl

theorem State.core_setCore (s : State) (c d : Nat) (k : Core) :
    (s.setCore c k).core d = if d = c then k else s.core d := Tab.get_put Core.reset d c k s.cores

@[simp] theorem State.core_setCore_self (s : State) (c : Nat) (k : Core) : (s.setCore c k).core c = k := by
  simp [State.core_setCore]

@[simp] theorem State.core_modCore_self (s : State) (c : Nat) (f : Core → Core) : (s.modCore c f).core c = f (s.core c) :=
  State.core_setCore_self s c _

theorem State.core_modCore_ne (s : State) {c d : Nat} (f : Core → Core) (h : d ≠ c) : (s.modCore c f).core d = s.core d := by
  simp [State.modCore, State.core_setCore, h]

@[simp] theorem State.core_setReg (s : State) (off : Nat) (v : W64) (c : Nat) : (s.setReg off v).core c = s.core c := rfl
@[simp] theorem State.core_setRf (s : State) (off lo len v : Nat) (c : Nat) : (s.setRf off lo len v).core c = s.core c := rfl
@[simp] theorem State.core_setRbit (s : State) (off i : Nat) (b : Bool) (c : Nat) : (s.setRbit off i b).core c = s.core c := rfl
@[simp] theorem State.core_send (s : State) (x : Out) (c : Nat) : (s.send x).core c = s.core c := rfl

@[simp] theorem State.setCore_setCore (s : State) (c : Nat) (k l : Core) : (s.setCore c k).setCore c l = s.setCore c l := by
  simp [State.setCore, Tab.put_put]

@[simp] theorem State.modCore_modCore (s : State) (c : Nat) (f g : Core → Core) :
    (s.modCore c f).modCore c g = s.modCore c (fun k => g (f k)) := by
  simp [State.modCore]

@[simp] theorem State.setReg_setReg (s : State) (off : Nat) (v w : W64) : (s.setReg off v).setReg off w = s.setReg off w := by
  simp [State.setReg, Tab.put_put]

/-! Register fields -/

theorem State.rf_setRf (s : State) (o lo len v : Nat) (h : lo + len ≤ 64) : (s.setRf o lo len v).rf o lo len = v % 2 ^ len := by
  unfold State.rf State.setRf; rw [State.reg_setReg_self, fld_setFld _ _ _ _ h]

theorem State.rf_setRf_ne (s : State) (o lo len v lo' len' : Nat) (h : lo + len ≤ lo' ∨ lo' + len' ≤ lo) :
    (s.setRf o lo len v).rf o lo' len' = s.rf o lo' len' := by
  unfold State.rf State.setRf; rw [State.reg_setReg_self, fld_setFld_ne _ _ _ _ _ _ h]

theorem State.rf_setRf_reg (s : State) (o lo len v o' lo' len' : Nat) (h : o' ≠ o) :
    (s.setRf o lo len v).rf o' lo' len' = s.rf o' lo' len' := by
  unfold State.rf; rw [show (s.setRf o lo len v).reg o' = s.reg o' from State.reg_setReg_ne _ _ h]

end Sys2Proof.Machine
end

