-- ==== Sys2Proof/Laws/Events.lean ====
section
/-! SUPPORT. What raising an event can do: `Raised`. -/

namespace Sys2Proof.Machine

theorem Raised.refl (s : State) : Raised s s := ⟨fun _ _ => rfl, rfl⟩

theorem Raised.trans {s t u : State} (h : Raised s t) (k : Raised t u) : Raised s u := by
  refine ⟨fun o ho => (k.regs o ho).trans (h.regs o ho), ?_⟩
  have h1 := h.rest
  have h2 := k.rest
  rw [← h2] at h1
  exact h1

/-- A register that events show in takes a value. -/
theorem Raised.setReg {s t : State} (h : Raised s t) (o : Nat) (v : W64) (ho : eventReg o) :
    Raised s (t.setReg o v) := by
  refine ⟨fun p hp => ?_, h.rest⟩
  have : p ≠ o := by rintro rfl; exact hp ho
  rw [State.reg_setReg_ne _ _ this]
  exact h.regs p hp

theorem Raised.send {s t : State} (h : Raised s t) (o : Out) : Raised s (t.send o) := ⟨h.regs, h.rest⟩

theorem eventReg_pend (n : Nat) (h : n < 1024) : eventReg (rEvc (0x2000 + 8 * (n / 64))) := by
  unfold eventReg rEvc
  omega

theorem eventReg_raw (n : Nat) (h : n < 1024) : eventReg (rEvc (0x2180 + 8 * (n / 64))) := by
  unfold eventReg rEvc
  omega

theorem State.sendVec_raised {s t : State} (h : Raised s t) (v : Nat) : Raised s (t.sendVec v) := by
  unfold State.sendVec
  split
  · split
    · exact h.setReg _ _ (by simp [eventReg, rCrn])
    · exact ((h.setReg _ _ (by simp [eventReg, rCrn])).setReg _ _ (by simp [eventReg, rEvc])).send _
  · exact h

theorem State.deliver_raised {s t : State} (h : Raised s t) (n : Nat) : Raised s (t.deliver n) := by
  unfold State.deliver
  dsimp only
  split
  · exact State.sendVec_raised h _
  · exact h

theorem State.fire_raised {s t : State} (h : Raised s t) (n : Nat) (hn : n < 1024) : Raised s (t.fire n) :=
  State.deliver_raised (h.setReg _ _ (eventReg_pend n hn)) n

theorem State.srcLive_lt (s : State) (n : Nat) (h : s.srcLive n = true) : n < 1024 := by
  unfold State.srcLive at h
  by_contra hn
  simp only [show ¬ n < 512 by omega, show ¬ n < 640 by omega, show ¬ n < 768 by omega, show ¬ n < 832 by omega,
    show ¬ n < 848 by omega, show ¬ n < 896 by omega, show ¬ n < 960 by omega, if_false, Bool.or_eq_true, Bool.and_eq_true,
    decide_eq_true_eq] at h
  omega

/-- A pulse changes nothing but what events show. -/
theorem State.pulse_raised {s t : State} (h : Raised s t) (n : Nat) : Raised s (t.pulse n) := by
  unfold State.pulse
  split
  · next hc =>
    simp only [Bool.and_eq_true] at hc
    exact State.fire_raised h n (State.srcLive_lt t n hc.1.1)
  · exact h

/-- A level changes nothing but what events show. -/
theorem State.setLevel_raised {s t : State} (h : Raised s t) (n : Nat) (b : Bool) : Raised s (t.setLevel n b) := by
  unfold State.setLevel
  split
  · next hc =>
    have hn := State.srcLive_lt t n hc
    have hr : Raised s (t.setRaw n b) := h.setReg _ _ (eventReg_raw n hn)
    have hf : Raised s ((t.setRaw n b).fire n) := State.fire_raised hr n hn
    have hp : Raised s ((t.setRaw n b).setPend n false) := hr.setReg _ _ (eventReg_pend n hn)
    dsimp only
    split <;> (repeat' split) <;> assumption
  · exact h

/-- A core's run state changes, and what its two level events show. -/
theorem State.setRun_raised (s : State) (c : Nat) (r : RunState) :
    Raised (s.modCore c fun k => { k with run := r }) (s.setRun c r) :=
  State.setLevel_raised (State.setLevel_raised (Raised.refl _) _ _) _ _

theorem Raised.core {s t : State} (h : Raised s t) (c : Nat) : t.core c = s.core c := by
  have := congrArg State.cores h.rest
  simp only [State.core]
  exact congrArg _ this

theorem Raised.setCore {s t : State} (h : Raised s t) (c : Nat) (k : Core) : Raised (s.setCore c k) (t.setCore c k) := by
  refine ⟨h.regs, ?_⟩
  have := congrArg (fun u => u.setCore c k) h.rest
  exact this

theorem Raised.mem {s t : State} (h : Raised s t) : t.mem = s.mem := by
  have := congrArg State.mem h.rest
  exact this

/-! Registers written among events -/

theorem Shows.refl (s : State) (os : List Nat) : Shows s s os := ⟨fun _ _ _ => rfl, rfl⟩

/-- What neither registers nor messages say stands. -/
theorem Shows.get {s t : State} {os : List Nat} {α : Type} (h : Shows s t os) (f : State → α)
    (hf : ∀ (z : State) r o, f { z with regs := r, out := o } = f z) : f t = f s := by
  have := congrArg f h.rest
  rw [hf] at this
  exact this

/-- A change of what is no register commutes with them. -/
theorem Shows.map {s t : State} {os : List Nat} (h : Shows s t os) (f : State → State)
    (hf : ∀ (z : State) r o, f { z with regs := r, out := o } = { f z with regs := r, out := o })
    (hr : ∀ z : State, (f z).regs = z.regs) : Shows (f s) (f t) os := by
  refine ⟨fun o h1 h2 => ?_, ?_⟩
  · have e : ∀ z, (f z).reg o = z.reg o := fun z => by unfold State.reg; rw [hr]
    rw [e, e]; exact h.regs o h1 h2
  · have := congrArg f h.rest
    rw [hf] at this
    have ho := congrArg State.out this
    dsimp only at ho
    rw [hr, ← ho]; exact this

theorem Shows.mono {s t : State} {os ps : List Nat} (h : Shows s t os) (hs : os ⊆ ps) : Shows s t ps :=
  ⟨fun o h1 h2 => h.regs o (fun h3 => h1 (hs h3)) h2, h.rest⟩

theorem Shows.trans {s t u : State} {os : List Nat} (h : Shows s t os) (k : Shows t u os) : Shows s u os := by
  refine ⟨fun o h1 h2 => (k.regs o h1 h2).trans (h.regs o h1 h2), ?_⟩
  have h1 := h.rest
  have h2 := k.rest
  rw [← h2] at h1
  exact h1

theorem Shows.raised {s t u : State} {os : List Nat} (h : Shows s t os) (k : Raised t u) : Shows s u os := by
  refine ⟨fun o h1 h2 => (k.regs o h2).trans (h.regs o h1 h2), ?_⟩
  have h1 := h.rest
  have h2 := k.rest
  rw [← h2] at h1
  exact h1

theorem Shows.setReg {s t : State} {os : List Nat} (h : Shows s t os) (o : Nat) (v : W64) (ho : o ∈ os ∨ eventReg o) :
    Shows s (t.setReg o v) os := by
  refine ⟨fun p hp he => ?_, h.rest⟩
  have : p ≠ o := by rintro rfl; exact ho.elim hp he
  rw [State.reg_setReg_ne _ _ this]
  exact h.regs p hp he

theorem Shows.setRf {s t : State} {os : List Nat} (h : Shows s t os) (o lo len v : Nat) (ho : o ∈ os ∨ eventReg o) :
    Shows s (t.setRf o lo len v) os := h.setReg o _ ho

theorem Shows.setRbit {s t : State} {os : List Nat} (h : Shows s t os) (o i : Nat) (b : Bool) (ho : o ∈ os ∨ eventReg o) :
    Shows s (t.setRbit o i b) os := h.setReg o _ ho

theorem Shows.rwReg {s t : State} {os : List Nat} (h : Shows s t os) (o : Nat) (m v : W64) (ho : o ∈ os ∨ eventReg o) :
    Shows s (t.rwReg o m v) os := h.setReg o _ ho

theorem Shows.bump {s t : State} {os : List Nat} (h : Shows s t os) (o lo len n : Nat) (ho : o ∈ os ∨ eventReg o) :
    Shows s (t.bump o lo len n) os := h.setReg o _ ho

theorem Shows.pulse {s t : State} {os : List Nat} (h : Shows s t os) (n : Nat) : Shows s (t.pulse n) os :=
  h.raised (State.pulse_raised (Raised.refl _) n)

theorem Shows.setLevel {s t : State} {os : List Nat} (h : Shows s t os) (n : Nat) (b : Bool) : Shows s (t.setLevel n b) os :=
  h.raised (State.setLevel_raised (Raised.refl _) n b)

theorem State.pulse_reg (s : State) (n o : Nat) (h : ¬ eventReg o) : (s.pulse n).reg o = s.reg o :=
  (State.pulse_raised (Raised.refl s) n).regs o h

theorem State.setLevel_reg (s : State) (n o : Nat) (b : Bool) (h : ¬ eventReg o) : (s.setLevel n b).reg o = s.reg o :=
  (State.setLevel_raised (Raised.refl s) n b).regs o h

end Sys2Proof.Machine
end

