-- ==== Sys2Proof/Laws/Lasts.lean ====
section
/-! SUPPORT. What no command takes away, for the primitive updates. -/

namespace Sys2Proof.Machine

/-- `Lasts`, and the queue of commands as it was: what every command's own effect keeps. -/
structure Keeps (s t : State) : Prop where
  lasts   : Lasts s t
  pending : t.pending = s.pending

theorem Keeps.refl (s : State) : Keeps s s := ⟨⟨rfl, rfl, fun _ h => h, Nat.le_refl _, id, id⟩, rfl⟩

/-- A further update of fields that `Keeps` does not name. -/
theorem Keeps.same {s t u : State} (h : Keeps s t) (h1 : u.pending = t.pending) (h2 : u.grade = t.grade)
    (h3 : u.otpGold = t.otpGold) (h4 : u.otpOwner = t.otpOwner) (h5 : u.svnFloor = t.svnFloor) (h6 : u.mem = t.mem)
    (h7 : u.regs = t.regs) : Keeps s u := by
  refine ⟨⟨h2.trans h.lasts.grade, h3.trans h.lasts.gold, ?_, ?_, ?_, ?_⟩, h1.trans h.pending⟩
  · rw [h4]; exact h.lasts.owner
  · rw [h5]; exact h.lasts.floor
  · rw [h6]; exact h.lasts.mem
  · rw [h7]; exact h.lasts.regs

theorem Keeps.setRegs {s t u : State} (h : Keeps s t) (h1 : u.pending = t.pending) (h2 : u.grade = t.grade)
    (h3 : u.otpGold = t.otpGold) (h4 : u.otpOwner = t.otpOwner) (h5 : u.svnFloor = t.svnFloor) (h6 : u.mem = t.mem)
    (h7 : Tab.wf (0 : W64) t.regs = true → Tab.wf (0 : W64) u.regs = true) : Keeps s u := by
  refine ⟨⟨h2.trans h.lasts.grade, h3.trans h.lasts.gold, ?_, ?_, ?_, fun x => h7 (h.lasts.regs x)⟩, h1.trans h.pending⟩
  · rw [h4]; exact h.lasts.owner
  · rw [h5]; exact h.lasts.floor
  · rw [h6]; exact h.lasts.mem

theorem Keeps.setMem {s t u : State} (h : Keeps s t) (h1 : u.pending = t.pending) (h2 : u.grade = t.grade)
    (h3 : u.otpGold = t.otpGold) (h4 : u.otpOwner = t.otpOwner) (h5 : u.svnFloor = t.svnFloor) (h7 : u.regs = t.regs)
    (h6 : Memory.wf t.mem = true → Memory.wf u.mem = true) : Keeps s u := by
  refine ⟨⟨h2.trans h.lasts.grade, h3.trans h.lasts.gold, ?_, ?_, fun x => h6 (h.lasts.mem x), ?_⟩, h1.trans h.pending⟩
  · rw [h4]; exact h.lasts.owner
  · rw [h5]; exact h.lasts.floor
  · rw [h7]; exact h.lasts.regs

/-- A literal state that takes every field `Keeps` names from `t`. -/
theorem Keeps.lit {s t : State}
    {x2 : Nat} {x4 : Tab (Option (BitVec 32))} {x5 : Tab (Option (BitVec 32))} {x7 : Tab Core} {x9 : List Nat} {x10
    : List Out} {x11 : List JRec} {x12 : List JRec} {x13 : Nat} {x14 : Nat} {x15 : Bool} {x16 : Tab Stack} {x17 :
    Tab Nat} {x18 : List (Nat × Nat)} {x19 : Tab W64} {x20 : Vsp} {x21 : List Nat} {x22 : Nat} {x23 : W64} {x24 :
    Tab (Option TxStream)} {x25 : Tab (Option RxStream)} {x26 : List RFrame} {x27 : Tab Arb} {x28 : Tab Nat} {x29 :
    Tab Nat} {x30 : Tab Nat} {x31 : List (Nat × Packet)} {x32 : List Nat} {x33 : List DeadLink} {x34 : List Nat}
    {x35 : Nat} {x36 : Tab (Option Nat)} {x37 : Tab Nat} {x38 : Tab Nat} {x39 : Tab (Option PortMap)} {x40 : Tab
    (Option (BitVec 16 × Nat))} {x41 : Tab OPort} {x42 : List Nat} {x43 : Tab (Option (Nat × Nat))} {x44 : List
    Nat} {x45 : List Nat} {x46 : Tab Int} {x47 : Tab Nat} {x48 : List Nat} {x49 : List Nat} {x50 : List Nat} {x51 :
    Tab DModule} {x52 : Tab (List Nat)} {x53 : Tab Nat} {x54 : List (Nat × Nat)} {x55 : Tab Nat} {x56 : Tab Nat}
    {x57 : Tab Nat} {x58 : List DrPkt} {x59 : List Nat} {x60 : List Nat} {x61 : List RsbReq} {x62 : Tab Nat} {x63 :
    Tab (BitVec 16)} {x64 : List RldJob} {x65 : List RLine} {x66 : List HomeReq} {x67 : List Reply} {x68 : List
    (Nat × Packet)} {x69 : Tab DChan} {x70 : Tab (Option ColGrp)} {x71 : Tab ColSite} {x72 : List Nat} {x73 : Tab
    Nat} {x74 : Bool} {x75 : Bool} {x76 : Tab (Option Job)} {x77 : Nat} {x78 : Tab Hold} {x79 : Option W64} {x80 :
    Tab (Option Image)} {x81 : Tab (Option CEntry)} {x84 : Tab (BitVec 384)} {x86 : Nat} {x87 : Option Upd} {x88 :
    Option (BitVec 256)} {x89 : Tab Nat} {x90 : Bool} {x91 : Bool} {x92 : Bool} {x93 : Tab (BitVec 32)} {x94 :
    BitVec 32} {x95 : TapIr} {x96 : Option Pins} {x97 : Rails} {x98 : Regl} {x99 : Therm} {x100 : List Nat} {x101 :
    Tab (Option W64)} {x102 : Tab (BitVec 32)}
    (h : Keeps s t) : Keeps s
    { pending := t.pending, freeIx := x2, regs := t.regs, heldLo := x4, capHi := x5, mem := t.mem, cores := x7,
      grade := t.grade, evcHeld := x9, out := x10, journal := x11, backlog := x12, jNext := x13, jDropped := x14,
      numDefault := x15, ctls := x16, hppr := x17, rechecks := x18, chk := x19, vsp := x20, deadDies := x21, mapGen
      := x22, mapTime := x23, fabTx := x24, fabRx := x25, router := x26, arb := x27, txCred := x28, granted := x29,
      occ := x30, arrived := x31, altRun := x32, deadLinks := x33, deadOwn := x34, fseqOwn := x35, fseqSeen := x36,
      violNow := x37, quiet := x38, portMap := x39, spareMap := x40, oports := x41, badSpares := x42, fan := x43,
      meshWait := x44, trainQ := x45, heatMove := x46, heatTemp := x47, recalling := x48, recalDue := x49, iodVer
      := x50, dmods := x51, steer := x52, steerLast := x53, movedFlows := x54, drCred := x55, drPart := x56, drOwed
      := x57, drQueue := x58, attached := x59, wdTimes := x60, rsbOut := x61, rsbRid := x62, epochs := x63, rldJobs
      := x64, rlc := x65, homeQ := x66, replies := x67, selfRsp := x68, dma := x69, colGrps := x70, colSites :=
      x71, colWait := x72, colTurn := x73, off := x74, porst := x75, jobs := x76, jqLast := x77, holds := x78,
      drainRun := x79, flash := x80, commits := x81, otpGold := t.otpGold, otpOwner := t.otpOwner, ownerKeys :=
      x84, svnFloor := t.svnFloor, runSvn := x86, update := x87, nonce := x88, dieMiss := x89, pwrFail := x90, vin
      := x91, perst := x92, cfg := x93, aer := x94, tapIr := x95, scan := x96, rails := x97, regl := x98, therm :=
      x99, stretch := x100, escEnd := x101, pkgParams := x102 } :=
  ⟨⟨h.lasts.grade, h.lasts.gold, h.lasts.owner, h.lasts.floor, h.lasts.mem, h.lasts.regs⟩, h.pending⟩

/-- A literal state that takes fuses and floor from elsewhere. -/
theorem Keeps.litTrust {s t : State}
    {x2 : Nat} {x4 : Tab (Option (BitVec 32))} {x5 : Tab (Option (BitVec 32))} {x7 : Tab Core} {x9 : List Nat} {x10
    : List Out} {x11 : List JRec} {x12 : List JRec} {x13 : Nat} {x14 : Nat} {x15 : Bool} {x16 : Tab Stack} {x17 :
    Tab Nat} {x18 : List (Nat × Nat)} {x19 : Tab W64} {x20 : Vsp} {x21 : List Nat} {x22 : Nat} {x23 : W64} {x24 :
    Tab (Option TxStream)} {x25 : Tab (Option RxStream)} {x26 : List RFrame} {x27 : Tab Arb} {x28 : Tab Nat} {x29 :
    Tab Nat} {x30 : Tab Nat} {x31 : List (Nat × Packet)} {x32 : List Nat} {x33 : List DeadLink} {x34 : List Nat}
    {x35 : Nat} {x36 : Tab (Option Nat)} {x37 : Tab Nat} {x38 : Tab Nat} {x39 : Tab (Option PortMap)} {x40 : Tab
    (Option (BitVec 16 × Nat))} {x41 : Tab OPort} {x42 : List Nat} {x43 : Tab (Option (Nat × Nat))} {x44 : List
    Nat} {x45 : List Nat} {x46 : Tab Int} {x47 : Tab Nat} {x48 : List Nat} {x49 : List Nat} {x50 : List Nat} {x51 :
    Tab DModule} {x52 : Tab (List Nat)} {x53 : Tab Nat} {x54 : List (Nat × Nat)} {x55 : Tab Nat} {x56 : Tab Nat}
    {x57 : Tab Nat} {x58 : List DrPkt} {x59 : List Nat} {x60 : List Nat} {x61 : List RsbReq} {x62 : Tab Nat} {x63 :
    Tab (BitVec 16)} {x64 : List RldJob} {x65 : List RLine} {x66 : List HomeReq} {x67 : List Reply} {x68 : List
    (Nat × Packet)} {x69 : Tab DChan} {x70 : Tab (Option ColGrp)} {x71 : Tab ColSite} {x72 : List Nat} {x73 : Tab
    Nat} {x74 : Bool} {x75 : Bool} {x76 : Tab (Option Job)} {x77 : Nat} {x78 : Tab Hold} {x79 : Option W64} {x80 :
    Tab (Option Image)} {x81 : Tab (Option CEntry)} {x84 : Tab (BitVec 384)} {x86 : Nat} {x87 : Option Upd} {x88 :
    Option (BitVec 256)} {x89 : Tab Nat} {x90 : Bool} {x91 : Bool} {x92 : Bool} {x93 : Tab (BitVec 32)} {x94 :
    BitVec 32} {x95 : TapIr} {x96 : Option Pins} {x97 : Rails} {x98 : Regl} {x99 : Therm} {x100 : List Nat} {x101 :
    Tab (Option W64)} {x102 : Tab (BitVec 32)}
    {o : BitVec 8} {v : Nat} (h : Keeps s t)
    (ho : ∀ i, bit t.otpOwner i = true → bit o i = true) (hv : t.svnFloor ≤ v) : Keeps s
    { pending := t.pending, freeIx := x2, regs := t.regs, heldLo := x4, capHi := x5, mem := t.mem, cores := x7,
      grade := t.grade, evcHeld := x9, out := x10, journal := x11, backlog := x12, jNext := x13, jDropped := x14,
      numDefault := x15, ctls := x16, hppr := x17, rechecks := x18, chk := x19, vsp := x20, deadDies := x21, mapGen
      := x22, mapTime := x23, fabTx := x24, fabRx := x25, router := x26, arb := x27, txCred := x28, granted := x29,
      occ := x30, arrived := x31, altRun := x32, deadLinks := x33, deadOwn := x34, fseqOwn := x35, fseqSeen := x36,
      violNow := x37, quiet := x38, portMap := x39, spareMap := x40, oports := x41, badSpares := x42, fan := x43,
      meshWait := x44, trainQ := x45, heatMove := x46, heatTemp := x47, recalling := x48, recalDue := x49, iodVer
      := x50, dmods := x51, steer := x52, steerLast := x53, movedFlows := x54, drCred := x55, drPart := x56, drOwed
      := x57, drQueue := x58, attached := x59, wdTimes := x60, rsbOut := x61, rsbRid := x62, epochs := x63, rldJobs
      := x64, rlc := x65, homeQ := x66, replies := x67, selfRsp := x68, dma := x69, colGrps := x70, colSites :=
      x71, colWait := x72, colTurn := x73, off := x74, porst := x75, jobs := x76, jqLast := x77, holds := x78,
      drainRun := x79, flash := x80, commits := x81, otpGold := t.otpGold, otpOwner := o, ownerKeys := x84,
      svnFloor := v, runSvn := x86, update := x87, nonce := x88, dieMiss := x89, pwrFail := x90, vin := x91, perst
      := x92, cfg := x93, aer := x94, tapIr := x95, scan := x96, rails := x97, regl := x98, therm := x99, stretch
      := x100, escEnd := x101, pkgParams := x102 } :=
  ⟨⟨h.lasts.grade, h.lasts.gold, fun i x => ho i (h.lasts.owner i x), Nat.le_trans h.lasts.floor hv, h.lasts.mem, h.lasts.regs⟩, h.pending⟩

/-- A literal state that takes memory from elsewhere. -/
theorem Keeps.litMem {s t : State}
    {x2 : Nat} {x4 : Tab (Option (BitVec 32))} {x5 : Tab (Option (BitVec 32))} {x7 : Tab Core} {x9 : List Nat} {x10
    : List Out} {x11 : List JRec} {x12 : List JRec} {x13 : Nat} {x14 : Nat} {x15 : Bool} {x16 : Tab Stack} {x17 :
    Tab Nat} {x18 : List (Nat × Nat)} {x19 : Tab W64} {x20 : Vsp} {x21 : List Nat} {x22 : Nat} {x23 : W64} {x24 :
    Tab (Option TxStream)} {x25 : Tab (Option RxStream)} {x26 : List RFrame} {x27 : Tab Arb} {x28 : Tab Nat} {x29 :
    Tab Nat} {x30 : Tab Nat} {x31 : List (Nat × Packet)} {x32 : List Nat} {x33 : List DeadLink} {x34 : List Nat}
    {x35 : Nat} {x36 : Tab (Option Nat)} {x37 : Tab Nat} {x38 : Tab Nat} {x39 : Tab (Option PortMap)} {x40 : Tab
    (Option (BitVec 16 × Nat))} {x41 : Tab OPort} {x42 : List Nat} {x43 : Tab (Option (Nat × Nat))} {x44 : List
    Nat} {x45 : List Nat} {x46 : Tab Int} {x47 : Tab Nat} {x48 : List Nat} {x49 : List Nat} {x50 : List Nat} {x51 :
    Tab DModule} {x52 : Tab (List Nat)} {x53 : Tab Nat} {x54 : List (Nat × Nat)} {x55 : Tab Nat} {x56 : Tab Nat}
    {x57 : Tab Nat} {x58 : List DrPkt} {x59 : List Nat} {x60 : List Nat} {x61 : List RsbReq} {x62 : Tab Nat} {x63 :
    Tab (BitVec 16)} {x64 : List RldJob} {x65 : List RLine} {x66 : List HomeReq} {x67 : List Reply} {x68 : List
    (Nat × Packet)} {x69 : Tab DChan} {x70 : Tab (Option ColGrp)} {x71 : Tab ColSite} {x72 : List Nat} {x73 : Tab
    Nat} {x74 : Bool} {x75 : Bool} {x76 : Tab (Option Job)} {x77 : Nat} {x78 : Tab Hold} {x79 : Option W64} {x80 :
    Tab (Option Image)} {x81 : Tab (Option CEntry)} {x84 : Tab (BitVec 384)} {x86 : Nat} {x87 : Option Upd} {x88 :
    Option (BitVec 256)} {x89 : Tab Nat} {x90 : Bool} {x91 : Bool} {x92 : Bool} {x93 : Tab (BitVec 32)} {x94 :
    BitVec 32} {x95 : TapIr} {x96 : Option Pins} {x97 : Rails} {x98 : Regl} {x99 : Therm} {x100 : List Nat} {x101 :
    Tab (Option W64)} {x102 : Tab (BitVec 32)}
    {m : List Host.Cell} (h : Keeps s t) (hm : Memory.wf t.mem = true → Memory.wf m = true) : Keeps s
    { pending := t.pending, freeIx := x2, regs := t.regs, heldLo := x4, capHi := x5, mem := m, cores := x7, grade
      := t.grade, evcHeld := x9, out := x10, journal := x11, backlog := x12, jNext := x13, jDropped := x14,
      numDefault := x15, ctls := x16, hppr := x17, rechecks := x18, chk := x19, vsp := x20, deadDies := x21, mapGen
      := x22, mapTime := x23, fabTx := x24, fabRx := x25, router := x26, arb := x27, txCred := x28, granted := x29,
      occ := x30, arrived := x31, altRun := x32, deadLinks := x33, deadOwn := x34, fseqOwn := x35, fseqSeen := x36,
      violNow := x37, quiet := x38, portMap := x39, spareMap := x40, oports := x41, badSpares := x42, fan := x43,
      meshWait := x44, trainQ := x45, heatMove := x46, heatTemp := x47, recalling := x48, recalDue := x49, iodVer
      := x50, dmods := x51, steer := x52, steerLast := x53, movedFlows := x54, drCred := x55, drPart := x56, drOwed
      := x57, drQueue := x58, attached := x59, wdTimes := x60, rsbOut := x61, rsbRid := x62, epochs := x63, rldJobs
      := x64, rlc := x65, homeQ := x66, replies := x67, selfRsp := x68, dma := x69, colGrps := x70, colSites :=
      x71, colWait := x72, colTurn := x73, off := x74, porst := x75, jobs := x76, jqLast := x77, holds := x78,
      drainRun := x79, flash := x80, commits := x81, otpGold := t.otpGold, otpOwner := t.otpOwner, ownerKeys :=
      x84, svnFloor := t.svnFloor, runSvn := x86, update := x87, nonce := x88, dieMiss := x89, pwrFail := x90, vin
      := x91, perst := x92, cfg := x93, aer := x94, tapIr := x95, scan := x96, rails := x97, regl := x98, therm :=
      x99, stretch := x100, escEnd := x101, pkgParams := x102 } :=
  ⟨⟨h.lasts.grade, h.lasts.gold, h.lasts.owner, h.lasts.floor, fun x => hm (h.lasts.mem x), h.lasts.regs⟩, h.pending⟩

/-- A literal state that takes memory and registers from elsewhere. -/
theorem Keeps.litBoth {s t : State}
    {x2 : Nat} {x4 : Tab (Option (BitVec 32))} {x5 : Tab (Option (BitVec 32))} {x7 : Tab Core} {x9 : List Nat} {x10
    : List Out} {x11 : List JRec} {x12 : List JRec} {x13 : Nat} {x14 : Nat} {x15 : Bool} {x16 : Tab Stack} {x17 :
    Tab Nat} {x18 : List (Nat × Nat)} {x19 : Tab W64} {x20 : Vsp} {x21 : List Nat} {x22 : Nat} {x23 : W64} {x24 :
    Tab (Option TxStream)} {x25 : Tab (Option RxStream)} {x26 : List RFrame} {x27 : Tab Arb} {x28 : Tab Nat} {x29 :
    Tab Nat} {x30 : Tab Nat} {x31 : List (Nat × Packet)} {x32 : List Nat} {x33 : List DeadLink} {x34 : List Nat}
    {x35 : Nat} {x36 : Tab (Option Nat)} {x37 : Tab Nat} {x38 : Tab Nat} {x39 : Tab (Option PortMap)} {x40 : Tab
    (Option (BitVec 16 × Nat))} {x41 : Tab OPort} {x42 : List Nat} {x43 : Tab (Option (Nat × Nat))} {x44 : List
    Nat} {x45 : List Nat} {x46 : Tab Int} {x47 : Tab Nat} {x48 : List Nat} {x49 : List Nat} {x50 : List Nat} {x51 :
    Tab DModule} {x52 : Tab (List Nat)} {x53 : Tab Nat} {x54 : List (Nat × Nat)} {x55 : Tab Nat} {x56 : Tab Nat}
    {x57 : Tab Nat} {x58 : List DrPkt} {x59 : List Nat} {x60 : List Nat} {x61 : List RsbReq} {x62 : Tab Nat} {x63 :
    Tab (BitVec 16)} {x64 : List RldJob} {x65 : List RLine} {x66 : List HomeReq} {x67 : List Reply} {x68 : List
    (Nat × Packet)} {x69 : Tab DChan} {x70 : Tab (Option ColGrp)} {x71 : Tab ColSite} {x72 : List Nat} {x73 : Tab
    Nat} {x74 : Bool} {x75 : Bool} {x76 : Tab (Option Job)} {x77 : Nat} {x78 : Tab Hold} {x79 : Option W64} {x80 :
    Tab (Option Image)} {x81 : Tab (Option CEntry)} {x84 : Tab (BitVec 384)} {x86 : Nat} {x87 : Option Upd} {x88 :
    Option (BitVec 256)} {x89 : Tab Nat} {x90 : Bool} {x91 : Bool} {x92 : Bool} {x93 : Tab (BitVec 32)} {x94 :
    BitVec 32} {x95 : TapIr} {x96 : Option Pins} {x97 : Rails} {x98 : Regl} {x99 : Therm} {x100 : List Nat} {x101 :
    Tab (Option W64)} {x102 : Tab (BitVec 32)}
    {m : List Host.Cell} {r : Tab W64} (h : Keeps s t) (hr : Tab.wf (0 : W64) t.regs = true → Tab.wf (0 : W64) r = true)
    (hm : Memory.wf t.mem = true → Memory.wf m = true) : Keeps s
    { pending := t.pending, freeIx := x2, regs := r, heldLo := x4, capHi := x5, mem := m, cores := x7, grade :=
      t.grade, evcHeld := x9, out := x10, journal := x11, backlog := x12, jNext := x13, jDropped := x14, numDefault
      := x15, ctls := x16, hppr := x17, rechecks := x18, chk := x19, vsp := x20, deadDies := x21, mapGen := x22,
      mapTime := x23, fabTx := x24, fabRx := x25, router := x26, arb := x27, txCred := x28, granted := x29, occ :=
      x30, arrived := x31, altRun := x32, deadLinks := x33, deadOwn := x34, fseqOwn := x35, fseqSeen := x36,
      violNow := x37, quiet := x38, portMap := x39, spareMap := x40, oports := x41, badSpares := x42, fan := x43,
      meshWait := x44, trainQ := x45, heatMove := x46, heatTemp := x47, recalling := x48, recalDue := x49, iodVer
      := x50, dmods := x51, steer := x52, steerLast := x53, movedFlows := x54, drCred := x55, drPart := x56, drOwed
      := x57, drQueue := x58, attached := x59, wdTimes := x60, rsbOut := x61, rsbRid := x62, epochs := x63, rldJobs
      := x64, rlc := x65, homeQ := x66, replies := x67, selfRsp := x68, dma := x69, colGrps := x70, colSites :=
      x71, colWait := x72, colTurn := x73, off := x74, porst := x75, jobs := x76, jqLast := x77, holds := x78,
      drainRun := x79, flash := x80, commits := x81, otpGold := t.otpGold, otpOwner := t.otpOwner, ownerKeys :=
      x84, svnFloor := t.svnFloor, runSvn := x86, update := x87, nonce := x88, dieMiss := x89, pwrFail := x90, vin
      := x91, perst := x92, cfg := x93, aer := x94, tapIr := x95, scan := x96, rails := x97, regl := x98, therm :=
      x99, stretch := x100, escEnd := x101, pkgParams := x102 } :=
  ⟨⟨h.lasts.grade, h.lasts.gold, h.lasts.owner, h.lasts.floor, fun x => hm (h.lasts.mem x), fun x => hr (h.lasts.regs x)⟩, h.pending⟩

/-- A literal state that takes registers from elsewhere. -/
theorem Keeps.litRegs {s t : State}
    {x2 : Nat} {x4 : Tab (Option (BitVec 32))} {x5 : Tab (Option (BitVec 32))} {x7 : Tab Core} {x9 : List Nat} {x10
    : List Out} {x11 : List JRec} {x12 : List JRec} {x13 : Nat} {x14 : Nat} {x15 : Bool} {x16 : Tab Stack} {x17 :
    Tab Nat} {x18 : List (Nat × Nat)} {x19 : Tab W64} {x20 : Vsp} {x21 : List Nat} {x22 : Nat} {x23 : W64} {x24 :
    Tab (Option TxStream)} {x25 : Tab (Option RxStream)} {x26 : List RFrame} {x27 : Tab Arb} {x28 : Tab Nat} {x29 :
    Tab Nat} {x30 : Tab Nat} {x31 : List (Nat × Packet)} {x32 : List Nat} {x33 : List DeadLink} {x34 : List Nat}
    {x35 : Nat} {x36 : Tab (Option Nat)} {x37 : Tab Nat} {x38 : Tab Nat} {x39 : Tab (Option PortMap)} {x40 : Tab
    (Option (BitVec 16 × Nat))} {x41 : Tab OPort} {x42 : List Nat} {x43 : Tab (Option (Nat × Nat))} {x44 : List
    Nat} {x45 : List Nat} {x46 : Tab Int} {x47 : Tab Nat} {x48 : List Nat} {x49 : List Nat} {x50 : List Nat} {x51 :
    Tab DModule} {x52 : Tab (List Nat)} {x53 : Tab Nat} {x54 : List (Nat × Nat)} {x55 : Tab Nat} {x56 : Tab Nat}
    {x57 : Tab Nat} {x58 : List DrPkt} {x59 : List Nat} {x60 : List Nat} {x61 : List RsbReq} {x62 : Tab Nat} {x63 :
    Tab (BitVec 16)} {x64 : List RldJob} {x65 : List RLine} {x66 : List HomeReq} {x67 : List Reply} {x68 : List
    (Nat × Packet)} {x69 : Tab DChan} {x70 : Tab (Option ColGrp)} {x71 : Tab ColSite} {x72 : List Nat} {x73 : Tab
    Nat} {x74 : Bool} {x75 : Bool} {x76 : Tab (Option Job)} {x77 : Nat} {x78 : Tab Hold} {x79 : Option W64} {x80 :
    Tab (Option Image)} {x81 : Tab (Option CEntry)} {x84 : Tab (BitVec 384)} {x86 : Nat} {x87 : Option Upd} {x88 :
    Option (BitVec 256)} {x89 : Tab Nat} {x90 : Bool} {x91 : Bool} {x92 : Bool} {x93 : Tab (BitVec 32)} {x94 :
    BitVec 32} {x95 : TapIr} {x96 : Option Pins} {x97 : Rails} {x98 : Regl} {x99 : Therm} {x100 : List Nat} {x101 :
    Tab (Option W64)} {x102 : Tab (BitVec 32)}
    {r : Tab W64} (h : Keeps s t) (hr : Tab.wf (0 : W64) t.regs = true → Tab.wf (0 : W64) r = true) : Keeps s
    { pending := t.pending, freeIx := x2, regs := r, heldLo := x4, capHi := x5, mem := t.mem, cores := x7, grade :=
      t.grade, evcHeld := x9, out := x10, journal := x11, backlog := x12, jNext := x13, jDropped := x14, numDefault
      := x15, ctls := x16, hppr := x17, rechecks := x18, chk := x19, vsp := x20, deadDies := x21, mapGen := x22,
      mapTime := x23, fabTx := x24, fabRx := x25, router := x26, arb := x27, txCred := x28, granted := x29, occ :=
      x30, arrived := x31, altRun := x32, deadLinks := x33, deadOwn := x34, fseqOwn := x35, fseqSeen := x36,
      violNow := x37, quiet := x38, portMap := x39, spareMap := x40, oports := x41, badSpares := x42, fan := x43,
      meshWait := x44, trainQ := x45, heatMove := x46, heatTemp := x47, recalling := x48, recalDue := x49, iodVer
      := x50, dmods := x51, steer := x52, steerLast := x53, movedFlows := x54, drCred := x55, drPart := x56, drOwed
      := x57, drQueue := x58, attached := x59, wdTimes := x60, rsbOut := x61, rsbRid := x62, epochs := x63, rldJobs
      := x64, rlc := x65, homeQ := x66, replies := x67, selfRsp := x68, dma := x69, colGrps := x70, colSites :=
      x71, colWait := x72, colTurn := x73, off := x74, porst := x75, jobs := x76, jqLast := x77, holds := x78,
      drainRun := x79, flash := x80, commits := x81, otpGold := t.otpGold, otpOwner := t.otpOwner, ownerKeys :=
      x84, svnFloor := t.svnFloor, runSvn := x86, update := x87, nonce := x88, dieMiss := x89, pwrFail := x90, vin
      := x91, perst := x92, cfg := x93, aer := x94, tapIr := x95, scan := x96, rails := x97, regl := x98, therm :=
      x99, stretch := x100, escEnd := x101, pkgParams := x102 } :=
  ⟨⟨h.lasts.grade, h.lasts.gold, h.lasts.owner, h.lasts.floor, h.lasts.mem, fun x => hr (h.lasts.regs x)⟩, h.pending⟩

/-- Burning a fuse leaves the burned ones burned. -/
theorem bit_burn (w : BitVec 8) (j i : Nat) (h : bit w i = true) : bit (setBit w j true) i = true := by
  unfold bit setBit setFld at *
  by_cases hi : i < 8
  · simp only [BitVec.getLsbD_or, BitVec.getLsbD_and, BitVec.getLsbD_not, h, hi, maskAt, BitVec.getLsbD_ofNat]
    by_cases hj : Nat.testBit (1 <<< j) i <;> simp [hj]
  · rw [BitVec.getLsbD_of_ge _ _ (by omega)] at h; cases h

/-- Either branch. -/
theorem Keeps.ite {s a b : State} {c : Prop} [Decidable c] (ha : Keeps s a) (hb : Keeps s b) :
    Keeps s (if c then a else b) := by split <;> assumption

theorem Keeps.iteFst {β : Type} {s : State} {a b : State × β} {c : Prop} [Decidable c] (ha : Keeps s a.1) (hb : Keeps s b.1) :
    Keeps s (if c then a else b).1 := by split <;> assumption

/-- A fold of steps that each keep. -/
theorem Keeps.foldl {α : Type} {s : State} (f : State → α → State) (hf : ∀ u x, Keeps s u → Keeps s (f u x)) (l : List α) :
    ∀ {t : State}, Keeps s t → Keeps s (l.foldl f t) := by
  induction l with
  | nil => exact id
  | cons a l ih => exact fun h => ih (hf _ a h)

theorem Keeps.foldlFst {α β : Type} {s : State} (f : State × β → α → State × β)
    (hf : ∀ u x, Keeps s u.1 → Keeps s (f u x).1) (l : List α) :
    ∀ {t : State × β}, Keeps s t.1 → Keeps s (l.foldl f t).1 := by
  induction l with
  | nil => exact id
  | cons a l ih => exact fun h => ih (hf _ a h)

theorem Keeps.iter {s t : State} {n : Nat} {f : Nat → State → State} (hf : ∀ i u, Keeps s u → Keeps s (f i u))
    (h : Keeps s t) : Keeps s (Sys2Proof.iter n f t) := Keeps.foldl _ (fun u x hu => hf x u hu) _ h

theorem Keeps.iterFst {β : Type} {s : State} {t : State × β} {n : Nat} {f : Nat → State × β → State × β}
    (hf : ∀ i u, Keeps s u.1 → Keeps s (f i u).1) (h : Keeps s t.1) : Keeps s (Sys2Proof.iter n f t).1 :=
  Keeps.foldlFst _ (fun u x hu => hf x u hu) _ h

theorem State.setReg_keeps {s t : State} {off : Nat} {v : W64} (h : Keeps s t) : Keeps s (t.setReg off v) :=
  h.setRegs rfl rfl rfl rfl rfl rfl (Tab.wf_put 0 off v _)

theorem State.putByte_keeps {s t : State} {a : Nat} {b : Byte} (h : Keeps s t) : Keeps s (t.putByte a b) := by
  unfold State.putByte
  split
  · exact h.setMem rfl rfl rfl rfl rfl rfl (Tab.wf_put 0 a b _)
  · exact h

theorem State.poke_keeps {s : State} (d : Bytes) : ∀ {t : State} {a : Nat}, Keeps s t → Keeps s (t.poke a d) := by
  induction d with
  | nil => exact id
  | cons b d ih => exact fun h => ih (State.putByte_keeps h)

/-- A command's outcome is a next state that keeps what `Keeps` names. -/
def Answers (s : State) (o : Host.Outcome State Fault Refusal) : Prop := ∃ t, o = .next t ∧ Keeps s t

theorem ret_answers {s t : State} (h : Keeps s t) : Answers s (ret t) := ⟨t, rfl, h⟩

theorem Keeps.ofPair {β : Type} {s a : State} {p : State × β} {b : β} (e : p = (a, b)) (h : Keeps s p.1) : Keeps s a := by
  rw [e] at h; exact h

theorem Keeps.ofSome {β : Type} {s : State} {o : Option (State × β)} {p : State × β} (e : o = some p)
    (h : ∀ q, o = some q → Keeps s q.1) : Keeps s p.1 := h p e

end Sys2Proof.Machine
end

