-- ==== Sys2Proof/Laws/Keeps/Ops.lean ====
section
/-! SUPPORT. What no operation or command of Machine/Ops.lean takes away. -/

namespace Sys2Proof.Machine

set_option linter.unusedTactic false
set_option linter.unreachableTactic false

theorem State.setRf_keeps {s0 : State} {s : State} {off lo len v : Nat} (hk : Keeps s0 s) :
    Keeps s0 (State.setRf s off lo len v) := by
  unfold State.setRf
  repeat' (first
    | with_reducible assumption
    | with_reducible apply State.setReg_keeps
    | with_reducible apply Keeps.lit)

theorem State.setRbit_keeps {s0 : State} {s : State} {off i : Nat} {b : Bool} (hk : Keeps s0 s) :
    Keeps s0 (State.setRbit s off i b) := by
  unfold State.setRbit
  repeat' (first
    | with_reducible assumption
    | with_reducible apply State.setReg_keeps
    | with_reducible apply Keeps.lit)

theorem State.bump_keeps {s0 : State} {s : State} {off lo len n : Nat} (hk : Keeps s0 s) :
    Keeps s0 (State.bump s off lo len n) := by
  unfold State.bump
  repeat' (first
    | with_reducible assumption
    | with_reducible apply State.setRf_keeps
    | with_reducible apply Keeps.lit)

theorem State.rwReg_keeps {s0 : State} {s : State} {off : Nat} {m v : W64} (hk : Keeps s0 s) :
    Keeps s0 (State.rwReg s off m v) := by
  unfold State.rwReg
  repeat' (first
    | with_reducible assumption
    | with_reducible apply State.setReg_keeps
    | with_reducible apply Keeps.lit)

theorem State.send_keeps {s0 : State} {s : State} {o : Out} (hk : Keeps s0 s) :
    Keeps s0 (State.send s o) := by
  unfold State.send
  repeat' (first
    | with_reducible assumption
    | with_reducible apply Keeps.lit)

theorem State.fresh_keeps {s0 : State} {s : State} (hk : Keeps s0 s) :
    Keeps s0 (State.fresh s) := by
  unfold State.fresh
  repeat' (first
    | with_reducible assumption
    | with_reducible apply Keeps.lit)

theorem State.setCore_keeps {s0 : State} {s : State} {c : Nat} {k : Core} (hk : Keeps s0 s) :
    Keeps s0 (State.setCore s c k) := by
  unfold State.setCore
  repeat' (first
    | with_reducible assumption
    | with_reducible apply Keeps.lit)

theorem State.modCore_keeps {s0 : State} {s : State} {c : Nat} {f : Core → Core} (hk : Keeps s0 s) :
    Keeps s0 (State.modCore s c f) := by
  unfold State.modCore
  repeat' (first
    | with_reducible assumption
    | with_reducible apply State.setCore_keeps
    | with_reducible apply Keeps.lit)

theorem State.setPend_keeps {s0 : State} {s : State} {n : Nat} {b : Bool} (hk : Keeps s0 s) :
    Keeps s0 (State.setPend s n b) := by
  unfold State.setPend
  repeat' (first
    | with_reducible assumption
    | with_reducible apply State.setRbit_keeps
    | with_reducible apply Keeps.lit)

theorem State.setRaw_keeps {s0 : State} {s : State} {n : Nat} {b : Bool} (hk : Keeps s0 s) :
    Keeps s0 (State.setRaw s n b) := by
  unfold State.setRaw
  repeat' (first
    | with_reducible assumption
    | with_reducible apply State.setRbit_keeps
    | with_reducible apply Keeps.lit)

theorem State.sendVec_keeps {s0 : State} {s : State} {v : Nat} (hk : Keeps s0 s) :
    Keeps s0 (State.sendVec s v) := by
  unfold State.sendVec
  try dsimp only
  repeat' (first
    | with_reducible assumption
    | with_reducible apply State.setRbit_keeps
    | with_reducible apply State.send_keeps
    | with_reducible apply Keeps.ite
    | with_reducible apply Keeps.iteFst
    | split
    | with_reducible apply Keeps.lit)

theorem State.deliver_keeps {s0 : State} {s : State} {n : Nat} (hk : Keeps s0 s) :
    Keeps s0 (State.deliver s n) := by
  unfold State.deliver
  try dsimp only
  repeat' (first
    | with_reducible assumption
    | with_reducible apply State.sendVec_keeps
    | with_reducible apply Keeps.ite
    | with_reducible apply Keeps.iteFst
    | split
    | with_reducible apply Keeps.lit)

theorem State.fire_keeps {s0 : State} {s : State} {n : Nat} (hk : Keeps s0 s) :
    Keeps s0 (State.fire s n) := by
  unfold State.fire
  repeat' (first
    | with_reducible assumption
    | with_reducible apply State.setPend_keeps
    | with_reducible apply State.deliver_keeps
    | with_reducible apply Keeps.lit)

theorem State.pulse_keeps {s0 : State} {s : State} {n : Nat} (hk : Keeps s0 s) :
    Keeps s0 (State.pulse s n) := by
  unfold State.pulse
  repeat' (first
    | with_reducible assumption
    | with_reducible apply State.fire_keeps
    | with_reducible apply Keeps.ite
    | with_reducible apply Keeps.iteFst
    | split
    | with_reducible apply Keeps.lit)

theorem State.setLevel_keeps {s0 : State} {s : State} {n : Nat} {b : Bool} (hk : Keeps s0 s) :
    Keeps s0 (State.setLevel s n b) := by
  unfold State.setLevel
  try dsimp only
  repeat' (first
    | with_reducible assumption
    | with_reducible apply State.setPend_keeps
    | with_reducible apply State.setRaw_keeps
    | with_reducible apply State.fire_keeps
    | with_reducible apply Keeps.ite
    | with_reducible apply Keeps.iteFst
    | split
    | with_reducible apply Keeps.lit)

theorem State.journalPut_keeps {s0 : State} {s : State} {kind cls uclass unit : Nat} {detail : Bytes}
    (hk : Keeps s0 s) :
    Keeps s0 (State.journalPut s kind cls uclass unit detail) := by
  unfold State.journalPut
  repeat' (first
    | with_reducible assumption
    | with_reducible apply Keeps.ite
    | with_reducible apply Keeps.iteFst
    | split
    | with_reducible apply Keeps.lit)

theorem State.mapChange_keeps {s0 : State} {s : State} (hk : Keeps s0 s) :
    Keeps s0 (State.mapChange s) := by
  unfold State.mapChange
  repeat' (first
    | with_reducible assumption
    | with_reducible apply Keeps.lit)

theorem State.modStack_keeps {s0 : State} {s : State} {st : Nat} {f : Stack → Stack} (hk : Keeps s0 s) :
    Keeps s0 (State.modStack s st f) := by
  unfold State.modStack
  repeat' (first
    | with_reducible assumption
    | with_reducible apply Keeps.lit)

end Sys2Proof.Machine
end

