-- ==== Sys2Proof/Laws/Keeps/Operands.lean ====
section
/-! SUPPORT. What no operation or command of Machine/Operands.lean takes away. -/

namespace Sys2Proof.Machine

set_option linter.unusedTactic false
set_option linter.unreachableTactic false

theorem State.coreViol_keeps {s0 : State} {s : State} {c : Nat} {addrs : List Nat} (hk : Keeps s0 s) :
    Keeps s0 (State.coreViol s c addrs) := by
  unfold State.coreViol
  try dsimp only
  repeat' (first
    | with_reducible assumption
    | with_reducible apply State.setReg_keeps
    | with_reducible apply State.bump_keeps
    | with_reducible apply State.pulse_keeps
    | with_reducible apply Keeps.ite
    | with_reducible apply Keeps.iteFst
    | split
    | with_reducible apply Keeps.lit)

theorem State.putElem_keeps {s0 : State} {s : State} {core : Nat} {t : TD} {r c raw : Nat} (hk : Keeps s0 s) :
    Keeps s0 (State.putElem s core t r c raw) := by
  unfold State.putElem
  try dsimp only
  repeat' (first
    | with_reducible assumption
    | with_reducible apply State.poke_keeps
    | with_reducible apply State.coreViol_keeps
    | with_reducible apply State.poke_keeps
    | with_reducible apply Keeps.ite
    | with_reducible apply Keeps.iteFst
    | split
    | with_reducible apply Keeps.lit)

end Sys2Proof.Machine
end

