-- ==== Sys2Proof/Laws/Keeps/Flags.lean ====
section
/-! SUPPORT. What no operation or command of Machine/Flags.lean takes away. -/

namespace Sys2Proof.Machine

set_option linter.unusedTactic false
set_option linter.unreachableTactic false

theorem State.setRun_keeps {s0 : State} {s : State} {c : Nat} {r : RunState} (hk : Keeps s0 s) :
    Keeps s0 (State.setRun s c r) := by
  unfold State.setRun
  try dsimp only
  repeat' (first
    | with_reducible assumption
    | with_reducible apply State.modCore_keeps
    | with_reducible apply State.setLevel_keeps
    | with_reducible apply Keeps.lit)

theorem State.signal_keeps {s0 : State} {s : State} {c sem inc : Nat} (hk : Keeps s0 s) :
    Keeps s0 (State.signal s c sem inc) := by
  unfold State.signal
  try dsimp only
  repeat' (first
    | with_reducible assumption
    | with_reducible apply State.setRbit_keeps
    | with_reducible apply State.modCore_keeps
    | with_reducible apply State.pulse_keeps
    | with_reducible apply Keeps.ite
    | with_reducible apply Keeps.iteFst
    | split
    | with_reducible apply Keeps.lit)

theorem State.signals_keeps {s0 : State} {s : State} {c : Nat} {y : Sync} (hk : Keeps s0 s) :
    Keeps s0 (State.signals s c y) := by
  unfold State.signals
  try dsimp only
  repeat' (first
    | with_reducible assumption
    | with_reducible apply State.signal_keeps
    | with_reducible apply Keeps.ite
    | with_reducible apply Keeps.iteFst
    | split
    | with_reducible apply Keeps.lit)

theorem State.marksDue_keeps {s0 : State} {s : State} (hk : Keeps s0 s) :
    Keeps s0 (State.marksDue s) := by
  unfold State.marksDue
  try dsimp only
  repeat' (first
    | with_reducible assumption
    | (intro _ _ _ _; try dsimp only)
    | (intro _ _ _; try dsimp only)
    | (intro _ _; try dsimp only)
    | with_reducible apply State.modCore_keeps
    | with_reducible apply Keeps.iter
    | with_reducible apply Keeps.iterFst
    | with_reducible apply Keeps.lit)

theorem State.coreFault_keeps {s0 : State} {s : State} {c cause queue pc detail : Nat} (hk : Keeps s0 s) :
    Keeps s0 (State.coreFault s c cause queue pc detail) := by
  unfold State.coreFault
  try dsimp only
  repeat' (first
    | with_reducible assumption
    | with_reducible apply State.modCore_keeps
    | with_reducible apply State.setRun_keeps
    | with_reducible apply Keeps.ite
    | with_reducible apply Keeps.iteFst
    | split
    | with_reducible apply Keeps.lit)

theorem State.parityFault_keeps {s0 : State} {s : State} {c queue pc : Nat} {p : Parity} (hk : Keeps s0 s) :
    Keeps s0 (State.parityFault s c queue pc p) := by
  unfold State.parityFault
  try dsimp only
  repeat' (first
    | with_reducible assumption
    | with_reducible apply State.modCore_keeps
    | with_reducible apply State.coreFault_keeps
    | with_reducible apply State.store_keeps
    | with_reducible apply Keeps.ite
    | with_reducible apply Keeps.iteFst
    | split
    | with_reducible apply Keeps.lit)

theorem State.keepViol_keeps {s0 : State} {s : State} {c : Nat} {r : State} (hk : Keeps s0 s) :
    Keeps s0 (State.keepViol s c r) := by
  unfold State.keepViol
  repeat' (first
    | with_reducible assumption
    | with_reducible apply State.coreViol_keeps
    | with_reducible apply Keeps.lit)

theorem State.recordStatus_keeps {s0 : State} {s : State} {c : Nat} {q : Queue} {code pc : Nat} {fl : NumFlags}
    (hk : Keeps s0 s) :
    Keeps s0 (State.recordStatus s c q code pc fl) := by
  unfold State.recordStatus
  try dsimp only
  repeat' (first
    | with_reducible assumption
    | with_reducible apply State.setRf_keeps
    | with_reducible apply State.bump_keeps
    | with_reducible apply Keeps.ite
    | with_reducible apply Keeps.iteFst
    | split
    | with_reducible apply Keeps.lit)

theorem State.finish_keeps {s0 : State} {s : State} {c seq code : Nat} {fl : NumFlags} (hk : Keeps s0 s) :
    Keeps s0 (State.finish s c seq code fl) := by
  unfold State.finish
  try dsimp only
  repeat' (first
    | with_reducible assumption
    | with_reducible apply State.modCore_keeps
    | with_reducible apply Keeps.ite
    | with_reducible apply Keeps.iteFst
    | split
    | with_reducible apply Keeps.lit)

end Sys2Proof.Machine
end

