-- ==== Sys2Proof/Laws/Keeps/Sequencer.lean ====
section
/-! SUPPORT. What no operation or command of Machine/Sequencer.lean takes away. -/

namespace Sys2Proof.Machine

set_option linter.unusedTactic false
set_option linter.unreachableTactic false

theorem issue_keeps {s0 : State} {c : Nat} {s : State} {f : State → State} (hf : ∀ y0, Keeps s0 y0 → Keeps s0
    (f y0)) (hk : Keeps s0 s) :
    Keeps s0 (issue c s f) := by
  unfold issue
  repeat' (first
    | with_reducible assumption
    | (intro _ _ _ _; try dsimp only)
    | (intro _ _ _; try dsimp only)
    | (intro _ _; try dsimp only)
    | with_reducible apply State.coreFault_keeps
    | with_reducible apply hf
    | with_reducible apply Keeps.ite
    | with_reducible apply Keeps.iteFst
    | split
    | with_reducible apply Keeps.lit)

theorem State.illegal_keeps {s0 : State} {s : State} {c : Nat} (hk : Keeps s0 s) :
    Keeps s0 (State.illegal s c) := by
  unfold State.illegal
  repeat' (first
    | with_reducible assumption
    | with_reducible apply State.coreFault_keeps
    | with_reducible apply Keeps.lit)

theorem State.advance_keeps {s0 : State} {s : State} {c : Nat} (hk : Keeps s0 s) :
    Keeps s0 (State.advance s c) := by
  unfold State.advance
  try dsimp only
  repeat' (first
    | with_reducible assumption
    | with_reducible apply State.modCore_keeps
    | with_reducible apply State.coreFault_keeps
    | with_reducible apply Keeps.ite
    | with_reducible apply Keeps.iteFst
    | split
    | with_reducible apply Keeps.lit)

theorem State.jump_keeps {s0 : State} {s : State} {c target : Nat} (hk : Keeps s0 s) :
    Keeps s0 (State.jump s c target) := by
  unfold State.jump
  try dsimp only
  repeat' (first
    | with_reducible assumption
    | with_reducible apply State.modCore_keeps
    | with_reducible apply State.coreFault_keeps
    | with_reducible apply Keeps.ite
    | with_reducible apply Keeps.iteFst
    | split
    | with_reducible apply Keeps.lit)

theorem State.enqueue_keeps {s0 : State} {s : State} {c : Nat} {ins : QIns} (hk : Keeps s0 s) :
    Keeps s0 (State.enqueue s c ins) := by
  unfold State.enqueue
  try dsimp only
  repeat' (first
    | with_reducible assumption
    | with_reducible apply State.modCore_keeps
    | with_reducible apply State.advance_keeps
    | with_reducible apply Keeps.ite
    | with_reducible apply Keeps.iteFst
    | split
    | with_reducible apply Keeps.lit)

theorem issueQ_keeps {s0 : State} {c : Nat} {ins : QIns} {illegal : Bool} {bad : QEntry → Bool} {s : State}
    (hk : Keeps s0 s) :
    Keeps s0 (issueQ c ins illegal bad s) := by
  unfold issueQ
  try dsimp only
  repeat' (first
    | with_reducible assumption
    | (intro _ _ _ _; try dsimp only)
    | (intro _ _ _; try dsimp only)
    | (intro _ _; try dsimp only)
    | with_reducible apply State.coreFault_keeps
    | with_reducible apply issue_keeps
    | with_reducible apply State.illegal_keeps
    | with_reducible apply State.enqueue_keeps
    | with_reducible apply Keeps.ite
    | with_reducible apply Keeps.iteFst
    | split
    | with_reducible apply Keeps.lit)

theorem execNop_answers {s0 : State} {c : Nat} {_f : CtrlF} {s : State} (hk : Keeps s0 s) :
    Answers s0 (execNop c _f s) := by
  unfold execNop
  try dsimp only
  repeat' (first
    | with_reducible assumption
    | (intro _ _ _ _; try dsimp only)
    | (intro _ _ _; try dsimp only)
    | (intro _ _; try dsimp only)
    | with_reducible apply issue_keeps
    | with_reducible apply State.advance_keeps
    | with_reducible apply ret_answers
    | with_reducible apply Keeps.lit)

theorem execJmp_answers {s0 : State} {c : Nat} {f : CtrlF} {s : State} (hk : Keeps s0 s) :
    Answers s0 (execJmp c f s) := by
  unfold execJmp
  try dsimp only
  repeat' (first
    | with_reducible assumption
    | (intro _ _ _ _; try dsimp only)
    | (intro _ _ _; try dsimp only)
    | (intro _ _; try dsimp only)
    | with_reducible apply issue_keeps
    | with_reducible apply State.jump_keeps
    | with_reducible apply ret_answers
    | with_reducible apply Keeps.lit)

theorem execBr_answers {s0 : State} {c : Nat} {f : CtrlF} {s : State} (hk : Keeps s0 s) :
    Answers s0 (execBr c f s) := by
  unfold execBr
  try dsimp only
  repeat' (first
    | with_reducible assumption
    | (intro _ _ _ _; try dsimp only)
    | (intro _ _ _; try dsimp only)
    | (intro _ _; try dsimp only)
    | with_reducible apply issue_keeps
    | with_reducible apply State.illegal_keeps
    | with_reducible apply State.advance_keeps
    | with_reducible apply State.jump_keeps
    | with_reducible apply ret_answers
    | split
    | with_reducible apply Keeps.lit)

theorem execCall_answers {s0 : State} {c : Nat} {f : CtrlF} {s : State} (hk : Keeps s0 s) :
    Answers s0 (execCall c f s) := by
  unfold execCall
  try dsimp only
  repeat' (first
    | with_reducible assumption
    | (intro _ _ _ _; try dsimp only)
    | (intro _ _ _; try dsimp only)
    | (intro _ _; try dsimp only)
    | with_reducible apply State.modCore_keeps
    | with_reducible apply State.coreFault_keeps
    | with_reducible apply issue_keeps
    | with_reducible apply State.jump_keeps
    | with_reducible apply ret_answers
    | with_reducible apply Keeps.ite
    | with_reducible apply Keeps.iteFst
    | split
    | with_reducible apply Keeps.lit)

theorem execRet_answers {s0 : State} {c : Nat} {_f : CtrlF} {s : State} (hk : Keeps s0 s) :
    Answers s0 (execRet c _f s) := by
  unfold execRet
  try dsimp only
  repeat' (first
    | with_reducible assumption
    | (intro _ _ _ _; try dsimp only)
    | (intro _ _ _; try dsimp only)
    | (intro _ _; try dsimp only)
    | with_reducible apply State.modCore_keeps
    | with_reducible apply State.coreFault_keeps
    | with_reducible apply issue_keeps
    | with_reducible apply State.jump_keeps
    | with_reducible apply ret_answers
    | split
    | with_reducible apply Keeps.lit)

theorem execHalt_answers {s0 : State} {c : Nat} {_f : CtrlF} {s : State} (hk : Keeps s0 s) :
    Answers s0 (execHalt c _f s) := by
  unfold execHalt
  try dsimp only
  repeat' (first
    | with_reducible assumption
    | (intro _ _ _ _; try dsimp only)
    | (intro _ _ _; try dsimp only)
    | (intro _ _; try dsimp only)
    | with_reducible apply State.modCore_keeps
    | with_reducible apply State.setRun_keeps
    | with_reducible apply issue_keeps
    | with_reducible apply ret_answers
    | with_reducible apply Keeps.lit)

theorem execSwait_answers {s0 : State} {c : Nat} {f : CtrlF} {s : State} (hk : Keeps s0 s) :
    Answers s0 (execSwait c f s) := by
  unfold execSwait
  try dsimp only
  repeat' (first
    | with_reducible assumption
    | (intro _ _ _ _; try dsimp only)
    | (intro _ _ _; try dsimp only)
    | (intro _ _; try dsimp only)
    | with_reducible apply State.modCore_keeps
    | with_reducible apply issue_keeps
    | with_reducible apply State.advance_keeps
    | with_reducible apply ret_answers
    | with_reducible apply Keeps.ite
    | with_reducible apply Keeps.iteFst
    | split
    | with_reducible apply Keeps.lit)

theorem execSwaitSatisfied_answers {s0 : State} {c : Nat} {s : State} (hk : Keeps s0 s) :
    Answers s0 (execSwaitSatisfied c s) := by
  unfold execSwaitSatisfied
  try dsimp only
  repeat' (first
    | with_reducible assumption
    | with_reducible apply State.modCore_keeps
    | with_reducible apply ret_answers
    | with_reducible apply Keeps.ite
    | with_reducible apply Keeps.iteFst
    | split
    | with_reducible apply Keeps.lit)

theorem execQstat_answers {s0 : State} {c : Nat} {f : CtrlF} {s : State} (hk : Keeps s0 s) :
    Answers s0 (execQstat c f s) := by
  unfold execQstat
  try dsimp only
  repeat' (first
    | with_reducible assumption
    | (intro _ _ _ _; try dsimp only)
    | (intro _ _ _; try dsimp only)
    | (intro _ _; try dsimp only)
    | with_reducible apply State.setReg_keeps
    | with_reducible apply State.modCore_keeps
    | with_reducible apply issue_keeps
    | with_reducible apply State.illegal_keeps
    | with_reducible apply State.advance_keeps
    | with_reducible apply ret_answers
    | with_reducible apply Keeps.ite
    | with_reducible apply Keeps.iteFst
    | split
    | with_reducible apply Keeps.lit)

theorem execIllegalInstr_answers {s0 : State} {c : Nat} {w : BitVec 128} {par : Option Parity} {s : State}
    (hk : Keeps s0 s) :
    Answers s0 (execIllegalInstr c w par s) := by
  unfold execIllegalInstr
  try dsimp only
  repeat' (first
    | with_reducible assumption
    | (intro _ _ _ _; try dsimp only)
    | (intro _ _ _; try dsimp only)
    | (intro _ _; try dsimp only)
    | with_reducible apply State.parityFault_keeps
    | with_reducible apply issue_keeps
    | with_reducible apply State.illegal_keeps
    | with_reducible apply ret_answers
    | with_reducible apply Keeps.ite
    | with_reducible apply Keeps.iteFst
    | split
    | with_reducible apply Keeps.lit)

theorem scalar_answers {s0 : State} {op : W64 → W64 → W64} {c : Nat} {f : ScalF} {s : State} (hk : Keeps s0 s) :
    Answers s0 (scalar op c f s) := by
  unfold scalar
  try dsimp only
  repeat' (first
    | with_reducible assumption
    | (intro _ _ _ _; try dsimp only)
    | (intro _ _ _; try dsimp only)
    | (intro _ _; try dsimp only)
    | with_reducible apply State.modCore_keeps
    | with_reducible apply issue_keeps
    | with_reducible apply State.advance_keeps
    | with_reducible apply ret_answers
    | with_reducible apply Keeps.lit)

theorem execAdd_answers {s0 : State} {c : Nat} {f : ScalF} {s : State} (hk : Keeps s0 s) :
    Answers s0 (execAdd c f s) := by
  unfold execAdd
  try dsimp only
  repeat' (first
    | with_reducible assumption
    | with_reducible apply scalar_answers
    | with_reducible apply Keeps.lit)

theorem execSub_answers {s0 : State} {c : Nat} {f : ScalF} {s : State} (hk : Keeps s0 s) :
    Answers s0 (execSub c f s) := by
  unfold execSub
  try dsimp only
  repeat' (first
    | with_reducible assumption
    | with_reducible apply scalar_answers
    | with_reducible apply Keeps.lit)

theorem execAnd_answers {s0 : State} {c : Nat} {f : ScalF} {s : State} (hk : Keeps s0 s) :
    Answers s0 (execAnd c f s) := by
  unfold execAnd
  try dsimp only
  repeat' (first
    | with_reducible assumption
    | with_reducible apply scalar_answers
    | with_reducible apply Keeps.lit)

theorem execOr_answers {s0 : State} {c : Nat} {f : ScalF} {s : State} (hk : Keeps s0 s) :
    Answers s0 (execOr c f s) := by
  unfold execOr
  try dsimp only
  repeat' (first
    | with_reducible assumption
    | with_reducible apply scalar_answers
    | with_reducible apply Keeps.lit)

theorem execXor_answers {s0 : State} {c : Nat} {f : ScalF} {s : State} (hk : Keeps s0 s) :
    Answers s0 (execXor c f s) := by
  unfold execXor
  try dsimp only
  repeat' (first
    | with_reducible assumption
    | with_reducible apply scalar_answers
    | with_reducible apply Keeps.lit)

theorem execSll_answers {s0 : State} {c : Nat} {f : ScalF} {s : State} (hk : Keeps s0 s) :
    Answers s0 (execSll c f s) := by
  unfold execSll
  try dsimp only
  repeat' (first
    | with_reducible assumption
    | with_reducible apply scalar_answers
    | with_reducible apply Keeps.lit)

theorem execSrl_answers {s0 : State} {c : Nat} {f : ScalF} {s : State} (hk : Keeps s0 s) :
    Answers s0 (execSrl c f s) := by
  unfold execSrl
  try dsimp only
  repeat' (first
    | with_reducible assumption
    | with_reducible apply scalar_answers
    | with_reducible apply Keeps.lit)

theorem execSra_answers {s0 : State} {c : Nat} {f : ScalF} {s : State} (hk : Keeps s0 s) :
    Answers s0 (execSra c f s) := by
  unfold execSra
  try dsimp only
  repeat' (first
    | with_reducible assumption
    | with_reducible apply scalar_answers
    | with_reducible apply Keeps.lit)

theorem execMul_answers {s0 : State} {c : Nat} {f : ScalF} {s : State} (hk : Keeps s0 s) :
    Answers s0 (execMul c f s) := by
  unfold execMul
  try dsimp only
  repeat' (first
    | with_reducible assumption
    | with_reducible apply scalar_answers
    | with_reducible apply Keeps.lit)

theorem execMulhu_answers {s0 : State} {c : Nat} {f : ScalF} {s : State} (hk : Keeps s0 s) :
    Answers s0 (execMulhu c f s) := by
  unfold execMulhu
  try dsimp only
  repeat' (first
    | with_reducible assumption
    | with_reducible apply scalar_answers
    | with_reducible apply Keeps.lit)

theorem execMin_answers {s0 : State} {c : Nat} {f : ScalF} {s : State} (hk : Keeps s0 s) :
    Answers s0 (execMin c f s) := by
  unfold execMin
  try dsimp only
  repeat' (first
    | with_reducible assumption
    | with_reducible apply scalar_answers
    | with_reducible apply Keeps.ite
    | with_reducible apply Keeps.iteFst
    | split
    | with_reducible apply Keeps.lit)

theorem execMax_answers {s0 : State} {c : Nat} {f : ScalF} {s : State} (hk : Keeps s0 s) :
    Answers s0 (execMax c f s) := by
  unfold execMax
  try dsimp only
  repeat' (first
    | with_reducible assumption
    | with_reducible apply scalar_answers
    | with_reducible apply Keeps.ite
    | with_reducible apply Keeps.iteFst
    | split
    | with_reducible apply Keeps.lit)

theorem execMinu_answers {s0 : State} {c : Nat} {f : ScalF} {s : State} (hk : Keeps s0 s) :
    Answers s0 (execMinu c f s) := by
  unfold execMinu
  try dsimp only
  repeat' (first
    | with_reducible assumption
    | with_reducible apply scalar_answers
    | with_reducible apply Keeps.ite
    | with_reducible apply Keeps.iteFst
    | split
    | with_reducible apply Keeps.lit)

theorem execMaxu_answers {s0 : State} {c : Nat} {f : ScalF} {s : State} (hk : Keeps s0 s) :
    Answers s0 (execMaxu c f s) := by
  unfold execMaxu
  try dsimp only
  repeat' (first
    | with_reducible assumption
    | with_reducible apply scalar_answers
    | with_reducible apply Keeps.ite
    | with_reducible apply Keeps.iteFst
    | split
    | with_reducible apply Keeps.lit)

theorem execSlt_answers {s0 : State} {c : Nat} {f : ScalF} {s : State} (hk : Keeps s0 s) :
    Answers s0 (execSlt c f s) := by
  unfold execSlt
  try dsimp only
  repeat' (first
    | with_reducible assumption
    | with_reducible apply scalar_answers
    | with_reducible apply Keeps.ite
    | with_reducible apply Keeps.iteFst
    | split
    | with_reducible apply Keeps.lit)

theorem execSltu_answers {s0 : State} {c : Nat} {f : ScalF} {s : State} (hk : Keeps s0 s) :
    Answers s0 (execSltu c f s) := by
  unfold execSltu
  try dsimp only
  repeat' (first
    | with_reducible assumption
    | with_reducible apply scalar_answers
    | with_reducible apply Keeps.ite
    | with_reducible apply Keeps.iteFst
    | split
    | with_reducible apply Keeps.lit)

theorem execLi_answers {s0 : State} {c : Nat} {f : ScalF} {s : State} (hk : Keeps s0 s) :
    Answers s0 (execLi c f s) := by
  unfold execLi
  try dsimp only
  repeat' (first
    | with_reducible assumption
    | (intro _ _ _ _; try dsimp only)
    | (intro _ _ _; try dsimp only)
    | (intro _ _; try dsimp only)
    | with_reducible apply State.modCore_keeps
    | with_reducible apply issue_keeps
    | with_reducible apply State.advance_keeps
    | with_reducible apply ret_answers
    | with_reducible apply Keeps.lit)

theorem State.seqViol_keeps {s0 : State} {s : State} {c off n : Nat} (hk : Keeps s0 s) :
    Keeps s0 (State.seqViol s c off n) := by
  unfold State.seqViol
  repeat' (first
    | with_reducible assumption
    | with_reducible apply State.coreViol_keeps
    | with_reducible apply Keeps.ite
    | with_reducible apply Keeps.iteFst
    | split
    | with_reducible apply Keeps.lit)

theorem seqLoad_keeps {s0 : State} {c align n off : Nat} {par : Option Parity} {f : Bytes → Core → Core} {s : State}
    (hk : Keeps s0 s) :
    Keeps s0 (seqLoad c align n off par f s) := by
  unfold seqLoad
  try dsimp only
  repeat' (first
    | with_reducible assumption
    | with_reducible apply State.modCore_keeps
    | with_reducible apply State.coreFault_keeps
    | with_reducible apply State.parityFault_keeps
    | with_reducible apply State.advance_keeps
    | with_reducible apply State.seqViol_keeps
    | with_reducible apply Keeps.ite
    | with_reducible apply Keeps.iteFst
    | split
    | with_reducible apply Keeps.lit)

theorem seqStore_keeps {s0 : State} {c align off : Nat} {data : Bytes} {s : State} (hk : Keeps s0 s) :
    Keeps s0 (seqStore c align off data s) := by
  unfold seqStore
  repeat' (first
    | with_reducible assumption
    | with_reducible apply State.poke_keeps
    | with_reducible apply State.coreFault_keeps
    | with_reducible apply State.advance_keeps
    | with_reducible apply State.seqViol_keeps
    | with_reducible apply State.poke_keeps
    | with_reducible apply Keeps.ite
    | with_reducible apply Keeps.iteFst
    | split
    | with_reducible apply Keeps.lit)

theorem execLd_answers {s0 : State} {c : Nat} {f : ScalF} {par : Option Parity} {s : State} (hk : Keeps s0 s) :
    Answers s0 (execLd c f par s) := by
  unfold execLd
  try dsimp only
  repeat' (first
    | with_reducible assumption
    | (intro _ _ _ _; try dsimp only)
    | (intro _ _ _; try dsimp only)
    | (intro _ _; try dsimp only)
    | with_reducible apply issue_keeps
    | with_reducible apply seqLoad_keeps
    | with_reducible apply ret_answers
    | with_reducible apply Keeps.lit)

theorem execSt_answers {s0 : State} {c : Nat} {f : ScalF} {s : State} (hk : Keeps s0 s) :
    Answers s0 (execSt c f s) := by
  unfold execSt
  try dsimp only
  repeat' (first
    | with_reducible assumption
    | (intro _ _ _ _; try dsimp only)
    | (intro _ _ _; try dsimp only)
    | (intro _ _; try dsimp only)
    | with_reducible apply issue_keeps
    | with_reducible apply seqStore_keeps
    | with_reducible apply ret_answers
    | with_reducible apply Keeps.lit)

theorem execTdld_answers {s0 : State} {c : Nat} {f : DescF} {par : Option Parity} {s : State} (hk : Keeps s0 s) :
    Answers s0 (execTdld c f par s) := by
  unfold execTdld
  try dsimp only
  repeat' (first
    | with_reducible assumption
    | (intro _ _ _ _; try dsimp only)
    | (intro _ _ _; try dsimp only)
    | (intro _ _; try dsimp only)
    | with_reducible apply issue_keeps
    | with_reducible apply seqLoad_keeps
    | with_reducible apply ret_answers
    | with_reducible apply Keeps.lit)

theorem execTdst_answers {s0 : State} {c : Nat} {f : DescF} {s : State} (hk : Keeps s0 s) :
    Answers s0 (execTdst c f s) := by
  unfold execTdst
  try dsimp only
  repeat' (first
    | with_reducible assumption
    | (intro _ _ _ _; try dsimp only)
    | (intro _ _ _; try dsimp only)
    | (intro _ _; try dsimp only)
    | with_reducible apply issue_keeps
    | with_reducible apply seqStore_keeps
    | with_reducible apply ret_answers
    | with_reducible apply Keeps.lit)

theorem execTdcpy_answers {s0 : State} {c : Nat} {f : DescF} {s : State} (hk : Keeps s0 s) :
    Answers s0 (execTdcpy c f s) := by
  unfold execTdcpy
  try dsimp only
  repeat' (first
    | with_reducible assumption
    | (intro _ _ _ _; try dsimp only)
    | (intro _ _ _; try dsimp only)
    | (intro _ _; try dsimp only)
    | with_reducible apply State.modCore_keeps
    | with_reducible apply issue_keeps
    | with_reducible apply State.advance_keeps
    | with_reducible apply ret_answers
    | with_reducible apply Keeps.lit)

theorem execTdset_answers {s0 : State} {c : Nat} {f : DescF} {s : State} (hk : Keeps s0 s) :
    Answers s0 (execTdset c f s) := by
  unfold execTdset
  try dsimp only
  repeat' (first
    | with_reducible assumption
    | (intro _ _ _ _; try dsimp only)
    | (intro _ _ _; try dsimp only)
    | (intro _ _; try dsimp only)
    | with_reducible apply State.modCore_keeps
    | with_reducible apply issue_keeps
    | with_reducible apply State.illegal_keeps
    | with_reducible apply State.advance_keeps
    | with_reducible apply ret_answers
    | split
    | with_reducible apply Keeps.lit)

theorem execTdadd_answers {s0 : State} {c : Nat} {f : DescF} {s : State} (hk : Keeps s0 s) :
    Answers s0 (execTdadd c f s) := by
  unfold execTdadd
  try dsimp only
  repeat' (first
    | with_reducible assumption
    | (intro _ _ _ _; try dsimp only)
    | (intro _ _ _; try dsimp only)
    | (intro _ _; try dsimp only)
    | with_reducible apply State.modCore_keeps
    | with_reducible apply issue_keeps
    | with_reducible apply State.illegal_keeps
    | with_reducible apply State.advance_keeps
    | with_reducible apply ret_answers
    | split
    | with_reducible apply Keeps.lit
    | refine Keeps.ofPair (by with_reducible assumption) ?_)

theorem execCdld_answers {s0 : State} {c : Nat} {f : ChainF} {par : Option Parity} {s : State} (hk : Keeps s0 s) :
    Answers s0 (execCdld c f par s) := by
  unfold execCdld
  try dsimp only
  repeat' (first
    | with_reducible assumption
    | (intro _ _ _ _; try dsimp only)
    | (intro _ _ _; try dsimp only)
    | (intro _ _; try dsimp only)
    | with_reducible apply issue_keeps
    | with_reducible apply seqLoad_keeps
    | with_reducible apply ret_answers
    | with_reducible apply Keeps.lit)

theorem execCdst_answers {s0 : State} {c : Nat} {f : ChainF} {s : State} (hk : Keeps s0 s) :
    Answers s0 (execCdst c f s) := by
  unfold execCdst
  try dsimp only
  repeat' (first
    | with_reducible assumption
    | (intro _ _ _ _; try dsimp only)
    | (intro _ _ _; try dsimp only)
    | (intro _ _; try dsimp only)
    | with_reducible apply issue_keeps
    | with_reducible apply seqStore_keeps
    | with_reducible apply ret_answers
    | with_reducible apply Keeps.lit)

theorem execCdcpy_answers {s0 : State} {c : Nat} {f : ChainF} {s : State} (hk : Keeps s0 s) :
    Answers s0 (execCdcpy c f s) := by
  unfold execCdcpy
  try dsimp only
  repeat' (first
    | with_reducible assumption
    | (intro _ _ _ _; try dsimp only)
    | (intro _ _ _; try dsimp only)
    | (intro _ _; try dsimp only)
    | with_reducible apply State.modCore_keeps
    | with_reducible apply issue_keeps
    | with_reducible apply State.advance_keeps
    | with_reducible apply ret_answers
    | with_reducible apply Keeps.lit)

theorem cdField_answers {s0 : State} {lo len c : Nat} {f : ChainF} {s : State} (hk : Keeps s0 s) :
    Answers s0 (cdField lo len c f s) := by
  unfold cdField
  try dsimp only
  repeat' (first
    | with_reducible assumption
    | (intro _ _ _ _; try dsimp only)
    | (intro _ _ _; try dsimp only)
    | (intro _ _; try dsimp only)
    | with_reducible apply State.modCore_keeps
    | with_reducible apply issue_keeps
    | with_reducible apply State.advance_keeps
    | with_reducible apply ret_answers
    | with_reducible apply Keeps.lit)

theorem execCdsetw_answers {s0 : State} {c : Nat} {f : ChainF} {s : State} (hk : Keeps s0 s) :
    Answers s0 (execCdsetw c f s) := by
  unfold execCdsetw
  repeat' (first
    | with_reducible assumption
    | with_reducible apply cdField_answers
    | with_reducible apply Keeps.lit)

theorem execCdlbase_answers {s0 : State} {c : Nat} {f : ChainF} {s : State} (hk : Keeps s0 s) :
    Answers s0 (execCdlbase c f s) := by
  unfold execCdlbase
  repeat' (first
    | with_reducible assumption
    | with_reducible apply cdField_answers
    | with_reducible apply Keeps.lit)

theorem execCdstream_answers {s0 : State} {c : Nat} {f : ChainF} {s : State} (hk : Keeps s0 s) :
    Answers s0 (execCdstream c f s) := by
  unfold execCdstream
  repeat' (first
    | with_reducible assumption
    | with_reducible apply cdField_answers
    | with_reducible apply Keeps.lit)

theorem execSeqResume_answers {s0 : State} {c : Nat} {s : State} (hk : Keeps s0 s) :
    Answers s0 (execSeqResume c s) := by
  unfold execSeqResume
  try dsimp only
  repeat' (first
    | with_reducible assumption
    | with_reducible apply State.modCore_keeps
    | with_reducible apply State.advance_keeps
    | with_reducible apply ret_answers
    | with_reducible apply Keeps.ite
    | with_reducible apply Keeps.iteFst
    | split
    | with_reducible apply Keeps.lit
    | refine Keeps.ofPair (by with_reducible assumption) ?_)

theorem execCoreFaulted_answers {s0 : State} {c : Nat} {s : State} (hk : Keeps s0 s) :
    Answers s0 (execCoreFaulted c s) := by
  unfold execCoreFaulted
  try dsimp only
  repeat' (first
    | with_reducible assumption
    | with_reducible apply State.setReg_keeps
    | with_reducible apply State.modCore_keeps
    | with_reducible apply State.journalPut_keeps
    | with_reducible apply State.setRun_keeps
    | with_reducible apply ret_answers
    | with_reducible apply Keeps.ite
    | with_reducible apply Keeps.iteFst
    | split
    | with_reducible apply Keeps.lit)

end Sys2Proof.Machine
end

