-- ==== Sys2Proof/Laws/Keeps/Vector.lean ====
section
/-! SUPPORT. What no operation or command of Machine/Vector.lean takes away. -/

namespace Sys2Proof.Machine

set_option linter.unusedTactic false
set_option linter.unreachableTactic false

theorem State.putRow_keeps {s0 : State} {s : State} {c : Nat} {t : TD} {r c0 : Nat} {raws : List Nat}
    (hk : Keeps s0 s) :
    Keeps s0 (State.putRow s c t r c0 raws) := by
  unfold State.putRow
  try dsimp only
  repeat' (first
    | with_reducible assumption
    | (intro _ _ _ _; try dsimp only)
    | (intro _ _ _; try dsimp only)
    | (intro _ _; try dsimp only)
    | with_reducible apply State.putElem_keeps
    | with_reducible apply Keeps.foldl
    | with_reducible apply Keeps.foldlFst
    | with_reducible apply Keeps.lit)

theorem State.writeRow_keeps {s0 : State} {s : State} {c : Nat} {e : QEntry} {t : TD} {rnd : Rnd} {off r c0 : Nat}
    {vs : List XV} (hk : Keeps s0 s) :
    Keeps s0 (State.writeRow s c e t rnd off r c0 vs).1 := by
  unfold State.writeRow
  try dsimp only
  repeat' (first
    | with_reducible assumption
    | (intro _ _ _ _; try dsimp only)
    | (intro _ _ _; try dsimp only)
    | (intro _ _; try dsimp only)
    | with_reducible apply State.putElem_keeps
    | with_reducible apply State.putRow_keeps
    | with_reducible apply Keeps.foldl
    | with_reducible apply Keeps.foldlFst
    | with_reducible apply Keeps.ite
    | with_reducible apply Keeps.iteFst
    | split
    | with_reducible apply Keeps.lit)

theorem storeLanes_keeps {s0 : State} {s : State} {c : Nat} {e : QEntry} {f : VxF} (hk : Keeps s0 s) :
    Keeps s0 (storeLanes s c e f).1 := by
  unfold storeLanes
  try dsimp only
  repeat' (first
    | with_reducible assumption
    | with_reducible apply State.putRow_keeps
    | with_reducible apply State.writeRow_keeps
    | with_reducible apply Keeps.ite
    | with_reducible apply Keeps.iteFst
    | split
    | with_reducible apply Keeps.lit)

theorem vxStart_keeps {s0 : State} {c : Nat} {e : QEntry} {op : VxOp} {f : VxF} {s : State} (hk : Keeps s0 s) :
    Keeps s0 (vxStart c e op f s).1 := by
  unfold vxStart
  try dsimp only
  repeat' (first
    | with_reducible assumption
    | (intro _ _ _ _; try dsimp only)
    | (intro _ _ _; try dsimp only)
    | (intro _ _; try dsimp only)
    | with_reducible apply State.modCore_keeps
    | with_reducible apply State.coreViol_keeps
    | with_reducible apply storeLanes_keeps
    | with_reducible apply Keeps.foldl
    | with_reducible apply Keeps.foldlFst
    | with_reducible apply Keeps.ite
    | with_reducible apply Keeps.iteFst
    | split
    | with_reducible apply Keeps.lit)

theorem vtRowStart_keeps {s0 : State} {c : Nat} {e : QEntry} {op : VtOp} {f : VtF} {i : Nat} {p : State × NumFlags}
    (hk : Keeps s0 p.1) :
    Keeps s0 (vtRowStart c e op f i p).1 := by
  unfold vtRowStart
  try dsimp only
  repeat' (first
    | with_reducible assumption
    | (intro _ _ _ _; try dsimp only)
    | (intro _ _ _; try dsimp only)
    | (intro _ _; try dsimp only)
    | with_reducible apply State.coreViol_keeps
    | with_reducible apply State.putElem_keeps
    | with_reducible apply State.putRow_keeps
    | with_reducible apply State.writeRow_keeps
    | with_reducible apply Keeps.foldl
    | with_reducible apply Keeps.foldlFst
    | with_reducible apply Keeps.ite
    | with_reducible apply Keeps.iteFst
    | split
    | with_reducible apply Keeps.lit)

theorem vtStart_keeps {s0 : State} {c : Nat} {e : QEntry} {op : VtOp} {f : VtF} {s : State} (hk : Keeps s0 s) :
    Keeps s0 (vtStart c e op f s).1 := by
  unfold vtStart
  try dsimp only
  repeat' (first
    | with_reducible assumption
    | (intro _ _ _ _; try dsimp only)
    | (intro _ _ _; try dsimp only)
    | (intro _ _; try dsimp only)
    | with_reducible apply vtRowStart_keeps
    | with_reducible apply Keeps.foldl
    | with_reducible apply Keeps.foldlFst
    | with_reducible apply Keeps.lit)

theorem issueVx_answers {s0 : State} {op : VxOp} {c : Nat} {f : VxF} {s : State} (hk : Keeps s0 s) :
    Answers s0 (issueVx op c f s) := by
  unfold issueVx
  repeat' (first
    | with_reducible assumption
    | with_reducible apply issueQ_keeps
    | with_reducible apply ret_answers
    | with_reducible apply Keeps.lit)

theorem issueVt_answers {s0 : State} {op : VtOp} {c : Nat} {f : VtF} {s : State} (hk : Keeps s0 s) :
    Answers s0 (issueVt op c f s) := by
  unfold issueVt
  repeat' (first
    | with_reducible assumption
    | with_reducible apply issueQ_keeps
    | with_reducible apply ret_answers
    | with_reducible apply Keeps.lit)

theorem execVld_answers {s0 : State} {c : Nat} {f : VxF} {s : State} (hk : Keeps s0 s) :
    Answers s0 (execVld c f s) := by
  unfold execVld
  repeat' (first
    | with_reducible assumption
    | with_reducible apply issueVx_answers
    | with_reducible apply Keeps.lit)

theorem execVst_answers {s0 : State} {c : Nat} {f : VxF} {s : State} (hk : Keeps s0 s) :
    Answers s0 (execVst c f s) := by
  unfold execVst
  repeat' (first
    | with_reducible assumption
    | with_reducible apply issueVx_answers
    | with_reducible apply Keeps.lit)

theorem execVadd_answers {s0 : State} {c : Nat} {f : VxF} {s : State} (hk : Keeps s0 s) :
    Answers s0 (execVadd c f s) := by
  unfold execVadd
  repeat' (first
    | with_reducible assumption
    | with_reducible apply issueVx_answers
    | with_reducible apply Keeps.lit)

theorem execVsub_answers {s0 : State} {c : Nat} {f : VxF} {s : State} (hk : Keeps s0 s) :
    Answers s0 (execVsub c f s) := by
  unfold execVsub
  repeat' (first
    | with_reducible assumption
    | with_reducible apply issueVx_answers
    | with_reducible apply Keeps.lit)

theorem execVmul_answers {s0 : State} {c : Nat} {f : VxF} {s : State} (hk : Keeps s0 s) :
    Answers s0 (execVmul c f s) := by
  unfold execVmul
  repeat' (first
    | with_reducible assumption
    | with_reducible apply issueVx_answers
    | with_reducible apply Keeps.lit)

theorem execVfma_answers {s0 : State} {c : Nat} {f : VxF} {s : State} (hk : Keeps s0 s) :
    Answers s0 (execVfma c f s) := by
  unfold execVfma
  repeat' (first
    | with_reducible assumption
    | with_reducible apply issueVx_answers
    | with_reducible apply Keeps.lit)

theorem execVmin_answers {s0 : State} {c : Nat} {f : VxF} {s : State} (hk : Keeps s0 s) :
    Answers s0 (execVmin c f s) := by
  unfold execVmin
  repeat' (first
    | with_reducible assumption
    | with_reducible apply issueVx_answers
    | with_reducible apply Keeps.lit)

theorem execVmax_answers {s0 : State} {c : Nat} {f : VxF} {s : State} (hk : Keeps s0 s) :
    Answers s0 (execVmax c f s) := by
  unfold execVmax
  repeat' (first
    | with_reducible assumption
    | with_reducible apply issueVx_answers
    | with_reducible apply Keeps.lit)

theorem execVcmpeq_answers {s0 : State} {c : Nat} {f : VxF} {s : State} (hk : Keeps s0 s) :
    Answers s0 (execVcmpeq c f s) := by
  unfold execVcmpeq
  repeat' (first
    | with_reducible assumption
    | with_reducible apply issueVx_answers
    | with_reducible apply Keeps.lit)

theorem execVcmplt_answers {s0 : State} {c : Nat} {f : VxF} {s : State} (hk : Keeps s0 s) :
    Answers s0 (execVcmplt c f s) := by
  unfold execVcmplt
  repeat' (first
    | with_reducible assumption
    | with_reducible apply issueVx_answers
    | with_reducible apply Keeps.lit)

theorem execVcmple_answers {s0 : State} {c : Nat} {f : VxF} {s : State} (hk : Keeps s0 s) :
    Answers s0 (execVcmple c f s) := by
  unfold execVcmple
  repeat' (first
    | with_reducible assumption
    | with_reducible apply issueVx_answers
    | with_reducible apply Keeps.lit)

theorem execVsel_answers {s0 : State} {c : Nat} {f : VxF} {s : State} (hk : Keeps s0 s) :
    Answers s0 (execVsel c f s) := by
  unfold execVsel
  repeat' (first
    | with_reducible assumption
    | with_reducible apply issueVx_answers
    | with_reducible apply Keeps.lit)

theorem execViadd_answers {s0 : State} {c : Nat} {f : VxF} {s : State} (hk : Keeps s0 s) :
    Answers s0 (execViadd c f s) := by
  unfold execViadd
  repeat' (first
    | with_reducible assumption
    | with_reducible apply issueVx_answers
    | with_reducible apply Keeps.lit)

theorem execVisub_answers {s0 : State} {c : Nat} {f : VxF} {s : State} (hk : Keeps s0 s) :
    Answers s0 (execVisub c f s) := by
  unfold execVisub
  repeat' (first
    | with_reducible assumption
    | with_reducible apply issueVx_answers
    | with_reducible apply Keeps.lit)

theorem execVimul_answers {s0 : State} {c : Nat} {f : VxF} {s : State} (hk : Keeps s0 s) :
    Answers s0 (execVimul c f s) := by
  unfold execVimul
  repeat' (first
    | with_reducible assumption
    | with_reducible apply issueVx_answers
    | with_reducible apply Keeps.lit)

theorem execVand_answers {s0 : State} {c : Nat} {f : VxF} {s : State} (hk : Keeps s0 s) :
    Answers s0 (execVand c f s) := by
  unfold execVand
  repeat' (first
    | with_reducible assumption
    | with_reducible apply issueVx_answers
    | with_reducible apply Keeps.lit)

theorem execVor_answers {s0 : State} {c : Nat} {f : VxF} {s : State} (hk : Keeps s0 s) :
    Answers s0 (execVor c f s) := by
  unfold execVor
  repeat' (first
    | with_reducible assumption
    | with_reducible apply issueVx_answers
    | with_reducible apply Keeps.lit)

theorem execVxor_answers {s0 : State} {c : Nat} {f : VxF} {s : State} (hk : Keeps s0 s) :
    Answers s0 (execVxor c f s) := by
  unfold execVxor
  repeat' (first
    | with_reducible assumption
    | with_reducible apply issueVx_answers
    | with_reducible apply Keeps.lit)

theorem execVshl_answers {s0 : State} {c : Nat} {f : VxF} {s : State} (hk : Keeps s0 s) :
    Answers s0 (execVshl c f s) := by
  unfold execVshl
  repeat' (first
    | with_reducible assumption
    | with_reducible apply issueVx_answers
    | with_reducible apply Keeps.lit)

theorem execVshr_answers {s0 : State} {c : Nat} {f : VxF} {s : State} (hk : Keeps s0 s) :
    Answers s0 (execVshr c f s) := by
  unfold execVshr
  repeat' (first
    | with_reducible assumption
    | with_reducible apply issueVx_answers
    | with_reducible apply Keeps.lit)

theorem execVsra_answers {s0 : State} {c : Nat} {f : VxF} {s : State} (hk : Keeps s0 s) :
    Answers s0 (execVsra c f s) := by
  unfold execVsra
  repeat' (first
    | with_reducible assumption
    | with_reducible apply issueVx_answers
    | with_reducible apply Keeps.lit)

theorem execVmov_answers {s0 : State} {c : Nat} {f : VxF} {s : State} (hk : Keeps s0 s) :
    Answers s0 (execVmov c f s) := by
  unfold execVmov
  repeat' (first
    | with_reducible assumption
    | with_reducible apply issueVx_answers
    | with_reducible apply Keeps.lit)

theorem execVexp2_answers {s0 : State} {c : Nat} {f : VxF} {s : State} (hk : Keeps s0 s) :
    Answers s0 (execVexp2 c f s) := by
  unfold execVexp2
  repeat' (first
    | with_reducible assumption
    | with_reducible apply issueVx_answers
    | with_reducible apply Keeps.lit)

theorem execVlog2_answers {s0 : State} {c : Nat} {f : VxF} {s : State} (hk : Keeps s0 s) :
    Answers s0 (execVlog2 c f s) := by
  unfold execVlog2
  repeat' (first
    | with_reducible assumption
    | with_reducible apply issueVx_answers
    | with_reducible apply Keeps.lit)

theorem execVrcp_answers {s0 : State} {c : Nat} {f : VxF} {s : State} (hk : Keeps s0 s) :
    Answers s0 (execVrcp c f s) := by
  unfold execVrcp
  repeat' (first
    | with_reducible assumption
    | with_reducible apply issueVx_answers
    | with_reducible apply Keeps.lit)

theorem execVrsqrt_answers {s0 : State} {c : Nat} {f : VxF} {s : State} (hk : Keeps s0 s) :
    Answers s0 (execVrsqrt c f s) := by
  unfold execVrsqrt
  repeat' (first
    | with_reducible assumption
    | with_reducible apply issueVx_answers
    | with_reducible apply Keeps.lit)

theorem execVtanh_answers {s0 : State} {c : Nat} {f : VxF} {s : State} (hk : Keeps s0 s) :
    Answers s0 (execVtanh c f s) := by
  unfold execVtanh
  repeat' (first
    | with_reducible assumption
    | with_reducible apply issueVx_answers
    | with_reducible apply Keeps.lit)

theorem execVerf_answers {s0 : State} {c : Nat} {f : VxF} {s : State} (hk : Keeps s0 s) :
    Answers s0 (execVerf c f s) := by
  unfold execVerf
  repeat' (first
    | with_reducible assumption
    | with_reducible apply issueVx_answers
    | with_reducible apply Keeps.lit)

theorem execVsigm_answers {s0 : State} {c : Nat} {f : VxF} {s : State} (hk : Keeps s0 s) :
    Answers s0 (execVsigm c f s) := by
  unfold execVsigm
  repeat' (first
    | with_reducible assumption
    | with_reducible apply issueVx_answers
    | with_reducible apply Keeps.lit)

theorem execVsilu_answers {s0 : State} {c : Nat} {f : VxF} {s : State} (hk : Keeps s0 s) :
    Answers s0 (execVsilu c f s) := by
  unfold execVsilu
  repeat' (first
    | with_reducible assumption
    | with_reducible apply issueVx_answers
    | with_reducible apply Keeps.lit)

theorem execVgelue_answers {s0 : State} {c : Nat} {f : VxF} {s : State} (hk : Keeps s0 s) :
    Answers s0 (execVgelue c f s) := by
  unfold execVgelue
  repeat' (first
    | with_reducible assumption
    | with_reducible apply issueVx_answers
    | with_reducible apply Keeps.lit)

theorem execVgelut_answers {s0 : State} {c : Nat} {f : VxF} {s : State} (hk : Keeps s0 s) :
    Answers s0 (execVgelut c f s) := by
  unfold execVgelut
  repeat' (first
    | with_reducible assumption
    | with_reducible apply issueVx_answers
    | with_reducible apply Keeps.lit)

theorem execVftoi_answers {s0 : State} {c : Nat} {f : VxF} {s : State} (hk : Keeps s0 s) :
    Answers s0 (execVftoi c f s) := by
  unfold execVftoi
  repeat' (first
    | with_reducible assumption
    | with_reducible apply issueVx_answers
    | with_reducible apply Keeps.lit)

theorem execVitof_answers {s0 : State} {c : Nat} {f : VxF} {s : State} (hk : Keeps s0 s) :
    Answers s0 (execVitof c f s) := by
  unfold execVitof
  repeat' (first
    | with_reducible assumption
    | with_reducible apply issueVx_answers
    | with_reducible apply Keeps.lit)

theorem execVqnt_answers {s0 : State} {c : Nat} {f : VxF} {s : State} (hk : Keeps s0 s) :
    Answers s0 (execVqnt c f s) := by
  unfold execVqnt
  repeat' (first
    | with_reducible assumption
    | with_reducible apply issueVx_answers
    | with_reducible apply Keeps.lit)

theorem execVrsum_answers {s0 : State} {c : Nat} {f : VtF} {s : State} (hk : Keeps s0 s) :
    Answers s0 (execVrsum c f s) := by
  unfold execVrsum
  repeat' (first
    | with_reducible assumption
    | with_reducible apply issueVt_answers
    | with_reducible apply Keeps.lit)

theorem execVrssq_answers {s0 : State} {c : Nat} {f : VtF} {s : State} (hk : Keeps s0 s) :
    Answers s0 (execVrssq c f s) := by
  unfold execVrssq
  repeat' (first
    | with_reducible assumption
    | with_reducible apply issueVt_answers
    | with_reducible apply Keeps.lit)

theorem execVrmax_answers {s0 : State} {c : Nat} {f : VtF} {s : State} (hk : Keeps s0 s) :
    Answers s0 (execVrmax c f s) := by
  unfold execVrmax
  repeat' (first
    | with_reducible assumption
    | with_reducible apply issueVt_answers
    | with_reducible apply Keeps.lit)

theorem execVrmin_answers {s0 : State} {c : Nat} {f : VtF} {s : State} (hk : Keeps s0 s) :
    Answers s0 (execVrmin c f s) := by
  unfold execVrmin
  repeat' (first
    | with_reducible assumption
    | with_reducible apply issueVt_answers
    | with_reducible apply Keeps.lit)

theorem execVrargmax_answers {s0 : State} {c : Nat} {f : VtF} {s : State} (hk : Keeps s0 s) :
    Answers s0 (execVrargmax c f s) := by
  unfold execVrargmax
  repeat' (first
    | with_reducible assumption
    | with_reducible apply issueVt_answers
    | with_reducible apply Keeps.lit)

theorem execVrargmin_answers {s0 : State} {c : Nat} {f : VtF} {s : State} (hk : Keeps s0 s) :
    Answers s0 (execVrargmin c f s) := by
  unfold execVrargmin
  repeat' (first
    | with_reducible assumption
    | with_reducible apply issueVt_answers
    | with_reducible apply Keeps.lit)

theorem execVsort_answers {s0 : State} {c : Nat} {f : VtF} {s : State} (hk : Keeps s0 s) :
    Answers s0 (execVsort c f s) := by
  unfold execVsort
  repeat' (first
    | with_reducible assumption
    | with_reducible apply issueVt_answers
    | with_reducible apply Keeps.lit)

theorem execVtopk_answers {s0 : State} {c : Nat} {f : VtF} {s : State} (hk : Keeps s0 s) :
    Answers s0 (execVtopk c f s) := by
  unfold execVtopk
  repeat' (first
    | with_reducible assumption
    | with_reducible apply issueVt_answers
    | with_reducible apply Keeps.lit)

end Sys2Proof.Machine
end

