-- ==== Sys2Proof/Laws/Keeps/Matrix.lean ====
section
/-! SUPPORT. What no operation or command of Machine/Matrix.lean takes away. -/

namespace Sys2Proof.Machine

set_option linter.unusedTactic false
set_option linter.unreachableTactic false

theorem State.putLedger_keeps {s0 : State} {s : State} {c row : Nat} {l : Ledger} (hk : Keeps s0 s) :
    Keeps s0 (State.putLedger s c row l) := by
  unfold State.putLedger
  try dsimp only
  repeat' (first
    | with_reducible assumption
    | with_reducible apply State.poke_keeps
    | with_reducible apply State.coreViol_keeps
    | with_reducible apply State.poke_keeps
    | with_reducible apply Keeps.ite
    | with_reducible apply Keeps.iteFst
    | split
    | with_reducible apply Keeps.lit)

theorem State.stage_keeps {s0 : State} {s : State} {c : Nat} {e : QEntry} {form : MxForm} {f : MxF} (hk : Keeps s0 s) :
    Keeps s0 (State.stage s c e form f) := by
  unfold State.stage
  try dsimp only
  repeat' (first
    | with_reducible assumption
    | (intro _ _ _ _; try dsimp only)
    | (intro _ _ _; try dsimp only)
    | (intro _ _; try dsimp only)
    | with_reducible apply State.modCore_keeps
    | with_reducible apply State.coreViol_keeps
    | with_reducible apply Keeps.foldl
    | with_reducible apply Keeps.foldlFst
    | with_reducible apply Keeps.lit)

theorem State.accumulate_keeps {s0 : State} {s : State} {c : Nat} {e : QEntry} {form : MxForm} {f : MxF} {bufs : Tab
    (List Nat)} {m : Nat} (hk : Keeps s0 s) :
    Keeps s0 (State.accumulate s c e form f bufs m).1 := by
  unfold State.accumulate
  try dsimp only
  repeat' (first
    | with_reducible assumption
    | (intro _ _ _ _; try dsimp only)
    | (intro _ _ _; try dsimp only)
    | (intro _ _; try dsimp only)
    | with_reducible apply State.modCore_keeps
    | with_reducible apply State.coreViol_keeps
    | with_reducible apply Keeps.foldl
    | with_reducible apply Keeps.foldlFst
    | with_reducible apply Keeps.ite
    | with_reducible apply Keeps.iteFst
    | split
    | with_reducible apply Keeps.lit)

theorem State.streamRow_keeps {s0 : State} {s : State} {c seq : Nat} (hk : Keeps s0 s) :
    Keeps s0 (State.streamRow s c seq) := by
  unfold State.streamRow
  try dsimp only
  repeat' (first
    | with_reducible assumption
    | with_reducible apply State.modCore_keeps
    | with_reducible apply State.accumulate_keeps
    | with_reducible apply State.modRun_keeps
    | with_reducible apply Keeps.ite
    | with_reducible apply Keeps.iteFst
    | split
    | with_reducible apply Keeps.lit
    | refine Keeps.ofPair (by with_reducible assumption) ?_)

theorem State.stream_keeps {s0 : State} {s : State} {c seq : Nat} (hk : Keeps s0 s) :
    Keeps s0 (State.stream s c seq) := by
  unfold State.stream
  try dsimp only
  repeat' (first
    | with_reducible assumption
    | (intro _ _ _ _; try dsimp only)
    | (intro _ _ _; try dsimp only)
    | (intro _ _; try dsimp only)
    | with_reducible apply State.streamRow_keeps
    | with_reducible apply Keeps.iter
    | with_reducible apply Keeps.iterFst
    | with_reducible apply Keeps.lit)

theorem issueMx_answers {s0 : State} {wire : Nat → Option Nat} {form : MxForm} {c : Nat} {f : MxF} {s : State}
    (hk : Keeps s0 s) :
    Answers s0 (issueMx wire form c f s) := by
  unfold issueMx
  try dsimp only
  repeat' (first
    | with_reducible assumption
    | with_reducible apply issueQ_keeps
    | with_reducible apply ret_answers
    | with_reducible apply Keeps.lit)

theorem State.mxParity_keeps {s0 : State} {s : State} {c : Nat} {e : QEntry} {p : Parity} {r : State}
    (hk : Keeps s0 s) :
    Keeps s0 (State.mxParity s c e p r) := by
  unfold State.mxParity
  try dsimp only
  repeat' (first
    | with_reducible assumption
    | with_reducible apply State.modCore_keeps
    | with_reducible apply State.parityFault_keeps
    | with_reducible apply State.keepViol_keeps
    | with_reducible apply Keeps.lit)

theorem execMxTakeCounts_answers {s0 : State} {c : Nat} {s : State} (hk : Keeps s0 s) :
    Answers s0 (execMxTakeCounts c s) := by
  unfold execMxTakeCounts
  try dsimp only
  repeat' (first
    | with_reducible assumption
    | with_reducible apply State.modCore_keeps
    | with_reducible apply ret_answers
    | with_reducible apply Keeps.ite
    | with_reducible apply Keeps.iteFst
    | split
    | with_reducible apply Keeps.lit)

theorem execWeightStagingStart_answers {s0 : State} {c : Nat} {s : State} (hk : Keeps s0 s) :
    Answers s0 (execWeightStagingStart c s) := by
  unfold execWeightStagingStart
  try dsimp only
  repeat' (first
    | with_reducible assumption
    | with_reducible apply State.modCore_keeps
    | with_reducible apply ret_answers
    | with_reducible apply Keeps.ite
    | with_reducible apply Keeps.iteFst
    | split
    | with_reducible apply Keeps.lit
    | refine Keeps.ofPair (by with_reducible assumption) ?_)

theorem execWeightStagingDone_answers {s0 : State} {c : Nat} {par : Option Parity} {s : State} (hk : Keeps s0 s) :
    Answers s0 (execWeightStagingDone c par s) := by
  unfold execWeightStagingDone
  try dsimp only
  repeat' (first
    | with_reducible assumption
    | with_reducible apply State.parityFault_keeps
    | with_reducible apply State.keepViol_keeps
    | with_reducible apply State.stage_keeps
    | with_reducible apply ret_answers
    | with_reducible apply Keeps.ite
    | with_reducible apply Keeps.iteFst
    | split
    | with_reducible apply Keeps.lit
    | refine Keeps.ofPair (by with_reducible assumption) ?_)

theorem execAccRowReady_answers {s0 : State} {c seq : Nat} {par : Option Parity} {s : State} (hk : Keeps s0 s) :
    Answers s0 (execAccRowReady c seq par s) := by
  unfold execAccRowReady
  try dsimp only
  repeat' (first
    | with_reducible assumption
    | with_reducible apply State.stream_keeps
    | with_reducible apply State.mxParity_keeps
    | with_reducible apply ret_answers
    | split
    | with_reducible apply Keeps.lit)

theorem execMxComplete_answers {s0 : State} {c seq : Nat} {s : State} (hk : Keeps s0 s) :
    Answers s0 (execMxComplete c seq s) := by
  unfold execMxComplete
  try dsimp only
  repeat' (first
    | with_reducible assumption
    | with_reducible apply State.modCore_keeps
    | with_reducible apply State.signals_keeps
    | with_reducible apply State.recordStatus_keeps
    | with_reducible apply ret_answers
    | with_reducible apply Keeps.ite
    | with_reducible apply Keeps.iteFst
    | split
    | with_reducible apply Keeps.lit
    | refine Keeps.ofPair (by with_reducible assumption) ?_)

end Sys2Proof.Machine
end

