-- ==== Sys2Proof/Laws/Keeps/Epilogue.lean ====
section
/-! SUPPORT. What no operation or command of Machine/Epilogue.lean takes away. -/

namespace Sys2Proof.Machine

set_option linter.unusedTactic false
set_option linter.unreachableTactic false

theorem State.storeRow_keeps {s0 : State} {s : State} {x : RowCtx} {raws scales : List Nat} (hk : Keeps s0 s) :
    Keeps s0 (State.storeRow s x raws scales) := by
  unfold State.storeRow
  try dsimp only
  repeat' (first
    | with_reducible assumption
    | (intro _ _ _ _; try dsimp only)
    | (intro _ _ _; try dsimp only)
    | (intro _ _; try dsimp only)
    | with_reducible apply State.putElem_keeps
    | with_reducible apply State.putRow_keeps
    | with_reducible apply Keeps.foldl
    | with_reducible apply Keeps.foldlFst
    | with_reducible apply Keeps.ite
    | with_reducible apply Keeps.iteFst
    | split
    | with_reducible apply Keeps.lit)

theorem execEpilogueRow_answers {s0 : State} {c seq : Nat} {par : Option Parity} {s : State} (hk : Keeps s0 s) :
    Answers s0 (execEpilogueRow c seq par s) := by
  unfold execEpilogueRow
  try dsimp only
  repeat' (first
    | with_reducible assumption
    | with_reducible apply State.modCore_keeps
    | with_reducible apply State.coreViol_keeps
    | with_reducible apply State.putLedger_keeps
    | with_reducible apply State.stage_keeps
    | with_reducible apply State.mxParity_keeps
    | with_reducible apply State.storeRow_keeps
    | with_reducible apply State.modRun_keeps
    | with_reducible apply ret_answers
    | with_reducible apply Keeps.ite
    | with_reducible apply Keeps.iteFst
    | split
    | with_reducible apply Keeps.lit
    | refine Keeps.ofPair (by with_reducible assumption) ?_)

end Sys2Proof.Machine
end

