-- ==== Sys2Proof/Laws/Keeps/Hbm.lean ====
section
/-! SUPPORT. What no operation or command of Machine/Hbm.lean takes away. -/

namespace Sys2Proof.Machine

set_option linter.unusedTactic false
set_option linter.unreachableTactic false

theorem State.setChk_keeps {s0 : State} {s : State} {key : Nat} {v : W64} (hk : Keeps s0 s) :
    Keeps s0 (State.setChk s key v) := by
  unfold State.setChk
  repeat' (first
    | with_reducible assumption
    | with_reducible apply Keeps.lit)

theorem State.errLog_keeps {s0 : State} {s : State} {st kind a : Nat} (hk : Keeps s0 s) :
    Keeps s0 (State.errLog s st kind a) := by
  unfold State.errLog
  repeat' (first
    | with_reducible assumption
    | with_reducible apply State.setReg_keeps
    | with_reducible apply Keeps.ite
    | with_reducible apply Keeps.iteFst
    | split
    | with_reducible apply Keeps.lit)

theorem State.contentLoss_keeps {s0 : State} {s : State} {st : Nat} (hk : Keeps s0 s) :
    Keeps s0 (State.contentLoss s st) := by
  unfold State.contentLoss
  repeat' (first
    | with_reducible assumption
    | with_reducible apply State.pulse_keeps
    | with_reducible apply State.journalPut_keeps
    | with_reducible apply Keeps.lit)

theorem State.reportLost_keeps {s0 : State} {s : State} {st kind a : Nat} (hk : Keeps s0 s) :
    Keeps s0 (State.reportLost s st kind a) := by
  unfold State.reportLost
  repeat' (first
    | with_reducible assumption
    | with_reducible apply State.bump_keeps
    | with_reducible apply State.errLog_keeps
    | with_reducible apply State.contentLoss_keeps
    | with_reducible apply Keeps.lit)

theorem State.reportPoison_keeps {s0 : State} {s : State} {a : Nat} (hk : Keeps s0 s) :
    Keeps s0 (State.reportPoison s a) := by
  unfold State.reportPoison
  try dsimp only
  repeat' (first
    | with_reducible assumption
    | with_reducible apply State.reportLost_keeps
    | split
    | with_reducible apply Keeps.lit)

theorem State.transient_keeps {s0 : State} {s : State} {st a : Nat} (hk : Keeps s0 s) :
    Keeps s0 (State.transient s st a) := by
  unfold State.transient
  repeat' (first
    | with_reducible assumption
    | with_reducible apply State.bump_keeps
    | with_reducible apply State.errLog_keeps
    | with_reducible apply Keeps.lit)

theorem State.dropRecheck_keeps {s0 : State} {s : State} {who key : Nat} (hk : Keeps s0 s) :
    Keeps s0 (State.dropRecheck s who key) := by
  unfold State.dropRecheck
  try dsimp only
  repeat' (first
    | with_reducible assumption
    | with_reducible apply Keeps.lit)

theorem State.dropRechecks_keeps {s0 : State} {s : State} {who : Nat} (hk : Keeps s0 s) :
    Keeps s0 (State.dropRechecks s who) := by
  unfold State.dropRechecks
  try dsimp only
  repeat' (first
    | with_reducible assumption
    | with_reducible apply Keeps.lit)

theorem State.verifyBlock_keeps {s0 : State} {s : State} {who a : Nat} (hk : Keeps s0 s) :
    Keeps s0 (State.verifyBlock s who a).1 := by
  unfold State.verifyBlock
  try dsimp only
  repeat' (first
    | with_reducible assumption
    | with_reducible apply State.bump_keeps
    | with_reducible apply State.reportLost_keeps
    | with_reducible apply State.transient_keeps
    | with_reducible apply State.dropRecheck_keeps
    | with_reducible apply Keeps.ite
    | with_reducible apply Keeps.iteFst
    | split
    | with_reducible apply Keeps.lit)

theorem State.verifyNow_keeps {s0 : State} {s : State} {who a : Nat} (hk : Keeps s0 s) :
    Keeps s0 (State.verifyNow s who a).1 := by
  unfold State.verifyNow
  try dsimp only
  repeat' (first
    | with_reducible assumption
    | with_reducible apply State.verifyBlock_keeps
    | split
    | with_reducible apply Keeps.lit)

theorem State.vspTouch_keeps {s0 : State} {s : State} {key : Nat} (hk : Keeps s0 s) :
    Keeps s0 (State.vspTouch s key) := by
  unfold State.vspTouch
  try dsimp only
  repeat' (first
    | with_reducible assumption
    | with_reducible apply State.verifyNow_keeps
    | with_reducible apply Keeps.ite
    | with_reducible apply Keeps.iteFst
    | split
    | with_reducible apply Keeps.lit)

theorem State.hbmPart_keeps {s0 : State} {s : State} {a : Nat} {d : Bytes} {gen : Bool} (hk : Keeps s0 s) :
    Keeps s0 (State.hbmPart s a d gen) := by
  unfold State.hbmPart
  try dsimp only
  repeat' (first
    | with_reducible assumption
    | with_reducible apply State.poke_keeps
    | with_reducible apply State.setChk_keeps
    | with_reducible apply State.vspTouch_keeps
    | with_reducible apply State.poke_keeps
    | with_reducible apply Keeps.ite
    | with_reducible apply Keeps.iteFst
    | split
    | with_reducible apply Keeps.lit)

theorem State.store_keeps {s0 : State} {s : State} {a : Nat} {d : Bytes} {gen : Bool} (hk : Keeps s0 s) :
    Keeps s0 (State.store s a d gen) := by
  unfold State.store
  try dsimp only
  repeat' (first
    | with_reducible assumption
    | (intro _ _ _ _; try dsimp only)
    | (intro _ _ _; try dsimp only)
    | (intro _ _; try dsimp only)
    | with_reducible apply State.poke_keeps
    | with_reducible apply State.hbmPart_keeps
    | with_reducible apply State.poke_keeps
    | with_reducible apply Keeps.foldl
    | with_reducible apply Keeps.foldlFst
    | split
    | with_reducible apply Keeps.lit)

theorem State.repairStat_keeps {s0 : State} {s : State} {st : Nat} (hk : Keeps s0 s) :
    Keeps s0 (State.repairStat s st) := by
  unfold State.repairStat
  try dsimp only
  repeat' (first
    | with_reducible assumption
    | with_reducible apply State.setRf_keeps
    | with_reducible apply State.setLevel_keeps
    | with_reducible apply State.taken_keeps
    | with_reducible apply Keeps.lit)

theorem State.loseBlock_keeps {s0 : State} {s : State} {st block kind : Nat} (hk : Keeps s0 s) :
    Keeps s0 (State.loseBlock s st block kind) := by
  unfold State.loseBlock
  try dsimp only
  repeat' (first
    | with_reducible assumption
    | with_reducible apply State.modStack_keeps
    | with_reducible apply State.setChk_keeps
    | with_reducible apply State.errLog_keeps
    | with_reducible apply State.contentLoss_keeps
    | with_reducible apply State.repairStat_keeps
    | split
    | with_reducible apply Keeps.lit)

theorem State.blockFails_keeps {s0 : State} {s : State} {st block : Nat} {ue : Bool} (hk : Keeps s0 s) :
    Keeps s0 (State.blockFails s st block ue) := by
  unfold State.blockFails
  try dsimp only
  repeat' (first
    | with_reducible assumption
    | with_reducible apply State.modStack_keeps
    | with_reducible apply State.repairStat_keeps
    | with_reducible apply State.loseBlock_keeps
    | with_reducible apply State.again_keeps
    | with_reducible apply State.taken_keeps
    | with_reducible apply Keeps.ite
    | with_reducible apply Keeps.iteFst
    | split
    | with_reducible apply Keeps.lit
    | refine Keeps.ofPair (by with_reducible assumption) ?_)

theorem State.trackCe_keeps {s0 : State} {s : State} {st block timeS : Nat} (hk : Keeps s0 s) :
    Keeps s0 (State.trackCe s st block timeS) := by
  unfold State.trackCe
  try dsimp only
  repeat' (first
    | with_reducible assumption
    | (intro _ _ _ _; try dsimp only)
    | (intro _ _ _; try dsimp only)
    | (intro _ _; try dsimp only)
    | with_reducible apply State.modStack_keeps
    | with_reducible apply State.blockFails_keeps
    | with_reducible apply Keeps.foldl
    | with_reducible apply Keeps.foldlFst
    | with_reducible apply Keeps.ite
    | with_reducible apply Keeps.iteFst
    | split
    | with_reducible apply Keeps.lit)

theorem State.eccOutcome_keeps {s0 : State} {s : State} {st off timeS : Nat} {o : Ecc} (hk : Keeps s0 s) :
    Keeps s0 (State.eccOutcome s st off timeS o) := by
  unfold State.eccOutcome
  try dsimp only
  repeat' (first
    | with_reducible assumption
    | with_reducible apply State.bump_keeps
    | with_reducible apply State.setChk_keeps
    | with_reducible apply State.errLog_keeps
    | with_reducible apply State.contentLoss_keeps
    | with_reducible apply State.vspTouch_keeps
    | with_reducible apply State.blockFails_keeps
    | with_reducible apply State.trackCe_keeps
    | with_reducible apply Keeps.ite
    | with_reducible apply Keeps.iteFst
    | split
    | with_reducible apply Keeps.lit)

theorem State.eccOutcomes_keeps {s0 : State} {s : State} {st off timeS : Nat} {z0 : List Ecc} (hk : Keeps s0 s) :
    Keeps s0 (State.eccOutcomes s st off timeS z0) := by
  induction z0 generalizing s st off timeS with
  | nil => unfold State.eccOutcomes; first | exact hk | (split <;> exact hk) | exact Keeps.lit hk
  | cons a l ih =>
    unfold State.eccOutcomes
    try dsimp only
    repeat' (first
      | with_reducible assumption
      | with_reducible apply ih
      | with_reducible apply State.eccOutcome_keeps)

theorem State.setStackState_keeps {s0 : State} {s : State} {st v : Nat} (hk : Keeps s0 s) :
    Keeps s0 (State.setStackState s st v) := by
  unfold State.setStackState
  repeat' (first
    | with_reducible assumption
    | with_reducible apply State.setRf_keeps
    | with_reducible apply State.setRbit_keeps
    | with_reducible apply State.setLevel_keeps
    | with_reducible apply Keeps.lit)

theorem State.failStack_keeps {s0 : State} {s : State} {st : Nat} (hk : Keeps s0 s) :
    Keeps s0 (State.failStack s st) := by
  unfold State.failStack
  try dsimp only
  repeat' (first
    | with_reducible assumption
    | with_reducible apply State.fresh_keeps
    | with_reducible apply State.journalPut_keeps
    | with_reducible apply State.mapChange_keeps
    | with_reducible apply State.modStack_keeps
    | with_reducible apply State.setStackState_keeps
    | with_reducible apply Keeps.lit)

theorem State.zeroStack_keeps {s0 : State} {s : State} {st : Nat} (hk : Keeps s0 s) :
    Keeps s0 (State.zeroStack s st) := by
  unfold State.zeroStack
  repeat' (first
    | with_reducible assumption
    | with_reducible apply Keeps.lit
    | with_reducible apply Keeps.litMem
    | with_reducible apply Keeps.litRegs
    | with_reducible apply Keeps.litBoth
    | exact Tab.wf_clear _ _ _ _
    | exact fun hw => Tab.wf_clear _ _ _ _ (Tab.wf_clear _ _ _ _ (Tab.wf_clear _ _ _ _ hw))
    | exact fun _ => Tab.wf_nil _
    | exact Tab.wf_filter _ _ _)

theorem State.sourceViol_keeps {s0 : State} {s : State} {who a : Nat} (hk : Keeps s0 s) :
    Keeps s0 (State.sourceViol s who a) := by
  unfold State.sourceViol
  repeat' (first
    | with_reducible assumption
    | with_reducible apply State.bump_keeps
    | with_reducible apply State.coreViol_keeps
    | with_reducible apply Keeps.ite
    | with_reducible apply Keeps.iteFst
    | split
    | with_reducible apply Keeps.lit)

theorem State.silentReq_keeps {s0 : State} {s : State} {st : Nat} {r : HbmReq} (hk : Keeps s0 s) :
    Keeps s0 (State.silentReq s st r) := by
  unfold State.silentReq
  try dsimp only
  repeat' (first
    | with_reducible assumption
    | with_reducible apply State.send_keeps
    | with_reducible apply State.sourceViol_keeps
    | with_reducible apply Keeps.ite
    | with_reducible apply Keeps.iteFst
    | split
    | with_reducible apply Keeps.lit)

theorem State.enterReq_keeps {s0 : State} {s : State} {st : Nat} {r : HbmReq} (hk : Keeps s0 s) :
    Keeps s0 (State.enterReq s st r) := by
  unfold State.enterReq
  try dsimp only
  repeat' (first
    | with_reducible assumption
    | with_reducible apply State.modStack_keeps
    | with_reducible apply State.store_keeps
    | with_reducible apply Keeps.ite
    | with_reducible apply Keeps.iteFst
    | split
    | with_reducible apply Keeps.lit)

theorem State.cmdParity_keeps {s0 : State} {s : State} {st fails : Nat} (hk : Keeps s0 s) :
    Keeps s0 (State.cmdParity s st fails) := by
  unfold State.cmdParity
  repeat' (first
    | with_reducible assumption
    | with_reducible apply State.bump_keeps
    | with_reducible apply State.failStack_keeps
    | with_reducible apply Keeps.ite
    | with_reducible apply Keeps.iteFst
    | split
    | with_reducible apply Keeps.lit)

theorem execHbmReqAccept_answers {s0 : State} {st : Nat} {r : HbmReq} {parityFails : Nat} {s : State}
    (hk : Keeps s0 s) :
    Answers s0 (execHbmReqAccept st r parityFails s) := by
  unfold execHbmReqAccept
  try dsimp only
  repeat' (first
    | with_reducible assumption
    | with_reducible apply State.silentReq_keeps
    | with_reducible apply State.enterReq_keeps
    | with_reducible apply State.cmdParity_keeps
    | with_reducible apply ret_answers
    | with_reducible apply Keeps.ite
    | with_reducible apply Keeps.iteFst
    | split
    | with_reducible apply Keeps.lit)

theorem execHbmWriteBatchStart_answers {s0 : State} {st pc ageNs : Nat} {s : State} (hk : Keeps s0 s) :
    Answers s0 (execHbmWriteBatchStart st pc ageNs s) := by
  unfold execHbmWriteBatchStart
  try dsimp only
  repeat' (first
    | with_reducible assumption
    | with_reducible apply State.modStack_keeps
    | with_reducible apply ret_answers
    | with_reducible apply Keeps.ite
    | with_reducible apply Keeps.iteFst
    | split
    | with_reducible apply Keeps.lit)

theorem State.schedApply_keeps {s0 : State} {s : State} {st : Nat} (hk : Keeps s0 s) :
    Keeps s0 (State.schedApply s st) := by
  unfold State.schedApply
  try dsimp only
  repeat' (first
    | with_reducible assumption
    | with_reducible apply State.setRbit_keeps
    | with_reducible apply State.modStack_keeps
    | with_reducible apply Keeps.ite
    | with_reducible apply Keeps.iteFst
    | split
    | with_reducible apply Keeps.lit)

theorem execHbmWriteBatchEnd_answers {s0 : State} {st pc readAgeNs : Nat} {s : State} (hk : Keeps s0 s) :
    Answers s0 (execHbmWriteBatchEnd st pc readAgeNs s) := by
  unfold execHbmWriteBatchEnd
  try dsimp only
  repeat' (first
    | with_reducible assumption
    | with_reducible apply State.fresh_keeps
    | with_reducible apply State.modStack_keeps
    | with_reducible apply State.schedApply_keeps
    | with_reducible apply ret_answers
    | with_reducible apply Keeps.ite
    | with_reducible apply Keeps.iteFst
    | split
    | with_reducible apply Keeps.lit)

theorem execHbmReadComplete_answers {s0 : State} {x : ReadOut} {ecc : List Ecc} {timeS : Nat} {s : State}
    (hk : Keeps s0 s) :
    Answers s0 (execHbmReadComplete x ecc timeS s) := by
  unfold execHbmReadComplete
  try dsimp only
  repeat' (first
    | with_reducible assumption
    | with_reducible apply State.send_keeps
    | with_reducible apply State.modStack_keeps
    | with_reducible apply State.eccOutcomes_keeps
    | with_reducible apply State.cmdParity_keeps
    | with_reducible apply ret_answers
    | with_reducible apply Keeps.ite
    | with_reducible apply Keeps.iteFst
    | split
    | with_reducible apply Keeps.lit
    | refine Keeps.ofPair (by with_reducible assumption) ?_)

theorem State.serveHeld_keeps {s0 : State} {s : State} {st : Nat} {z0 : List HbmReq} (hk : Keeps s0 s) :
    Keeps s0 (State.serveHeld s st z0) := by
  induction z0 generalizing s st with
  | nil => unfold State.serveHeld; first | exact hk | (split <;> exact hk) | exact Keeps.lit hk
  | cons a l ih =>
    unfold State.serveHeld
    try dsimp only
    repeat' (first
      | with_reducible assumption
      | with_reducible apply ih
      | with_reducible apply State.modStack_keeps
      | with_reducible apply State.store_keeps
      | with_reducible apply Keeps.ite
      | with_reducible apply Keeps.iteFst
      | split
      | with_reducible apply Keeps.lit)

theorem State.remapDone_keeps {s0 : State} {s : State} {st block : Nat} (hk : Keeps s0 s) :
    Keeps s0 (State.remapDone s st block) := by
  unfold State.remapDone
  try dsimp only
  repeat' (first
    | with_reducible assumption
    | (intro _ _ _ _; try dsimp only)
    | (intro _ _ _; try dsimp only)
    | (intro _ _; try dsimp only)
    | with_reducible apply State.pulse_keeps
    | with_reducible apply State.journalPut_keeps
    | with_reducible apply State.modStack_keeps
    | with_reducible apply State.errLog_keeps
    | with_reducible apply State.repairStat_keeps
    | with_reducible apply State.blockFails_keeps
    | with_reducible apply State.serveHeld_keeps
    | with_reducible apply State.again_keeps
    | with_reducible apply Keeps.foldl
    | with_reducible apply Keeps.foldlFst
    | with_reducible apply Keeps.ite
    | with_reducible apply Keeps.iteFst
    | split
    | with_reducible apply Keeps.lit)

theorem execHbmRemapComplete_answers {s0 : State} {st block : Nat} {s : State} (hk : Keeps s0 s) :
    Answers s0 (execHbmRemapComplete st block s) := by
  unfold execHbmRemapComplete
  repeat' (first
    | with_reducible assumption
    | with_reducible apply State.remapDone_keeps
    | with_reducible apply ret_answers
    | with_reducible apply Keeps.lit)

theorem execHbmPcTimeout_answers {s0 : State} {st pc : Nat} {answered : Bool} {s : State} (hk : Keeps s0 s) :
    Answers s0 (execHbmPcTimeout st pc answered s) := by
  unfold execHbmPcTimeout
  try dsimp only
  repeat' (first
    | with_reducible assumption
    | with_reducible apply State.modStack_keeps
    | with_reducible apply State.failStack_keeps
    | with_reducible apply ret_answers
    | with_reducible apply Keeps.ite
    | with_reducible apply Keeps.iteFst
    | split
    | with_reducible apply Keeps.lit)

theorem State.refreshRound_keeps {s0 : State} {s : State} {st temp : Nat} (hk : Keeps s0 s) :
    Keeps s0 (State.refreshRound s st temp) := by
  unfold State.refreshRound
  try dsimp only
  repeat' (first
    | with_reducible assumption
    | with_reducible apply State.setRf_keeps
    | with_reducible apply State.modStack_keeps
    | with_reducible apply Keeps.ite
    | with_reducible apply Keeps.iteFst
    | split
    | with_reducible apply Keeps.lit)

theorem execHbmScrubRead_answers {s0 : State} {st block : Nat} {ecc : List Ecc} {timeS : Nat} {s : State}
    (hk : Keeps s0 s) :
    Answers s0 (execHbmScrubRead st block ecc timeS s) := by
  unfold execHbmScrubRead
  repeat' (first
    | with_reducible assumption
    | with_reducible apply State.eccOutcomes_keeps
    | with_reducible apply ret_answers
    | with_reducible apply Keeps.ite
    | with_reducible apply Keeps.iteFst
    | split
    | with_reducible apply Keeps.lit)

theorem execHbmSchedApply_answers {s0 : State} {st : Nat} {s : State} (hk : Keeps s0 s) :
    Answers s0 (execHbmSchedApply st s) := by
  unfold execHbmSchedApply
  repeat' (first
    | with_reducible assumption
    | with_reducible apply State.schedApply_keeps
    | with_reducible apply ret_answers
    | with_reducible apply Keeps.ite
    | with_reducible apply Keeps.iteFst
    | split
    | with_reducible apply Keeps.lit)

theorem execHbmWaveStart_answers {s0 : State} {st : Nat} {s : State} (hk : Keeps s0 s) :
    Answers s0 (execHbmWaveStart st s) := by
  unfold execHbmWaveStart
  try dsimp only
  repeat' (first
    | with_reducible assumption
    | with_reducible apply State.setRf_keeps
    | with_reducible apply ret_answers
    | with_reducible apply Keeps.ite
    | with_reducible apply Keeps.iteFst
    | split
    | with_reducible apply Keeps.lit)

theorem State.recovered_keeps {s0 : State} {s : State} {st : Nat} (hk : Keeps s0 s) :
    Keeps s0 (State.recovered s st) := by
  unfold State.recovered
  repeat' (first
    | with_reducible assumption
    | with_reducible apply State.setReg_keeps
    | with_reducible apply State.setRf_keeps
    | with_reducible apply Keeps.ite
    | with_reducible apply Keeps.iteFst
    | split
    | with_reducible apply Keeps.lit)

theorem State.recoverNext_keeps {s0 : State} {s : State} {st : Nat} (hk : Keeps s0 s) :
    Keeps s0 (State.recoverNext s st) := by
  unfold State.recoverNext
  repeat' (first
    | with_reducible assumption
    | with_reducible apply State.setStackState_keeps
    | with_reducible apply Keeps.ite
    | with_reducible apply Keeps.iteFst
    | split
    | with_reducible apply Keeps.lit)

theorem State.useHard_keeps {s0 : State} {s : State} {st n : Nat} (hk : Keeps s0 s) :
    Keeps s0 (State.useHard s st n) := by
  unfold State.useHard
  try dsimp only
  repeat' (first
    | with_reducible assumption
    | with_reducible apply State.setRf_keeps
    | with_reducible apply Keeps.lit)

theorem State.testRepair_keeps {s0 : State} {s : State} {st hard soft : Nat} {remapped : List Nat} (hk : Keeps s0 s) :
    Keeps s0 (State.testRepair s st hard soft remapped) := by
  unfold State.testRepair
  try dsimp only
  repeat' (first
    | with_reducible assumption
    | (intro _ _ _ _; try dsimp only)
    | (intro _ _ _; try dsimp only)
    | (intro _ _; try dsimp only)
    | with_reducible apply State.setRf_keeps
    | with_reducible apply State.modStack_keeps
    | with_reducible apply State.repairStat_keeps
    | with_reducible apply State.zeroStack_keeps
    | with_reducible apply State.useHard_keeps
    | with_reducible apply State.taken_keeps
    | with_reducible apply Keeps.foldl
    | with_reducible apply Keeps.foldlFst
    | with_reducible apply Keeps.ite
    | with_reducible apply Keeps.iteFst
    | split
    | with_reducible apply Keeps.lit)

theorem execStackBringupEnd_answers {s0 : State} {st : Nat} {ok : Bool} {hard soft : Nat} {remapped : List Nat}
    {s : State} (hk : Keeps s0 s) :
    Answers s0 (execStackBringupEnd st ok hard soft remapped s) := by
  unfold execStackBringupEnd
  try dsimp only
  repeat' (first
    | with_reducible assumption
    | with_reducible apply State.modStack_keeps
    | with_reducible apply State.setStackState_keeps
    | with_reducible apply State.failStack_keeps
    | with_reducible apply State.schedApply_keeps
    | with_reducible apply State.recovered_keeps
    | with_reducible apply State.recoverNext_keeps
    | with_reducible apply State.testRepair_keeps
    | with_reducible apply ret_answers
    | with_reducible apply Keeps.ite
    | with_reducible apply Keeps.iteFst
    | split
    | with_reducible apply Keeps.lit)

theorem State.maintReq_keeps {s0 : State} {s : State} {st : Nat} (hk : Keeps s0 s) :
    Keeps s0 (State.maintReq s st) := by
  unfold State.maintReq
  try dsimp only
  repeat' (first
    | with_reducible assumption
    | (intro _ _ _ _; try dsimp only)
    | (intro _ _ _; try dsimp only)
    | (intro _ _; try dsimp only)
    | with_reducible apply State.modStack_keeps
    | with_reducible apply State.setStackState_keeps
    | with_reducible apply State.remapDone_keeps
    | with_reducible apply Keeps.foldl
    | with_reducible apply Keeps.foldlFst
    | with_reducible apply Keeps.ite
    | with_reducible apply Keeps.iteFst
    | split
    | with_reducible apply Keeps.lit)

theorem execHbmMaintReq_answers {s0 : State} {st : Nat} {s : State} (hk : Keeps s0 s) :
    Answers s0 (execHbmMaintReq st s) := by
  unfold execHbmMaintReq
  repeat' (first
    | with_reducible assumption
    | with_reducible apply State.maintReq_keeps
    | with_reducible apply ret_answers
    | with_reducible apply Keeps.lit)

theorem execHbmMaintDone_answers {s0 : State} {st hard soft : Nat} {r : Retest} {s : State} (hk : Keeps s0 s) :
    Answers s0 (execHbmMaintDone st hard soft r s) := by
  unfold execHbmMaintDone
  try dsimp only
  repeat' (first
    | with_reducible assumption
    | with_reducible apply State.modStack_keeps
    | with_reducible apply State.repairStat_keeps
    | with_reducible apply State.setStackState_keeps
    | with_reducible apply State.schedApply_keeps
    | with_reducible apply State.useHard_keeps
    | with_reducible apply State.testRepair_keeps
    | with_reducible apply State.taken_keeps
    | with_reducible apply ret_answers
    | with_reducible apply Keeps.ite
    | with_reducible apply Keeps.iteFst
    | split
    | with_reducible apply Keeps.lit)

end Sys2Proof.Machine
end

