-- ==== Sys2Proof/Laws/Keeps/Fabric.lean ====
section
/-! SUPPORT. What no operation or command of Machine/Fabric.lean takes away. -/

namespace Sys2Proof.Machine

set_option linter.unusedTactic false
set_option linter.unreachableTactic false

theorem State.grantVc_keeps {s0 : State} {s : State} {p vc : Nat} {pool : Bool} (hk : Keeps s0 s) :
    Keeps s0 (State.grantVc s p vc pool) := by
  unfold State.grantVc
  try dsimp only
  repeat' (first
    | with_reducible assumption
    | with_reducible apply State.send_keeps
    | with_reducible apply Keeps.ite
    | with_reducible apply Keeps.iteFst
    | split
    | with_reducible apply Keeps.lit)

theorem State.release_keeps {s0 : State} {s : State} {f : RFrame} (hk : Keeps s0 s) :
    Keeps s0 (State.release s f) := by
  unfold State.release
  try dsimp only
  repeat' (first
    | with_reducible assumption
    | with_reducible apply State.grantVc_keeps
    | with_reducible apply Keeps.ite
    | with_reducible apply Keeps.iteFst
    | split
    | with_reducible apply Keeps.lit)

theorem State.creditStart_keeps {s0 : State} {s : State} {p : Nat} (hk : Keeps s0 s) :
    Keeps s0 (State.creditStart s p) := by
  unfold State.creditStart
  try dsimp only
  repeat' (first
    | with_reducible assumption
    | (intro _ _ _ _; try dsimp only)
    | (intro _ _ _; try dsimp only)
    | (intro _ _; try dsimp only)
    | with_reducible apply State.grantVc_keeps
    | with_reducible apply Keeps.foldl
    | with_reducible apply Keeps.foldlFst
    | with_reducible apply Keeps.lit)

theorem State.takeCredits_keeps {s0 : State} {s : State} {p : Nat} {f : Frame} (hk : Keeps s0 s) :
    Keeps s0 (State.takeCredits s p f) := by
  unfold State.takeCredits
  try dsimp only
  repeat' (first
    | with_reducible assumption
    | with_reducible apply Keeps.ite
    | with_reducible apply Keeps.iteFst
    | split
    | with_reducible apply Keeps.lit)

theorem State.crossAll_keeps {s0 : State} {z0 : List RFrame} {z1 : List (Nat × Nat)} {z2 z3 : List RFrame}
    {z4 : State} (hk : Keeps s0 z4) :
    Keeps s0 (State.crossAll z0 z1 z2 z3 z4) := by
  induction z0 generalizing z1 z2 z3 z4 with
  | nil => unfold State.crossAll; first | exact hk | (split <;> exact hk) | exact Keeps.lit hk
  | cons a l ih =>
    unfold State.crossAll
    try dsimp only
    repeat' (first
      | with_reducible assumption
      | with_reducible apply ih
      | with_reducible apply State.release_keeps
      | with_reducible apply Keeps.ite
      | with_reducible apply Keeps.iteFst
      | split
      | with_reducible apply Keeps.lit
      | refine Keeps.ofPair (by with_reducible assumption) ?_)

theorem State.cross_keeps {s0 : State} {s : State} (hk : Keeps s0 s) :
    Keeps s0 (State.cross s) := by
  unfold State.cross
  repeat' (first
    | with_reducible assumption
    | with_reducible apply State.crossAll_keeps
    | with_reducible apply Keeps.lit)

theorem State.place_keeps {s0 : State} {s : State} {f : RFrame} (hk : Keeps s0 s) :
    Keeps s0 (State.place s f) := by
  unfold State.place
  try dsimp only
  repeat' (first
    | with_reducible assumption
    | with_reducible apply State.release_keeps
    | split
    | with_reducible apply Keeps.lit)

theorem State.enterRouter_keeps {s0 : State} {s : State} {f : RFrame} (hk : Keeps s0 s) :
    Keeps s0 (State.enterRouter s f) := by
  unfold State.enterRouter
  repeat' (first
    | with_reducible assumption
    | with_reducible apply State.cross_keeps
    | with_reducible apply State.place_keeps
    | with_reducible apply Keeps.lit)

theorem State.injectRaw_keeps {s0 : State} {s : State} {io : Nat} {k : Packet} (hk : Keeps s0 s) :
    Keeps s0 (State.injectRaw s io k) := by
  unfold State.injectRaw
  repeat' (first
    | with_reducible assumption
    | with_reducible apply State.enterRouter_keeps
    | with_reducible apply Keeps.lit)

theorem State.sendVc0_keeps {s0 : State} {s : State} {io kind : Nat} {dst : BitVec 16} {dstIo body : Nat}
    {payload : Bytes} (hk : Keeps s0 s) :
    Keeps s0 (State.sendVc0 s io kind dst dstIo body payload) := by
  unfold State.sendVc0
  try dsimp only
  repeat' (first
    | with_reducible assumption
    | with_reducible apply State.injectRaw_keeps
    | with_reducible apply Keeps.lit)

theorem State.journalOpen_keeps {s0 : State} {s : State} {kind cls uclass unit : Nat} (hk : Keeps s0 s) :
    Keeps s0 (State.journalOpen s kind cls uclass unit) := by
  unfold State.journalOpen
  repeat' (first
    | with_reducible assumption
    | with_reducible apply State.fresh_keeps
    | with_reducible apply State.journalPut_keeps
    | with_reducible apply Keeps.lit)

theorem State.applyAlts_keeps {s0 : State} {s : State} (hk : Keeps s0 s) :
    Keeps s0 (State.applyAlts s) := by
  unfold State.applyAlts
  try dsimp only
  repeat' (first
    | with_reducible assumption
    | (intro _ _ _ _; try dsimp only)
    | (intro _ _ _; try dsimp only)
    | (intro _ _; try dsimp only)
    | with_reducible apply State.setRbit_keeps
    | with_reducible apply Keeps.iter
    | with_reducible apply Keeps.iterFst
    | with_reducible apply Keeps.ite
    | with_reducible apply Keeps.iteFst
    | split
    | with_reducible apply Keeps.lit)

theorem State.noteLink_keeps {s0 : State} {s : State} {l : DeadLink} {up : Bool} (hk : Keeps s0 s) :
    Keeps s0 (State.noteLink s l up) := by
  unfold State.noteLink
  repeat' (first
    | with_reducible assumption
    | with_reducible apply State.applyAlts_keeps
    | with_reducible apply Keeps.ite
    | with_reducible apply Keeps.iteFst
    | split
    | with_reducible apply Keeps.lit)

theorem State.logFault_keeps {s0 : State} {s : State} {origin : BitVec 16} {fseq dir dial : Nat} {up : Bool}
    (hk : Keeps s0 s) :
    Keeps s0 (State.logFault s origin fseq dir dial up) := by
  unfold State.logFault
  try dsimp only
  repeat' (first
    | with_reducible assumption
    | with_reducible apply State.setReg_keeps
    | with_reducible apply State.journalOpen_keeps
    | with_reducible apply Keeps.ite
    | with_reducible apply Keeps.iteFst
    | split
    | with_reducible apply Keeps.lit)

theorem State.spreadFault_keeps {s0 : State} {s : State} {origin : BitVec 16} {fseq dir dial : Nat} {up : Bool}
    {notTo : Nat} (hk : Keeps s0 s) :
    Keeps s0 (State.spreadFault s origin fseq dir dial up notTo) := by
  unfold State.spreadFault
  try dsimp only
  repeat' (first
    | with_reducible assumption
    | (intro _ _ _ _; try dsimp only)
    | (intro _ _ _; try dsimp only)
    | (intro _ _; try dsimp only)
    | with_reducible apply State.injectRaw_keeps
    | with_reducible apply Keeps.foldl
    | with_reducible apply Keeps.foldlFst
    | with_reducible apply Keeps.ite
    | with_reducible apply Keeps.iteFst
    | split
    | with_reducible apply Keeps.lit)

theorem State.ownFault_keeps {s0 : State} {s : State} {dir dial : Nat} {up : Bool} (hk : Keeps s0 s) :
    Keeps s0 (State.ownFault s dir dial up) := by
  unfold State.ownFault
  try dsimp only
  repeat' (first
    | with_reducible assumption
    | with_reducible apply State.noteLink_keeps
    | with_reducible apply State.logFault_keeps
    | with_reducible apply State.spreadFault_keeps
    | with_reducible apply Keeps.lit)

theorem State.dirFault_keeps {s0 : State} {s : State} {d : Nat} {up : Bool} (hk : Keeps s0 s) :
    Keeps s0 (State.dirFault s d up) := by
  unfold State.dirFault
  repeat' (first
    | with_reducible assumption
    | with_reducible apply State.ownFault_keeps
    | with_reducible apply Keeps.ite
    | with_reducible apply Keeps.iteFst
    | split
    | with_reducible apply Keeps.lit)

theorem State.dirDies_keeps {s0 : State} {s : State} {d : Nat} (hk : Keeps s0 s) :
    Keeps s0 (State.dirDies s d) := by
  unfold State.dirDies
  repeat' (first
    | with_reducible assumption
    | with_reducible apply State.dirFault_keeps
    | with_reducible apply Keeps.ite
    | with_reducible apply Keeps.iteFst
    | split
    | with_reducible apply Keeps.lit)

theorem State.portsChanged_keeps {s0 : State} {s : State} {before : List Nat} (hk : Keeps s0 s) :
    Keeps s0 (State.portsChanged s before) := by
  unfold State.portsChanged
  try dsimp only
  repeat' (first
    | with_reducible assumption
    | (intro _ _ _ _; try dsimp only)
    | (intro _ _ _; try dsimp only)
    | (intro _ _; try dsimp only)
    | with_reducible apply State.dirFault_keeps
    | with_reducible apply State.dirDies_keeps
    | with_reducible apply Keeps.foldl
    | with_reducible apply Keeps.foldlFst
    | with_reducible apply Keeps.lit)

theorem State.faultIn_keeps {s0 : State} {s : State} {k : Packet} {fromDir : Nat} (hk : Keeps s0 s) :
    Keeps s0 (State.faultIn s k fromDir) := by
  unfold State.faultIn
  try dsimp only
  repeat' (first
    | with_reducible assumption
    | with_reducible apply State.noteLink_keeps
    | with_reducible apply State.logFault_keeps
    | with_reducible apply State.spreadFault_keeps
    | with_reducible apply Keeps.ite
    | with_reducible apply Keeps.iteFst
    | split
    | with_reducible apply Keeps.lit)

theorem State.quarStart_keeps {s0 : State} {s : State} {p : Nat} (hk : Keeps s0 s) :
    Keeps s0 (State.quarStart s p) := by
  unfold State.quarStart
  repeat' (first
    | with_reducible assumption
    | with_reducible apply State.setRbit_keeps
    | with_reducible apply State.mapChange_keeps
    | with_reducible apply State.journalOpen_keeps
    | with_reducible apply Keeps.lit)

theorem State.violate_keeps {s0 : State} {s : State} {p cause : Nat} {f : Frame} (hk : Keeps s0 s) :
    Keeps s0 (State.violate s p cause f) := by
  unfold State.violate
  try dsimp only
  repeat' (first
    | with_reducible assumption
    | with_reducible apply State.bump_keeps
    | with_reducible apply State.sendVc0_keeps
    | with_reducible apply State.quarStart_keeps
    | with_reducible apply Keeps.ite
    | with_reducible apply Keeps.iteFst
    | split
    | with_reducible apply Keeps.lit)

theorem State.frameIn_keeps {s0 : State} {s : State} {p slot : Nat} {f : Frame} (h : Keeps s0 s) :
    Keeps s0 (State.frameIn s p slot f) := by
  unfold State.frameIn
  by_cases h1 : (!s.portUp p || f.bad || f.type == 0 || !s.flitsGood p slot (if f.type = 1 then f.nflit else 1)) = true
  · rw [if_pos h1]; exact h
  rw [if_neg h1]
  by_cases h2 : (s.quar p && !(f.type == 2 || f.vc == 0)) = true
  · rw [if_pos h2]; exact h
  rw [if_neg h2]
  cases s.violation p f with
  | some cause =>
    refine State.violate_keeps ?_
    split
    · exact h
    · exact State.takeCredits_keeps h
  | none =>
    have ht : Keeps s0 (s.takeCredits p f) := State.takeCredits_keeps h
    generalize s.takeCredits p f = t at ht
    dsimp only
    split
    · exact ht
    split
    · exact State.release_keeps (Keeps.lit ht)
    split
    · exact State.faultIn_keeps (State.release_keeps (Keeps.lit ht))
    · exact State.enterRouter_keeps (Keeps.lit ht)

theorem State.reroute_keeps {s0 : State} {s : State} (hk : Keeps s0 s) :
    Keeps s0 (State.reroute s) := by
  unfold State.reroute
  try dsimp only
  repeat' (first
    | with_reducible assumption
    | (intro _ _ _ _; try dsimp only)
    | (intro _ _ _; try dsimp only)
    | (intro _ _; try dsimp only)
    | with_reducible apply State.release_keeps
    | with_reducible apply State.cross_keeps
    | with_reducible apply State.place_keeps
    | with_reducible apply Keeps.foldl
    | with_reducible apply Keeps.foldlFst
    | with_reducible apply Keeps.lit)

theorem State.sendFrame_keeps {s0 : State} {s : State} {p slot : Nat} {x : Nat × RFrame × Packet} {a : Arb}
    (hk : Keeps s0 s) :
    Keeps s0 (State.sendFrame s p slot x a) := by
  unfold State.sendFrame
  try dsimp only
  repeat' (first
    | with_reducible assumption
    | with_reducible apply State.send_keeps
    | with_reducible apply State.release_keeps
    | with_reducible apply State.cross_keeps
    | with_reducible apply Keeps.ite
    | with_reducible apply Keeps.iteFst
    | split
    | with_reducible apply Keeps.lit)

theorem execFrameSend_answers {s0 : State} {a : PortSlot} {s : State} (hk : Keeps s0 s) :
    Answers s0 (execFrameSend a s) := by
  unfold execFrameSend
  try dsimp only
  repeat' (first
    | with_reducible assumption
    | with_reducible apply State.reroute_keeps
    | with_reducible apply State.sendFrame_keeps
    | with_reducible apply ret_answers
    | with_reducible apply Keeps.ite
    | with_reducible apply Keeps.iteFst
    | split
    | with_reducible apply Keeps.lit
    | refine Keeps.ofPair (by with_reducible assumption) ?_)

theorem State.flushVc0_keeps {s0 : State} {p z0 : Nat} {z1 : State} (hk : Keeps s0 z1) :
    Keeps s0 (State.flushVc0 p z0 z1) := by
  induction z0 generalizing p z1 with
  | zero => unfold State.flushVc0; first | exact hk | (split <;> exact hk) | exact Keeps.lit hk
  | succ n ih =>
    unfold State.flushVc0
    try dsimp only
    repeat' (first
      | with_reducible assumption
      | with_reducible apply ih
      | with_reducible apply State.fresh_keeps
      | with_reducible apply State.sendFrame_keeps
      | with_reducible apply Keeps.ite
      | with_reducible apply Keeps.iteFst
      | split
      | refine Keeps.ofPair (by with_reducible assumption) ?_)

theorem execFrameRx_answers {s0 : State} {x : PortSlot} {f : Frame} {s : State} (hk : Keeps s0 s) :
    Answers s0 (execFrameRx x f s) := by
  unfold execFrameRx
  repeat' (first
    | with_reducible assumption
    | with_reducible apply State.frameIn_keeps
    | with_reducible apply ret_answers
    | with_reducible apply Keeps.lit)

theorem execCreditFlitRx_answers {s0 : State} {x : PortSlot} {f : Frame} {s : State} (hk : Keeps s0 s) :
    Answers s0 (execCreditFlitRx x f s) := by
  unfold execCreditFlitRx
  repeat' (first
    | with_reducible assumption
    | with_reducible apply State.frameIn_keeps
    | with_reducible apply ret_answers
    | with_reducible apply Keeps.lit)

theorem execFrameAgeDrop_answers {s0 : State} {p ix : Nat} {s : State} (hk : Keeps s0 s) :
    Answers s0 (execFrameAgeDrop p ix s) := by
  unfold execFrameAgeDrop
  try dsimp only
  repeat' (first
    | with_reducible assumption
    | with_reducible apply State.release_keeps
    | with_reducible apply State.cross_keeps
    | with_reducible apply ret_answers
    | split
    | with_reducible apply Keeps.lit)

theorem execFault_answers {s0 : State} {p : Nat} {k : Packet} {s : State} (hk : Keeps s0 s) :
    Answers s0 (execFault p k s) := by
  unfold execFault
  repeat' (first
    | with_reducible assumption
    | with_reducible apply State.faultIn_keeps
    | with_reducible apply ret_answers
    | with_reducible apply Keeps.ite
    | with_reducible apply Keeps.iteFst
    | split
    | with_reducible apply Keeps.lit)

theorem State.quarEnd_keeps {s0 : State} {s : State} {p : Nat} (hk : Keeps s0 s) :
    Keeps s0 (State.quarEnd s p) := by
  unfold State.quarEnd
  try dsimp only
  repeat' (first
    | with_reducible assumption
    | with_reducible apply State.setRbit_keeps
    | with_reducible apply State.mapChange_keeps
    | with_reducible apply State.journalOpen_keeps
    | with_reducible apply Keeps.ite
    | with_reducible apply Keeps.iteFst
    | split
    | with_reducible apply Keeps.lit)

theorem execViolInterval_answers {s0 : State} {p : Nat} {s : State} (hk : Keeps s0 s) :
    Answers s0 (execViolInterval p s) := by
  unfold execViolInterval
  try dsimp only
  repeat' (first
    | with_reducible assumption
    | with_reducible apply State.quarEnd_keeps
    | with_reducible apply ret_answers
    | with_reducible apply Keeps.ite
    | with_reducible apply Keeps.iteFst
    | split
    | with_reducible apply Keeps.lit)

theorem execClrQuar_answers {s0 : State} {p : Nat} {s : State} (hk : Keeps s0 s) :
    Answers s0 (execClrQuar p s) := by
  unfold execClrQuar
  repeat' (first
    | with_reducible assumption
    | with_reducible apply State.quarEnd_keeps
    | with_reducible apply ret_answers
    | with_reducible apply Keeps.ite
    | with_reducible apply Keeps.iteFst
    | split
    | with_reducible apply Keeps.lit)

theorem execVnotice_answers {s0 : State} {io : Nat} {k : Packet} {s : State} (hk : Keeps s0 s) :
    Answers s0 (execVnotice io k s) := by
  unfold execVnotice
  repeat' (first
    | with_reducible assumption
    | with_reducible apply ret_answers
    | with_reducible apply Keeps.lit)

theorem State.epStreams_keeps {s0 : State} {s : State} {io : Nat} (hk : Keeps s0 s) :
    Keeps s0 (State.epStreams s io) := by
  unfold State.epStreams
  repeat' (first
    | with_reducible assumption
    | with_reducible apply State.setRf_keeps
    | with_reducible apply Keeps.lit)

theorem State.pump_keeps {s0 : State} {s : State} {io no : Nat} {x : TxStream} {z0 : List (Packet × Client)}
    (hk : Keeps s0 s) :
    Keeps s0 (State.pump s io no x z0).1 := by
  induction z0 generalizing s io no x with
  | nil => unfold State.pump; first | exact hk | (split <;> exact hk) | exact Keeps.lit hk
  | cons a l ih =>
    unfold State.pump
    try dsimp only
    repeat' (first
      | with_reducible assumption
      | with_reducible apply ih
      | with_reducible apply State.bump_keeps
      | with_reducible apply State.injectRaw_keeps
      | with_reducible apply Keeps.ite
      | with_reducible apply Keeps.iteFst
      | split
      | with_reducible apply Keeps.lit
      | refine Keeps.ofPair (by with_reducible assumption) ?_)

theorem State.pumpStream_keeps {s0 : State} {s : State} {io no : Nat} {x : TxStream} (hk : Keeps s0 s) :
    Keeps s0 (State.pumpStream s io no x) := by
  unfold State.pumpStream
  try dsimp only
  repeat' (first
    | with_reducible assumption
    | with_reducible apply State.pump_keeps
    | with_reducible apply Keeps.lit)

theorem State.pktLost_keeps {s0 : State} {s : State} {io : Nat} {k : Packet} {cause : Nat} (hk : Keeps s0 s) :
    Keeps s0 (State.pktLost s io k cause) := by
  unfold State.pktLost
  try dsimp only
  repeat' (first
    | with_reducible assumption
    | with_reducible apply State.bump_keeps
    | with_reducible apply State.journalPut_keeps
    | with_reducible apply Keeps.ite
    | with_reducible apply Keeps.iteFst
    | split
    | with_reducible apply Keeps.lit)

theorem State.inject_keeps {s0 : State} {s : State} {io : Nat} {k : Packet} {cl : Client} (hk : Keeps s0 s) :
    Keeps s0 (State.inject s io k cl).1 := by
  unfold State.inject
  try dsimp only
  repeat' (first
    | with_reducible assumption
    | with_reducible apply State.fresh_keeps
    | with_reducible apply State.epStreams_keeps
    | with_reducible apply State.pumpStream_keeps
    | with_reducible apply State.pktLost_keeps
    | with_reducible apply Keeps.ite
    | with_reducible apply Keeps.iteFst
    | split
    | with_reducible apply Keeps.lit)

theorem State.ackIn_keeps {s0 : State} {s : State} {io : Nat} {k : Packet} (hk : Keeps s0 s) :
    Keeps s0 (State.ackIn s io k).1 := by
  unfold State.ackIn
  try dsimp only
  repeat' (first
    | with_reducible assumption
    | with_reducible apply State.pumpStream_keeps
    | with_reducible apply Keeps.ite
    | with_reducible apply Keeps.iteFst
    | split
    | with_reducible apply Keeps.lit)

theorem State.again_keeps {s0 : State} {s : State} {io : Nat} {k : Packet} (hk : Keeps s0 s) :
    Keeps s0 (State.again s io k) := by
  unfold State.again
  repeat' (first
    | with_reducible assumption
    | with_reducible apply State.bump_keeps
    | with_reducible apply State.injectRaw_keeps
    | with_reducible apply Keeps.lit)

theorem execNack_answers {s0 : State} {io : Nat} {k : Packet} {s : State} (hk : Keeps s0 s) :
    Answers s0 (execNack io k s) := by
  unfold execNack
  try dsimp only
  repeat' (first
    | with_reducible assumption
    | with_reducible apply State.bump_keeps
    | with_reducible apply State.again_keeps
    | with_reducible apply ret_answers
    | with_reducible apply Keeps.ite
    | with_reducible apply Keeps.iteFst
    | split
    | with_reducible apply Keeps.lit)

theorem State.resendOrGiveUp_keeps {s0 : State} {s : State} {io : Nat} {key : StreamKey} {seq : BitVec 32}
    (hk : Keeps s0 s) :
    Keeps s0 (State.resendOrGiveUp s io key seq).1 := by
  unfold State.resendOrGiveUp
  try dsimp only
  repeat' (first
    | with_reducible assumption
    | with_reducible apply State.pumpStream_keeps
    | with_reducible apply State.pktLost_keeps
    | with_reducible apply State.again_keeps
    | with_reducible apply Keeps.ite
    | with_reducible apply Keeps.iteFst
    | split
    | with_reducible apply Keeps.lit)

theorem State.sendAck_keeps {s0 : State} {s : State} {io : Nat} {key : StreamKey} {x : RxStream} (hk : Keeps s0 s) :
    Keeps s0 (State.sendAck s io key x) := by
  unfold State.sendAck
  try dsimp only
  repeat' (first
    | with_reducible assumption
    | (intro _ _ _ _; try dsimp only)
    | (intro _ _ _; try dsimp only)
    | (intro _ _; try dsimp only)
    | with_reducible apply State.sendVc0_keeps
    | with_reducible apply Keeps.foldl
    | with_reducible apply Keeps.foldlFst
    | with_reducible apply Keeps.ite
    | with_reducible apply Keeps.iteFst
    | split
    | with_reducible apply Keeps.lit)

theorem State.sendNack_keeps {s0 : State} {s : State} {io : Nat} {k : Packet} {cause : Nat} (hk : Keeps s0 s) :
    Keeps s0 (State.sendNack s io k cause) := by
  unfold State.sendNack
  repeat' (first
    | with_reducible assumption
    | with_reducible apply State.bump_keeps
    | with_reducible apply State.sendVc0_keeps
    | with_reducible apply Keeps.ite
    | with_reducible apply Keeps.iteFst
    | split
    | with_reducible apply Keeps.lit)

theorem execAckTimer_answers {s0 : State} {io : Nat} {key : StreamKey} {s : State} (hk : Keeps s0 s) :
    Answers s0 (execAckTimer io key s) := by
  unfold execAckTimer
  try dsimp only
  repeat' (first
    | with_reducible assumption
    | with_reducible apply State.sendAck_keeps
    | with_reducible apply ret_answers
    | with_reducible apply Keeps.ite
    | with_reducible apply Keeps.iteFst
    | split
    | with_reducible apply Keeps.lit)

theorem State.acceptPacket_keeps {s0 : State} {s : State} {io : Nat} {k : Packet} {room : Bool} (hk : Keeps s0 s) :
    Keeps s0 (State.acceptPacket s io k room).1 := by
  unfold State.acceptPacket
  try dsimp only
  repeat' (first
    | with_reducible assumption
    | with_reducible apply State.bump_keeps
    | with_reducible apply State.epStreams_keeps
    | with_reducible apply State.sendAck_keeps
    | with_reducible apply State.sendNack_keeps
    | with_reducible apply Keeps.ite
    | with_reducible apply Keeps.iteFst
    | split
    | with_reducible apply Keeps.lit)

theorem State.wakeStream_keeps {s0 : State} {s : State} {io : Nat} (hk : Keeps s0 s) :
    Keeps s0 (State.wakeStream s io) := by
  unfold State.wakeStream
  try dsimp only
  repeat' (first
    | with_reducible assumption
    | with_reducible apply State.pumpStream_keeps
    | split
    | with_reducible apply Keeps.lit
    | refine Keeps.ofPair (by with_reducible assumption) ?_)

theorem execStreamEntryExpiry_answers {s0 : State} {io : Nat} {tx : Bool} {key : StreamKey} {s : State}
    (hk : Keeps s0 s) :
    Answers s0 (execStreamEntryExpiry io tx key s) := by
  unfold execStreamEntryExpiry
  try dsimp only
  repeat' (first
    | with_reducible assumption
    | with_reducible apply State.epStreams_keeps
    | with_reducible apply State.wakeStream_keeps
    | with_reducible apply ret_answers
    | with_reducible apply Keeps.ite
    | with_reducible apply Keeps.iteFst
    | split
    | with_reducible apply Keeps.lit)

end Sys2Proof.Machine
end

