-- ==== Sys2Proof/Laws/Keeps/Optics.lean ====
section
/-! SUPPORT. What no operation or command of Machine/Optics.lean takes away. -/

namespace Sys2Proof.Machine

set_option linter.unusedTactic false
set_option linter.unreachableTactic false

theorem State.modPort_keeps {s0 : State} {s : State} {p : Nat} {f : OPort → OPort} (hk : Keeps s0 s) :
    Keeps s0 (State.modPort s p f) := by
  unfold State.modPort
  repeat' (first
    | with_reducible assumption
    | with_reducible apply Keeps.lit)

theorem State.laneStats_keeps {s0 : State} {s : State} {p : Nat} (hk : Keeps s0 s) :
    Keeps s0 (State.laneStats s p) := by
  unfold State.laneStats
  try dsimp only
  repeat' (first
    | with_reducible assumption
    | (intro _ _ _ _; try dsimp only)
    | (intro _ _ _; try dsimp only)
    | (intro _ _; try dsimp only)
    | with_reducible apply State.setRf_keeps
    | with_reducible apply State.stage_keeps
    | with_reducible apply Keeps.iter
    | with_reducible apply Keeps.iterFst
    | with_reducible apply Keeps.ite
    | with_reducible apply Keeps.iteFst
    | split
    | with_reducible apply Keeps.lit)

theorem State.setMaps_keeps {s0 : State} {s : State} {p : Nat} {tx rx : BitVec 8} (hk : Keeps s0 s) :
    Keeps s0 (State.setMaps s p tx rx) := by
  unfold State.setMaps
  try dsimp only
  repeat' (first
    | with_reducible assumption
    | (intro _ _ _ _; try dsimp only)
    | (intro _ _ _; try dsimp only)
    | (intro _ _; try dsimp only)
    | with_reducible apply State.setRf_keeps
    | with_reducible apply State.bump_keeps
    | with_reducible apply State.pulse_keeps
    | with_reducible apply State.setLevel_keeps
    | with_reducible apply State.mapChange_keeps
    | with_reducible apply State.journalOpen_keeps
    | with_reducible apply State.laneStats_keeps
    | with_reducible apply Keeps.iter
    | with_reducible apply Keeps.iterFst
    | with_reducible apply Keeps.ite
    | with_reducible apply Keeps.iteFst
    | split
    | with_reducible apply Keeps.lit)

theorem State.endFan_keeps {s0 : State} {s : State} {i : Nat} (hk : Keeps s0 s) :
    Keeps s0 (State.endFan s i) := by
  unfold State.endFan
  try dsimp only
  repeat' (first
    | with_reducible assumption
    | with_reducible apply State.setRf_keeps
    | with_reducible apply State.setRbit_keeps
    | with_reducible apply State.modPort_keeps
    | split
    | with_reducible apply Keeps.lit
    | refine Keeps.ofPair (by with_reducible assumption) ?_)

theorem State.portJournal_keeps {s0 : State} {s : State} {p : Nat} (hk : Keeps s0 s) :
    Keeps s0 (State.portJournal s p) := by
  unfold State.portJournal
  repeat' (first
    | with_reducible assumption
    | with_reducible apply State.fresh_keeps
    | with_reducible apply State.journalPut_keeps
    | with_reducible apply Keeps.lit)

theorem State.portDown_keeps {s0 : State} {s : State} {p cause : Nat} (hk : Keeps s0 s) :
    Keeps s0 (State.portDown s p cause) := by
  unfold State.portDown
  try dsimp only
  repeat' (first
    | with_reducible assumption
    | with_reducible apply State.setRf_keeps
    | with_reducible apply State.setRbit_keeps
    | with_reducible apply State.pulse_keeps
    | with_reducible apply State.setLevel_keeps
    | with_reducible apply State.mapChange_keeps
    | with_reducible apply State.portsChanged_keeps
    | with_reducible apply State.modPort_keeps
    | with_reducible apply State.endFan_keeps
    | with_reducible apply State.portJournal_keeps
    | with_reducible apply Keeps.ite
    | with_reducible apply Keeps.iteFst
    | split
    | with_reducible apply Keeps.lit)

theorem State.portRise_keeps {s0 : State} {s : State} {p : Nat} (hk : Keeps s0 s) :
    Keeps s0 (State.portRise s p) := by
  unfold State.portRise
  try dsimp only
  repeat' (first
    | with_reducible assumption
    | with_reducible apply State.setRf_keeps
    | with_reducible apply State.setRbit_keeps
    | with_reducible apply State.setLevel_keeps
    | with_reducible apply State.mapChange_keeps
    | with_reducible apply State.creditStart_keeps
    | with_reducible apply State.portsChanged_keeps
    | with_reducible apply Keeps.lit)

theorem State.judgePort_keeps {s0 : State} {s : State} {p : Nat} (hk : Keeps s0 s) :
    Keeps s0 (State.judgePort s p) := by
  unfold State.judgePort
  try dsimp only
  repeat' (first
    | with_reducible assumption
    | with_reducible apply State.portDown_keeps
    | with_reducible apply State.portRise_keeps
    | with_reducible apply Keeps.ite
    | with_reducible apply Keeps.iteFst
    | split
    | with_reducible apply Keeps.lit)

theorem State.laneFan_keeps {s0 : State} {s : State} {p : Nat} (hk : Keeps s0 s) :
    Keeps s0 (State.laneFan s p) := by
  unfold State.laneFan
  try dsimp only
  repeat' (first
    | with_reducible assumption
    | with_reducible apply State.endFan_keeps
    | with_reducible apply Keeps.ite
    | with_reducible apply Keeps.iteFst
    | split
    | with_reducible apply Keeps.lit)

theorem State.setHeater_keeps {s0 : State} {s : State} {i ring temp : Nat} (hk : Keeps s0 s) :
    Keeps s0 (State.setHeater s i ring temp) := by
  unfold State.setHeater
  try dsimp only
  repeat' (first
    | with_reducible assumption
    | with_reducible apply State.setRf_keeps
    | with_reducible apply State.fresh_keeps
    | with_reducible apply Keeps.ite
    | with_reducible apply Keeps.iteFst
    | split
    | with_reducible apply Keeps.lit)

theorem State.retuneRing_keeps {s0 : State} {s : State} {i ring : Nat} (hk : Keeps s0 s) :
    Keeps s0 (State.retuneRing s i ring) := by
  unfold State.retuneRing
  try dsimp only
  repeat' (first
    | with_reducible assumption
    | with_reducible apply State.setHeater_keeps
    | with_reducible apply Keeps.ite
    | with_reducible apply Keeps.iteFst
    | split
    | with_reducible apply Keeps.lit)

theorem State.removeLane_keeps {s0 : State} {s : State} {p l : Nat} (hk : Keeps s0 s) :
    Keeps s0 (State.removeLane s p l) := by
  unfold State.removeLane
  try dsimp only
  repeat' (first
    | with_reducible assumption
    | with_reducible apply State.modPort_keeps
    | with_reducible apply State.laneStats_keeps
    | with_reducible apply State.setMaps_keeps
    | with_reducible apply State.judgePort_keeps
    | with_reducible apply State.laneFan_keeps
    | with_reducible apply State.retuneRing_keeps
    | with_reducible apply Keeps.ite
    | with_reducible apply Keeps.iteFst
    | split
    | with_reducible apply Keeps.lit)

theorem State.laneReady_keeps {s0 : State} {s : State} {p l : Nat} (hk : Keeps s0 s) :
    Keeps s0 (State.laneReady s p l) := by
  unfold State.laneReady
  try dsimp only
  repeat' (first
    | with_reducible assumption
    | with_reducible apply State.modPort_keeps
    | with_reducible apply State.laneStats_keeps
    | with_reducible apply State.judgePort_keeps
    | with_reducible apply Keeps.lit)

theorem State.idMissing_keeps {s0 : State} {s : State} {p l : Nat} (hk : Keeps s0 s) :
    Keeps s0 (State.idMissing s p l) := by
  unfold State.idMissing
  try dsimp only
  repeat' (first
    | with_reducible assumption
    | with_reducible apply State.bump_keeps
    | with_reducible apply State.modPort_keeps
    | with_reducible apply State.removeLane_keeps
    | with_reducible apply Keeps.ite
    | with_reducible apply Keeps.iteFst
    | split
    | with_reducible apply Keeps.lit)

theorem State.idBad_keeps {s0 : State} {s : State} {p l : Nat} (hk : Keeps s0 s) :
    Keeps s0 (State.idBad s p l) := by
  unfold State.idBad
  try dsimp only
  repeat' (first
    | with_reducible assumption
    | with_reducible apply State.modPort_keeps
    | with_reducible apply State.idMissing_keeps
    | with_reducible apply Keeps.ite
    | with_reducible apply Keeps.iteFst
    | split
    | with_reducible apply Keeps.lit)

theorem State.trainPort_keeps {s0 : State} {s : State} {p : Nat} (hk : Keeps s0 s) :
    Keeps s0 (State.trainPort s p) := by
  unfold State.trainPort
  try dsimp only
  repeat' (first
    | with_reducible assumption
    | with_reducible apply State.setRf_keeps
    | with_reducible apply State.setRbit_keeps
    | with_reducible apply State.mapChange_keeps
    | with_reducible apply State.modPort_keeps
    | with_reducible apply State.setMaps_keeps
    | with_reducible apply Keeps.lit)

theorem State.takePorts_keeps {s0 : State} {s : State} {i : Nat} (hk : Keeps s0 s) :
    Keeps s0 (State.takePorts s i) := by
  unfold State.takePorts
  try dsimp only
  repeat' (first
    | with_reducible assumption
    | (intro _ _ _ _; try dsimp only)
    | (intro _ _ _; try dsimp only)
    | (intro _ _; try dsimp only)
    | with_reducible apply State.trainPort_keeps
    | with_reducible apply Keeps.iter
    | with_reducible apply Keeps.iterFst
    | with_reducible apply Keeps.ite
    | with_reducible apply Keeps.iteFst
    | split
    | with_reducible apply Keeps.lit)

theorem State.idAccept_keeps {s0 : State} {s : State} {p l : Nat} {f : IdFlit} (hk : Keeps s0 s) :
    Keeps s0 (State.idAccept s p l f) := by
  unfold State.idAccept
  try dsimp only
  repeat' (first
    | with_reducible assumption
    | (intro _ _ _ _; try dsimp only)
    | (intro _ _ _; try dsimp only)
    | (intro _ _; try dsimp only)
    | with_reducible apply State.setRf_keeps
    | with_reducible apply State.bump_keeps
    | with_reducible apply State.fresh_keeps
    | with_reducible apply State.mapChange_keeps
    | with_reducible apply State.stage_keeps
    | with_reducible apply State.modPort_keeps
    | with_reducible apply State.setMaps_keeps
    | with_reducible apply State.judgePort_keeps
    | with_reducible apply State.laneFan_keeps
    | with_reducible apply State.retuneRing_keeps
    | with_reducible apply State.laneReady_keeps
    | with_reducible apply Keeps.iter
    | with_reducible apply Keeps.iterFst
    | with_reducible apply Keeps.ite
    | with_reducible apply Keeps.iteFst
    | split
    | with_reducible apply Keeps.lit)

theorem State.idFlit_keeps {s0 : State} {s : State} {p l : Nat} {f : IdFlit} (hk : Keeps s0 s) :
    Keeps s0 (State.idFlit s p l f) := by
  unfold State.idFlit
  try dsimp only
  repeat' (first
    | with_reducible assumption
    | with_reducible apply State.setRf_keeps
    | with_reducible apply State.bump_keeps
    | with_reducible apply State.modPort_keeps
    | with_reducible apply State.portDown_keeps
    | with_reducible apply State.removeLane_keeps
    | with_reducible apply State.idBad_keeps
    | with_reducible apply State.takePorts_keeps
    | with_reducible apply State.idAccept_keeps
    | with_reducible apply Keeps.ite
    | with_reducible apply Keeps.iteFst
    | split
    | with_reducible apply Keeps.lit)

theorem execIdentityFlitRx_answers {s0 : State} {p lane : Nat} {f : IdFlit} {s : State} (hk : Keeps s0 s) :
    Answers s0 (execIdentityFlitRx p lane f s) := by
  unfold execIdentityFlitRx
  repeat' (first
    | with_reducible assumption
    | with_reducible apply State.idFlit_keeps
    | with_reducible apply ret_answers
    | with_reducible apply Keeps.lit)

theorem execIdentityFlitMissing_answers {s0 : State} {p lane : Nat} {s : State} (hk : Keeps s0 s) :
    Answers s0 (execIdentityFlitMissing p lane s) := by
  unfold execIdentityFlitMissing
  repeat' (first
    | with_reducible assumption
    | with_reducible apply State.idMissing_keeps
    | with_reducible apply ret_answers
    | with_reducible apply Keeps.ite
    | with_reducible apply Keeps.iteFst
    | split
    | with_reducible apply Keeps.lit)

theorem execIdentityBoundary_answers {s0 : State} {p : Nat} {s : State} (hk : Keeps s0 s) :
    Answers s0 (execIdentityBoundary p s) := by
  unfold execIdentityBoundary
  try dsimp only
  repeat' (first
    | with_reducible assumption
    | with_reducible apply State.send_keeps
    | with_reducible apply State.modPort_keeps
    | with_reducible apply State.setMaps_keeps
    | with_reducible apply State.judgePort_keeps
    | with_reducible apply State.laneFan_keeps
    | with_reducible apply ret_answers
    | with_reducible apply Keeps.ite
    | with_reducible apply Keeps.iteFst
    | split
    | with_reducible apply Keeps.lit)

theorem execCodewordRx_answers {s0 : State} {p lane symbols : Nat} {uncorrectable : Bool} {s : State}
    (hk : Keeps s0 s) :
    Answers s0 (execCodewordRx p lane symbols uncorrectable s) := by
  unfold execCodewordRx
  try dsimp only
  repeat' (first
    | with_reducible assumption
    | with_reducible apply State.bump_keeps
    | with_reducible apply State.modPort_keeps
    | with_reducible apply State.removeLane_keeps
    | with_reducible apply ret_answers
    | with_reducible apply Keeps.ite
    | with_reducible apply Keeps.iteFst
    | split
    | with_reducible apply Keeps.lit)

theorem execSerWindow_answers {s0 : State} {p lane errors symbols : Nat} {s : State} (hk : Keeps s0 s) :
    Answers s0 (execSerWindow p lane errors symbols s) := by
  unfold execSerWindow
  try dsimp only
  repeat' (first
    | with_reducible assumption
    | with_reducible apply State.setRf_keeps
    | with_reducible apply State.modPort_keeps
    | with_reducible apply State.removeLane_keeps
    | with_reducible apply ret_answers
    | with_reducible apply Keeps.ite
    | with_reducible apply Keeps.iteFst
    | split
    | with_reducible apply Keeps.lit)

theorem execLaneVerifyTimeout_answers {s0 : State} {p lane : Nat} {s : State} (hk : Keeps s0 s) :
    Answers s0 (execLaneVerifyTimeout p lane s) := by
  unfold execLaneVerifyTimeout
  try dsimp only
  repeat' (first
    | with_reducible assumption
    | with_reducible apply State.stage_keeps
    | with_reducible apply State.modPort_keeps
    | with_reducible apply State.laneStats_keeps
    | with_reducible apply ret_answers
    | with_reducible apply Keeps.ite
    | with_reducible apply Keeps.iteFst
    | split
    | with_reducible apply Keeps.lit)

theorem execLaneSweepDone_answers {s0 : State} {p lane : Nat} {s : State} (hk : Keeps s0 s) :
    Answers s0 (execLaneSweepDone p lane s) := by
  unfold execLaneSweepDone
  try dsimp only
  repeat' (first
    | with_reducible assumption
    | with_reducible apply State.stage_keeps
    | with_reducible apply State.modPort_keeps
    | with_reducible apply State.laneStats_keeps
    | with_reducible apply ret_answers
    | with_reducible apply Keeps.ite
    | with_reducible apply Keeps.iteFst
    | split
    | with_reducible apply Keeps.lit)

theorem execLaneRetry_answers {s0 : State} {p lane : Nat} {s : State} (hk : Keeps s0 s) :
    Answers s0 (execLaneRetry p lane s) := by
  unfold execLaneRetry
  try dsimp only
  repeat' (first
    | with_reducible assumption
    | with_reducible apply State.stage_keeps
    | with_reducible apply State.modPort_keeps
    | with_reducible apply State.laneStats_keeps
    | with_reducible apply ret_answers
    | with_reducible apply Keeps.ite
    | with_reducible apply Keeps.iteFst
    | split
    | with_reducible apply Keeps.lit)

theorem State.holdDown_keeps {s0 : State} {s : State} {p cause : Nat} (hk : Keeps s0 s) :
    Keeps s0 (State.holdDown s p cause) := by
  unfold State.holdDown
  try dsimp only
  repeat' (first
    | with_reducible assumption
    | with_reducible apply State.setRf_keeps
    | with_reducible apply State.pulse_keeps
    | with_reducible apply State.mapChange_keeps
    | with_reducible apply Keeps.ite
    | with_reducible apply Keeps.iteFst
    | split
    | with_reducible apply Keeps.lit)

theorem State.queuePort_keeps {s0 : State} {s : State} {p : Nat} (hk : Keeps s0 s) :
    Keeps s0 (State.queuePort s p) := by
  unfold State.queuePort
  try dsimp only
  repeat' (first
    | with_reducible assumption
    | with_reducible apply State.setRf_keeps
    | with_reducible apply State.mapChange_keeps
    | with_reducible apply State.holdDown_keeps
    | with_reducible apply Keeps.ite
    | with_reducible apply Keeps.iteFst
    | split
    | with_reducible apply Keeps.lit)

theorem State.steerPort_keeps {s0 : State} {s : State} {p f : Nat} (hk : Keeps s0 s) :
    Keeps s0 (State.steerPort s p f) := by
  unfold State.steerPort
  try dsimp only
  repeat' (first
    | with_reducible assumption
    | with_reducible apply State.setRf_keeps
    | with_reducible apply Keeps.ite
    | with_reducible apply Keeps.iteFst
    | split
    | with_reducible apply Keeps.lit)

theorem State.resumeDie_keeps {s0 : State} {s : State} {i : Nat} (hk : Keeps s0 s) :
    Keeps s0 (State.resumeDie s i) := by
  unfold State.resumeDie
  try dsimp only
  repeat' (first
    | with_reducible assumption
    | (intro _ _ _ _; try dsimp only)
    | (intro _ _ _; try dsimp only)
    | (intro _ _; try dsimp only)
    | with_reducible apply State.setRf_keeps
    | with_reducible apply State.modPort_keeps
    | with_reducible apply State.setMaps_keeps
    | with_reducible apply State.takePorts_keeps
    | with_reducible apply State.queuePort_keeps
    | with_reducible apply Keeps.iter
    | with_reducible apply Keeps.iterFst
    | with_reducible apply Keeps.lit)

theorem State.dieLit_keeps {s0 : State} {s : State} {i : Nat} (hk : Keeps s0 s) :
    Keeps s0 (State.dieLit s i) := by
  unfold State.dieLit
  try dsimp only
  repeat' (first
    | with_reducible assumption
    | (intro _ _ _ _; try dsimp only)
    | (intro _ _ _; try dsimp only)
    | (intro _ _; try dsimp only)
    | with_reducible apply State.steerPort_keeps
    | with_reducible apply State.resumeDie_keeps
    | with_reducible apply Keeps.iter
    | with_reducible apply Keeps.iterFst
    | with_reducible apply Keeps.lit)

theorem State.moveToSpare_keeps {s0 : State} {s : State} {p : Nat} (hk : Keeps s0 s) :
    Keeps s0 (State.moveToSpare s p) := by
  unfold State.moveToSpare
  try dsimp only
  repeat' (first
    | with_reducible assumption
    | with_reducible apply State.journalOpen_keeps
    | with_reducible apply State.modPort_keeps
    | with_reducible apply State.portDown_keeps
    | with_reducible apply State.queuePort_keeps
    | with_reducible apply State.steerPort_keeps
    | with_reducible apply Keeps.ite
    | with_reducible apply Keeps.iteFst
    | split
    | with_reducible apply Keeps.lit)

theorem execPortTrainDone_answers {s0 : State} {p : Nat} {light : Bool} {verified : BitVec 8} {s : State}
    (hk : Keeps s0 s) :
    Answers s0 (execPortTrainDone p light verified s) := by
  unfold execPortTrainDone
  try dsimp only
  repeat' (first
    | with_reducible assumption
    | (intro _ _ _ _; try dsimp only)
    | (intro _ _ _; try dsimp only)
    | (intro _ _; try dsimp only)
    | with_reducible apply State.modPort_keeps
    | with_reducible apply State.laneStats_keeps
    | with_reducible apply State.portDown_keeps
    | with_reducible apply State.judgePort_keeps
    | with_reducible apply State.takePorts_keeps
    | with_reducible apply State.moveToSpare_keeps
    | with_reducible apply Keeps.foldl
    | with_reducible apply Keeps.foldlFst
    | with_reducible apply ret_answers
    | with_reducible apply Keeps.ite
    | with_reducible apply Keeps.iteFst
    | split
    | with_reducible apply Keeps.lit)

theorem execPortRetry_answers {s0 : State} {p : Nat} {s : State} (hk : Keeps s0 s) :
    Answers s0 (execPortRetry p s) := by
  unfold execPortRetry
  try dsimp only
  repeat' (first
    | with_reducible assumption
    | with_reducible apply State.takePorts_keeps
    | with_reducible apply State.queuePort_keeps
    | with_reducible apply ret_answers
    | with_reducible apply Keeps.ite
    | with_reducible apply Keeps.iteFst
    | split
    | with_reducible apply Keeps.lit)

theorem State.restartPort_keeps {s0 : State} {s : State} {p : Nat} (hk : Keeps s0 s) :
    Keeps s0 (State.restartPort s p) := by
  unfold State.restartPort
  try dsimp only
  repeat' (first
    | with_reducible assumption
    | with_reducible apply State.modPort_keeps
    | with_reducible apply State.portDown_keeps
    | with_reducible apply State.takePorts_keeps
    | with_reducible apply State.queuePort_keeps
    | with_reducible apply Keeps.ite
    | with_reducible apply Keeps.iteFst
    | split
    | with_reducible apply Keeps.lit)

theorem State.optRetrain_keeps {s0 : State} {s : State} {p : Nat} (hk : Keeps s0 s) :
    Keeps s0 (State.optRetrain s p) := by
  unfold State.optRetrain
  try dsimp only
  repeat' (first
    | with_reducible assumption
    | with_reducible apply State.modPort_keeps
    | with_reducible apply State.steerPort_keeps
    | with_reducible apply State.restartPort_keeps
    | with_reducible apply Keeps.ite
    | with_reducible apply Keeps.iteFst
    | split
    | with_reducible apply Keeps.lit)

theorem execOptRetrain_answers {s0 : State} {p : Nat} {s : State} (hk : Keeps s0 s) :
    Answers s0 (execOptRetrain p s) := by
  unfold execOptRetrain
  repeat' (first
    | with_reducible assumption
    | with_reducible apply State.optRetrain_keeps
    | with_reducible apply ret_answers
    | with_reducible apply Keeps.lit)

theorem State.adminDown_keeps {s0 : State} {s : State} {p : Nat} {down : Bool} (hk : Keeps s0 s) :
    Keeps s0 (State.adminDown s p down) := by
  unfold State.adminDown
  try dsimp only
  repeat' (first
    | with_reducible assumption
    | with_reducible apply State.setRbit_keeps
    | with_reducible apply State.portDown_keeps
    | with_reducible apply State.takePorts_keeps
    | with_reducible apply State.queuePort_keeps
    | with_reducible apply Keeps.ite
    | with_reducible apply Keeps.iteFst
    | split
    | with_reducible apply Keeps.lit)

theorem execAdminDown_answers {s0 : State} {p : Nat} {down : Bool} {s : State} (hk : Keeps s0 s) :
    Answers s0 (execAdminDown p down s) := by
  unfold execAdminDown
  repeat' (first
    | with_reducible assumption
    | with_reducible apply State.adminDown_keeps
    | with_reducible apply ret_answers
    | with_reducible apply Keeps.lit)

theorem execReachWrite_answers {s0 : State} {p : Nat} {short : Bool} {s : State} (hk : Keeps s0 s) :
    Answers s0 (execReachWrite p short s) := by
  unfold execReachWrite
  repeat' (first
    | with_reducible assumption
    | with_reducible apply State.setRbit_keeps
    | with_reducible apply ret_answers
    | with_reducible apply Keeps.ite
    | with_reducible apply Keeps.iteFst
    | split
    | with_reducible apply Keeps.lit)

theorem execHeaterUpdate_answers {s0 : State} {i : Nat} {elapsed : List Nat} {s : State} (hk : Keeps s0 s) :
    Answers s0 (execHeaterUpdate i elapsed s) := by
  unfold execHeaterUpdate
  try dsimp only
  repeat' (first
    | with_reducible assumption
    | (intro _ _ _ _; try dsimp only)
    | (intro _ _ _; try dsimp only)
    | (intro _ _; try dsimp only)
    | with_reducible apply State.setRf_keeps
    | with_reducible apply State.setHeater_keeps
    | with_reducible apply Keeps.iter
    | with_reducible apply Keeps.iterFst
    | with_reducible apply ret_answers
    | with_reducible apply Keeps.ite
    | with_reducible apply Keeps.iteFst
    | split
    | with_reducible apply Keeps.lit
    | refine Keeps.ofPair (by with_reducible assumption) ?_)

theorem execRingRecalStart_answers {s0 : State} {i ring : Nat} {s : State} (hk : Keeps s0 s) :
    Answers s0 (execRingRecalStart i ring s) := by
  unfold execRingRecalStart
  try dsimp only
  repeat' (first
    | with_reducible assumption
    | with_reducible apply State.stage_keeps
    | with_reducible apply ret_answers
    | with_reducible apply Keeps.ite
    | with_reducible apply Keeps.iteFst
    | split
    | with_reducible apply Keeps.lit)

theorem execRingRecalDone_answers {s0 : State} {i ring optimum : Nat} {s : State} (hk : Keeps s0 s) :
    Answers s0 (execRingRecalDone i ring optimum s) := by
  unfold execRingRecalDone
  try dsimp only
  repeat' (first
    | with_reducible assumption
    | with_reducible apply State.setHeater_keeps
    | with_reducible apply ret_answers
    | with_reducible apply Keeps.ite
    | with_reducible apply Keeps.iteFst
    | split
    | with_reducible apply Keeps.lit)

theorem State.takeSpare_keeps {s0 : State} {s : State} {i ch : Nat} {z0 : List Nat} {z1 : List Bool}
    (hk : Keeps s0 s) :
    Keeps s0 (State.takeSpare s i ch z0 z1).1 := by
  induction z0 generalizing s i ch z1 with
  | nil => unfold State.takeSpare; first | exact hk | (split <;> exact hk) | exact Keeps.lit hk
  | cons a l ih =>
    unfold State.takeSpare
    try dsimp only
    repeat' (first
      | with_reducible assumption
      | with_reducible apply ih
      | with_reducible apply State.setRf_keeps
      | with_reducible apply State.setRbit_keeps
      | with_reducible apply State.bump_keeps
      | with_reducible apply State.journalOpen_keeps
      | with_reducible apply Keeps.ite
      | with_reducible apply Keeps.iteFst
      | split
      | with_reducible apply Keeps.lit)

theorem execLaserFail_answers {s0 : State} {i laser : Nat} {spareOk : List Bool} {s : State} (hk : Keeps s0 s) :
    Answers s0 (execLaserFail i laser spareOk s) := by
  unfold execLaserFail
  try dsimp only
  repeat' (first
    | with_reducible assumption
    | (intro _ _ _ _; try dsimp only)
    | (intro _ _ _; try dsimp only)
    | (intro _ _; try dsimp only)
    | with_reducible apply State.setRbit_keeps
    | with_reducible apply State.bump_keeps
    | with_reducible apply State.pulse_keeps
    | with_reducible apply State.journalOpen_keeps
    | with_reducible apply State.modPort_keeps
    | with_reducible apply State.laneStats_keeps
    | with_reducible apply State.endFan_keeps
    | with_reducible apply State.takeSpare_keeps
    | with_reducible apply Keeps.iter
    | with_reducible apply Keeps.iterFst
    | with_reducible apply ret_answers
    | with_reducible apply Keeps.ite
    | with_reducible apply Keeps.iteFst
    | split
    | with_reducible apply Keeps.lit)

theorem execFibreDark_answers {s0 : State} {x : DarkPort} {s : State} (hk : Keeps s0 s) :
    Answers s0 (execFibreDark x s) := by
  unfold execFibreDark
  try dsimp only
  repeat' (first
    | with_reducible assumption
    | with_reducible apply State.modPort_keeps
    | with_reducible apply State.takePorts_keeps
    | with_reducible apply State.moveToSpare_keeps
    | with_reducible apply ret_answers
    | with_reducible apply Keeps.ite
    | with_reducible apply Keeps.iteFst
    | split
    | with_reducible apply Keeps.lit
    | refine Keeps.ofPair (by with_reducible assumption) ?_)

theorem execSpareTrainTimeout_answers {s0 : State} {p : Nat} {s : State} (hk : Keeps s0 s) :
    Answers s0 (execSpareTrainTimeout p s) := by
  unfold execSpareTrainTimeout
  try dsimp only
  repeat' (first
    | with_reducible assumption
    | with_reducible apply State.takePorts_keeps
    | with_reducible apply State.moveToSpare_keeps
    | with_reducible apply ret_answers
    | with_reducible apply Keeps.ite
    | with_reducible apply Keeps.iteFst
    | split
    | with_reducible apply Keeps.lit)

theorem State.fanOut_keeps {s0 : State} {s : State} {i p q : Nat} (hk : Keeps s0 s) :
    Keeps s0 (State.fanOut s i p q).1 := by
  unfold State.fanOut
  try dsimp only
  repeat' (first
    | with_reducible assumption
    | with_reducible apply State.setRf_keeps
    | with_reducible apply State.setRbit_keeps
    | with_reducible apply Keeps.ite
    | with_reducible apply Keeps.iteFst
    | split
    | with_reducible apply Keeps.lit)

theorem execFanoutEnd_answers {s0 : State} {i : Nat} {s : State} (hk : Keeps s0 s) :
    Answers s0 (execFanoutEnd i s) := by
  unfold execFanoutEnd
  repeat' (first
    | with_reducible assumption
    | with_reducible apply State.endFan_keeps
    | with_reducible apply ret_answers
    | with_reducible apply Keeps.lit)

theorem execMeshSettle_answers {s0 : State} {i : Nat} {s : State} (hk : Keeps s0 s) :
    Answers s0 (execMeshSettle i s) := by
  unfold execMeshSettle
  try dsimp only
  repeat' (first
    | with_reducible assumption
    | (intro _ _ _ _; try dsimp only)
    | (intro _ _ _; try dsimp only)
    | (intro _ _; try dsimp only)
    | with_reducible apply State.grantVc_keeps
    | with_reducible apply Keeps.iter
    | with_reducible apply Keeps.iterFst
    | with_reducible apply Keeps.foldl
    | with_reducible apply Keeps.foldlFst
    | with_reducible apply ret_answers
    | with_reducible apply Keeps.ite
    | with_reducible apply Keeps.iteFst
    | split
    | with_reducible apply Keeps.lit)

end Sys2Proof.Machine
end

