-- ==== Sys2Proof/Laws/Keeps/D2d.lean ====
section
/-! SUPPORT. What no operation or command of Machine/D2d.lean takes away. -/

namespace Sys2Proof.Machine

set_option linter.unusedTactic false
set_option linter.unreachableTactic false

theorem State.modDmod_keeps {s0 : State} {s : State} {g m : Nat} {f : DModule → DModule} (hk : Keeps s0 s) :
    Keeps s0 (State.modDmod s g m f) := by
  unfold State.modDmod
  repeat' (first
    | with_reducible assumption
    | with_reducible apply Keeps.lit)

theorem State.d2dJournal_keeps {s0 : State} {s : State} {g : Nat} (hk : Keeps s0 s) :
    Keeps s0 (State.d2dJournal s g) := by
  unfold State.d2dJournal
  repeat' (first
    | with_reducible assumption
    | with_reducible apply State.journalOpen_keeps
    | with_reducible apply Keeps.lit)

theorem State.ioCut_keeps {s0 : State} {s : State} {g : Nat} {down : Bool} (hk : Keeps s0 s) :
    Keeps s0 (State.ioCut s g down) := by
  unfold State.ioCut
  try dsimp only
  repeat' (first
    | with_reducible assumption
    | (intro _ _ _ _; try dsimp only)
    | (intro _ _ _; try dsimp only)
    | (intro _ _; try dsimp only)
    | with_reducible apply State.setRbit_keeps
    | with_reducible apply State.portDown_keeps
    | with_reducible apply State.takePorts_keeps
    | with_reducible apply State.queuePort_keeps
    | with_reducible apply Keeps.iter
    | with_reducible apply Keeps.iterFst
    | with_reducible apply Keeps.ite
    | with_reducible apply Keeps.iteFst
    | split
    | with_reducible apply Keeps.lit)

theorem State.judgeGroup_keeps {s0 : State} {s : State} {g : Nat} (hk : Keeps s0 s) :
    Keeps s0 (State.judgeGroup s g) := by
  unfold State.judgeGroup
  try dsimp only
  repeat' (first
    | with_reducible assumption
    | with_reducible apply State.setRf_keeps
    | with_reducible apply State.setRbit_keeps
    | with_reducible apply State.setLevel_keeps
    | with_reducible apply State.journalPut_keeps
    | with_reducible apply State.mapChange_keeps
    | with_reducible apply State.ioCut_keeps
    | with_reducible apply Keeps.ite
    | with_reducible apply Keeps.iteFst
    | split
    | with_reducible apply Keeps.lit)

theorem State.setEntry_keeps {s0 : State} {s : State} {g f m : Nat} (hk : Keeps s0 s) :
    Keeps s0 (State.setEntry s g f m) := by
  unfold State.setEntry
  try dsimp only
  repeat' (first
    | with_reducible assumption
    | with_reducible apply Keeps.ite
    | with_reducible apply Keeps.iteFst
    | split
    | with_reducible apply Keeps.lit)

theorem State.passEntries_keeps {s0 : State} {s : State} {g : Nat} {z0 : List Nat} (hk : Keeps s0 s) :
    Keeps s0 (State.passEntries s g z0) := by
  induction z0 generalizing s g with
  | nil => unfold State.passEntries; first | exact hk | (split <;> exact hk) | exact Keeps.lit hk
  | cons a l ih =>
    unfold State.passEntries
    try dsimp only
    repeat' (first
      | with_reducible assumption
      | with_reducible apply ih
      | with_reducible apply State.setEntry_keeps
      | split
      | with_reducible apply Keeps.lit)

theorem State.passModule_keeps {s0 : State} {s : State} {g m : Nat} (hk : Keeps s0 s) :
    Keeps s0 (State.passModule s g m) := by
  unfold State.passModule
  try dsimp only
  repeat' (first
    | with_reducible assumption
    | with_reducible apply State.passEntries_keeps
    | split
    | with_reducible apply Keeps.lit)

theorem State.resteer_keeps {s0 : State} {s : State} {g : Nat} (hk : Keeps s0 s) :
    Keeps s0 (State.resteer s g) := by
  unfold State.resteer
  try dsimp only
  repeat' (first
    | with_reducible assumption
    | (intro _ _ _ _; try dsimp only)
    | (intro _ _ _; try dsimp only)
    | (intro _ _; try dsimp only)
    | with_reducible apply State.setEntry_keeps
    | with_reducible apply State.passModule_keeps
    | with_reducible apply Keeps.iter
    | with_reducible apply Keeps.iterFst
    | with_reducible apply Keeps.foldl
    | with_reducible apply Keeps.foldlFst
    | with_reducible apply Keeps.lit)

theorem State.drEmit_keeps {s0 : State} {s : State} {m : Nat} {k : DrPkt} (hk : Keeps s0 s) :
    Keeps s0 (State.drEmit s m k) := by
  unfold State.drEmit
  try dsimp only
  repeat' (first
    | with_reducible assumption
    | (intro _ _ _ _; try dsimp only)
    | (intro _ _ _; try dsimp only)
    | (intro _ _; try dsimp only)
    | with_reducible apply State.send_keeps
    | with_reducible apply State.modDmod_keeps
    | with_reducible apply Keeps.foldl
    | with_reducible apply Keeps.foldlFst
    | with_reducible apply Keeps.ite
    | with_reducible apply Keeps.iteFst
    | split
    | with_reducible apply Keeps.lit)

theorem State.drPump_keeps {s0 : State} {s : State} {blocked : List Nat} {z0 : List DrPkt} (hk : Keeps s0 s) :
    Keeps s0 (State.drPump s blocked z0) := by
  induction z0 generalizing s blocked with
  | nil => unfold State.drPump; first | exact hk | (split <;> exact hk) | exact Keeps.lit hk
  | cons a l ih =>
    unfold State.drPump
    try dsimp only
    repeat' (first
      | with_reducible assumption
      | with_reducible apply ih
      | with_reducible apply State.again_keeps
      | with_reducible apply State.drEmit_keeps
      | with_reducible apply Keeps.ite
      | with_reducible apply Keeps.iteFst
      | split
      | with_reducible apply Keeps.lit)

theorem State.drGo_keeps {s0 : State} {s : State} (hk : Keeps s0 s) :
    Keeps s0 (State.drGo s) := by
  unfold State.drGo
  repeat' (first
    | with_reducible assumption
    | with_reducible apply State.drPump_keeps
    | with_reducible apply Keeps.lit)

theorem State.drSend_keeps {s0 : State} {s : State} {k : DrPkt} (hk : Keeps s0 s) :
    Keeps s0 (State.drSend s k) := by
  unfold State.drSend
  repeat' (first
    | with_reducible assumption
    | with_reducible apply State.drGo_keeps
    | with_reducible apply Keeps.lit)

theorem State.drFree_keeps {s0 : State} {s : State} {g m c n : Nat} (hk : Keeps s0 s) :
    Keeps s0 (State.drFree s g m c n) := by
  unfold State.drFree
  try dsimp only
  repeat' (first
    | with_reducible assumption
    | (intro _ _ _ _; try dsimp only)
    | (intro _ _ _; try dsimp only)
    | (intro _ _; try dsimp only)
    | with_reducible apply State.drSend_keeps
    | with_reducible apply Keeps.foldl
    | with_reducible apply Keeps.foldlFst
    | with_reducible apply Keeps.ite
    | with_reducible apply Keeps.iteFst
    | split
    | with_reducible apply Keeps.lit)

theorem State.fence_keeps {s0 : State} {s : State} {g m cause : Nat} (hk : Keeps s0 s) :
    Keeps s0 (State.fence s g m cause) := by
  unfold State.fence
  try dsimp only
  repeat' (first
    | with_reducible assumption
    | with_reducible apply State.setRf_keeps
    | with_reducible apply State.pulse_keeps
    | with_reducible apply State.modDmod_keeps
    | with_reducible apply State.d2dJournal_keeps
    | with_reducible apply State.judgeGroup_keeps
    | with_reducible apply State.passModule_keeps
    | with_reducible apply State.drGo_keeps
    | with_reducible apply Keeps.lit)

theorem State.beginTrain_keeps {s0 : State} {s : State} {g m from' : Nat} (hk : Keeps s0 s) :
    Keeps s0 (State.beginTrain s g m from') := by
  unfold State.beginTrain
  try dsimp only
  repeat' (first
    | with_reducible assumption
    | with_reducible apply State.setRf_keeps
    | with_reducible apply State.modDmod_keeps
    | with_reducible apply State.judgeGroup_keeps
    | with_reducible apply Keeps.lit)

theorem State.failAttempt_keeps {s0 : State} {s : State} {g m : Nat} (hk : Keeps s0 s) :
    Keeps s0 (State.failAttempt s g m) := by
  unfold State.failAttempt
  try dsimp only
  repeat' (first
    | with_reducible assumption
    | with_reducible apply State.setReg_keeps
    | with_reducible apply State.setRf_keeps
    | with_reducible apply State.modDmod_keeps
    | with_reducible apply State.judgeGroup_keeps
    | with_reducible apply State.fence_keeps
    | with_reducible apply Keeps.ite
    | with_reducible apply Keeps.iteFst
    | split
    | with_reducible apply Keeps.lit)

theorem State.laneTest_keeps {s0 : State} {s : State} {g m : Nat} {failed : W64} {spareFailed : BitVec 4}
    (hk : Keeps s0 s) :
    Keeps s0 (State.laneTest s g m failed spareFailed) := by
  unfold State.laneTest
  try dsimp only
  repeat' (first
    | with_reducible assumption
    | with_reducible apply State.setReg_keeps
    | with_reducible apply State.setRf_keeps
    | with_reducible apply State.pulse_keeps
    | with_reducible apply State.modDmod_keeps
    | with_reducible apply State.d2dJournal_keeps
    | with_reducible apply State.judgeGroup_keeps
    | with_reducible apply State.passModule_keeps
    | with_reducible apply State.fence_keeps
    | with_reducible apply Keeps.ite
    | with_reducible apply Keeps.iteFst
    | split
    | with_reducible apply Keeps.lit
    | refine Keeps.ofPair (by with_reducible assumption) ?_)

theorem State.retrainNote_keeps {s0 : State} {s : State} {g : Nat} (hk : Keeps s0 s) :
    Keeps s0 (State.retrainNote s g) := by
  unfold State.retrainNote
  repeat' (first
    | with_reducible assumption
    | with_reducible apply State.bump_keeps
    | with_reducible apply State.pulse_keeps
    | with_reducible apply State.d2dJournal_keeps
    | with_reducible apply Keeps.lit)

theorem State.retrain_keeps {s0 : State} {s : State} {g m : Nat} (hk : Keeps s0 s) :
    Keeps s0 (State.retrain s g m) := by
  unfold State.retrain
  try dsimp only
  repeat' (first
    | with_reducible assumption
    | with_reducible apply State.setRf_keeps
    | with_reducible apply State.modDmod_keeps
    | with_reducible apply State.judgeGroup_keeps
    | with_reducible apply State.retrainNote_keeps
    | with_reducible apply Keeps.ite
    | with_reducible apply Keeps.iteFst
    | split
    | with_reducible apply Keeps.lit)

theorem execD2dTrainStateTimeout_answers {s0 : State} {g m : Nat} {s : State} (hk : Keeps s0 s) :
    Answers s0 (execD2dTrainStateTimeout g m s) := by
  unfold execD2dTrainStateTimeout
  repeat' (first
    | with_reducible assumption
    | with_reducible apply State.failAttempt_keeps
    | with_reducible apply ret_answers
    | with_reducible apply Keeps.ite
    | with_reducible apply Keeps.iteFst
    | split
    | with_reducible apply Keeps.lit)

theorem execD2dTrainActive_answers {s0 : State} {g m : Nat} {failed : BitVec 64} {spareFailed : BitVec 4}
    {s : State} (hk : Keeps s0 s) :
    Answers s0 (execD2dTrainActive g m failed spareFailed s) := by
  unfold execD2dTrainActive
  try dsimp only
  repeat' (first
    | with_reducible assumption
    | with_reducible apply State.resteer_keeps
    | with_reducible apply State.drGo_keeps
    | with_reducible apply State.laneTest_keeps
    | with_reducible apply ret_answers
    | with_reducible apply Keeps.ite
    | with_reducible apply Keeps.iteFst
    | split
    | with_reducible apply Keeps.lit)

theorem execD2dStateReport_answers {s0 : State} {g m : Nat} {r : StateReport} {s : State} (hk : Keeps s0 s) :
    Answers s0 (execD2dStateReport g m r s) := by
  unfold execD2dStateReport
  try dsimp only
  repeat' (first
    | with_reducible assumption
    | with_reducible apply State.beginTrain_keeps
    | with_reducible apply State.failAttempt_keeps
    | with_reducible apply ret_answers
    | with_reducible apply Keeps.ite
    | with_reducible apply Keeps.iteFst
    | split
    | with_reducible apply Keeps.lit)

theorem execD2dFlitRx_answers {s0 : State} {g m : Nat} {x : FlitCheck} {s : State} (hk : Keeps s0 s) :
    Answers s0 (execD2dFlitRx g m x s) := by
  unfold execD2dFlitRx
  try dsimp only
  repeat' (first
    | with_reducible assumption
    | with_reducible apply State.bump_keeps
    | with_reducible apply State.modDmod_keeps
    | with_reducible apply State.retrain_keeps
    | with_reducible apply ret_answers
    | with_reducible apply Keeps.ite
    | with_reducible apply Keeps.iteFst
    | split
    | with_reducible apply Keeps.lit
    | refine Keeps.ofPair (by with_reducible assumption) ?_)

theorem execD2dRetrainDone_answers {s0 : State} {g m : Nat} {failed : BitVec 64} {spareFailed : BitVec 4}
    {s : State} (hk : Keeps s0 s) :
    Answers s0 (execD2dRetrainDone g m failed spareFailed s) := by
  unfold execD2dRetrainDone
  repeat' (first
    | with_reducible assumption
    | with_reducible apply State.drGo_keeps
    | with_reducible apply State.laneTest_keeps
    | with_reducible apply ret_answers
    | with_reducible apply Keeps.ite
    | with_reducible apply Keeps.iteFst
    | split
    | with_reducible apply Keeps.lit)

theorem execD2dMarginRead_answers {s0 : State} {g m : Nat} {low : BitVec 64} {s : State} (hk : Keeps s0 s) :
    Answers s0 (execD2dMarginRead g m low s) := by
  unfold execD2dMarginRead
  try dsimp only
  repeat' (first
    | with_reducible assumption
    | with_reducible apply State.bump_keeps
    | with_reducible apply State.modDmod_keeps
    | with_reducible apply State.retrain_keeps
    | with_reducible apply ret_answers
    | with_reducible apply Keeps.ite
    | with_reducible apply Keeps.iteFst
    | split
    | with_reducible apply Keeps.lit)

theorem execFlowRelease_answers {s0 : State} {g flow : Nat} {s : State} (hk : Keeps s0 s) :
    Answers s0 (execFlowRelease g flow s) := by
  unfold execFlowRelease
  try dsimp only
  repeat' (first
    | with_reducible assumption
    | with_reducible apply State.again_keeps
    | with_reducible apply State.drGo_keeps
    | with_reducible apply ret_answers
    | with_reducible apply Keeps.ite
    | with_reducible apply Keeps.iteFst
    | split
    | with_reducible apply Keeps.lit)

theorem State.roleStart_keeps {s0 : State} {s : State} {g m : Nat} (hk : Keeps s0 s) :
    Keeps s0 (State.roleStart s g m) := by
  unfold State.roleStart
  try dsimp only
  repeat' (first
    | with_reducible assumption
    | with_reducible apply State.send_keeps
    | with_reducible apply State.modDmod_keeps
    | with_reducible apply Keeps.lit)

theorem State.answerRole_keeps {s0 : State} {s : State} {g m : Nat} (hk : Keeps s0 s) :
    Keeps s0 (State.answerRole s g m) := by
  unfold State.answerRole
  try dsimp only
  repeat' (first
    | with_reducible assumption
    | (intro _ _ _ _; try dsimp only)
    | (intro _ _ _; try dsimp only)
    | (intro _ _; try dsimp only)
    | with_reducible apply State.setReg_keeps
    | with_reducible apply State.setRf_keeps
    | with_reducible apply State.send_keeps
    | with_reducible apply State.modDmod_keeps
    | with_reducible apply State.drGo_keeps
    | with_reducible apply State.fence_keeps
    | with_reducible apply State.beginTrain_keeps
    | with_reducible apply Keeps.foldl
    | with_reducible apply Keeps.foldlFst
    | with_reducible apply Keeps.ite
    | with_reducible apply Keeps.iteFst
    | split
    | with_reducible apply Keeps.lit)

theorem State.partnerViol_keeps {s0 : State} {s : State} {g : Nat} (hk : Keeps s0 s) :
    Keeps s0 (State.partnerViol s g) := by
  unfold State.partnerViol
  repeat' (first
    | with_reducible assumption
    | with_reducible apply State.bump_keeps
    | with_reducible apply State.pulse_keeps
    | with_reducible apply Keeps.lit)

theorem State.sidebandBreach_keeps {s0 : State} {s : State} {g m : Nat} (hk : Keeps s0 s) :
    Keeps s0 (State.sidebandBreach s g m) := by
  unfold State.sidebandBreach
  try dsimp only
  repeat' (first
    | with_reducible assumption
    | with_reducible apply State.modDmod_keeps
    | with_reducible apply State.retrainNote_keeps
    | with_reducible apply State.retrain_keeps
    | with_reducible apply State.roleStart_keeps
    | with_reducible apply State.partnerViol_keeps
    | with_reducible apply Keeps.ite
    | with_reducible apply Keeps.iteFst
    | split
    | with_reducible apply Keeps.lit)

theorem execRoleAdv_answers {s0 : State} {g m : Nat} {payload : W64} {s : State} (hk : Keeps s0 s) :
    Answers s0 (execRoleAdv g m payload s) := by
  unfold execRoleAdv
  try dsimp only
  repeat' (first
    | with_reducible assumption
    | with_reducible apply State.modDmod_keeps
    | with_reducible apply State.answerRole_keeps
    | with_reducible apply State.sidebandBreach_keeps
    | with_reducible apply ret_answers
    | with_reducible apply Keeps.ite
    | with_reducible apply Keeps.iteFst
    | split
    | with_reducible apply Keeps.lit)

theorem execRoleCred_answers {s0 : State} {g m : Nat} {payload : W64} {s : State} (hk : Keeps s0 s) :
    Answers s0 (execRoleCred g m payload s) := by
  unfold execRoleCred
  try dsimp only
  repeat' (first
    | with_reducible assumption
    | with_reducible apply State.modDmod_keeps
    | with_reducible apply State.answerRole_keeps
    | with_reducible apply State.sidebandBreach_keeps
    | with_reducible apply ret_answers
    | with_reducible apply Keeps.ite
    | with_reducible apply Keeps.iteFst
    | split
    | with_reducible apply Keeps.lit)

theorem execRoleAck_answers {s0 : State} {g m : Nat} {s : State} (hk : Keeps s0 s) :
    Answers s0 (execRoleAck g m s) := by
  unfold execRoleAck
  repeat' (first
    | with_reducible assumption
    | with_reducible apply State.sidebandBreach_keeps
    | with_reducible apply ret_answers
    | with_reducible apply Keeps.ite
    | with_reducible apply Keeps.iteFst
    | split
    | with_reducible apply Keeps.lit)

theorem execRoleNak_answers {s0 : State} {g m reason : Nat} {s : State} (hk : Keeps s0 s) :
    Answers s0 (execRoleNak g m reason s) := by
  unfold execRoleNak
  repeat' (first
    | with_reducible assumption
    | with_reducible apply State.fence_keeps
    | with_reducible apply ret_answers
    | with_reducible apply Keeps.ite
    | with_reducible apply Keeps.iteFst
    | split
    | with_reducible apply Keeps.lit)

theorem execRoleTimeout_answers {s0 : State} {g m : Nat} {s : State} (hk : Keeps s0 s) :
    Answers s0 (execRoleTimeout g m s) := by
  unfold execRoleTimeout
  try dsimp only
  repeat' (first
    | with_reducible assumption
    | with_reducible apply State.modDmod_keeps
    | with_reducible apply State.fence_keeps
    | with_reducible apply State.roleStart_keeps
    | with_reducible apply ret_answers
    | with_reducible apply Keeps.ite
    | with_reducible apply Keeps.iteFst
    | split
    | with_reducible apply Keeps.lit)

theorem State.retrainAll_keeps {s0 : State} {s : State} {g : Nat} (hk : Keeps s0 s) :
    Keeps s0 (State.retrainAll s g) := by
  unfold State.retrainAll
  try dsimp only
  repeat' (first
    | with_reducible assumption
    | (intro _ _ _ _; try dsimp only)
    | (intro _ _ _; try dsimp only)
    | (intro _ _; try dsimp only)
    | with_reducible apply State.setReg_keeps
    | with_reducible apply State.bump_keeps
    | with_reducible apply State.pulse_keeps
    | with_reducible apply State.modDmod_keeps
    | with_reducible apply State.d2dJournal_keeps
    | with_reducible apply State.judgeGroup_keeps
    | with_reducible apply State.roleStart_keeps
    | with_reducible apply Keeps.foldl
    | with_reducible apply Keeps.foldlFst
    | with_reducible apply Keeps.ite
    | with_reducible apply Keeps.iteFst
    | split
    | with_reducible apply Keeps.lit)

theorem execRetrainAll_answers {s0 : State} {g : Nat} {s : State} (hk : Keeps s0 s) :
    Answers s0 (execRetrainAll g s) := by
  unfold execRetrainAll
  repeat' (first
    | with_reducible assumption
    | with_reducible apply State.retrainAll_keeps
    | with_reducible apply ret_answers
    | with_reducible apply Keeps.ite
    | with_reducible apply Keeps.iteFst
    | split
    | with_reducible apply Keeps.lit)

theorem State.drNotice_keeps {s0 : State} {s : State} {g : Nat} {h : BitVec 128} (hk : Keeps s0 s) :
    Keeps s0 (State.drNotice s g h) := by
  unfold State.drNotice
  repeat' (first
    | with_reducible assumption
    | with_reducible apply State.drSend_keeps
    | with_reducible apply Keeps.lit)

theorem State.drCheck_keeps {s0 : State} {s : State} {g m : Nat} {h : BitVec 128} (hk : Keeps s0 s) :
    Keeps s0 (State.drCheck s g m h).1 := by
  unfold State.drCheck
  try dsimp only
  repeat' (first
    | with_reducible assumption
    | (intro _ _ _ _; try dsimp only)
    | (intro _ _ _; try dsimp only)
    | (intro _ _; try dsimp only)
    | with_reducible apply State.drFree_keeps
    | with_reducible apply State.retrain_keeps
    | with_reducible apply State.partnerViol_keeps
    | with_reducible apply State.drNotice_keeps
    | with_reducible apply Keeps.foldl
    | with_reducible apply Keeps.foldlFst
    | with_reducible apply Keeps.ite
    | with_reducible apply Keeps.iteFst
    | split
    | with_reducible apply Keeps.lit)

theorem State.drViol_keeps {s0 : State} {s : State} {g : Nat} {h : BitVec 128} {a : Nat} (hk : Keeps s0 s) :
    Keeps s0 (State.drViol s g h a) := by
  unfold State.drViol
  try dsimp only
  repeat' (first
    | with_reducible assumption
    | with_reducible apply State.bump_keeps
    | with_reducible apply State.sourceViol_keeps
    | with_reducible apply Keeps.ite
    | with_reducible apply Keeps.iteFst
    | split
    | with_reducible apply Keeps.lit)

theorem execRdReq_answers {s0 : State} {g m : Nat} {hdr : BitVec 128} {par : Option Nat} {s : State}
    (hk : Keeps s0 s) :
    Answers s0 (execRdReq g m hdr par s) := by
  unfold execRdReq
  try dsimp only
  repeat' (first
    | with_reducible assumption
    | with_reducible apply State.parityFault_keeps
    | with_reducible apply State.store_keeps
    | with_reducible apply State.drSend_keeps
    | with_reducible apply State.drCheck_keeps
    | with_reducible apply State.drViol_keeps
    | with_reducible apply ret_answers
    | with_reducible apply Keeps.ite
    | with_reducible apply Keeps.iteFst
    | split
    | with_reducible apply Keeps.lit)

theorem execWrReq_answers {s0 : State} {g m : Nat} {hdr : BitVec 128} {payload : Bytes} {tail : W64} {s : State}
    (hk : Keeps s0 s) :
    Answers s0 (execWrReq g m hdr payload tail s) := by
  unfold execWrReq
  try dsimp only
  repeat' (first
    | with_reducible assumption
    | with_reducible apply State.setChk_keeps
    | with_reducible apply State.store_keeps
    | with_reducible apply State.drSend_keeps
    | with_reducible apply State.drCheck_keeps
    | with_reducible apply State.drViol_keeps
    | with_reducible apply ret_answers
    | with_reducible apply Keeps.ite
    | with_reducible apply Keeps.iteFst
    | split
    | with_reducible apply Keeps.lit)

theorem State.drReply_keeps {s0 : State} {s : State} {g m : Nat} {hdr : BitVec 128} (hk : Keeps s0 s) :
    Keeps s0 (State.drReply s g m hdr) := by
  unfold State.drReply
  try dsimp only
  repeat' (first
    | with_reducible assumption
    | with_reducible apply State.partnerViol_keeps
    | with_reducible apply State.drCheck_keeps
    | with_reducible apply Keeps.ite
    | with_reducible apply Keeps.iteFst
    | split
    | with_reducible apply Keeps.lit)

theorem execRdRsp_answers {s0 : State} {g m : Nat} {hdr : BitVec 128} {payload : Bytes} {tail : W64} {s : State}
    (hk : Keeps s0 s) :
    Answers s0 (execRdRsp g m hdr payload tail s) := by
  unfold execRdRsp
  try dsimp only
  repeat' (first
    | with_reducible assumption
    | with_reducible apply State.drReply_keeps
    | with_reducible apply ret_answers
    | with_reducible apply Keeps.lit)

theorem execWrAck_answers {s0 : State} {g m : Nat} {hdr : BitVec 128} {s : State} (hk : Keeps s0 s) :
    Answers s0 (execWrAck g m hdr s) := by
  unfold execWrAck
  repeat' (first
    | with_reducible assumption
    | with_reducible apply State.drReply_keeps
    | with_reducible apply ret_answers
    | with_reducible apply Keeps.lit)

theorem execCredit_answers {s0 : State} {g m : Nat} {payload : Bytes} {s : State} (hk : Keeps s0 s) :
    Answers s0 (execCredit g m payload s) := by
  unfold execCredit
  try dsimp only
  repeat' (first
    | with_reducible assumption
    | (intro _ _ _ _; try dsimp only)
    | (intro _ _ _; try dsimp only)
    | (intro _ _; try dsimp only)
    | with_reducible apply State.modDmod_keeps
    | with_reducible apply State.drGo_keeps
    | with_reducible apply State.drFree_keeps
    | with_reducible apply Keeps.foldl
    | with_reducible apply Keeps.foldlFst
    | with_reducible apply ret_answers
    | with_reducible apply Keeps.ite
    | with_reducible apply Keeps.iteFst
    | split
    | with_reducible apply Keeps.lit)

theorem execMgmt_answers {s0 : State} {g m : Nat} {hdr : BitVec 128} {payload : Bytes} {s : State} (hk : Keeps s0 s) :
    Answers s0 (execMgmt g m hdr payload s) := by
  unfold execMgmt
  try dsimp only
  repeat' (first
    | with_reducible assumption
    | with_reducible apply State.drCheck_keeps
    | with_reducible apply ret_answers
    | with_reducible apply Keeps.ite
    | with_reducible apply Keeps.iteFst
    | split
    | with_reducible apply Keeps.lit)

end Sys2Proof.Machine
end

