-- ==== Sys2Proof/Laws/Keeps/Control.lean ====
section
/-! SUPPORT. What no operation or command of Machine/Control.lean takes away. -/

namespace Sys2Proof.Machine

set_option linter.unusedTactic false
set_option linter.unreachableTactic false

theorem State.pendSetOne_keeps {s0 : State} {s : State} {n : Nat} (hk : Keeps s0 s) :
    Keeps s0 (State.pendSetOne s n) := by
  unfold State.pendSetOne
  try dsimp only
  repeat' (first
    | with_reducible assumption
    | with_reducible apply State.fire_keeps
    | with_reducible apply Keeps.ite
    | with_reducible apply Keeps.iteFst
    | split
    | with_reducible apply Keeps.lit)

theorem State.pendClrOne_keeps {s0 : State} {s : State} {n : Nat} {claim : Bool} (hk : Keeps s0 s) :
    Keeps s0 (State.pendClrOne s n claim) := by
  unfold State.pendClrOne
  try dsimp only
  repeat' (first
    | with_reducible assumption
    | with_reducible apply State.setPend_keeps
    | with_reducible apply Keeps.ite
    | with_reducible apply Keeps.iteFst
    | split
    | with_reducible apply Keeps.lit)

theorem State.eachBit_keeps {s0 : State} {s : State} {m : Nat} {v : W64} {f : State → Nat → State}
    (hf : ∀ y0 y1, Keeps s0 y0 → Keeps s0 (f y0 y1)) (hk : Keeps s0 s) :
    Keeps s0 (State.eachBit s m v f) := by
  unfold State.eachBit
  try dsimp only
  repeat' (first
    | with_reducible assumption
    | (intro _ _ _ _; try dsimp only)
    | (intro _ _ _; try dsimp only)
    | (intro _ _; try dsimp only)
    | with_reducible apply Keeps.iter
    | with_reducible apply Keeps.iterFst
    | with_reducible apply hf
    | with_reducible apply Keeps.ite
    | with_reducible apply Keeps.iteFst
    | split
    | with_reducible apply Keeps.lit)

theorem execPendSet_answers {s0 : State} {m : Nat} {v : W64} {s : State} (hk : Keeps s0 s) :
    Answers s0 (execPendSet m v s) := by
  unfold execPendSet
  try dsimp only
  repeat' (first
    | with_reducible assumption
    | (intro _ _ _ _; try dsimp only)
    | (intro _ _ _; try dsimp only)
    | (intro _ _; try dsimp only)
    | with_reducible apply State.pendSetOne_keeps
    | with_reducible apply State.eachBit_keeps
    | with_reducible apply ret_answers
    | with_reducible apply Keeps.ite
    | with_reducible apply Keeps.iteFst
    | split
    | with_reducible apply Keeps.lit)

theorem execPendClr_answers {s0 : State} {m : Nat} {v : W64} {s : State} (hk : Keeps s0 s) :
    Answers s0 (execPendClr m v s) := by
  unfold execPendClr
  try dsimp only
  repeat' (first
    | with_reducible assumption
    | (intro _ _ _ _; try dsimp only)
    | (intro _ _ _; try dsimp only)
    | (intro _ _; try dsimp only)
    | with_reducible apply State.pendClrOne_keeps
    | with_reducible apply State.eachBit_keeps
    | with_reducible apply ret_answers
    | with_reducible apply Keeps.ite
    | with_reducible apply Keeps.iteFst
    | split
    | with_reducible apply Keeps.lit)

theorem State.claim_keeps {s0 : State} {s : State} {t : Nat} (hk : Keeps s0 s) :
    Keeps s0 (State.claim s t).2 := by
  unfold State.claim
  try dsimp only
  repeat' (first
    | with_reducible assumption
    | with_reducible apply State.pendClrOne_keeps
    | split
    | with_reducible apply Keeps.lit)

theorem execEvcClaim_answers {s0 : State} {t : Nat} {s : State} (hk : Keeps s0 s) :
    Answers s0 (execEvcClaim t s) := by
  unfold execEvcClaim
  try dsimp only
  repeat' (first
    | with_reducible assumption
    | with_reducible apply State.send_keeps
    | with_reducible apply State.claim_keeps
    | with_reducible apply ret_answers
    | with_reducible apply Keeps.ite
    | with_reducible apply Keeps.iteFst
    | split
    | with_reducible apply Keeps.lit)

theorem State.vecArm_keeps {s0 : State} {s : State} {v : W64} (hk : Keeps s0 s) :
    Keeps s0 (State.vecArm s v) := by
  unfold State.vecArm
  try dsimp only
  repeat' (first
    | with_reducible assumption
    | (intro _ _ _ _; try dsimp only)
    | (intro _ _ _; try dsimp only)
    | (intro _ _; try dsimp only)
    | with_reducible apply State.setRbit_keeps
    | with_reducible apply State.sendVec_keeps
    | with_reducible apply Keeps.iter
    | with_reducible apply Keeps.iterFst
    | with_reducible apply Keeps.ite
    | with_reducible apply Keeps.iteFst
    | split
    | with_reducible apply Keeps.lit)

theorem execEvcVecArm_answers {s0 : State} {v : BitVec 32} {s : State} (hk : Keeps s0 s) :
    Answers s0 (execEvcVecArm v s) := by
  unfold execEvcVecArm
  repeat' (first
    | with_reducible assumption
    | with_reducible apply State.vecArm_keeps
    | with_reducible apply ret_answers
    | with_reducible apply Keeps.lit)

theorem State.unmask_keeps {s0 : State} {s : State} {v : Nat} (hk : Keeps s0 s) :
    Keeps s0 (State.unmask s v) := by
  unfold State.unmask
  try dsimp only
  repeat' (first
    | with_reducible assumption
    | with_reducible apply State.setRbit_keeps
    | with_reducible apply State.sendVec_keeps
    | with_reducible apply Keeps.ite
    | with_reducible apply Keeps.iteFst
    | split
    | with_reducible apply Keeps.lit)

theorem execMsixUnmask_answers {s0 : State} {v : Nat} {s : State} (hk : Keeps s0 s) :
    Answers s0 (execMsixUnmask v s) := by
  unfold execMsixUnmask
  repeat' (first
    | with_reducible assumption
    | with_reducible apply State.unmask_keeps
    | with_reducible apply ret_answers
    | with_reducible apply Keeps.ite
    | with_reducible apply Keeps.iteFst
    | split
    | with_reducible apply Keeps.lit)

theorem State.srcCfg_keeps {s0 : State} {s : State} {n : Nat} {v : W64} (hk : Keeps s0 s) :
    Keeps s0 (State.srcCfg s n v) := by
  unfold State.srcCfg
  try dsimp only
  repeat' (first
    | with_reducible assumption
    | with_reducible apply State.rwReg_keeps
    | with_reducible apply State.deliver_keeps
    | with_reducible apply State.setLevel_keeps
    | with_reducible apply Keeps.ite
    | with_reducible apply Keeps.iteFst
    | split
    | with_reducible apply Keeps.lit)

theorem execEventInputChange_answers {s0 : State} {n : Nat} {level : Bool} {s : State} (hk : Keeps s0 s) :
    Answers s0 (execEventInputChange n level s) := by
  unfold execEventInputChange
  repeat' (first
    | with_reducible assumption
    | with_reducible apply State.setLevel_keeps
    | with_reducible apply ret_answers
    | with_reducible apply Keeps.ite
    | with_reducible apply Keeps.iteFst
    | split
    | with_reducible apply Keeps.lit)

theorem execPcieLinkStateChange_answers {s0 : State} {s : State} (hk : Keeps s0 s) :
    Answers s0 (execPcieLinkStateChange s) := by
  unfold execPcieLinkStateChange
  repeat' (first
    | with_reducible assumption
    | with_reducible apply State.pulse_keeps
    | with_reducible apply ret_answers
    | with_reducible apply Keeps.lit)

theorem execWatchdogExpiry_answers {s0 : State} {hart : Nat} {s : State} (hk : Keeps s0 s) :
    Answers s0 (execWatchdogExpiry hart s) := by
  unfold execWatchdogExpiry
  try dsimp only
  repeat' (first
    | with_reducible assumption
    | (intro _ _ _ _; try dsimp only)
    | (intro _ _ _; try dsimp only)
    | (intro _ _; try dsimp only)
    | with_reducible apply State.setRf_keeps
    | with_reducible apply State.setRbit_keeps
    | with_reducible apply State.pulse_keeps
    | with_reducible apply State.setLevel_keeps
    | with_reducible apply State.journalOpen_keeps
    | with_reducible apply Keeps.iter
    | with_reducible apply Keeps.iterFst
    | with_reducible apply ret_answers
    | with_reducible apply Keeps.ite
    | with_reducible apply Keeps.iteFst
    | split
    | with_reducible apply Keeps.lit)

theorem State.inHit_keeps {s0 : State} {s : State} {c : Nat} (hk : Keeps s0 s) :
    Keeps s0 (State.inHit s c) := by
  unfold State.inHit
  repeat' (first
    | with_reducible assumption
    | with_reducible apply State.setRbit_keeps
    | with_reducible apply Keeps.ite
    | with_reducible apply Keeps.iteFst
    | split
    | with_reducible apply Keeps.lit)

theorem State.chimeSignal_keeps {s0 : State} {s : State} {c n : Nat} (hk : Keeps s0 s) :
    Keeps s0 (State.chimeSignal s c n) := by
  unfold State.chimeSignal
  repeat' (first
    | with_reducible assumption
    | with_reducible apply State.signal_keeps
    | with_reducible apply Keeps.ite
    | with_reducible apply Keeps.iteFst
    | split
    | with_reducible apply Keeps.lit)

theorem State.setChimes_keeps {s0 : State} {s : State} {c : Nat} {ch : BitVec 32} (hk : Keeps s0 s) :
    Keeps s0 (State.setChimes s c ch) := by
  unfold State.setChimes
  try dsimp only
  repeat' (first
    | with_reducible assumption
    | with_reducible apply State.setRf_keeps
    | with_reducible apply State.chimeSignal_keeps
    | with_reducible apply Keeps.lit)

theorem State.inData_keeps {s0 : State} {s : State} {c n : Nat} {v : W64} (hk : Keeps s0 s) :
    Keeps s0 (State.inData s c n v) := by
  unfold State.inData
  repeat' (first
    | with_reducible assumption
    | with_reducible apply State.setReg_keeps
    | with_reducible apply State.inHit_keeps
    | with_reducible apply Keeps.lit)

theorem State.inRing_keeps {s0 : State} {s : State} {c : Nat} {v : W64} (hk : Keeps s0 s) :
    Keeps s0 (State.inRing s c v) := by
  unfold State.inRing
  try dsimp only
  repeat' (first
    | with_reducible assumption
    | with_reducible apply State.setRbit_keeps
    | with_reducible apply State.inHit_keeps
    | with_reducible apply State.setChimes_keeps
    | with_reducible apply Keeps.ite
    | with_reducible apply Keeps.iteFst
    | split
    | with_reducible apply Keeps.lit)

theorem State.trigger_keeps {s0 : State} {s : State} {c : Nat} {data : List W64} {chime rsem rinc : Nat}
    (hk : Keeps s0 s) :
    Keeps s0 (State.trigger s c data chime rsem rinc) := by
  unfold State.trigger
  try dsimp only
  repeat' (first
    | with_reducible assumption
    | (intro _ _ _ _; try dsimp only)
    | (intro _ _ _; try dsimp only)
    | (intro _ _; try dsimp only)
    | with_reducible apply State.setReg_keeps
    | with_reducible apply State.setRbit_keeps
    | with_reducible apply State.signal_keeps
    | with_reducible apply State.inHit_keeps
    | with_reducible apply State.setChimes_keeps
    | with_reducible apply Keeps.iter
    | with_reducible apply Keeps.iterFst
    | with_reducible apply Keeps.ite
    | with_reducible apply Keeps.iteFst
    | split
    | with_reducible apply Keeps.lit)

theorem execMbxInRing_answers {s0 : State} {c : Nat} {v : W64} {s : State} (hk : Keeps s0 s) :
    Answers s0 (execMbxInRing c v s) := by
  unfold execMbxInRing
  repeat' (first
    | with_reducible assumption
    | with_reducible apply State.inRing_keeps
    | with_reducible apply ret_answers
    | with_reducible apply Keeps.ite
    | with_reducible apply Keeps.iteFst
    | split
    | with_reducible apply Keeps.lit)

theorem execMbxInDataWrite_answers {s0 : State} {c n : Nat} {v : W64} {s : State} (hk : Keeps s0 s) :
    Answers s0 (execMbxInDataWrite c n v s) := by
  unfold execMbxInDataWrite
  repeat' (first
    | with_reducible assumption
    | with_reducible apply State.inData_keeps
    | with_reducible apply ret_answers
    | with_reducible apply Keeps.ite
    | with_reducible apply Keeps.iteFst
    | split
    | with_reducible apply Keeps.lit)

theorem State.maskWrite_keeps {s0 : State} {s : State} {c : Nat} {v : BitVec 32} (hk : Keeps s0 s) :
    Keeps s0 (State.maskWrite s c v) := by
  unfold State.maskWrite
  try dsimp only
  repeat' (first
    | with_reducible assumption
    | with_reducible apply State.setRf_keeps
    | with_reducible apply State.chimeSignal_keeps
    | with_reducible apply Keeps.lit)

theorem execMbxInMaskWrite_answers {s0 : State} {c : Nat} {v : BitVec 32} {s : State} (hk : Keeps s0 s) :
    Answers s0 (execMbxInMaskWrite c v s) := by
  unfold execMbxInMaskWrite
  repeat' (first
    | with_reducible assumption
    | with_reducible apply State.maskWrite_keeps
    | with_reducible apply ret_answers
    | with_reducible apply Keeps.ite
    | with_reducible apply Keeps.iteFst
    | split
    | with_reducible apply Keeps.lit)

theorem State.mboxOut_keeps {s0 : State} {s : State} {c : Nat} {data : List W64} (hk : Keeps s0 s) :
    Keeps s0 (State.mboxOut s c data) := by
  unfold State.mboxOut
  try dsimp only
  repeat' (first
    | with_reducible assumption
    | (intro _ _ _ _; try dsimp only)
    | (intro _ _ _; try dsimp only)
    | (intro _ _; try dsimp only)
    | with_reducible apply State.setReg_keeps
    | with_reducible apply State.setRbit_keeps
    | with_reducible apply State.pulse_keeps
    | with_reducible apply Keeps.iter
    | with_reducible apply Keeps.iterFst
    | with_reducible apply Keeps.ite
    | with_reducible apply Keeps.iteFst
    | split
    | with_reducible apply Keeps.lit)

theorem State.mboxIn_keeps {s0 : State} {s : State} {c off : Nat} (hk : Keeps s0 s) :
    Keeps s0 (State.mboxIn s c off) := by
  unfold State.mboxIn
  try dsimp only
  repeat' (first
    | with_reducible assumption
    | with_reducible apply State.setRf_keeps
    | with_reducible apply State.setRbit_keeps
    | with_reducible apply State.pulse_keeps
    | with_reducible apply State.poke_keeps
    | with_reducible apply State.coreViol_keeps
    | with_reducible apply State.poke_keeps
    | with_reducible apply Keeps.ite
    | with_reducible apply Keeps.iteFst
    | split
    | with_reducible apply Keeps.lit)

theorem State.mbxReset_keeps {s0 : State} {s : State} {c : Nat} (hk : Keeps s0 s) :
    Keeps s0 (State.mbxReset s c) := by
  unfold State.mbxReset
  repeat' (first
    | with_reducible assumption
    | with_reducible apply Keeps.lit
    | with_reducible apply Keeps.litMem
    | with_reducible apply Keeps.litRegs
    | with_reducible apply Keeps.litBoth
    | exact Tab.wf_clear _ _ _ _
    | exact fun hw => Tab.wf_clear _ _ _ _ (Tab.wf_clear _ _ _ _ (Tab.wf_clear _ _ _ _ hw))
    | exact fun _ => Tab.wf_nil _
    | exact Tab.wf_filter _ _ _)

theorem State.hostRing_keeps {s0 : State} {s : State} {crown : Bool} (hk : Keeps s0 s) :
    Keeps s0 (State.hostRing s crown) := by
  unfold State.hostRing
  try dsimp only
  repeat' (first
    | with_reducible assumption
    | with_reducible apply State.setRbit_keeps
    | with_reducible apply Keeps.ite
    | with_reducible apply Keeps.iteFst
    | split
    | with_reducible apply Keeps.lit)

theorem State.hostWrite_keeps {s0 : State} {s : State} {n : Nat} {v : W64} (hk : Keeps s0 s) :
    Keeps s0 (State.hostWrite s n v) := by
  unfold State.hostWrite
  try dsimp only
  repeat' (first
    | with_reducible assumption
    | with_reducible apply State.setReg_keeps
    | with_reducible apply State.setRbit_keeps
    | with_reducible apply Keeps.ite
    | with_reducible apply Keeps.iteFst
    | split
    | with_reducible apply Keeps.lit)

theorem execMbxHostRing_answers {s0 : State} {crown : Bool} {s : State} (hk : Keeps s0 s) :
    Answers s0 (execMbxHostRing crown s) := by
  unfold execMbxHostRing
  repeat' (first
    | with_reducible assumption
    | with_reducible apply State.hostRing_keeps
    | with_reducible apply ret_answers
    | with_reducible apply Keeps.lit)

end Sys2Proof.Machine
end

