-- ==== Sys2Proof/Laws/Keeps/Roseb.lean ====
section
/-! SUPPORT. What no operation or command of Machine/Roseb.lean takes away. -/

namespace Sys2Proof.Machine

set_option linter.unusedTactic false
set_option linter.unreachableTactic false

theorem State.sendReply_keeps {s0 : State} {s : State} {io : Nat} {r : Packet} (hk : Keeps s0 s) :
    Keeps s0 (State.sendReply s io r) := by
  unfold State.sendReply
  try dsimp only
  repeat' (first
    | with_reducible assumption
    | with_reducible apply State.inject_keeps
    | with_reducible apply Keeps.ite
    | with_reducible apply Keeps.iteFst
    | split
    | with_reducible apply Keeps.lit)

theorem State.applyAtomic_keeps {s0 : State} {s : State} {k : Packet} (hk : Keeps s0 s) :
    Keeps s0 (State.applyAtomic s k).1 := by
  unfold State.applyAtomic
  try dsimp only
  repeat' (first
    | with_reducible assumption
    | with_reducible apply State.store_keeps
    | with_reducible apply Keeps.ite
    | with_reducible apply Keeps.iteFst
    | split
    | with_reducible apply Keeps.lit)

theorem State.applyPart_keeps {s0 : State} {s : State} {h : HomeReq} {line : Nat} (hk : Keeps s0 s) :
    Keeps s0 (State.applyPart s h line).1 := by
  unfold State.applyPart
  try dsimp only
  repeat' (first
    | with_reducible assumption
    | with_reducible apply State.store_keeps
    | with_reducible apply State.applyAtomic_keeps
    | with_reducible apply Keeps.ite
    | with_reducible apply Keeps.iteFst
    | split
    | with_reducible apply Keeps.lit)

theorem State.homeFinish_keeps {s0 : State} {s : State} {h : HomeReq} (hk : Keeps s0 s) :
    Keeps s0 (State.homeFinish s h) := by
  unfold State.homeFinish
  try dsimp only
  repeat' (first
    | with_reducible assumption
    | (intro _ _ _ _; try dsimp only)
    | (intro _ _ _; try dsimp only)
    | (intro _ _; try dsimp only)
    | with_reducible apply State.bump_keeps
    | with_reducible apply State.setChk_keeps
    | with_reducible apply State.reportPoison_keeps
    | with_reducible apply State.verifyBlock_keeps
    | with_reducible apply State.sendReply_keeps
    | with_reducible apply Keeps.iter
    | with_reducible apply Keeps.iterFst
    | with_reducible apply Keeps.foldl
    | with_reducible apply Keeps.foldlFst
    | with_reducible apply Keeps.ite
    | with_reducible apply Keeps.iteFst
    | split
    | with_reducible apply Keeps.lit)

theorem State.lineApply_keeps {s0 : State} {s : State} {io line : Nat} (hk : Keeps s0 s) :
    Keeps s0 (State.lineApply s io line) := by
  unfold State.lineApply
  try dsimp only
  repeat' (first
    | with_reducible assumption
    | (intro _ _ _ _; try dsimp only)
    | (intro _ _ _; try dsimp only)
    | (intro _ _; try dsimp only)
    | with_reducible apply State.bump_keeps
    | with_reducible apply State.applyPart_keeps
    | with_reducible apply State.homeFinish_keeps
    | with_reducible apply Keeps.foldl
    | with_reducible apply Keeps.foldlFst
    | with_reducible apply Keeps.ite
    | with_reducible apply Keeps.iteFst
    | split
    | with_reducible apply Keeps.lit)

theorem State.freeReplies_keeps {s0 : State} {s : State} {io : Nat} {k : Packet} (hk : Keeps s0 s) :
    Keeps s0 (State.freeReplies s io k) := by
  unfold State.freeReplies
  try dsimp only
  repeat' (first
    | with_reducible assumption
    | with_reducible apply Keeps.lit
    | refine Keeps.ofPair (by with_reducible assumption) ?_)

theorem State.reqIn_keeps {s0 : State} {s : State} {io : Nat} {k : Packet} (hk : Keeps s0 s) :
    Keeps s0 (State.reqIn s io k) := by
  unfold State.reqIn
  try dsimp only
  repeat' (first
    | with_reducible assumption
    | with_reducible apply State.bump_keeps
    | with_reducible apply State.sendReply_keeps
    | with_reducible apply State.homeFinish_keeps
    | with_reducible apply State.freeReplies_keeps
    | with_reducible apply Keeps.ite
    | with_reducible apply Keeps.iteFst
    | split
    | with_reducible apply Keeps.lit
    | refine Keeps.ofPair (by with_reducible assumption) ?_)

theorem State.rlcTouch_keeps {s0 : State} {s : State} {r : RLine} (hk : Keeps s0 s) :
    Keeps s0 (State.rlcTouch s r) := by
  unfold State.rlcTouch
  try dsimp only
  repeat' (first
    | with_reducible assumption
    | with_reducible apply Keeps.lit)

theorem State.rlcInstall_keeps {s0 : State} {s : State} {r : RLine} (hk : Keeps s0 s) :
    Keeps s0 (State.rlcInstall s r) := by
  unfold State.rlcInstall
  try dsimp only
  repeat' (first
    | with_reducible assumption
    | with_reducible apply State.rlcTouch_keeps
    | split
    | with_reducible apply Keeps.lit)

theorem State.rlcDrop_keeps {s0 : State} {s : State} {die : Nat} {p : Nat → Nat → Bool} (hk : Keeps s0 s) :
    Keeps s0 (State.rlcDrop s die p) := by
  unfold State.rlcDrop
  try dsimp only
  repeat' (first
    | with_reducible assumption
    | with_reducible apply Keeps.lit)

theorem State.rlcWrite_keeps {s0 : State} {s : State} {die pos a : Nat} {d : Bytes} (hk : Keeps s0 s) :
    Keeps s0 (State.rlcWrite s die pos a d) := by
  unfold State.rlcWrite
  try dsimp only
  repeat' (first
    | with_reducible assumption
    | with_reducible apply Keeps.ite
    | with_reducible apply Keeps.iteFst
    | split
    | with_reducible apply Keeps.lit)

theorem execInvAll_answers {s0 : State} {d : Nat} {s : State} (hk : Keeps s0 s) :
    Answers s0 (execInvAll d s) := by
  unfold execInvAll
  try dsimp only
  repeat' (first
    | with_reducible assumption
    | with_reducible apply State.rlcDrop_keeps
    | with_reducible apply ret_answers
    | with_reducible apply Keeps.ite
    | with_reducible apply Keeps.iteFst
    | split
    | with_reducible apply Keeps.lit)

theorem State.reqViol_keeps {s0 : State} {s : State} {q : RsbReq} (hk : Keeps s0 s) :
    Keeps s0 (State.reqViol s q) := by
  unfold State.reqViol
  try dsimp only
  repeat' (first
    | with_reducible assumption
    | with_reducible apply State.coreViol_keeps
    | with_reducible apply State.sourceViol_keeps
    | split
    | with_reducible apply Keeps.lit)

theorem State.reqSend_keeps {s0 : State} {s : State} {q : RsbReq} (hk : Keeps s0 s) :
    Keeps s0 (State.reqSend s q) := by
  unfold State.reqSend
  try dsimp only
  repeat' (first
    | with_reducible assumption
    | with_reducible apply State.inject_keeps
    | with_reducible apply State.reqIn_keeps
    | with_reducible apply State.reqViol_keeps
    | with_reducible apply Keeps.ite
    | with_reducible apply Keeps.iteFst
    | split
    | with_reducible apply Keeps.lit)

theorem State.rsbPump_keeps {s0 : State} {z0 z1 : Nat} {z2 : State} (hk : Keeps s0 z2) :
    Keeps s0 (State.rsbPump z0 z1 z2) := by
  induction z0 generalizing z1 z2 with
  | zero => unfold State.rsbPump; first | exact hk | (split <;> exact hk) | exact Keeps.lit hk
  | succ n ih =>
    unfold State.rsbPump
    try dsimp only
    repeat' (first
      | with_reducible assumption
      | with_reducible apply ih
      | with_reducible apply State.reqSend_keeps
      | with_reducible apply Keeps.ite
      | with_reducible apply Keeps.iteFst
      | split
      | with_reducible apply Keeps.lit)

theorem State.rsbSubmit_keeps {s0 : State} {s : State} {q : RsbReq} (hk : Keeps s0 s) :
    Keeps s0 (State.rsbSubmit s q) := by
  unfold State.rsbSubmit
  repeat' (first
    | with_reducible assumption
    | with_reducible apply State.rsbPump_keeps
    | with_reducible apply Keeps.lit)

theorem State.reqAcked_keeps {s0 : State} {s : State} {io : Nat} {k : Packet} (hk : Keeps s0 s) :
    Keeps s0 (State.reqAcked s io k) := by
  unfold State.reqAcked
  try dsimp only
  repeat' (first
    | with_reducible assumption
    | with_reducible apply Keeps.ite
    | with_reducible apply Keeps.iteFst
    | split
    | with_reducible apply Keeps.lit)

theorem State.pumpPos_keeps {s0 : State} {s : State} {io : Nat} {fid : BitVec 16} (hk : Keeps s0 s) :
    Keeps s0 (State.pumpPos s io fid) := by
  unfold State.pumpPos
  try dsimp only
  repeat' (first
    | with_reducible assumption
    | (intro _ _ _ _; try dsimp only)
    | (intro _ _ _; try dsimp only)
    | (intro _ _; try dsimp only)
    | with_reducible apply State.rsbPump_keeps
    | with_reducible apply Keeps.iter
    | with_reducible apply Keeps.iterFst
    | with_reducible apply Keeps.lit)

theorem State.rsbEnd_keeps {s0 : State} {s : State} {q : RsbReq} {code : Nat} (hk : Keeps s0 s) :
    Keeps s0 (State.rsbEnd s q code) := by
  unfold State.rsbEnd
  try dsimp only
  repeat' (first
    | with_reducible assumption
    | with_reducible apply State.bump_keeps
    | with_reducible apply State.rsbPump_keeps
    | with_reducible apply State.pumpPos_keeps
    | with_reducible apply Keeps.ite
    | with_reducible apply Keeps.iteFst
    | split
    | with_reducible apply Keeps.lit)

theorem State.forgetPos_keeps {s0 : State} {s : State} {io : Nat} {fid : BitVec 16} (hk : Keeps s0 s) :
    Keeps s0 (State.forgetPos s io fid) := by
  unfold State.forgetPos
  try dsimp only
  repeat' (first
    | with_reducible assumption
    | (intro _ _ _ _; try dsimp only)
    | (intro _ _ _; try dsimp only)
    | (intro _ _; try dsimp only)
    | with_reducible apply State.rlcDrop_keeps
    | with_reducible apply Keeps.iter
    | with_reducible apply Keeps.iterFst
    | with_reducible apply Keeps.ite
    | with_reducible apply Keeps.iteFst
    | split
    | with_reducible apply Keeps.lit)

theorem State.rspMatch_keeps {s0 : State} {s : State} {io : Nat} {k : Packet} (hk : Keeps s0 s) :
    Keeps s0 (State.rspMatch s io k).1 := by
  unfold State.rspMatch
  try dsimp only
  repeat' (first
    | with_reducible assumption
    | with_reducible apply State.bump_keeps
    | with_reducible apply State.rsbPump_keeps
    | with_reducible apply State.rsbEnd_keeps
    | with_reducible apply State.forgetPos_keeps
    | with_reducible apply Keeps.ite
    | with_reducible apply Keeps.iteFst
    | split
    | with_reducible apply Keeps.lit)

theorem State.rsbFail_keeps {s0 : State} {s : State} {q : RsbReq} (hk : Keeps s0 s) :
    Keeps s0 (State.rsbFail s q).1 := by
  unfold State.rsbFail
  try dsimp only
  repeat' (first
    | with_reducible assumption
    | (intro _ _ _ _; try dsimp only)
    | (intro _ _ _; try dsimp only)
    | (intro _ _; try dsimp only)
    | with_reducible apply State.bump_keeps
    | with_reducible apply State.rsbEnd_keeps
    | with_reducible apply Keeps.foldl
    | with_reducible apply Keeps.foldlFst
    | with_reducible apply Keeps.ite
    | with_reducible apply Keeps.iteFst
    | split
    | with_reducible apply Keeps.lit)

theorem State.reqLost_keeps {s0 : State} {s : State} {io : Nat} {k : Packet} (hk : Keeps s0 s) :
    Keeps s0 (State.reqLost s io k).1 := by
  unfold State.reqLost
  try dsimp only
  repeat' (first
    | with_reducible assumption
    | with_reducible apply State.rsbFail_keeps
    | split
    | with_reducible apply Keeps.lit)

theorem State.reissue_keeps {s0 : State} {s : State} {io home rid : Nat} (hk : Keeps s0 s) :
    Keeps s0 (State.reissue s io home rid).1 := by
  unfold State.reissue
  try dsimp only
  repeat' (first
    | with_reducible assumption
    | with_reducible apply State.reqSend_keeps
    | with_reducible apply State.rsbFail_keeps
    | with_reducible apply Keeps.ite
    | with_reducible apply Keeps.iteFst
    | split
    | with_reducible apply Keeps.lit)

theorem State.ownWrite_keeps {s0 : State} {s : State} {c off : Nat} {d : Bytes} (hk : Keeps s0 s) :
    Keeps s0 (State.ownWrite s c off d) := by
  unfold State.ownWrite
  try dsimp only
  repeat' (first
    | with_reducible assumption
    | with_reducible apply State.poke_keeps
    | with_reducible apply State.coreViol_keeps
    | with_reducible apply State.poke_keeps
    | with_reducible apply Keeps.ite
    | with_reducible apply Keeps.iteFst
    | split
    | with_reducible apply Keeps.lit)

theorem State.ownRead_keeps {s0 : State} {s : State} {c off n : Nat} (hk : Keeps s0 s) :
    Keeps s0 (State.ownRead s c off n).1 := by
  unfold State.ownRead
  try dsimp only
  repeat' (first
    | with_reducible assumption
    | with_reducible apply State.coreViol_keeps
    | with_reducible apply Keeps.ite
    | with_reducible apply Keeps.iteFst
    | split
    | with_reducible apply Keeps.lit)

theorem State.skipFills_keeps {s0 : State} {s : State} {die pos : Nat} {ls : List Nat} (hk : Keeps s0 s) :
    Keeps s0 (State.skipFills s die pos ls) := by
  unfold State.skipFills
  try dsimp only
  repeat' (first
    | with_reducible assumption
    | with_reducible apply Keeps.ite
    | with_reducible apply Keeps.iteFst
    | split
    | with_reducible apply Keeps.lit)

theorem State.ownFills_keeps {s0 : State} {s : State} {die pos a : Nat} {d : Bytes} (hk : Keeps s0 s) :
    Keeps s0 (State.ownFills s die pos a d) := by
  unfold State.ownFills
  try dsimp only
  repeat' (first
    | with_reducible assumption
    | with_reducible apply Keeps.ite
    | with_reducible apply Keeps.iteFst
    | split
    | with_reducible apply Keeps.lit)

theorem State.rsbStart_keeps {s0 s : State} {c : Nat} {e : QEntry} {op : RsbOp} {f : RsbF} (hk : Keeps s0 s) :
    Keeps s0 (State.rsbStart s c e op f).1 := by
  unfold State.rsbStart
  extract_lets a off len die atomicOp wide tgt cx q w lo
  clear_value atomicOp wide tgt
  have k1 (f : Nat → Nat → Bool) : Keeps s0 (s.rlcDrop die f) := State.rlcDrop_keeps hk
  have kq : Keeps s0 q.1 := State.ownRead_keeps hk
  by_cases h1 : (atomicOp.isNone && len = 0) = true
  · rw [if_pos h1]; exact hk
  rw [if_neg h1]
  by_cases h2 : (fld a 0 3 % (if wide then 8 else 4) != 0 || (op != .rinv && off % 8 != 0)) = true
  · rw [if_pos h2]; exact hk
  rw [if_neg h2]
  clear_value q w lo
  split
  · cases tgt with
    | home pos l => dsimp only; exact State.skipFills_keeps (k1 _)
    | _ => dsimp only; exact State.coreViol_keeps hk
  · cases tgt with
    | home pos l =>
      dsimp -zeta only
      extract_lets t2 ls2 hit t3 t4 t5
      have k3 : Keeps s0 t3 := State.bump_keeps (Keeps.foldl _ (fun u x hu => State.rlcTouch_keeps hu) _ hk)
      have k4 : Keeps s0 t4 := State.bump_keeps hk
      have k2 : Keeps s0 t2 := Keeps.lit hk
      have k5 : Keeps s0 t5 := Keeps.lit k4
      clear_value t2 t3 t4 t5
      split
      · exact State.rsbSubmit_keeps k2
      · split
        · exact State.ownWrite_keeps k3
        · exact Keeps.foldl _ (fun u x hu => State.rsbSubmit_keeps hu) _ k5
    | _ => exact State.ownWrite_keeps (State.coreViol_keeps hk)
  · cases tgt with
    | home pos l => exact State.rsbSubmit_keeps (State.ownFills_keeps (State.rlcWrite_keeps kq))
    | _ => dsimp only; exact State.coreViol_keeps kq
  · exact hk
  · cases tgt with
    | home pos l => exact State.rsbSubmit_keeps (State.skipFills_keeps (k1 _))
    | _ => exact State.ownWrite_keeps (State.coreViol_keeps hk)

theorem State.cxDone_keeps {s0 : State} {s : State} {c seq : Nat} {q : RsbReq} {code : Nat} {old : W64}
    {data : Bytes} (hk : Keeps s0 s) :
    Keeps s0 (State.cxDone s c seq q code old data) := by
  unfold State.cxDone
  try dsimp only
  repeat' (first
    | with_reducible assumption
    | (intro _ _ _ _; try dsimp only)
    | (intro _ _ _; try dsimp only)
    | (intro _ _; try dsimp only)
    | with_reducible apply State.finish_keeps
    | with_reducible apply State.rlcInstall_keeps
    | with_reducible apply State.ownWrite_keeps
    | with_reducible apply Keeps.foldl
    | with_reducible apply Keeps.foldlFst
    | with_reducible apply Keeps.ite
    | with_reducible apply Keeps.iteFst
    | split
    | with_reducible apply Keeps.lit)

theorem State.msgIn_keeps {s0 : State} {s : State} {io : Nat} {k : Packet} {age : W64} (hk : Keeps s0 s) :
    Keeps s0 (State.msgIn s io k age) := by
  unfold State.msgIn
  try dsimp only
  repeat' (first
    | with_reducible assumption
    | with_reducible apply State.setRf_keeps
    | with_reducible apply State.bump_keeps
    | with_reducible apply State.store_keeps
    | with_reducible apply State.drSend_keeps
    | with_reducible apply State.setChimes_keeps
    | with_reducible apply Keeps.ite
    | with_reducible apply Keeps.iteFst
    | split
    | with_reducible apply Keeps.lit)

theorem State.trigIn_keeps {s0 : State} {s : State} {io : Nat} {k : Packet} (hk : Keeps s0 s) :
    Keeps s0 (State.trigIn s io k) := by
  unfold State.trigIn
  try dsimp only
  repeat' (first
    | with_reducible assumption
    | with_reducible apply State.bump_keeps
    | with_reducible apply State.trigger_keeps
    | with_reducible apply Keeps.ite
    | with_reducible apply Keeps.iteFst
    | split
    | with_reducible apply Keeps.lit)

theorem State.msgStart_keeps {s0 : State} {s : State} {c : Nat} {e : QEntry} {op : MsgOp} {f : MsgF}
    (hk : Keeps s0 s) :
    Keeps s0 (State.msgStart s c e op f).1 := by
  unfold State.msgStart
  try dsimp only
  repeat' (first
    | with_reducible assumption
    | with_reducible apply State.bump_keeps
    | with_reducible apply State.inject_keeps
    | with_reducible apply State.mboxOut_keeps
    | with_reducible apply State.mboxIn_keeps
    | with_reducible apply State.ownRead_keeps
    | with_reducible apply State.msgIn_keeps
    | with_reducible apply State.trigIn_keeps
    | with_reducible apply Keeps.ite
    | with_reducible apply Keeps.iteFst
    | split
    | with_reducible apply Keeps.lit
    | with_reducible apply Keeps.litMem
    | with_reducible apply Keeps.litRegs
    | with_reducible apply Keeps.litBoth
    | exact Tab.wf_clear _ _ _ _
    | exact fun hw => Tab.wf_clear _ _ _ _ (Tab.wf_clear _ _ _ _ (Tab.wf_clear _ _ _ _ hw))
    | exact fun _ => Tab.wf_nil _
    | exact Tab.wf_filter _ _ _)

end Sys2Proof.Machine
end

