-- ==== Sys2Proof/Laws/Keeps/Dma.lean ====
section
/-! SUPPORT. What no operation or command of Machine/Dma.lean takes away. -/

namespace Sys2Proof.Machine

set_option linter.unusedTactic false
set_option linter.unreachableTactic false

theorem State.modChan_keeps {s0 : State} {s : State} {ch : Nat} {f : DChan → DChan} (hk : Keeps s0 s) :
    Keeps s0 (State.modChan s ch f) := by
  unfold State.modChan
  repeat' (first
    | with_reducible assumption
    | with_reducible apply Keeps.lit)

theorem State.modWork_keeps {s0 : State} {s : State} {ch : Nat} {f : DWork → DWork} (hk : Keeps s0 s) :
    Keeps s0 (State.modWork s ch f) := by
  unfold State.modWork
  try dsimp only
  repeat' (first
    | with_reducible assumption
    | with_reducible apply State.modChan_keeps
    | with_reducible apply Keeps.lit)

theorem State.modCur_keeps {s0 : State} {s : State} {ch : Nat} {f : DCur → DCur} (hk : Keeps s0 s) :
    Keeps s0 (State.modCur s ch f) := by
  unfold State.modCur
  try dsimp only
  repeat' (first
    | with_reducible assumption
    | with_reducible apply State.modWork_keeps
    | with_reducible apply Keeps.lit)

theorem State.setCh_keeps {s0 : State} {s : State} {ch st addr : Nat} (hk : Keeps s0 s) :
    Keeps s0 (State.setCh s ch st addr) := by
  unfold State.setCh
  try dsimp only
  repeat' (first
    | with_reducible assumption
    | with_reducible apply State.setRf_keeps
    | with_reducible apply State.setLevel_keeps
    | with_reducible apply Keeps.ite
    | with_reducible apply Keeps.iteFst
    | split
    | with_reducible apply Keeps.lit)

theorem State.setChCode_keeps {s0 : State} {s : State} {ch code : Nat} (hk : Keeps s0 s) :
    Keeps s0 (State.setChCode s ch code) := by
  unfold State.setChCode
  repeat' (first
    | with_reducible assumption
    | with_reducible apply State.setRf_keeps
    | with_reducible apply Keeps.lit)

theorem State.dmaViol_keeps {s0 : State} {s : State} {ch n a : Nat} (hk : Keeps s0 s) :
    Keeps s0 (State.dmaViol s ch n a) := by
  unfold State.dmaViol
  repeat' (first
    | with_reducible assumption
    | with_reducible apply State.bump_keeps
    | with_reducible apply State.coreViol_keeps
    | with_reducible apply Keeps.ite
    | with_reducible apply Keeps.iteFst
    | split
    | with_reducible apply Keeps.lit)

theorem State.haltCh_keeps {s0 : State} {s : State} {ch a desc : Nat} (hk : Keeps s0 s) :
    Keeps s0 (State.haltCh s ch a desc) := by
  unfold State.haltCh
  repeat' (first
    | with_reducible assumption
    | with_reducible apply State.setCh_keeps
    | with_reducible apply State.setChCode_keeps
    | with_reducible apply Keeps.ite
    | with_reducible apply Keeps.iteFst
    | split
    | with_reducible apply Keeps.lit)

theorem State.dmaWrite_keeps {s0 : State} {s : State} {ch : Nat} {x : Xfer} {a : Nat} {d : Bytes} (hk : Keeps s0 s) :
    Keeps s0 (State.dmaWrite s ch x a d) := by
  unfold State.dmaWrite
  try dsimp only
  repeat' (first
    | with_reducible assumption
    | with_reducible apply State.store_keeps
    | with_reducible apply State.rsbSubmit_keeps
    | with_reducible apply State.modCur_keeps
    | with_reducible apply State.bulk_keeps
    | with_reducible apply Keeps.ite
    | with_reducible apply Keeps.iteFst
    | split
    | with_reducible apply Keeps.lit)

theorem State.dmaFlush_keeps {s0 : State} {s : State} {ch : Nat} {x : Xfer} {key : Nat} (hk : Keeps s0 s) :
    Keeps s0 (State.dmaFlush s ch x key) := by
  unfold State.dmaFlush
  try dsimp only
  repeat' (first
    | with_reducible assumption
    | (intro _ _ _ _; try dsimp only)
    | (intro _ _ _; try dsimp only)
    | (intro _ _; try dsimp only)
    | with_reducible apply State.modCur_keeps
    | with_reducible apply State.dmaWrite_keeps
    | with_reducible apply Keeps.foldl
    | with_reducible apply Keeps.foldlFst
    | split
    | with_reducible apply Keeps.lit)

theorem State.dmaSink_keeps {s0 : State} {s : State} {ch a : Nat} {d : Bytes} (hk : Keeps s0 s) :
    Keeps s0 (State.dmaSink s ch a d) := by
  unfold State.dmaSink
  try dsimp only
  repeat' (first
    | with_reducible assumption
    | with_reducible apply State.modCur_keeps
    | with_reducible apply Keeps.ite
    | with_reducible apply Keeps.iteFst
    | split
    | with_reducible apply Keeps.lit)

theorem State.dmaPut_keeps {s0 : State} {s : State} {ch a : Nat} {d : Bytes} {room : Nat} (hk : Keeps s0 s) :
    Keeps s0 (State.dmaPut s ch a d room) := by
  unfold State.dmaPut
  try dsimp only
  repeat' (first
    | with_reducible assumption
    | with_reducible apply State.fresh_keeps
    | with_reducible apply State.dmaSink_keeps
    | with_reducible apply Keeps.ite
    | with_reducible apply Keeps.iteFst
    | split
    | with_reducible apply Keeps.lit)

theorem State.dmaCancel_keeps {s0 : State} {s : State} {ch : Nat} {writes : Bool} (hk : Keeps s0 s) :
    Keeps s0 (State.dmaCancel s ch writes) := by
  unfold State.dmaCancel
  try dsimp only
  repeat' (first
    | with_reducible assumption
    | with_reducible apply State.modCur_keeps
    | split
    | with_reducible apply Keeps.lit)

theorem State.dmaError_keeps {s0 : State} {s : State} {ch : Nat} {x : Xfer} {write : Bool} (hk : Keeps s0 s) :
    Keeps s0 (State.dmaError s ch x write) := by
  unfold State.dmaError
  try dsimp only
  repeat' (first
    | with_reducible assumption
    | (intro _ _ _ _; try dsimp only)
    | (intro _ _ _; try dsimp only)
    | (intro _ _; try dsimp only)
    | with_reducible apply State.modCur_keeps
    | with_reducible apply State.dmaWrite_keeps
    | with_reducible apply State.dmaCancel_keeps
    | with_reducible apply Keeps.foldl
    | with_reducible apply Keeps.foldlFst
    | with_reducible apply Keeps.ite
    | with_reducible apply Keeps.iteFst
    | split
    | with_reducible apply Keeps.lit)

theorem State.dmaLine_keeps {s0 : State} {s : State} {ch : Nat} {x : Xfer} {i off : Nat} {d : Bytes}
    (hk : Keeps s0 s) :
    Keeps s0 (State.dmaLine s ch x i off d) := by
  unfold State.dmaLine
  try dsimp only
  repeat' (first
    | with_reducible assumption
    | with_reducible apply State.modCur_keeps
    | with_reducible apply State.dmaFlush_keeps
    | with_reducible apply State.dmaPut_keeps
    | with_reducible apply Keeps.ite
    | with_reducible apply Keeps.iteFst
    | split
    | with_reducible apply Keeps.lit
    | refine Keeps.ofPair (by with_reducible assumption) ?_)

theorem State.moveLine_keeps {s0 : State} {s : State} {ch : Nat} {x : Xfer} {i off : Nat} (hk : Keeps s0 s) :
    Keeps s0 (State.moveLine s ch x i off) := by
  unfold State.moveLine
  try dsimp only
  repeat' (first
    | with_reducible assumption
    | with_reducible apply State.reportPoison_keeps
    | with_reducible apply State.verifyBlock_keeps
    | with_reducible apply State.modCur_keeps
    | with_reducible apply State.dmaError_keeps
    | with_reducible apply State.dmaLine_keeps
    | with_reducible apply Keeps.ite
    | with_reducible apply Keeps.iteFst
    | split
    | with_reducible apply Keeps.lit)

theorem State.movePiece_keeps {s0 : State} {s : State} {ch : Nat} {x : Xfer} {g : DGot} (hk : Keeps s0 s) :
    Keeps s0 (State.movePiece s ch x g) := by
  unfold State.movePiece
  try dsimp only
  repeat' (first
    | with_reducible assumption
    | (intro _ _ _ _; try dsimp only)
    | (intro _ _ _; try dsimp only)
    | (intro _ _; try dsimp only)
    | with_reducible apply State.modCur_keeps
    | with_reducible apply State.dmaError_keeps
    | with_reducible apply State.dmaLine_keeps
    | with_reducible apply Keeps.iter
    | with_reducible apply Keeps.iterFst
    | split
    | with_reducible apply Keeps.lit)

theorem State.dmaPump_keeps {s0 : State} {ch : Nat} {x : Xfer} {z0 : Nat} {z1 : State} (hk : Keeps s0 z1) :
    Keeps s0 (State.dmaPump ch x z0 z1) := by
  induction z0 generalizing ch x z1 with
  | zero => unfold State.dmaPump; first | exact hk | (split <;> exact hk) | exact Keeps.lit hk
  | succ n ih =>
    unfold State.dmaPump
    try dsimp only
    repeat' (first
      | with_reducible assumption
      | with_reducible apply ih
      | with_reducible apply State.moveLine_keeps
      | with_reducible apply State.movePiece_keeps
      | with_reducible apply Keeps.ite
      | with_reducible apply Keeps.iteFst
      | split)

theorem State.dmaRun_keeps {s0 : State} {s : State} {ch : Nat} {x : Xfer} (hk : Keeps s0 s) :
    Keeps s0 (State.dmaRun s ch x) := by
  unfold State.dmaRun
  try dsimp only
  repeat' (first
    | with_reducible assumption
    | with_reducible apply State.dmaPump_keeps
    | split
    | with_reducible apply Keeps.lit)

theorem State.fetchUnit_keeps {s0 : State} {ch : Nat} {x : Xfer} {i z0 z1 : Nat} {z2 : State} (hk : Keeps s0 z2) :
    Keeps s0 (State.fetchUnit ch x i z0 z1 z2) := by
  induction z0 generalizing ch x i z1 z2 with
  | zero => unfold State.fetchUnit; first | exact hk | (split <;> exact hk) | exact Keeps.lit hk
  | succ n ih =>
    unfold State.fetchUnit
    try dsimp only
    repeat' (first
      | with_reducible assumption
      | with_reducible apply ih
      | with_reducible apply State.rsbSubmit_keeps
      | with_reducible apply State.modCur_keeps
      | with_reducible apply State.bulk_keeps
      | with_reducible apply Keeps.ite
      | with_reducible apply Keeps.iteFst
      | split
      | with_reducible apply Keeps.lit)

theorem State.unitViol_keeps {s0 : State} {s : State} {ch : Nat} {x : Xfer} {i : Nat} (hk : Keeps s0 s) :
    Keeps s0 (State.unitViol s ch x i) := by
  unfold State.unitViol
  try dsimp only
  repeat' (first
    | with_reducible assumption
    | with_reducible apply State.dmaViol_keeps
    | split
    | with_reducible apply Keeps.lit)

theorem State.moveUnit_keeps {s0 : State} {s : State} {ch : Nat} {x : Xfer} (hk : Keeps s0 s) :
    Keeps s0 (State.moveUnit s ch x) := by
  unfold State.moveUnit
  try dsimp only
  repeat' (first
    | with_reducible assumption
    | with_reducible apply State.modCur_keeps
    | with_reducible apply State.dmaRun_keeps
    | with_reducible apply State.fetchUnit_keeps
    | with_reducible apply State.unitViol_keeps
    | with_reducible apply Keeps.ite
    | with_reducible apply Keeps.iteFst
    | split
    | with_reducible apply Keeps.lit)

theorem State.paceCredit_keeps {s0 : State} {s : State} {src : Nat} (hk : Keeps s0 s) :
    Keeps s0 (State.paceCredit s src) := by
  unfold State.paceCredit
  try dsimp only
  repeat' (first
    | with_reducible assumption
    | with_reducible apply Keeps.ite
    | with_reducible apply Keeps.iteFst
    | split
    | with_reducible apply Keeps.lit)

theorem State.setPaced_keeps {s0 : State} {s : State} {ch : Nat} {w : DWork} {on : Option Nat} (hk : Keeps s0 s) :
    Keeps s0 (State.setPaced s ch w on) := by
  unfold State.setPaced
  try dsimp only
  repeat' (first
    | with_reducible assumption
    | with_reducible apply State.modCore_keeps
    | split
    | with_reducible apply Keeps.lit)

theorem State.dmaCount_keeps {s0 : State} {s : State} {ch : Nat} (hk : Keeps s0 s) :
    Keeps s0 (State.dmaCount s ch) := by
  unfold State.dmaCount
  try dsimp only
  repeat' (first
    | with_reducible assumption
    | with_reducible apply State.bump_keeps
    | with_reducible apply State.paceCredit_keeps
    | with_reducible apply Keeps.ite
    | with_reducible apply Keeps.iteFst
    | split
    | with_reducible apply Keeps.lit)

theorem State.endWork_keeps {s0 : State} {s : State} {ch code : Nat} (hk : Keeps s0 s) :
    Keeps s0 (State.endWork s ch code) := by
  unfold State.endWork
  try dsimp only
  repeat' (first
    | with_reducible assumption
    | with_reducible apply State.pulse_keeps
    | with_reducible apply State.finish_keeps
    | with_reducible apply State.dropRechecks_keeps
    | with_reducible apply State.modChan_keeps
    | with_reducible apply State.setCh_keeps
    | with_reducible apply State.setChCode_keeps
    | with_reducible apply State.setPaced_keeps
    | with_reducible apply Keeps.ite
    | with_reducible apply Keeps.iteFst
    | split
    | with_reducible apply Keeps.lit)

theorem State.tdSettle_keeps {s0 : State} {s : State} {ch : Nat} (hk : Keeps s0 s) :
    Keeps s0 (State.tdSettle s ch) := by
  unfold State.tdSettle
  try dsimp only
  repeat' (first
    | with_reducible assumption
    | with_reducible apply State.dmaCount_keeps
    | with_reducible apply State.endWork_keeps
    | with_reducible apply Keeps.ite
    | with_reducible apply Keeps.iteFst
    | split
    | with_reducible apply Keeps.lit)

theorem State.dmaReply_keeps {s0 : State} {s : State} {ch : Nat} {write : Bool} {unit off code len : Nat}
    {data : Bytes} (hk : Keeps s0 s) :
    Keeps s0 (State.dmaReply s ch write unit off code len data) := by
  unfold State.dmaReply
  try dsimp only
  repeat' (first
    | with_reducible assumption
    | with_reducible apply State.modCur_keeps
    | with_reducible apply State.dmaError_keeps
    | with_reducible apply State.dmaRun_keeps
    | with_reducible apply State.tdSettle_keeps
    | with_reducible apply Keeps.ite
    | with_reducible apply Keeps.iteFst
    | split
    | with_reducible apply Keeps.lit)

theorem State.beginXfer_keeps {s0 : State} {s : State} {ch : Nat} {w : DWork} {x : Xfer} (hk : Keeps s0 s) :
    Keeps s0 (State.beginXfer s ch w x) := by
  unfold State.beginXfer
  try dsimp only
  repeat' (first
    | with_reducible assumption
    | (intro _ _ _ _; try dsimp only)
    | (intro _ _ _; try dsimp only)
    | (intro _ _; try dsimp only)
    | with_reducible apply State.modChan_keeps
    | with_reducible apply State.moveUnit_keeps
    | with_reducible apply State.setPaced_keeps
    | with_reducible apply Keeps.iter
    | with_reducible apply Keeps.iterFst
    | with_reducible apply Keeps.ite
    | with_reducible apply Keeps.iteFst
    | split
    | with_reducible apply Keeps.lit)

theorem State.dmaStart_keeps {s0 : State} {s : State} {c : Nat} {e : QEntry} (hk : Keeps s0 s) :
    Keeps s0 (State.dmaStart s c e).1 := by
  unfold State.dmaStart
  try dsimp only
  repeat' (first
    | with_reducible assumption
    | with_reducible apply State.modChan_keeps
    | with_reducible apply State.setCh_keeps
    | with_reducible apply State.setChCode_keeps
    | with_reducible apply State.haltCh_keeps
    | with_reducible apply State.dmaCount_keeps
    | with_reducible apply State.tdSettle_keeps
    | with_reducible apply State.beginXfer_keeps
    | with_reducible apply Keeps.ite
    | with_reducible apply Keeps.iteFst
    | split
    | with_reducible apply Keeps.lit)

theorem State.dmaParity_keeps {s0 : State} {s : State} {ch : Nat} {p : Parity} (hk : Keeps s0 s) :
    Keeps s0 (State.dmaParity s ch p) := by
  unfold State.dmaParity
  try dsimp only
  repeat' (first
    | with_reducible assumption
    | with_reducible apply State.modCore_keeps
    | with_reducible apply State.parityFault_keeps
    | with_reducible apply State.modChan_keeps
    | with_reducible apply State.setCh_keeps
    | with_reducible apply State.dmaError_keeps
    | with_reducible apply State.setPaced_keeps
    | split
    | with_reducible apply Keeps.lit)

theorem execDmaDescBegin_answers {s0 : State} {ch : Nat} {par : Option Parity} {s : State} (hk : Keeps s0 s) :
    Answers s0 (execDmaDescBegin ch par s) := by
  unfold execDmaDescBegin
  try dsimp only
  repeat' (first
    | with_reducible assumption
    | with_reducible apply State.setRbit_keeps
    | with_reducible apply State.modCore_keeps
    | with_reducible apply State.coreFault_keeps
    | with_reducible apply State.reportPoison_keeps
    | with_reducible apply State.modChan_keeps
    | with_reducible apply State.modWork_keeps
    | with_reducible apply State.modCur_keeps
    | with_reducible apply State.setCh_keeps
    | with_reducible apply State.dmaViol_keeps
    | with_reducible apply State.haltCh_keeps
    | with_reducible apply State.unitViol_keeps
    | with_reducible apply State.endWork_keeps
    | with_reducible apply State.beginXfer_keeps
    | with_reducible apply State.dmaParity_keeps
    | with_reducible apply ret_answers
    | with_reducible apply Keeps.ite
    | with_reducible apply Keeps.iteFst
    | split
    | with_reducible apply Keeps.lit)

theorem execDmaUnitStart_answers {s0 : State} {ch : Nat} {par : Option Parity} {s : State} (hk : Keeps s0 s) :
    Answers s0 (execDmaUnitStart ch par s) := by
  unfold execDmaUnitStart
  try dsimp only
  repeat' (first
    | with_reducible assumption
    | (intro _ _ _ _; try dsimp only)
    | (intro _ _ _; try dsimp only)
    | (intro _ _; try dsimp only)
    | with_reducible apply State.modCore_keeps
    | with_reducible apply State.modChan_keeps
    | with_reducible apply State.modCur_keeps
    | with_reducible apply State.dmaRun_keeps
    | with_reducible apply State.unitViol_keeps
    | with_reducible apply State.moveUnit_keeps
    | with_reducible apply State.setPaced_keeps
    | with_reducible apply State.tdSettle_keeps
    | with_reducible apply State.dmaParity_keeps
    | with_reducible apply Keeps.iter
    | with_reducible apply Keeps.iterFst
    | with_reducible apply ret_answers
    | with_reducible apply Keeps.ite
    | with_reducible apply Keeps.iteFst
    | split
    | with_reducible apply Keeps.lit)

theorem State.writeBack_keeps {s0 : State} {s : State} {c : DCur} (hk : Keeps s0 s) :
    Keeps s0 (State.writeBack s c) := by
  unfold State.writeBack
  repeat' (first
    | with_reducible assumption
    | with_reducible apply State.store_keeps
    | with_reducible apply Keeps.ite
    | with_reducible apply Keeps.iteFst
    | split
    | with_reducible apply Keeps.lit)

theorem execDmaDescComplete_answers {s0 : State} {ch : Nat} {s : State} (hk : Keeps s0 s) :
    Answers s0 (execDmaDescComplete ch s) := by
  unfold execDmaDescComplete
  try dsimp only
  repeat' (first
    | with_reducible assumption
    | with_reducible apply State.modChan_keeps
    | with_reducible apply State.setCh_keeps
    | with_reducible apply State.setChCode_keeps
    | with_reducible apply State.setPaced_keeps
    | with_reducible apply State.dmaCount_keeps
    | with_reducible apply State.endWork_keeps
    | with_reducible apply State.writeBack_keeps
    | with_reducible apply ret_answers
    | with_reducible apply Keeps.ite
    | with_reducible apply Keeps.iteFst
    | split
    | with_reducible apply Keeps.lit)

theorem State.chGo_keeps {s0 : State} {s : State} {d j : Nat} (hk : Keeps s0 s) :
    Keeps s0 (State.chGo s d j) := by
  unfold State.chGo
  try dsimp only
  repeat' (first
    | with_reducible assumption
    | with_reducible apply State.setRbit_keeps
    | with_reducible apply State.modChan_keeps
    | with_reducible apply State.setCh_keeps
    | with_reducible apply State.haltCh_keeps
    | with_reducible apply State.endWork_keeps
    | with_reducible apply Keeps.ite
    | with_reducible apply Keeps.iteFst
    | split
    | with_reducible apply Keeps.lit)

theorem State.chAbort_keeps {s0 : State} {s : State} {d j : Nat} (hk : Keeps s0 s) :
    Keeps s0 (State.chAbort s d j) := by
  unfold State.chAbort
  try dsimp only
  repeat' (first
    | with_reducible assumption
    | with_reducible apply State.modWork_keeps
    | with_reducible apply Keeps.ite
    | with_reducible apply Keeps.iteFst
    | split
    | with_reducible apply Keeps.lit)

theorem State.chClear_keeps {s0 : State} {s : State} {ch : Nat} (hk : Keeps s0 s) :
    Keeps s0 (State.chClear s ch) := by
  unfold State.chClear
  try dsimp only
  repeat' (first
    | with_reducible assumption
    | with_reducible apply State.setRbit_keeps
    | with_reducible apply State.setCh_keeps
    | with_reducible apply Keeps.ite
    | with_reducible apply Keeps.iteFst
    | split
    | with_reducible apply Keeps.lit)

theorem State.chCtrl_keeps {s0 : State} {s : State} {d j : Nat} {v : W64} (hk : Keeps s0 s) :
    Keeps s0 (State.chCtrl s d j v) := by
  unfold State.chCtrl
  try dsimp only
  repeat' (first
    | with_reducible assumption
    | with_reducible apply State.setRbit_keeps
    | with_reducible apply State.rwReg_keeps
    | with_reducible apply State.chGo_keeps
    | with_reducible apply State.chAbort_keeps
    | with_reducible apply State.chClear_keeps
    | with_reducible apply Keeps.ite
    | with_reducible apply Keeps.iteFst
    | split
    | with_reducible apply Keeps.lit)

theorem execDmaChGo_answers {s0 : State} {d j : Nat} {v : W64} {s : State} (hk : Keeps s0 s) :
    Answers s0 (execDmaChGo d j v s) := by
  unfold execDmaChGo
  repeat' (first
    | with_reducible assumption
    | with_reducible apply State.chCtrl_keeps
    | with_reducible apply ret_answers
    | with_reducible apply Keeps.lit)

theorem execDmaChAbort_answers {s0 : State} {d j : Nat} {v : W64} {s : State} (hk : Keeps s0 s) :
    Answers s0 (execDmaChAbort d j v s) := by
  unfold execDmaChAbort
  repeat' (first
    | with_reducible assumption
    | with_reducible apply State.chCtrl_keeps
    | with_reducible apply ret_answers
    | with_reducible apply Keeps.lit)

theorem execDmaChClrHalt_answers {s0 : State} {d j : Nat} {s : State} (hk : Keeps s0 s) :
    Answers s0 (execDmaChClrHalt d j s) := by
  unfold execDmaChClrHalt
  repeat' (first
    | with_reducible assumption
    | with_reducible apply State.chClear_keeps
    | with_reducible apply ret_answers
    | with_reducible apply Keeps.ite
    | with_reducible apply Keeps.iteFst
    | split
    | with_reducible apply Keeps.lit)

theorem execCoreDmaClrHalt_answers {s0 : State} {c n : Nat} {s : State} (hk : Keeps s0 s) :
    Answers s0 (execCoreDmaClrHalt c n s) := by
  unfold execCoreDmaClrHalt
  repeat' (first
    | with_reducible assumption
    | with_reducible apply State.chClear_keeps
    | with_reducible apply ret_answers
    | with_reducible apply Keeps.ite
    | with_reducible apply Keeps.iteFst
    | split
    | with_reducible apply Keeps.lit)

theorem execDmaTd_answers {s0 : State} {c : Nat} {f : DmaTdF} {s : State} (hk : Keeps s0 s) :
    Answers s0 (execDmaTd c f s) := by
  unfold execDmaTd
  try dsimp only
  repeat' (first
    | with_reducible assumption
    | with_reducible apply issueQ_keeps
    | with_reducible apply ret_answers
    | with_reducible apply Keeps.lit)

theorem execDmaList_answers {s0 : State} {c : Nat} {f : DmaListF} {s : State} (hk : Keeps s0 s) :
    Answers s0 (execDmaList c f s) := by
  unfold execDmaList
  try dsimp only
  repeat' (first
    | with_reducible assumption
    | with_reducible apply issueQ_keeps
    | with_reducible apply ret_answers
    | with_reducible apply Keeps.lit)

end Sys2Proof.Machine
end

