-- ==== Sys2Proof/Laws/Keeps/Collective.lean ====
section
/-! SUPPORT. What no operation or command of Machine/Collective.lean takes away. -/

namespace Sys2Proof.Machine

set_option linter.unusedTactic false
set_option linter.unreachableTactic false

theorem State.setGrp_keeps {s0 : State} {s : State} {g v : Nat} (hk : Keeps s0 s) :
    Keeps s0 (State.setGrp s g v) := by
  unfold State.setGrp
  repeat' (first
    | with_reducible assumption
    | with_reducible apply State.setRf_keeps
    | with_reducible apply Keeps.lit)

theorem State.modSite_keeps {s0 : State} {s : State} {g d : Nat} {f : ColSite → ColSite} (hk : Keeps s0 s) :
    Keeps s0 (State.modSite s g d f) := by
  unfold State.modSite
  repeat' (first
    | with_reducible assumption
    | with_reducible apply Keeps.lit)

theorem State.modRun_keeps {s0 : State} {s : State} {g d : Nat} {f : ColRun → ColRun} (hk : Keeps s0 s) :
    Keeps s0 (State.modRun s g d f) := by
  unfold State.modRun
  try dsimp only
  repeat' (first
    | with_reducible assumption
    | with_reducible apply State.modSite_keeps
    | with_reducible apply Keeps.lit)

theorem State.freeSlots_keeps {s0 : State} {s : State} {i : Nat} (hk : Keeps s0 s) :
    Keeps s0 (State.freeSlots s i) := by
  unfold State.freeSlots
  repeat' (first
    | with_reducible assumption
    | with_reducible apply State.setRf_keeps
    | with_reducible apply Keeps.lit)

theorem State.nextOpseq_keeps {s0 : State} {s : State} {g v : Nat} (hk : Keeps s0 s) :
    Keeps s0 (State.nextOpseq s g v) := by
  unfold State.nextOpseq
  repeat' (first
    | with_reducible assumption
    | with_reducible apply State.setRf_keeps
    | with_reducible apply Keeps.lit)

theorem State.endDrains_keeps {s0 : State} {s : State} {g c code : Nat} {op : ColOp} (hk : Keeps s0 s) :
    Keeps s0 (State.endDrains s g c code op) := by
  unfold State.endDrains
  try dsimp only
  repeat' (first
    | with_reducible assumption
    | with_reducible apply State.modCore_keeps
    | with_reducible apply Keeps.ite
    | with_reducible apply Keeps.iteFst
    | split
    | with_reducible apply Keeps.lit
    | refine Keeps.ofPair (by with_reducible assumption) ?_)

theorem State.colWrite_keeps {s0 : State} {s : State} {core : Nat} {cells : Tab (Option Byte)} (hk : Keeps s0 s) :
    Keeps s0 (State.colWrite s core cells) := by
  unfold State.colWrite
  try dsimp only
  repeat' (first
    | with_reducible assumption
    | (intro _ _ _ _; try dsimp only)
    | (intro _ _ _; try dsimp only)
    | (intro _ _; try dsimp only)
    | with_reducible apply State.coreViol_keeps
    | with_reducible apply State.store_keeps
    | with_reducible apply Keeps.foldl
    | with_reducible apply Keeps.foldlFst
    | with_reducible apply Keeps.ite
    | with_reducible apply Keeps.iteFst
    | split
    | with_reducible apply Keeps.lit)

theorem State.colElems_keeps {s0 : State} {s : State} {core : Nat} {t : TD} {es : List (Nat × Nat)} (hk : Keeps s0 s) :
    Keeps s0 (State.colElems s core t es) := by
  unfold State.colElems
  try dsimp only
  repeat' (first
    | with_reducible assumption
    | (intro _ _ _ _; try dsimp only)
    | (intro _ _ _; try dsimp only)
    | (intro _ _; try dsimp only)
    | with_reducible apply State.coreViol_keeps
    | with_reducible apply State.colWrite_keeps
    | with_reducible apply Keeps.foldl
    | with_reducible apply Keeps.foldlFst
    | with_reducible apply Keeps.ite
    | with_reducible apply Keeps.iteFst
    | split
    | with_reducible apply Keeps.lit)

theorem State.colScramble_keeps {s0 : State} {s : State} {x : ColCtx} {j : ColJoin} (hk : Keeps s0 s) :
    Keeps s0 (State.colScramble s x j) := by
  unfold State.colScramble
  try dsimp only
  repeat' (first
    | with_reducible assumption
    | (intro _ _ _ _; try dsimp only)
    | (intro _ _ _; try dsimp only)
    | (intro _ _; try dsimp only)
    | with_reducible apply State.fresh_keeps
    | with_reducible apply State.colElems_keeps
    | with_reducible apply Keeps.foldl
    | with_reducible apply Keeps.foldlFst
    | split
    | with_reducible apply Keeps.lit
    | refine Keeps.ofPair (by with_reducible assumption) ?_)

theorem State.colJournal_keeps {s0 : State} {s : State} {g : Nat} (hk : Keeps s0 s) :
    Keeps s0 (State.colJournal s g) := by
  unfold State.colJournal
  repeat' (first
    | with_reducible assumption
    | with_reducible apply State.journalOpen_keeps
    | with_reducible apply Keeps.lit)

theorem State.colEnd_keeps {s0 : State} {s : State} {g d code : Nat} (hk : Keeps s0 s) :
    Keeps s0 (State.colEnd s g d code) := by
  unfold State.colEnd
  try dsimp only
  repeat' (first
    | with_reducible assumption
    | (intro _ _ _ _; try dsimp only)
    | (intro _ _ _; try dsimp only)
    | (intro _ _; try dsimp only)
    | with_reducible apply State.setRf_keeps
    | with_reducible apply State.bump_keeps
    | with_reducible apply State.finish_keeps
    | with_reducible apply State.modSite_keeps
    | with_reducible apply State.freeSlots_keeps
    | with_reducible apply State.endDrains_keeps
    | with_reducible apply State.colScramble_keeps
    | with_reducible apply State.colJournal_keeps
    | with_reducible apply Keeps.foldl
    | with_reducible apply Keeps.foldlFst
    | with_reducible apply Keeps.ite
    | with_reducible apply Keeps.iteFst
    | split
    | with_reducible apply Keeps.lit)

theorem State.colFlush_keeps {s0 : State} {s : State} {g d code : Nat} (hk : Keeps s0 s) :
    Keeps s0 (State.colFlush s g d code) := by
  unfold State.colFlush
  try dsimp only
  repeat' (first
    | with_reducible assumption
    | (intro _ _ _ _; try dsimp only)
    | (intro _ _ _; try dsimp only)
    | (intro _ _; try dsimp only)
    | with_reducible apply State.finish_keeps
    | with_reducible apply State.modSite_keeps
    | with_reducible apply Keeps.foldl
    | with_reducible apply Keeps.foldlFst
    | with_reducible apply Keeps.lit)

theorem State.colAbort_keeps {s0 : State} {s : State} {g d : Nat} (hk : Keeps s0 s) :
    Keeps s0 (State.colAbort s g d) := by
  unfold State.colAbort
  try dsimp only
  repeat' (first
    | with_reducible assumption
    | (intro _ _ _ _; try dsimp only)
    | (intro _ _ _; try dsimp only)
    | (intro _ _; try dsimp only)
    | with_reducible apply State.setGrp_keeps
    | with_reducible apply State.colEnd_keeps
    | with_reducible apply State.colFlush_keeps
    | with_reducible apply Keeps.iter
    | with_reducible apply Keeps.iterFst
    | with_reducible apply Keeps.ite
    | with_reducible apply Keeps.iteFst
    | split
    | with_reducible apply Keeps.lit)

theorem State.colLate_keeps {s0 : State} {s : State} {g d : Nat} (hk : Keeps s0 s) :
    Keeps s0 (State.colLate s g d) := by
  unfold State.colLate
  repeat' (first
    | with_reducible assumption
    | with_reducible apply State.bump_keeps
    | with_reducible apply State.colAbort_keeps
    | with_reducible apply Keeps.ite
    | with_reducible apply Keeps.iteFst
    | split
    | with_reducible apply Keeps.lit)

theorem State.colTeardown_keeps {s0 : State} {s : State} {g : Nat} (hk : Keeps s0 s) :
    Keeps s0 (State.colTeardown s g) := by
  unfold State.colTeardown
  try dsimp only
  repeat' (first
    | with_reducible assumption
    | (intro _ _ _ _; try dsimp only)
    | (intro _ _ _; try dsimp only)
    | (intro _ _; try dsimp only)
    | with_reducible apply State.setGrp_keeps
    | with_reducible apply State.colEnd_keeps
    | with_reducible apply State.colFlush_keeps
    | with_reducible apply Keeps.iter
    | with_reducible apply Keeps.iterFst
    | with_reducible apply Keeps.lit)

theorem State.colSetup_keeps {s0 : State} {s : State} {g : Nat} (hk : Keeps s0 s) :
    Keeps s0 (State.colSetup s g) := by
  unfold State.colSetup
  try dsimp only
  repeat' (first
    | with_reducible assumption
    | with_reducible apply State.setRbit_keeps
    | with_reducible apply State.setGrp_keeps
    | with_reducible apply State.colTeardown_keeps
    | with_reducible apply Keeps.ite
    | with_reducible apply Keeps.iteFst
    | split
    | with_reducible apply Keeps.lit)

theorem State.colCtrl_keeps {s0 : State} {s : State} {g : Nat} {v : W64} (hk : Keeps s0 s) :
    Keeps s0 (State.colCtrl s g v) := by
  unfold State.colCtrl
  try dsimp only
  repeat' (first
    | with_reducible assumption
    | with_reducible apply State.colTeardown_keeps
    | with_reducible apply State.colSetup_keeps
    | with_reducible apply Keeps.ite
    | with_reducible apply Keeps.iteFst
    | split
    | with_reducible apply Keeps.lit)

theorem execColSetup_answers {s0 : State} {g : Nat} {s : State} (hk : Keeps s0 s) :
    Answers s0 (execColSetup g s) := by
  unfold execColSetup
  repeat' (first
    | with_reducible assumption
    | with_reducible apply State.colSetup_keeps
    | with_reducible apply ret_answers
    | with_reducible apply Keeps.ite
    | with_reducible apply Keeps.iteFst
    | split
    | with_reducible apply Keeps.lit)

theorem execColTeardown_answers {s0 : State} {g : Nat} {s : State} (hk : Keeps s0 s) :
    Answers s0 (execColTeardown g s) := by
  unfold execColTeardown
  repeat' (first
    | with_reducible assumption
    | with_reducible apply State.colTeardown_keeps
    | with_reducible apply ret_answers
    | with_reducible apply Keeps.ite
    | with_reducible apply Keeps.iteFst
    | split
    | with_reducible apply Keeps.lit)

theorem State.colRead_keeps {s0 : State} {s : State} {who : Nat} {keys : List (Nat × Nat)} (hk : Keeps s0 s) :
    Keeps s0 (State.colRead s who keys).1 := by
  unfold State.colRead
  try dsimp only
  repeat' (first
    | with_reducible assumption
    | (intro _ _ _ _; try dsimp only)
    | (intro _ _ _; try dsimp only)
    | (intro _ _; try dsimp only)
    | with_reducible apply State.reportPoison_keeps
    | with_reducible apply State.verifyBlock_keeps
    | with_reducible apply Keeps.foldl
    | with_reducible apply Keeps.foldlFst
    | with_reducible apply Keeps.ite
    | with_reducible apply Keeps.iteFst
    | split
    | with_reducible apply Keeps.lit)

theorem State.colAdmit_keeps {s0 : State} {s : State} {g d : Nat} (hk : Keeps s0 s) :
    Keeps s0 (State.colAdmit s g d) := by
  unfold State.colAdmit
  try dsimp only
  repeat' (first
    | with_reducible assumption
    | (intro _ _ _ _; try dsimp only)
    | (intro _ _ _; try dsimp only)
    | (intro _ _; try dsimp only)
    | with_reducible apply State.finish_keeps
    | with_reducible apply State.modSite_keeps
    | with_reducible apply Keeps.foldl
    | with_reducible apply Keeps.foldlFst
    | split
    | with_reducible apply Keeps.lit
    | refine Keeps.ofPair (by with_reducible assumption) ?_)

theorem execColSetupDone_answers {s0 : State} {g : Nat} {s : State} (hk : Keeps s0 s) :
    Answers s0 (execColSetupDone g s) := by
  unfold execColSetupDone
  try dsimp only
  repeat' (first
    | with_reducible assumption
    | (intro _ _ _ _; try dsimp only)
    | (intro _ _ _; try dsimp only)
    | (intro _ _; try dsimp only)
    | with_reducible apply State.setRf_keeps
    | with_reducible apply State.setGrp_keeps
    | with_reducible apply State.nextOpseq_keeps
    | with_reducible apply State.colFlush_keeps
    | with_reducible apply State.colRead_keeps
    | with_reducible apply State.colAdmit_keeps
    | with_reducible apply Keeps.iter
    | with_reducible apply Keeps.iterFst
    | with_reducible apply ret_answers
    | with_reducible apply Keeps.ite
    | with_reducible apply Keeps.iteFst
    | split
    | with_reducible apply Keeps.lit
    | refine Keeps.ofPair (by with_reducible assumption) ?_)

theorem issueCol_answers {s0 : State} {op : ColOp} {c : Nat} {f : ColF} {s : State} (hk : Keeps s0 s) :
    Answers s0 (issueCol op c f s) := by
  unfold issueCol
  repeat' (first
    | with_reducible assumption
    | with_reducible apply issueQ_keeps
    | with_reducible apply ret_answers
    | with_reducible apply Keeps.lit)

theorem execAllreduce_answers {s0 : State} {c : Nat} {f : ColF} {s : State} (hk : Keeps s0 s) :
    Answers s0 (execAllreduce c f s) := by
  unfold execAllreduce
  repeat' (first
    | with_reducible assumption
    | with_reducible apply issueCol_answers
    | with_reducible apply Keeps.lit)

theorem execReducescatter_answers {s0 : State} {c : Nat} {f : ColF} {s : State} (hk : Keeps s0 s) :
    Answers s0 (execReducescatter c f s) := by
  unfold execReducescatter
  repeat' (first
    | with_reducible assumption
    | with_reducible apply issueCol_answers
    | with_reducible apply Keeps.lit)

theorem execAllgather_answers {s0 : State} {c : Nat} {f : ColF} {s : State} (hk : Keeps s0 s) :
    Answers s0 (execAllgather c f s) := by
  unfold execAllgather
  repeat' (first
    | with_reducible assumption
    | with_reducible apply issueCol_answers
    | with_reducible apply Keeps.lit)

theorem execBroadcast_answers {s0 : State} {c : Nat} {f : ColF} {s : State} (hk : Keeps s0 s) :
    Answers s0 (execBroadcast c f s) := by
  unfold execBroadcast
  repeat' (first
    | with_reducible assumption
    | with_reducible apply issueCol_answers
    | with_reducible apply Keeps.lit)

theorem execReduce_answers {s0 : State} {c : Nat} {f : ColF} {s : State} (hk : Keeps s0 s) :
    Answers s0 (execReduce c f s) := by
  unfold execReduce
  repeat' (first
    | with_reducible assumption
    | with_reducible apply issueCol_answers
    | with_reducible apply Keeps.lit)

theorem execBarrier_answers {s0 : State} {c : Nat} {f : ColF} {s : State} (hk : Keeps s0 s) :
    Answers s0 (execBarrier c f s) := by
  unfold execBarrier
  repeat' (first
    | with_reducible assumption
    | with_reducible apply issueCol_answers
    | with_reducible apply Keeps.lit)

theorem State.colGather_keeps {s0 : State} {s : State} {g d core : Nat} {e : QEntry} (hk : Keeps s0 s) :
    Keeps s0 (State.colGather s g d core e).1 := by
  unfold State.colGather
  try dsimp only
  repeat' (first
    | with_reducible assumption
    | with_reducible apply State.coreViol_keeps
    | with_reducible apply State.modRun_keeps
    | with_reducible apply State.colRead_keeps
    | with_reducible apply Keeps.ite
    | with_reducible apply Keeps.iteFst
    | split
    | with_reducible apply Keeps.lit)

theorem State.colTake_keeps {s0 : State} {s : State} {g d : Nat} {bad : Option (Nat × Nat)} (hk : Keeps s0 s) :
    Keeps s0 (State.colTake s g d bad) := by
  unfold State.colTake
  try dsimp only
  repeat' (first
    | with_reducible assumption
    | (intro _ _ _ _; try dsimp only)
    | (intro _ _ _; try dsimp only)
    | (intro _ _; try dsimp only)
    | with_reducible apply State.parityFault_keeps
    | with_reducible apply State.modSite_keeps
    | with_reducible apply State.modRun_keeps
    | with_reducible apply State.colEnd_keeps
    | with_reducible apply State.colAbort_keeps
    | with_reducible apply State.colGather_keeps
    | with_reducible apply Keeps.foldl
    | with_reducible apply Keeps.foldlFst
    | with_reducible apply Keeps.ite
    | with_reducible apply Keeps.iteFst
    | split
    | with_reducible apply Keeps.lit)

theorem State.colArrive_keeps {s0 : State} {s : State} {c : Nat} {e : QEntry} {op : ColOp} {f : ColF} {bad : Option
    (Nat × Nat)} (hk : Keeps s0 s) :
    Keeps s0 (State.colArrive s c e op f bad).1 := by
  unfold State.colArrive
  try dsimp only
  repeat' (first
    | with_reducible assumption
    | with_reducible apply State.modSite_keeps
    | with_reducible apply State.colTake_keeps
    | with_reducible apply Keeps.ite
    | with_reducible apply Keeps.iteFst
    | split
    | with_reducible apply Keeps.lit)

theorem State.colBegin_keeps {s0 : State} {s : State} {g d : Nat} {grp : ColGrp} {e : QEntry} {op : ColOp}
    {f : ColF} (hk : Keeps s0 s) :
    Keeps s0 (State.colBegin s g d grp e op f) := by
  unfold State.colBegin
  try dsimp only
  repeat' (first
    | with_reducible assumption
    | with_reducible apply State.fresh_keeps
    | with_reducible apply State.modSite_keeps
    | with_reducible apply State.nextOpseq_keeps
    | with_reducible apply Keeps.ite
    | with_reducible apply Keeps.iteFst
    | split
    | with_reducible apply Keeps.lit)

theorem execColOpStart_answers {s0 : State} {g : Nat} {x : NodeStart} {s : State} (hk : Keeps s0 s) :
    Answers s0 (execColOpStart g x s) := by
  unfold execColOpStart
  try dsimp only
  repeat' (first
    | with_reducible assumption
    | with_reducible apply State.colTake_keeps
    | with_reducible apply State.colBegin_keeps
    | with_reducible apply ret_answers
    | with_reducible apply Keeps.ite
    | with_reducible apply Keeps.iteFst
    | split
    | with_reducible apply Keeps.lit
    | refine Keeps.ofPair (by with_reducible assumption) ?_)

theorem State.colViol_keeps {s0 : State} {s : State} {d : Nat} (hk : Keeps s0 s) :
    Keeps s0 (State.colViol s d) := by
  unfold State.colViol
  repeat' (first
    | with_reducible assumption
    | with_reducible apply State.bump_keeps
    | with_reducible apply Keeps.lit)

theorem State.colSend_keeps {s0 : State} {s : State} {g d : Nat} {k : Packet} (hk : Keeps s0 s) :
    Keeps s0 (State.colSend s g d k) := by
  unfold State.colSend
  try dsimp only
  repeat' (first
    | with_reducible assumption
    | with_reducible apply State.inject_keeps
    | with_reducible apply State.colLate_keeps
    | with_reducible apply Keeps.ite
    | with_reducible apply Keeps.iteFst
    | split
    | with_reducible apply Keeps.lit)

theorem State.colResidue_keeps {s0 : State} {s : State} {d n : Nat} (hk : Keeps s0 s) :
    Keeps s0 (State.colResidue s d n) := by
  unfold State.colResidue
  try dsimp only
  repeat' (first
    | with_reducible assumption
    | (intro _ _ _ _; try dsimp only)
    | (intro _ _ _; try dsimp only)
    | (intro _ _; try dsimp only)
    | with_reducible apply State.setRf_keeps
    | with_reducible apply State.setRbit_keeps
    | with_reducible apply State.bump_keeps
    | with_reducible apply State.mapChange_keeps
    | with_reducible apply State.journalOpen_keeps
    | with_reducible apply State.colEnd_keeps
    | with_reducible apply Keeps.iter
    | with_reducible apply Keeps.iterFst
    | with_reducible apply Keeps.ite
    | with_reducible apply Keeps.iteFst
    | split
    | with_reducible apply Keeps.lit)

theorem State.colConsume_keeps {s0 : State} {s : State} {g d : Nat} {k : Packet} {residue : Nat} (hk : Keeps s0 s) :
    Keeps s0 (State.colConsume s g d k residue) := by
  unfold State.colConsume
  try dsimp only
  repeat' (first
    | with_reducible assumption
    | with_reducible apply State.modRun_keeps
    | with_reducible apply State.colViol_keeps
    | with_reducible apply State.colSend_keeps
    | with_reducible apply State.colResidue_keeps
    | with_reducible apply Keeps.ite
    | with_reducible apply Keeps.iteFst
    | split
    | with_reducible apply Keeps.lit
    | refine Keeps.ofPair (by with_reducible assumption) ?_)

theorem State.colBadCheck_keeps {s0 : State} {s : State} {g d : Nat} {k : Packet} (hk : Keeps s0 s) :
    Keeps s0 (State.colBadCheck s g d k) := by
  unfold State.colBadCheck
  try dsimp only
  repeat' (first
    | with_reducible assumption
    | with_reducible apply State.bump_keeps
    | with_reducible apply State.modRun_keeps
    | with_reducible apply State.colLate_keeps
    | with_reducible apply State.colViol_keeps
    | with_reducible apply State.colSend_keeps
    | with_reducible apply Keeps.ite
    | with_reducible apply Keeps.iteFst
    | split
    | with_reducible apply Keeps.lit)

theorem State.colData_keeps {s0 : State} {s : State} {k : Packet} {residue : Nat} (hk : Keeps s0 s) :
    Keeps s0 (State.colData s k residue) := by
  unfold State.colData
  try dsimp only
  repeat' (first
    | with_reducible assumption
    | with_reducible apply State.modSite_keeps
    | with_reducible apply State.colViol_keeps
    | with_reducible apply State.colSend_keeps
    | with_reducible apply State.colConsume_keeps
    | with_reducible apply State.colBadCheck_keeps
    | with_reducible apply Keeps.ite
    | with_reducible apply Keeps.iteFst
    | split
    | with_reducible apply Keeps.lit)

theorem State.colHeard_keeps {s0 : State} {s : State} {k : Packet} (hk : Keeps s0 s) :
    Keeps s0 (State.colHeard s k) := by
  unfold State.colHeard
  try dsimp only
  repeat' (first
    | with_reducible assumption
    | with_reducible apply State.modRun_keeps
    | with_reducible apply Keeps.ite
    | with_reducible apply Keeps.iteFst
    | split
    | with_reducible apply Keeps.lit)

theorem State.taken_keeps {s0 : State} {s : State} {k : Packet} (hk : Keeps s0 s) :
    Keeps s0 (State.taken s k) := by
  unfold State.taken
  repeat' (first
    | with_reducible assumption
    | with_reducible apply Keeps.lit)

theorem execData_answers {s0 : State} {k : Packet} {residue : Nat} {s : State} (hk : Keeps s0 s) :
    Answers s0 (execData k residue s) := by
  unfold execData
  try dsimp only
  repeat' (first
    | with_reducible assumption
    | with_reducible apply State.colData_keeps
    | with_reducible apply State.colHeard_keeps
    | with_reducible apply State.taken_keeps
    | with_reducible apply ret_answers
    | with_reducible apply Keeps.ite
    | with_reducible apply Keeps.iteFst
    | split
    | with_reducible apply Keeps.lit)

theorem execExponent_answers {s0 : State} {k : Packet} {s : State} (hk : Keeps s0 s) :
    Answers s0 (execExponent k s) := by
  unfold execExponent
  try dsimp only
  repeat' (first
    | with_reducible assumption
    | with_reducible apply State.colData_keeps
    | with_reducible apply State.taken_keeps
    | with_reducible apply ret_answers
    | with_reducible apply Keeps.ite
    | with_reducible apply Keeps.iteFst
    | split
    | with_reducible apply Keeps.lit)

theorem State.colGrant_keeps {s0 : State} {s : State} {k : Packet} (hk : Keeps s0 s) :
    Keeps s0 (State.colGrant s k) := by
  unfold State.colGrant
  try dsimp only
  repeat' (first
    | with_reducible assumption
    | with_reducible apply State.modRun_keeps
    | with_reducible apply State.colViol_keeps
    | with_reducible apply Keeps.ite
    | with_reducible apply Keeps.iteFst
    | split
    | with_reducible apply Keeps.lit)

theorem execGrant_answers {s0 : State} {k : Packet} {s : State} (hk : Keeps s0 s) :
    Answers s0 (execGrant k s) := by
  unfold execGrant
  try dsimp only
  repeat' (first
    | with_reducible assumption
    | with_reducible apply State.colHeard_keeps
    | with_reducible apply State.taken_keeps
    | with_reducible apply State.colGrant_keeps
    | with_reducible apply ret_answers
    | with_reducible apply Keeps.ite
    | with_reducible apply Keeps.iteFst
    | split
    | with_reducible apply Keeps.lit)

theorem State.colRereq_keeps {s0 : State} {s : State} {k : Packet} (hk : Keeps s0 s) :
    Keeps s0 (State.colRereq s k) := by
  unfold State.colRereq
  try dsimp only
  repeat' (first
    | with_reducible assumption
    | with_reducible apply State.bump_keeps
    | with_reducible apply State.stage_keeps
    | with_reducible apply State.colViol_keeps
    | with_reducible apply State.colSend_keeps
    | with_reducible apply Keeps.ite
    | with_reducible apply Keeps.iteFst
    | split
    | with_reducible apply Keeps.lit
    | refine Keeps.ofPair (by with_reducible assumption) ?_)

theorem execRereq_answers {s0 : State} {k : Packet} {s : State} (hk : Keeps s0 s) :
    Answers s0 (execRereq k s) := by
  unfold execRereq
  try dsimp only
  repeat' (first
    | with_reducible assumption
    | with_reducible apply State.taken_keeps
    | with_reducible apply State.colRereq_keeps
    | with_reducible apply ret_answers
    | with_reducible apply Keeps.ite
    | with_reducible apply Keeps.iteFst
    | split
    | with_reducible apply Keeps.lit)

theorem State.colEarly_keeps {s0 : State} {s : State} {g d : Nat} (hk : Keeps s0 s) :
    Keeps s0 (State.colEarly s g d) := by
  unfold State.colEarly
  try dsimp only
  repeat' (first
    | with_reducible assumption
    | (intro _ _ _ _; try dsimp only)
    | (intro _ _ _; try dsimp only)
    | (intro _ _; try dsimp only)
    | with_reducible apply State.modSite_keeps
    | with_reducible apply State.colData_keeps
    | with_reducible apply Keeps.foldl
    | with_reducible apply Keeps.foldlFst
    | with_reducible apply Keeps.lit)

theorem execColSlotReserve_answers {s0 : State} {g d : Nat} {s : State} (hk : Keeps s0 s) :
    Answers s0 (execColSlotReserve g d s) := by
  unfold execColSlotReserve
  try dsimp only
  repeat' (first
    | with_reducible assumption
    | with_reducible apply State.modRun_keeps
    | with_reducible apply State.freeSlots_keeps
    | with_reducible apply State.colEarly_keeps
    | with_reducible apply ret_answers
    | with_reducible apply Keeps.ite
    | with_reducible apply Keeps.iteFst
    | split
    | with_reducible apply Keeps.lit)

theorem execChunkSend_answers {s0 : State} {g d : Nat} {s : State} (hk : Keeps s0 s) :
    Answers s0 (execChunkSend g d s) := by
  unfold execChunkSend
  try dsimp only
  repeat' (first
    | with_reducible assumption
    | with_reducible apply State.stage_keeps
    | with_reducible apply State.modRun_keeps
    | with_reducible apply State.colSend_keeps
    | with_reducible apply ret_answers
    | with_reducible apply Keeps.ite
    | with_reducible apply Keeps.iteFst
    | split
    | with_reducible apply Keeps.lit
    | refine Keeps.ofPair (by with_reducible assumption) ?_)

theorem execFanoutRequest_answers {s0 : State} {g i p q : Nat} {s : State} (hk : Keeps s0 s) :
    Answers s0 (execFanoutRequest g i p q s) := by
  unfold execFanoutRequest
  try dsimp only
  repeat' (first
    | with_reducible assumption
    | with_reducible apply State.bump_keeps
    | with_reducible apply State.fanOut_keeps
    | with_reducible apply ret_answers
    | with_reducible apply Keeps.ite
    | with_reducible apply Keeps.iteFst
    | split
    | with_reducible apply Keeps.lit)

theorem execColGroupTimeout_answers {s0 : State} {g d : Nat} {s : State} (hk : Keeps s0 s) :
    Answers s0 (execColGroupTimeout g d s) := by
  unfold execColGroupTimeout
  try dsimp only
  repeat' (first
    | with_reducible assumption
    | with_reducible apply State.colLate_keeps
    | with_reducible apply ret_answers
    | with_reducible apply Keeps.ite
    | with_reducible apply Keeps.iteFst
    | split
    | with_reducible apply Keeps.lit)

theorem State.colLost_keeps {s0 : State} {s : State} {io : Nat} {k : Packet} (hk : Keeps s0 s) :
    Keeps s0 (State.colLost s io k) := by
  unfold State.colLost
  try dsimp only
  repeat' (first
    | with_reducible assumption
    | (intro _ _ _ _; try dsimp only)
    | (intro _ _ _; try dsimp only)
    | (intro _ _; try dsimp only)
    | with_reducible apply State.colLate_keeps
    | with_reducible apply Keeps.iter
    | with_reducible apply Keeps.iterFst
    | with_reducible apply Keeps.ite
    | with_reducible apply Keeps.iteFst
    | split
    | with_reducible apply Keeps.lit)

theorem State.colDeliver_keeps {s0 s : State} {x : ColCtx} {legs : List Leg} {j : ColJoin} (hk : Keeps s0 s) :
    ∀ q, State.colDeliver s x legs j = some q → Keeps s0 q.1 := by
  intro q hq
  unfold State.colDeliver at hq
  split at hq
  · cases hq
  dsimp only at hq
  split at hq
  · cases hq
  split at hq
  · split at hq
    · cases hq
    · cases hq
      exact State.colWrite_keeps (State.colElems_keeps hk)
  · cases hq
    exact State.colElems_keeps hk

theorem State.colClose_keeps {s0 : State} {s : State} {g d : Nat} (hk : Keeps s0 s) :
    Keeps s0 (State.colClose s g d) := by
  unfold State.colClose
  try dsimp only
  repeat' (first
    | with_reducible assumption
    | with_reducible apply State.setRf_keeps
    | with_reducible apply State.bump_keeps
    | with_reducible apply State.modSite_keeps
    | with_reducible apply State.freeSlots_keeps
    | with_reducible apply Keeps.ite
    | with_reducible apply Keeps.iteFst
    | split
    | with_reducible apply Keeps.lit)

theorem execColOpComplete_answers {s0 : State} {g c : Nat} {s : State} (hk : Keeps s0 s) :
    Answers s0 (execColOpComplete g c s) := by
  unfold execColOpComplete
  extract_lets d
  refine ret_answers ?_
  split
  · exact hk
  split
  · exact hk
  · next x _ =>
    extract_lets legs
    split
    · exact State.colClose_keeps hk
    · next j _ =>
      split
      · split
        · exact hk
        · next t fl e =>
          exact State.colClose_keeps (State.finish_keeps (State.modRun_keeps (State.colDeliver_keeps hk _ e)))
      · exact hk

end Sys2Proof.Machine
end

