-- ==== Sys2Proof/Laws/Keeps/Drain.lean ====
section
/-! SUPPORT. What no operation or command of Machine/Drain.lean takes away. -/

namespace Sys2Proof.Machine

set_option linter.unusedTactic false
set_option linter.unreachableTactic false

theorem State.handOff_keeps {s0 s : State} {c : Nat} {r : MxRun} (hk : Keeps s0 s) :
    ∀ t, s.handOff c r = some t → Keeps s0 t := by
  intro t h
  unfold State.handOff at h
  split at h
  · dsimp only at h
    split at h
    · cases h; exact State.modCore_keeps hk
    split at h
    · cases h
    split at h
    · cases h
    split at h
    · cases h; exact State.modCore_keeps hk
    split at h
    · cases h
    · cases h; exact State.modCore_keeps (State.modSite_keeps hk)
  · cases h

theorem execDrainRow_answers {s0 : State} {c seq : Nat} {s : State} (hk : Keeps s0 s) :
    Answers s0 (execDrainRow c seq s) := by
  unfold execDrainRow
  refine ret_answers ?_
  split
  · next r _ =>
    split
    · cases e : s.handOff c r with
      | none => exact hk
      | some t => exact State.handOff_keeps hk t e
    · exact hk
  · exact hk

theorem execMxStart_answers {s0 : State} {c : Nat} {par : Option Parity} {s : State} (hk : Keeps s0 s) :
    Answers s0 (execMxStart c par s) := by
  unfold execMxStart
  try dsimp only
  repeat' (first
    | with_reducible assumption
    | with_reducible apply State.modCore_keeps
    | with_reducible apply State.coreViol_keeps
    | with_reducible apply State.stream_keeps
    | with_reducible apply State.mxParity_keeps
    | with_reducible apply ret_answers
    | with_reducible apply Keeps.ite
    | with_reducible apply Keeps.iteFst
    | split
    | with_reducible apply Keeps.lit
    | refine Keeps.ofPair (by with_reducible assumption) ?_)

theorem execColDrainRow_answers {s0 : State} {g c : Nat} {s : State} (hk : Keeps s0 s) :
    Answers s0 (execColDrainRow g c s) := by
  unfold execColDrainRow
  try dsimp only
  repeat' (first
    | with_reducible assumption
    | (intro _ _ _ _; try dsimp only)
    | (intro _ _ _; try dsimp only)
    | (intro _ _; try dsimp only)
    | with_reducible apply State.coreViol_keeps
    | with_reducible apply State.modSite_keeps
    | with_reducible apply State.modRun_keeps
    | with_reducible apply State.colViol_keeps
    | with_reducible apply Keeps.foldl
    | with_reducible apply Keeps.foldlFst
    | with_reducible apply ret_answers
    | with_reducible apply Keeps.ite
    | with_reducible apply Keeps.iteFst
    | split
    | with_reducible apply Keeps.lit
    | refine Keeps.ofPair (by with_reducible assumption) ?_)

end Sys2Proof.Machine
end

