-- ==== Sys2Proof/Laws/Keeps/Queues.lean ====
section
/-! SUPPORT. What no operation or command of Machine/Queues.lean takes away. -/

namespace Sys2Proof.Machine

set_option linter.unusedTactic false
set_option linter.unreachableTactic false

theorem State.timerWrite_keeps {s0 : State} {s : State} {c n : Nat} {v : W64} (hk : Keeps s0 s) :
    Keeps s0 (State.timerWrite s c n v) := by
  unfold State.timerWrite
  try dsimp only
  repeat' (first
    | with_reducible assumption
    | with_reducible apply State.setRf_keeps
    | with_reducible apply State.rwReg_keeps
    | with_reducible apply Keeps.ite
    | with_reducible apply Keeps.iteFst
    | split
    | with_reducible apply Keeps.lit)

theorem State.timerExpire_keeps {s0 : State} {s : State} {c n : Nat} (hk : Keeps s0 s) :
    Keeps s0 (State.timerExpire s c n) := by
  unfold State.timerExpire
  try dsimp only
  repeat' (first
    | with_reducible assumption
    | with_reducible apply State.setRf_keeps
    | with_reducible apply State.setRbit_keeps
    | with_reducible apply State.signal_keeps
    | with_reducible apply State.paceCredit_keeps
    | with_reducible apply Keeps.ite
    | with_reducible apply Keeps.iteFst
    | split
    | with_reducible apply Keeps.lit)

theorem State.timerTick_keeps {s0 : State} {s : State} {c n : Nat} (hk : Keeps s0 s) :
    Keeps s0 (State.timerTick s c n) := by
  unfold State.timerTick
  try dsimp only
  repeat' (first
    | with_reducible assumption
    | with_reducible apply State.setRf_keeps
    | with_reducible apply State.timerExpire_keeps
    | with_reducible apply Keeps.ite
    | with_reducible apply Keeps.iteFst
    | split
    | with_reducible apply Keeps.lit)

theorem execTimerWrite_answers {s0 : State} {c n : Nat} {v : W64} {s : State} (hk : Keeps s0 s) :
    Answers s0 (execTimerWrite c n v s) := by
  unfold execTimerWrite
  repeat' (first
    | with_reducible assumption
    | with_reducible apply State.timerWrite_keeps
    | with_reducible apply ret_answers
    | with_reducible apply Keeps.ite
    | with_reducible apply Keeps.iteFst
    | split
    | with_reducible apply Keeps.lit)

theorem execTimerExpiry_answers {s0 : State} {c n : Nat} {s : State} (hk : Keeps s0 s) :
    Answers s0 (execTimerExpiry c n s) := by
  unfold execTimerExpiry
  repeat' (first
    | with_reducible assumption
    | with_reducible apply State.timerExpire_keeps
    | with_reducible apply ret_answers
    | with_reducible apply Keeps.ite
    | with_reducible apply Keeps.iteFst
    | split
    | with_reducible apply Keeps.lit)

theorem State.mark_keeps {s0 : State} {s : State} {c : Nat} {p : BitVec 8} (hk : Keeps s0 s) :
    Keeps s0 (State.mark s c p) := by
  unfold State.mark
  try dsimp only
  repeat' (first
    | with_reducible assumption
    | with_reducible apply State.modCore_keeps
    | with_reducible apply Keeps.lit)

theorem State.startIns_keeps {s0 : State} {s : State} {c : Nat} {e : QEntry} (hk : Keeps s0 s) :
    Keeps s0 (State.startIns s c e).1 := by
  unfold State.startIns
  try dsimp only
  repeat' (first
    | with_reducible assumption
    | with_reducible apply State.pulse_keeps
    | with_reducible apply State.signal_keeps
    | with_reducible apply vxStart_keeps
    | with_reducible apply vtStart_keeps
    | with_reducible apply State.rsbStart_keeps
    | with_reducible apply State.msgStart_keeps
    | with_reducible apply State.dmaStart_keeps
    | with_reducible apply State.colArrive_keeps
    | with_reducible apply State.timerWrite_keeps
    | with_reducible apply State.mark_keeps
    | with_reducible apply Keeps.ite
    | with_reducible apply Keeps.iteFst
    | split
    | with_reducible apply Keeps.lit)

theorem execQueueInstrStart_answers {s0 : State} {c : Nat} {q : Queue} {par : Option Parity} {s : State}
    (hk : Keeps s0 s) :
    Answers s0 (execQueueInstrStart c q par s) := by
  unfold execQueueInstrStart
  try dsimp only
  repeat' (first
    | with_reducible assumption
    | with_reducible apply State.modCore_keeps
    | with_reducible apply State.parityFault_keeps
    | with_reducible apply State.keepViol_keeps
    | with_reducible apply State.finish_keeps
    | with_reducible apply State.colArrive_keeps
    | with_reducible apply State.startIns_keeps
    | with_reducible apply ret_answers
    | with_reducible apply Keeps.ite
    | with_reducible apply Keeps.iteFst
    | split
    | with_reducible apply Keeps.lit
    | refine Keeps.ofPair (by with_reducible assumption) ?_)

theorem execInstrComplete_answers {s0 : State} {c seq : Nat} {s : State} (hk : Keeps s0 s) :
    Answers s0 (execInstrComplete c seq s) := by
  unfold execInstrComplete
  try dsimp only
  repeat' (first
    | with_reducible assumption
    | with_reducible apply State.modCore_keeps
    | with_reducible apply State.signals_keeps
    | with_reducible apply State.recordStatus_keeps
    | with_reducible apply ret_answers
    | with_reducible apply Keeps.ite
    | with_reducible apply Keeps.iteFst
    | split
    | with_reducible apply Keeps.lit)

theorem execMxQuad_answers {s0 : State} {c : Nat} {f : MxF} {s : State} (hk : Keeps s0 s) :
    Answers s0 (execMxQuad c f s) := by
  unfold execMxQuad
  repeat' (first
    | with_reducible assumption
    | with_reducible apply issueMx_answers
    | with_reducible apply Keeps.lit)

theorem execMxPair_answers {s0 : State} {c : Nat} {pairB : Bool} {f : MxF} {s : State} (hk : Keeps s0 s) :
    Answers s0 (execMxPair c pairB f s) := by
  unfold execMxPair
  repeat' (first
    | with_reducible assumption
    | with_reducible apply issueMx_answers
    | with_reducible apply Keeps.lit)

theorem execMxSingle_answers {s0 : State} {c : Nat} {arr : BitVec 2} {f : MxF} {s : State} (hk : Keeps s0 s) :
    Answers s0 (execMxSingle c arr f s) := by
  unfold execMxSingle
  repeat' (first
    | with_reducible assumption
    | with_reducible apply issueMx_answers
    | with_reducible apply Keeps.lit)

theorem execMxT64Single_answers {s0 : State} {c : Nat} {arr : BitVec 2} {f : MxF} {s : State} (hk : Keeps s0 s) :
    Answers s0 (execMxT64Single c arr f s) := by
  unfold execMxT64Single
  repeat' (first
    | with_reducible assumption
    | with_reducible apply issueMx_answers
    | with_reducible apply Keeps.lit)

theorem execMxT64Pair_answers {s0 : State} {c : Nat} {pairB : Bool} {f : MxF} {s : State} (hk : Keeps s0 s) :
    Answers s0 (execMxT64Pair c pairB f s) := by
  unfold execMxT64Pair
  repeat' (first
    | with_reducible assumption
    | with_reducible apply issueMx_answers
    | with_reducible apply Keeps.lit)

theorem execMxT16Single_answers {s0 : State} {c : Nat} {arr : BitVec 2} {f : MxF} {s : State} (hk : Keeps s0 s) :
    Answers s0 (execMxT16Single c arr f s) := by
  unfold execMxT16Single
  repeat' (first
    | with_reducible assumption
    | with_reducible apply issueMx_answers
    | with_reducible apply Keeps.lit)

theorem execMxT16Pair_answers {s0 : State} {c : Nat} {pairB : Bool} {f : MxF} {s : State} (hk : Keeps s0 s) :
    Answers s0 (execMxT16Pair c pairB f s) := by
  unfold execMxT16Pair
  repeat' (first
    | with_reducible assumption
    | with_reducible apply issueMx_answers
    | with_reducible apply Keeps.lit)

theorem issuePlain_answers {s0 : State} {ins : QIns} {c : Nat} {s : State} (hk : Keeps s0 s) :
    Answers s0 (issuePlain ins c s) := by
  unfold issuePlain
  try dsimp only
  repeat' (first
    | with_reducible assumption
    | with_reducible apply issueQ_keeps
    | with_reducible apply ret_answers
    | with_reducible apply Keeps.lit)

theorem execSig_answers {s0 : State} {c : Nat} {f : SyncF} {s : State} (hk : Keeps s0 s) :
    Answers s0 (execSig c f s) := by
  unfold execSig
  repeat' (first
    | with_reducible assumption
    | with_reducible apply issuePlain_answers
    | with_reducible apply Keeps.lit)

theorem execSign_answers {s0 : State} {c : Nat} {f : SyncF} {s : State} (hk : Keeps s0 s) :
    Answers s0 (execSign c f s) := by
  unfold execSign
  repeat' (first
    | with_reducible assumption
    | with_reducible apply issuePlain_answers
    | with_reducible apply Keeps.lit)

theorem execTmr_answers {s0 : State} {c : Nat} {f : SyncF} {s : State} (hk : Keeps s0 s) :
    Answers s0 (execTmr c f s) := by
  unfold execTmr
  repeat' (first
    | with_reducible assumption
    | with_reducible apply issuePlain_answers
    | with_reducible apply Keeps.lit)

theorem execEvt_answers {s0 : State} {c : Nat} {f : SyncF} {s : State} (hk : Keeps s0 s) :
    Answers s0 (execEvt c f s) := by
  unfold execEvt
  repeat' (first
    | with_reducible assumption
    | with_reducible apply issuePlain_answers
    | with_reducible apply Keeps.lit)

theorem execPmark_answers {s0 : State} {c : Nat} {f : PmarkF} {s : State} (hk : Keeps s0 s) :
    Answers s0 (execPmark c f s) := by
  unfold execPmark
  repeat' (first
    | with_reducible assumption
    | with_reducible apply issuePlain_answers
    | with_reducible apply Keeps.lit)

theorem execPmarkr_answers {s0 : State} {c : Nat} {f : PmarkF} {s : State} (hk : Keeps s0 s) :
    Answers s0 (execPmarkr c f s) := by
  unfold execPmarkr
  repeat' (first
    | with_reducible assumption
    | with_reducible apply issuePlain_answers
    | with_reducible apply Keeps.lit)

theorem issueMove_answers {s0 : State} {op : RsbOp} {c : Nat} {f : RsbF} {s : State} (hk : Keeps s0 s) :
    Answers s0 (issueMove op c f s) := by
  unfold issueMove
  try dsimp only
  repeat' (first
    | with_reducible assumption
    | with_reducible apply issueQ_keeps
    | with_reducible apply ret_answers
    | with_reducible apply Keeps.lit)

theorem issueAtomic_answers {s0 : State} {op : RsbOp} {c : Nat} {f : RsbF} {s : State} (hk : Keeps s0 s) :
    Answers s0 (issueAtomic op c f s) := by
  unfold issueAtomic
  try dsimp only
  repeat' (first
    | with_reducible assumption
    | with_reducible apply issueQ_keeps
    | with_reducible apply ret_answers
    | with_reducible apply Keeps.lit
    | refine Keeps.ofPair (by with_reducible assumption) ?_)

theorem execRld_answers {s0 : State} {c : Nat} {f : RsbF} {s : State} (hk : Keeps s0 s) :
    Answers s0 (execRld c f s) := by
  unfold execRld
  repeat' (first
    | with_reducible assumption
    | with_reducible apply issueMove_answers
    | with_reducible apply Keeps.lit)

theorem execRst_answers {s0 : State} {c : Nat} {f : RsbF} {s : State} (hk : Keeps s0 s) :
    Answers s0 (execRst c f s) := by
  unfold execRst
  repeat' (first
    | with_reducible assumption
    | with_reducible apply issueMove_answers
    | with_reducible apply Keeps.lit)

theorem execRinv_answers {s0 : State} {c : Nat} {f : RsbF} {s : State} (hk : Keeps s0 s) :
    Answers s0 (execRinv c f s) := by
  unfold execRinv
  repeat' (first
    | with_reducible assumption
    | with_reducible apply issueMove_answers
    | with_reducible apply Keeps.lit)

theorem execRaAdd_answers {s0 : State} {c : Nat} {f : RsbF} {s : State} (hk : Keeps s0 s) :
    Answers s0 (execRaAdd c f s) := by
  unfold execRaAdd
  repeat' (first
    | with_reducible assumption
    | with_reducible apply issueAtomic_answers
    | with_reducible apply Keeps.lit)

theorem execRaFadd_answers {s0 : State} {c : Nat} {f : RsbF} {s : State} (hk : Keeps s0 s) :
    Answers s0 (execRaFadd c f s) := by
  unfold execRaFadd
  repeat' (first
    | with_reducible assumption
    | with_reducible apply issueAtomic_answers
    | with_reducible apply Keeps.lit)

theorem execRaSmin_answers {s0 : State} {c : Nat} {f : RsbF} {s : State} (hk : Keeps s0 s) :
    Answers s0 (execRaSmin c f s) := by
  unfold execRaSmin
  repeat' (first
    | with_reducible assumption
    | with_reducible apply issueAtomic_answers
    | with_reducible apply Keeps.lit)

theorem execRaSmax_answers {s0 : State} {c : Nat} {f : RsbF} {s : State} (hk : Keeps s0 s) :
    Answers s0 (execRaSmax c f s) := by
  unfold execRaSmax
  repeat' (first
    | with_reducible assumption
    | with_reducible apply issueAtomic_answers
    | with_reducible apply Keeps.lit)

theorem execRaUmin_answers {s0 : State} {c : Nat} {f : RsbF} {s : State} (hk : Keeps s0 s) :
    Answers s0 (execRaUmin c f s) := by
  unfold execRaUmin
  repeat' (first
    | with_reducible assumption
    | with_reducible apply issueAtomic_answers
    | with_reducible apply Keeps.lit)

theorem execRaUmax_answers {s0 : State} {c : Nat} {f : RsbF} {s : State} (hk : Keeps s0 s) :
    Answers s0 (execRaUmax c f s) := by
  unfold execRaUmax
  repeat' (first
    | with_reducible assumption
    | with_reducible apply issueAtomic_answers
    | with_reducible apply Keeps.lit)

theorem execRaAnd_answers {s0 : State} {c : Nat} {f : RsbF} {s : State} (hk : Keeps s0 s) :
    Answers s0 (execRaAnd c f s) := by
  unfold execRaAnd
  repeat' (first
    | with_reducible assumption
    | with_reducible apply issueAtomic_answers
    | with_reducible apply Keeps.lit)

theorem execRaOr_answers {s0 : State} {c : Nat} {f : RsbF} {s : State} (hk : Keeps s0 s) :
    Answers s0 (execRaOr c f s) := by
  unfold execRaOr
  repeat' (first
    | with_reducible assumption
    | with_reducible apply issueAtomic_answers
    | with_reducible apply Keeps.lit)

theorem execRaXor_answers {s0 : State} {c : Nat} {f : RsbF} {s : State} (hk : Keeps s0 s) :
    Answers s0 (execRaXor c f s) := by
  unfold execRaXor
  repeat' (first
    | with_reducible assumption
    | with_reducible apply issueAtomic_answers
    | with_reducible apply Keeps.lit)

theorem execRaSwap_answers {s0 : State} {c : Nat} {f : RsbF} {s : State} (hk : Keeps s0 s) :
    Answers s0 (execRaSwap c f s) := by
  unfold execRaSwap
  repeat' (first
    | with_reducible assumption
    | with_reducible apply issueAtomic_answers
    | with_reducible apply Keeps.lit)

theorem execRaCas_answers {s0 : State} {c : Nat} {f : RsbF} {s : State} (hk : Keeps s0 s) :
    Answers s0 (execRaCas c f s) := by
  unfold execRaCas
  repeat' (first
    | with_reducible assumption
    | with_reducible apply issueAtomic_answers
    | with_reducible apply Keeps.lit)

theorem execTrig_answers {s0 : State} {c : Nat} {f : MsgF} {s : State} (hk : Keeps s0 s) :
    Answers s0 (execTrig c f s) := by
  unfold execTrig
  try dsimp only
  repeat' (first
    | with_reducible assumption
    | with_reducible apply issueQ_keeps
    | with_reducible apply ret_answers
    | with_reducible apply Keeps.lit)

theorem execMsg_answers {s0 : State} {c : Nat} {f : MsgF} {s : State} (hk : Keeps s0 s) :
    Answers s0 (execMsg c f s) := by
  unfold execMsg
  try dsimp only
  repeat' (first
    | with_reducible assumption
    | with_reducible apply issueQ_keeps
    | with_reducible apply ret_answers
    | with_reducible apply Keeps.lit)

theorem execMboxout_answers {s0 : State} {c : Nat} {f : MsgF} {s : State} (hk : Keeps s0 s) :
    Answers s0 (execMboxout c f s) := by
  unfold execMboxout
  try dsimp only
  repeat' (first
    | with_reducible assumption
    | with_reducible apply issueQ_keeps
    | with_reducible apply ret_answers
    | with_reducible apply Keeps.lit)

theorem execMboxin_answers {s0 : State} {c : Nat} {f : MsgF} {s : State} (hk : Keeps s0 s) :
    Answers s0 (execMboxin c f s) := by
  unfold execMboxin
  try dsimp only
  repeat' (first
    | with_reducible assumption
    | with_reducible apply issueQ_keeps
    | with_reducible apply ret_answers
    | with_reducible apply Keeps.lit)

end Sys2Proof.Machine
end

