-- ==== Sys2Proof/Laws/Keeps/Cores.lean ====
section
/-! SUPPORT. What no operation or command of Machine/Cores.lean takes away. -/

namespace Sys2Proof.Machine

set_option linter.unusedTactic false
set_option linter.unreachableTactic false

theorem State.coreReject_keeps {s0 : State} {s : State} {c : Nat} (hk : Keeps s0 s) :
    Keeps s0 (State.coreReject s c) := by
  unfold State.coreReject
  repeat' (first
    | with_reducible assumption
    | with_reducible apply State.setRbit_keeps
    | with_reducible apply Keeps.lit)

theorem State.coreStart_keeps {s0 : State} {s : State} {c : Nat} (hk : Keeps s0 s) :
    Keeps s0 (State.coreStart s c) := by
  unfold State.coreStart
  try dsimp only
  repeat' (first
    | with_reducible assumption
    | with_reducible apply State.modCore_keeps
    | with_reducible apply State.setRun_keeps
    | with_reducible apply State.coreReject_keeps
    | with_reducible apply Keeps.ite
    | with_reducible apply Keeps.iteFst
    | split
    | with_reducible apply Keeps.lit)

theorem State.coreStop_keeps {s0 : State} {s : State} {c : Nat} (hk : Keeps s0 s) :
    Keeps s0 (State.coreStop s c) := by
  unfold State.coreStop
  try dsimp only
  repeat' (first
    | with_reducible assumption
    | with_reducible apply State.modCore_keeps
    | with_reducible apply State.setRun_keeps
    | with_reducible apply Keeps.ite
    | with_reducible apply Keeps.iteFst
    | split
    | with_reducible apply Keeps.lit)

theorem State.coreAbort_keeps {s0 : State} {s : State} {c : Nat} (hk : Keeps s0 s) :
    Keeps s0 (State.coreAbort s c) := by
  unfold State.coreAbort
  try dsimp only
  repeat' (first
    | with_reducible assumption
    | with_reducible apply State.modCore_keeps
    | with_reducible apply State.setRun_keeps
    | with_reducible apply Keeps.ite
    | with_reducible apply Keeps.iteFst
    | split
    | with_reducible apply Keeps.lit)

theorem State.coreReset_keeps {s0 : State} {s : State} {c : Nat} (hk : Keeps s0 s) :
    Keeps s0 (State.coreReset s c) := by
  unfold State.coreReset
  try dsimp only
  repeat' (first
    | with_reducible assumption
    | with_reducible apply State.modCore_keeps
    | with_reducible apply State.setRun_keeps
    | with_reducible apply Keeps.ite
    | with_reducible apply Keeps.iteFst
    | split
    | with_reducible apply Keeps.lit)

theorem State.coreCtrl_keeps {s0 : State} {s : State} {c : Nat} {v : W64} (hk : Keeps s0 s) :
    Keeps s0 (State.coreCtrl s c v) := by
  unfold State.coreCtrl
  repeat' (first
    | with_reducible assumption
    | with_reducible apply State.coreStart_keeps
    | with_reducible apply State.coreStop_keeps
    | with_reducible apply State.coreAbort_keeps
    | with_reducible apply State.coreReset_keeps
    | with_reducible apply Keeps.ite
    | with_reducible apply Keeps.iteFst
    | split
    | with_reducible apply Keeps.lit)

theorem atCore_answers {s0 : State} {c : Nat} {f : State → State} {s : State} (hf : ∀ y0, Keeps s0 y0 → Keeps s0
    (f y0)) (hk : Keeps s0 s) :
    Answers s0 (atCore c f s) := by
  unfold atCore
  repeat' (first
    | with_reducible assumption
    | (intro _ _ _ _; try dsimp only)
    | (intro _ _ _; try dsimp only)
    | (intro _ _; try dsimp only)
    | with_reducible apply hf
    | with_reducible apply ret_answers
    | with_reducible apply Keeps.ite
    | with_reducible apply Keeps.iteFst
    | split
    | with_reducible apply Keeps.lit)

theorem execStart_answers {s0 : State} {c : Nat} {s : State} (hk : Keeps s0 s) :
    Answers s0 (execStart c s) := by
  unfold execStart
  try dsimp only
  repeat' (first
    | with_reducible assumption
    | (intro _ _ _ _; try dsimp only)
    | (intro _ _ _; try dsimp only)
    | (intro _ _; try dsimp only)
    | with_reducible apply State.coreStart_keeps
    | with_reducible apply atCore_answers
    | with_reducible apply Keeps.lit)

theorem execStop_answers {s0 : State} {c : Nat} {s : State} (hk : Keeps s0 s) :
    Answers s0 (execStop c s) := by
  unfold execStop
  try dsimp only
  repeat' (first
    | with_reducible assumption
    | (intro _ _ _ _; try dsimp only)
    | (intro _ _ _; try dsimp only)
    | (intro _ _; try dsimp only)
    | with_reducible apply State.coreStop_keeps
    | with_reducible apply atCore_answers
    | with_reducible apply Keeps.lit)

theorem execAbort_answers {s0 : State} {c : Nat} {s : State} (hk : Keeps s0 s) :
    Answers s0 (execAbort c s) := by
  unfold execAbort
  try dsimp only
  repeat' (first
    | with_reducible assumption
    | (intro _ _ _ _; try dsimp only)
    | (intro _ _ _; try dsimp only)
    | (intro _ _; try dsimp only)
    | with_reducible apply State.coreAbort_keeps
    | with_reducible apply atCore_answers
    | with_reducible apply Keeps.lit)

theorem execReset_answers {s0 : State} {c : Nat} {s : State} (hk : Keeps s0 s) :
    Answers s0 (execReset c s) := by
  unfold execReset
  try dsimp only
  repeat' (first
    | with_reducible assumption
    | (intro _ _ _ _; try dsimp only)
    | (intro _ _ _; try dsimp only)
    | (intro _ _; try dsimp only)
    | with_reducible apply State.coreReset_keeps
    | with_reducible apply atCore_answers
    | with_reducible apply Keeps.lit)

theorem execCoreStopped_answers {s0 : State} {c : Nat} {s : State} (hk : Keeps s0 s) :
    Answers s0 (execCoreStopped c s) := by
  unfold execCoreStopped
  try dsimp only
  repeat' (first
    | with_reducible assumption
    | with_reducible apply State.setReg_keeps
    | with_reducible apply State.modCore_keeps
    | with_reducible apply State.setRun_keeps
    | with_reducible apply ret_answers
    | with_reducible apply Keeps.ite
    | with_reducible apply Keeps.iteFst
    | split
    | with_reducible apply Keeps.lit)

theorem State.coreRegsReset_keeps {s0 : State} {s : State} {c : Nat} (hk : Keeps s0 s) :
    Keeps s0 (State.coreRegsReset s c) := by
  unfold State.coreRegsReset
  try dsimp only
  repeat' (first
    | with_reducible assumption
    | (intro _ _ _ _; try dsimp only)
    | (intro _ _ _; try dsimp only)
    | (intro _ _; try dsimp only)
    | with_reducible apply State.setReg_keeps
    | with_reducible apply State.mbxReset_keeps
    | with_reducible apply State.modChan_keeps
    | with_reducible apply State.chClear_keeps
    | with_reducible apply Keeps.iter
    | with_reducible apply Keeps.iterFst
    | with_reducible apply Keeps.lit
    | with_reducible apply Keeps.litMem
    | with_reducible apply Keeps.litRegs
    | with_reducible apply Keeps.litBoth
    | exact Tab.wf_clear _ _ _ _
    | exact fun hw => Tab.wf_clear _ _ _ _ (Tab.wf_clear _ _ _ _ (Tab.wf_clear _ _ _ _ hw))
    | exact fun _ => Tab.wf_nil _
    | exact Tab.wf_filter _ _ _)

theorem execCoreResetDone_answers {s0 : State} {c : Nat} {s : State} (hk : Keeps s0 s) :
    Answers s0 (execCoreResetDone c s) := by
  unfold execCoreResetDone
  try dsimp only
  repeat' (first
    | with_reducible assumption
    | with_reducible apply State.modCore_keeps
    | with_reducible apply State.setRun_keeps
    | with_reducible apply State.coreRegsReset_keeps
    | with_reducible apply ret_answers
    | with_reducible apply Keeps.ite
    | with_reducible apply Keeps.iteFst
    | split
    | with_reducible apply Keeps.lit)

theorem State.loadEnd_keeps {s0 : State} {s : State} {c status : Nat} (hk : Keeps s0 s) :
    Keeps s0 (State.loadEnd s c status) := by
  unfold State.loadEnd
  try dsimp only
  repeat' (first
    | with_reducible assumption
    | with_reducible apply State.setRf_keeps
    | with_reducible apply State.setRbit_keeps
    | with_reducible apply State.modCore_keeps
    | with_reducible apply State.pulse_keeps
    | with_reducible apply Keeps.lit)

theorem State.loadGo_keeps {s0 : State} {s : State} {c : Nat} (hk : Keeps s0 s) :
    Keeps s0 (State.loadGo s c) := by
  unfold State.loadGo
  try dsimp only
  repeat' (first
    | with_reducible assumption
    | with_reducible apply State.setRbit_keeps
    | with_reducible apply State.modCore_keeps
    | with_reducible apply State.coreReject_keeps
    | with_reducible apply State.loadEnd_keeps
    | with_reducible apply Keeps.ite
    | with_reducible apply Keeps.iteFst
    | split
    | with_reducible apply Keeps.lit)

theorem State.progLoadWrite_keeps {s0 : State} {s : State} {c : Nat} {v : W64} (hk : Keeps s0 s) :
    Keeps s0 (State.progLoadWrite s c v) := by
  unfold State.progLoadWrite
  try dsimp only
  repeat' (first
    | with_reducible assumption
    | with_reducible apply State.setRbit_keeps
    | with_reducible apply State.rwReg_keeps
    | with_reducible apply State.loadGo_keeps
    | with_reducible apply Keeps.ite
    | with_reducible apply Keeps.iteFst
    | split
    | with_reducible apply Keeps.lit)

theorem execProgLoadGo_answers {s0 : State} {c : Nat} {v : W64} {s : State} (hk : Keeps s0 s) :
    Answers s0 (execProgLoadGo c v s) := by
  unfold execProgLoadGo
  try dsimp only
  repeat' (first
    | with_reducible assumption
    | (intro _ _ _ _; try dsimp only)
    | (intro _ _ _; try dsimp only)
    | (intro _ _; try dsimp only)
    | with_reducible apply atCore_answers
    | with_reducible apply State.progLoadWrite_keeps
    | with_reducible apply Keeps.lit)

theorem State.loadCheck_keeps {s0 : State} {s : State} {c : Nat} {z0 : List (Nat × Nat)} (hk : Keeps s0 s) :
    Keeps s0 (State.loadCheck s c z0).1 := by
  induction z0 generalizing s c with
  | nil => unfold State.loadCheck; first | exact hk | (split <;> exact hk) | exact Keeps.lit hk
  | cons a l ih =>
    unfold State.loadCheck
    try dsimp only
    repeat' (first
      | with_reducible assumption
      | with_reducible apply ih
      | with_reducible apply State.verifyBlock_keeps
      | with_reducible apply Keeps.ite
      | with_reducible apply Keeps.iteFst
      | split
      | with_reducible apply Keeps.lit
      | refine Keeps.ofPair (by with_reducible assumption) ?_)

theorem execProgLoadDone_answers {s0 : State} {c : Nat} {par : Option Parity} {s : State} (hk : Keeps s0 s) :
    Answers s0 (execProgLoadDone c par s) := by
  unfold execProgLoadDone
  try dsimp only
  repeat' (first
    | with_reducible assumption
    | with_reducible apply State.modCore_keeps
    | with_reducible apply State.coreViol_keeps
    | with_reducible apply State.parityFault_keeps
    | with_reducible apply State.dropRechecks_keeps
    | with_reducible apply State.store_keeps
    | with_reducible apply State.loadEnd_keeps
    | with_reducible apply State.loadCheck_keeps
    | with_reducible apply ret_answers
    | with_reducible apply Keeps.ite
    | with_reducible apply Keeps.iteFst
    | split
    | with_reducible apply Keeps.lit
    | refine Keeps.ofPair (by with_reducible assumption) ?_)

theorem State.semSig_keeps {s0 : State} {s : State} {c : Nat} {v : W64} (hk : Keeps s0 s) :
    Keeps s0 (State.semSig s c v) := by
  unfold State.semSig
  repeat' (first
    | with_reducible assumption
    | with_reducible apply State.signal_keeps
    | with_reducible apply Keeps.ite
    | with_reducible apply Keeps.iteFst
    | split
    | with_reducible apply Keeps.lit)

theorem execCoreSemSig_answers {s0 : State} {c : Nat} {v : W64} {s : State} (hk : Keeps s0 s) :
    Answers s0 (execCoreSemSig c v s) := by
  unfold execCoreSemSig
  try dsimp only
  repeat' (first
    | with_reducible assumption
    | (intro _ _ _ _; try dsimp only)
    | (intro _ _ _; try dsimp only)
    | (intro _ _; try dsimp only)
    | with_reducible apply atCore_answers
    | with_reducible apply State.semSig_keeps
    | with_reducible apply Keeps.lit)

theorem State.ledgerSet_keeps {s0 : State} {s : State} {c : Nat} {v : BitVec 32} (hk : Keeps s0 s) :
    Keeps s0 (State.ledgerSet s c v) := by
  unfold State.ledgerSet
  repeat' (first
    | with_reducible assumption
    | with_reducible apply State.rwReg_keeps
    | with_reducible apply Keeps.lit)

theorem State.ledgerWrite_keeps {s0 : State} {s : State} {c : Nat} {v : BitVec 32} (hk : Keeps s0 s) :
    Keeps s0 (State.ledgerWrite s c v) := by
  unfold State.ledgerWrite
  try dsimp only
  repeat' (first
    | with_reducible assumption
    | with_reducible apply State.modCore_keeps
    | with_reducible apply State.ledgerSet_keeps
    | with_reducible apply Keeps.ite
    | with_reducible apply Keeps.iteFst
    | split
    | with_reducible apply Keeps.lit)

theorem execLedgerCfgWrite_answers {s0 : State} {c : Nat} {v : BitVec 32} {s : State} (hk : Keeps s0 s) :
    Answers s0 (execLedgerCfgWrite c v s) := by
  unfold execLedgerCfgWrite
  try dsimp only
  repeat' (first
    | with_reducible assumption
    | (intro _ _ _ _; try dsimp only)
    | (intro _ _ _; try dsimp only)
    | (intro _ _; try dsimp only)
    | with_reducible apply atCore_answers
    | with_reducible apply State.ledgerWrite_keeps
    | with_reducible apply Keeps.lit)

theorem execLedgerCfgApply_answers {s0 : State} {c : Nat} {s : State} (hk : Keeps s0 s) :
    Answers s0 (execLedgerCfgApply c s) := by
  unfold execLedgerCfgApply
  try dsimp only
  repeat' (first
    | with_reducible assumption
    | (intro _ _ _ _; try dsimp only)
    | (intro _ _ _; try dsimp only)
    | (intro _ _; try dsimp only)
    | with_reducible apply State.modCore_keeps
    | with_reducible apply atCore_answers
    | with_reducible apply State.ledgerSet_keeps
    | with_reducible apply Keeps.ite
    | with_reducible apply Keeps.iteFst
    | split
    | with_reducible apply Keeps.lit)

theorem State.violRead_keeps {s0 : State} {s : State} {c : Nat} (hk : Keeps s0 s) :
    Keeps s0 (State.violRead s c) := by
  unfold State.violRead
  repeat' (first
    | with_reducible assumption
    | with_reducible apply State.setReg_keeps
    | with_reducible apply Keeps.lit)

theorem execCoreViolCntRead_answers {s0 : State} {c : Nat} {s : State} (hk : Keeps s0 s) :
    Answers s0 (execCoreViolCntRead c s) := by
  unfold execCoreViolCntRead
  try dsimp only
  repeat' (first
    | with_reducible assumption
    | (intro _ _ _ _; try dsimp only)
    | (intro _ _ _; try dsimp only)
    | (intro _ _; try dsimp only)
    | with_reducible apply State.send_keeps
    | with_reducible apply atCore_answers
    | with_reducible apply State.violRead_keeps
    | with_reducible apply Keeps.lit)

end Sys2Proof.Machine
end

