-- ==== Sys2Proof/Laws/Keeps/Crown.lean ====
section
/-! SUPPORT. What no operation or command of Machine/Crown.lean takes away. -/

namespace Sys2Proof.Machine

set_option linter.unusedTactic false
set_option linter.unreachableTactic false

theorem State.hostTake_keeps {s0 : State} {s : State} (hk : Keeps s0 s) :
    Keeps s0 (State.hostTake s) := by
  unfold State.hostTake
  repeat' (first
    | with_reducible assumption
    | with_reducible apply State.setRbit_keeps
    | with_reducible apply Keeps.lit)

theorem State.hostReply_keeps {s0 : State} {s : State} {cmd : W64} {status : Nat} {regs : List (Nat × Nat)}
    (hk : Keeps s0 s) :
    Keeps s0 (State.hostReply s cmd status regs) := by
  unfold State.hostReply
  try dsimp only
  repeat' (first
    | with_reducible assumption
    | (intro _ _ _ _; try dsimp only)
    | (intro _ _ _; try dsimp only)
    | (intro _ _; try dsimp only)
    | with_reducible apply State.hostRing_keeps
    | with_reducible apply State.hostWrite_keeps
    | with_reducible apply Keeps.foldl
    | with_reducible apply Keeps.foldlFst
    | with_reducible apply Keeps.lit)

theorem State.hostDo_keeps {s0 : State} {s : State} {cmd : Nat} {f : State → State × Nat × List (Nat × Nat)}
    (hf : ∀ y0, Keeps s0 y0 → Keeps s0 (f y0).1) (hk : Keeps s0 s) :
    Keeps s0 (State.hostDo s cmd f) := by
  unfold State.hostDo
  try dsimp only
  repeat' (first
    | with_reducible assumption
    | (intro _ _ _ _; try dsimp only)
    | (intro _ _ _; try dsimp only)
    | (intro _ _; try dsimp only)
    | with_reducible apply State.hostTake_keeps
    | with_reducible apply State.hostReply_keeps
    | with_reducible apply hf
    | with_reducible apply Keeps.ite
    | with_reducible apply Keeps.iteFst
    | split
    | with_reducible apply Keeps.lit)

theorem State.doEcho_keeps {s0 : State} {s : State} (hk : Keeps s0 s) :
    Keeps s0 (State.doEcho s) := by
  unfold State.doEcho
  try dsimp only
  repeat' (first
    | with_reducible assumption
    | (intro _ _ _ _; try dsimp only)
    | (intro _ _ _; try dsimp only)
    | (intro _ _; try dsimp only)
    | with_reducible apply State.hostDo_keeps
    | with_reducible apply Keeps.lit)

theorem execEcho_answers {s0 : State} {s : State} (hk : Keeps s0 s) :
    Answers s0 (execEcho s) := by
  unfold execEcho
  repeat' (first
    | with_reducible assumption
    | with_reducible apply State.doEcho_keeps
    | with_reducible apply ret_answers
    | with_reducible apply Keeps.ite
    | with_reducible apply Keeps.iteFst
    | split
    | with_reducible apply Keeps.lit)

theorem State.doUnsupported_keeps {s0 : State} {s : State} (hk : Keeps s0 s) :
    Keeps s0 (State.doUnsupported s) := by
  unfold State.doUnsupported
  try dsimp only
  repeat' (first
    | with_reducible assumption
    | (intro _ _ _ _; try dsimp only)
    | (intro _ _ _; try dsimp only)
    | (intro _ _; try dsimp only)
    | with_reducible apply State.hostDo_keeps
    | split
    | with_reducible apply Keeps.lit)

theorem execUnsupported_answers {s0 : State} {s : State} (hk : Keeps s0 s) :
    Answers s0 (execUnsupported s) := by
  unfold execUnsupported
  repeat' (first
    | with_reducible assumption
    | with_reducible apply State.doUnsupported_keeps
    | with_reducible apply ret_answers
    | with_reducible apply Keeps.lit)

theorem State.jqJudge_keeps {s0 : State} {s : State} {q : Nat} (hk : Keeps s0 s) :
    Keeps s0 (State.jqJudge s q) := by
  unfold State.jqJudge
  repeat' (first
    | with_reducible assumption
    | with_reducible apply State.setRbit_keeps
    | with_reducible apply Keeps.ite
    | with_reducible apply Keeps.iteFst
    | split
    | with_reducible apply Keeps.lit)

theorem State.jqTailWrite_keeps {s0 : State} {s : State} {q : Nat} {v : BitVec 32} (hk : Keeps s0 s) :
    Keeps s0 (State.jqTailWrite s q v) := by
  unfold State.jqTailWrite
  repeat' (first
    | with_reducible assumption
    | with_reducible apply State.setRf_keeps
    | with_reducible apply State.jqJudge_keeps
    | with_reducible apply Keeps.lit)

theorem State.jqCtrlWrite_keeps {s0 : State} {s : State} {q : Nat} {v : BitVec 32} (hk : Keeps s0 s) :
    Keeps s0 (State.jqCtrlWrite s q v) := by
  unfold State.jqCtrlWrite
  try dsimp only
  repeat' (first
    | with_reducible assumption
    | with_reducible apply State.setRf_keeps
    | with_reducible apply State.setRbit_keeps
    | with_reducible apply State.jqJudge_keeps
    | with_reducible apply Keeps.ite
    | with_reducible apply Keeps.iteFst
    | split
    | with_reducible apply Keeps.lit)

theorem State.jqBaseWrite_keeps {s0 : State} {s : State} {q : Nat} {v : W64} (hk : Keeps s0 s) :
    Keeps s0 (State.jqBaseWrite s q v) := by
  unfold State.jqBaseWrite
  repeat' (first
    | with_reducible assumption
    | with_reducible apply State.rwReg_keeps
    | with_reducible apply Keeps.ite
    | with_reducible apply Keeps.iteFst
    | split
    | with_reducible apply Keeps.lit)

theorem execJqTailWrite_answers {s0 : State} {q : Nat} {v : BitVec 32} {s : State} (hk : Keeps s0 s) :
    Answers s0 (execJqTailWrite q v s) := by
  unfold execJqTailWrite
  repeat' (first
    | with_reducible assumption
    | with_reducible apply State.jqTailWrite_keeps
    | with_reducible apply ret_answers
    | with_reducible apply Keeps.ite
    | with_reducible apply Keeps.iteFst
    | split
    | with_reducible apply Keeps.lit)

theorem execJqEnable_answers {s0 : State} {q : Nat} {v : BitVec 32} {s : State} (hk : Keeps s0 s) :
    Answers s0 (execJqEnable q v s) := by
  unfold execJqEnable
  repeat' (first
    | with_reducible assumption
    | with_reducible apply State.jqCtrlWrite_keeps
    | with_reducible apply ret_answers
    | with_reducible apply Keeps.ite
    | with_reducible apply Keeps.iteFst
    | split
    | with_reducible apply Keeps.lit)

theorem State.setJob_keeps {s0 : State} {s : State} {q : Nat} {j : Option Job} (hk : Keeps s0 s) :
    Keeps s0 (State.setJob s q j) := by
  unfold State.setJob
  repeat' (first
    | with_reducible assumption
    | with_reducible apply Keeps.lit)

theorem execJobPickup_answers {s0 : State} {s : State} (hk : Keeps s0 s) :
    Answers s0 (execJobPickup s) := by
  unfold execJobPickup
  try dsimp only
  repeat' (first
    | with_reducible assumption
    | (intro _ _ _ _; try dsimp only)
    | (intro _ _ _; try dsimp only)
    | (intro _ _; try dsimp only)
    | with_reducible apply State.jqJudge_keeps
    | with_reducible apply State.setJob_keeps
    | with_reducible apply Keeps.foldl
    | with_reducible apply Keeps.foldlFst
    | with_reducible apply ret_answers
    | with_reducible apply Keeps.ite
    | with_reducible apply Keeps.iteFst
    | split
    | with_reducible apply Keeps.lit)

theorem State.jobAct_keeps {s0 : State} {s : State} {q kind : Nat} {f : State → Job → Nat → State × Bool}
    (hf : ∀ y0 y1 y2, Keeps s0 y0 → Keeps s0 (f y0 y1 y2).1) (hk : Keeps s0 s) :
    Keeps s0 (State.jobAct s q kind f) := by
  unfold State.jobAct
  try dsimp only
  repeat' (first
    | with_reducible assumption
    | (intro _ _ _ _; try dsimp only)
    | (intro _ _ _; try dsimp only)
    | (intro _ _; try dsimp only)
    | with_reducible apply State.setJob_keeps
    | with_reducible apply Keeps.foldl
    | with_reducible apply Keeps.foldlFst
    | with_reducible apply hf
    | with_reducible apply Keeps.ite
    | with_reducible apply Keeps.iteFst
    | split
    | with_reducible apply Keeps.lit)

theorem State.jobOnce_keeps {s0 : State} {s : State} {q kind : Nat} {f : State → Job → Nat → State × Bool}
    (hf : ∀ y0 y1 y2, Keeps s0 y0 → Keeps s0 (f y0 y1 y2).1) (hk : Keeps s0 s) :
    Keeps s0 (State.jobOnce s q kind f) := by
  unfold State.jobOnce
  try dsimp only
  repeat' (first
    | with_reducible assumption
    | (intro _ _ _ _; try dsimp only)
    | (intro _ _ _; try dsimp only)
    | (intro _ _; try dsimp only)
    | with_reducible apply State.setJob_keeps
    | with_reducible apply State.jobAct_keeps
    | with_reducible apply hf
    | with_reducible apply Keeps.ite
    | with_reducible apply Keeps.iteFst
    | split
    | with_reducible apply Keeps.lit)

theorem execJobNop_answers {s0 : State} {q : Nat} {s : State} (hk : Keeps s0 s) :
    Answers s0 (execJobNop q s) := by
  unfold execJobNop
  try dsimp only
  repeat' (first
    | with_reducible assumption
    | (intro _ _ _ _; try dsimp only)
    | (intro _ _ _; try dsimp only)
    | (intro _ _; try dsimp only)
    | with_reducible apply State.jobOnce_keeps
    | with_reducible apply ret_answers
    | with_reducible apply Keeps.lit)

theorem execJobLoad_answers {s0 : State} {q : Nat} {s : State} (hk : Keeps s0 s) :
    Answers s0 (execJobLoad q s) := by
  unfold execJobLoad
  try dsimp only
  repeat' (first
    | with_reducible assumption
    | (intro _ _ _ _; try dsimp only)
    | (intro _ _ _; try dsimp only)
    | (intro _ _; try dsimp only)
    | with_reducible apply State.setRf_keeps
    | with_reducible apply State.progLoadWrite_keeps
    | with_reducible apply State.jobAct_keeps
    | with_reducible apply ret_answers
    | with_reducible apply Keeps.lit)

theorem execJobStart_answers {s0 : State} {q : Nat} {s : State} (hk : Keeps s0 s) :
    Answers s0 (execJobStart q s) := by
  unfold execJobStart
  try dsimp only
  repeat' (first
    | with_reducible assumption
    | (intro _ _ _ _; try dsimp only)
    | (intro _ _ _; try dsimp only)
    | (intro _ _; try dsimp only)
    | with_reducible apply State.setRf_keeps
    | with_reducible apply State.coreStart_keeps
    | with_reducible apply State.jobOnce_keeps
    | with_reducible apply ret_answers
    | with_reducible apply Keeps.lit)

theorem execJobStop_answers {s0 : State} {q : Nat} {s : State} (hk : Keeps s0 s) :
    Answers s0 (execJobStop q s) := by
  unfold execJobStop
  try dsimp only
  repeat' (first
    | with_reducible assumption
    | (intro _ _ _ _; try dsimp only)
    | (intro _ _ _; try dsimp only)
    | (intro _ _; try dsimp only)
    | with_reducible apply State.coreStop_keeps
    | with_reducible apply State.jobOnce_keeps
    | with_reducible apply ret_answers
    | with_reducible apply Keeps.lit)

theorem execJobAbort_answers {s0 : State} {q : Nat} {s : State} (hk : Keeps s0 s) :
    Answers s0 (execJobAbort q s) := by
  unfold execJobAbort
  try dsimp only
  repeat' (first
    | with_reducible assumption
    | (intro _ _ _ _; try dsimp only)
    | (intro _ _ _; try dsimp only)
    | (intro _ _; try dsimp only)
    | with_reducible apply State.coreAbort_keeps
    | with_reducible apply State.jobOnce_keeps
    | with_reducible apply ret_answers
    | with_reducible apply Keeps.lit)

theorem execJobReset_answers {s0 : State} {q : Nat} {s : State} (hk : Keeps s0 s) :
    Answers s0 (execJobReset q s) := by
  unfold execJobReset
  try dsimp only
  repeat' (first
    | with_reducible assumption
    | (intro _ _ _ _; try dsimp only)
    | (intro _ _ _; try dsimp only)
    | (intro _ _; try dsimp only)
    | with_reducible apply State.coreReset_keeps
    | with_reducible apply State.jobOnce_keeps
    | with_reducible apply ret_answers
    | with_reducible apply Keeps.lit)

theorem execJobWait_answers {s0 : State} {q : Nat} {expired : Bool} {s : State} (hk : Keeps s0 s) :
    Answers s0 (execJobWait q expired s) := by
  unfold execJobWait
  try dsimp only
  repeat' (first
    | with_reducible assumption
    | (intro _ _ _ _; try dsimp only)
    | (intro _ _ _; try dsimp only)
    | (intro _ _; try dsimp only)
    | with_reducible apply State.setJob_keeps
    | with_reducible apply State.jobAct_keeps
    | with_reducible apply ret_answers
    | with_reducible apply Keeps.ite
    | with_reducible apply Keeps.iteFst
    | split
    | with_reducible apply Keeps.lit)

theorem execJobSignal_answers {s0 : State} {q : Nat} {s : State} (hk : Keeps s0 s) :
    Answers s0 (execJobSignal q s) := by
  unfold execJobSignal
  try dsimp only
  repeat' (first
    | with_reducible assumption
    | (intro _ _ _ _; try dsimp only)
    | (intro _ _ _; try dsimp only)
    | (intro _ _; try dsimp only)
    | with_reducible apply State.signal_keeps
    | with_reducible apply State.jobOnce_keeps
    | with_reducible apply ret_answers
    | with_reducible apply Keeps.lit)

theorem execIllegalJob_answers {s0 : State} {q : Nat} {s : State} (hk : Keeps s0 s) :
    Answers s0 (execIllegalJob q s) := by
  unfold execIllegalJob
  try dsimp only
  repeat' (first
    | with_reducible assumption
    | with_reducible apply State.setJob_keeps
    | with_reducible apply ret_answers
    | with_reducible apply Keeps.ite
    | with_reducible apply Keeps.iteFst
    | split
    | with_reducible apply Keeps.lit)

theorem execJobComplete_answers {s0 : State} {q : Nat} {s : State} (hk : Keeps s0 s) :
    Answers s0 (execJobComplete q s) := by
  unfold execJobComplete
  try dsimp only
  repeat' (first
    | with_reducible assumption
    | with_reducible apply State.setRf_keeps
    | with_reducible apply State.pulse_keeps
    | with_reducible apply State.store_keeps
    | with_reducible apply State.setJob_keeps
    | with_reducible apply ret_answers
    | with_reducible apply Keeps.ite
    | with_reducible apply Keeps.iteFst
    | split
    | with_reducible apply Keeps.lit)

end Sys2Proof.Machine
end

