-- ==== Sys2Proof/Laws/Keeps/Vespers.lean ====
section
/-! SUPPORT. What no operation or command of Machine/Vespers.lean takes away. -/

namespace Sys2Proof.Machine

set_option linter.unusedTactic false
set_option linter.unreachableTactic false

theorem State.vspJournal_keeps {s0 : State} {s : State} {surfaced : Bool} (hk : Keeps s0 s) :
    Keeps s0 (State.vspJournal s surfaced) := by
  unfold State.vspJournal
  repeat' (first
    | with_reducible assumption
    | with_reducible apply State.journalOpen_keeps
    | with_reducible apply Keeps.ite
    | with_reducible apply Keeps.iteFst
    | split
    | with_reducible apply Keeps.lit)

theorem State.doVspConfig_keeps {s0 : State} {s : State} (hk : Keeps s0 s) :
    Keeps s0 (State.doVspConfig s) := by
  unfold State.doVspConfig
  try dsimp only
  repeat' (first
    | with_reducible assumption
    | (intro _ _ _ _; try dsimp only)
    | (intro _ _ _; try dsimp only)
    | (intro _ _; try dsimp only)
    | with_reducible apply State.hostDo_keeps
    | with_reducible apply Keeps.ite
    | with_reducible apply Keeps.iteFst
    | split
    | with_reducible apply Keeps.lit
    | with_reducible apply Keeps.litMem
    | with_reducible apply Keeps.litRegs
    | with_reducible apply Keeps.litBoth
    | exact Tab.wf_clear _ _ _ _
    | exact fun hw => Tab.wf_clear _ _ _ _ (Tab.wf_clear _ _ _ _ (Tab.wf_clear _ _ _ _ hw))
    | exact fun _ => Tab.wf_nil _
    | exact Tab.wf_filter _ _ _)

theorem execVspConfig_answers {s0 : State} {s : State} (hk : Keeps s0 s) :
    Answers s0 (execVspConfig s) := by
  unfold execVspConfig
  repeat' (first
    | with_reducible assumption
    | with_reducible apply State.doVspConfig_keeps
    | with_reducible apply ret_answers
    | with_reducible apply Keeps.ite
    | with_reducible apply Keeps.iteFst
    | split
    | with_reducible apply Keeps.lit)

theorem State.bulk_keeps {s0 : State} {s : State} {b : Nat} {buddy : Buddy} {die op chk addr : Nat} {data : Bytes}
    {cl : Bool} (hk : Keeps s0 s) :
    Keeps s0 (State.bulk s b buddy die op chk addr data cl) := by
  unfold State.bulk
  repeat' (first
    | with_reducible assumption
    | with_reducible apply State.rsbSubmit_keeps
    | with_reducible apply Keeps.ite
    | with_reducible apply Keeps.iteFst
    | split
    | with_reducible apply Keeps.lit)

theorem State.eachBuddy_keeps {s0 : State} {s : State} {f : State → Nat → Buddy → State}
    (hf : ∀ y0 y1 y2, Keeps s0 y0 → Keeps s0 (f y0 y1 y2)) (hk : Keeps s0 s) :
    Keeps s0 (State.eachBuddy s f) := by
  unfold State.eachBuddy
  try dsimp only
  repeat' (first
    | with_reducible assumption
    | (intro _ _ _ _; try dsimp only)
    | (intro _ _ _; try dsimp only)
    | (intro _ _; try dsimp only)
    | with_reducible apply Keeps.iter
    | with_reducible apply Keeps.iterFst
    | with_reducible apply hf
    | split
    | with_reducible apply Keeps.lit)

theorem State.vspAbort_keeps {s0 : State} {s : State} (hk : Keeps s0 s) :
    Keeps s0 (State.vspAbort s) := by
  unfold State.vspAbort
  try dsimp only
  repeat' (first
    | with_reducible assumption
    | (intro _ _ _ _; try dsimp only)
    | (intro _ _ _; try dsimp only)
    | (intro _ _; try dsimp only)
    | with_reducible apply State.vspJournal_keeps
    | with_reducible apply State.bulk_keeps
    | with_reducible apply State.eachBuddy_keeps
    | with_reducible apply Keeps.ite
    | with_reducible apply Keeps.iteFst
    | split
    | with_reducible apply Keeps.lit)

theorem State.vspBegin_keeps {s0 : State} {s : State} {step : Nat} (hk : Keeps s0 s) :
    Keeps s0 (State.vspBegin s step) := by
  unfold State.vspBegin
  try dsimp only
  repeat' (first
    | with_reducible assumption
    | (intro _ _ _ _; try dsimp only)
    | (intro _ _ _; try dsimp only)
    | (intro _ _; try dsimp only)
    | with_reducible apply State.bulk_keeps
    | with_reducible apply State.eachBuddy_keeps
    | with_reducible apply Keeps.lit)

theorem State.doVspStep_keeps {s0 : State} {s : State} (hk : Keeps s0 s) :
    Keeps s0 (State.doVspStep s) := by
  unfold State.doVspStep
  try dsimp only
  repeat' (first
    | with_reducible assumption
    | (intro _ _ _ _; try dsimp only)
    | (intro _ _ _; try dsimp only)
    | (intro _ _; try dsimp only)
    | with_reducible apply State.hostDo_keeps
    | with_reducible apply State.vspJournal_keeps
    | with_reducible apply State.vspBegin_keeps
    | with_reducible apply Keeps.ite
    | with_reducible apply Keeps.iteFst
    | split
    | with_reducible apply Keeps.lit)

theorem execVspStep_answers {s0 : State} {s : State} (hk : Keeps s0 s) :
    Answers s0 (execVspStep s) := by
  unfold execVspStep
  repeat' (first
    | with_reducible assumption
    | with_reducible apply State.doVspStep_keeps
    | with_reducible apply ret_answers
    | with_reducible apply Keeps.ite
    | with_reducible apply Keeps.iteFst
    | split
    | with_reducible apply Keeps.lit)

theorem State.vspNext_keeps {s0 s : State} {d : Nat} (hk : Keeps s0 s) :
    ∀ q, State.vspNext s d = some q → Keeps s0 q.1 := by
  intro q hq
  unfold State.vspNext at hq
  split at hq
  · cases hq; exact Keeps.lit hk
  · split at hq
    · cases hq
      dsimp only
      split
      · exact State.verifyBlock_keeps hk
      · exact Keeps.lit (State.verifyBlock_keeps hk)
    · cases hq

theorem State.vspCommitTry_keeps {s0 : State} {s : State} (hk : Keeps s0 s) :
    Keeps s0 (State.vspCommitTry s) := by
  unfold State.vspCommitTry
  try dsimp only
  repeat' (first
    | with_reducible assumption
    | (intro _ _ _ _; try dsimp only)
    | (intro _ _ _; try dsimp only)
    | (intro _ _; try dsimp only)
    | with_reducible apply State.stage_keeps
    | with_reducible apply State.bulk_keeps
    | with_reducible apply State.eachBuddy_keeps
    | with_reducible apply Keeps.ite
    | with_reducible apply Keeps.iteFst
    | split
    | with_reducible apply Keeps.lit)

theorem execVspBlockRead_answers {s0 : State} {d : Nat} {s : State} (hk : Keeps s0 s) :
    Answers s0 (execVspBlockRead d s) := by
  unfold execVspBlockRead
  refine ret_answers ?_
  split
  · exact hk
  split
  · exact hk
  · next t key data good e =>
    have kt : Keeps s0 t := State.vspNext_keeps hk _ e
    split
    · exact kt
    · exact State.vspAbort_keeps kt
    extract_lets n j
    split
    · exact kt
    · extract_lets log u v
      split
      · exact State.vspAbort_keeps kt
      · exact State.bulk_keeps (State.bulk_keeps (Keeps.lit kt))

theorem State.vspReply_keeps {s0 : State} {s : State} {b op code : Nat} (hk : Keeps s0 s) :
    Keeps s0 (State.vspReply s b op code) := by
  unfold State.vspReply
  try dsimp only
  repeat' (first
    | with_reducible assumption
    | with_reducible apply State.vspAbort_keeps
    | with_reducible apply State.vspCommitTry_keeps
    | with_reducible apply Keeps.ite
    | with_reducible apply Keeps.iteFst
    | split
    | with_reducible apply Keeps.lit)

theorem execVspSnapshotComplete_answers {s0 : State} {micros : Nat} {s : State} (hk : Keeps s0 s) :
    Answers s0 (execVspSnapshotComplete micros s) := by
  unfold execVspSnapshotComplete
  try dsimp only
  repeat' (first
    | with_reducible assumption
    | with_reducible apply State.stage_keeps
    | with_reducible apply State.vspJournal_keeps
    | with_reducible apply ret_answers
    | with_reducible apply Keeps.ite
    | with_reducible apply Keeps.iteFst
    | split
    | with_reducible apply Keeps.lit)

theorem State.modHold_keeps {s0 : State} {s : State} {n : Nat} {f : Hold → Hold} (hk : Keeps s0 s) :
    Keeps s0 (State.modHold s n f) := by
  unfold State.modHold
  repeat' (first
    | with_reducible assumption
    | with_reducible apply Keeps.lit)

theorem State.doVspHold_keeps {s0 : State} {s : State} (hk : Keeps s0 s) :
    Keeps s0 (State.doVspHold s) := by
  unfold State.doVspHold
  try dsimp only
  repeat' (first
    | with_reducible assumption
    | (intro _ _ _ _; try dsimp only)
    | (intro _ _ _; try dsimp only)
    | (intro _ _; try dsimp only)
    | with_reducible apply State.hostDo_keeps
    | with_reducible apply State.modHold_keeps
    | with_reducible apply Keeps.ite
    | with_reducible apply Keeps.iteFst
    | split
    | with_reducible apply Keeps.lit)

theorem execVspHold_answers {s0 : State} {s : State} (hk : Keeps s0 s) :
    Answers s0 (execVspHold s) := by
  unfold execVspHold
  repeat' (first
    | with_reducible assumption
    | with_reducible apply State.doVspHold_keeps
    | with_reducible apply ret_answers
    | with_reducible apply Keeps.ite
    | with_reducible apply Keeps.iteFst
    | split
    | with_reducible apply Keeps.lit)

theorem State.doVspStatus_keeps {s0 : State} {s : State} (hk : Keeps s0 s) :
    Keeps s0 (State.doVspStatus s) := by
  unfold State.doVspStatus
  try dsimp only
  repeat' (first
    | with_reducible assumption
    | (intro _ _ _ _; try dsimp only)
    | (intro _ _ _; try dsimp only)
    | (intro _ _; try dsimp only)
    | with_reducible apply State.hostDo_keeps
    | with_reducible apply Keeps.ite
    | with_reducible apply Keeps.iteFst
    | split
    | with_reducible apply Keeps.lit)

theorem execVspStatus_answers {s0 : State} {s : State} (hk : Keeps s0 s) :
    Answers s0 (execVspStatus s) := by
  unfold execVspStatus
  repeat' (first
    | with_reducible assumption
    | with_reducible apply State.doVspStatus_keeps
    | with_reducible apply ret_answers
    | with_reducible apply Keeps.ite
    | with_reducible apply Keeps.iteFst
    | split
    | with_reducible apply Keeps.lit)

theorem State.holdReply_keeps {s0 : State} {s : State} {io : Nat} {k : Packet} {status : Nat} (hk : Keeps s0 s) :
    Keeps s0 (State.holdReply s io k status) := by
  unfold State.holdReply
  try dsimp only
  repeat' (first
    | with_reducible assumption
    | with_reducible apply State.sendReply_keeps
    | with_reducible apply Keeps.lit)

theorem State.holdDo_keeps {s0 : State} {s : State} {io : Nat} {k : Packet} {op : Nat} {f : State → Nat → State}
    (hf : ∀ y0 y1, Keeps s0 y0 → Keeps s0 (f y0 y1)) (hk : Keeps s0 s) :
    Keeps s0 (State.holdDo s io k op f) := by
  unfold State.holdDo
  try dsimp only
  repeat' (first
    | with_reducible assumption
    | (intro _ _ _ _; try dsimp only)
    | (intro _ _ _; try dsimp only)
    | (intro _ _; try dsimp only)
    | with_reducible apply State.bump_keeps
    | with_reducible apply State.sendReply_keeps
    | with_reducible apply State.freeReplies_keeps
    | with_reducible apply State.holdReply_keeps
    | with_reducible apply hf
    | with_reducible apply Keeps.ite
    | with_reducible apply Keeps.iteFst
    | split
    | with_reducible apply Keeps.lit)

theorem execVspBegin_answers {s0 : State} {io : Nat} {k : Packet} {s : State} (hk : Keeps s0 s) :
    Answers s0 (execVspBegin io k s) := by
  unfold execVspBegin
  try dsimp only
  repeat' (first
    | with_reducible assumption
    | (intro _ _ _ _; try dsimp only)
    | (intro _ _ _; try dsimp only)
    | (intro _ _; try dsimp only)
    | with_reducible apply State.modHold_keeps
    | with_reducible apply State.holdReply_keeps
    | with_reducible apply State.holdDo_keeps
    | with_reducible apply ret_answers
    | with_reducible apply Keeps.lit)

theorem execVspAbort_answers {s0 : State} {io : Nat} {k : Packet} {s : State} (hk : Keeps s0 s) :
    Answers s0 (execVspAbort io k s) := by
  unfold execVspAbort
  try dsimp only
  repeat' (first
    | with_reducible assumption
    | (intro _ _ _ _; try dsimp only)
    | (intro _ _ _; try dsimp only)
    | (intro _ _; try dsimp only)
    | with_reducible apply State.modHold_keeps
    | with_reducible apply State.holdReply_keeps
    | with_reducible apply State.holdDo_keeps
    | with_reducible apply ret_answers
    | with_reducible apply Keeps.lit)

theorem execVspCommit_answers {s0 : State} {io : Nat} {k : Packet} {s : State} (hk : Keeps s0 s) :
    Answers s0 (execVspCommit io k s) := by
  unfold execVspCommit
  try dsimp only
  repeat' (first
    | with_reducible assumption
    | (intro _ _ _ _; try dsimp only)
    | (intro _ _ _; try dsimp only)
    | (intro _ _; try dsimp only)
    | with_reducible apply State.modHold_keeps
    | with_reducible apply State.holdDo_keeps
    | with_reducible apply ret_answers
    | with_reducible apply Keeps.ite
    | with_reducible apply Keeps.iteFst
    | split
    | with_reducible apply Keeps.lit)

theorem State.applyLog_keeps {s0 : State} {s : State} {slot : Nat} {h : Hold} {n : Nat} (hk : Keeps s0 s) :
    Keeps s0 (State.applyLog s slot h n).1 := by
  unfold State.applyLog
  try dsimp only
  repeat' (first
    | with_reducible assumption
    | (intro _ _ _ _; try dsimp only)
    | (intro _ _ _; try dsimp only)
    | (intro _ _; try dsimp only)
    | with_reducible apply State.verifyBlock_keeps
    | with_reducible apply State.store_keeps
    | with_reducible apply Keeps.foldl
    | with_reducible apply Keeps.foldlFst
    | with_reducible apply Keeps.ite
    | with_reducible apply Keeps.iteFst
    | split
    | with_reducible apply Keeps.lit)

theorem execVspApplyDone_answers {s0 : State} {slot : Nat} {s : State} (hk : Keeps s0 s) :
    Answers s0 (execVspApplyDone slot s) := by
  unfold execVspApplyDone
  try dsimp only
  repeat' (first
    | with_reducible assumption
    | with_reducible apply State.vspJournal_keeps
    | with_reducible apply State.modHold_keeps
    | with_reducible apply State.holdReply_keeps
    | with_reducible apply State.applyLog_keeps
    | with_reducible apply ret_answers
    | with_reducible apply Keeps.ite
    | with_reducible apply Keeps.iteFst
    | split
    | with_reducible apply Keeps.lit
    | refine Keeps.ofPair (by with_reducible assumption) ?_)

end Sys2Proof.Machine
end

