-- ==== Sys2Proof/Laws/Keeps/Deliver.lean ====
section
/-! SUPPORT. What no operation or command of Machine/Deliver.lean takes away. -/

namespace Sys2Proof.Machine

set_option linter.unusedTactic false
set_option linter.unreachableTactic false

theorem State.endReq_keeps {s0 : State} {s : State} {e : RsbReq × Nat × W64 × Bytes} (hk : Keeps s0 s) :
    Keeps s0 (State.endReq s e) := by
  unfold State.endReq
  try dsimp only
  repeat' (first
    | with_reducible assumption
    | with_reducible apply State.cxDone_keeps
    | with_reducible apply State.dmaReply_keeps
    | with_reducible apply State.vspReply_keeps
    | split
    | with_reducible apply Keeps.lit)

theorem State.rspIn_keeps {s0 : State} {s : State} {io : Nat} {k : Packet} (hk : Keeps s0 s) :
    Keeps s0 (State.rspIn s io k) := by
  unfold State.rspIn
  try dsimp only
  repeat' (first
    | with_reducible assumption
    | with_reducible apply State.rspMatch_keeps
    | with_reducible apply State.endReq_keeps
    | split
    | with_reducible apply Keeps.lit)

theorem execRsp_answers {s0 : State} {io : Nat} {k : Packet} {s : State} (hk : Keeps s0 s) :
    Answers s0 (execRsp io k s) := by
  unfold execRsp
  try dsimp only
  repeat' (first
    | with_reducible assumption
    | with_reducible apply State.rspIn_keeps
    | with_reducible apply ret_answers
    | with_reducible apply Keeps.ite
    | with_reducible apply Keeps.iteFst
    | split
    | with_reducible apply Keeps.lit)

theorem execReissueTimeout_answers {s0 : State} {io home rid : Nat} {s : State} (hk : Keeps s0 s) :
    Answers s0 (execReissueTimeout io home rid s) := by
  unfold execReissueTimeout
  try dsimp only
  repeat' (first
    | with_reducible assumption
    | (intro _ _ _ _; try dsimp only)
    | (intro _ _ _; try dsimp only)
    | (intro _ _; try dsimp only)
    | with_reducible apply State.reissue_keeps
    | with_reducible apply State.endReq_keeps
    | with_reducible apply Keeps.foldl
    | with_reducible apply Keeps.foldlFst
    | with_reducible apply ret_answers
    | with_reducible apply Keeps.lit)

theorem execReq_answers {s0 : State} {io : Nat} {k : Packet} {s : State} (hk : Keeps s0 s) :
    Answers s0 (execReq io k s) := by
  unfold execReq
  try dsimp only
  repeat' (first
    | with_reducible assumption
    | with_reducible apply State.reqIn_keeps
    | with_reducible apply ret_answers
    | with_reducible apply Keeps.ite
    | with_reducible apply Keeps.iteFst
    | split
    | with_reducible apply Keeps.lit)

theorem State.lineParity_keeps {s0 : State} {s : State} {io line c unit : Nat} (hk : Keeps s0 s) :
    Keeps s0 (State.lineParity s io line c unit) := by
  unfold State.lineParity
  try dsimp only
  repeat' (first
    | with_reducible assumption
    | (intro _ _ _ _; try dsimp only)
    | (intro _ _ _; try dsimp only)
    | (intro _ _; try dsimp only)
    | with_reducible apply State.parityFault_keeps
    | with_reducible apply State.store_keeps
    | with_reducible apply State.homeFinish_keeps
    | with_reducible apply Keeps.foldl
    | with_reducible apply Keeps.foldlFst
    | with_reducible apply Keeps.ite
    | with_reducible apply Keeps.iteFst
    | split
    | with_reducible apply Keeps.lit)

theorem execLineApply_answers {s0 : State} {io line : Nat} {par : Bool} {s : State} (hk : Keeps s0 s) :
    Answers s0 (execLineApply io line par s) := by
  unfold execLineApply
  try dsimp only
  repeat' (first
    | with_reducible assumption
    | with_reducible apply State.store_keeps
    | with_reducible apply State.lineApply_keeps
    | with_reducible apply State.lineParity_keeps
    | with_reducible apply ret_answers
    | with_reducible apply Keeps.ite
    | with_reducible apply Keeps.iteFst
    | split
    | with_reducible apply Keeps.lit)

theorem execTrigDeliver_answers {s0 : State} {io : Nat} {k : Packet} {s : State} (hk : Keeps s0 s) :
    Answers s0 (execTrigDeliver io k s) := by
  unfold execTrigDeliver
  try dsimp only
  repeat' (first
    | with_reducible assumption
    | with_reducible apply State.trigIn_keeps
    | with_reducible apply ret_answers
    | with_reducible apply Keeps.ite
    | with_reducible apply Keeps.iteFst
    | split
    | with_reducible apply Keeps.lit)

theorem execMsgDeliver_answers {s0 : State} {io : Nat} {k : Packet} {age : W64} {s : State} (hk : Keeps s0 s) :
    Answers s0 (execMsgDeliver io k age s) := by
  unfold execMsgDeliver
  try dsimp only
  repeat' (first
    | with_reducible assumption
    | with_reducible apply State.msgIn_keeps
    | with_reducible apply ret_answers
    | with_reducible apply Keeps.ite
    | with_reducible apply Keeps.iteFst
    | split
    | with_reducible apply Keeps.lit)

theorem execDrMsg_answers {s0 : State} {g m : Nat} {hdr : BitVec 128} {payload : Bytes} {s : State} (hk : Keeps s0 s) :
    Answers s0 (execDrMsg g m hdr payload s) := by
  unfold execDrMsg
  try dsimp only
  repeat' (first
    | with_reducible assumption
    | with_reducible apply State.fresh_keeps
    | with_reducible apply State.partnerViol_keeps
    | with_reducible apply State.drNotice_keeps
    | with_reducible apply State.drCheck_keeps
    | with_reducible apply State.trigger_keeps
    | with_reducible apply ret_answers
    | with_reducible apply Keeps.ite
    | with_reducible apply Keeps.iteFst
    | split
    | with_reducible apply Keeps.lit
    | refine Keeps.ofPair (by with_reducible assumption) ?_)

theorem State.ackDo_keeps {s0 : State} {s : State} {io : Nat} {k : Packet} (hk : Keeps s0 s) :
    Keeps s0 (State.ackDo s io k) := by
  unfold State.ackDo
  try dsimp only
  repeat' (first
    | with_reducible assumption
    | (intro _ _ _ _; try dsimp only)
    | (intro _ _ _; try dsimp only)
    | (intro _ _; try dsimp only)
    | with_reducible apply State.finish_keeps
    | with_reducible apply State.ackIn_keeps
    | with_reducible apply State.reqAcked_keeps
    | with_reducible apply Keeps.foldl
    | with_reducible apply Keeps.foldlFst
    | with_reducible apply Keeps.ite
    | with_reducible apply Keeps.iteFst
    | split
    | with_reducible apply Keeps.lit)

theorem execAck_answers {s0 : State} {io : Nat} {k : Packet} {s : State} (hk : Keeps s0 s) :
    Answers s0 (execAck io k s) := by
  unfold execAck
  try dsimp only
  repeat' (first
    | with_reducible assumption
    | with_reducible apply State.ackDo_keeps
    | with_reducible apply ret_answers
    | with_reducible apply Keeps.ite
    | with_reducible apply Keeps.iteFst
    | split
    | with_reducible apply Keeps.lit)

theorem State.gaveUp_keeps {s0 : State} {s : State} {io : Nat} {p : TxPkt} (hk : Keeps s0 s) :
    Keeps s0 (State.gaveUp s io p) := by
  unfold State.gaveUp
  try dsimp only
  repeat' (first
    | with_reducible assumption
    | (intro _ _ _ _; try dsimp only)
    | (intro _ _ _; try dsimp only)
    | (intro _ _; try dsimp only)
    | with_reducible apply State.bump_keeps
    | with_reducible apply State.finish_keeps
    | with_reducible apply State.reqLost_keeps
    | with_reducible apply State.colLost_keeps
    | with_reducible apply State.endReq_keeps
    | with_reducible apply Keeps.foldl
    | with_reducible apply Keeps.foldlFst
    | with_reducible apply Keeps.ite
    | with_reducible apply Keeps.iteFst
    | split
    | with_reducible apply Keeps.lit)

theorem execResendTimeout_answers {s0 : State} {io : Nat} {key : StreamKey} {seq : BitVec 32} {s : State}
    (hk : Keeps s0 s) :
    Answers s0 (execResendTimeout io key seq s) := by
  unfold execResendTimeout
  try dsimp only
  repeat' (first
    | with_reducible assumption
    | with_reducible apply State.resendOrGiveUp_keeps
    | with_reducible apply State.gaveUp_keeps
    | with_reducible apply ret_answers
    | split
    | with_reducible apply Keeps.lit)

theorem execPacketInject_answers {s0 : State} {io : Nat} {k : Packet} {s : State} (hk : Keeps s0 s) :
    Answers s0 (execPacketInject io k s) := by
  unfold execPacketInject
  try dsimp only
  repeat' (first
    | with_reducible assumption
    | with_reducible apply State.inject_keeps
    | with_reducible apply ret_answers
    | with_reducible apply Keeps.ite
    | with_reducible apply Keeps.iteFst
    | split
    | with_reducible apply Keeps.lit)

theorem State.handOn_keeps {s0 : State} {s : State} {io : Nat} {k : Packet} (hk : Keeps s0 s) :
    Keeps s0 (State.handOn s io k) := by
  unfold State.handOn
  try dsimp only
  repeat' (first
    | with_reducible assumption
    | with_reducible apply State.reqIn_keeps
    | with_reducible apply State.msgIn_keeps
    | with_reducible apply State.trigIn_keeps
    | with_reducible apply State.colData_keeps
    | with_reducible apply State.colGrant_keeps
    | with_reducible apply State.colRereq_keeps
    | with_reducible apply State.rspIn_keeps
    | with_reducible apply Keeps.ite
    | with_reducible apply Keeps.iteFst
    | split
    | with_reducible apply Keeps.lit)

theorem execPacketArrive_answers {s0 : State} {io : Nat} {k : Packet} {s : State} (hk : Keeps s0 s) :
    Answers s0 (execPacketArrive io k s) := by
  unfold execPacketArrive
  try dsimp only
  repeat' (first
    | with_reducible assumption
    | (intro _ _ _ _; try dsimp only)
    | (intro _ _ _; try dsimp only)
    | (intro _ _; try dsimp only)
    | with_reducible apply State.acceptPacket_keeps
    | with_reducible apply State.ackDo_keeps
    | with_reducible apply State.handOn_keeps
    | with_reducible apply Keeps.foldl
    | with_reducible apply Keeps.foldlFst
    | with_reducible apply ret_answers
    | with_reducible apply Keeps.ite
    | with_reducible apply Keeps.iteFst
    | split
    | with_reducible apply Keeps.lit)

end Sys2Proof.Machine
end

