-- ==== Sys2Proof/Laws/Keeps/Power.lean ====
section
/-! SUPPORT. What no operation or command of Machine/Power.lean takes away. -/

namespace Sys2Proof.Machine

set_option linter.unusedTactic false
set_option linter.unreachableTactic false

theorem execRailSample_answers {s0 : State} {compute uncore hbm io : List Nat} {island pkg : Nat} {s : State}
    (hk : Keeps s0 s) :
    Answers s0 (execRailSample compute uncore hbm io island pkg s) := by
  unfold execRailSample
  try dsimp only
  repeat' (first
    | with_reducible assumption
    | (intro _ _ _ _; try dsimp only)
    | (intro _ _ _; try dsimp only)
    | (intro _ _; try dsimp only)
    | with_reducible apply State.bump_keeps
    | with_reducible apply Keeps.foldl
    | with_reducible apply Keeps.foldlFst
    | with_reducible apply ret_answers
    | with_reducible apply Keeps.ite
    | with_reducible apply Keeps.iteFst
    | split
    | with_reducible apply Keeps.lit)

theorem State.attribute_keeps {s0 : State} {s : State} {d energy : Nat} {model : Nat → Nat} (hk : Keeps s0 s) :
    Keeps s0 (State.attribute s d energy model) := by
  unfold State.attribute
  try dsimp only
  repeat' (first
    | with_reducible assumption
    | (intro _ _ _ _; try dsimp only)
    | (intro _ _ _; try dsimp only)
    | (intro _ _; try dsimp only)
    | with_reducible apply State.setReg_keeps
    | with_reducible apply State.setRbit_keeps
    | with_reducible apply State.bump_keeps
    | with_reducible apply Keeps.foldl
    | with_reducible apply Keeps.foldlFst
    | with_reducible apply Keeps.ite
    | with_reducible apply Keeps.iteFst
    | split
    | with_reducible apply Keeps.lit)

theorem State.learn_keeps {s0 : State} {s : State} {d dyn hbm k : Nat} {model : Nat → Nat} (hk : Keeps s0 s) :
    Keeps s0 (State.learn s d dyn hbm k model) := by
  unfold State.learn
  try dsimp only
  repeat' (first
    | with_reducible assumption
    | (intro _ _ _ _; try dsimp only)
    | (intro _ _ _; try dsimp only)
    | (intro _ _; try dsimp only)
    | with_reducible apply State.setRf_keeps
    | with_reducible apply State.bump_keeps
    | with_reducible apply Keeps.foldl
    | with_reducible apply Keeps.foldlFst
    | with_reducible apply Keeps.ite
    | with_reducible apply Keeps.iteFst
    | split
    | with_reducible apply Keeps.lit)

theorem State.judgeDiverged_keeps {s0 : State} {s : State} (hk : Keeps s0 s) :
    Keeps s0 (State.judgeDiverged s) := by
  unfold State.judgeDiverged
  try dsimp only
  repeat' (first
    | with_reducible assumption
    | with_reducible apply State.setRbit_keeps
    | with_reducible apply State.setLevel_keeps
    | with_reducible apply Keeps.ite
    | with_reducible apply Keeps.iteFst
    | split
    | with_reducible apply Keeps.lit)

theorem State.stacksTo_keeps {s0 : State} {s : State} {v w : Nat} (hk : Keeps s0 s) :
    Keeps s0 (State.stacksTo s v w) := by
  unfold State.stacksTo
  try dsimp only
  repeat' (first
    | with_reducible assumption
    | (intro _ _ _ _; try dsimp only)
    | (intro _ _ _; try dsimp only)
    | (intro _ _; try dsimp only)
    | with_reducible apply State.modStack_keeps
    | with_reducible apply State.setStackState_keeps
    | with_reducible apply State.schedApply_keeps
    | with_reducible apply Keeps.iter
    | with_reducible apply Keeps.iterFst
    | with_reducible apply Keeps.ite
    | with_reducible apply Keeps.iteFst
    | split
    | with_reducible apply Keeps.lit)

theorem State.wake_keeps {s0 : State} {s : State} {mode : Nat} (hk : Keeps s0 s) :
    Keeps s0 (State.wake s mode) := by
  unfold State.wake
  try dsimp only
  repeat' (first
    | with_reducible assumption
    | (intro _ _ _ _; try dsimp only)
    | (intro _ _ _; try dsimp only)
    | (intro _ _; try dsimp only)
    | with_reducible apply State.setRf_keeps
    | with_reducible apply State.pulse_keeps
    | with_reducible apply State.setLevel_keeps
    | with_reducible apply State.resumeDie_keeps
    | with_reducible apply State.stacksTo_keeps
    | with_reducible apply Keeps.iter
    | with_reducible apply Keeps.iterFst
    | with_reducible apply Keeps.ite
    | with_reducible apply Keeps.iteFst
    | split
    | with_reducible apply Keeps.lit)

theorem State.applyMode_keeps {s0 : State} {s : State} (hk : Keeps s0 s) :
    Keeps s0 (State.applyMode s) := by
  unfold State.applyMode
  try dsimp only
  repeat' (first
    | with_reducible assumption
    | with_reducible apply State.setRf_keeps
    | with_reducible apply State.pulse_keeps
    | with_reducible apply State.wake_keeps
    | with_reducible apply Keeps.ite
    | with_reducible apply Keeps.iteFst
    | split
    | with_reducible apply Keeps.lit)

theorem State.applyPlan_keeps {s0 : State} {s : State} {p : Plan} {m : Nat → DieModel} (hk : Keeps s0 s) :
    Keeps s0 (State.applyPlan s p m) := by
  unfold State.applyPlan
  try dsimp only
  repeat' (first
    | with_reducible assumption
    | (intro _ _ _ _; try dsimp only)
    | (intro _ _ _; try dsimp only)
    | (intro _ _; try dsimp only)
    | with_reducible apply State.setReg_keeps
    | with_reducible apply State.setRf_keeps
    | with_reducible apply State.setRbit_keeps
    | with_reducible apply State.setLevel_keeps
    | with_reducible apply Keeps.foldl
    | with_reducible apply Keeps.foldlFst
    | with_reducible apply Keeps.lit)

theorem State.learnAll_keeps {s0 : State} {t : State} {x : RegInputs} {s : State} (hk : Keeps s0 t) :
    Keeps s0 (State.learnAll t x s) := by
  unfold State.learnAll
  try dsimp only
  repeat' (first
    | with_reducible assumption
    | (intro _ _ _ _; try dsimp only)
    | (intro _ _ _; try dsimp only)
    | (intro _ _; try dsimp only)
    | with_reducible apply State.setRf_keeps
    | with_reducible apply State.attribute_keeps
    | with_reducible apply State.learn_keeps
    | with_reducible apply Keeps.foldl
    | with_reducible apply Keeps.foldlFst
    | with_reducible apply Keeps.ite
    | with_reducible apply Keeps.iteFst
    | split
    | with_reducible apply Keeps.lit
    | with_reducible apply Keeps.litMem
    | with_reducible apply Keeps.litRegs
    | with_reducible apply Keeps.litBoth
    | exact Tab.wf_clear _ _ _ _
    | exact fun hw => Tab.wf_clear _ _ _ _ (Tab.wf_clear _ _ _ _ (Tab.wf_clear _ _ _ _ hw))
    | exact fun _ => Tab.wf_nil _
    | exact Tab.wf_filter _ _ _)

theorem execRegulatorInterval_answers {s0 : State} {x : RegInputs} {s : State} (hk : Keeps s0 s) :
    Answers s0 (execRegulatorInterval x s) := by
  unfold execRegulatorInterval
  try dsimp only
  repeat' (first
    | with_reducible assumption
    | with_reducible apply State.setReg_keeps
    | with_reducible apply State.judgeDiverged_keeps
    | with_reducible apply State.applyMode_keeps
    | with_reducible apply State.applyPlan_keeps
    | with_reducible apply State.learnAll_keeps
    | with_reducible apply ret_answers
    | with_reducible apply Keeps.ite
    | with_reducible apply Keeps.iteFst
    | split
    | with_reducible apply Keeps.lit)

theorem State.pwrCapWrite_keeps {s0 : State} {s : State} {v : W64} (hk : Keeps s0 s) :
    Keeps s0 (State.pwrCapWrite s v) := by
  unfold State.pwrCapWrite
  repeat' (first
    | with_reducible assumption
    | with_reducible apply State.rwReg_keeps
    | with_reducible apply Keeps.lit)

theorem execPwrCapWrite_answers {s0 : State} {v : BitVec 32} {s : State} (hk : Keeps s0 s) :
    Answers s0 (execPwrCapWrite v s) := by
  unfold execPwrCapWrite
  repeat' (first
    | with_reducible assumption
    | with_reducible apply State.pwrCapWrite_keeps
    | with_reducible apply ret_answers
    | with_reducible apply Keeps.lit)

theorem State.learnClear_keeps {s0 : State} {s : State} (hk : Keeps s0 s) :
    Keeps s0 (State.learnClear s) := by
  unfold State.learnClear
  repeat' (first
    | with_reducible assumption
    | with_reducible apply Keeps.lit)

theorem State.attrClear_keeps {s0 : State} {s : State} (hk : Keeps s0 s) :
    Keeps s0 (State.attrClear s) := by
  unfold State.attrClear
  repeat' (first
    | with_reducible assumption
    | with_reducible apply Keeps.lit
    | with_reducible apply Keeps.litMem
    | with_reducible apply Keeps.litRegs
    | with_reducible apply Keeps.litBoth
    | exact Tab.wf_clear _ _ _ _
    | exact fun hw => Tab.wf_clear _ _ _ _ (Tab.wf_clear _ _ _ _ (Tab.wf_clear _ _ _ _ hw))
    | exact fun _ => Tab.wf_nil _
    | exact Tab.wf_filter _ _ _)

theorem execLearnClear_answers {s0 : State} {s : State} (hk : Keeps s0 s) :
    Answers s0 (execLearnClear s) := by
  unfold execLearnClear
  repeat' (first
    | with_reducible assumption
    | with_reducible apply State.learnClear_keeps
    | with_reducible apply ret_answers
    | with_reducible apply Keeps.lit)

theorem execAttrClear_answers {s0 : State} {s : State} (hk : Keeps s0 s) :
    Answers s0 (execAttrClear s) := by
  unfold execAttrClear
  repeat' (first
    | with_reducible assumption
    | with_reducible apply State.attrClear_keeps
    | with_reducible apply ret_answers
    | with_reducible apply Keeps.lit)

theorem execDroopDetect_answers {s0 : State} {d : Nat} {s : State} (hk : Keeps s0 s) :
    Answers s0 (execDroopDetect d s) := by
  unfold execDroopDetect
  repeat' (first
    | with_reducible assumption
    | with_reducible apply State.bump_keeps
    | with_reducible apply ret_answers
    | with_reducible apply Keeps.ite
    | with_reducible apply Keeps.iteFst
    | split
    | with_reducible apply Keeps.lit)

theorem execStretchEnd_answers {s0 : State} {d cycles : Nat} {still : Bool} {s : State} (hk : Keeps s0 s) :
    Answers s0 (execStretchEnd d cycles still s) := by
  unfold execStretchEnd
  try dsimp only
  repeat' (first
    | with_reducible assumption
    | with_reducible apply State.setRf_keeps
    | with_reducible apply State.setRbit_keeps
    | with_reducible apply State.bump_keeps
    | with_reducible apply State.pulse_keeps
    | with_reducible apply ret_answers
    | with_reducible apply Keeps.ite
    | with_reducible apply Keeps.iteFst
    | split
    | with_reducible apply Keeps.lit)

theorem State.railsOff_keeps {s0 : State} {s : State} (hk : Keeps s0 s) :
    Keeps s0 (State.railsOff s) := by
  unfold State.railsOff
  try dsimp only
  repeat' (first
    | with_reducible assumption
    | with_reducible apply Keeps.lit
    | with_reducible apply Keeps.litMem
    | with_reducible apply Keeps.litRegs
    | with_reducible apply Keeps.litBoth
    | exact Tab.wf_clear _ _ _ _
    | exact fun hw => Tab.wf_clear _ _ _ _ (Tab.wf_clear _ _ _ _ (Tab.wf_clear _ _ _ _ hw))
    | exact fun _ => Tab.wf_nil _
    | exact Tab.wf_filter _ _ _)

theorem State.unready_keeps {s0 : State} {s : State} (hk : Keeps s0 s) :
    Keeps s0 (State.unready s) := by
  unfold State.unready
  repeat' (first
    | with_reducible assumption
    | with_reducible apply State.setReg_keeps
    | with_reducible apply Keeps.lit)

theorem State.trip_keeps {s0 : State} {s : State} {cause place : Nat} (hk : Keeps s0 s) :
    Keeps s0 (State.trip s cause place) := by
  unfold State.trip
  try dsimp only
  repeat' (first
    | with_reducible assumption
    | with_reducible apply State.setRf_keeps
    | with_reducible apply State.setRbit_keeps
    | with_reducible apply State.setLevel_keeps
    | with_reducible apply State.journalPut_keeps
    | with_reducible apply State.railsOff_keeps
    | with_reducible apply State.unready_keeps
    | with_reducible apply Keeps.ite
    | with_reducible apply Keeps.iteFst
    | split
    | with_reducible apply Keeps.lit)

theorem execAnalogTrip_answers {s0 : State} {die : Nat} {s : State} (hk : Keeps s0 s) :
    Answers s0 (execAnalogTrip die s) := by
  unfold execAnalogTrip
  repeat' (first
    | with_reducible assumption
    | with_reducible apply State.trip_keeps
    | with_reducible apply ret_answers
    | with_reducible apply Keeps.ite
    | with_reducible apply Keeps.iteFst
    | split
    | with_reducible apply Keeps.lit)

theorem State.stepEvents_keeps {s0 : State} {s : State} (hk : Keeps s0 s) :
    Keeps s0 (State.stepEvents s) := by
  unfold State.stepEvents
  try dsimp only
  repeat' (first
    | with_reducible assumption
    | (intro _ _ _ _; try dsimp only)
    | (intro _ _ _; try dsimp only)
    | (intro _ _; try dsimp only)
    | with_reducible apply State.pulse_keeps
    | with_reducible apply State.setLevel_keeps
    | with_reducible apply Keeps.iter
    | with_reducible apply Keeps.iterFst
    | with_reducible apply Keeps.lit)

theorem State.judgeDie_keeps {s0 : State} {s : State} {die inc : Nat} (hk : Keeps s0 s) :
    Keeps s0 (State.judgeDie s die inc) := by
  unfold State.judgeDie
  try dsimp only
  repeat' (first
    | with_reducible assumption
    | with_reducible apply State.setRf_keeps
    | with_reducible apply State.trip_keeps
    | with_reducible apply State.stepEvents_keeps
    | with_reducible apply Keeps.ite
    | with_reducible apply Keeps.iteFst
    | split
    | with_reducible apply Keeps.lit)

theorem State.showDie_keeps {s0 : State} {s : State} {die : Nat} (hk : Keeps s0 s) :
    Keeps s0 (State.showDie s die) := by
  unfold State.showDie
  try dsimp only
  repeat' (first
    | with_reducible assumption
    | with_reducible apply State.setRf_keeps
    | with_reducible apply Keeps.lit)

theorem execThermalModelUpdate_answers {s0 : State} {die : Nat} {temps : List Nat} {projected : Nat} {s : State}
    (hk : Keeps s0 s) :
    Answers s0 (execThermalModelUpdate die temps projected s) := by
  unfold execThermalModelUpdate
  try dsimp only
  repeat' (first
    | with_reducible assumption
    | (intro _ _ _ _; try dsimp only)
    | (intro _ _ _; try dsimp only)
    | (intro _ _; try dsimp only)
    | with_reducible apply State.judgeDie_keeps
    | with_reducible apply State.showDie_keeps
    | with_reducible apply Keeps.foldl
    | with_reducible apply Keeps.foldlFst
    | with_reducible apply ret_answers
    | with_reducible apply Keeps.ite
    | with_reducible apply Keeps.iteFst
    | split
    | with_reducible apply Keeps.lit)

theorem State.setNode_keeps {s0 : State} {s : State} {die n : Nat} {v : Int} (hk : Keeps s0 s) :
    Keeps s0 (State.setNode s die n v) := by
  unfold State.setNode
  repeat' (first
    | with_reducible assumption
    | with_reducible apply Keeps.lit)

theorem State.diodeJournal_keeps {s0 : State} {s : State} {die : Nat} (hk : Keeps s0 s) :
    Keeps s0 (State.diodeJournal s die) := by
  unfold State.diodeJournal
  repeat' (first
    | with_reducible assumption
    | with_reducible apply State.journalOpen_keeps
    | with_reducible apply Keeps.ite
    | with_reducible apply Keeps.iteFst
    | split
    | with_reducible apply Keeps.lit)

theorem State.diodeOne_keeps {s0 : State} {s : State} {die n : Nat} {v : Int} {near : Bool} (hk : Keeps s0 s) :
    Keeps s0 (State.diodeOne s die n v near) := by
  unfold State.diodeOne
  try dsimp only
  repeat' (first
    | with_reducible assumption
    | with_reducible apply State.pulse_keeps
    | with_reducible apply State.setNode_keeps
    | with_reducible apply State.diodeJournal_keeps
    | with_reducible apply State.diodes_keeps
    | with_reducible apply Keeps.ite
    | with_reducible apply Keeps.iteFst
    | split
    | with_reducible apply Keeps.lit)

theorem State.diodes_keeps {s0 : State} {s : State} {die : Nat} {readings : List Int} (hk : Keeps s0 s) :
    Keeps s0 (State.diodes s die readings) := by
  unfold State.diodes
  try dsimp only
  repeat' (first
    | with_reducible assumption
    | (intro _ _ _ _; try dsimp only)
    | (intro _ _ _; try dsimp only)
    | (intro _ _; try dsimp only)
    | with_reducible apply State.diodeOne_keeps
    | with_reducible apply Keeps.iter
    | with_reducible apply Keeps.iterFst
    | with_reducible apply Keeps.lit)

theorem State.countApart_keeps {s0 : State} {t : State} {die n : Nat} (hk : Keeps s0 t) :
    Keeps s0 (State.countApart t die n) := by
  unfold State.countApart
  repeat' (first
    | with_reducible assumption
    | with_reducible apply Keeps.lit)

theorem State.showDiodes_keeps {s0 : State} {t : State} {die : Nat} {readings : List Int} (hk : Keeps s0 t) :
    Keeps s0 (State.showDiodes t die readings) := by
  unfold State.showDiodes
  try dsimp only
  repeat' (first
    | with_reducible assumption
    | (intro _ _ _ _; try dsimp only)
    | (intro _ _ _; try dsimp only)
    | (intro _ _; try dsimp only)
    | with_reducible apply State.setRf_keeps
    | with_reducible apply Keeps.foldl
    | with_reducible apply Keeps.foldlFst
    | with_reducible apply Keeps.lit)

theorem execDiodeRound_answers {s0 : State} {die : Nat} {readings : List Int} {s : State} (hk : Keeps s0 s) :
    Answers s0 (execDiodeRound die readings s) := by
  unfold execDiodeRound
  try dsimp only
  repeat' (first
    | with_reducible assumption
    | (intro _ _ _ _; try dsimp only)
    | (intro _ _ _; try dsimp only)
    | (intro _ _; try dsimp only)
    | with_reducible apply State.judgeDie_keeps
    | with_reducible apply State.showDie_keeps
    | with_reducible apply State.setNode_keeps
    | with_reducible apply State.diodeJournal_keeps
    | with_reducible apply State.diodes_keeps
    | with_reducible apply State.countApart_keeps
    | with_reducible apply State.showDiodes_keeps
    | with_reducible apply Keeps.iter
    | with_reducible apply Keeps.iterFst
    | with_reducible apply ret_answers
    | with_reducible apply Keeps.ite
    | with_reducible apply Keeps.iteFst
    | split
    | with_reducible apply Keeps.lit)

theorem execHbmTempRound_answers {s0 : State} {st : Nat} {r : TempRound} {s : State} (hk : Keeps s0 s) :
    Answers s0 (execHbmTempRound st r s) := by
  unfold execHbmTempRound
  try dsimp only
  repeat' (first
    | with_reducible assumption
    | with_reducible apply State.setRf_keeps
    | with_reducible apply State.refreshRound_keeps
    | with_reducible apply State.trip_keeps
    | with_reducible apply State.stepEvents_keeps
    | with_reducible apply ret_answers
    | with_reducible apply Keeps.ite
    | with_reducible apply Keeps.iteFst
    | split
    | with_reducible apply Keeps.lit)

theorem execPackageNodeUpdate_answers {s0 : State} {substrate coldPlate coolant : Nat} {s : State} (hk : Keeps s0 s) :
    Answers s0 (execPackageNodeUpdate substrate coldPlate coolant s) := by
  unfold execPackageNodeUpdate
  try dsimp only
  repeat' (first
    | with_reducible assumption
    | with_reducible apply State.setRf_keeps
    | with_reducible apply ret_answers
    | with_reducible apply Keeps.ite
    | with_reducible apply Keeps.iteFst
    | split
    | with_reducible apply Keeps.lit)

theorem execCoolDutyUpdate_answers {s0 : State} {s : State} (hk : Keeps s0 s) :
    Answers s0 (execCoolDutyUpdate s) := by
  unfold execCoolDutyUpdate
  try dsimp only
  repeat' (first
    | with_reducible assumption
    | (intro _ _ _ _; try dsimp only)
    | (intro _ _ _; try dsimp only)
    | (intro _ _; try dsimp only)
    | with_reducible apply State.setRf_keeps
    | with_reducible apply Keeps.foldl
    | with_reducible apply Keeps.foldlFst
    | with_reducible apply ret_answers
    | with_reducible apply Keeps.ite
    | with_reducible apply Keeps.iteFst
    | split
    | with_reducible apply Keeps.lit)

theorem execCoolantRead_answers {s0 : State} {inlet outlet : Int} {s : State} (hk : Keeps s0 s) :
    Answers s0 (execCoolantRead inlet outlet s) := by
  unfold execCoolantRead
  try dsimp only
  repeat' (first
    | with_reducible assumption
    | with_reducible apply State.setRf_keeps
    | with_reducible apply State.setRbit_keeps
    | with_reducible apply State.setLevel_keeps
    | with_reducible apply ret_answers
    | with_reducible apply Keeps.ite
    | with_reducible apply Keeps.iteFst
    | split
    | with_reducible apply Keeps.lit)

theorem State.lasers_keeps {s0 : State} {s : State} {v : Nat} (hk : Keeps s0 s) :
    Keeps s0 (State.lasers s v) := by
  unfold State.lasers
  try dsimp only
  repeat' (first
    | with_reducible assumption
    | (intro _ _ _ _; try dsimp only)
    | (intro _ _ _; try dsimp only)
    | (intro _ _; try dsimp only)
    | with_reducible apply State.setRf_keeps
    | with_reducible apply Keeps.iter
    | with_reducible apply Keeps.iterFst
    | with_reducible apply Keeps.ite
    | with_reducible apply Keeps.iteFst
    | split
    | with_reducible apply Keeps.lit)

theorem State.portsDown_keeps {s0 : State} {s : State} {v : Nat} (hk : Keeps s0 s) :
    Keeps s0 (State.portsDown s v) := by
  unfold State.portsDown
  try dsimp only
  repeat' (first
    | with_reducible assumption
    | (intro _ _ _ _; try dsimp only)
    | (intro _ _ _; try dsimp only)
    | (intro _ _; try dsimp only)
    | with_reducible apply State.setRf_keeps
    | with_reducible apply State.mapChange_keeps
    | with_reducible apply State.dirDies_keeps
    | with_reducible apply State.flushVc0_keeps
    | with_reducible apply State.portDown_keeps
    | with_reducible apply Keeps.iter
    | with_reducible apply Keeps.iterFst
    | with_reducible apply Keeps.foldl
    | with_reducible apply Keeps.foldlFst
    | with_reducible apply Keeps.ite
    | with_reducible apply Keeps.iteFst
    | split
    | with_reducible apply Keeps.lit)

theorem State.pwrModeWrite_keeps {s0 : State} {s : State} {v : W64} (hk : Keeps s0 s) :
    Keeps s0 (State.pwrModeWrite s v) := by
  unfold State.pwrModeWrite
  try dsimp only
  repeat' (first
    | with_reducible assumption
    | with_reducible apply State.setRf_keeps
    | with_reducible apply State.setRbit_keeps
    | with_reducible apply Keeps.ite
    | with_reducible apply Keeps.iteFst
    | split
    | with_reducible apply Keeps.lit)

theorem execPwrModeWrite_answers {s0 : State} {v : BitVec 32} {s : State} (hk : Keeps s0 s) :
    Answers s0 (execPwrModeWrite v s) := by
  unfold execPwrModeWrite
  repeat' (first
    | with_reducible assumption
    | with_reducible apply State.pwrModeWrite_keeps
    | with_reducible apply ret_answers
    | with_reducible apply Keeps.lit)

theorem execMidnightEntry_answers {s0 : State} {s : State} (hk : Keeps s0 s) :
    Answers s0 (execMidnightEntry s) := by
  unfold execMidnightEntry
  try dsimp only
  repeat' (first
    | with_reducible assumption
    | with_reducible apply State.setRf_keeps
    | with_reducible apply State.setRbit_keeps
    | with_reducible apply State.pulse_keeps
    | with_reducible apply State.setLevel_keeps
    | with_reducible apply State.stacksTo_keeps
    | with_reducible apply State.lasers_keeps
    | with_reducible apply State.portsDown_keeps
    | with_reducible apply ret_answers
    | with_reducible apply Keeps.ite
    | with_reducible apply Keeps.iteFst
    | split
    | with_reducible apply Keeps.lit)

end Sys2Proof.Machine
end

