-- ==== Sys2Proof/Laws/Keeps/Resilience.lean ====
section
/-! SUPPORT. What no operation or command of Machine/Resilience.lean takes away. -/

namespace Sys2Proof.Machine

set_option linter.unusedTactic false
set_option linter.unreachableTactic false

theorem State.dieDead_keeps {s0 : State} {s : State} {d : Nat} (hk : Keeps s0 s) :
    Keeps s0 (State.dieDead s d) := by
  unfold State.dieDead
  try dsimp only
  repeat' (first
    | with_reducible assumption
    | (intro _ _ _ _; try dsimp only)
    | (intro _ _ _; try dsimp only)
    | (intro _ _; try dsimp only)
    | with_reducible apply State.setRf_keeps
    | with_reducible apply State.setRbit_keeps
    | with_reducible apply State.setCore_keeps
    | with_reducible apply State.mapChange_keeps
    | with_reducible apply State.journalOpen_keeps
    | with_reducible apply State.vspAbort_keeps
    | with_reducible apply Keeps.iter
    | with_reducible apply Keeps.iterFst
    | with_reducible apply Keeps.ite
    | with_reducible apply Keeps.iteFst
    | split
    | with_reducible apply Keeps.lit)

theorem execDieHealthCheck_answers {s0 : State} {d : Nat} {answered regulated : Bool} {s : State} (hk : Keeps s0 s) :
    Answers s0 (execDieHealthCheck d answered regulated s) := by
  unfold execDieHealthCheck
  try dsimp only
  repeat' (first
    | with_reducible assumption
    | with_reducible apply State.dieDead_keeps
    | with_reducible apply ret_answers
    | with_reducible apply Keeps.ite
    | with_reducible apply Keeps.iteFst
    | split
    | with_reducible apply Keeps.lit)

theorem execJournalCommit_answers {s0 : State} {s : State} (hk : Keeps s0 s) :
    Answers s0 (execJournalCommit s) := by
  unfold execJournalCommit
  try dsimp only
  repeat' (first
    | with_reducible assumption
    | with_reducible apply State.pulse_keeps
    | with_reducible apply State.journalPut_keeps
    | with_reducible apply ret_answers
    | with_reducible apply Keeps.ite
    | with_reducible apply Keeps.iteFst
    | split
    | with_reducible apply Keeps.lit)

theorem execHealthRecord_answers {s0 : State} {s : State} (hk : Keeps s0 s) :
    Answers s0 (execHealthRecord s) := by
  unfold execHealthRecord
  repeat' (first
    | with_reducible assumption
    | with_reducible apply State.journalOpen_keeps
    | with_reducible apply ret_answers
    | with_reducible apply Keeps.ite
    | with_reducible apply Keeps.iteFst
    | split
    | with_reducible apply Keeps.lit)

theorem State.doJrnlRead_keeps {s0 : State} {s : State} (hk : Keeps s0 s) :
    Keeps s0 (State.doJrnlRead s) := by
  unfold State.doJrnlRead
  try dsimp only
  repeat' (first
    | with_reducible assumption
    | (intro _ _ _ _; try dsimp only)
    | (intro _ _ _; try dsimp only)
    | (intro _ _; try dsimp only)
    | with_reducible apply State.fresh_keeps
    | with_reducible apply State.store_keeps
    | with_reducible apply State.hostDo_keeps
    | split
    | with_reducible apply Keeps.lit)

theorem execJrnlRead_answers {s0 : State} {s : State} (hk : Keeps s0 s) :
    Answers s0 (execJrnlRead s) := by
  unfold execJrnlRead
  repeat' (first
    | with_reducible assumption
    | with_reducible apply State.doJrnlRead_keeps
    | with_reducible apply ret_answers
    | with_reducible apply Keeps.ite
    | with_reducible apply Keeps.iteFst
    | split
    | with_reducible apply Keeps.lit)

theorem State.doFaultMap_keeps {s0 : State} {s : State} (hk : Keeps s0 s) :
    Keeps s0 (State.doFaultMap s) := by
  unfold State.doFaultMap
  try dsimp only
  repeat' (first
    | with_reducible assumption
    | (intro _ _ _ _; try dsimp only)
    | (intro _ _ _; try dsimp only)
    | (intro _ _; try dsimp only)
    | with_reducible apply State.store_keeps
    | with_reducible apply State.hostDo_keeps
    | with_reducible apply Keeps.lit)

theorem execFaultMap_answers {s0 : State} {s : State} (hk : Keeps s0 s) :
    Answers s0 (execFaultMap s) := by
  unfold execFaultMap
  repeat' (first
    | with_reducible assumption
    | with_reducible apply State.doFaultMap_keeps
    | with_reducible apply ret_answers
    | with_reducible apply Keeps.ite
    | with_reducible apply Keeps.iteFst
    | split
    | with_reducible apply Keeps.lit)

theorem State.cutChannel_keeps {s0 : State} {s : State} {ch : Nat} (hk : Keeps s0 s) :
    Keeps s0 (State.cutChannel s ch) := by
  unfold State.cutChannel
  try dsimp only
  repeat' (first
    | with_reducible assumption
    | with_reducible apply State.modWork_keeps
    | with_reducible apply State.modCur_keeps
    | with_reducible apply Keeps.ite
    | with_reducible apply Keeps.iteFst
    | split
    | with_reducible apply Keeps.lit)

theorem State.drainStart_keeps {s0 : State} {s : State} (hk : Keeps s0 s) :
    Keeps s0 (State.drainStart s) := by
  unfold State.drainStart
  try dsimp only
  repeat' (first
    | with_reducible assumption
    | (intro _ _ _ _; try dsimp only)
    | (intro _ _ _; try dsimp only)
    | (intro _ _; try dsimp only)
    | with_reducible apply State.setRbit_keeps
    | with_reducible apply State.chAbort_keeps
    | with_reducible apply State.colTeardown_keeps
    | with_reducible apply State.coreAbort_keeps
    | with_reducible apply State.cutChannel_keeps
    | with_reducible apply Keeps.iter
    | with_reducible apply Keeps.iterFst
    | with_reducible apply Keeps.ite
    | with_reducible apply Keeps.iteFst
    | split
    | with_reducible apply Keeps.lit)

theorem State.doDrain_keeps {s0 : State} {s : State} (hk : Keeps s0 s) :
    Keeps s0 (State.doDrain s) := by
  unfold State.doDrain
  try dsimp only
  repeat' (first
    | with_reducible assumption
    | (intro _ _ _ _; try dsimp only)
    | (intro _ _ _; try dsimp only)
    | (intro _ _; try dsimp only)
    | with_reducible apply State.hostTake_keeps
    | with_reducible apply State.hostDo_keeps
    | with_reducible apply State.drainStart_keeps
    | with_reducible apply Keeps.ite
    | with_reducible apply Keeps.iteFst
    | split
    | with_reducible apply Keeps.lit)

theorem execDrain_answers {s0 : State} {s : State} (hk : Keeps s0 s) :
    Answers s0 (execDrain s) := by
  unfold execDrain
  repeat' (first
    | with_reducible assumption
    | with_reducible apply State.doDrain_keeps
    | with_reducible apply ret_answers
    | with_reducible apply Keeps.ite
    | with_reducible apply Keeps.iteFst
    | split
    | with_reducible apply Keeps.lit)

theorem execDrainComplete_answers {s0 : State} {micros : Nat} {s : State} (hk : Keeps s0 s) :
    Answers s0 (execDrainComplete micros s) := by
  unfold execDrainComplete
  try dsimp only
  repeat' (first
    | with_reducible assumption
    | with_reducible apply State.journalOpen_keeps
    | with_reducible apply State.hostReply_keeps
    | with_reducible apply State.vspAbort_keeps
    | with_reducible apply ret_answers
    | with_reducible apply Keeps.ite
    | with_reducible apply Keeps.iteFst
    | split
    | with_reducible apply Keeps.lit)

theorem State.abandonUpdate_keeps {s0 : State} {s : State} (hk : Keeps s0 s) :
    Keeps s0 (State.abandonUpdate s) := by
  unfold State.abandonUpdate
  try dsimp only
  repeat' (first
    | with_reducible assumption
    | split
    | with_reducible apply Keeps.lit)

theorem execPwrfailAssert_answers {s0 : State} {inTime : Bool} {s : State} (hk : Keeps s0 s) :
    Answers s0 (execPwrfailAssert inTime s) := by
  unfold execPwrfailAssert
  try dsimp only
  repeat' (first
    | with_reducible assumption
    | (intro _ _ _ _; try dsimp only)
    | (intro _ _ _; try dsimp only)
    | (intro _ _; try dsimp only)
    | with_reducible apply State.setRf_keeps
    | with_reducible apply State.setLevel_keeps
    | with_reducible apply State.journalOpen_keeps
    | with_reducible apply State.vspAbort_keeps
    | with_reducible apply State.stacksTo_keeps
    | with_reducible apply State.lasers_keeps
    | with_reducible apply State.portsDown_keeps
    | with_reducible apply State.cutChannel_keeps
    | with_reducible apply State.abandonUpdate_keeps
    | with_reducible apply Keeps.iter
    | with_reducible apply Keeps.iterFst
    | with_reducible apply ret_answers
    | with_reducible apply Keeps.ite
    | with_reducible apply Keeps.iteFst
    | split
    | with_reducible apply Keeps.lit)

end Sys2Proof.Machine
end

