-- ==== Sys2Proof/Laws/Keeps/Dawn.lean ====
section
/-! SUPPORT. What no operation or command of Machine/Dawn.lean takes away. -/

namespace Sys2Proof.Machine

set_option linter.unusedTactic false
set_option linter.unreachableTactic false

theorem resetRegs_wf : Tab.wf (0 : W64) resetRegs = true := by decide +kernel

theorem State.cold_keeps {s0 s : State} (hk : Keeps s0 s) : Keeps s0 (State.cold s) := by
  unfold State.cold
  dsimp only
  exact State.setRf_keeps (Keeps.litBoth hk (fun _ => resetRegs_wf) (fun _ => rfl))

theorem keptRegs_wf (l : List (Nat × W64)) (r : Tab W64) (h : Tab.wf (0 : W64) r = true) :
    Tab.wf (0 : W64) (l.foldr (fun x r => if keptReg x.1 then Tab.put 0 x.1 x.2 r else r) r) = true := by
  induction l with
  | nil => exact h
  | cons x l ih =>
    rw [List.foldr_cons]
    split
    · exact Tab.wf_put _ _ _ _ ih
    · exact ih
theorem State.warm_keeps {s0 s : State} (hk : Keeps s0 s) : Keeps s0 (State.warm s) := by
  unfold State.warm
  extract_lets t
  have kt : Keeps s0 t := State.cold_keeps hk
  clear_value t
  exact Keeps.litRegs kt (fun h => keptRegs_wf _ _ (Tab.wf_filter _ _ _ h))

theorem State.pciReset_keeps {s0 : State} {s : State} (hk : Keeps s0 s) :
    Keeps s0 (State.pciReset s) := by
  unfold State.pciReset
  try dsimp only
  repeat' (first
    | with_reducible assumption
    | (intro _ _ _ _; try dsimp only)
    | (intro _ _ _; try dsimp only)
    | (intro _ _; try dsimp only)
    | with_reducible apply State.setReg_keeps
    | with_reducible apply Keeps.iter
    | with_reducible apply Keeps.iterFst
    | with_reducible apply Keeps.ite
    | with_reducible apply Keeps.iteFst
    | split
    | with_reducible apply Keeps.lit
    | with_reducible apply Keeps.litMem
    | with_reducible apply Keeps.litRegs
    | with_reducible apply Keeps.litBoth
    | exact Tab.wf_clear _ _ _ _
    | exact fun hw => Tab.wf_clear _ _ _ _ (Tab.wf_clear _ _ _ _ (Tab.wf_clear _ _ _ _ hw))
    | exact fun _ => Tab.wf_nil _
    | exact Tab.wf_filter _ _ _)

theorem State.append_keeps {s0 : State} {s : State} {e : CEntry} (hk : Keeps s0 s) :
    Keeps s0 (State.append s e) := by
  unfold State.append
  try dsimp only
  repeat' (first
    | with_reducible assumption
    | with_reducible apply Keeps.ite
    | with_reducible apply Keeps.iteFst
    | split
    | with_reducible apply Keeps.lit)

theorem State.loadCfg_keeps {s0 : State} {s : State} {off : Nat} {v : W64} (hk : Keeps s0 s) :
    Keeps s0 (State.loadCfg s off v) := by
  unfold State.loadCfg
  try dsimp only
  repeat' (first
    | with_reducible assumption
    | with_reducible apply State.setReg_keeps
    | with_reducible apply State.srcCfg_keeps
    | with_reducible apply Keeps.ite
    | with_reducible apply Keeps.iteFst
    | split
    | with_reducible apply Keeps.lit)

theorem State.applyEntry_keeps {s0 : State} {s : State} {w : BitVec 128} (hk : Keeps s0 s) :
    Keeps s0 (State.applyEntry s w) := by
  unfold State.applyEntry
  try dsimp only
  repeat' (first
    | with_reducible assumption
    | with_reducible apply State.setRf_keeps
    | with_reducible apply State.loadCfg_keeps
    | with_reducible apply Keeps.ite
    | with_reducible apply Keeps.iteFst
    | split
    | with_reducible apply Keeps.lit)

theorem State.applyRecord_keeps {s0 : State} {s : State} {entries : List (BitVec 128)} (hk : Keeps s0 s) :
    Keeps s0 (State.applyRecord s entries) := by
  unfold State.applyRecord
  try dsimp only
  repeat' (first
    | with_reducible assumption
    | (intro _ _ _ _; try dsimp only)
    | (intro _ _ _; try dsimp only)
    | (intro _ _; try dsimp only)
    | with_reducible apply State.setRf_keeps
    | with_reducible apply State.setRbit_keeps
    | with_reducible apply State.schedApply_keeps
    | with_reducible apply State.loadCfg_keeps
    | with_reducible apply State.applyEntry_keeps
    | with_reducible apply Keeps.iter
    | with_reducible apply Keeps.iterFst
    | with_reducible apply Keeps.foldl
    | with_reducible apply Keeps.foldlFst
    | with_reducible apply Keeps.ite
    | with_reducible apply Keeps.iteFst
    | split
    | with_reducible apply Keeps.lit)

theorem State.startGroup_keeps {s0 : State} {s : State} {g : Nat} (hk : Keeps s0 s) :
    Keeps s0 (State.startGroup s g) := by
  unfold State.startGroup
  try dsimp only
  repeat' (first
    | with_reducible assumption
    | (intro _ _ _ _; try dsimp only)
    | (intro _ _ _; try dsimp only)
    | (intro _ _; try dsimp only)
    | with_reducible apply State.setRf_keeps
    | with_reducible apply State.judgeGroup_keeps
    | with_reducible apply State.roleStart_keeps
    | with_reducible apply Keeps.iter
    | with_reducible apply Keeps.iterFst
    | with_reducible apply Keeps.ite
    | with_reducible apply Keeps.iteFst
    | split
    | with_reducible apply Keeps.lit)

theorem State.bringUp_keeps {s0 : State} {s : State} (hk : Keeps s0 s) :
    Keeps s0 (State.bringUp s) := by
  unfold State.bringUp
  try dsimp only
  repeat' (first
    | with_reducible assumption
    | (intro _ _ _ _; try dsimp only)
    | (intro _ _ _; try dsimp only)
    | (intro _ _; try dsimp only)
    | with_reducible apply State.setRf_keeps
    | with_reducible apply State.setRbit_keeps
    | with_reducible apply State.setRun_keeps
    | with_reducible apply State.setStackState_keeps
    | with_reducible apply State.dieLit_keeps
    | with_reducible apply State.startGroup_keeps
    | with_reducible apply Keeps.iter
    | with_reducible apply Keeps.iterFst
    | with_reducible apply Keeps.ite
    | with_reducible apply Keeps.iteFst
    | split
    | with_reducible apply Keeps.lit)

theorem State.identify_keeps {s0 : State} {s : State} (hk : Keeps s0 s) :
    Keeps s0 (State.identify s) := by
  unfold State.identify
  try dsimp only
  repeat' (first
    | with_reducible assumption
    | with_reducible apply State.setReg_keeps
    | with_reducible apply Keeps.ite
    | with_reducible apply Keeps.iteFst
    | split
    | with_reducible apply Keeps.lit)

theorem State.adopt_keeps {s0 : State} {s : State} {e : CEntry} {status : W64} (hk : Keeps s0 s) :
    Keeps s0 (State.adopt s e status) := by
  unfold State.adopt
  try dsimp only
  repeat' (first
    | with_reducible assumption
    | (intro _ _ _ _; try dsimp only)
    | (intro _ _ _; try dsimp only)
    | (intro _ _; try dsimp only)
    | with_reducible apply State.setReg_keeps
    | with_reducible apply State.setRf_keeps
    | with_reducible apply State.append_keeps
    | with_reducible apply Keeps.iter
    | with_reducible apply Keeps.iterFst
    | with_reducible apply Keeps.lit)

theorem State.holdSlow_keeps {s0 : State} {s : State} (hk : Keeps s0 s) :
    Keeps s0 (State.holdSlow s) := by
  unfold State.holdSlow
  try dsimp only
  repeat' (first
    | with_reducible assumption
    | (intro _ _ _ _; try dsimp only)
    | (intro _ _ _; try dsimp only)
    | (intro _ _; try dsimp only)
    | with_reducible apply State.setRf_keeps
    | with_reducible apply Keeps.iter
    | with_reducible apply Keeps.iterFst
    | with_reducible apply Keeps.ite
    | with_reducible apply Keeps.iteFst
    | split
    | with_reducible apply Keeps.lit)

theorem State.recoveryBoot_keeps {s0 : State} {s : State} (hk : Keeps s0 s) :
    Keeps s0 (State.recoveryBoot s) := by
  unfold State.recoveryBoot
  try dsimp only
  repeat' (first
    | with_reducible assumption
    | (intro _ _ _ _; try dsimp only)
    | (intro _ _ _; try dsimp only)
    | (intro _ _; try dsimp only)
    | with_reducible apply State.setRf_keeps
    | with_reducible apply State.setRbit_keeps
    | with_reducible apply State.setStackState_keeps
    | with_reducible apply State.startGroup_keeps
    | with_reducible apply State.holdSlow_keeps
    | with_reducible apply Keeps.iter
    | with_reducible apply Keeps.iterFst
    | with_reducible apply Keeps.ite
    | with_reducible apply Keeps.iteFst
    | split
    | with_reducible apply Keeps.lit)

theorem State.normalBoot_keeps {s0 : State} {s : State} {i : Image} {record : Option Image} (hk : Keeps s0 s) :
    Keeps s0 (State.normalBoot s i record) := by
  unfold State.normalBoot
  try dsimp only
  repeat' (first
    | with_reducible assumption
    | with_reducible apply State.setReg_keeps
    | with_reducible apply State.setRf_keeps
    | with_reducible apply State.setRbit_keeps
    | with_reducible apply State.applyRecord_keeps
    | with_reducible apply State.bringUp_keeps
    | split
    | with_reducible apply Keeps.lit)

theorem State.dawn_keeps {s0 : State} {s : State} {sel : Nat} (hk : Keeps s0 s) :
    Keeps s0 (State.dawn s sel) := by
  unfold State.dawn
  try dsimp only
  repeat' (first
    | with_reducible assumption
    | (intro _ _ _ _; try dsimp only)
    | (intro _ _ _; try dsimp only)
    | (intro _ _; try dsimp only)
    | with_reducible apply State.journalOpen_keeps
    | with_reducible apply State.identify_keeps
    | with_reducible apply State.adopt_keeps
    | with_reducible apply State.recoveryBoot_keeps
    | with_reducible apply State.normalBoot_keeps
    | with_reducible apply Keeps.foldl
    | with_reducible apply Keeps.foldlFst
    | with_reducible apply Keeps.ite
    | with_reducible apply Keeps.iteFst
    | split
    | with_reducible apply Keeps.lit)

theorem execPorstRelease_answers {s0 : State} {bootSel : BitVec 2} {s : State} (hk : Keeps s0 s) :
    Answers s0 (execPorstRelease bootSel s) := by
  unfold execPorstRelease
  try dsimp only
  repeat' (first
    | with_reducible assumption
    | with_reducible apply State.dawn_keeps
    | with_reducible apply ret_answers
    | with_reducible apply Keeps.ite
    | with_reducible apply Keeps.iteFst
    | split
    | with_reducible apply Keeps.lit)

theorem execPorstAssert_answers {s0 : State} {s : State} (hk : Keeps s0 s) :
    Answers s0 (execPorstAssert s) := by
  unfold execPorstAssert
  repeat' (first
    | with_reducible assumption
    | with_reducible apply State.cold_keeps
    | with_reducible apply ret_answers
    | with_reducible apply Keeps.ite
    | with_reducible apply Keeps.iteFst
    | split
    | with_reducible apply Keeps.lit)

theorem State.pkgReset_keeps {s0 : State} {s : State} {v : W64} (hk : Keeps s0 s) :
    Keeps s0 (State.pkgReset s v) := by
  unfold State.pkgReset
  repeat' (first
    | with_reducible assumption
    | with_reducible apply State.warm_keeps
    | with_reducible apply State.dawn_keeps
    | with_reducible apply Keeps.ite
    | with_reducible apply Keeps.iteFst
    | split
    | with_reducible apply Keeps.lit)

theorem execPkgReset_answers {s0 : State} {v : BitVec 32} {s : State} (hk : Keeps s0 s) :
    Answers s0 (execPkgReset v s) := by
  unfold execPkgReset
  repeat' (first
    | with_reducible assumption
    | with_reducible apply State.pkgReset_keeps
    | with_reducible apply ret_answers
    | with_reducible apply Keeps.lit)

theorem State.dawnJournal_keeps {s0 : State} {s : State} (hk : Keeps s0 s) :
    Keeps s0 (State.dawnJournal s) := by
  unfold State.dawnJournal
  repeat' (first
    | with_reducible assumption
    | with_reducible apply State.journalPut_keeps
    | with_reducible apply Keeps.lit)

theorem execDawnDone_answers {s0 : State} {s : State} (hk : Keeps s0 s) :
    Answers s0 (execDawnDone s) := by
  unfold execDawnDone
  repeat' (first
    | with_reducible assumption
    | with_reducible apply State.setRf_keeps
    | with_reducible apply State.setRbit_keeps
    | with_reducible apply State.dawnJournal_keeps
    | with_reducible apply ret_answers
    | with_reducible apply Keeps.ite
    | with_reducible apply Keeps.iteFst
    | split
    | with_reducible apply Keeps.lit)

theorem execPerst_answers {s0 : State} {asserted : Bool} {s : State} (hk : Keeps s0 s) :
    Answers s0 (execPerst asserted s) := by
  unfold execPerst
  try dsimp only
  repeat' (first
    | with_reducible assumption
    | with_reducible apply State.setRbit_keeps
    | with_reducible apply State.pciReset_keeps
    | with_reducible apply ret_answers
    | with_reducible apply Keeps.ite
    | with_reducible apply Keeps.iteFst
    | split
    | with_reducible apply Keeps.lit)

theorem execPcieHotReset_answers {s0 : State} {s : State} (hk : Keeps s0 s) :
    Answers s0 (execPcieHotReset s) := by
  unfold execPcieHotReset
  repeat' (first
    | with_reducible assumption
    | with_reducible apply State.pciReset_keeps
    | with_reducible apply ret_answers
    | with_reducible apply Keeps.lit)

theorem execVinRise_answers {s0 : State} {s : State} (hk : Keeps s0 s) :
    Answers s0 (execVinRise s) := by
  unfold execVinRise
  repeat' (first
    | with_reducible assumption
    | with_reducible apply State.cold_keeps
    | with_reducible apply ret_answers
    | with_reducible apply Keeps.ite
    | with_reducible apply Keeps.iteFst
    | split
    | with_reducible apply Keeps.lit)

theorem execVinLockout_answers {s0 : State} {s : State} (hk : Keeps s0 s) :
    Answers s0 (execVinLockout s) := by
  unfold execVinLockout
  repeat' (first
    | with_reducible assumption
    | with_reducible apply State.cold_keeps
    | with_reducible apply ret_answers
    | with_reducible apply Keeps.ite
    | with_reducible apply Keeps.iteFst
    | split
    | with_reducible apply Keeps.lit)

end Sys2Proof.Machine
end

