-- ==== Sys2Proof/Laws/Keeps/Trust.lean ====
section
/-! SUPPORT. What no operation or command of Machine/Trust.lean takes away. -/

namespace Sys2Proof.Machine

set_option linter.unusedTactic false
set_option linter.unreachableTactic false

theorem State.doImgUpdate_keeps {s0 : State} {s : State} {i : Image} (hk : Keeps s0 s) :
    Keeps s0 (State.doImgUpdate s i) := by
  unfold State.doImgUpdate
  try dsimp only
  repeat' (first
    | with_reducible assumption
    | (intro _ _ _ _; try dsimp only)
    | (intro _ _ _; try dsimp only)
    | (intro _ _; try dsimp only)
    | with_reducible apply State.hostTake_keeps
    | with_reducible apply State.hostDo_keeps
    | with_reducible apply Keeps.ite
    | with_reducible apply Keeps.iteFst
    | split
    | with_reducible apply Keeps.lit
    | refine Keeps.ofPair (by with_reducible assumption) ?_)

theorem execImgUpdate_answers {s0 : State} {img : Image} {s : State} (hk : Keeps s0 s) :
    Answers s0 (execImgUpdate img s) := by
  unfold execImgUpdate
  repeat' (first
    | with_reducible assumption
    | with_reducible apply State.doImgUpdate_keeps
    | with_reducible apply ret_answers
    | with_reducible apply Keeps.ite
    | with_reducible apply Keeps.iteFst
    | split
    | with_reducible apply Keeps.lit)

theorem execImgUpdateDone_answers {s0 : State} {programmed readBack : Bool} {s : State} (hk : Keeps s0 s) :
    Answers s0 (execImgUpdateDone programmed readBack s) := by
  unfold execImgUpdateDone
  try dsimp only
  repeat' (first
    | with_reducible assumption
    | with_reducible apply State.journalOpen_keeps
    | with_reducible apply State.hostReply_keeps
    | with_reducible apply State.append_keeps
    | with_reducible apply ret_answers
    | with_reducible apply Keeps.ite
    | with_reducible apply Keeps.iteFst
    | split
    | with_reducible apply Keeps.lit)

theorem State.doImgConfirm_keeps {s0 : State} {s : State} (hk : Keeps s0 s) :
    Keeps s0 (State.doImgConfirm s) := by
  unfold State.doImgConfirm
  try dsimp only
  repeat' (first
    | with_reducible assumption
    | (intro _ _ _ _; try dsimp only)
    | (intro _ _ _; try dsimp only)
    | (intro _ _; try dsimp only)
    | with_reducible apply State.hostDo_keeps
    | with_reducible apply State.append_keeps
    | with_reducible apply Keeps.ite
    | with_reducible apply Keeps.iteFst
    | split
    | with_reducible apply Keeps.lit
    | with_reducible apply Keeps.litTrust
    | exact Nat.le_max_left _ _
    | exact bit_burn _ _ _ (by assumption)
    | exact fun _ => id
    | exact Nat.le_refl _)

theorem execImgConfirm_answers {s0 : State} {s : State} (hk : Keeps s0 s) :
    Answers s0 (execImgConfirm s) := by
  unfold execImgConfirm
  repeat' (first
    | with_reducible assumption
    | with_reducible apply State.doImgConfirm_keeps
    | with_reducible apply ret_answers
    | with_reducible apply Keeps.ite
    | with_reducible apply Keeps.iteFst
    | split
    | with_reducible apply Keeps.lit)

theorem execOwnerChallenge_answers {s0 : State} {nonce : BitVec 256} {s : State} (hk : Keeps s0 s) :
    Answers s0 (execOwnerChallenge nonce s) := by
  unfold execOwnerChallenge
  try dsimp only
  repeat' (first
    | with_reducible assumption
    | (intro _ _ _ _; try dsimp only)
    | (intro _ _ _; try dsimp only)
    | (intro _ _; try dsimp only)
    | with_reducible apply State.hostDo_keeps
    | with_reducible apply ret_answers
    | with_reducible apply Keeps.ite
    | with_reducible apply Keeps.iteFst
    | split
    | with_reducible apply Keeps.lit)

theorem execNonceExpiry_answers {s0 : State} {s : State} (hk : Keeps s0 s) :
    Answers s0 (execNonceExpiry s) := by
  unfold execNonceExpiry
  repeat' (first
    | with_reducible assumption
    | with_reducible apply ret_answers
    | with_reducible apply Keeps.lit)

theorem execOwnerRequest_answers {s0 : State} {img : Image} {slot : Nat} {nonce : BitVec 256}
    {outer digest : BitVec 384} {innerOk : Bool} {s : State} (hk : Keeps s0 s) :
    Answers s0 (execOwnerRequest img slot nonce outer digest innerOk s) := by
  unfold execOwnerRequest
  try dsimp only
  repeat' (first
    | with_reducible assumption
    | (intro _ _ _ _; try dsimp only)
    | (intro _ _ _; try dsimp only)
    | (intro _ _; try dsimp only)
    | with_reducible apply State.hostDo_keeps
    | with_reducible apply ret_answers
    | with_reducible apply Keeps.ite
    | with_reducible apply Keeps.iteFst
    | split
    | with_reducible apply Keeps.lit
    | with_reducible apply Keeps.litTrust
    | exact Nat.le_max_left _ _
    | exact bit_burn _ _ _ (by assumption)
    | exact fun _ => id
    | exact Nat.le_refl _)

theorem execAttest_answers {s0 : State} {fwDigest recDigest ownerDigest : BitVec 384} {signature : Bytes}
    {s : State} (hk : Keeps s0 s) :
    Answers s0 (execAttest fwDigest recDigest ownerDigest signature s) := by
  unfold execAttest
  try dsimp only
  repeat' (first
    | with_reducible assumption
    | (intro _ _ _ _; try dsimp only)
    | (intro _ _ _; try dsimp only)
    | (intro _ _; try dsimp only)
    | with_reducible apply State.store_keeps
    | with_reducible apply State.hostDo_keeps
    | with_reducible apply ret_answers
    | with_reducible apply Keeps.ite
    | with_reducible apply Keeps.iteFst
    | split
    | with_reducible apply Keeps.lit)

theorem State.doIdentityCert_keeps {s0 : State} {s : State} (hk : Keeps s0 s) :
    Keeps s0 (State.doIdentityCert s) := by
  unfold State.doIdentityCert
  try dsimp only
  repeat' (first
    | with_reducible assumption
    | (intro _ _ _ _; try dsimp only)
    | (intro _ _ _; try dsimp only)
    | (intro _ _; try dsimp only)
    | with_reducible apply State.store_keeps
    | with_reducible apply State.hostDo_keeps
    | with_reducible apply Keeps.lit)

theorem execIdentityCert_answers {s0 : State} {s : State} (hk : Keeps s0 s) :
    Answers s0 (execIdentityCert s) := by
  unfold execIdentityCert
  repeat' (first
    | with_reducible assumption
    | with_reducible apply State.doIdentityCert_keeps
    | with_reducible apply ret_answers
    | with_reducible apply Keeps.ite
    | with_reducible apply Keeps.iteFst
    | split
    | with_reducible apply Keeps.lit)

end Sys2Proof.Machine
end

