-- ==== Sys2Proof/Laws/Keeps/Regs.lean ====
section
/-! SUPPORT. What no operation or command of Machine/Regs.lean takes away. -/

namespace Sys2Proof.Machine

set_option linter.unusedTactic false
set_option linter.unreachableTactic false

theorem State.regClear_keeps {s0 : State} {s : State} {off : Nat} {m : W64} (hk : Keeps s0 s) :
    Keeps s0 (State.regClear s off m) := by
  unfold State.regClear
  try dsimp only
  repeat' (first
    | with_reducible assumption
    | with_reducible apply State.setReg_keeps
    | with_reducible apply State.claim_keeps
    | with_reducible apply State.violRead_keeps
    | with_reducible apply Keeps.ite
    | with_reducible apply Keeps.iteFst
    | split
    | with_reducible apply Keeps.lit)

theorem State.lowRead_keeps {s0 : State} {s : State} {off : Nat} (hk : Keeps s0 s) :
    Keeps s0 (State.lowRead s off).1 := by
  unfold State.lowRead
  try dsimp only
  repeat' (first
    | with_reducible assumption
    | with_reducible apply State.regClear_keeps
    | with_reducible apply Keeps.lit)

theorem State.regRead_keeps {s0 : State} {s : State} {off size : Nat} (hk : Keeps s0 s) :
    Keeps s0 (State.regRead s off size).1 := by
  unfold State.regRead
  try dsimp only
  repeat' (first
    | with_reducible assumption
    | with_reducible apply State.regClear_keeps
    | with_reducible apply State.lowRead_keeps
    | with_reducible apply Keeps.ite
    | with_reducible apply Keeps.iteFst
    | split
    | with_reducible apply Keeps.lit)

theorem State.plainWrite_keeps {s0 : State} {s : State} {off : Nat} {h : RegShape} {v : W64} (hk : Keeps s0 s) :
    Keeps s0 (State.plainWrite s off h v) := by
  unfold State.plainWrite
  try dsimp only
  repeat' (first
    | with_reducible assumption
    | with_reducible apply State.setReg_keeps
    | with_reducible apply State.rwReg_keeps
    | with_reducible apply Keeps.lit)

theorem State.coreWrite_keeps {s0 : State} {s : State} {c o : Nat} {h : RegShape} {v : W64} (hk : Keeps s0 s) :
    Keeps s0 (State.coreWrite s c o h v) := by
  unfold State.coreWrite
  try dsimp only
  repeat' (first
    | with_reducible assumption
    | with_reducible apply State.inData_keeps
    | with_reducible apply State.inRing_keeps
    | with_reducible apply State.maskWrite_keeps
    | with_reducible apply State.chClear_keeps
    | with_reducible apply State.timerWrite_keeps
    | with_reducible apply State.coreCtrl_keeps
    | with_reducible apply State.progLoadWrite_keeps
    | with_reducible apply State.semSig_keeps
    | with_reducible apply State.ledgerWrite_keeps
    | with_reducible apply State.plainWrite_keeps
    | with_reducible apply Keeps.ite
    | with_reducible apply Keeps.iteFst
    | split
    | with_reducible apply Keeps.lit)

theorem State.crnWrite_keeps {s0 : State} {s : State} {o : Nat} {h : RegShape} {v : W64} (hk : Keeps s0 s) :
    Keeps s0 (State.crnWrite s o h v) := by
  unfold State.crnWrite
  try dsimp only
  repeat' (first
    | with_reducible assumption
    | with_reducible apply State.unmask_keeps
    | with_reducible apply State.hostRing_keeps
    | with_reducible apply State.hostWrite_keeps
    | with_reducible apply State.jqTailWrite_keeps
    | with_reducible apply State.jqCtrlWrite_keeps
    | with_reducible apply State.jqBaseWrite_keeps
    | with_reducible apply State.plainWrite_keeps
    | with_reducible apply Keeps.ite
    | with_reducible apply Keeps.iteFst
    | split
    | with_reducible apply Keeps.lit)

theorem State.evcWrite_keeps {s0 : State} {s : State} {o : Nat} {h : RegShape} {v : W64} (hk : Keeps s0 s) :
    Keeps s0 (State.evcWrite s o h v) := by
  unfold State.evcWrite
  try dsimp only
  repeat' (first
    | with_reducible assumption
    | (intro _ _ _ _; try dsimp only)
    | (intro _ _ _; try dsimp only)
    | (intro _ _; try dsimp only)
    | with_reducible apply State.pendSetOne_keeps
    | with_reducible apply State.pendClrOne_keeps
    | with_reducible apply State.eachBit_keeps
    | with_reducible apply State.vecArm_keeps
    | with_reducible apply State.srcCfg_keeps
    | with_reducible apply State.plainWrite_keeps
    | with_reducible apply Keeps.ite
    | with_reducible apply Keeps.iteFst
    | split
    | with_reducible apply Keeps.lit)

theorem State.pwrWrite_keeps {s0 : State} {s : State} {o : Nat} {h : RegShape} {v : W64} (hk : Keeps s0 s) :
    Keeps s0 (State.pwrWrite s o h v) := by
  unfold State.pwrWrite
  try dsimp only
  repeat' (first
    | with_reducible assumption
    | with_reducible apply State.pwrCapWrite_keeps
    | with_reducible apply State.learnClear_keeps
    | with_reducible apply State.attrClear_keeps
    | with_reducible apply State.pwrModeWrite_keeps
    | with_reducible apply State.plainWrite_keeps
    | with_reducible apply Keeps.ite
    | with_reducible apply Keeps.iteFst
    | split
    | with_reducible apply Keeps.lit)

theorem State.portCtrlWrite_keeps {s0 : State} {s : State} {p : Nat} {v : W64} (hk : Keeps s0 s) :
    Keeps s0 (State.portCtrlWrite s p v) := by
  unfold State.portCtrlWrite
  try dsimp only
  repeat' (first
    | with_reducible assumption
    | with_reducible apply State.setRf_keeps
    | with_reducible apply State.setRbit_keeps
    | with_reducible apply State.judgePort_keeps
    | with_reducible apply State.optRetrain_keeps
    | with_reducible apply State.adminDown_keeps
    | with_reducible apply Keeps.ite
    | with_reducible apply Keeps.iteFst
    | split
    | with_reducible apply Keeps.lit)

theorem State.routeWrite_keeps {s0 : State} {s : State} {o key : Nat} {h : RegShape} {v : W64} (hk : Keeps s0 s) :
    Keeps s0 (State.routeWrite s o key h v) := by
  unfold State.routeWrite
  try dsimp only
  repeat' (first
    | with_reducible assumption
    | with_reducible apply State.applyAlts_keeps
    | with_reducible apply State.reroute_keeps
    | with_reducible apply State.plainWrite_keeps
    | with_reducible apply Keeps.ite
    | with_reducible apply Keeps.iteFst
    | split
    | with_reducible apply Keeps.lit)

theorem State.fabWrite_keeps {s0 : State} {s : State} {o : Nat} {h : RegShape} {v : W64} (hk : Keeps s0 s) :
    Keeps s0 (State.fabWrite s o h v) := by
  unfold State.fabWrite
  repeat' (first
    | with_reducible assumption
    | with_reducible apply State.quarEnd_keeps
    | with_reducible apply State.plainWrite_keeps
    | with_reducible apply State.routeWrite_keeps
    | with_reducible apply Keeps.ite
    | with_reducible apply Keeps.iteFst
    | split
    | with_reducible apply Keeps.lit)

theorem State.regPut_keeps {s0 : State} {s : State} {off : Nat} {v : W64} (hk : Keeps s0 s) :
    Keeps s0 (State.regPut s off v) := by
  unfold State.regPut
  try dsimp only
  repeat' (first
    | with_reducible assumption
    | with_reducible apply State.maintReq_keeps
    | with_reducible apply State.retrainAll_keeps
    | with_reducible apply State.rlcDrop_keeps
    | with_reducible apply State.chCtrl_keeps
    | with_reducible apply State.colCtrl_keeps
    | with_reducible apply State.pkgReset_keeps
    | with_reducible apply State.plainWrite_keeps
    | with_reducible apply State.coreWrite_keeps
    | with_reducible apply State.crnWrite_keeps
    | with_reducible apply State.evcWrite_keeps
    | with_reducible apply State.pwrWrite_keeps
    | with_reducible apply State.portCtrlWrite_keeps
    | with_reducible apply State.fabWrite_keeps
    | with_reducible apply Keeps.ite
    | with_reducible apply Keeps.iteFst
    | split
    | with_reducible apply Keeps.lit)

theorem State.halfWrite_keeps {s0 : State} {s : State} {off : Nat} {v : BitVec 32} (hk : Keeps s0 s) :
    Keeps s0 (State.halfWrite s off v) := by
  unfold State.halfWrite
  try dsimp only
  repeat' (first
    | with_reducible assumption
    | with_reducible apply State.regPut_keeps
    | with_reducible apply Keeps.ite
    | with_reducible apply Keeps.iteFst
    | split
    | with_reducible apply Keeps.lit
    | refine Keeps.ofPair (by with_reducible assumption) ?_)

theorem State.regWrite_keeps {s0 : State} {s : State} {off size : Nat} {v : W64} (hk : Keeps s0 s) :
    Keeps s0 (State.regWrite s off size v) := by
  unfold State.regWrite
  repeat' (first
    | with_reducible assumption
    | with_reducible apply State.regPut_keeps
    | with_reducible apply State.halfWrite_keeps
    | with_reducible apply Keeps.ite
    | with_reducible apply Keeps.iteFst
    | split
    | with_reducible apply Keeps.lit)

end Sys2Proof.Machine
end

