-- ==== Sys2Proof/Laws/Keeps/Host.lean ====
section
/-! SUPPORT. What no operation or command of Machine/Host.lean takes away. -/

namespace Sys2Proof.Machine

set_option linter.unusedTactic false
set_option linter.unreachableTactic false

theorem execPcieConfigReq_answers {s0 : State} {write : Bool} {offset : Nat} {v : BitVec 32} {s : State}
    (hk : Keeps s0 s) :
    Answers s0 (execPcieConfigReq write offset v s) := by
  unfold execPcieConfigReq
  repeat' (first
    | with_reducible assumption
    | with_reducible apply State.send_keeps
    | with_reducible apply ret_answers
    | with_reducible apply Keeps.ite
    | with_reducible apply Keeps.iteFst
    | split
    | with_reducible apply Keeps.lit)

theorem execPcieError_answers {s0 : State} {status : BitVec 32} {s : State} (hk : Keeps s0 s) :
    Answers s0 (execPcieError status s) := by
  unfold execPcieError
  repeat' (first
    | with_reducible assumption
    | with_reducible apply State.journalPut_keeps
    | with_reducible apply ret_answers
    | with_reducible apply Keeps.ite
    | with_reducible apply Keeps.iteFst
    | split
    | with_reducible apply Keeps.lit)

theorem State.winViol_keeps {s0 : State} {s : State} {a n : Nat} (hk : Keeps s0 s) :
    Keeps s0 (State.winViol s a n) := by
  unfold State.winViol
  try dsimp only
  repeat' (first
    | with_reducible assumption
    | with_reducible apply State.bump_keeps
    | with_reducible apply Keeps.ite
    | with_reducible apply Keeps.iteFst
    | split
    | with_reducible apply Keeps.lit)

theorem execBar2Read_answers {s0 : State} {offset len : Nat} {s : State} (hk : Keeps s0 s) :
    Answers s0 (execBar2Read offset len s) := by
  unfold execBar2Read
  try dsimp only
  repeat' (first
    | with_reducible assumption
    | (intro _ _ _ _; try dsimp only)
    | (intro _ _ _; try dsimp only)
    | (intro _ _; try dsimp only)
    | with_reducible apply State.send_keeps
    | with_reducible apply State.reportPoison_keeps
    | with_reducible apply State.winViol_keeps
    | with_reducible apply Keeps.foldl
    | with_reducible apply Keeps.foldlFst
    | with_reducible apply ret_answers
    | with_reducible apply Keeps.ite
    | with_reducible apply Keeps.iteFst
    | split
    | with_reducible apply Keeps.lit)

theorem execBar2Write_answers {s0 : State} {offset : Nat} {data : Bytes} {s : State} (hk : Keeps s0 s) :
    Answers s0 (execBar2Write offset data s) := by
  unfold execBar2Write
  try dsimp only
  repeat' (first
    | with_reducible assumption
    | with_reducible apply State.store_keeps
    | with_reducible apply State.winViol_keeps
    | with_reducible apply ret_answers
    | with_reducible apply Keeps.ite
    | with_reducible apply Keeps.iteFst
    | split
    | with_reducible apply Keeps.lit)

theorem execRegWrite_answers {s0 : State} {offset size : Nat} {v : W64} {s : State} (hk : Keeps s0 s) :
    Answers s0 (execRegWrite offset size v s) := by
  unfold execRegWrite
  repeat' (first
    | with_reducible assumption
    | with_reducible apply State.regWrite_keeps
    | with_reducible apply ret_answers
    | with_reducible apply Keeps.lit)

theorem execRegWriteHalf_answers {s0 : State} {offset : Nat} {v : BitVec 32} {s : State} (hk : Keeps s0 s) :
    Answers s0 (execRegWriteHalf offset v s) := by
  unfold execRegWriteHalf
  repeat' (first
    | with_reducible assumption
    | with_reducible apply State.halfWrite_keeps
    | with_reducible apply ret_answers
    | with_reducible apply Keeps.ite
    | with_reducible apply Keeps.iteFst
    | split
    | with_reducible apply Keeps.lit)

theorem execRegReadLowHalf_answers {s0 : State} {offset : Nat} {s : State} (hk : Keeps s0 s) :
    Answers s0 (execRegReadLowHalf offset s) := by
  unfold execRegReadLowHalf
  try dsimp only
  repeat' (first
    | with_reducible assumption
    | with_reducible apply State.send_keeps
    | with_reducible apply State.regRead_keeps
    | with_reducible apply ret_answers
    | with_reducible apply Keeps.lit)

theorem execRcRead_answers {s0 : State} {offset size : Nat} {s : State} (hk : Keeps s0 s) :
    Answers s0 (execRcRead offset size s) := by
  unfold execRcRead
  try dsimp only
  repeat' (first
    | with_reducible assumption
    | with_reducible apply State.send_keeps
    | with_reducible apply State.regRead_keeps
    | with_reducible apply ret_answers
    | with_reducible apply Keeps.lit)

theorem State.pollDo_keeps {s0 : State} {s : State} (hk : Keeps s0 s) :
    Keeps s0 (State.pollDo s) := by
  unfold State.pollDo
  try dsimp only
  repeat' (first
    | with_reducible assumption
    | with_reducible apply State.doEcho_keeps
    | with_reducible apply State.doUnsupported_keeps
    | with_reducible apply State.doVspConfig_keeps
    | with_reducible apply State.doVspStep_keeps
    | with_reducible apply State.doVspHold_keeps
    | with_reducible apply State.doVspStatus_keeps
    | with_reducible apply State.doJrnlRead_keeps
    | with_reducible apply State.doFaultMap_keeps
    | with_reducible apply State.doDrain_keeps
    | with_reducible apply State.doImgConfirm_keeps
    | with_reducible apply State.doIdentityCert_keeps
    | with_reducible apply Keeps.ite
    | with_reducible apply Keeps.iteFst
    | split
    | with_reducible apply Keeps.lit)

theorem execHostMbxPoll_answers {s0 : State} {s : State} (hk : Keeps s0 s) :
    Answers s0 (execHostMbxPoll s) := by
  unfold execHostMbxPoll
  repeat' (first
    | with_reducible assumption
    | with_reducible apply State.pollDo_keeps
    | with_reducible apply ret_answers
    | with_reducible apply Keeps.lit)

end Sys2Proof.Machine
end

