-- ==== Sys2Proof/Laws/Keeps/Port.lean ====
section
/-! SUPPORT. What no operation or command of Machine/Port.lean takes away. -/

namespace Sys2Proof.Machine

set_option linter.unusedTactic false
set_option linter.unreachableTactic false

theorem execBypass_answers {s0 : State} {s : State} (hk : Keeps s0 s) :
    Answers s0 (execBypass s) := by
  unfold execBypass
  repeat' (first
    | with_reducible assumption
    | with_reducible apply ret_answers
    | with_reducible apply Keeps.lit)

theorem execIdcode_answers {s0 : State} {s : State} (hk : Keeps s0 s) :
    Answers s0 (execIdcode s) := by
  unfold execIdcode
  repeat' (first
    | with_reducible assumption
    | with_reducible apply State.send_keeps
    | with_reducible apply ret_answers
    | with_reducible apply Keeps.lit)

theorem execSamplePreload_answers {s0 : State} {s : State} (hk : Keeps s0 s) :
    Answers s0 (execSamplePreload s) := by
  unfold execSamplePreload
  repeat' (first
    | with_reducible assumption
    | with_reducible apply ret_answers
    | with_reducible apply Keeps.lit)

theorem execExtest_answers {s0 : State} {s : State} (hk : Keeps s0 s) :
    Answers s0 (execExtest s) := by
  unfold execExtest
  repeat' (first
    | with_reducible assumption
    | with_reducible apply ret_answers
    | with_reducible apply Keeps.ite
    | with_reducible apply Keeps.iteFst
    | split
    | with_reducible apply Keeps.lit)

end Sys2Proof.Machine
end

