-- ==== Sys2Proof/Laws/Keeps/Clock.lean ====
section
/-! SUPPORT. What no operation or command of Machine/Clock.lean takes away. -/

namespace Sys2Proof.Machine

set_option linter.unusedTactic false
set_option linter.unreachableTactic false

theorem State.timers_keeps {s0 : State} {s : State} (hk : Keeps s0 s) :
    Keeps s0 (State.timers s) := by
  unfold State.timers
  try dsimp only
  repeat' (first
    | with_reducible assumption
    | (intro _ _ _ _; try dsimp only)
    | (intro _ _ _; try dsimp only)
    | (intro _ _; try dsimp only)
    | with_reducible apply State.timerTick_keeps
    | with_reducible apply Keeps.iter
    | with_reducible apply Keeps.iterFst
    | with_reducible apply Keeps.ite
    | with_reducible apply Keeps.iteFst
    | split
    | with_reducible apply Keeps.lit)

theorem State.heartbeat_keeps {s0 : State} {s : State} (hk : Keeps s0 s) :
    Keeps s0 (State.heartbeat s) := by
  unfold State.heartbeat
  repeat' (first
    | with_reducible assumption
    | with_reducible apply State.setRf_keeps
    | with_reducible apply Keeps.ite
    | with_reducible apply Keeps.iteFst
    | split
    | with_reducible apply Keeps.lit)

theorem State.tick_keeps {s0 : State} {s : State} (hk : Keeps s0 s) :
    Keeps s0 (State.tick s) := by
  unfold State.tick
  try dsimp only
  repeat' (first
    | with_reducible assumption
    | with_reducible apply State.setReg_keeps
    | with_reducible apply State.marksDue_keeps
    | with_reducible apply State.timers_keeps
    | with_reducible apply State.heartbeat_keeps
    | with_reducible apply Keeps.ite
    | with_reducible apply Keeps.iteFst
    | split
    | with_reducible apply Keeps.lit)

end Sys2Proof.Machine
end

