-- ==== Sys2Proof/Laws/Keeps/Dispatch.lean ====
section
/-! SUPPORT. No command takes away what the part never loses: every command answers a next state that keeps it. -/

namespace Sys2Proof.Machine

/-- Every command, from every state, answers a next state that leaves the queue as it is and keeps what `Lasts` names. -/
theorem exec_answers (i : Instr) (s : State) : Answers s (exec i s) := by
  cases i
  case nop c f => exact show Answers s (execNop c f s) from execNop_answers (Keeps.refl s)
  case jmp c f => exact show Answers s (execJmp c f s) from execJmp_answers (Keeps.refl s)
  case br c f => exact show Answers s (execBr c f s) from execBr_answers (Keeps.refl s)
  case call c f => exact show Answers s (execCall c f s) from execCall_answers (Keeps.refl s)
  case ret c f => exact show Answers s (execRet c f s) from execRet_answers (Keeps.refl s)
  case halt c f => exact show Answers s (execHalt c f s) from execHalt_answers (Keeps.refl s)
  case swait c f => exact show Answers s (execSwait c f s) from execSwait_answers (Keeps.refl s)
  case swaitSatisfied c => exact show Answers s (execSwaitSatisfied c s) from execSwaitSatisfied_answers (Keeps.refl s)
  case qstat c f => exact show Answers s (execQstat c f s) from execQstat_answers (Keeps.refl s)
  case illegalInstr c w par => exact show Answers s (execIllegalInstr c w par s) from execIllegalInstr_answers (Keeps.refl s)
  case add c f => exact show Answers s (execAdd c f s) from execAdd_answers (Keeps.refl s)
  case sub c f => exact show Answers s (execSub c f s) from execSub_answers (Keeps.refl s)
  case and c f => exact show Answers s (execAnd c f s) from execAnd_answers (Keeps.refl s)
  case or c f => exact show Answers s (execOr c f s) from execOr_answers (Keeps.refl s)
  case xor c f => exact show Answers s (execXor c f s) from execXor_answers (Keeps.refl s)
  case sll c f => exact show Answers s (execSll c f s) from execSll_answers (Keeps.refl s)
  case srl c f => exact show Answers s (execSrl c f s) from execSrl_answers (Keeps.refl s)
  case sra c f => exact show Answers s (execSra c f s) from execSra_answers (Keeps.refl s)
  case mul c f => exact show Answers s (execMul c f s) from execMul_answers (Keeps.refl s)
  case mulhu c f => exact show Answers s (execMulhu c f s) from execMulhu_answers (Keeps.refl s)
  case min c f => exact show Answers s (execMin c f s) from execMin_answers (Keeps.refl s)
  case max c f => exact show Answers s (execMax c f s) from execMax_answers (Keeps.refl s)
  case minu c f => exact show Answers s (execMinu c f s) from execMinu_answers (Keeps.refl s)
  case maxu c f => exact show Answers s (execMaxu c f s) from execMaxu_answers (Keeps.refl s)
  case slt c f => exact show Answers s (execSlt c f s) from execSlt_answers (Keeps.refl s)
  case sltu c f => exact show Answers s (execSltu c f s) from execSltu_answers (Keeps.refl s)
  case li c f => exact show Answers s (execLi c f s) from execLi_answers (Keeps.refl s)
  case ld c f par => exact show Answers s (execLd c f par s) from execLd_answers (Keeps.refl s)
  case st c f => exact show Answers s (execSt c f s) from execSt_answers (Keeps.refl s)
  case tdld c f par => exact show Answers s (execTdld c f par s) from execTdld_answers (Keeps.refl s)
  case tdst c f => exact show Answers s (execTdst c f s) from execTdst_answers (Keeps.refl s)
  case tdcpy c f => exact show Answers s (execTdcpy c f s) from execTdcpy_answers (Keeps.refl s)
  case tdset c f => exact show Answers s (execTdset c f s) from execTdset_answers (Keeps.refl s)
  case tdadd c f => exact show Answers s (execTdadd c f s) from execTdadd_answers (Keeps.refl s)
  case cdld c f par => exact show Answers s (execCdld c f par s) from execCdld_answers (Keeps.refl s)
  case cdst c f => exact show Answers s (execCdst c f s) from execCdst_answers (Keeps.refl s)
  case cdcpy c f => exact show Answers s (execCdcpy c f s) from execCdcpy_answers (Keeps.refl s)
  case cdsetw c f => exact show Answers s (execCdsetw c f s) from execCdsetw_answers (Keeps.refl s)
  case cdlbase c f => exact show Answers s (execCdlbase c f s) from execCdlbase_answers (Keeps.refl s)
  case cdstream c f => exact show Answers s (execCdstream c f s) from execCdstream_answers (Keeps.refl s)
  case seqResume c => exact show Answers s (execSeqResume c s) from execSeqResume_answers (Keeps.refl s)
  case queueInstrStart c q par => exact show Answers s (execQueueInstrStart c q par s) from execQueueInstrStart_answers (Keeps.refl s)
  case instrComplete c seq => exact show Answers s (execInstrComplete c seq s) from execInstrComplete_answers (Keeps.refl s)
  case coreFaulted c => exact show Answers s (execCoreFaulted c s) from execCoreFaulted_answers (Keeps.refl s)
  case dmaTd c f => exact show Answers s (execDmaTd c f s) from execDmaTd_answers (Keeps.refl s)
  case dmaList c f => exact show Answers s (execDmaList c f s) from execDmaList_answers (Keeps.refl s)
  case mxQuad c f => exact show Answers s (execMxQuad c f s) from execMxQuad_answers (Keeps.refl s)
  case mxPair c pairB f => exact show Answers s (execMxPair c pairB f s) from execMxPair_answers (Keeps.refl s)
  case mxSingle c arr f => exact show Answers s (execMxSingle c arr f s) from execMxSingle_answers (Keeps.refl s)
  case mxT64Single c arr f => exact show Answers s (execMxT64Single c arr f s) from execMxT64Single_answers (Keeps.refl s)
  case mxT64Pair c pairB f => exact show Answers s (execMxT64Pair c pairB f s) from execMxT64Pair_answers (Keeps.refl s)
  case mxT16Single c arr f => exact show Answers s (execMxT16Single c arr f s) from execMxT16Single_answers (Keeps.refl s)
  case mxT16Pair c pairB f => exact show Answers s (execMxT16Pair c pairB f s) from execMxT16Pair_answers (Keeps.refl s)
  case mxTakeCounts c => exact show Answers s (execMxTakeCounts c s) from execMxTakeCounts_answers (Keeps.refl s)
  case weightStagingStart c => exact show Answers s (execWeightStagingStart c s) from execWeightStagingStart_answers (Keeps.refl s)
  case weightStagingDone c par => exact show Answers s (execWeightStagingDone c par s) from execWeightStagingDone_answers (Keeps.refl s)
  case mxStart c par => exact show Answers s (execMxStart c par s) from execMxStart_answers (Keeps.refl s)
  case accRowReady c seq par => exact show Answers s (execAccRowReady c seq par s) from execAccRowReady_answers (Keeps.refl s)
  case epilogueRow c seq par => exact show Answers s (execEpilogueRow c seq par s) from execEpilogueRow_answers (Keeps.refl s)
  case drainRow c seq => exact show Answers s (execDrainRow c seq s) from execDrainRow_answers (Keeps.refl s)
  case mxComplete c seq => exact show Answers s (execMxComplete c seq s) from execMxComplete_answers (Keeps.refl s)
  case vld c f => exact show Answers s (execVld c f s) from execVld_answers (Keeps.refl s)
  case vst c f => exact show Answers s (execVst c f s) from execVst_answers (Keeps.refl s)
  case vadd c f => exact show Answers s (execVadd c f s) from execVadd_answers (Keeps.refl s)
  case vsub c f => exact show Answers s (execVsub c f s) from execVsub_answers (Keeps.refl s)
  case vmul c f => exact show Answers s (execVmul c f s) from execVmul_answers (Keeps.refl s)
  case vfma c f => exact show Answers s (execVfma c f s) from execVfma_answers (Keeps.refl s)
  case vmin c f => exact show Answers s (execVmin c f s) from execVmin_answers (Keeps.refl s)
  case vmax c f => exact show Answers s (execVmax c f s) from execVmax_answers (Keeps.refl s)
  case vcmpeq c f => exact show Answers s (execVcmpeq c f s) from execVcmpeq_answers (Keeps.refl s)
  case vcmplt c f => exact show Answers s (execVcmplt c f s) from execVcmplt_answers (Keeps.refl s)
  case vcmple c f => exact show Answers s (execVcmple c f s) from execVcmple_answers (Keeps.refl s)
  case vsel c f => exact show Answers s (execVsel c f s) from execVsel_answers (Keeps.refl s)
  case viadd c f => exact show Answers s (execViadd c f s) from execViadd_answers (Keeps.refl s)
  case visub c f => exact show Answers s (execVisub c f s) from execVisub_answers (Keeps.refl s)
  case vimul c f => exact show Answers s (execVimul c f s) from execVimul_answers (Keeps.refl s)
  case vand c f => exact show Answers s (execVand c f s) from execVand_answers (Keeps.refl s)
  case vor c f => exact show Answers s (execVor c f s) from execVor_answers (Keeps.refl s)
  case vxor c f => exact show Answers s (execVxor c f s) from execVxor_answers (Keeps.refl s)
  case vshl c f => exact show Answers s (execVshl c f s) from execVshl_answers (Keeps.refl s)
  case vshr c f => exact show Answers s (execVshr c f s) from execVshr_answers (Keeps.refl s)
  case vsra c f => exact show Answers s (execVsra c f s) from execVsra_answers (Keeps.refl s)
  case vmov c f => exact show Answers s (execVmov c f s) from execVmov_answers (Keeps.refl s)
  case vrsum c f => exact show Answers s (execVrsum c f s) from execVrsum_answers (Keeps.refl s)
  case vrssq c f => exact show Answers s (execVrssq c f s) from execVrssq_answers (Keeps.refl s)
  case vrmax c f => exact show Answers s (execVrmax c f s) from execVrmax_answers (Keeps.refl s)
  case vrmin c f => exact show Answers s (execVrmin c f s) from execVrmin_answers (Keeps.refl s)
  case vrargmax c f => exact show Answers s (execVrargmax c f s) from execVrargmax_answers (Keeps.refl s)
  case vrargmin c f => exact show Answers s (execVrargmin c f s) from execVrargmin_answers (Keeps.refl s)
  case vsort c f => exact show Answers s (execVsort c f s) from execVsort_answers (Keeps.refl s)
  case vtopk c f => exact show Answers s (execVtopk c f s) from execVtopk_answers (Keeps.refl s)
  case vexp2 c f => exact show Answers s (execVexp2 c f s) from execVexp2_answers (Keeps.refl s)
  case vlog2 c f => exact show Answers s (execVlog2 c f s) from execVlog2_answers (Keeps.refl s)
  case vrcp c f => exact show Answers s (execVrcp c f s) from execVrcp_answers (Keeps.refl s)
  case vrsqrt c f => exact show Answers s (execVrsqrt c f s) from execVrsqrt_answers (Keeps.refl s)
  case vtanh c f => exact show Answers s (execVtanh c f s) from execVtanh_answers (Keeps.refl s)
  case verf c f => exact show Answers s (execVerf c f s) from execVerf_answers (Keeps.refl s)
  case vsigm c f => exact show Answers s (execVsigm c f s) from execVsigm_answers (Keeps.refl s)
  case vsilu c f => exact show Answers s (execVsilu c f s) from execVsilu_answers (Keeps.refl s)
  case vgelue c f => exact show Answers s (execVgelue c f s) from execVgelue_answers (Keeps.refl s)
  case vgelut c f => exact show Answers s (execVgelut c f s) from execVgelut_answers (Keeps.refl s)
  case vftoi c f => exact show Answers s (execVftoi c f s) from execVftoi_answers (Keeps.refl s)
  case vitof c f => exact show Answers s (execVitof c f s) from execVitof_answers (Keeps.refl s)
  case vqnt c f => exact show Answers s (execVqnt c f s) from execVqnt_answers (Keeps.refl s)
  case sig c f => exact show Answers s (execSig c f s) from execSig_answers (Keeps.refl s)
  case sign c f => exact show Answers s (execSign c f s) from execSign_answers (Keeps.refl s)
  case tmr c f => exact show Answers s (execTmr c f s) from execTmr_answers (Keeps.refl s)
  case evt c f => exact show Answers s (execEvt c f s) from execEvt_answers (Keeps.refl s)
  case pmark c f => exact show Answers s (execPmark c f s) from execPmark_answers (Keeps.refl s)
  case pmarkr c f => exact show Answers s (execPmarkr c f s) from execPmarkr_answers (Keeps.refl s)
  case allreduce c f => exact show Answers s (execAllreduce c f s) from execAllreduce_answers (Keeps.refl s)
  case reducescatter c f => exact show Answers s (execReducescatter c f s) from execReducescatter_answers (Keeps.refl s)
  case allgather c f => exact show Answers s (execAllgather c f s) from execAllgather_answers (Keeps.refl s)
  case broadcast c f => exact show Answers s (execBroadcast c f s) from execBroadcast_answers (Keeps.refl s)
  case reduce c f => exact show Answers s (execReduce c f s) from execReduce_answers (Keeps.refl s)
  case barrier c f => exact show Answers s (execBarrier c f s) from execBarrier_answers (Keeps.refl s)
  case rld c f => exact show Answers s (execRld c f s) from execRld_answers (Keeps.refl s)
  case rst c f => exact show Answers s (execRst c f s) from execRst_answers (Keeps.refl s)
  case rinv c f => exact show Answers s (execRinv c f s) from execRinv_answers (Keeps.refl s)
  case raAdd c f => exact show Answers s (execRaAdd c f s) from execRaAdd_answers (Keeps.refl s)
  case raFadd c f => exact show Answers s (execRaFadd c f s) from execRaFadd_answers (Keeps.refl s)
  case raSmin c f => exact show Answers s (execRaSmin c f s) from execRaSmin_answers (Keeps.refl s)
  case raSmax c f => exact show Answers s (execRaSmax c f s) from execRaSmax_answers (Keeps.refl s)
  case raUmin c f => exact show Answers s (execRaUmin c f s) from execRaUmin_answers (Keeps.refl s)
  case raUmax c f => exact show Answers s (execRaUmax c f s) from execRaUmax_answers (Keeps.refl s)
  case raAnd c f => exact show Answers s (execRaAnd c f s) from execRaAnd_answers (Keeps.refl s)
  case raOr c f => exact show Answers s (execRaOr c f s) from execRaOr_answers (Keeps.refl s)
  case raXor c f => exact show Answers s (execRaXor c f s) from execRaXor_answers (Keeps.refl s)
  case raSwap c f => exact show Answers s (execRaSwap c f s) from execRaSwap_answers (Keeps.refl s)
  case raCas c f => exact show Answers s (execRaCas c f s) from execRaCas_answers (Keeps.refl s)
  case trig c f => exact show Answers s (execTrig c f s) from execTrig_answers (Keeps.refl s)
  case msg c f => exact show Answers s (execMsg c f s) from execMsg_answers (Keeps.refl s)
  case mboxout c f => exact show Answers s (execMboxout c f s) from execMboxout_answers (Keeps.refl s)
  case mboxin c f => exact show Answers s (execMboxin c f s) from execMboxin_answers (Keeps.refl s)
  case start c => exact show Answers s (execStart c s) from execStart_answers (Keeps.refl s)
  case stop c => exact show Answers s (execStop c s) from execStop_answers (Keeps.refl s)
  case abort c => exact show Answers s (execAbort c s) from execAbort_answers (Keeps.refl s)
  case reset c => exact show Answers s (execReset c s) from execReset_answers (Keeps.refl s)
  case coreStopped c => exact show Answers s (execCoreStopped c s) from execCoreStopped_answers (Keeps.refl s)
  case coreResetDone c => exact show Answers s (execCoreResetDone c s) from execCoreResetDone_answers (Keeps.refl s)
  case progLoadGo c v => exact show Answers s (execProgLoadGo c v s) from execProgLoadGo_answers (Keeps.refl s)
  case progLoadDone c par => exact show Answers s (execProgLoadDone c par s) from execProgLoadDone_answers (Keeps.refl s)
  case coreSemSig c v => exact show Answers s (execCoreSemSig c v s) from execCoreSemSig_answers (Keeps.refl s)
  case timerWrite c n v => exact show Answers s (execTimerWrite c n v s) from execTimerWrite_answers (Keeps.refl s)
  case timerExpiry c n => exact show Answers s (execTimerExpiry c n s) from execTimerExpiry_answers (Keeps.refl s)
  case ledgerCfgWrite c v => exact show Answers s (execLedgerCfgWrite c v s) from execLedgerCfgWrite_answers (Keeps.refl s)
  case ledgerCfgApply c => exact show Answers s (execLedgerCfgApply c s) from execLedgerCfgApply_answers (Keeps.refl s)
  case coreViolCntRead c => exact show Answers s (execCoreViolCntRead c s) from execCoreViolCntRead_answers (Keeps.refl s)
  case dmaDescBegin ch par => exact show Answers s (execDmaDescBegin ch par s) from execDmaDescBegin_answers (Keeps.refl s)
  case dmaUnitStart ch par => exact show Answers s (execDmaUnitStart ch par s) from execDmaUnitStart_answers (Keeps.refl s)
  case dmaDescComplete ch => exact show Answers s (execDmaDescComplete ch s) from execDmaDescComplete_answers (Keeps.refl s)
  case dmaChGo d j v => exact show Answers s (execDmaChGo d j v s) from execDmaChGo_answers (Keeps.refl s)
  case dmaChAbort d j v => exact show Answers s (execDmaChAbort d j v s) from execDmaChAbort_answers (Keeps.refl s)
  case dmaChClrHalt d j => exact show Answers s (execDmaChClrHalt d j s) from execDmaChClrHalt_answers (Keeps.refl s)
  case coreDmaClrHalt c n => exact show Answers s (execCoreDmaClrHalt c n s) from execCoreDmaClrHalt_answers (Keeps.refl s)
  case hbmReqAccept st r parityFails => exact show Answers s (execHbmReqAccept st r parityFails s) from execHbmReqAccept_answers (Keeps.refl s)
  case hbmWriteBatchStart st pc ageNs => exact show Answers s (execHbmWriteBatchStart st pc ageNs s) from execHbmWriteBatchStart_answers (Keeps.refl s)
  case hbmWriteBatchEnd st pc readAgeNs => exact show Answers s (execHbmWriteBatchEnd st pc readAgeNs s) from execHbmWriteBatchEnd_answers (Keeps.refl s)
  case hbmReadComplete r ecc timeS => exact show Answers s (execHbmReadComplete r ecc timeS s) from execHbmReadComplete_answers (Keeps.refl s)
  case hbmRemapComplete st block => exact show Answers s (execHbmRemapComplete st block s) from execHbmRemapComplete_answers (Keeps.refl s)
  case hbmPcTimeout st pc answered => exact show Answers s (execHbmPcTimeout st pc answered s) from execHbmPcTimeout_answers (Keeps.refl s)
  case hbmTempRound st r => exact show Answers s (execHbmTempRound st r s) from execHbmTempRound_answers (Keeps.refl s)
  case hbmScrubRead st block ecc timeS => exact show Answers s (execHbmScrubRead st block ecc timeS s) from execHbmScrubRead_answers (Keeps.refl s)
  case hbmSchedApply st => exact show Answers s (execHbmSchedApply st s) from execHbmSchedApply_answers (Keeps.refl s)
  case hbmWaveStart st => exact show Answers s (execHbmWaveStart st s) from execHbmWaveStart_answers (Keeps.refl s)
  case hbmMaintReq st => exact show Answers s (execHbmMaintReq st s) from execHbmMaintReq_answers (Keeps.refl s)
  case hbmMaintDone st hard soft r => exact show Answers s (execHbmMaintDone st hard soft r s) from execHbmMaintDone_answers (Keeps.refl s)
  case roleAdv g m payload => exact show Answers s (execRoleAdv g m payload s) from execRoleAdv_answers (Keeps.refl s)
  case roleCred g m payload => exact show Answers s (execRoleCred g m payload s) from execRoleCred_answers (Keeps.refl s)
  case roleAck g m => exact show Answers s (execRoleAck g m s) from execRoleAck_answers (Keeps.refl s)
  case roleNak g m reason => exact show Answers s (execRoleNak g m reason s) from execRoleNak_answers (Keeps.refl s)
  case roleTimeout g m => exact show Answers s (execRoleTimeout g m s) from execRoleTimeout_answers (Keeps.refl s)
  case d2dTrainStateTimeout g m => exact show Answers s (execD2dTrainStateTimeout g m s) from execD2dTrainStateTimeout_answers (Keeps.refl s)
  case d2dTrainActive g m failed spareFailed => exact show Answers s (execD2dTrainActive g m failed spareFailed s) from execD2dTrainActive_answers (Keeps.refl s)
  case d2dStateReport g m r => exact show Answers s (execD2dStateReport g m r s) from execD2dStateReport_answers (Keeps.refl s)
  case d2dFlitRx g m x => exact show Answers s (execD2dFlitRx g m x s) from execD2dFlitRx_answers (Keeps.refl s)
  case d2dRetrainDone g m failed spareFailed => exact show Answers s (execD2dRetrainDone g m failed spareFailed s) from execD2dRetrainDone_answers (Keeps.refl s)
  case d2dMarginRead g m low => exact show Answers s (execD2dMarginRead g m low s) from execD2dMarginRead_answers (Keeps.refl s)
  case flowRelease g flow => exact show Answers s (execFlowRelease g flow s) from execFlowRelease_answers (Keeps.refl s)
  case retrainAll g => exact show Answers s (execRetrainAll g s) from execRetrainAll_answers (Keeps.refl s)
  case rdReq g m hdr par => exact show Answers s (execRdReq g m hdr par s) from execRdReq_answers (Keeps.refl s)
  case wrReq g m hdr payload tail => exact show Answers s (execWrReq g m hdr payload tail s) from execWrReq_answers (Keeps.refl s)
  case rdRsp g m hdr payload tail => exact show Answers s (execRdRsp g m hdr payload tail s) from execRdRsp_answers (Keeps.refl s)
  case wrAck g m hdr => exact show Answers s (execWrAck g m hdr s) from execWrAck_answers (Keeps.refl s)
  case drMsg g m hdr payload => exact show Answers s (execDrMsg g m hdr payload s) from execDrMsg_answers (Keeps.refl s)
  case credit g m payload => exact show Answers s (execCredit g m payload s) from execCredit_answers (Keeps.refl s)
  case mgmt g m hdr payload => exact show Answers s (execMgmt g m hdr payload s) from execMgmt_answers (Keeps.refl s)
  case identityBoundary p => exact show Answers s (execIdentityBoundary p s) from execIdentityBoundary_answers (Keeps.refl s)
  case identityFlitRx p lane flit => exact show Answers s (execIdentityFlitRx p lane flit s) from execIdentityFlitRx_answers (Keeps.refl s)
  case identityFlitMissing p lane => exact show Answers s (execIdentityFlitMissing p lane s) from execIdentityFlitMissing_answers (Keeps.refl s)
  case codewordRx p lane symbols uncorrectable => exact show Answers s (execCodewordRx p lane symbols uncorrectable s) from execCodewordRx_answers (Keeps.refl s)
  case serWindow p lane errors symbols => exact show Answers s (execSerWindow p lane errors symbols s) from execSerWindow_answers (Keeps.refl s)
  case laneVerifyTimeout p lane => exact show Answers s (execLaneVerifyTimeout p lane s) from execLaneVerifyTimeout_answers (Keeps.refl s)
  case laneSweepDone p lane => exact show Answers s (execLaneSweepDone p lane s) from execLaneSweepDone_answers (Keeps.refl s)
  case laneRetry p lane => exact show Answers s (execLaneRetry p lane s) from execLaneRetry_answers (Keeps.refl s)
  case heaterUpdate io elapsed => exact show Answers s (execHeaterUpdate io elapsed s) from execHeaterUpdate_answers (Keeps.refl s)
  case ringRecalStart die ring => exact show Answers s (execRingRecalStart die ring s) from execRingRecalStart_answers (Keeps.refl s)
  case ringRecalDone die ring optimum => exact show Answers s (execRingRecalDone die ring optimum s) from execRingRecalDone_answers (Keeps.refl s)
  case laserFail die laser spareOk => exact show Answers s (execLaserFail die laser spareOk s) from execLaserFail_answers (Keeps.refl s)
  case fibreDark x => exact show Answers s (execFibreDark x s) from execFibreDark_answers (Keeps.refl s)
  case spareTrainTimeout p => exact show Answers s (execSpareTrainTimeout p s) from execSpareTrainTimeout_answers (Keeps.refl s)
  case fanoutRequest g die p q => exact show Answers s (execFanoutRequest g die p q s) from execFanoutRequest_answers (Keeps.refl s)
  case fanoutEnd die => exact show Answers s (execFanoutEnd die s) from execFanoutEnd_answers (Keeps.refl s)
  case meshSettle die => exact show Answers s (execMeshSettle die s) from execMeshSettle_answers (Keeps.refl s)
  case portTrainDone p light verified => exact show Answers s (execPortTrainDone p light verified s) from execPortTrainDone_answers (Keeps.refl s)
  case portRetry p => exact show Answers s (execPortRetry p s) from execPortRetry_answers (Keeps.refl s)
  case optRetrain p => exact show Answers s (execOptRetrain p s) from execOptRetrain_answers (Keeps.refl s)
  case adminDown p down => exact show Answers s (execAdminDown p down s) from execAdminDown_answers (Keeps.refl s)
  case reachWrite p short => exact show Answers s (execReachWrite p short s) from execReachWrite_answers (Keeps.refl s)
  case frameRx x f => exact show Answers s (execFrameRx x f s) from execFrameRx_answers (Keeps.refl s)
  case creditFlitRx x f => exact show Answers s (execCreditFlitRx x f s) from execCreditFlitRx_answers (Keeps.refl s)
  case frameSend x => exact show Answers s (execFrameSend x s) from execFrameSend_answers (Keeps.refl s)
  case frameAgeDrop p ix => exact show Answers s (execFrameAgeDrop p ix s) from execFrameAgeDrop_answers (Keeps.refl s)
  case packetInject io k => exact show Answers s (execPacketInject io k s) from execPacketInject_answers (Keeps.refl s)
  case packetArrive io k => exact show Answers s (execPacketArrive io k s) from execPacketArrive_answers (Keeps.refl s)
  case ackTimer io key => exact show Answers s (execAckTimer io key s) from execAckTimer_answers (Keeps.refl s)
  case ack io k => exact show Answers s (execAck io k s) from execAck_answers (Keeps.refl s)
  case nack io k => exact show Answers s (execNack io k s) from execNack_answers (Keeps.refl s)
  case vnotice io k => exact show Answers s (execVnotice io k s) from execVnotice_answers (Keeps.refl s)
  case resendTimeout io key seq => exact show Answers s (execResendTimeout io key seq s) from execResendTimeout_answers (Keeps.refl s)
  case streamEntryExpiry io tx key => exact show Answers s (execStreamEntryExpiry io tx key s) from execStreamEntryExpiry_answers (Keeps.refl s)
  case fault p k => exact show Answers s (execFault p k s) from execFault_answers (Keeps.refl s)
  case violInterval p => exact show Answers s (execViolInterval p s) from execViolInterval_answers (Keeps.refl s)
  case clrQuar p => exact show Answers s (execClrQuar p s) from execClrQuar_answers (Keeps.refl s)
  case req io k => exact show Answers s (execReq io k s) from execReq_answers (Keeps.refl s)
  case lineApply io line par => exact show Answers s (execLineApply io line par s) from execLineApply_answers (Keeps.refl s)
  case rsp io k => exact show Answers s (execRsp io k s) from execRsp_answers (Keeps.refl s)
  case reissueTimeout io home rid => exact show Answers s (execReissueTimeout io home rid s) from execReissueTimeout_answers (Keeps.refl s)
  case trigDeliver io k => exact show Answers s (execTrigDeliver io k s) from execTrigDeliver_answers (Keeps.refl s)
  case msgDeliver io k age => exact show Answers s (execMsgDeliver io k age s) from execMsgDeliver_answers (Keeps.refl s)
  case invAll d => exact show Answers s (execInvAll d s) from execInvAll_answers (Keeps.refl s)
  case colSetup g => exact show Answers s (execColSetup g s) from execColSetup_answers (Keeps.refl s)
  case colSetupDone g => exact show Answers s (execColSetupDone g s) from execColSetupDone_answers (Keeps.refl s)
  case colTeardown g => exact show Answers s (execColTeardown g s) from execColTeardown_answers (Keeps.refl s)
  case colOpStart g x => exact show Answers s (execColOpStart g x s) from execColOpStart_answers (Keeps.refl s)
  case colSlotReserve g d => exact show Answers s (execColSlotReserve g d s) from execColSlotReserve_answers (Keeps.refl s)
  case chunkSend g d => exact show Answers s (execChunkSend g d s) from execChunkSend_answers (Keeps.refl s)
  case data k residue => exact show Answers s (execData k residue s) from execData_answers (Keeps.refl s)
  case grant k => exact show Answers s (execGrant k s) from execGrant_answers (Keeps.refl s)
  case rereq k => exact show Answers s (execRereq k s) from execRereq_answers (Keeps.refl s)
  case exponent k => exact show Answers s (execExponent k s) from execExponent_answers (Keeps.refl s)
  case colDrainRow g c => exact show Answers s (execColDrainRow g c s) from execColDrainRow_answers (Keeps.refl s)
  case colGroupTimeout g d => exact show Answers s (execColGroupTimeout g d s) from execColGroupTimeout_answers (Keeps.refl s)
  case colOpComplete g c => exact show Answers s (execColOpComplete g c s) from execColOpComplete_answers (Keeps.refl s)
  case railSample compute uncore hbm io island pkg => exact show Answers s (execRailSample compute uncore hbm io island pkg s) from execRailSample_answers (Keeps.refl s)
  case regulatorInterval x => exact show Answers s (execRegulatorInterval x s) from execRegulatorInterval_answers (Keeps.refl s)
  case droopDetect d => exact show Answers s (execDroopDetect d s) from execDroopDetect_answers (Keeps.refl s)
  case stretchEnd d cycles still => exact show Answers s (execStretchEnd d cycles still s) from execStretchEnd_answers (Keeps.refl s)
  case thermalModelUpdate die temps projected => exact show Answers s (execThermalModelUpdate die temps projected s) from execThermalModelUpdate_answers (Keeps.refl s)
  case packageNodeUpdate substrate coldPlate coolant => exact show Answers s (execPackageNodeUpdate substrate coldPlate coolant s) from execPackageNodeUpdate_answers (Keeps.refl s)
  case diodeRound die readings => exact show Answers s (execDiodeRound die readings s) from execDiodeRound_answers (Keeps.refl s)
  case analogTrip die => exact show Answers s (execAnalogTrip die s) from execAnalogTrip_answers (Keeps.refl s)
  case coolDutyUpdate => exact show Answers s (execCoolDutyUpdate s) from execCoolDutyUpdate_answers (Keeps.refl s)
  case coolantRead inlet outlet => exact show Answers s (execCoolantRead inlet outlet s) from execCoolantRead_answers (Keeps.refl s)
  case pwrModeWrite v => exact show Answers s (execPwrModeWrite v s) from execPwrModeWrite_answers (Keeps.refl s)
  case midnightEntry => exact show Answers s (execMidnightEntry s) from execMidnightEntry_answers (Keeps.refl s)
  case pwrCapWrite v => exact show Answers s (execPwrCapWrite v s) from execPwrCapWrite_answers (Keeps.refl s)
  case learnClear => exact show Answers s (execLearnClear s) from execLearnClear_answers (Keeps.refl s)
  case attrClear => exact show Answers s (execAttrClear s) from execAttrClear_answers (Keeps.refl s)
  case pcieConfigReq write offset v => exact show Answers s (execPcieConfigReq write offset v s) from execPcieConfigReq_answers (Keeps.refl s)
  case pcieError status => exact show Answers s (execPcieError status s) from execPcieError_answers (Keeps.refl s)
  case bar2Read offset len => exact show Answers s (execBar2Read offset len s) from execBar2Read_answers (Keeps.refl s)
  case bar2Write offset data => exact show Answers s (execBar2Write offset data s) from execBar2Write_answers (Keeps.refl s)
  case regWrite offset size v => exact show Answers s (execRegWrite offset size v s) from execRegWrite_answers (Keeps.refl s)
  case regWriteHalf offset v => exact show Answers s (execRegWriteHalf offset v s) from execRegWriteHalf_answers (Keeps.refl s)
  case regReadLowHalf offset => exact show Answers s (execRegReadLowHalf offset s) from execRegReadLowHalf_answers (Keeps.refl s)
  case eventInputChange n level => exact show Answers s (execEventInputChange n level s) from execEventInputChange_answers (Keeps.refl s)
  case pendSet m v => exact show Answers s (execPendSet m v s) from execPendSet_answers (Keeps.refl s)
  case pendClr m v => exact show Answers s (execPendClr m v s) from execPendClr_answers (Keeps.refl s)
  case evcClaim t => exact show Answers s (execEvcClaim t s) from execEvcClaim_answers (Keeps.refl s)
  case evcVecArm v => exact show Answers s (execEvcVecArm v s) from execEvcVecArm_answers (Keeps.refl s)
  case msixUnmask v => exact show Answers s (execMsixUnmask v s) from execMsixUnmask_answers (Keeps.refl s)
  case watchdogExpiry hart => exact show Answers s (execWatchdogExpiry hart s) from execWatchdogExpiry_answers (Keeps.refl s)
  case mbxInRing c v => exact show Answers s (execMbxInRing c v s) from execMbxInRing_answers (Keeps.refl s)
  case mbxInDataWrite c n v => exact show Answers s (execMbxInDataWrite c n v s) from execMbxInDataWrite_answers (Keeps.refl s)
  case mbxInMaskWrite c v => exact show Answers s (execMbxInMaskWrite c v s) from execMbxInMaskWrite_answers (Keeps.refl s)
  case mbxHostRing crown => exact show Answers s (execMbxHostRing crown s) from execMbxHostRing_answers (Keeps.refl s)
  case hostMbxPoll => exact show Answers s (execHostMbxPoll s) from execHostMbxPoll_answers (Keeps.refl s)
  case echo => exact show Answers s (execEcho s) from execEcho_answers (Keeps.refl s)
  case unsupported => exact show Answers s (execUnsupported s) from execUnsupported_answers (Keeps.refl s)
  case jqTailWrite q v => exact show Answers s (execJqTailWrite q v s) from execJqTailWrite_answers (Keeps.refl s)
  case jqEnable q v => exact show Answers s (execJqEnable q v s) from execJqEnable_answers (Keeps.refl s)
  case jobPickup => exact show Answers s (execJobPickup s) from execJobPickup_answers (Keeps.refl s)
  case jobNop q => exact show Answers s (execJobNop q s) from execJobNop_answers (Keeps.refl s)
  case jobLoad q => exact show Answers s (execJobLoad q s) from execJobLoad_answers (Keeps.refl s)
  case jobStart q => exact show Answers s (execJobStart q s) from execJobStart_answers (Keeps.refl s)
  case jobStop q => exact show Answers s (execJobStop q s) from execJobStop_answers (Keeps.refl s)
  case jobAbort q => exact show Answers s (execJobAbort q s) from execJobAbort_answers (Keeps.refl s)
  case jobReset q => exact show Answers s (execJobReset q s) from execJobReset_answers (Keeps.refl s)
  case jobWait q expired => exact show Answers s (execJobWait q expired s) from execJobWait_answers (Keeps.refl s)
  case jobSignal q => exact show Answers s (execJobSignal q s) from execJobSignal_answers (Keeps.refl s)
  case illegalJob q => exact show Answers s (execIllegalJob q s) from execIllegalJob_answers (Keeps.refl s)
  case jobComplete q => exact show Answers s (execJobComplete q s) from execJobComplete_answers (Keeps.refl s)
  case porstRelease bootSel => exact show Answers s (execPorstRelease bootSel s) from execPorstRelease_answers (Keeps.refl s)
  case dawnDone => exact show Answers s (execDawnDone s) from execDawnDone_answers (Keeps.refl s)
  case porstAssert => exact show Answers s (execPorstAssert s) from execPorstAssert_answers (Keeps.refl s)
  case pkgReset v => exact show Answers s (execPkgReset v s) from execPkgReset_answers (Keeps.refl s)
  case perst asserted => exact show Answers s (execPerst asserted s) from execPerst_answers (Keeps.refl s)
  case pcieHotReset => exact show Answers s (execPcieHotReset s) from execPcieHotReset_answers (Keeps.refl s)
  case imgUpdate img => exact show Answers s (execImgUpdate img s) from execImgUpdate_answers (Keeps.refl s)
  case imgUpdateDone programmed readBack => exact show Answers s (execImgUpdateDone programmed readBack s) from execImgUpdateDone_answers (Keeps.refl s)
  case imgConfirm => exact show Answers s (execImgConfirm s) from execImgConfirm_answers (Keeps.refl s)
  case ownerChallenge nonce => exact show Answers s (execOwnerChallenge nonce s) from execOwnerChallenge_answers (Keeps.refl s)
  case nonceExpiry => exact show Answers s (execNonceExpiry s) from execNonceExpiry_answers (Keeps.refl s)
  case ownerRequest img slot nonce outer digest innerOk => exact show Answers s (execOwnerRequest img slot nonce outer digest innerOk s) from execOwnerRequest_answers (Keeps.refl s)
  case attest fwDigest recDigest ownerDigest signature => exact show Answers s (execAttest fwDigest recDigest ownerDigest signature s) from execAttest_answers (Keeps.refl s)
  case identityCert => exact show Answers s (execIdentityCert s) from execIdentityCert_answers (Keeps.refl s)
  case dieHealthCheck d answered regulated => exact show Answers s (execDieHealthCheck d answered regulated s) from execDieHealthCheck_answers (Keeps.refl s)
  case journalCommit => exact show Answers s (execJournalCommit s) from execJournalCommit_answers (Keeps.refl s)
  case healthRecord => exact show Answers s (execHealthRecord s) from execHealthRecord_answers (Keeps.refl s)
  case jrnlRead => exact show Answers s (execJrnlRead s) from execJrnlRead_answers (Keeps.refl s)
  case faultMap => exact show Answers s (execFaultMap s) from execFaultMap_answers (Keeps.refl s)
  case vspConfig => exact show Answers s (execVspConfig s) from execVspConfig_answers (Keeps.refl s)
  case vspHold => exact show Answers s (execVspHold s) from execVspHold_answers (Keeps.refl s)
  case vspStep => exact show Answers s (execVspStep s) from execVspStep_answers (Keeps.refl s)
  case vspStatus => exact show Answers s (execVspStatus s) from execVspStatus_answers (Keeps.refl s)
  case vspBlockRead d => exact show Answers s (execVspBlockRead d s) from execVspBlockRead_answers (Keeps.refl s)
  case vspBegin io k => exact show Answers s (execVspBegin io k s) from execVspBegin_answers (Keeps.refl s)
  case vspCommit io k => exact show Answers s (execVspCommit io k s) from execVspCommit_answers (Keeps.refl s)
  case vspApplyDone slot => exact show Answers s (execVspApplyDone slot s) from execVspApplyDone_answers (Keeps.refl s)
  case vspAbort io k => exact show Answers s (execVspAbort io k s) from execVspAbort_answers (Keeps.refl s)
  case vspSnapshotComplete micros => exact show Answers s (execVspSnapshotComplete micros s) from execVspSnapshotComplete_answers (Keeps.refl s)
  case drain => exact show Answers s (execDrain s) from execDrain_answers (Keeps.refl s)
  case drainComplete micros => exact show Answers s (execDrainComplete micros s) from execDrainComplete_answers (Keeps.refl s)
  case pwrfailAssert inTime => exact show Answers s (execPwrfailAssert inTime s) from execPwrfailAssert_answers (Keeps.refl s)
  case vinRise => exact show Answers s (execVinRise s) from execVinRise_answers (Keeps.refl s)
  case vinLockout => exact show Answers s (execVinLockout s) from execVinLockout_answers (Keeps.refl s)
  case bypass => exact show Answers s (execBypass s) from execBypass_answers (Keeps.refl s)
  case idcode => exact show Answers s (execIdcode s) from execIdcode_answers (Keeps.refl s)
  case samplePreload => exact show Answers s (execSamplePreload s) from execSamplePreload_answers (Keeps.refl s)
  case extest => exact show Answers s (execExtest s) from execExtest_answers (Keeps.refl s)
  case stackBringupEnd st ok hard soft remapped => exact show Answers s (execStackBringupEnd st ok hard soft remapped s) from execStackBringupEnd_answers (Keeps.refl s)
  case rcRead offset size => exact show Answers s (execRcRead offset size s) from execRcRead_answers (Keeps.refl s)
  case pcieLinkStateChange => exact show Answers s (execPcieLinkStateChange s) from execPcieLinkStateChange_answers (Keeps.refl s)

end Sys2Proof.Machine
end

