-- ==== Sys2Proof/Laws/Memory.lean ====
section
/-! SUPPORT. Memory: a byte read after a write, and the canonical form that every memory operation keeps (log 7). -/

namespace Sys2Proof.Machine

/-- A write changes nothing but memory. -/
theorem State.putByte_rest (s : State) (a : Nat) (b : Byte) : { s.putByte a b with mem := s.mem } = s := by
  unfold State.putByte; split <;> rfl

@[simp] theorem State.live_putByte (s : State) (a : Nat) (b : Byte) (x : Nat) : (s.putByte a b).live x = s.live x := by
  unfold State.putByte; split <;> rfl

/-- A byte after a byte is written: the one written where the address holds data, and every other as before. -/
theorem State.byte_putByte (s : State) (a : Nat) (b : Byte) (x : Nat) :
    (s.putByte a b).byte x = if x = a ∧ s.live a = true then b else s.byte x := by
  unfold State.byte
  rw [State.live_putByte]
  by_cases hx : s.live x = true
  · rw [if_pos hx, if_pos hx]
    unfold State.putByte
    by_cases ha : s.live a = true
    · rw [if_pos ha]
      simp only [Tab.get_put, ha, and_true]
    · rw [if_neg ha]; simp [ha]
  · rw [if_neg hx, if_neg hx]
    by_cases h : x = a
    · subst h; simp [hx]
    · simp [h]

theorem State.poke_rest (d : Bytes) : ∀ (s : State) (a : Nat), { s.poke a d with mem := s.mem } = s := by
  induction d with
  | nil => exact fun s a => rfl
  | cons b d ih =>
    intro s a
    have h1 := ih (s.putByte a b) (a + 1)
    have h2 := State.putByte_rest s a b
    rw [← h1] at h2
    exact h2

@[simp] theorem State.live_poke (d : Bytes) (s : State) (a x : Nat) : (s.poke a d).live x = s.live x := by
  induction d generalizing s a with
  | nil => rfl
  | cons b d ih => rw [State.poke, ih, State.live_putByte]

/-- A byte after bytes are written. -/
theorem State.byte_poke (d : Bytes) : ∀ (s : State) (a x : Nat),
    (s.poke a d).byte x = if a ≤ x ∧ x < a + d.length ∧ s.live x = true then d.getD (x - a) 0 else s.byte x := by
  induction d with
  | nil =>
    intro s a x
    rw [if_neg (by simp only [List.length_nil]; omega)]; rfl
  | cons b d ih =>
    intro s a x
    rw [State.poke, ih, State.byte_putByte, State.live_putByte]
    simp only [List.length_cons]
    by_cases hx : x = a
    · subst hx
      rw [if_neg (by omega)]
      by_cases hl : s.live x = true
      · simp [hl]
      · simp [hl]
    · by_cases h : a + 1 ≤ x ∧ x < a + 1 + d.length ∧ s.live x = true
      · rw [if_pos h, if_pos ⟨by omega, by omega, h.2.2⟩]
        have : x - a = (x - (a + 1)) + 1 := by omega
        rw [this]; rfl
      · rw [if_neg h, if_neg (fun hh => hx hh.1), if_neg (fun hh => h ⟨by omega, by omega, hh.2.2⟩)]

/-- Bytes written, and nothing else. -/
theorem State.poke_stored (s : State) (a : Nat) (d : Bytes) : Stored s (s.poke a d) a d :=
  ⟨State.byte_poke d s a, State.poke_rest d s a⟩

/-- What memory does not say stands. -/
theorem State.poke_get {α : Type} (f : State → α) (hf : ∀ (z : State) m, f { z with mem := m } = f z) (d : Bytes) (s : State) (a : Nat) :
    f (s.poke a d) = f s := by
  have := congrArg f (State.poke_rest d s a)
  rw [hf] at this
  exact this

theorem State.core_poke (d : Bytes) (s : State) (a c : Nat) : (s.poke a d).core c = s.core c := by
  have := congrArg State.cores (State.poke_rest d s a)
  simp only [State.core]; exact congrArg _ this

theorem State.poke_setCore (d : Bytes) : ∀ (s : State) (a c : Nat) (k : Core), (s.poke a d).setCore c k = (s.setCore c k).poke a d := by
  have h1 : ∀ (s : State) (a c : Nat) (k : Core) (b : Byte), (s.putByte a b).setCore c k = (s.setCore c k).putByte a b := by
    intro s a c k b
    have hl : (s.setCore c k).live a = s.live a := rfl
    unfold State.putByte
    rw [hl]
    by_cases h : s.live a = true
    · simp only [h, if_true]; rfl
    · simp only [h]; rfl
  induction d with
  | nil => exact fun _ _ _ _ => rfl
  | cons b d ih => intro s a c k; rw [State.poke, ih, h1]; rfl

/-- Memory stays canonical under a write. -/
theorem State.putByte_wf (s : State) (a : Nat) (b : Byte) (h : Memory.wf s.mem = true) : Memory.wf (s.putByte a b).mem = true := by
  unfold State.putByte
  split
  · exact Tab.wf_put 0 a b _ h
  · exact h

theorem State.poke_wf (d : Bytes) : ∀ (s : State) (a : Nat), Memory.wf s.mem = true → Memory.wf (s.poke a d).mem = true := by
  induction d with
  | nil => exact fun _ _ h => h
  | cons b d ih => exact fun s a h => ih _ _ (State.putByte_wf s a b h)

/-! Lengths and values of byte runs -/

@[simp] theorem toBytes_length (k v : Nat) : (toBytes k v).length = k := by
  induction k generalizing v with
  | zero => rfl
  | succ k ih => simp [toBytes, ih]

@[simp] theorem State.read_length (s : State) (a n : Nat) : (s.read a n).length = n := by simp [State.read]

theorem ofBytes_toBytes (k v : Nat) : ofBytes (toBytes k v) = v % 256 ^ k := by
  induction k generalizing v with
  | zero => simp [toBytes, ofBytes, Nat.mod_one]
  | succ k ih =>
    simp only [toBytes, ofBytes, ih, BitVec.toNat_ofNat]
    rw [show 256 ^ (k + 1) = 256 * 256 ^ k by rw [Nat.pow_succ, Nat.mul_comm], Nat.mod_mul]

theorem toBytes_getD (k v i : Nat) (h : i < k) : (toBytes k v).getD i 0 = BitVec.ofNat 8 (v / 256 ^ i) := by
  induction k generalizing v i with
  | zero => omega
  | succ k ih =>
    cases i with
    | zero => simp [toBytes]
    | succ i =>
      have := ih (v / 256) i (by omega)
      simp only [toBytes, List.getD_cons_succ, this, Nat.div_div_eq_div_mul]
      congr 2
      rw [Nat.pow_succ, Nat.mul_comm]

end Sys2Proof.Machine
end

