-- ==== Sys2Proof/Laws/Sequencer.lean ====
section
/-! SUPPORT. The sequencer's shared operations at a core that issues. -/

namespace Sys2Proof.Machine

theorem issue_ready {c : Nat} {s : State} (h : s.Ready c) (f : State → State) : issue c s f = f s := by
  unfold issue
  rw [if_pos h.issuing, h.word]
  rfl

theorem State.advance_room {c : Nat} {s : State} (h : (s.core c).pc < 16383) : s.advance c = s.setCore c (s.core c).next := by
  unfold State.advance
  rw [if_pos (by omega)]
  rfl

theorem State.jump_room {c n : Nat} {s : State} (h : n ≤ 16383) : s.jump c n = s.setCore c ((s.core c).at n) := by
  unfold State.jump
  rw [if_pos h]
  rfl

/-- An instruction that changes the core and goes on. -/
theorem State.modCore_advance {c : Nat} {s : State} (f : Core → Core) (h : (f (s.core c)).pc < 16383) :
    (s.modCore c f).advance c = s.setCore c (f (s.core c)).next := by
  rw [State.advance_room (by simpa using h)]
  simp [State.modCore]

theorem seqLoad_inside {c align n off : Nat} {f : Bytes → Core → Core} {s : State} (h1 : off % align = 0)
    (h2 : off + n ≤ 0x1800000) :
    seqLoad c align n off none f s = (s.modCore c (f (s.read (storeAddr c off) n))).advance c := by
  have hr : seqRoom off n = n := by unfold seqRoom; exact Nat.min_eq_left (by omega)
  unfold seqLoad State.seqViol
  rw [if_neg (by simpa using h1)]
  simp [hr]

theorem seqStore_inside {c align off : Nat} {d : Bytes} {s : State} (h1 : off % align = 0)
    (h2 : off + d.length ≤ 0x1800000) :
    seqStore c align off d s = (s.poke (storeAddr c off) d).advance c := by
  have hr : seqRoom off d.length = d.length := by unfold seqRoom; exact Nat.min_eq_left (by omega)
  unfold seqStore State.seqViol
  rw [if_neg (by simpa using h1)]
  simp [hr]

/-- A core fault of a core that is not already stopped by one (R144). -/
theorem State.coreFault_faults {c : Nat} {s : State} (cause queue pc detail : Nat) (h1 : (s.core c).fault = none)
    (h2 : (s.core c).run = .running ∨ (s.core c).run = .stopping) :
    Faults s (s.coreFault c cause queue pc detail) c cause queue pc detail := by
  unfold State.coreFault Faults
  dsimp only
  rw [if_neg (by rcases h2 with h2 | h2 <;> rw [h1, h2] <;> decide)]
  have := State.setRun_raised
    (s.modCore c fun k => { k.discard with fault := some ⟨cause, queue, pc, detail⟩, stopCause := .fault }) c .stopping
  simpa [State.modCore] using this

/-- An instruction whose fields and descriptors pass enters its queue (R122, R128). -/
theorem issueQ_takes {c : Nat} {ins : QIns} {ill : Bool} {bad : QEntry → Bool} {s : State} (h : s.Takes c ins)
    (h1 : ill = false) (h2 : bad (s.entryOf c ins) = false) :
    issueQ c ins ill bad s = s.setCore c ((s.core c).queued (s.entryOf c ins)) := by
  unfold issueQ
  rw [issue_ready h.1]
  dsimp only
  rw [h1, if_neg (by decide)]
  change (if bad (s.entryOf c ins) = true then _ else _) = _
  rw [h2, if_neg (by decide)]
  unfold State.enqueue
  dsimp only
  rw [if_pos h.2, State.modCore_advance]
  · rfl
  · have := h.1.room
    cases ins.queue <;> exact this

/-! ### Starts -/

@[simp] theorem Core.take_started (k : Core) (ws : List (Nat × Nat)) : (k.take ws).started = k.started := by
  unfold Core.take
  induction ws generalizing k with
  | nil => rfl
  | cons w ws ih => rw [List.foldl_cons, ih]; rfl

@[simp] theorem Core.setQueue_started (k : Core) (q : Queue) (l : List QEntry) : (k.setQueue q l).started = k.started := by
  cases q <;> rfl

theorem Core.begun_eq (k : Core) (e : QEntry) (rest : List QEntry) :
    k.begun e rest = { (k.take (waitSet e.ins.sync)).setQueue e.ins.queue rest with
      started := ((k.take (waitSet e.ins.sync)).setQueue e.ins.queue rest).started ++ [⟨e, 0, .none, false⟩] } := by
  unfold Core.begun
  rw [Core.setQueue_started, Core.take_started]

/-- A queue head that starts (R129): its counts are taken, it leaves its queue, and its effect runs. -/
theorem start_starts {c : Nat} {s : State} {e : QEntry} {rest : List QEntry} (h : s.Starts c e rest)
    (hq : e.ins.queue ≠ .mx) :
    exec (.queueInstrStart c e.ins.queue none) s = .next
      (let r := (s.setCore c ((s.core c).begun e rest)).startIns c e
       match r.2 with
       | some (code, fl) => r.1.finish c e.seq code fl
       | none => r.1) := by
  show ret (if s.pwrFail then s else _) = _
  rw [h.power, if_neg (by decide), h.head]
  dsimp only
  rw [if_pos (by simp [h.here, h.counts, h.free, hq])]
  simp only [State.modCore, State.core_setCore, State.setCore_setCore, if_true]
  rw [← Core.begun_eq]
  rfl

/-- Work done at once ends the entry that was started last. -/
theorem State.finish_of {c : Nat} {s t : State} {e : QEntry} {rest : List QEntry} (code : Nat) (fl : NumFlags)
    (f : Core → Core) (hf : ∀ k l, f { k with started := l } = { f k with started := l })
    (ho : ∀ r ∈ (s.core c).started, r.entry.seq ≠ e.seq) (ht : t.core c = f ((s.core c).begun e rest)) :
    t.finish c e.seq code fl = t.setCore c (f ((s.core c).ended e rest code fl)) := by
  unfold State.finish
  simp only [State.modCore, ht]
  congr 1
  have h2 : List.map (fun r : Started => if r.entry.seq = e.seq then
      { r with finished := true, code := code, flags := r.flags.or fl } else r) (s.core c).started = (s.core c).started := by
    conv => rhs; rw [← List.map_id (s.core c).started]
    exact List.map_congr_left fun r hr => by simp [ho r hr]
  have hn : NumFlags.or .none fl = fl := by cases fl; rfl
  have hb : f ((s.core c).begun e rest) = { f ((s.core c).begun e rest) with
      started := (s.core c).started ++ [⟨e, 0, .none, false⟩] } := by
    rw [← hf]; rfl
  have he : f ((s.core c).ended e rest code fl) = { f ((s.core c).begun e rest) with
      started := (s.core c).started ++ [⟨e, code, fl, true⟩] } := by
    rw [← hf]; rfl
  rw [he, hb]
  dsimp only
  rw [List.map_append, h2]
  simp [hn]

theorem State.finish_begun {c : Nat} {s : State} {e : QEntry} {rest : List QEntry} (code : Nat) (fl : NumFlags)
    (f : Core → Core) (hf : ∀ k l, f { k with started := l } = { f k with started := l })
    (ho : ∀ r ∈ (s.core c).started, r.entry.seq ≠ e.seq) :
    (s.setCore c (f ((s.core c).begun e rest))).finish c e.seq code fl
      = s.setCore c (f ((s.core c).ended e rest code fl)) := by
  rw [State.finish_of (s := s) (rest := rest) code fl f hf ho (by simp), State.setCore_setCore]

end Sys2Proof.Machine
end

