-- ==== Sys2Proof/Laws/Status.lean ====
section
/-! SUPPORT. Status at completion: signals that do not saturate (R131) and the record of CORE_QSTAT and CORE_NUMFLAGS (R142,
R143). -/

namespace Sys2Proof.Machine

theorem NumFlags.toNat_lt (f : NumFlags) : f.toNat < 16 := by
  obtain ⟨a, b, c, d⟩ := f; revert a b c d; decide

theorem Core.semVal_setSem (k : Core) (n v m : Nat) (h : v ≤ 65535) : (k.setSem n v).semVal m = if m = n then v else k.semVal m := by
  unfold Core.setSem Core.semVal
  dsimp only
  rw [Tab.get_put]
  split
  · simp; omega
  · rfl

theorem State.signal_plain (s : State) (c n i : Nat) (h : (s.core c).semVal n + i ≤ 65535) :
    s.signal c n i = s.setCore c ((s.core c).setSem n ((s.core c).semVal n + i)) := by
  unfold State.signal
  dsimp only
  rw [if_pos h]; rfl

theorem State.signals_plain (w : State) (X : Core) (c : Nat) (y : Sync)
    (h : ∀ n, X.semVal n + y.s0inc.toNat + y.s1inc.toNat ≤ 65535) :
    ∃ u : Core, (w.setCore c X).signals c y = w.setCore c u ∧ { u with sem := X.sem } = X ∧
      ∀ n, u.semVal n = X.semVal n + (if n = y.s0sem.toNat then y.s0inc.toNat else 0)
          + (if n = y.s1sem.toNat then y.s1inc.toNat else 0) := by
  have one : ∀ (X : Core) n i, X.semVal n + i ≤ 65535 → (w.setCore c X).signal c n i = w.setCore c (X.setSem n (X.semVal n + i)) := by
    intro X n i h
    rw [State.signal_plain _ _ _ _ (by simpa using h)]; simp
  unfold State.signals
  by_cases he : y.s0sem = y.s1sem
  · rw [if_pos he]
    by_cases h0 : y.s0inc.toNat + y.s1inc.toNat = 0
    · rw [if_pos h0]
      refine ⟨X, rfl, rfl, fun n => ?_⟩
      split <;> split <;> omega
    · rw [if_neg h0, one _ _ _ (by have := h y.s0sem.toNat; omega)]
      refine ⟨_, rfl, rfl, fun n => ?_⟩
      rw [Core.semVal_setSem _ _ _ _ (by have := h y.s0sem.toNat; omega), ← he]
      split
      · next hn => subst hn; omega
      · omega
  · rw [if_neg he]
    have hne : y.s0sem.toNat ≠ y.s1sem.toNat := fun e => he (BitVec.eq_of_toNat_eq e)
    have h0 : ∃ u, (if y.s0inc = 0 then w.setCore c X else (w.setCore c X).signal c y.s0sem.toNat y.s0inc.toNat) = w.setCore c u
        ∧ { u with sem := X.sem } = X ∧ ∀ n, u.semVal n = X.semVal n + (if n = y.s0sem.toNat then y.s0inc.toNat else 0) := by
      by_cases hz : y.s0inc = 0
      · rw [if_pos hz, hz]
        exact ⟨X, rfl, rfl, fun n => by split <;> simp⟩
      · rw [if_neg hz, one _ _ _ (by have := h y.s0sem.toNat; omega)]
        refine ⟨_, rfl, rfl, fun n => ?_⟩
        rw [Core.semVal_setSem _ _ _ _ (by have := h y.s0sem.toNat; omega)]
        split
        · next hn => rw [hn]
        · omega
    obtain ⟨u, hu, hr, hv⟩ := h0
    dsimp only
    rw [hu]
    by_cases hz : y.s1inc = 0
    · rw [if_pos hz, hz]
      exact ⟨u, rfl, hr, fun n => by rw [hv n]; simp⟩
    · rw [if_neg hz, one _ _ _ (by have := h y.s1sem.toNat; have := hv y.s1sem.toNat; rw [if_neg (Ne.symm hne)] at this; omega)]
      refine ⟨_, rfl, hr, fun n => ?_⟩
      rw [Core.semVal_setSem _ _ _ _ (by have := h y.s1sem.toNat; have := hv y.s1sem.toNat; rw [if_neg (Ne.symm hne)] at this; omega)]
      by_cases h1 : n = y.s1sem.toNat
      · rw [if_pos h1, if_pos h1, ← h1]; rw [hv n]
      · rw [if_neg h1, if_neg h1, hv n, Nat.add_zero]

theorem State.setRf_rest (s t : State) (o lo len v : Nat) (h : { t with regs := s.regs } = s) :
    { t.setRf o lo len v with regs := s.regs } = s := h

theorem State.setRf_reg (s t : State) (o lo len v o' : Nat) (h : t.reg o' = s.reg o') (hn : o' ≠ o) :
    (t.setRf o lo len v).reg o' = s.reg o' := (State.reg_setReg_ne _ _ hn).trans h

theorem State.recordStatus_spec (s : State) (c : Nat) (q : Queue) (code pc : Nat) (fl : NumFlags) :
    let t := s.recordStatus c q code pc fl
    let qs := rCore c (0x80 + 8 * queueNum q)
    let nf := rCore c 0x20
    let counts : Prop := code ≠ 0 ∧ code ≠ 1
    { t with regs := s.regs } = s
      ∧ (∀ o, o ≠ qs → o ≠ nf → t.reg o = s.reg o)
      ∧ t.rf nf 0 4 = s.rf nf 0 4 ||| fl.toNat
      ∧ t.rf qs 32 4 = s.rf qs 32 4 ||| fl.toNat
      ∧ t.rf qs 0 32 = (if counts then min (s.rf qs 0 32 + 1) (2 ^ 32 - 1) else s.rf qs 0 32)
      ∧ t.rf qs 56 8 = (if counts ∧ s.rf qs 0 32 = 0 then code % 256 else s.rf qs 56 8)
      ∧ t.rf qs 36 14 = (if counts ∧ s.rf qs 0 32 = 0 then pc % 2 ^ 14 else s.rf qs 36 14) := by
  intro t qs nf counts
  have hl := NumFlags.toNat_lt fl
  have hne : nf ≠ qs := by simp only [nf, qs, rCore]; omega
  have hor : ∀ (o lo : Nat), (s.rf o lo 4 ||| fl.toNat) % 2 ^ 4 = s.rf o lo 4 ||| fl.toNat := by
    intro o lo
    exact Nat.mod_eq_of_lt (Nat.or_lt_two_pow (n := 4) (fld_lt _ _ _) hl)
  let t1 := s.setRf qs 32 4 (s.rf qs 32 4 ||| fl.toNat)
  let t2 := if counts ∧ s.rf qs 0 32 = 0 then (t1.setRf qs 56 8 code).setRf qs 36 14 pc else t1
  let t3 := if counts then t2.bump qs 0 32 1 else t2
  have ht : t = t3.setRf nf 0 4 (t3.rf nf 0 4 ||| fl.toNat) := rfl
  have r1 : { t1 with regs := s.regs } = s := rfl
  have r2 : { t2 with regs := s.regs } = s := by
    simp only [t2]; split
    · exact State.setRf_rest _ _ _ _ _ _ (State.setRf_rest _ _ _ _ _ _ r1)
    · exact r1
  have r3 : { t3 with regs := s.regs } = s := by
    simp only [t3]; split
    · exact State.setRf_rest _ _ _ _ _ _ r2
    · exact r2
  have g1 : ∀ o, o ≠ qs → t1.reg o = s.reg o := fun o ho => State.setRf_reg _ _ _ _ _ _ _ rfl ho
  have g2 : ∀ o, o ≠ qs → t2.reg o = s.reg o := by
    intro o ho
    simp only [t2]; split
    · exact State.setRf_reg _ _ _ _ _ _ _ (State.setRf_reg _ _ _ _ _ _ _ (g1 o ho) ho) ho
    · exact g1 o ho
  have g3 : ∀ o, o ≠ qs → t3.reg o = s.reg o := by
    intro o ho
    simp only [t3]; split
    · exact State.setRf_reg _ _ _ _ _ _ _ (g2 o ho) ho
    · exact g2 o ho
  have n3 : t3.rf nf 0 4 = s.rf nf 0 4 := congrArg (fun w => fld w 0 4) (g3 nf hne)
  have a32 : t3.rf qs 32 4 = s.rf qs 32 4 ||| fl.toNat := by
    have h1 : t1.rf qs 32 4 = _ := (State.rf_setRf _ _ _ _ _ (by omega)).trans (hor _ _)
    have h2 : t2.rf qs 32 4 = t1.rf qs 32 4 := by
      simp only [t2]; split
      · rw [State.rf_setRf_ne _ _ _ _ _ _ _ (by omega), State.rf_setRf_ne _ _ _ _ _ _ _ (by omega)]
      · rfl
    have h3 : t3.rf qs 32 4 = t2.rf qs 32 4 := by
      simp only [t3]; split
      · exact State.rf_setRf_ne _ _ _ _ _ _ _ (by omega)
      · rfl
    rw [h3, h2, h1]
  have a0 : t2.rf qs 0 32 = s.rf qs 0 32 := by
    have h1 : t1.rf qs 0 32 = s.rf qs 0 32 := State.rf_setRf_ne _ _ _ _ _ _ _ (by omega)
    simp only [t2]; split
    · rw [State.rf_setRf_ne _ _ _ _ _ _ _ (by omega), State.rf_setRf_ne _ _ _ _ _ _ _ (by omega), h1]
    · exact h1
  refine ⟨?_, ?_, ?_, ?_, ?_, ?_, ?_⟩
  · rw [ht]; exact State.setRf_rest _ _ _ _ _ _ r3
  · intro o h1 h2; rw [ht]; exact State.setRf_reg _ _ _ _ _ _ _ (g3 o h1) h2
  · rw [ht, State.rf_setRf _ _ _ _ _ (by omega), n3, hor]
  · rw [ht, State.rf_setRf_reg _ _ _ _ _ _ _ _ (Ne.symm hne), a32]
  · rw [ht, State.rf_setRf_reg _ _ _ _ _ _ _ _ (Ne.symm hne)]
    by_cases hcc : counts
    · simp only [t3, if_pos hcc]
      unfold State.bump satAdd
      rw [State.rf_setRf _ _ _ _ _ (by omega), a0]
      refine (Nat.mod_eq_of_lt ?_)
      exact Nat.lt_of_le_of_lt (Nat.min_le_right _ _) (by decide)
    · simp only [t3, if_neg hcc]
      exact a0
  · rw [ht, State.rf_setRf_reg _ _ _ _ _ _ _ _ (Ne.symm hne)]
    have h3 : t3.rf qs 56 8 = t2.rf qs 56 8 := by
      simp only [t3]; split
      · exact State.rf_setRf_ne _ _ _ _ _ _ _ (by omega)
      · rfl
    rw [h3]
    simp only [t2]; split
    · rw [State.rf_setRf_ne _ _ _ _ _ _ _ (by omega), State.rf_setRf _ _ _ _ _ (by omega)]; rfl
    · exact State.rf_setRf_ne _ _ _ _ _ _ _ (by omega)
  · rw [ht, State.rf_setRf_reg _ _ _ _ _ _ _ _ (Ne.symm hne)]
    have h3 : t3.rf qs 36 14 = t2.rf qs 36 14 := by
      simp only [t3]; split
      · exact State.rf_setRf_ne _ _ _ _ _ _ _ (by omega)
      · rfl
    rw [h3]
    simp only [t2]; split
    · rw [State.rf_setRf _ _ _ _ _ (by omega)]
    · exact State.rf_setRf_ne _ _ _ _ _ _ _ (by omega)

end Sys2Proof.Machine
end

