-- ==== Sys2Proof/Laws/Net.lean ====
section
/-! SUPPORT. What the operations of the optics and the fabric can touch: `NetR`. -/

namespace Sys2Proof.Machine
variable {Q P : Nat → Prop}

theorem NetR.refl (s : State) : NetR Q P s s := ⟨fun _ _ _ => rfl, fun _ _ => rfl, rfl⟩

theorem NetR.trans {s t u : State} (h : NetR Q P s t) (k : NetR Q P t u) : NetR Q P s u := by
  refine ⟨fun o h0 h1 => (k.regs o h0 h1).trans (h.regs o h0 h1), fun q h1 => (k.lanes q h1).trans (h.lanes q h1), ?_⟩
  have h1 := h.rest
  have h2 := k.rest
  rw [← h2] at h1
  exact h1

theorem NetR.shows {s t : State} {os : List Nat} (h : Shows s t os) (ho : ∀ o ∈ os, Q o) : NetR Q P s t := by
  refine ⟨fun o h0 h1 => h.regs o (fun h2 => h1 (ho o h2)) h0, fun q _ => ?_, ?_⟩
  · exact congrArg (Tab.get OPort.reset q) (h.get State.oports (fun _ _ _ => rfl))
  have h1 := h.rest
  have : t.backlog = s.backlog ∧ t.jDropped = s.jDropped := ⟨h.get State.backlog (fun _ _ _ => rfl), h.get State.jDropped (fun _ _ _ => rfl)⟩
  rw [← h1]

theorem NetR.setReg {s t : State} (h : NetR Q P s t) (o : Nat) (v : W64) (ho : Q o) : NetR Q P s (t.setReg o v) :=
  h.trans (NetR.shows ((Shows.refl t [o]).setReg o v (.inl (by simp))) (by simpa using ho))

theorem NetR.setRf {s t : State} (h : NetR Q P s t) (o lo len v : Nat) (ho : Q o) : NetR Q P s (t.setRf o lo len v) := h.setReg _ _ ho

theorem NetR.setRbit {s t : State} (h : NetR Q P s t) (o i : Nat) (b : Bool) (ho : Q o) : NetR Q P s (t.setRbit o i b) := h.setReg _ _ ho

theorem NetR.bump {s t : State} (h : NetR Q P s t) (o lo len n : Nat) (ho : Q o) : NetR Q P s (t.bump o lo len n) := h.setReg _ _ ho

theorem NetR.pulse {s t : State} (h : NetR Q P s t) (n : Nat) : NetR Q P s (t.pulse n) := h.trans (NetR.shows ((Shows.refl t []).pulse n) (by simp))

theorem NetR.setLevel {s t : State} (h : NetR Q P s t) (n : Nat) (b : Bool) : NetR Q P s (t.setLevel n b) :=
  h.trans (NetR.shows ((Shows.refl t []).setLevel n b) (by simp))

theorem NetR.open' {s t : State} (h : NetR Q P s t) (k c u n : Nat) : NetR Q P s (t.journalOpen k c u n) := by
  refine h.trans ?_
  unfold State.journalOpen State.journalPut
  split <;> exact ⟨fun _ _ _ => rfl, fun _ _ => rfl, rfl⟩

theorem NetR.mapChange {s t : State} (h : NetR Q P s t) : NetR Q P s t.mapChange := h.trans ⟨fun _ _ _ => rfl, fun _ _ => rfl, rfl⟩

theorem NetR.modPort {s t : State} (h : NetR Q P s t) (p : Nat) (f : OPort → OPort) (hp : P p) : NetR Q P s (t.modPort p f) :=
  h.trans ⟨fun _ _ _ => rfl, fun q hq => Tab.get_put_ne _ _ _ (fun e => hq (e ▸ hp)), rfl⟩

theorem NetR.send {s t : State} (h : NetR Q P s t) (o : Out) : NetR Q P s (t.send o) := h.trans ⟨fun _ _ _ => rfl, fun _ _ => rfl, rfl⟩

theorem NetR.foldl {s : State} {α : Type} (f : State → α → State) (hf : ∀ t a, NetR Q P t (f t a)) (l : List α) : ∀ t, NetR Q P s t → NetR Q P s (l.foldl f t) := by
  induction l with
  | nil => exact fun t h => h
  | cons a l ih => exact fun t h => ih _ (h.trans (hf t a))

theorem NetR.trans' {s t u : State} (k : NetR Q P t u) (h : NetR Q P s t) : NetR Q P s u := h.trans k

theorem NetR.foldlB {s : State} (n : Nat) (f : Nat → State → State) (hf : ∀ a t, a < n → NetR Q P t (f a t)) : ∀ (l : List Nat), (∀ a ∈ l, a < n) →
    ∀ t, NetR Q P s t → NetR Q P s (l.foldl (fun t i => f i t) t) := by
  intro l
  induction l with
  | nil => exact fun _ t h => h
  | cons a l ih => exact fun hl t h => ih (fun n hn => hl n (by simp [hn])) _ (h.trans (hf a t (hl a (by simp))))

theorem NetR.iter {s : State} (f : Nat → State → State) (n : Nat) (hf : ∀ a t, a < n → NetR Q P t (f a t)) (t : State) (h : NetR Q P s t) : NetR Q P s (iter n f t) :=
  NetR.foldlB n f hf _ (fun _ ha => List.mem_range.mp ha) t h

theorem port_net (p o : Nat) (hp : p < 32) (ho : o < 0x80) : netReg (rPort p o) := by
  unfold netReg rPort rOpt; omega

theorem opt_net (i o : Nat) (hi : i < 4) (ho : o < 0x40000) : netReg (rOpt i o) := by unfold netReg rOpt; omega

theorem fab_net (o : Nat) (ho : o < 0x100000) : netReg (rFab o) := by unfold netReg rFab; omega

theorem fab_reg (o : Nat) (h : o = 0x100 ∨ (0x10000 ≤ o ∧ o < 0x12200)) : fabReg (rFab o) := by unfold fabReg rFab; omega

theorem NetR.mono {Q R P S : Nat → Prop} {s t : State} (h : NetR Q P s t) (k : ∀ o, Q o → R o) (l : ∀ o, P o → S o) : NetR R S s t :=
  ⟨fun o h1 h2 => h.regs o h1 (fun h3 => h2 (k o h3)), fun q h1 => h.lanes q (fun h2 => h1 (l q h2)), h.rest⟩

theorem Fab.port {s t : State} (h : Fab s t) (p : Nat) : NetR (portReg p) P s t := h.mono (fun o ho => .inl ho) (fun _ h => h.elim)

theorem portReg_net {p o : Nat} (hp : p < 32) (h : portReg p o) : netReg o := by
  unfold portReg fabReg rPort rOpt at h; unfold netReg; omega

theorem PortOnly.net {p : Nat} {s t : State} (h : PortOnly p s t) (hp : p < 32) : Net s t := h.mono (fun _ => portReg_net hp) (fun _ _ => trivial)

theorem port_reg (p o : Nat) (ho : o < 0x80) : portReg p (rPort p o) := by unfold portReg rPort rOpt; omega

theorem ready_reg (p : Nat) : portReg p (rBoot 0x110) := .inr (.inl rfl)

theorem laneStats_net (t : State) (p : Nat) (hp : p < 32) : NetR (portReg p) P t (t.laneStats p) := by
  unfold State.laneStats
  apply NetR.iter _ _ _ _ (NetR.refl t)
  intro l z hl
  exact (NetR.refl z).setRf _ _ _ _ (port_reg _ _ (by omega))

theorem setMaps_net (t : State) (p : Nat) (hp : p < 32) (tx rx : BitVec 8) : NetR (portReg p) P t (t.setMaps p tx rx) := by
  unfold State.setMaps
  dsimp only
  refine NetR.trans ?_ (laneStats_net _ _ hp)
  have h0 := port_reg p 0 (by omega)
  have k := (((((NetR.refl (Q := portReg p) (P := P) t).setRf _ 36 8 tx.toNat h0).setRf _ 28 8 rx.toNat h0).setRf _ 48 4 (popcount tx) h0).setRf _ 44 4 (popcount rx) h0)
  generalize (((t.setRf (rPort p 0) 36 8 tx.toNat).setRf (rPort p 0) 28 8 rx.toNat).setRf (rPort p 0) 48 4 (popcount tx)).setRf (rPort p 0) 44 4 (popcount rx) = z at k ⊢
  have h : ∀ n g : Nat, NetR (portReg p) P t (iter n (fun _ t => (t.journalOpen 0x40 0 6 p).pulse (642 + 4 * p)) (z.bump (rPort p 0x10) 16 16 g)) := by
    intro n g
    apply NetR.iter
    · intro _ t _; exact (NetR.open' (NetR.refl _) _ _ _ _).pulse _
    · exact k.bump _ _ _ _ (port_reg p 0x10 (by omega))
  split <;> split
  · exact (h _ _).setLevel _ _
  · exact k.setLevel _ _
  · exact ((h _ _).setLevel _ _).mapChange
  · exact (k.setLevel _ _).mapChange

theorem applyAlts_net (t : State) : Fab t t.applyAlts := by
  unfold State.applyAlts
  dsimp only
  apply NetR.iter
  · intro n z hn
    split
    · exact NetR.refl _
    · exact (NetR.refl _).setRbit _ _ _ (fab_reg _ (by omega))
  · apply NetR.iter _ _ _ _ (NetR.refl t)
    intro n z hn
    split
    · exact NetR.refl _
    · exact (NetR.refl _).setRbit _ _ _ (fab_reg _ (by omega))

theorem granted_net (t : State) (g : Tab Nat) : Fab t { t with granted := g } := ⟨fun _ _ _ => rfl, fun _ _ => rfl, rfl⟩

theorem occ_net (t : State) (g : Tab Nat) : Fab t { t with occ := g } := ⟨fun _ _ _ => rfl, fun _ _ => rfl, rfl⟩

theorem grantVc_net (t : State) (p v : Nat) (b : Bool) : Fab t (t.grantVc p v b) := by
  unfold State.grantVc
  dsimp only
  generalize reservedFlits v - t.lent p v = own
  generalize (if b = true then Nat.min 17 (t.poolRoom p) else 0) = extra
  split
  · exact NetR.refl _
  · exact (granted_net t _).send _

theorem release_net (t : State) (f : RFrame) : Fab t (t.release f) := by
  unfold State.release
  split
  · exact NetR.refl _
  dsimp only
  generalize Tab.upd 0 (8 * f.inp + f.vc) (· - flitsOf f.k.len) t.occ = g
  split
  · exact (occ_net t g).trans (grantVc_net _ _ _ _)
  · exact occ_net t g

theorem router_net (t : State) (g : List RFrame) : Fab t { t with router := g } := ⟨fun _ _ _ => rfl, fun _ _ => rfl, rfl⟩

theorem arrived_net (t : State) (g : List (Nat × Packet)) : Fab t { t with arrived := g } := ⟨fun _ _ _ => rfl, fun _ _ => rfl, rfl⟩

theorem dead_net (t : State) (g : List DeadLink) : Fab t { t with deadLinks := g } := ⟨fun _ _ _ => rfl, fun _ _ => rfl, rfl⟩

theorem own_net (t : State) (g : List Nat) : Fab t { t with deadOwn := g } := ⟨fun _ _ _ => rfl, fun _ _ => rfl, rfl⟩

theorem fseq_net (t : State) (g : Nat) : Fab t { t with fseqOwn := g } := ⟨fun _ _ _ => rfl, fun _ _ => rfl, rfl⟩


theorem er1 (t : State) (f : RFrame) : Fab t (({ t with arrived := t.arrived ++ [(t.endpointOf f.k, f.k)] } : State).release f) := by
  generalize t.arrived ++ [(t.endpointOf f.k, f.k)] = g
  exact (arrived_net t g).trans (release_net _ f)

theorem er3 (t : State) (f : RFrame) : Fab t ({ t with router := t.router ++ [f] } : State) := router_net t _

theorem er4 (t : State) (f : RFrame) (r : Route) : Fab t (match r with
  | .here => ({ t with arrived := t.arrived ++ [(t.endpointOf f.k, f.k)] } : State).release f
  | .drop => t.release f
  | .out _ _ => { t with router := t.router ++ [f] }) := by
  cases r with
  | here => exact er1 t f
  | drop => exact release_net t f
  | out _ _ => exact er3 t f

theorem place_net (t : State) (f : RFrame) : Fab t (t.place f) := by
  unfold State.place
  exact er4 t f _

theorem crossAll_net : ∀ (fs : List RFrame) (stuck : List (Nat × Nat)) (stay moved : List RFrame) (t : State),
    Fab t (State.crossAll fs stuck stay moved t) := by
  intro fs
  induction fs with
  | nil => intro stuck stay moved t; exact router_net t _
  | cons f fs ih =>
    intro stuck stay moved t
    unfold State.crossAll
    split
    · exact ih _ _ _ _
    · dsimp only
      split
      · exact ((occ_net t _).trans (release_net _ f)).trans (ih _ _ _ _)
      · exact ih _ _ _ _

theorem cross_net (t : State) : Fab t t.cross := crossAll_net _ _ _ _ t

theorem enterRouter_net (t : State) (f : RFrame) : Fab t (t.enterRouter f) := (place_net t f).trans (cross_net _)

theorem noteLink_net (z : State) (l : DeadLink) (up : Bool) : Fab z (z.noteLink l up) := by
  unfold State.noteLink
  generalize (if up then z.deadLinks.filter (· != l) else if z.deadLinks.any (· == l) then z.deadLinks else l :: z.deadLinks) = g
  exact (dead_net z g).trans (applyAlts_net _)

theorem spread_net (z : State) (o : BitVec 16) (f d x : Nat) (up : Bool) (n : Nat) : Fab z (z.spreadFault o f d x up n) := by
  unfold State.spreadFault
  refine NetR.foldl _ ?_ _ _ (NetR.refl z)
  intro t a
  generalize t.dirPorts a true = l
  cases l with
  | nil => exact NetR.refl _
  | cons p _ =>
    dsimp only
    split
    · exact NetR.refl _
    · unfold State.injectRaw
      generalize (RFrame.mk _ _ _ _ _) = fr
      exact enterRouter_net t fr

theorem logFault_net (z : State) (o : BitVec 16) (f d x : Nat) (up : Bool) : Fab z (z.logFault o f d x up) := by
  unfold State.logFault
  dsimp only
  generalize BitVec.ofNat 64 _ = v
  apply NetR.open'
  split
  · exact NetR.refl _
  · exact (NetR.refl _).setReg _ _ (fab_reg _ (by omega))

theorem ownFault_net (t : State) (d x : Nat) (up : Bool) : Fab t (t.ownFault d x up) := by
  unfold State.ownFault
  dsimp only
  refine NetR.trans' (logFault_net _ _ _ _ _ _) ?_
  refine NetR.trans' (spread_net _ _ _ _ _ _ _) ?_
  exact (noteLink_net t _ up).trans (fseq_net _ _)

theorem deadOwn_net (t : State) (g : List Nat) : Fab t { t with deadOwn := g } := ⟨fun _ _ _ => rfl, fun _ _ => rfl, rfl⟩

theorem dirFault_net (t : State) (d : Nat) (up : Bool) : Fab t (t.dirFault d up) := by
  unfold State.dirFault
  split <;> exact ownFault_net _ _ _ _

theorem dirDies_net (t : State) (d : Nat) : Fab t (t.dirDies d) := by
  unfold State.dirDies
  split
  · exact NetR.refl _
  · exact NetR.trans' (dirFault_net _ _ _) (deadOwn_net t _)

theorem portsChanged_net (t : State) (b : List Nat) : Fab t (t.portsChanged b) := by
  unfold State.portsChanged
  dsimp only
  refine NetR.foldl _ ?_ _ _ (NetR.foldl _ dirDies_net _ _ (NetR.refl t))
  intro z d
  exact NetR.trans' (dirFault_net _ _ _) (deadOwn_net z _)

theorem NetR.get {s t : State} {α : Type} (h : NetR Q P s t) (f : State → α)
    (hf : ∀ (z : State) a b c d e g i j k o p q r u v w x y, f { z with regs := a, out := b, backlog := c, jDropped := d, freeIx := e, mapGen := g, mapTime := i, oports := j, meshWait := k, recalDue := y, router := o, arrived := p, granted := q, txCred := r, occ := u, deadLinks := v, deadOwn := w, fseqOwn := x } = f z) : f t = f s := by
  have := congrArg f h.rest
  rw [hf] at this
  exact this

theorem NetR.fan {s t : State} (h : NetR Q P s t) : t.fan = s.fan := h.get State.fan (fun _ _ _ _ _ _ _ _ _ _ _ _ _ _ _ _ _ _ _ => rfl)

theorem ready_net : netReg (rBoot 0x110) := .inr rfl

theorem tx_net (t : State) (g h : Tab Nat) : NetR Q P t { t with granted := g, txCred := h } := ⟨fun _ _ _ => rfl, fun _ _ => rfl, rfl⟩

theorem creditStart_net (t : State) (p : Nat) : NetR (portReg p) P t (t.creditStart p) := by
  unfold State.creditStart
  exact NetR.foldl _ (fun t v => (grantVc_net t p v false).port p) _ _ (tx_net t _ _)

theorem laneFan_none (t : State) (p : Nat) (h : Tab.get none (p / 8) t.fan = none) : t.laneFan p = t := by
  unfold State.laneFan; rw [h]

theorem portJournal_net {s t : State} (h : NetR Q P s t) (p : Nat) : NetR Q P s (t.portJournal p) := by
  refine h.trans ?_
  unfold State.portJournal State.journalPut
  split <;> exact ⟨fun _ _ _ => rfl, fun _ _ => rfl, rfl⟩

theorem portDown_net (t : State) (p c : Nat) (hp : p < 32) (h : Tab.get none (p / 8) t.fan = none) : PortOnly p t (t.portDown p c) := by
  unfold State.portDown
  rw [h]
  have h0 := port_reg p 0 (by omega)
  have h1 : PortOnly p t (((((t.setRf (rPort p 0) 61 3 1).setRf (rPort p 0) 58 3 c).setRbit (rBoot 0x110) p false).setLevel (640 + 4 * p) false).pulse (643 + 4 * p)) :=
    (((((NetR.refl t).setRf _ _ _ _ h0).setRf _ _ _ _ h0).setRbit _ _ _ (ready_reg p)).setLevel _ _).pulse _
  have h2 := (portJournal_net (h1.modPort p (fun o => { o with training := false }) rfl) p).mapChange
  dsimp only
  split
  · exact h2.trans ((portsChanged_net _ _).port p)
  · exact h2

theorem portRise_net (t : State) (p : Nat) (hp : p < 32) : NetR (portReg p) P t (t.portRise p) := by
  unfold State.portRise
  have h0 := port_reg p 0 (by omega)
  refine NetR.trans' ((portsChanged_net _ _).port p) ?_
  apply NetR.mapChange
  refine NetR.trans' (creditStart_net _ _) ?_
  exact ((((NetR.refl t).setRf _ _ _ _ h0).setRf _ _ _ _ h0).setRbit _ _ _ (ready_reg p)).setLevel _ _

theorem judgePort_net (t : State) (p : Nat) (hp : p < 32) (h : Tab.get none (p / 8) t.fan = none) : PortOnly p t (t.judgePort p) := by
  unfold State.judgePort
  dsimp only
  split
  · split
    · exact portRise_net _ p hp
    · exact NetR.refl _
  · split
    · split
      · exact NetR.refl _
      · exact portDown_net _ _ _ hp h
    · split
      · exact portRise_net _ _ hp
      · exact NetR.refl _

theorem trainPort_net (t : State) (p : Nat) (hp : p < 32) : PortOnly p t (t.trainPort p) := by
  unfold State.trainPort
  have h0 := port_reg p 0 (by omega)
  refine NetR.trans' (setMaps_net _ _ hp _ _) ?_
  refine NetR.modPort ?_ _ _ rfl
  exact ((((NetR.refl t).setRf _ _ _ _ h0).setRf _ _ _ _ h0).mapChange).setRbit _ _ _ h0

theorem due_net (t : State) (g : List Nat) : NetR Q P t { t with recalDue := g } := ⟨fun _ _ _ => rfl, fun _ _ => rfl, rfl⟩

theorem retune_net (t : State) (p ring : Nat) (h : rOpt (p / 8) (0x1040 + 0x100 * (ring % 64 / 8) + 8 * (ring % 8)) = rPort p (0x40 + 8 * (ring % 8))) :
    NetR (portReg p) P t (t.retuneRing (p / 8) ring) := by
  unfold State.retuneRing State.setHeater
  dsimp only
  refine NetR.trans' (due_net _ _) ?_
  rw [h]
  generalize State.heaterAt t (p / 8) ring _ _ = v
  refine NetR.trans' ?_ ((NetR.refl t).setRf (rPort p (0x40 + 8 * (ring % 8))) (if ring < 64 then 47 else 33) 14 v (port_reg p _ (by omega)))
  exact ⟨fun _ _ _ => rfl, fun _ _ => rfl, rfl⟩

/-- The heater register of a ring of port p is one of the port's own. -/
theorem ring_reg (p l : Nat) (hl : l < 8) (m : Nat) (hm : m = 0 ∨ m = 64) :
    rOpt (p / 8) (0x1040 + 0x100 * ((m + 8 * (p % 8) + l) % 64 / 8) + 8 * ((m + 8 * (p % 8) + l) % 8)) = rPort p (0x40 + 8 * ((m + 8 * (p % 8) + l) % 8)) := by
  unfold rPort
  congr 1
  omega

theorem removeLane_net (t : State) (p l : Nat) (hp : p < 32) (hl : l < 8) (h : Tab.get none (p / 8) t.fan = none) : PortOnly p t (t.removeLane p l) := by
  unfold State.removeLane
  split
  · dsimp only
    have h1 : PortOnly p t (t.modPort p fun o => OPort.modLane { o with rxReady := setBit o.rxReady l false, rxRemove := setBit o.rxRemove l true } l fun x => { x with stage := 1, good := 0, asked := false }) := (NetR.refl t).modPort p _ rfl
    generalize (t.modPort p fun o => OPort.modLane { o with rxReady := setBit o.rxReady l false, rxRemove := setBit o.rxRemove l true } l fun x => { x with stage := 1, good := 0, asked := false }) = z at h1 ⊢
    rw [laneFan_none _ _ (by rw [h1.fan]; exact h)]
    have h2 := h1.trans (retune_net z p (64 + 8 * (p % 8) + l) (ring_reg p l hl 64 (.inr rfl)))
    generalize z.retuneRing (p / 8) (64 + 8 * (p % 8) + l) = y at h2 ⊢
    split
    · have h3 := h2.trans (setMaps_net y p hp (y.txMap p) 0)
      exact h3.trans (judgePort_net _ p hp (by rw [h3.fan]; exact h))
    · have h3 := h2.trans (laneStats_net y p hp)
      exact h3.trans (judgePort_net _ p hp (by rw [h3.fan]; exact h))
  · exact NetR.refl _

theorem laneReady_net (t : State) (p l : Nat) (hp : p < 32) (h : Tab.get none (p / 8) t.fan = none) : PortOnly p t (t.laneReady p l) := by
  unfold State.laneReady
  dsimp only
  have h1 : PortOnly p t (t.modPort p fun o => OPort.modLane { o with rxReady := setBit o.rxReady l true, rxRemove := setBit o.rxRemove l false, retune := setBit o.retune l false } l fun x => { x with stage := 0, asked := false }) := (NetR.refl t).modPort p _ rfl
  generalize (t.modPort p fun o => OPort.modLane { o with rxReady := setBit o.rxReady l true, rxRemove := setBit o.rxRemove l false, retune := setBit o.retune l false } l fun x => { x with stage := 0, asked := false }) = z at h1 ⊢
  have h2 := h1.trans (laneStats_net z p hp)
  exact h2.trans (judgePort_net _ p hp (by rw [h2.fan]; exact h))

end Sys2Proof.Machine
end

