-- ==== Sys2Proof/Laws/Port.lean ====
section
/-! SUPPORT. What the operations of an optical port do to its registers and its die: bring-up, DOWN, spares. -/

namespace Sys2Proof.Machine

theorem hasPort_lt {s : State} {p : Nat} (h : s.hasPort p = true) : p < 32 := by
  unfold State.hasPort State.hasIo at h
  revert h
  cases s.grade <;> simp <;> omega

theorem NetR.hasPort {Q P : Nat → Prop} {s t : State} (h : NetR Q P s t) (p : Nat) : t.hasPort p = s.hasPort p :=
  h.get (fun z => z.hasPort p) (fun _ _ _ _ _ _ _ _ _ _ _ _ _ _ _ _ _ _ _ => rfl)

theorem NetR.trainQ {Q P : Nat → Prop} {s t : State} (h : NetR Q P s t) : t.trainQ = s.trainQ :=
  h.get State.trainQ (fun _ _ _ _ _ _ _ _ _ _ _ _ _ _ _ _ _ _ _ => rfl)

theorem port_plain (p o : Nat) : ¬ eventReg (rPort p o) := by unfold eventReg rPort rOpt; omega

theorem port_nofab (p o : Nat) (hp : p < 32) (ho : o < 0x100) : ¬ fabReg (rPort p o) := by unfold fabReg rPort rOpt; omega

theorem boot_plain : ¬ eventReg (rBoot 0x110) := by unfold eventReg rBoot; omega

theorem boot_nofab : ¬ fabReg (rBoot 0x110) := by unfold fabReg rBoot; omega

theorem port_boot (p o : Nat) : rPort p o ≠ rBoot 0x110 := by unfold rPort rOpt rBoot; omega

theorem port_ne (p o q o' : Nat) (ho : o < 0x100) (ho' : o' < 0x100) (h : p ≠ q ∨ o ≠ o') : rPort p o ≠ rPort q o' := by
  unfold rPort rOpt; omega

/-- Fields of a port's register that a lane map change leaves. -/
theorem laneStats_reg (t : State) (p o : Nat) (ho : ∀ l, l < 8 → o ≠ rPort p (0x40 + 8 * l)) : (t.laneStats p).reg o = t.reg o := by
  unfold State.laneStats iter
  generalize hl : List.range 8 = L
  have hL : ∀ l ∈ L, l < 8 := by intro l h; rw [← hl] at h; simpa using h
  clear hl
  induction L generalizing t with
  | nil => rfl
  | cons l L ih =>
    rw [List.foldl_cons, ih _ (fun x hx => hL x (by simp [hx]))]
    exact State.reg_setRf_ne t (ho l (hL l (by simp)))

theorem journal_reg (t : State) (k c u n o : Nat) : (t.journalOpen k c u n).reg o = t.reg o := by
  unfold State.journalOpen State.journalPut; split <;> rfl

theorem setMaps_port (t : State) (p : Nat) (tx rx : BitVec 8) : (t.setMaps p tx rx).reg (rPort p 0) =
    setFld (setFld (setFld (setFld (t.reg (rPort p 0)) 36 8 tx.toNat) 28 8 rx.toNat) 48 4 (popcount tx)) 44 4 (popcount rx) := by
  unfold State.setMaps
  dsimp only
  rw [laneStats_reg _ _ _ (fun l hl => port_ne _ _ _ _ (by omega) (by omega) (by omega))]
  have h1 : ∀ (z : State) (n : Nat), (iter n (fun _ t => (t.journalOpen 0x40 0 6 p).pulse (642 + 4 * p)) z).reg (rPort p 0) = z.reg (rPort p 0) := by
    intro z n
    unfold iter
    generalize List.range n = L
    induction L generalizing z with
    | nil => rfl
    | cons a L ih => rw [List.foldl_cons, ih, State.pulse_reg _ _ _ (port_plain p 0), journal_reg]
  have h2 : ∀ z : State, (z.mapChange).reg (rPort p 0) = z.reg (rPort p 0) := fun _ => rfl
  have h3 : ∀ (z : State) (n g : Nat), (iter n (fun _ t => (t.journalOpen 0x40 0 6 p).pulse (642 + 4 * p)) (z.bump (rPort p 0x10) 16 16 g)).reg (rPort p 0) = z.reg (rPort p 0) := by
    intro z n g
    rw [h1]
    unfold State.bump
    exact State.reg_setRf_ne _ (port_ne _ _ _ _ (by omega) (by omega) (by omega))
  split <;> split
  all_goals first | rw [h2] | skip
  all_goals rw [State.setLevel_reg _ _ _ _ (port_plain p 0)]
  all_goals first | rw [h3] | skip
  all_goals simp only [State.reg_setRf_self]

theorem fwp {s : State} {p : Nat} (w : W64) (h : s.reg (rPort p 0) = w) (lo len : Nat) : s.rf (rPort p 0) lo len = fld w lo len := by
  unfold State.rf; rw [h]

theorem oport_modPort (t : State) (p : Nat) (f : OPort → OPort) : (t.modPort p f).oport p = f (t.oport p) := Tab.get_put_self _ _ _ _

theorem creditStart_fab (t : State) (p : Nat) : Fab t (t.creditStart p) := by
  unfold State.creditStart
  exact NetR.foldl _ (fun t v => grantVc_net t p v false) _ _ (tx_net t _ _)

theorem Fab.at {s t : State} (h : Fab s t) (p o : Nat) (hp : p < 32) (ho : o < 0x100) : t.reg (rPort p o) = s.reg (rPort p o) :=
  h.regs _ (port_plain p o) (port_nofab p o hp ho)

theorem portRise_fab (t : State) (p : Nat) : Fab ((((t.setRf (rPort p 0) 61 3 3).setRf (rPort p 0) 58 3 0).setRbit (rBoot 0x110) p true).setLevel (640 + 4 * p) true) (t.portRise p) := by
  unfold State.portRise
  exact ((creditStart_fab _ p).mapChange).trans (portsChanged_net _ _)

theorem portRise_port (t : State) (p : Nat) (hp : p < 32) : (t.portRise p).reg (rPort p 0) = setFld (setFld (t.reg (rPort p 0)) 61 3 3) 58 3 0 := by
  rw [(portRise_fab t p).at p 0 hp (by omega), State.setLevel_reg _ _ _ _ (port_plain p 0), State.reg_setRbit_ne _ (port_boot p 0)]
  simp only [State.reg_setRf_self]

theorem portRise_boot (t : State) (p : Nat) (hp : p < 32) : (t.portRise p).rbit (rBoot 0x110) p = true := by
  unfold State.rbit
  rw [(portRise_fab t p).regs _ boot_plain boot_nofab, State.setLevel_reg _ _ _ _ boot_plain, State.reg_setRbit_self, bit_setBit _ _ _ (by omega)]

theorem portDown_fab (t : State) (p c : Nat) (h : Tab.get none (p / 8) t.fan = none) :
    Fab ((((((t.setRf (rPort p 0) 61 3 1).setRf (rPort p 0) 58 3 c).setRbit (rBoot 0x110) p false).setLevel (640 + 4 * p) false).pulse (643 + 4 * p)).modPort p fun o => { o with training := false }) (t.portDown p c) := by
  unfold State.portDown
  rw [h]
  dsimp only
  generalize (((((t.setRf (rPort p 0) 61 3 1).setRf (rPort p 0) 58 3 c).setRbit (rBoot 0x110) p false).setLevel (640 + 4 * p) false).pulse (643 + 4 * p)).modPort p (fun o => { o with training := false }) = z
  have h2 : Fab z (z.portJournal p).mapChange := (portJournal_net (NetR.refl z) p).mapChange
  split
  · exact h2.trans (portsChanged_net _ _)
  · exact h2

theorem portDown_port (t : State) (p c : Nat) (hp : p < 32) (h : Tab.get none (p / 8) t.fan = none) :
    (t.portDown p c).reg (rPort p 0) = setFld (setFld (t.reg (rPort p 0)) 61 3 1) 58 3 c ∧ (t.portDown p c).rbit (rBoot 0x110) p = false
    ∧ (t.portDown p c).oport p = { t.oport p with training := false } := by
  have hf := portDown_fab t p c h
  have hm : ∀ (z : State) o, (z.modPort p fun o => { o with training := false }).reg o = z.reg o := fun _ _ => rfl
  refine ⟨?_, ?_, ?_⟩
  · rw [hf.at p 0 hp (by omega), hm, State.pulse_reg _ _ _ (port_plain p 0), State.setLevel_reg _ _ _ _ (port_plain p 0), State.reg_setRbit_ne _ (port_boot p 0)]
    simp only [State.reg_setRf_self]
  · unfold State.rbit
    rw [hf.regs _ boot_plain boot_nofab, hm, State.pulse_reg _ _ _ boot_plain, State.setLevel_reg _ _ _ _ boot_plain, State.reg_setRbit_self, bit_setBit _ _ _ (by omega)]
  · rw [hf.lanes p (fun h => h)]
    have hs : NetR (fun o => o = rPort p 0 ∨ o = rBoot 0x110) (fun _ => False) t ((((((t.setRf (rPort p 0) 61 3 1).setRf (rPort p 0) 58 3 c).setRbit (rBoot 0x110) p false).setLevel (640 + 4 * p) false).pulse (643 + 4 * p))) :=
      (((((NetR.refl t).setRf _ _ _ _ (.inl rfl)).setRf _ _ _ _ (.inl rfl)).setRbit _ _ _ (.inr rfl)).setLevel _ _).pulse _
    rw [oport_modPort, hs.lanes p (fun h => h)]

theorem portDown_at (t : State) (p c o : Nat) (hp : p < 32) (h : Tab.get none (p / 8) t.fan = none) (ho : o < 0x100) (h0 : o ≠ 0) :
    (t.portDown p c).reg (rPort p o) = t.reg (rPort p o) := by
  have hf := portDown_fab t p c h
  have hm : ∀ (z : State) o, (z.modPort p fun o => { o with training := false }).reg o = z.reg o := fun _ _ => rfl
  have hn : rPort p o ≠ rPort p 0 := port_ne _ _ _ _ ho (by omega) (.inr h0)
  rw [hf.at p o hp ho, hm, State.pulse_reg _ _ _ (port_plain p o), State.setLevel_reg _ _ _ _ (port_plain p o), State.reg_setRbit_ne _ (port_boot p o),
    State.reg_setRf_ne _ hn, State.reg_setRf_ne _ hn]

/-- No port of the die waits: none starts. -/
theorem takePorts_none (t : State) (i : Nat) (h : ∀ q ∈ t.trainQ, q / 8 ≠ i) : t.takePorts i = t := by
  have hf : t.trainQ.find? (fun p => p / 8 == i && t.portLive p) = none := by
    rw [List.find?_eq_none]; intro q hq; simp [h q hq]
  unfold State.takePorts iter
  have : ∀ L : List Nat, L.foldl (fun t (_ : Nat) => if t.training i < 2 then match t.trainQ.find? fun p => p / 8 == i && t.portLive p with
      | some p => ({ t with trainQ := t.trainQ.erase p } : State).trainPort p
      | none => t else t) t = t := by
    intro L
    induction L with
    | nil => rfl
    | cons a L ih => rw [List.foldl_cons, hf]; simp only [ite_self]; exact ih
  exact this _

theorem trainPort_trainQ (t : State) (p : Nat) (hp : p < 32) : (t.trainPort p).trainQ = t.trainQ := (trainPort_net t p hp).trainQ

/-- The one port of the die that waits starts. -/
theorem takePorts_one (t : State) (p : Nat) (Q : List Nat) (hp : p < 32) (hl : t.portLive p = true) (hq : t.trainQ = Q ++ [p]) (h : ∀ q ∈ Q, q / 8 ≠ p / 8)
    (hn : t.training (p / 8) < 2) : t.takePorts (p / 8) = ({ t with trainQ := Q } : State).trainPort p := by
  have hf : t.trainQ.find? (fun q => q / 8 == p / 8 && t.portLive q) = some p := by
    rw [hq, List.find?_append]
    rw [List.find?_eq_none.mpr (by intro q hq; simp [h q hq])]
    simp [hl]
  have he : t.trainQ.erase p = Q := by
    rw [hq, List.erase_append_right _ (fun hp => h p hp rfl)]; simp
  have hf2 : ∀ z : State, z.trainQ = Q → z.trainQ.find? (fun q => q / 8 == p / 8 && z.portLive q) = none := by
    intro z hz
    rw [hz]
    exact List.find?_eq_none.mpr (by intro q hq; simp [h q hq])
  let F (t : State) : State := if t.training (p / 8) < 2 then match t.trainQ.find? fun q => q / 8 == p / 8 && t.portLive q with
      | some p => ({ t with trainQ := t.trainQ.erase p } : State).trainPort p
      | none => t
    else t
  have h1 : F t = ({ t with trainQ := Q } : State).trainPort p := by
    show (if _ then _ else _) = _
    rw [if_pos hn, hf]
    dsimp only
    rw [he]
  have h2 : F (({ t with trainQ := Q } : State).trainPort p) = ({ t with trainQ := Q } : State).trainPort p := by
    have hz := trainPort_trainQ ({ t with trainQ := Q } : State) p hp
    generalize ({ t with trainQ := Q } : State).trainPort p = z at hz
    show (if _ then _ else _) = _
    rw [hf2 z hz]
    simp only [ite_self]
  show F (F t) = _
  rw [h1, h2]

theorem trainPort_port (t : State) (p : Nat) : ∃ w a b c d, (t.trainPort p).reg (rPort p 0) =
    setFld (setFld (setFld (setFld w 36 8 a) 28 8 b) 48 4 c) 44 4 d ∧ w = setBit (setFld (setFld (t.reg (rPort p 0)) 61 3 2) 58 3 0) 57 (t.rbit (rPort p 8) 29) := by
  unfold State.trainPort
  dsimp only
  rw [setMaps_port]
  refine ⟨_, _, _, _, _, rfl, ?_⟩
  have : ∀ (z : State) f, (z.modPort p f).reg (rPort p 0) = z.reg (rPort p 0) := fun _ _ => rfl
  rw [this, State.reg_setRbit_self]
  have : ∀ z : State, z.mapChange.reg (rPort p 0) = z.reg (rPort p 0) := fun _ => rfl
  rw [this]
  simp only [State.reg_setRf_self]

theorem trainPort_reads (t : State) (p : Nat) : (t.trainPort p).rf (rPort p 0) 61 3 = 2 ∧ (t.trainPort p).rf (rPort p 0) 58 3 = 0
    ∧ (t.trainPort p).rbit (rPort p 0) 57 = t.rbit (rPort p 8) 29 ∧ (t.trainPort p).rf (rPort p 0) 52 4 = t.rf (rPort p 0) 52 4 := by
  obtain ⟨w, a, b, c, d, h, hw⟩ := trainPort_port t p
  refine ⟨?_, ?_, ?_, ?_⟩
  · rw [fwp _ h, fld_setFld_ne _ _ _ _ _ _ (by omega), fld_setFld_ne _ _ _ _ _ _ (by omega), fld_setFld_ne _ _ _ _ _ _ (by omega), fld_setFld_ne _ _ _ _ _ _ (by omega), hw,
      fld_setBit_ne _ _ _ _ _ (by omega), fld_setFld_ne _ _ _ _ _ _ (by omega), fld_setFld _ _ _ _ (by omega)]; rfl
  · rw [fwp _ h, fld_setFld_ne _ _ _ _ _ _ (by omega), fld_setFld_ne _ _ _ _ _ _ (by omega), fld_setFld_ne _ _ _ _ _ _ (by omega), fld_setFld_ne _ _ _ _ _ _ (by omega), hw,
      fld_setBit_ne _ _ _ _ _ (by omega), fld_setFld _ _ _ _ (by omega)]; rfl
  · have hb : ∀ (v : W64) lo len n, lo + len ≤ 57 → bit (setFld v lo len n) 57 = bit v 57 := fun v lo len n hl => bit_setFld_ne v lo len n 57 (by omega)
    show bit _ 57 = _
    rw [h, hb _ _ _ _ (by omega), hb _ _ _ _ (by omega), hb _ _ _ _ (by omega), hb _ _ _ _ (by omega), hw, bit_setBit _ _ _ (by omega)]
  · rw [fwp _ h, fld_setFld_ne _ _ _ _ _ _ (by omega), fld_setFld_ne _ _ _ _ _ _ (by omega), fld_setFld_ne _ _ _ _ _ _ (by omega), fld_setFld_ne _ _ _ _ _ _ (by omega), hw,
      fld_setBit_ne _ _ _ _ _ (by omega), fld_setFld_ne _ _ _ _ _ _ (by omega), fld_setFld_ne _ _ _ _ _ _ (by omega)]; rfl

theorem trainPort_flag (t : State) (p : Nat) (hp : p < 32) : ((t.trainPort p).oport p).training = true := by
  unfold State.trainPort
  dsimp only
  generalize hz : State.modPort _ p _ = z
  rw [(setMaps_net (P := fun _ => False) z p hp _ _).lanes p (fun h => h), ← hz, oport_modPort]

/-- The receivers of the other ports of the die that train. -/
def others (s : State) (p : Nat) : Nat := ((List.range 8).filter fun q => 8 * (p / 8) + q != p && (s.oport (8 * (p / 8) + q)).training).length

theorem training_others (s z : State) (p : Nat) (h : ∀ q, q ≠ p → z.oport q = s.oport q) (h0 : (z.oport p).training = false) : z.training (p / 8) = others s p := by
  unfold State.training others
  congr 1
  apply List.filter_congr
  intro q _
  by_cases e : 8 * (p / 8) + q = p
  · rw [e, h0]; simp
  · rw [h _ e]; simp [e]

theorem queuePort_is (t : State) (p : Nat) (h0 : t.rf (rFabPort p) 61 3 ≠ 0) (h1 : t.rbit (rPort p 8) 30 = false)
    (h2 : t.rf (rD2d (4 + p / 8) 0) 61 3 ≠ 4) (h3 : ∀ q ∈ t.trainQ, q / 8 ≠ p / 8) :
    t.queuePort p = { ((t.setRf (rPort p 0) 61 3 1).setRf (rPort p 0) 58 3 0).mapChange with trainQ := t.trainQ ++ [p] } := by
  unfold State.queuePort
  rw [if_neg (by rw [h1]; simp [h0]), if_neg h2]
  dsimp only
  have : hasNat ((t.setRf (rPort p 0) 61 3 1).setRf (rPort p 0) 58 3 0).mapChange.trainQ p = false := by
    unfold hasNat
    rw [List.any_eq_false]
    intro q hq
    have := h3 q hq
    simp; intro e; exact this (by rw [e])
  rw [this]
  rfl

theorem portLive_of {s z : State} {Q P : Nat → Prop} (h : NetR Q P s z) (p : Nat) (hQ : ¬ Q (rOpt (p / 8) 0)) : z.portLive p = s.portLive p := by
  unfold State.portLive
  rw [h.hasPort]
  unfold State.rf
  rw [h.regs _ (by unfold eventReg rOpt; omega) hQ]

/-- A port that may use a free hart of its die trains at once. -/
theorem starts (s z : State) (p : Nat) (Q : Nat → Prop) (hQ : ∀ o, portReg p o → Q o) (hQ0 : ¬ Q (rOpt (p / 8) 0)) (hQ1 : ∀ o, Q o → portReg p o ∨ (rOpt (p / 8) 0 ≤ o ∧ o < rOpt (p / 8) 0x20))
    (hs : s.portLive p = true) (hq : ∀ q ∈ s.trainQ, q / 8 ≠ p / 8) (h : NetR Q (· = p) s z) (hu : s.rf (rFabPort p) 61 3 ≠ 0) (hg : s.rf (rD2d (4 + p / 8) 0) 61 3 ≠ 4)
    (h30 : z.rbit (rPort p 8) 30 = false) (h29 : z.rbit (rPort p 8) 29 = s.rbit (rPort p 8) 29) (hn : others s p < 2) (ht : (z.oport p).training = false) :
    let y := (z.queuePort p).takePorts (p / 8)
    NetR Q (· = p) s y ∧ y.rf (rPort p 0) 61 3 = 2 ∧ y.rf (rPort p 0) 58 3 = 0 ∧ y.rbit (rPort p 0) 57 = s.rbit (rPort p 8) 29 ∧ (y.oport p).training = true
      ∧ y.rf (rPort p 0) 52 4 = z.rf (rPort p 0) 52 4 ∧ ∀ o, ¬ eventReg o → ¬ portReg p o → y.reg o = z.reg o := by
  intro y
  have hp : p < 32 := hasPort_lt (by unfold State.portLive at hs; simp at hs; exact hs.1)
  have h08 : rPort p 8 ≠ rPort p 0 := port_ne _ _ _ _ (by omega) (by omega) (by omega)
  have hgz : z.rf (rD2d (4 + p / 8) 0) 61 3 ≠ 4 := by
    unfold State.rf at hg ⊢
    rw [h.regs _ (by unfold eventReg rD2d; omega)]
    · exact hg
    · intro hc
      have := hQ1 _ hc
      unfold portReg fabReg rPort rOpt rD2d at this
      omega
  have hzq : ∀ q ∈ z.trainQ, q / 8 ≠ p / 8 := by rw [h.trainQ]; exact hq
  have hu' : z.rf (rFabPort p) 61 3 = s.rf (rFabPort p) 61 3 := by
    unfold State.rf
    rw [h.regs _ (by unfold eventReg rFabPort rFab; omega)]
    intro hc
    have := hQ1 _ hc
    unfold portReg fabReg rPort rOpt rFabPort rFab at this
    omega
  have e1 := queuePort_is z p (by rw [hu']; exact hu) h30 hgz hzq
  let w : State := ((z.setRf (rPort p 0) 61 3 1).setRf (rPort p 0) 58 3 0).mapChange
  have hw : PortOnly p z w := (((NetR.refl z).setRf _ _ _ _ (port_reg p 0 (by omega))).setRf _ _ _ _ (port_reg p 0 (by omega))).mapChange
  have hwl : w.portLive p = true := by
    rw [portLive_of hw p (by unfold portReg fabReg rPort rOpt; omega), portLive_of h p hQ0]; exact hs
  have hwt : w.training (p / 8) < 2 := by
    rw [training_others s w p (fun q hq => (hw.lanes q hq).trans (h.lanes q hq)) ht]; exact hn
  have e2 : y = w.trainPort p := by
    show (z.queuePort p).takePorts (p / 8) = _
    rw [e1]
    exact (takePorts_one { w with trainQ := z.trainQ ++ [p] } p z.trainQ hp hwl rfl hzq hwt)
  have hty := trainPort_net w p hp
  have hrd := trainPort_reads w p
  have hfl := trainPort_flag w p hp
  have hw8 : ∀ o, o ≠ rPort p 0 → w.reg o = z.reg o := by
    intro o ho
    show ((z.setRf (rPort p 0) 61 3 1).setRf (rPort p 0) 58 3 0).reg o = _
    rw [State.reg_setRf_ne _ ho, State.reg_setRf_ne _ ho]
  rw [e2]
  refine ⟨h.trans ((hw.trans hty).mono hQ (fun _ h => h)), hrd.1, hrd.2.1, ?_, hfl, ?_, ?_⟩
  · rw [hrd.2.2.1, ← h29]; unfold State.rbit; rw [hw8 _ h08]
  · rw [hrd.2.2.2]
    show ((z.setRf (rPort p 0) 61 3 1).setRf (rPort p 0) 58 3 0).rf (rPort p 0) 52 4 = _
    rw [State.rf_setRf_ne _ _ _ _ _ _ _ (by omega), State.rf_setRf_ne _ _ _ _ _ _ _ (by omega)]
  · intro o h0 h1
    rw [hty.regs o h0 h1]
    exact hw8 o (fun e => h1 (e ▸ port_reg p 0 (by omega)))

theorem lanes_keep (v : BitVec 8) (f g : OLane → OLane) (L : List Nat) : ∀ o : OPort,
    (L.foldl (fun (o : OPort) l => if bit v l then o.modLane l f else o.modLane l g) o).rxReady = o.rxReady
    ∧ (L.foldl (fun (o : OPort) l => if bit v l then o.modLane l f else o.modLane l g) o).pReady = o.pReady
    ∧ (L.foldl (fun (o : OPort) l => if bit v l then o.modLane l f else o.modLane l g) o).training = o.training := by
  induction L with
  | nil => exact fun _ => ⟨rfl, rfl, rfl⟩
  | cons a L ih =>
    intro o
    rw [List.foldl_cons]
    have h := ih (if bit v a then o.modLane a f else o.modLane a g)
    split at h
    · next hb => rw [if_pos hb]; exact h
    · next hb => rw [if_neg hb]; exact h

def spareFree (s : State) (p f : Nat) : Bool :=
  !hasNat ((List.range 8).map fun q => s.rf (rPort (8 * (p / 8) + q) 0) 52 4) f && !hasNat s.badSpares (16 * (p / 8) + f)
    && (match Tab.get none (16 * (p / 8) + f) s.spareMap with | some x => some x == (Tab.get none p s.portMap).map (fun m => (m.fid, m.port)) | none => false)

theorem spareFree_iff (s : State) (p f : Nat) : spareFree s p f = true ↔ ((∀ q, q < 8 → s.rf (rPort (8 * (p / 8) + q) 0) 52 4 ≠ f) ∧ 16 * (p / 8) + f ∉ s.badSpares
      ∧ ∃ m, Tab.get none p s.portMap = some m ∧ Tab.get none (16 * (p / 8) + f) s.spareMap = some (m.fid, m.port)) := by
  unfold spareFree
  rw [Bool.and_eq_true, Bool.and_eq_true, and_assoc]
  have h1 : ∀ (L : List Nat) n, (!hasNat L n) = true ↔ n ∉ L := by
    intro L n; unfold hasNat; simp [List.any_eq]
  rw [h1, h1]
  refine and_congr (by simp) (and_congr Iff.rfl ?_)
  cases hm : Tab.get none p s.portMap with
  | none => cases Tab.get none (16 * (p / 8) + f) s.spareMap <;> simp
  | some m =>
    cases Tab.get none (16 * (p / 8) + f) s.spareMap with
    | none => simp
    | some x => simp

def meshReg (p o : Nat) : Prop := portReg p o ∨ o = rOpt (p / 8) 0x10 ∨ o = rOpt (p / 8) 0x18

theorem move_none (s : State) (p : Nat) (h : [8, 9].find? (spareFree s p) = none) (h3 : ¬ (s.rf (rPort p 0) 61 3 = 1 ∧ s.rf (rPort p 0) 58 3 = 5)) : s.moveToSpare p = s.portDown p 5 := by
  unfold State.moveToSpare
  dsimp only
  split
  · rw [if_neg h3]
  · next f hs => exact absurd (hs.symm.trans h) (by simp)

theorem find_free (s : State) (p : Nat) : [8, 9].find? (spareFree s p) = if spareFree s p 8 then some 8 else if spareFree s p 9 then some 9 else none := by
  rw [List.find?_cons, List.find?_cons, List.find?_nil]
  cases spareFree s p 8 <;> cases spareFree s p 9 <;> rfl

/-- The port on its new fibre, before it queues. -/
def onSpare (s : State) (p f : Nat) : State :=
  let t := ((s.portDown p 0).steerPort p f).journalOpen 0x42 0 6 p
  ({ t with meshWait := p :: t.meshWait }).modPort p fun o => { o with pReady := 0, pRemove := 0, pFault := false }

theorem move_eq (s : State) (p f : Nat) (h : [8, 9].find? (spareFree s p) = some f) :
    s.moveToSpare p = (onSpare s p f).queuePort p := by
  unfold State.moveToSpare
  dsimp only
  split
  · next hs => exact absurd (hs.symm.trans h) (by simp)
  · next f' hs =>
    obtain rfl : f' = f := by simpa using hs.symm.trans h
    rfl

theorem meshWait_net {Q P : Nat → Prop} (t : State) (g : List Nat) : NetR Q P t { t with meshWait := g } := ⟨fun _ _ _ => rfl, fun _ _ => rfl, rfl⟩

theorem steer_spec (s : State) (p f : Nat) (hf9 : f = 8 ∨ f = 9) : NetR (meshReg p) (fun _ => False) s (s.steerPort p f) ∧ (s.steerPort p f).rf (rPort p 0) 52 4 = f
      ∧ (s.steerPort p f).rf (rOpt (p / 8) 0x10) (5 * f) 5 = 16 + p % 8 ∧ (s.steerPort p f).rf (rOpt (p / 8) 0x18) (5 * (p % 8)) 5 = 16 + f
      ∧ (s.steerPort p f).reg (rPort p 8) = s.reg (rPort p 8) := by
  have hm1 : meshReg p (rOpt (p / 8) 0x10) := .inr (.inl rfl)
  have hm2 : meshReg p (rOpt (p / 8) 0x18) := .inr (.inr rfl)
  have hq : ∀ o x, o = 0x10 ∨ o = 0x18 → x < 0x100 → rOpt (p / 8) o ≠ rPort p x := by intro o x ho hx; unfold rPort rOpt; omega
  have hq2 : rOpt (p / 8) 0x10 ≠ rOpt (p / 8) 0x18 := by unfold rOpt; omega
  have h08 : rPort p 8 ≠ rPort p 0 := port_ne _ _ _ _ (by omega) (by omega) (by omega)
  unfold State.steerPort
  dsimp only
  have h0 : ∀ z : State, NetR (meshReg p) (fun _ => False) s z → z.reg (rPort p 8) = s.reg (rPort p 8) → 
      NetR (meshReg p) (fun _ => False) s (((z.setRf (rOpt (p / 8) 0x10) (5 * f) 5 (16 + p % 8)).setRf (rOpt (p / 8) 0x18) (5 * (p % 8)) 5 (16 + f)).setRf (rPort p 0) 52 4 f)
      ∧ (((z.setRf (rOpt (p / 8) 0x10) (5 * f) 5 (16 + p % 8)).setRf (rOpt (p / 8) 0x18) (5 * (p % 8)) 5 (16 + f)).setRf (rPort p 0) 52 4 f).rf (rPort p 0) 52 4 = f
      ∧ (((z.setRf (rOpt (p / 8) 0x10) (5 * f) 5 (16 + p % 8)).setRf (rOpt (p / 8) 0x18) (5 * (p % 8)) 5 (16 + f)).setRf (rPort p 0) 52 4 f).rf (rOpt (p / 8) 0x10) (5 * f) 5 = 16 + p % 8
      ∧ (((z.setRf (rOpt (p / 8) 0x10) (5 * f) 5 (16 + p % 8)).setRf (rOpt (p / 8) 0x18) (5 * (p % 8)) 5 (16 + f)).setRf (rPort p 0) 52 4 f).rf (rOpt (p / 8) 0x18) (5 * (p % 8)) 5 = 16 + f
      ∧ (((z.setRf (rOpt (p / 8) 0x10) (5 * f) 5 (16 + p % 8)).setRf (rOpt (p / 8) 0x18) (5 * (p % 8)) 5 (16 + f)).setRf (rPort p 0) 52 4 f).reg (rPort p 8) = s.reg (rPort p 8) := by
    intro z hz h8
    refine ⟨((hz.setRf _ _ _ _ hm1).setRf _ _ _ _ hm2).setRf _ _ _ _ (.inl (port_reg p 0 (by omega))), ?_, ?_, ?_, ?_⟩
    · rw [State.rf_setRf _ _ _ _ _ (by omega)]
      omega
    · unfold State.rf
      rw [State.reg_setRf_ne _ (hq _ _ (.inl rfl) (by omega)), State.reg_setRf_ne _ hq2, State.reg_setRf_self, fld_setFld _ _ _ _ (by omega)]
      omega
    · unfold State.rf
      rw [State.reg_setRf_ne _ (hq _ _ (.inr rfl) (by omega)), State.reg_setRf_self, fld_setFld _ _ _ _ (by omega)]
      omega
    · rw [State.reg_setRf_ne _ h08, State.reg_setRf_ne _ (fun e => hq _ 8 (.inr rfl) (by omega) e.symm), State.reg_setRf_ne _ (fun e => hq _ 8 (.inl rfl) (by omega) e.symm), h8]
  split
  · exact h0 _ ((NetR.refl s).setRf _ _ _ _ hm1) (State.reg_setRf_ne _ (fun e => hq _ 8 (.inl rfl) (by omega) e.symm))
  · exact h0 _ (NetR.refl s) rfl

theorem onSpare_spec (s : State) (p f : Nat) (hp : p < 32) (hf : Tab.get none (p / 8) s.fan = none) (hf9 : f = 8 ∨ f = 9) : NetR (meshReg p) (· = p) s (onSpare s p f) ∧ (onSpare s p f).rf (rPort p 0) 52 4 = f
      ∧ (onSpare s p f).rf (rOpt (p / 8) 0x10) (5 * f) 5 = 16 + p % 8 ∧ (onSpare s p f).rf (rOpt (p / 8) 0x18) (5 * (p % 8)) 5 = 16 + f
      ∧ (onSpare s p f).reg (rPort p 8) = s.reg (rPort p 8) ∧ ((onSpare s p f).oport p).training = false := by
  have h1 := portDown_net s p 0 hp hf
  have h2 := portDown_port s p 0 hp hf
  have h3 := portDown_at s p 0 8 hp hf (by omega) (by omega)
  unfold onSpare
  dsimp only
  generalize s.portDown p 0 = d at *
  obtain ⟨a1, a2, a3, a4, a5⟩ := steer_spec d p f hf9
  generalize d.steerPort p f = e at *
  have hj : NetR (meshReg p) (fun _ => False) e (e.journalOpen 0x42 0 6 p) := (NetR.refl e).open' _ _ _ _
  have hjr : ∀ o, (e.journalOpen 0x42 0 6 p).reg o = e.reg o := fun o => journal_reg _ _ _ _ _ o
  generalize e.journalOpen 0x42 0 6 p = j at *
  have hr : ∀ o, (State.modPort { j with meshWait := p :: j.meshWait } p fun o => { o with pReady := 0, pRemove := 0, pFault := false }).reg o = e.reg o := fun o => hjr o
  refine ⟨?_, ?_, ?_, ?_, ?_, ?_⟩
  · have hA : NetR (meshReg p) (· = p) s e := (h1.mono (fun _ h => .inl h) (fun _ h => h)).trans (a1.mono (fun _ h => h) (fun _ h => h.elim))
    exact ((hA.trans (hj.mono (fun _ h => h) (fun _ h => h.elim))).trans (meshWait_net _ _)).modPort p _ rfl
  · unfold State.rf at a2 ⊢; rw [hr]; exact a2
  · unfold State.rf at a3 ⊢; rw [hr]; exact a3
  · unfold State.rf at a4 ⊢; rw [hr]; exact a4
  · rw [hr, a5, h3]
  · rw [oport_modPort]
    show (State.oport j p).training = false
    rw [hj.lanes p (fun h => h), a1.lanes p (fun h => h), h2.2.2]
/-- A register outside a port's own and the events is left by its map changes. -/
theorem setMaps_far (t : State) (p o : Nat) (tx rx : BitVec 8) (he : ¬ eventReg o) (h : ∀ k, k < 0x100 → o ≠ rPort p k) : (t.setMaps p tx rx).reg o = t.reg o := by
  unfold State.setMaps
  dsimp only
  rw [laneStats_reg _ _ _ (fun l hl => h _ (by omega))]
  have h1 : ∀ (z : State) (n : Nat), (iter n (fun _ t => (t.journalOpen 0x40 0 6 p).pulse (642 + 4 * p)) z).reg o = z.reg o := by
    intro z n
    unfold iter
    generalize List.range n = L
    induction L generalizing z with
    | nil => rfl
    | cons a L ih => rw [List.foldl_cons, ih, State.pulse_reg _ _ _ he, journal_reg]
  have h2 : ∀ z : State, (z.mapChange).reg o = z.reg o := fun _ => rfl
  have h3 : ∀ (z : State) (n g : Nat), (iter n (fun _ t => (t.journalOpen 0x40 0 6 p).pulse (642 + 4 * p)) (z.bump (rPort p 0x10) 16 16 g)).reg o = z.reg o := by
    intro z n g
    rw [h1]
    unfold State.bump
    exact State.reg_setRf_ne _ (h _ (by omega))
  split <;> split
  all_goals first | rw [h2] | skip
  all_goals rw [State.setLevel_reg _ _ _ _ he]
  all_goals first | rw [h3] | skip
  all_goals rw [State.reg_setRf_ne _ (h _ (by omega)), State.reg_setRf_ne _ (h _ (by omega)), State.reg_setRf_ne _ (h _ (by omega)), State.reg_setRf_ne _ (h _ (by omega))]

theorem trainPort_boot (t : State) (p : Nat) : (t.trainPort p).reg (rBoot 0x110) = t.reg (rBoot 0x110) := by
  unfold State.trainPort
  dsimp only
  rw [setMaps_far _ _ _ _ _ boot_plain (fun k _ => (port_boot p k).symm)]
  have : ∀ (z : State) f, (z.modPort p f).reg (rBoot 0x110) = z.reg (rBoot 0x110) := fun _ _ => rfl
  rw [this, State.reg_setRbit_ne _ (port_boot p 0).symm]
  have : ∀ z : State, z.mapChange.reg (rBoot 0x110) = z.reg (rBoot 0x110) := fun _ => rfl
  rw [this, State.reg_setRf_ne _ (port_boot p 0).symm, State.reg_setRf_ne _ (port_boot p 0).symm]

theorem NetR.queued {Q P : Nat → Prop} {z w : State} (h : NetR Q P z w) (L : List Nat) : NetR Q P { z with trainQ := L } { w with trainQ := L } :=
  ⟨h.regs, h.lanes, congrArg (fun y : State => { y with trainQ := L }) h.rest⟩

/-- What a die's free harts do: some of its waiting ports begin to train. -/
theorem takePorts_net (t : State) (i : Nat) (W : Nat → Prop) (hW : ∀ q ∈ t.trainQ, q / 8 = i → W q) :
    NetR (fun o => ∃ q, W q ∧ portReg q o) W t { t.takePorts i with trainQ := t.trainQ } ∧ (t.takePorts i).reg (rBoot 0x110) = t.reg (rBoot 0x110) := by
  unfold State.takePorts iter
  generalize List.range 2 = L
  suffices h : ∀ (z : State), (∀ q ∈ z.trainQ, q ∈ t.trainQ) → NetR (fun o => ∃ q, W q ∧ portReg q o) W t { z with trainQ := t.trainQ } ∧ z.reg (rBoot 0x110) = t.reg (rBoot 0x110) →
      NetR (fun o => ∃ q, W q ∧ portReg q o) W t { L.foldl (fun t (_ : Nat) => if t.training i < 2 then match t.trainQ.find? fun p => p / 8 == i && t.portLive p with
      | some p => ({ t with trainQ := t.trainQ.erase p } : State).trainPort p
      | none => t else t) z with trainQ := t.trainQ } ∧ (L.foldl (fun t (_ : Nat) => if t.training i < 2 then match t.trainQ.find? fun p => p / 8 == i && t.portLive p with
      | some p => ({ t with trainQ := t.trainQ.erase p } : State).trainPort p
      | none => t else t) z).reg (rBoot 0x110) = t.reg (rBoot 0x110) from
    h t (fun _ h => h) ⟨NetR.refl t, rfl⟩
  induction L with
  | nil => exact fun z _ h => h
  | cons a L ih =>
    intro z hz h
    rw [List.foldl_cons]
    refine ih _ ?_ ?_
    · split
      · split
        · rename_i p hp
          intro q hq
          have hl : p < 32 := hasPort_lt (by have := List.find?_some hp; unfold State.portLive at this; simp at this; exact this.2.1)
          rw [trainPort_trainQ _ _ hl] at hq
          exact hz q (List.mem_of_mem_erase hq)
        · exact hz
      · exact hz
    · split
      · split
        · rename_i p hp
          have hf := List.find?_some hp
          have hl : p < 32 := hasPort_lt (by unfold State.portLive at hf; simp at hf; exact hf.2.1)
          have hd : p / 8 = i := by simp at hf; exact hf.1
          have hw : W p := hW p (hz p (List.mem_of_find?_eq_some hp)) hd
          have := (trainPort_net { z with trainQ := z.trainQ.erase p } p hl).queued t.trainQ
          refine ⟨h.1.trans (this.mono (fun o ho => ⟨p, hw, ho⟩) (fun q hq => hq ▸ hw)), ?_⟩
          rw [trainPort_boot]
          exact h.2
        · exact h
      · exact h

/-- What `NetR` says does not depend on which ports wait. -/
theorem NetR.dequeued {Q P : Nat → Prop} {t : State} (x : State) (L : List Nat) (h : NetR Q P t { x with trainQ := L }) :
    (∀ o, ¬ eventReg o → ¬ Q o → x.reg o = t.reg o) ∧ (∀ q, ¬ P q → x.oport q = t.oport q) ∧ ∀ p, x.hasPort p = t.hasPort p :=
  ⟨h.regs, h.lanes, h.hasPort⟩

/-- A port that does not wait is left alone. -/
theorem takePorts_other (t : State) (p : Nat) (hp : p < 32) (h : p ∉ t.trainQ) : (∀ o, o < 0x80 → (t.takePorts (p / 8)).reg (rPort p o) = t.reg (rPort p o))
    ∧ (t.takePorts (p / 8)).oport p = t.oport p := by
  obtain ⟨hr, hl, _⟩ := NetR.dequeued (t.takePorts (p / 8)) t.trainQ
    (takePorts_net t (p / 8) (fun q => q / 8 = p / 8 ∧ q ∈ t.trainQ) (fun q hq hd => ⟨hd, hq⟩)).1
  refine ⟨fun o ho => hr _ (port_plain p o) ?_, hl p (fun hc => h hc.2)⟩
  rintro ⟨q, ⟨hd, hq⟩, hr⟩
  have hne : q ≠ p := fun e => h (e ▸ hq)
  unfold portReg fabReg rPort rOpt at hr
  omega

theorem takePorts_hasPort (t : State) (i p : Nat) : (t.takePorts i).hasPort p = t.hasPort p :=
  (NetR.dequeued (t.takePorts i) t.trainQ (takePorts_net t i (fun _ => True) (fun _ _ _ => trivial)).1).2.2 p

end Sys2Proof.Machine
end

