-- ==== Sys2Proof/Laws/Vector.lean ====
section
/-! SUPPORT. The lanes of a vector register after a write, and a started instruction whose work is done. -/

namespace Sys2Proof.Machine

theorem putLanes_get (d : BitVec 32) (base : Nat) (vs : List (BitVec 32)) :
    ∀ (n : Nat) (t : Tab (BitVec 32)) (j : Nat),
      Tab.get 0 j ((vs.zipIdx n).foldl (fun t p => Tab.put 0 (base + p.2) p.1 t) t)
        = if base + n ≤ j ∧ j < base + n + vs.length then vs.getD (j - base - n) d else Tab.get 0 j t := by
  induction vs with
  | nil => intro n t j; rw [if_neg (by simp)]; rfl
  | cons v vs ih =>
    intro n t j
    simp only [List.zipIdx_cons, List.foldl_cons]
    rw [ih, Tab.get_put]
    by_cases h : j = base + n
    · subst h
      rw [if_neg (by omega), if_pos rfl, if_pos (by simp), show base + n - base - n = 0 by omega]
      rfl
    · rw [if_neg h]
      by_cases h2 : base + (n + 1) ≤ j ∧ j < base + (n + 1) + vs.length
      · rw [if_pos h2, if_pos (by simp; omega), show j - base - n = (j - base - (n + 1)) + 1 by omega]
        rfl
      · rw [if_neg h2, if_neg (by simp; omega)]

/-- Writing lanes 0 to n − 1 of one register: those lanes take the values, every other lane of every register stands. -/
theorem Core.lane_setLanes (k : Core) (r : Nat) (vs : List (BitVec 32)) (h : vs.length ≤ 512) (r' j : Nat) (hj : j < 512) :
    (k.setLanes r vs).lane r' j = if r' = r ∧ j < vs.length then vs.getD j 0 else k.lane r' j := by
  unfold Core.setLanes Core.lane
  rw [putLanes_get 0]
  by_cases hr : r' = r
  · subst hr
    by_cases h2 : j < vs.length
    · rw [if_pos (by omega), if_pos ⟨rfl, h2⟩]; congr 1; omega
    · rw [if_neg (by omega), if_neg (by omega)]
  · rw [if_neg (by omega), if_neg (by tauto)]

end Sys2Proof.Machine
end

