-- ==== Sys2Proof/Machine/Board.lean ====
section
/-! DEFINITION. Lands, receptacles and ordering codes (19_electrical_mechanical.md). No step reads them. -/

namespace Sys2Proof.Machine

/-- What a land carries (R471, R472). -/
inductive Land where
  | signal (name : String)
  | nc
  | vin
  | gnd
  deriving DecidableEq, Repr

/-- Numbered signals of one name, in column order. -/
def numbered (pre post : String) (n : Nat) : List String := (List.range n).map fun i => pre ++ toString i ++ post

/-- The two lands of each of n differential pairs. -/
def pairs (name : String) (n : Nat) : List String :=
  ((List.range n).map fun i => [name ++ toString i ++ "_P", name ++ toString i ++ "_N"]).flatten

/-- The signals of row 1, columns 23 to 74 (Table 1). -/
def signalLands : List String :=
  pairs "PCIE_TX" 4 ++ pairs "PCIE_RX" 4
    ++ ["REFCLK_P", "REFCLK_N", "PORST_N", "PERST_N", "PWRFAIL_N", "THERMTRIP_N", "FAULT_N", "COOL_DEMAND", "COOL_IN_T", "COOL_OUT_T"]
    ++ numbered "BOOT_SEL[" "]" 2 ++ ["SPI_CLK", "SPI_CS_N", "SPI_DQS"] ++ numbered "SPI_IO[" "]" 8 ++ numbered "GPIO[" "]" 8
    ++ ["TCK", "TMS", "TDI", "TDO", "TRST_N"]

/-- Land (r, c), each from 1 to 96 (R471). -/
def land (r c : Nat) : Option Land :=
  if r < 1 || 96 < r || c < 1 || 96 < c then none
  else if r = 1 then (if 23 ≤ c && c ≤ 74 then (signalLands[c - 23]?).map .signal else some .nc)
  else if r ≤ 5 then some .nc
  else if 41 ≤ r && r ≤ 56 && (r + c) % 2 = 0 then some .vin
  else some .gnd

/-- The edge of the package on which receptacle i sits (R491). -/
inductive Edge where
  | north
  | east
  | west
  | south
  deriving DecidableEq, Repr

def receptacleEdge (i : Nat) : Option Edge :=
  match i with | 0 => some .north | 1 => some .east | 2 => some .west | 3 => some .south | _ => none

/-- The mesh output (row 1) or input (row 2) at a fibre position of a receptacle; positions 11 and 12 are dark (R491 Table 7). -/
def fibreAt (row pos : Nat) : Option Nat :=
  if (row = 1 || row = 2) && 1 ≤ pos && pos ≤ 10 then some (pos - 1) else none

/-- The ordering code of a grade and a version of its Goldotric I/O dies (R495). -/
def orderingCode (g : Grade) (version : Nat) : Option String :=
  if version = 1 || version = 2 then
    some ((match g with | .msn4432 => "MSN-4432-" | .msn4416 => "MSN-4416-" | .msn4232 => "MSN-4232-" | .msn2216 => "MSN-2216-")
      ++ toString version)
  else none

/-- The junction's temperature above the inlet in °C, from the power in W: 0.008 K/W to the lid and 0.004 K/W on to the inlet (R494), in
thousandths. -/
def junctionMilli (inletC watts : Nat) : Nat := inletC * 1000 + watts * 12

end Sys2Proof.Machine
end

