-- ==== Sys2Proof/WellFormed.lean ====
section
/-! DEFINITION. The commands whose operands name something the part could have: numbers in the ranges of R18, R20 and the
register tables. A command outside them meets no condition of its meaning and changes nothing. -/

namespace Sys2Proof

/-- A core number (R18). -/
def coreNo (c : Nat) : Bool := c < 64

/-- A module of a D2D group (R20): 24 between compute dies, 16 at an I/O die. -/
def module (g m : Nat) : Bool := m < (if g < 4 then 24 else 16)

/-- A naturally aligned access of 4 or 8 bytes (R10). -/
def aligned (offset size : Nat) : Bool := (size == 4 || size == 8) && offset % size == 0

/-- A request within the BAR2 window (R401). -/
def window (offset len : Nat) : Bool := 0 < len && len ≤ 4096 && offset + len ≤ 2 ^ 34

/-- The check. -/
def WellFormed : Instr → Bool
  | .nop c _ => coreNo c
  | .jmp c _ => coreNo c
  | .br c _ => coreNo c
  | .call c _ => coreNo c
  | .ret c _ => coreNo c
  | .halt c _ => coreNo c
  | .swait c _ => coreNo c
  | .swaitSatisfied c => coreNo c
  | .qstat c _ => coreNo c
  | .illegalInstr c _ _ => coreNo c
  | .add c _ => coreNo c
  | .sub c _ => coreNo c
  | .and c _ => coreNo c
  | .or c _ => coreNo c
  | .xor c _ => coreNo c
  | .sll c _ => coreNo c
  | .srl c _ => coreNo c
  | .sra c _ => coreNo c
  | .mul c _ => coreNo c
  | .mulhu c _ => coreNo c
  | .min c _ => coreNo c
  | .max c _ => coreNo c
  | .minu c _ => coreNo c
  | .maxu c _ => coreNo c
  | .slt c _ => coreNo c
  | .sltu c _ => coreNo c
  | .li c _ => coreNo c
  | .ld c _ _ => coreNo c
  | .st c _ => coreNo c
  | .tdld c _ _ => coreNo c
  | .tdst c _ => coreNo c
  | .tdcpy c _ => coreNo c
  | .tdset c _ => coreNo c
  | .tdadd c _ => coreNo c
  | .cdld c _ _ => coreNo c
  | .cdst c _ => coreNo c
  | .cdcpy c _ => coreNo c
  | .cdsetw c _ => coreNo c
  | .cdlbase c _ => coreNo c
  | .cdstream c _ => coreNo c
  | .seqResume c => coreNo c
  | .queueInstrStart c _ _ => coreNo c
  | .instrComplete c _ => coreNo c
  | .coreFaulted c => coreNo c
  | .dmaTd c _ => coreNo c
  | .dmaList c _ => coreNo c
  | .mxQuad c _ => coreNo c
  | .mxPair c _ _ => coreNo c
  | .mxSingle c _ _ => coreNo c
  | .mxT64Single c _ _ => coreNo c
  | .mxT64Pair c _ _ => coreNo c
  | .mxT16Single c _ _ => coreNo c
  | .mxT16Pair c _ _ => coreNo c
  | .mxTakeCounts c => coreNo c
  | .weightStagingStart c => coreNo c
  | .weightStagingDone c _ => coreNo c
  | .mxStart c _ => coreNo c
  | .accRowReady c _ _ => coreNo c
  | .epilogueRow c _ _ => coreNo c
  | .drainRow c _ => coreNo c
  | .mxComplete c _ => coreNo c
  | .vld c _ => coreNo c
  | .vst c _ => coreNo c
  | .vadd c _ => coreNo c
  | .vsub c _ => coreNo c
  | .vmul c _ => coreNo c
  | .vfma c _ => coreNo c
  | .vmin c _ => coreNo c
  | .vmax c _ => coreNo c
  | .vcmpeq c _ => coreNo c
  | .vcmplt c _ => coreNo c
  | .vcmple c _ => coreNo c
  | .vsel c _ => coreNo c
  | .viadd c _ => coreNo c
  | .visub c _ => coreNo c
  | .vimul c _ => coreNo c
  | .vand c _ => coreNo c
  | .vor c _ => coreNo c
  | .vxor c _ => coreNo c
  | .vshl c _ => coreNo c
  | .vshr c _ => coreNo c
  | .vsra c _ => coreNo c
  | .vmov c _ => coreNo c
  | .vrsum c _ => coreNo c
  | .vrssq c _ => coreNo c
  | .vrmax c _ => coreNo c
  | .vrmin c _ => coreNo c
  | .vrargmax c _ => coreNo c
  | .vrargmin c _ => coreNo c
  | .vsort c _ => coreNo c
  | .vtopk c _ => coreNo c
  | .vexp2 c _ => coreNo c
  | .vlog2 c _ => coreNo c
  | .vrcp c _ => coreNo c
  | .vrsqrt c _ => coreNo c
  | .vtanh c _ => coreNo c
  | .verf c _ => coreNo c
  | .vsigm c _ => coreNo c
  | .vsilu c _ => coreNo c
  | .vgelue c _ => coreNo c
  | .vgelut c _ => coreNo c
  | .vftoi c _ => coreNo c
  | .vitof c _ => coreNo c
  | .vqnt c _ => coreNo c
  | .sig c _ => coreNo c
  | .sign c _ => coreNo c
  | .tmr c _ => coreNo c
  | .evt c _ => coreNo c
  | .pmark c _ => coreNo c
  | .pmarkr c _ => coreNo c
  | .allreduce c _ => coreNo c
  | .reducescatter c _ => coreNo c
  | .allgather c _ => coreNo c
  | .broadcast c _ => coreNo c
  | .reduce c _ => coreNo c
  | .barrier c _ => coreNo c
  | .rld c _ => coreNo c
  | .rst c _ => coreNo c
  | .rinv c _ => coreNo c
  | .raAdd c _ => coreNo c
  | .raFadd c _ => coreNo c
  | .raSmin c _ => coreNo c
  | .raSmax c _ => coreNo c
  | .raUmin c _ => coreNo c
  | .raUmax c _ => coreNo c
  | .raAnd c _ => coreNo c
  | .raOr c _ => coreNo c
  | .raXor c _ => coreNo c
  | .raSwap c _ => coreNo c
  | .raCas c _ => coreNo c
  | .trig c _ => coreNo c
  | .msg c _ => coreNo c
  | .mboxout c _ => coreNo c
  | .mboxin c _ => coreNo c
  | .start c => coreNo c
  | .stop c => coreNo c
  | .abort c => coreNo c
  | .reset c => coreNo c
  | .coreStopped c => coreNo c
  | .coreResetDone c => coreNo c
  | .progLoadGo c _ => coreNo c
  | .progLoadDone c _ => coreNo c
  | .coreSemSig c _ => coreNo c
  | .timerWrite c n _ => coreNo c && n < 4
  | .timerExpiry c n => coreNo c && n < 4
  | .ledgerCfgWrite c _ => coreNo c
  | .ledgerCfgApply c => coreNo c
  | .coreViolCntRead c => coreNo c
  | .dmaDescBegin _ _ => true
  | .dmaUnitStart _ _ => true
  | .dmaDescComplete _ => true
  | .dmaChGo d j _ => d < 4 && j < 8
  | .dmaChAbort d j _ => d < 4 && j < 8
  | .dmaChClrHalt d j => d < 4 && j < 8
  | .coreDmaClrHalt c n => coreNo c && n < 4
  | .hbmReqAccept s _ _ => s < 32
  | .hbmWriteBatchStart s pc _ => s < 32 && pc < 32
  | .hbmWriteBatchEnd s pc _ => s < 32 && pc < 32
  | .hbmReadComplete r _ _ => r.stack < 32 && r.pc < 32
  | .hbmRemapComplete s _ => s < 32
  | .hbmPcTimeout s pc _ => s < 32 && pc < 32
  | .hbmTempRound s _ => s < 32
  | .hbmScrubRead s _ _ _ => s < 32
  | .hbmSchedApply s => s < 32
  | .hbmWaveStart s => s < 32
  | .hbmMaintReq s => s < 32
  | .hbmMaintDone s _ _ _ => s < 32
  | .roleAdv g m _ => g < 8 && module g m
  | .roleCred g m _ => g < 8 && module g m
  | .roleAck g m => g < 8 && module g m
  | .roleNak g m _ => g < 8 && module g m
  | .roleTimeout g m => g < 8 && module g m
  | .d2dTrainStateTimeout g m => g < 8 && module g m
  | .d2dTrainActive g m _ _ => g < 8 && module g m
  | .d2dStateReport g m _ => g < 8 && module g m
  | .d2dFlitRx g m _ => g < 8 && module g m
  | .d2dRetrainDone g m _ _ => g < 8 && module g m
  | .d2dMarginRead g m _ => g < 8 && module g m
  | .flowRelease g _ => g < 8
  | .retrainAll g => g < 8
  | .rdReq g m _ _ => g < 8 && module g m
  | .wrReq g m _ _ _ => g < 8 && module g m
  | .rdRsp g m _ _ _ => g < 8 && module g m
  | .wrAck g m _ => g < 8 && module g m
  | .drMsg g m _ _ => g < 8 && module g m
  | .credit g m _ => g < 8 && module g m
  | .mgmt g m _ _ => g < 8 && module g m
  | .identityBoundary p => p < 32
  | .identityFlitRx p lane _ => p < 32 && lane < 8
  | .identityFlitMissing p lane => p < 32 && lane < 8
  | .codewordRx p lane _ _ => p < 32 && lane < 8
  | .serWindow p lane _ _ => p < 32 && lane < 8
  | .laneVerifyTimeout p lane => p < 32 && lane < 8
  | .laneSweepDone p lane => p < 32 && lane < 8
  | .laneRetry p lane => p < 32 && lane < 8
  | .heaterUpdate i _ => i < 4
  | .ringRecalStart i ring => i < 4 && ring < 128
  | .ringRecalDone i ring _ => i < 4 && ring < 128
  | .laserFail i laser _ => i < 4 && laser < 10
  | .fibreDark x => x.port < 32
  | .spareTrainTimeout p => p < 32
  | .fanoutRequest g i p q => g < 16 && i < 4 && p < 32 && q < 32
  | .fanoutEnd i => i < 4
  | .meshSettle i => i < 4
  | .portTrainDone p _ _ => p < 32
  | .portRetry p => p < 32
  | .optRetrain p => p < 32
  | .adminDown p _ => p < 32
  | .reachWrite p _ => p < 32
  | .frameRx x _ => x.port < 32
  | .creditFlitRx x _ => x.port < 32
  | .frameSend x => x.port < 32
  | .frameAgeDrop p _ => p < 32
  | .packetInject io _ => io < 4
  | .packetArrive io _ => io < 4
  | .ackTimer io _ => io < 4
  | .ack io _ => io < 4
  | .nack io _ => io < 4
  | .vnotice io _ => io < 4
  | .resendTimeout io _ _ => io < 4
  | .streamEntryExpiry io _ _ => io < 4
  | .fault p _ => p < 32
  | .violInterval p => p < 32
  | .clrQuar p => p < 32
  | .req io _ => io < 4
  | .lineApply io _ _ => io < 4
  | .rsp io _ => io < 4
  | .reissueTimeout io home _ => io < 4 && home < 4
  | .trigDeliver io _ => io < 4
  | .msgDeliver io _ _ => io < 4
  | .invAll d => d < 4
  | .colSetup g => g < 16
  | .colSetupDone g => g < 16
  | .colTeardown g => g < 16
  | .colOpStart g x => g < 16 && x.die < 4
  | .colSlotReserve g d => g < 16 && d < 4
  | .chunkSend g d => g < 16 && d < 4
  | .data _ _ => true
  | .grant _ => true
  | .rereq _ => true
  | .exponent _ => true
  | .colDrainRow g c => g < 16 && coreNo c
  | .colGroupTimeout g d => g < 16 && d < 4
  | .colOpComplete g c => g < 16 && coreNo c
  | .railSample _ _ _ _ _ _ => true
  | .regulatorInterval _ => true
  | .droopDetect d => d < 4
  | .stretchEnd d _ _ => d < 4
  | .thermalModelUpdate die _ _ => die < 8
  | .packageNodeUpdate _ _ _ => true
  | .diodeRound die _ => die < 8
  | .analogTrip die => die < 8
  | .coolDutyUpdate => true
  | .coolantRead _ _ => true
  | .pwrModeWrite _ => true
  | .midnightEntry => true
  | .pwrCapWrite _ => true
  | .learnClear => true
  | .attrClear => true
  | .pcieConfigReq _ offset _ => (aligned offset 4 && offset < 4096)
  | .pcieError _ => true
  | .bar2Read offset len => window offset len
  | .bar2Write offset data => window offset data.length
  | .regWrite offset size _ => aligned offset size
  | .regWriteHalf offset _ => aligned offset 4
  | .regReadLowHalf offset => aligned offset 8
  | .eventInputChange n _ => n < 1024
  | .pendSet m _ => m < 16
  | .pendClr m _ => m < 16
  | .evcClaim t => t < 10
  | .evcVecArm _ => true
  | .msixUnmask v => v < 32
  | .watchdogExpiry hart => hart < 4
  | .mbxInRing c _ => coreNo c
  | .mbxInDataWrite c n _ => coreNo c && n < 8
  | .mbxInMaskWrite c _ => coreNo c
  | .mbxHostRing _ => true
  | .hostMbxPoll => true
  | .echo => true
  | .unsupported => true
  | .jqTailWrite q _ => q < 4
  | .jqEnable q _ => q < 4
  | .jobPickup => true
  | .jobNop q => q < 4
  | .jobLoad q => q < 4
  | .jobStart q => q < 4
  | .jobStop q => q < 4
  | .jobAbort q => q < 4
  | .jobReset q => q < 4
  | .jobWait q _ => q < 4
  | .jobSignal q => q < 4
  | .illegalJob q => q < 4
  | .jobComplete q => q < 4
  | .porstRelease _ => true
  | .dawnDone => true
  | .porstAssert => true
  | .pkgReset _ => true
  | .perst _ => true
  | .pcieHotReset => true
  | .imgUpdate _ => true
  | .imgUpdateDone _ _ => true
  | .imgConfirm => true
  | .ownerChallenge _ => true
  | .nonceExpiry => true
  | .ownerRequest _ slot _ _ _ _ => slot < 4
  | .attest _ _ _ _ => true
  | .identityCert => true
  | .dieHealthCheck d _ _ => d < 4
  | .journalCommit => true
  | .healthRecord => true
  | .jrnlRead => true
  | .faultMap => true
  | .vspConfig => true
  | .vspHold => true
  | .vspStep => true
  | .vspStatus => true
  | .vspBlockRead d => d < 4
  | .vspBegin io _ => io < 4
  | .vspCommit io _ => io < 4
  | .vspApplyDone _ => true
  | .vspAbort io _ => io < 4
  | .vspSnapshotComplete _ => true
  | .drain => true
  | .drainComplete _ => true
  | .pwrfailAssert _ => true
  | .vinRise => true
  | .vinLockout => true
  | .bypass => true
  | .idcode => true
  | .samplePreload => true
  | .extest => true
  | .stackBringupEnd s _ _ _ _ => s < 32
  | .rcRead offset size => aligned offset size
  | .pcieLinkStateChange => true

end Sys2Proof
end

