-- ==== Sys2Proof/Tests/Slice0.lean ====
section
/-! SUPPORT. Tests: ill-formed commands, single steps, and for each statement with hypotheses states and operands that meet them
(`witness_` and the statement's name). Expected values are computed by hand from the rules that the comments name. -/

-- One theorem at a time: evaluated side by side they would take more threads than the check allows.
set_option Elab.async false

namespace Sys2Proof.Tests

open Sys2Proof Sys2Proof.Machine

/-! ### Ill-formed commands: one for each check of WellFormed -/

theorem test_ill_core_number : WellFormed (.nop 64 ⟨0, 0, 0, false, 0, 0, 0, 0⟩) = false := by decide
theorem test_ill_timer_core : WellFormed (.timerWrite 64 0 0) = false := by decide
theorem test_ill_timer_number : WellFormed (.timerExpiry 0 4) = false := by decide
theorem test_ill_dma_die : WellFormed (.dmaChGo 4 0 0) = false := by decide
theorem test_ill_dma_channel : WellFormed (.dmaChAbort 0 8 0) = false := by decide
theorem test_ill_core_channel : WellFormed (.coreDmaClrHalt 0 4) = false := by decide
theorem test_ill_stack : WellFormed (.hbmSchedApply 32) = false := by decide
theorem test_ill_pseudo_channel : WellFormed (.hbmWriteBatchStart 0 32 0) = false := by decide
theorem test_ill_d2d_group : WellFormed (.roleAck 8 0) = false := by decide
theorem test_ill_compute_module : WellFormed (.roleAck 3 24) = false := by decide
theorem test_ill_io_module : WellFormed (.roleAck 4 16) = false := by decide
theorem test_ill_steered_group : WellFormed (.flowRelease 8 0) = false := by decide
theorem test_ill_port : WellFormed (.fibreDark ⟨32, true⟩) = false := by decide
theorem test_ill_lane : WellFormed (.laneRetry 0 8) = false := by decide
theorem test_ill_io_die : WellFormed (.meshSettle 4) = false := by decide
theorem test_ill_ring : WellFormed (.ringRecalStart 0 128) = false := by decide
theorem test_ill_laser : WellFormed (.laserFail 0 10 []) = false := by decide
theorem test_ill_fanout_group : WellFormed (.fanoutRequest 16 0 0 1) = false := by decide
theorem test_ill_fanout_die : WellFormed (.fanoutRequest 0 4 0 1) = false := by decide
theorem test_ill_fanout_port : WellFormed (.fanoutRequest 0 0 32 1) = false := by decide
theorem test_ill_fanout_second_port : WellFormed (.fanoutRequest 0 0 0 32) = false := by decide
theorem test_ill_requester : WellFormed (.reissueTimeout 4 0 0) = false := by decide
theorem test_ill_home : WellFormed (.reissueTimeout 0 4 0) = false := by decide
theorem test_ill_compute_die : WellFormed (.invAll 4) = false := by decide
theorem test_ill_group : WellFormed (.colSetup 16) = false := by decide
theorem test_ill_group_die : WellFormed (.colOpStart 0 ⟨4, none⟩) = false := by decide
theorem test_ill_member_core : WellFormed (.colOpComplete 0 64) = false := by decide
theorem test_ill_thermal_die : WellFormed (.analogTrip 8) = false := by decide
theorem test_ill_config_alignment : WellFormed (.pcieConfigReq false 2 0) = false := by decide
theorem test_ill_config_offset : WellFormed (.pcieConfigReq false 4096 0) = false := by decide
theorem test_ill_bar2_length : WellFormed (.bar2Read 0 0) = false := by decide
theorem test_ill_bar2_request : WellFormed (.bar2Read 0 4097) = false := by decide
theorem test_ill_bar2_end : WellFormed (.bar2Read 17179869183 2) = false := by decide
theorem test_ill_register_size : WellFormed (.regWrite 0 2 0) = false := by decide
theorem test_ill_register_alignment : WellFormed (.rcRead 4 8) = false := by decide
theorem test_ill_half_alignment : WellFormed (.regWriteHalf 2 0) = false := by decide
theorem test_ill_low_half_alignment : WellFormed (.regReadLowHalf 4) = false := by decide
theorem test_ill_source : WellFormed (.eventInputChange 1024 true) = false := by decide
theorem test_ill_pend_word : WellFormed (.pendSet 16 0) = false := by decide
theorem test_ill_line : WellFormed (.evcClaim 10) = false := by decide
theorem test_ill_vector : WellFormed (.msixUnmask 32) = false := by decide
theorem test_ill_hart : WellFormed (.watchdogExpiry 4) = false := by decide
theorem test_ill_mailbox_register : WellFormed (.mbxInDataWrite 0 8 0) = false := by decide
theorem test_ill_job_queue : WellFormed (.jobNop 4) = false := by decide
theorem test_ill_owner_slot : WellFormed (.ownerRequest ⟨0, 0, 0, 0, 0, 0, 0, true, none, true, true, []⟩ 4 0 0 0 true) = false := by decide
theorem test_ill_endpoint : WellFormed (.ackTimer 4 ⟨0, 0, 0, 0⟩) = false := by decide
theorem test_ill_block_die : WellFormed (.vspBlockRead 4) = false := by decide
theorem test_ill_bring_up_stack : WellFormed (.stackBringupEnd 32 true 0 0 []) = false := by decide

/-! ### Small states -/

/-- The part with core 0 as given, RUNNING. -/
def on (k : Core) : State := State.reset.setCore 0 { k with run := .running }

/-- The part with core 0 as given. -/
def core0 (k : Core) : State := State.reset.setCore 0 k

/-- A core without anything in it. -/
def blank : Core := Core.reset

/-- No synchronisation. -/
def sy : Sync := ⟨0, 0, 0, 0, 0, 0, 0, 0⟩

/-- A queue entry with number 0, at index 0, with nothing captured. -/
def en (i : QIns) : QEntry := ⟨0, 0, i, [], [], [], false⟩

/-- Core 0 with one entry at the head of a queue. -/
def queued (i : QIns) : State := on (blank.setQueue i.queue [en i])

theorem on_ready : (on blank).Ready 0 := ⟨by decide, by decide, by decide⟩

theorem on_takes (i : QIns) : (on blank).Takes 0 i := ⟨on_ready, by generalize i.queue = q; cases q <;> decide⟩

/-! ### Cores: what the statements ask for -/

/-- ControlFlow: a branch taken and one not, a call with 7 entries held, a return to the last index. -/
theorem witness_ControlFlow :
    (on blank).Ready 0 ∧ ((on blank).core 0).s 1 = ((on blank).core 0).s 2 ∧ (1 : BitVec 4).toNat ≤ 5
    ∧ ((on { blank with rstack := [1, 2, 3, 4, 5, 6, 7] }).core 0).rstack.length < 8
    ∧ (on { blank with rstack := [16383] }).Ready 0 ∧ ((on { blank with rstack := [16383] }).core 0).rstack = [16383] :=
  ⟨on_ready, by decide, by decide, by decide, ⟨by decide, by decide, by decide⟩, by decide⟩

/-- ScalarResults, DescriptorSets, ChainSets: a core that issues. -/
theorem witness_ScalarResults : (on blank).Ready 0 := on_ready
theorem witness_DescriptorSets : (on blank).Ready 0 := on_ready
theorem witness_ChainSets : (on blank).Ready 0 := on_ready

/-- SequencerEnds: index 16,383, eight calls held, and none. -/
theorem witness_SequencerEnds :
    let s := on { blank with pc := 16383, rstack := [1, 2, 3, 4, 5, 6, 7, 8] }
    s.issuing 0 = true ∧ hasNat (s.core 0).badProg (s.core 0).pc = false ∧ (s.core 0).fault = none ∧ (s.core 0).run = .running
    ∧ (s.core 0).pc = 16383 ∧ (s.core 0).s 1 = (s.core 0).s 2 ∧ 8 ≤ (s.core 0).rstack.length ∧ ((on blank).core 0).rstack = [] := by
  decide

/-- SequencerLoads and SequencerStores: the last aligned place of the core store, for 8, 64 and 128 bytes. -/
theorem witness_SequencerLoads :
    (on blank).Ready 0 ∧ 0x17FFFF8 % 8 = 0 ∧ 0x17FFFF8 + 8 ≤ 0x1800000
    ∧ (((on blank).core 0).s 0 + (0x17FFFC0 : BitVec 32).signExtend 64).toNat % 64 = 0
    ∧ (((on blank).core 0).s 0 + (0x17FFFC0 : BitVec 32).signExtend 64).toNat + 64 ≤ 0x1800000
    ∧ (((on blank).core 0).s 0 + (0x17FFF80 : BitVec 32).signExtend 64).toNat + 128 ≤ 0x1800000 :=
  ⟨on_ready, by decide, by decide, by decide, by decide, by decide⟩
theorem witness_SequencerStores :
    (on blank).Ready 0 ∧ (((on blank).core 0).s 0 + (0x17FFFF8 : BitVec 32).signExtend 64).toNat % 8 = 0
    ∧ (((on blank).core 0).s 0 + (0x17FFFF8 : BitVec 32).signExtend 64).toNat + 8 ≤ 0x1800000 :=
  ⟨on_ready, by decide, by decide⟩

/-- SequencerMisaligned: offsets 1 of 8 and 32 of 64. -/
theorem witness_SequencerMisaligned :
    (on blank).Ready 0 ∧ ((on blank).core 0).fault = none ∧ ((on blank).core 0).run = .running
    ∧ (((on blank).core 0).s 0 + (1 : BitVec 32).signExtend 64).toNat % 8 ≠ 0
    ∧ (((on blank).core 0).s 0 + (32 : BitVec 32).signExtend 64).toNat % 64 ≠ 0 :=
  ⟨on_ready, by decide, by decide, by decide, by decide⟩

/-- SequencerStops: a word of class 0xD spells no instruction. -/
theorem witness_SequencerStops :
    (on blank).Ready 0 ∧ ((on blank).core 0).fault = none ∧ ((on blank).core 0).run = .running
    ∧ decodeCore 0 0xD0000000000000000000000000000000 = none :=
  ⟨on_ready, by decide, by decide, by decide⟩

/-- SequencerWaits: a wait that finds its count, and one that is one short. -/
theorem witness_SequencerWaits :
    let s := on { blank with sem := [(3, 2)] }
    s.Ready 0 ∧ (s.core 0).mayTake (s.core 0).issueSeq [(3, 2)] = true ∧ (s.core 0).mayTake (s.core 0).issueSeq [(3, 3)] = false
    ∧ (4 : BitVec 4).toNat ≤ 4 :=
  ⟨⟨by decide, by decide, by decide⟩, by decide, by decide, by decide⟩

/-- WaitSatisfied: a wait for the counts that are there; an instruction held for a queue with one place. -/
theorem witness_WaitSatisfied :
    (on { blank with swait := some ⟨0, 3, 2⟩, sem := [(3, 2)] }).pwrFail = false
    ∧ ((on { blank with swait := some ⟨0, 3, 2⟩, sem := [(3, 2)] }).core 0).mayTake 0 [(3, 2)] = true
    ∧ (let k : Core := { blank with heldIns := some (.dma, en (.sx .sig ⟨0, 0, 0, sy, 0⟩)), pc := 16382 }
       (k.queue .dma).length < queueDepth .dma ∧ k.pc < 16383) := by
  decide

/-- VectorIssues, QueueIssues and IssueRefused: a core that issues into empty queues; fields at the edge of what they allow, and the first
beyond it. -/
theorem witness_VectorIssues :
    (on blank).Takes 0 (.vx .vadd ⟨1, 2, 3, 4, false, sy, 512, 2, false, 0, 0, 8, 0, 0, 0⟩)
    ∧ (512 : BitVec 10).toNat ≤ 512 ∧ (2 : BitVec 2) ≠ 3 ∧ (8 : BitVec 5) = 8
    ∧ vxIllegal .vld ⟨1, 2, 3, 4, false, sy, 512, 2, false, 0, 0, 0, 0, 0, 5⟩ (TD.ofBits 0) = false
    ∧ vxBad .vld ⟨1, 2, 3, 4, false, sy, 512, 2, false, 0, 0, 0, 0, 0, 5⟩ (en (.vx .vld ⟨1, 2, 3, 4, false, sy, 512, 2, false, 0, 0, 0, 0, 0, 5⟩)) = false :=
  ⟨on_takes _, by decide, by decide, rfl, by decide +kernel, by decide +kernel⟩

/-- A tensor descriptor: format, an address in core 0's store, 64 columns, 64 rows, rows 256 bytes apart. -/
def tile (fmt off : Nat) : BitVec 512 :=
  BitVec.ofNat 512 (storeAddr 0 off * 2 ^ 448 + fmt * 2 ^ 443 + 64 * 2 ^ 352 + 64 * 2 ^ 320 + 2 ^ 288 + 2 ^ 256 + 256 * 2 ^ 208)

/-- A chain of one stage, a store (14) or a drain (15), single-round, into an FP32 descriptor td2. -/
def chain (stage : Nat) : BitVec 1024 := BitVec.ofNat 1024 (stage * 2 ^ 236 + 2 ^ 126 + 2 * 2 ^ 108 + 2 ^ 76)

/-- The descriptors td1 (BF16) and td2 (FP32) and chain cd1 of core 0. -/
def descs (stage : Nat) : Core := { blank with td := [(1, tile 1 0), (2, tile 0 0x8000)], cd := [(1, chain stage)] }

/-- An entry that has captured those descriptors. -/
def en' (i : QIns) (stage : Nat) : QEntry := ⟨0, 0, i, [], (descs stage).td, (descs stage).cd, false⟩

/-- A matrix instruction of one row, one column and K = 1 on td1 and td1, acc as given. -/
def mxf (acc : BitVec 2) : MxF := ⟨1, 0, acc, false, false, sy, 1, 1, 1, 1, 1⟩

theorem witness_QueueIssues :
    (∀ i, (on blank).Takes 0 i)
    ∧ (let f : VtF := ⟨2, 2, 0, false, false, sy, 1, 1, 0, 0, false, 0, 0⟩
       vtIllegal .vrsum f (TD.ofBits (tile 0 0x8000)) (TD.ofBits 0) = false ∧ vtBad .vrsum f (en' (.vt .vrsum f) 14) = false)
    ∧ mxIllegal .quad (mxf 2) (en' (.mx .quad (mxf 2)) 14) = false
    ∧ mxBad ((on blank).ledgerRows 0) (on blank).wireFmt .quad (mxf 2) (en' (.mx .quad (mxf 2)) 14) = false
    ∧ (let f : ColF := ⟨15, 0, 2, 2, sy, 0, 0, 16⟩
       colIllegal .allreduce f = false ∧ (on blank).colBad .allreduce f (en' (.col .allreduce f) 14) = false)
    ∧ (4096 : BitVec 13).toNat ≤ 4096 ∧ (4096 : BitVec 13).toNat % 8 = 0 ∧ (8 : BitVec 4).toNat ≤ 8
    ∧ (24 : BitVec 5).toNat + (8 : BitVec 4).toNat ≤ 32 ∧ (2 : BitVec 2) ≠ 3 ∧ (en' (.sx .sig ⟨0, 0, 0, sy, 0⟩) 14).tdBad (TD.ofBits (tile 1 0)) = false :=
  ⟨on_takes, by decide +kernel, by decide +kernel, by decide +kernel, by decide +kernel, by decide, by decide, by decide, by decide,
    by decide, by decide +kernel⟩

theorem witness_IssueRefused :
    (on blank).Ready 0 ∧ ((on blank).core 0).fault = none ∧ ((on blank).core 0).run = .running ∧ 512 < (513 : BitVec 10).toNat
    ∧ (let f : VxF := ⟨1, 2, 3, 4, false, sy, 1, 0, false, 0, 0, 0, 0, 0, 5⟩
       vxIllegal .vld f (TD.ofBits (BitVec.ofNat 512 (2 ^ 442))) = false
       ∧ vxBad .vld f ⟨0, 0, .vx .vld f, [], [(5, BitVec.ofNat 512 (2 ^ 442))], [], false⟩ = true)
    ∧ 256 < (257 : BitVec 9).toNat
    ∧ mxIllegal .quad (mxf 2) (en' (.mx .quad (mxf 2)) 13) = false
    ∧ mxBad ((on blank).ledgerRows 0) (on blank).wireFmt .quad (mxf 2) (en' (.mx .quad (mxf 2)) 13) = true
    ∧ (1 : BitVec 2) ≠ 0 ∧ 4096 < (4104 : BitVec 13).toNat ∧ (8 : BitVec 13) ≠ 0 ∧ 8 < (9 : BitVec 4).toNat
    ∧ 32 < (31 : BitVec 5).toNat + (2 : BitVec 4).toNat ∧ 11 ≤ (11 : BitVec 4).toNat ∧ 6 ≤ (6 : BitVec 4).toNat ∧ 4 < (5 : BitVec 4).toNat :=
  ⟨on_ready, by decide, by decide, by decide, by decide +kernel, by decide, by decide +kernel, by decide +kernel, by decide, by decide,
    by decide, by decide, by decide, by decide, by decide, by decide⟩

theorem starts (i : QIns) (h : (queued i).queueFree 0 i.queue (en i) = true) (w : ((queued i).core 0).mayTake 0 (waitSet i.sync) = true)
    (q : ((queued i).core 0).queue i.queue = [en i]) (o : ((queued i).core 0).started = []) : (queued i).Starts 0 (en i) [] :=
  ⟨rfl, rfl, q, w, h, fun r hr => by rw [o] at hr; cases hr⟩

/-- VectorResults, VectorMemory, SyncResults: an entry alone in its queue starts. -/
theorem witness_VectorResults :
    (queued (.vx .vadd ⟨1, 2, 3, 4, false, sy, 512, 2, false, 0, 0, 8, 0, 0, 0⟩)).Starts 0 (en (.vx .vadd ⟨1, 2, 3, 4, false, sy, 512, 2, false, 0, 0, 8, 0, 0, 0⟩)) []
    ∧ VxOp.vadd ≠ .vld ∧ VxOp.vadd ≠ .vst ∧ (512 : BitVec 10).toNat ≤ 512 :=
  ⟨starts _ (by decide) (by decide) (by decide) (by decide), by decide, by decide, by decide⟩
theorem witness_SyncResults :
    (queued (.sx .sig ⟨0, 0, 0, sy, 0⟩)).Starts 0 (en (.sx .sig ⟨0, 0, 0, sy, 0⟩)) []
    ∧ (queued (.sx .sign ⟨0, 0, 0, sy, 65535⟩)).Starts 0 (en (.sx .sign ⟨0, 0, 0, sy, 65535⟩)) []
    ∧ (((queued (.sx .sign ⟨0, 0, 0, sy, 65535⟩)).core 0).ended (en (.sx .sign ⟨0, 0, 0, sy, 65535⟩)) [] 0 .none).semVal 0 + 65535 ≤ 65535
    ∧ (queued (.sx .tmr ⟨0, 3, 1, sy, 0⟩)).Starts 0 (en (.sx .tmr ⟨0, 3, 1, sy, 0⟩)) []
    ∧ (queued (.sx .evt ⟨0, 0, 0, sy, 0⟩)).Starts 0 (en (.sx .evt ⟨0, 0, 0, sy, 0⟩)) []
    ∧ (queued (.pmark false ⟨255, 0, sy⟩)).Starts 0 (en (.pmark false ⟨255, 0, sy⟩)) []
    ∧ (queued (.pmark true ⟨0, 3, sy⟩)).Starts 0 (en (.pmark true ⟨0, 3, sy⟩)) [] :=
  ⟨starts _ (by decide) (by decide) (by decide) (by decide), starts _ (by decide) (by decide) (by decide) (by decide), by decide, starts _ (by decide) (by decide) (by decide) (by decide),
    starts _ (by decide) (by decide) (by decide) (by decide), starts _ (by decide) (by decide) (by decide) (by decide), starts _ (by decide) (by decide) (by decide) (by decide)⟩

/-- An entry with core 0's matrix instruction. -/
def mxe (acc : BitVec 2) (stage : Nat) : QEntry := en' (.mx .quad (mxf acc)) stage

/-- A run of it: rows accumulated, rows emitted. -/
def run (acc : BitVec 2) (stage a e : Nat) : MxRun := ⟨mxe acc stage, a, e, [], 0, 0, .none, []⟩

theorem witness_VectorMemory :
    (let f : VxF := ⟨1, 2, 3, 4, false, sy, 4, 0, false, 0, 0, 1, 0, 0, 1⟩
     let e : QEntry := en' (.vx .vld f) 14
     let s := on (blank.setQueue .vx [e])
     s.Starts 0 e [] ∧ f.lanes.toNat ≤ 512
     ∧ ∀ j, j < f.lanes.toNat → (s.elemAt 0 (e.td 1) 0 j).2 = [] ∧ (s.elemVal 0 (e.td 1) (e.scaleOf (e.td 1)) false 0 j).2 = [])
    ∧ (let e : QEntry := en' (.vx .vst ⟨1, 2, 3, 4, false, sy, 512, 0, false, 0, 0, 1, 0, 0, 1⟩) 14
       (on (blank.setQueue .vx [e])).Starts 0 e [] ∧ (e.td 1).mx = false) :=
  ⟨⟨⟨rfl, rfl, rfl, by decide, by decide, fun r hr => by cases hr⟩, by decide, by decide +kernel⟩,
    ⟨rfl, rfl, rfl, by decide, by decide, fun r hr => by cases hr⟩, by decide +kernel⟩

theorem semVal_zero (k : Core) (h : k.sem = []) (n : Nat) : k.semVal n = 0 := by unfold Core.semVal; rw [h]; rfl

/-- InstrCompletes: a SIG that has ended with status OK, alone, and one whose status counts. -/
theorem witness_InstrCompletes (code : Nat) (hc : code ∈ [0, 0x30]) :
    let r : Started := ⟨en (.sx .sig ⟨0, 0, 0, sy, 0⟩), code, .none, true⟩
    let k := (on { blank with started := [r] }).core 0
    k.started.find? (fun x => x.entry.seq == r.entry.seq) = some r ∧ r.finished = true
    ∧ (∀ x ∈ k.started, r.entry.seq ≤ x.entry.seq) ∧ ∀ n, k.semVal n + sy.s0inc.toNat + sy.s1inc.toNat ≤ 65535 := by
  have h : ∀ n, ((on blank).core 0).semVal n + sy.s0inc.toNat + sy.s1inc.toNat ≤ 65535 := fun n => by
    rw [semVal_zero _ (by decide)]; decide
  fin_cases hc <;> exact ⟨by decide, by decide, by decide, h⟩

/-- CoreFaults: the largest values of the fields. -/
theorem witness_CoreFaults :
    let k := (core0 { blank with run := .stopping, fault := some ⟨255, 7, 16383, 2 ^ 32 - 1⟩ }).core 0
    k.fault = some ⟨255, 7, 16383, 2 ^ 32 - 1⟩ ∧ k.run = .stopping ∧ k.anyBusy = false := by
  decide

/-- MatrixStages and MatrixStarts: a QUAD instruction of one row, one column, K = 1, before and after it has its counts, while its tile is
staged and when it is. -/
theorem witness_MatrixStages :
    let e := mxe 2 14
    let k : Core := { blank with qMx := [e] }
    (on k).pwrFail = false ∧ ((on k).core 0).qMx = [e] ∧ ((on k).core 0).mxCounts = false
    ∧ ((on k).core 0).mayTake e.seq (waitSet (mxf 2).sync) = true
    ∧ mxStages .quad (mxf 2) = true ∧ ((on { k with mxCounts := true }).core 0).staged ≠ some e.seq
    ∧ (mxf 2).k.toNat ≤ 512 ∧ (mxf 2).n.toNat ≤ 256 * MxForm.quad.arrays.length ∧ MxForm.quad.arrays.Nodup
    ∧ ((on { k with staging := some 0 }).weight 0 e (mxf 2) 0 0).2 = [] := by
  decide +kernel
theorem witness_MatrixStarts :
    let e := mxe 2 14
    let s := on { blank with qMx := [e], mxCounts := true, staged := some 0 }
    s.pwrFail = false ∧ s.drainWaits 0 = false ∧ s.mxGated 0 = false ∧ (s.core 0).qMx = [e] ∧ (s.core 0).mxCounts = true
    ∧ (s.core 0).arraysFree .quad (mxf 2) = true ∧ (s.core 0).staged = some e.seq ∧ (s.core 0).mxRuns = []
    ∧ (mxf 2).m ≠ 0 ∧ (mxf 2).n ≠ 0 ∧ ({ mxf 2 with n := 0 } : MxF).n = 0 := by
  decide +kernel

/-- MatrixRows: a start instruction whose one row is left, in a normal and a Tourbillon form. -/
theorem witness_MatrixRows :
    let r := run 0 14 0 0
    let s := on { blank with mxRuns := [r] }
    (s.core 0).runOf 0 = some r ∧ (mxf 0).n ≠ 0 ∧ r.acc + 1 = (mxf 0).m.toNat
    ∧ ∀ form ∈ ([.quad, .t64Single 3] : List MxForm), (s.core 0).rowReady r.entry form (mxf 0) 0 = true
      ∧ (accRowKeys form (mxf 0) 0).Nodup ∧ (s.initRow 0 r.entry form (mxf 0) 0).1.length = (mxf 0).n.toNat
      ∧ (s.initRow 0 r.entry form (mxf 0) 0).2.2 = [] ∧ (s.actRow 0 r.entry (mxf 0) r.bufs 0).2.2 = []
      ∧ (s.weight 0 r.entry (mxf 0) 0 0).2 = [] := by
  decide +kernel

/-- MatrixStores: a finish instruction with a chain of a store, and of a drain, whose one row is accumulated. -/
theorem witness_MatrixStores :
    ∀ stage ∈ [14, 15], let r := run 2 stage 1 0
      let k := (on { blank with mxRuns := [r] }).core 0
      let d := r.entry.chain (mxf 2)
      k.runOf 0 = some r ∧ mxFinish (mxf 2) = true ∧ r.emitted < r.acc ∧ r.waiting = [] ∧ k.epiBlocked r.entry (mxf 2) 0 = false
      ∧ d.nstages = 1 ∧ d.prs = 0 ∧ r.entry.exact d = false ∧ d.outMx = false ∧ (r.entry.td d.outTd).mx = false
      ∧ stageType (d.stage 0) = stage := by
  decide +kernel

/-- MatrixCompletes: a start that has accumulated its row, a finish that has emitted it, and a fence that is alone. -/
theorem witness_MatrixCompletes :
    ((on { blank with mxRuns := [run 0 14 1 0] }).core 0).runOf 0 = some (run 0 14 1 0) ∧ mxFinish (mxf 0) = false
    ∧ (run 0 14 1 0).acc = (mxf 0).m.toNat ∧ mxFinish (mxf 2) = true ∧ (run 2 14 1 1).emitted = (mxf 2).m.toNat
    ∧ (∀ x ∈ ((on { blank with mxRuns := [run 0 14 1 0] }).core 0).mxRuns, (run 0 14 1 0).entry.seq ≤ x.entry.seq)
    ∧ ∀ n, ((on { blank with mxRuns := [run 0 14 1 0] }).core 0).semVal n ≤ 65535 :=
  ⟨by decide +kernel, by decide, by decide, by decide, by decide, by decide +kernel, fun n => by rw [semVal_zero _ (by decide)]; decide⟩

/-- TileElements: the last column of a tile of 64, and the first beyond it. -/
theorem witness_TileElements :
    let t := TD.ofBits (tile 1 0)
    t.within 63 63 0 0 = true ∧ ownStore 0 (t.addr 63 63 0 0) (cellBytes t.format) = true
    ∧ (∀ i ∈ List.range (cellBytes t.format), State.reset.live (t.addr 63 63 0 0 + i) = true) ∧ t.within 63 64 0 0 = false := by
  decide +kernel

/-- CoreCommands: each state of a core that a command finds, at core 63. -/
theorem witness_CoreCommands :
    State.reset.hasCore 63 = true ∧ hasNat State.reset.deadDies (63 / 16) = false ∧ (State.reset.core 63).run = .stopped
    ∧ (State.reset.core 63).load = none ∧ State.reset.rf (rPwr 0x18) 30 2 ≠ 3 ∧ ((on blank).core 0).run = .running
    ∧ (let k := (core0 { blank with run := .stopping, stopCause := .halt }).core 0
       k.run = .stopping ∧ k.fault = none ∧ k.anyBusy = false ∧ k.heldIns = none ∧ k.swait = none) := by
  decide +kernel

theorem witness_CoreResetDone :
    let k := (core0 { blank with run := .resetting }).core 0
    k.run = .resetting ∧ k.anyBusy = false ∧ k.load = none := by
  decide

/-- A CORE_PROG_LOAD word: one word at the last place of program memory. -/
def goWord : W64 := 1 <<< 16 ||| 16383

/-- ProgramLoads: a stopped core with an aligned source, lengths 0, 1 and one too many, an address off by 1; a load of one word in progress
from its own store, and one of a whole block of HBM. -/
theorem witness_ProgramLoads :
    (let s := State.reset.setReg (rCore 0 0x40) (BitVec.ofNat 64 (storeAddr 0 64))
     let src := (s.reg (rCore 0 0x40)).toNat
     s.hasCore 0 = true ∧ hasNat s.deadDies 0 = false ∧ (s.core 0).load = none ∧ (s.core 0).run = .stopped
     ∧ 0 < fld goWord 16 15 ∧ fld goWord 0 14 + fld goWord 16 15 ≤ 16384 ∧ src < 2 ^ 43 ∧ src % 64 = 0
     ∧ fld (0 : W64) 16 15 = 0 ∧ 16384 < fld (2 <<< 16 ||| 16383 : W64) 0 14 + fld (2 <<< 16 ||| 16383 : W64) 16 15)
    ∧ ((State.reset.setReg (rCore 0 0x40) 1).reg (rCore 0 0x40)).toNat % 64 ≠ 0
    ∧ ((on blank).core 0).run ≠ .stopped ∧ ((on blank).core 0).run ≠ .faulted
    ∧ (∀ b, storeAddr 0 64 / 4096 ≤ b → 4096 * b < storeAddr 0 64 + 16 * 1 →
        State.reset.populated (4096 * b) = true ∧ ∀ st o, region (4096 * b) ≠ .hbm st o)
    ∧ (State.reset.populated 0 = true ∧ State.reset.poisoned 0 = false ∧ State.reset.chkOf 0 = 0) := by
  refine ⟨by decide +kernel, by decide +kernel, by decide, by decide, fun b h1 h2 => ?_, by decide +kernel⟩
  have : b = storeAddr 0 64 / 4096 := by unfold storeAddr at *; omega
  subst this
  have hr : region (4096 * (storeAddr 0 64 / 4096)) = .store 0 0 := by decide +kernel
  exact ⟨by decide +kernel, fun st o h => by rw [hr] at h; cases h⟩

/-- CoreRegisters: the values that the clauses split on, at core 63 and timer 3. -/
theorem witness_CoreRegisters :
    State.reset.hasCore 63 = true ∧ hasNat State.reset.deadDies (63 / 16) = false
    ∧ fld (0 : W64) 0 16 = 0 ∧ fld (0xFFFF : W64) 0 16 ≠ 0 ∧ (State.reset.core 63).semVal 0 + fld (0xFFFF : W64) 0 16 ≤ 65535
    ∧ (let s := State.reset.setReg (rCore 63 0x118) (1 <<< 63); s.rbit (rCore 63 0x118) 63 = true ∧ s.rbit (rCore 63 0x118) 61 = false)
    ∧ (let k := (core0 { blank with ledgerHeld := some 5 }).core 0; k.ledgerHeld = some 5 ∧ k.qMx = [] ∧ k.mxRuns = [])
    ∧ ((core0 { blank with qMx := [mxe 2 14] }).core 0).qMx ≠ [] := by
  decide +kernel

/-- DmaChannels: channel 7 of die 3 in each state, and channel 3 of core 63 halted. -/
theorem witness_DmaChannels :
    State.reset.hasDie 3 = true ∧ State.reset.vspOwns 7 = false ∧ State.reset.hasCore 63 = true ∧ State.reset.chState 287 = 0
    ∧ State.reset.rf (rDma 3 0x700) 0 43 % 64 = 0 ∧ fld (0x7FFFF : W64) 0 19 ≠ 0 ∧ bit (0x7FFFF : W64) 62 = false
    ∧ (∀ st ∈ [1, 2], (State.reset.setRf (chStat 287) 62 2 st).chState 287 = st)
    ∧ (State.reset.setRf (chStat 255) 62 2 2).chState 255 = 2 := by
  decide +kernel

/-- A descriptor of one unit of 64 bytes within core 0's store, paced by timer 0, with a status word. -/
def oneUnit : BitVec 512 :=
  BitVec.ofNat 512 (storeAddr 0 0 <<< 448 + storeAddr 0 64 <<< 384 + 64 <<< 352 + 1 <<< 328 + 1 <<< 312 + 1 <<< 79 + 1 <<< 70)

/-- A channel at work on a list of two at the start of core 0's store. -/
def work (cur : Option DCur) : DWork := ⟨none, storeAddr 0 0, 2, cur, false, false, false⟩

/-- Its descriptor with units read and written so far. -/
def atUnit (u : Nat) : DCur := ⟨storeAddr 0 0, oneUnit, u, u, 0, 0, 0, 0, [], false, []⟩

/-- Channel ch at that work, holding a credit. -/
def busy (ch : Nat) (w : DWork) : State := State.reset.modChan ch fun _ => ⟨some w, some 0, true⟩

/-- DmaTransfers: an empty descriptor (memory reads zero) and one that waits for a timer; its unit, and its end. -/
theorem witness_DmaTransfers :
    (let s := busy 0 (work none)
     let t := s.poke (storeAddr 0 0) (toBytes 64 oneUnit.toNat)
     (s.chan 0).work = some (work none) ∧ s.pwrFail = false ∧ s.midnight = false ∧ s.released 0 (work none) = false
     ∧ BitVec.ofNat 512 (s.readN (storeAddr 0 0) 64) = 0 ∧ descBad 0 0 = false ∧ (descXfer 0).misaligned = none ∧ (descXfer 0).empty = true
     ∧ (t.chan 0).work = some (work none) ∧ BitVec.ofNat 512 (t.readN (storeAddr 0 0) 64) = oneUnit ∧ descBad 0 oneUnit = false
     ∧ (descXfer oneUnit).misaligned = none ∧ (descXfer oneUnit).empty = false
     ∧ paceSrc 0 (descXfer oneUnit).pace (descXfer oneUnit).paceId = some 0)
    ∧ (∀ o ∈ [0, 64], o + 64 ≤ 0x1800000 ∧ storeAddr 0 o % 64 = 0) ∧ State.reset.hasCore 0 = true
    ∧ hasNat State.reset.deadDies 0 = false ∧ (State.reset.dieRoute 0 0).isSome = true
    ∧ (let s := busy 0 (work (some (atUnit 0)))
       let x := descXfer oneUnit
       (s.chan 0).credit = true ∧ x.src 0 = storeAddr 0 0 ∧ x.dst 0 = storeAddr 0 64 ∧ 0 < x.n ∧ x.len = 64 ∧ x.pace ≠ 3
       ∧ x.paced 0 = true ∧ x.check % 2 = 0)
    ∧ (∀ ch ∈ [0, 256], ((busy ch (work (some (atUnit 1)))).chan ch).work = some (work (some (atUnit 1)))
        ∧ (busy ch (work (some (atUnit 1)))).released ch (work (some (atUnit 1))) = false)
    ∧ (atUnit 1).allWritten (descXfer oneUnit) = true ∧ bit oneUnit 70 = true ∧ bit oneUnit 71 = false
    ∧ ((busy 256 (work none)).setRf (chStat 256) 62 2 1).chState 256 = 1 := by
  decide +kernel

/-- Stack 31 in state st with scrub on and the controller as given. -/
def stacked (st : Nat) (k : Stack) : State :=
  ((State.reset.setRf (rHbm 31 0) 29 3 st).setRbit (rHbm 31 8) 1 true).modStack 31 fun _ => k

/-- HbmRequests: requests of the smallest size at the last offset, a write of a read stack's block that is being copied, batches that are due
and end, reads that hit an open row, that miss, and commands that go unanswered. -/
theorem witness_HbmRequests :
    (let o := 0x1FC0000000 - 64
     State.reset.hasStack 31 = true ∧ o % 64 = 0 ∧ o % 2048 + 64 ≤ 2048 ∧ o + 64 ≤ 0x1FC0000000
     ∧ State.reset.live (hbmAddr 31 o) = true ∧ State.reset.vsp.covers (hbmAddr 31 o / 4096) = false ∧ (State.reset.stack 31).copying = []
     ∧ Tab.get 0 (hbmPc o) (State.reset.stack 31).wbuf + 64 ≤ 65536 ∧ (State.reset.stack 31).reads = [])
    ∧ (let s := stacked 2 { Stack.reset with copying := [⟨5, 0, false⟩] }
       s.hbmState 31 = 2 ∧ ((s.stack 31).copying.any fun c => c.block == 5 * 4096 / 4096) = true)
    ∧ (let k := (stacked 2 { Stack.reset with wbuf := [(31, 64)] }).stack 31
       0 < Tab.get 0 31 k.wbuf ∧ 31 ∉ k.batch ∧ hasNat k.lat 31 = false)
    ∧ 31 ∈ ((stacked 2 { Stack.reset with batch := [31] }).stack 31).batch
    ∧ (let x : HRead := ⟨0, 0, 64, some ([], [])⟩
       let k := (stacked 2 { Stack.reset with reads := [⟨0, 0, 64, none⟩, x], rows := [(hbmOpen 0).1, (hbmOpen 0).2].zip [(hbmOpen 0).2] }).stack 31
       k.reads = [⟨0, 0, 64, none⟩] ++ x :: [] ∧ hbmPc x.offset = 0 ∧ x.got = some ([], [])
       ∧ Tab.get 0 (hbmOpen x.offset).1 k.rows = (hbmOpen x.offset).2)
    ∧ (stacked 2 Stack.reset).hbmState 31 ≠ 5 ∧ Tab.get 0 31 ((stacked 2 { Stack.reset with timeouts := [(31, 1)] }).stack 31).timeouts < 2 := by
  decide +kernel

/-- HbmRepair: the states that its commands find: READY with nothing tracked, a copy that ends, COLD, in bring-up, in maintenance, and a
pseudo-channel with two commands unanswered. -/
theorem witness_HbmRepair :
    (let s := stacked 2 Stack.reset
     s.hasStack 31 = true ∧ s.rbit (rHbm 31 8) 1 = true ∧ s.hbmState 31 = 2 ∧ s.vsp.covers (hbmAddr 31 (4096 * 33292287) / 4096) = false
     ∧ s.rf (rHbm 31 0x18) 0 8 = 0 ∧ (s.stack 31) = Stack.reset ∧ s.rf (rCrn 0) 29 3 ≠ 3)
    ∧ (let k := (stacked 2 { Stack.reset with copying := [⟨33292287, 0, true⟩], taken := [0] }).stack 31
       k.copying = [⟨33292287, 0, true⟩] ∧ k.held = [] ∧ k.again = [] ∧ k.remaps = [])
    ∧ (∀ st ∈ [0, 1, 3], (stacked st Stack.reset).hbmState 31 = st)
    ∧ (∀ i, i < 4 → 2 ≤ ((List.range 4).foldl (fun s i => s.setRf (rHbm (24 + i) 0) 29 3 2) State.reset).hbmState (31 / 8 * 8 + i))
    ∧ 2 ≤ Tab.get 0 31 ((stacked 2 { Stack.reset with timeouts := [(31, 2)] }).stack 31).timeouts := by
  decide +kernel

/-- Group 0 with every module in state st and up, the module as given, and all credits. -/
def link (st : Nat) (d : DModule) : State :=
  let s := ((List.range 24).foldl (fun s m => s.setRf (rMod 0 m) 61 3 st) State.reset).setRf (rD2d 0 0) 61 3 3
  { s with dmods := [(23, d)], drCred := (List.range 192).map fun i => (i, 100), drPart := (List.range 192).map fun i => (i, 100) }

/-- LinkTraining: module 23 of group 0 beside others that are up, trained or in training; retimed; with replays short of 8 and at 8. -/
theorem witness_LinkTraining :
    (let s := link 3 { DModule.reset with role := 3, width := 3 }
     s.d2dHere 0 23 = true ∧ s.rf (rD2d 0 0) 61 3 = 3 ∧ s.modState 0 0 = 3 ∧ s.modState 0 23 = 3 ∧ (s.dmod 0 23).train = 0
     ∧ (s.dmod 0 23).replays = [] ∧ (s.dmod 0 23).fails < 8 ∧ s.rf (rMod 0 23) 59 2 < 2 ∧ s.drQueue = [])
    ∧ (let d := (link 1 { DModule.reset with role := 3, train := 4 }).dmod 0 23; d.role = 3 ∧ 1 ≤ d.train ∧ d.train ≤ 4)
    ∧ (let s := link 2 { DModule.reset with role := 3, train := 5, width := 4 }; s.modState 0 23 = 2 ∧ (s.dmod 0 23).train = 5)
    ∧ 2 ≤ ((link 2 { DModule.reset with train := 1 }).setRf (rMod 0 23) 59 2 2).rf (rMod 0 23) 59 2
    ∧ (let s := link 1 { DModule.reset with role := 3 }; s.modState 0 23 = 1 ∧ (s.dmod 0 23).train = 0)
    ∧ (∀ i, i < 16 → (bit (0xFFFF : W64) i).toNat + (bit (0xFFFF : W64) (i + 16)).toNat + (bit (0xFFFF : W64) (i + 32)).toNat ≤ 1)
    ∧ 8 ≤ ((link 3 { DModule.reset with role := 3, width := 3, fails := 8 }).dmod 0 23).fails := by
  decide +kernel

/-- A ROLE_ADV and a ROLE_CRED that fit group 0: a compute die, version 1, 24 modules, packet size 64, the least credits. -/
def roleAdvWord : W64 := 1 <<< 60 ||| 1 <<< 56 ||| 1 <<< 48 ||| 24 <<< 40 ||| 64 <<< 32
def roleCredWord : W64 := 8 <<< 50 ||| 64 <<< 40 ||| 256 <<< 30 ||| 64 <<< 20 ||| 256 <<< 10 ||| 128

/-- LinkRoles: a module before ROLE_ADV, after it, with messages that fit and one version that does not, after the exchange, and with two
messages missed. -/
theorem witness_LinkRoles :
    (let s := link 1 DModule.reset
     s.d2dHere 0 23 = true ∧ s.modState 0 23 ≠ 0 ∧ s.modState 0 23 ≠ 6 ∧ (s.dmod 0 23).role ≠ 3 ∧ (s.dmod 0 23).role ≠ 1
     ∧ (s.dmod 0 23).cred = none ∧ (s.dmod 0 23).missed < 2 ∧ s.drQueue = [])
    ∧ (let d := (link 1 { DModule.reset with role := 1, adv := some roleAdvWord }).dmod 0 23; d.role = 1 ∧ d.adv = some roleAdvWord)
    ∧ fld roleAdvWord 60 4 = 1 ∧ fld roleAdvWord 56 4 = 1 ∧ fld roleAdvWord 48 4 = 1 ∧ fld roleAdvWord 40 8 = modulesOf 0
    ∧ fld roleAdvWord 32 8 = 64 ∧ fld (roleAdvWord ||| (2 : W64) <<< 56) 56 4 ≠ 1
    ∧ 8 ≤ fld roleCredWord 50 10 ∧ 64 ≤ fld roleCredWord 40 10 ∧ 256 ≤ fld roleCredWord 30 10 ∧ 64 ≤ fld roleCredWord 20 10
    ∧ 256 ≤ fld roleCredWord 10 10 ∧ 128 ≤ fld roleCredWord 0 10
    ∧ ((link 3 { DModule.reset with role := 3 }).dmod 0 23).role = 3 ∧ 2 ≤ ((link 1 { DModule.reset with missed := 2 }).dmod 0 23).missed := by
  decide +kernel

/-- LinkPackets: a read and a write of one line of core 16's store, a message of an endpoint's unit, and a read where nothing is. -/
theorem witness_LinkPackets :
    let s := link 3 { DModule.reset with role := 3, width := 3 }
    s.carries 0 23 = true ∧ s.drQueue = [] ∧ s.rf (rD2d 0 0) 61 3 ≠ 4 ∧ (∀ k, k < 6 → Tab.get 0 (drIx 0 23 k) s.drOwed = 0)
    ∧ 2 ≤ Tab.get 0 (drIx 0 23 0) s.drCred ∧ s.movedFlows = [] ∧ (∀ m, m < 24 → s.carries 0 m = true)
    ∧ (∀ t ∈ [(1, 1), (2, 5), (3, 2), (4, 2), (5, 4), (7, 0)], let h := drHdr t.1 t.2 0 0 1 false false 0 0 0 0 (storeAddr 0 64)
        drBad h = false ∧ drUnits h ≤ Tab.get 0 (drIx 0 23 (drClass h)) s.drPart)
    ∧ (let h := drHdr 1 1 0 0 1 false false 0 0 0 0 (storeAddr 0 64)
       s.drHole 0 h (storeAddr 0 64) 64 = false ∧ region (storeAddr 0 64) = .store 0 64
       ∧ s.drHole 0 h 0x7FFFFFFFFC0 64 = true)
    ∧ (let h := drHdr 5 4 0 0 1 false false 0x800 0 15 0 0
       0x800 ≤ fld h 84 12 ∧ fld h 64 8 ≤ 15 ∧ fld h 115 3 ≤ 3 ∧ s.hasDie 0 = true ∧ (s.dieRoute (rxDie 0 h) 0).isSome = true) := by
  decide +kernel

/-- Port 31, lit, with its map entry and one spare, in a state, with a cause, on an input of the mesh, at full width. -/
def lit (st cause fib : Nat) (o : OPort) : State :=
  let s := (((((State.reset.setRf (rOpt 3 0) 29 3 2).setRf (rPort 31 0) 61 3 st).setRf (rPort 31 0) 58 3 cause).setRf (rPort 31 0) 52 4 fib).setRf
    (rPort 31 0) 28 16 0xFFFF).setRf (rFabPort 31) 61 3 1
  { s with portMap := [(31, some ⟨1, 3, 7⟩)], spareMap := [(56, some (1, 3))], oports := [(31, o)] }

/-- OpticalPorts: in training with all lanes there, DOWN with causes 1 and 4, UP with a spare free and with none, and on that spare. -/
theorem witness_OpticalPorts :
    (let s := lit 2 0 7 { OPort.reset with training := true, pReady := 0xFF }
     s.portLive 31 = true ∧ Tab.get none 3 s.fan = none ∧ s.trainQ = [] ∧ s.rf (rPort 31 0) 61 3 = 2 ∧ (s.oport 31).training = true
     ∧ s.minLanes 31 ≤ popcount (1 : BitVec 8) ∧ s.minLanes 31 ≤ popcount ((s.oport 31).pReady &&& s.sources 3)
     ∧ s.minLanes 31 ≤ popcount (s.txMap 31) ∧ s.minLanes 31 ≤ popcount (s.rxMap 31) ∧ s.rf (rPort 31 0) 52 4 < 8)
    ∧ (∀ c ∈ [1, 4], let s := lit 1 c 7 OPort.reset
       s.rf (rFabPort 31) 61 3 ≠ 0 ∧ s.rf (rD2d 7 0) 61 3 ≠ 4 ∧ s.rbit (rPort 31 8) 30 = false ∧ s.rf (rPort 31 0) 61 3 = 1
       ∧ s.rf (rPort 31 0) 58 3 = c ∧ (s.oport 31).training = false ∧ ∀ q, q < 8 → (s.oport (24 + q)).training = false)
    ∧ (let s := lit 3 0 7 OPort.reset
       s.rf (rPort 31 0) 61 3 = 3 ∧ s.rf (rPort 31 0) 52 4 = 7 ∧ (∀ q, q < 8 → s.rf (rPort (24 + q) 0) 52 4 ≠ 8) ∧ s.badSpares = []
       ∧ Tab.get none 31 s.portMap = some ⟨1, 3, 7⟩ ∧ Tab.get none 56 s.spareMap = some (1, 3) ∧ Tab.get none 57 s.spareMap = none)
    ∧ (lit 2 0 8 OPort.reset).rf (rPort 31 0) 52 4 = 8 := by
  decide +kernel

/-- An identity flit of the partner of `lit`, for lane l and port p. -/
def flit (l p : Nat) : IdFlit := ⟨0x4C414E45, 1, p, l, false, false, 0, false, 0xFF, 0xFF, 0, 0xFF, 0, 0, 0, 0⟩

/-- OpticalLanes: an UP port with lane 7 in each of its stages; a right, a broken and two wrong flits; windows of each outcome. -/
theorem flit_closed (f : IdFlit) : f.closed.crc = f.closed.check := by
  have h : f.closed.image = f.image := by unfold IdFlit.closed IdFlit.image; rfl
  unfold IdFlit.check at *
  rw [h]; rfl

theorem flit_crc (s : State) (p : Nat) (f : IdFlit) (c : BitVec 32) : s.idExpected p { f with crc := c } = s.idExpected p f := rfl

theorem witness_OpticalLanes :
    (let s := lit 3 0 7 { OPort.reset with rxReady := 0xFF }
     s.portLive 31 = true ∧ Tab.get none 3 s.fan = none ∧ s.rf (rPort 31 0) 61 3 = 3 ∧ s.trainQ = [] ∧ bit (s.oport 31).rxReady 7 = true
     ∧ ((s.oport 31).lane 7).missing < 2 ∧ ((s.oport 31).lane 7).uncorr < 3 ∧ ((s.oport 31).lane 7).asked = false
     ∧ s.idExpected 31 (flit 7 3) = true ∧ s.idExpected 31 (flit 7 2) = false ∧ (flit 6 3).lane ≠ 7 ∧ ((s.oport 31).lane 0).wrong = false)
    ∧ (∀ f : IdFlit, f.closed.crc = f.closed.check ∧ ∀ (s : State) (p : Nat), s.idExpected p f.closed = s.idExpected p f)
    ∧ (∀ x : BitVec 32, x + 1 ≠ x)
    ∧ (let s := lit 3 0 7 { OPort.reset with lanes := (List.range 7).map fun j => (j, { OLane.reset with wrong := true }) }
       s.idExpected 31 (flit 7 2) = false ∧ ∀ j, j < 8 → j ≠ 7 → ((s.oport 31).lane j).wrong = true)
    ∧ (∀ n, n < 6 → (((lit 3 0 7 { OPort.reset with lanes := [(7, { OLane.reset with stage := n, missing := 2, uncorr := 3, asked := true })] }).oport 31).lane 7).stage = n)
    ∧ 24 * 100000 < 25 * 100000 ∧ 100000 ≤ 24 * 100000 :=
  ⟨by decide +kernel, fun f => ⟨flit_closed f, fun s p => flit_crc s p f f.check⟩, fun _ => by simp, by decide +kernel, by decide +kernel, by decide, by decide⟩

/-- OpticalRings (a fan-out that is wanted is with `witness_OpticalRings_fan`): die 3 lit, ring 127 due and being
calibrated, a spare that a laser takes, and a fan-out in force. -/
theorem witness_OpticalRings :
    (let s := lit 3 0 7 OPort.reset
     s.hasIo 3 = true ∧ s.rf (rOpt 3 0) 29 3 = 2 ∧ s.recalling = [] ∧ s.rbit (rOpt 3 0) 28 = false ∧ s.rbit (rOpt 3 8) 26 = false
     ∧ s.rbit (rOpt 3 8) 22 = false ∧ ((s.oport 31).lane 7).stage = 0)
    ∧ (∀ g, ¬ (g < 16 ∧ State.reset.fanWanted g 3 30 31 = true))
    ∧ (511 ∈ ({ lit 3 0 7 OPort.reset with recalling := [511] } : State).recalling)
    ∧ (Tab.get none 3 ({ lit 3 0 7 OPort.reset with fan := [(3, some (30, 31))] } : State).fan = some (30, 31))
    ∧ (∀ p ∈ State.reset.meshWait, State.reset.portUp p = false) := by
  refine ⟨by decide +kernel, fun g h => ?_, by decide, by decide, by decide⟩
  have : ∀ g, g < 16 → State.reset.fanWanted g 3 30 31 = false := by decide +kernel
  rw [this g h.1] at h; exact Bool.false_ne_true h.2

/-- A packet without payload for package dst, and the frame of one flit that holds one of class 1. -/
def pkt (dst src : BitVec 16) (kind cls : Nat) : Packet := { Packet.blank with kind := kind, pclass := cls, dst := dst, src := src }
def frm (k : Packet) : Frame := ⟨1, k.pclass, 1, 0, 0, 0, 0, 0x986A, false, k⟩

theorem pkt_closed (k : Packet) : k.closed.crc = k.closed.check := by
  have h : k.closed.header true = k.header true := by unfold Packet.closed Packet.header; rfl
  unfold Packet.check at *
  rw [h]; rfl

/-- The header check of R300 over type 1, class 1, one flit and no credits. -/
theorem frm_check (k : Packet) (h : k.pclass = 1) : (frm k).hcrc = (frm k).check := by
  have h0 : (frm k).header 0 = (2 ^ 28 + 2 ^ 25 + 2 ^ 20) * 2 ^ 96 := by
    unfold frm Frame.header; rw [h]; norm_num; rfl
  have h1 : crc16 ((toBytes 16 ((2 ^ 28 + 2 ^ 25 + 2 ^ 20) * 2 ^ 96)).drop 2) = 0x986A := by decide +kernel
  unfold Frame.check; rw [h0, h1]; rfl

/-- Port 31 UP towards +x, its partner's map known, credits granted and held, with frames in the router. -/
def switch (r : List RFrame) : State :=
  let s := lit 3 0 7 { OPort.reset with rxReady := 0xFF, pTx := 0xFF, pNext := 0xFF }
  { s with granted := [(249, 10)], txCred := [(249, 10)], router := r, arb := [(31, ⟨[10, 0, 0, 0, 0], 0, []⟩)] }

/-- FabricFrames: frames that arrive, pass and have no way; one for the package itself; a broken header; no lanes verified; a frame that
leaves; a FAULT, new and repeated; a quarantined port. -/
theorem frm_rx (k : Packet) (h : k.pclass = 1) (hk : k.kind = 1) (hl : k.len = 0) (hp : k.phase = 0) :
    (switch []).violation 31 (frm k) = none := by
  have hc := frm_check k h
  have hv : k.vc = 1 := by unfold Packet.vc; rw [hp]; exact h
  have hg : Tab.get 0 249 (switch []).granted = 10 := by decide +kernel
  have hd : (switch []).rf (rFabPort 31) 61 3 = 1 := by decide +kernel
  unfold State.violation
  simp only [← hc]
  simp [frm, h, hk, hl, hv, hg, hd, kindClass]
  decide

theorem witness_FabricFrames :
    (let s := switch []
     s.hasPort 31 = true ∧ s.portUp 31 = true ∧ s.quar 31 = false ∧ s.flitsGood 31 0 1 = true ∧ s.meshWait = [] ∧ Tab.get none 3 s.fan = none
     ∧ (∀ d h, s.violation 31 (frm { pkt d 5 1 1 with hops := h }) = none)
     ∧ s.route (pkt 0 5 1 1) false = .here ∧ s.route (pkt 1 5 1 1) false = .out [31] (pkt 1 5 1 1) ∧ s.route (pkt 32 5 1 1) false = .drop
     ∧ s.violation 31 { frm (pkt 0 5 1 1) with type := 3 } = some 1 ∧ Tab.get 0 31 s.violNow < 1000)
    ∧ (∀ f : Frame, ({ f with type := 2, hcrc := ({ f with type := 2 } : Frame).check } : Frame).hcrc = ({ f with type := 2 } : Frame).check)
    ∧ (lit 3 0 7 OPort.reset).flitsGood 31 0 1 = false
    ∧ (let f : RFrame := ⟨35, 1, false, 0, pkt 1 0 1 1⟩
       let s := switch [f]
       s.router = [f] ∧ f.io = 31 / 8 ∧ s.late f = false ∧ flitsOf (pkt 1 0 1 1).len ≤ Tab.get 0 (8 * 31 + (pkt 1 0 1 1).vc) s.txCred
       ∧ (pkt 1 0 1 1).pclass = (Tab.get Arb.reset 31 s.arb).cur % 5 + 1
       ∧ flitsOf (pkt 1 0 1 1).len ≤ nth 0 (Tab.get Arb.reset 31 s.arb).deficit ((Tab.get Arb.reset 31 s.arb).cur % 5))
    ∧ (∀ k : Packet, k.pick [31] = 31)
    ∧ (let f : RFrame := ⟨31, 1, false, 0, pkt 1 5 1 1⟩
       (((List.range 1).zip (switch [f]).router).filter fun x => x.2.inp == 31)[0]? = some (0, f))
    ∧ ((pkt 0 5 11 0).src ≠ (switch []).self ∧ Tab.get none 5 (switch []).fseqSeen = none ∧ (switch []).rbit (rFab 0x100) 63 = false)
    ∧ (∀ k : Packet, k.closed.crc = k.closed.check)
    ∧ Tab.get none 5 ({ switch [] with fseqSeen := [(5, some 0)] } : State).fseqSeen = some 0
    ∧ ((switch []).setRbit (rFabPort 31) 60 true).quar 31 = true
    ∧ Tab.get 0 31 ({ switch [] with quiet := [(31, 9)] } : State).quiet = 9
    ∧ 10 ≤ Tab.get 0 31 ({ switch [] with violNow := [(31, 10)] } : State).violNow :=
  ⟨⟨by decide +kernel, by decide +kernel, by decide +kernel, by decide +kernel, by decide, by decide,
      fun d h => frm_rx _ (by rfl) (by rfl) (by rfl) (by rfl), by decide +kernel, by decide +kernel, by decide +kernel, by decide +kernel, by decide⟩,
    fun _ => rfl, by decide +kernel, by decide +kernel, fun k => by unfold Packet.pick; simp [nth, Nat.mod_one], by decide +kernel, by decide +kernel,
    pkt_closed, by decide, by decide +kernel, by decide, by decide⟩

/-- The key of requests between package 5's I/O die 0 and compute die 0. -/
def skey : StreamKey := ⟨5, 0, 1, 0⟩

/-- A route to package 5, and streams at I/O die 0. -/
def streams (tx : Option TxStream) (rx : Option RxStream) : State :=
  let s := State.reset.setRbit (rFab (0x10000 + 8 * 5)) 31 true
  { s with fabTx := [(streamNo 0 skey, tx)].filter fun p => p.2.isSome, fabRx := [(streamNo 0 skey, rx)].filter fun p => p.2.isSome }

/-- FabricStreams: a packet without a route and with one, packets that arrive for each outcome, ACK and NACK, a stream with one packet sent,
a receive stream with something to acknowledge. -/
theorem witness_FabricStreams :
    State.reset.hasIo 0 = true ∧ State.reset.noRoute 5 = some 2
    ∧ (let k := pkt 5 0 1 1; sequenced k = true ∧ k.len ≤ 4096 ∧ k.payload.length = k.len)
    ∧ (let s := streams (some ⟨true, true, 7, [], []⟩) none
       s.noRoute 5 = none ∧ s.pwrFail = false ∧ Tab.get none (streamNo 0 skey) s.fabTx = some ⟨true, true, 7, [], []⟩ ∧ 0 < s.window 1)
    ∧ (let k := pkt 0 5 1 1; k.dst = State.reset.self ∧ k.src ≠ State.reset.self ∧ sequenced k = true
       ∧ Tab.get none (streamNo 0 ⟨k.src, k.srcIo, k.pclass, k.dstIo⟩) State.reset.fabRx = none ∧ k.syn = false ∧ State.reset.rxLive 0 < 8192
       ∧ State.reset.engineRoom 0 k = true)
    ∧ (let s := streams none (some ⟨7, [], 14⟩)
       Tab.get none (streamNo 0 skey) s.fabRx = some ⟨7, [], 14⟩ ∧ s.engineRoom 0 (pkt 0 5 1 1) = true ∧ 0 < seqDist 70 7 ∧ seqDist 70 7 < 64
       ∧ 2 ^ 31 ≤ seqDist 6 7)
    ∧ (let body : BitVec 128 := 7 <<< 96 ||| 2 <<< 88 ||| 1 <<< 85 ||| 1 <<< 29
       let x : TxStream := ⟨true, false, 8, [⟨{ pkt 5 0 1 1 with seq := 7 }, 8, false, .none⟩], []⟩
       Tab.get none (streamNo 0 ⟨5, 0, fld body 29 3, 0⟩) (streams (some x) none).fabTx = some x ∧ seqDist x.next (bits body 96 32) ≤ 64
       ∧ fld body 88 8 = 2 ∧ fld body 85 3 = fld body 29 3 ∧ (∃ y ∈ x.sent, y.k.seq = bits body 96 32) ∧ fld ((1 : BitVec 128) <<< 88) 88 8 = 1)
    ∧ (let s := State.reset; 0 < Nat.max 1 (s.rf (rFab 0x18) 32 8) ∧ Nat.max 1 (s.rf (rFab 0x18) 32 8) ≤ 8)
    ∧ Tab.put none (streamNo 0 skey) none (streams (some ⟨true, true, 7, [], []⟩) none).fabTx = [] := by
  refine ⟨?_, ?_, ?_, ?_, ?_, ?_, ?_, ?_, ?_⟩ <;> decide +kernel

/-- A Roseb request for core 0's store: op, address offset, length. -/
def req (op off len : Nat) : Packet :=
  { pkt 0 5 1 1 with len := if op = 1 then len else 0, body := BitVec.ofNat 128 (op * 2 ^ 122 + len * 2 ^ 51 + storeAddr 0 off) }

/-- A request at the home of I/O die 0 whose lines are left to apply. -/
def asks (op off len : Nat) (lines : List Nat) : HomeReq := ⟨0, req op off len, lines, [], 0, false, [], false, 0⟩

/-- A line of core 0's store. -/
def line0 : Nat := storeAddr 0 0 / 64

/-- RemoteHome: requests of each kind, one of another epoch, a repeated one, the oldest request and a later one, Midnight, a trigger and a
message with room, and one that its queue does not take. -/
theorem witness_RemoteHome :
    (State.reset.hasIo 0 = true ∧ State.reset.homeRoom 0 = true ∧ State.reset.midnight = false
      ∧ (∀ op ∈ [0, 1, 0x10, 0x1A], let k := req op 0 8; qOp k = op ∧ (op = 0 ∨ op = 1 ∨ isAtomic op = true) ∧ fld k.body 80 16 = 0
          ∧ bit k.body 118 = false ∧ linesOf (qAddr k) (qLen k) ≠ [])
      ∧ (let k := { req 1 0 8 with body := (req 1 0 8).body ||| 1 <<< 80 ||| 1 <<< 118 }
         fld k.body 80 16 ≠ 0 ∧ fld k.body 80 16 ≠ State.reset.epoch ∧ bit k.body 118 = true ∧ qOp k ≠ 0
         ∧ ([(⟨0, 5, 0, 0, 0, pkt 5 0 2 2⟩ : Reply)].find? fun r => r.io == 0 && r.fid == k.src && r.srcIo == k.srcIo && r.unit == k.dstIo && r.rid == qRid k)
             = some ⟨0, 5, 0, 0, 0, pkt 5 0 2 2⟩))
    ∧ (∀ h ∈ [asks 0 0 8 [line0], asks 1 0 8 [line0], asks 0x10 0 8 [line0], asks 0 0 128 [line0, line0 + 1]],
        let s := { State.reset with homeQ := [h] }
        (s.homeQ.filter fun h => h.io == 0 && hasNat h.lines line0) = [h] ∧ (s.homeQ.find? fun h => h.io == 0) = some h
        ∧ s.homeHole (storeAddr 0 0) = false ∧ s.poisoned (storeAddr 0 0) = false ∧ Nat.max (qAddr h.k) (64 * line0) = qAddr h.k)
    ∧ (let s := { State.reset with homeQ := [asks 0 64 8 [line0 + 1], asks 0 0 8 [line0]] }
       (s.homeQ.filter fun h => h.io == 0 && hasNat h.lines line0) = [asks 0 0 8 [line0]]
       ∧ (s.homeQ.find? fun h => h.io == 0) = some (asks 0 64 8 [line0 + 1]) ∧ asks 0 64 8 [line0 + 1] ≠ asks 0 0 8 [line0])
    ∧ (State.reset.setRf (rPwr 0x18) 30 2 3).midnight = true
    ∧ (State.reset.hasCore (fld ((63 : BitVec 128) <<< 122) 122 6) = true
      ∧ (({ State.reset with grade := .msn2216 } : State).hasCore (fld ((63 : BitVec 128) <<< 122) 122 6) = false))
    ∧ (let s := (State.reset.setRbit (rMq 0xEF 8) 31 true).setRf (rMq 0xEF 8) 11 5 1
       s.rbit (rMq 0xEF 8) 31 = true ∧ 64 + 0 ≤ 64 * 2 ^ s.rf (rMq 0xEF 8) 16 3 ∧ s.rbit (rMq 0xEF 8) 30 = false
       ∧ (s.rf (rMq 0xEF 0x10) 0 32 + 2 ^ 32 - s.rf (rMq 0xEF 0x18) 0 32) % 2 ^ 32 < s.mqSlots 0xEF ∧ 64 * 2 ^ s.rf (rMq 0xEF 8) 16 3 < 64 + 1)
    ∧ State.reset.rbit (rMq 0xEF 8) 31 = false ∧ State.reset.hasDie 3 = true := by
  refine ⟨?_, ?_, ?_, ?_, ?_, ?_, ?_, ?_⟩ <;> decide +kernel

/-- A request of I/O die 0 for package 5, sent and acknowledged. -/
def rq (op reissues : Nat) (cl : RClient) : RsbReq := ⟨0, 5, 0, 0, 0, 1, op, false, 0, storeAddr 0 0, 8, [], 7, true, true, reissues, cl⟩

/-- RemoteRequester: one request of each client in flight, replies that match it and one that does not, and reissues left and spent. -/
theorem witness_RemoteRequester :
    (let k := { pkt 0 5 2 2 with body := 7 <<< 96 }
     State.reset.asked 0 k = none
     ∧ (∀ q ∈ [rq 0x20 0 .none, rq 1 0 .none, rq 1 0 (.cx 0 3), rq 0 0 (.cx 0 3)], let s := { State.reset with rsbOut := [q] }
        s.asked 0 k = some q ∧ s.rsbOut.erase q = [])
     ∧ fld k.body 114 8 = 0 ∧ fld ((0x52 : BitVec 128) <<< 114) 114 8 = 0x52)
    ∧ (let j : RldJob := ⟨0, 3, 0, storeAddr 0 0, 8, 8, [], false, [], [], false⟩
       ({ State.reset with rldJobs := [j] } : State).rldJobs = [j] ∧ j.core = 0 ∧ j.seq = 3 ∧ j.install = false ∧ j.bad = false)
    ∧ (let s := State.reset.setRf (rRsb 0 0) 0 3 1; (rq 1 0 .none).reissues < s.rf (rRsb 0 0) 0 3 ∧ s.rf (rRsb 0 0) 0 3 ≤ (rq 1 1 .none).reissues)
    ∧ (rq 1 0 .none).fid ≠ State.reset.self := by
  refine ⟨?_, ?_, ?_, ?_⟩ <;> decide +kernel

/-- A group of the one-core nodes of dies 0 and 1, whose table starts core 0's store, and an operation of it. -/
def pair (feed : Bool) : ColGrp := ⟨storeAddr 0 0, 2, 1, 1, false, true, feed, 1, 5, [⟨0, 0, 1⟩, ⟨0, 1, 1⟩]⟩
def opRun (op : ColOp) (count : Nat) (since : W64) (joins : List ColJoin) (rx : List ColRx) (tx : List (Nat × Nat)) (peers : List ColPeer) :
    ColRun :=
  ⟨0, op, 0, count, 0, false, true, 1 + 4, 4, since, joins, rx, tx, peers, [], 0⟩

/-- Group 3 in a state, with its engine READY and its node at die 0 as given. -/
def col (st : Nat) (y : ColSite) : State :=
  let s := (State.reset.setGrp 3 st).setRf (rEng 0 0) 30 2 1
  { s with colGrps := [(3, some (pair true))], colSites := [(12, y)] }

/-- An operation in progress there. -/
def going (r : ColRun) : State := col 2 { ColSite.reset with run := some r }

/-- Core 0's instruction, and its part in the operation, with one element contributed. -/
def colE (op : ColOp) (count : BitVec 32) : QEntry := en' (.col op ⟨3, 0, 2, 2, sy, 0, 0, count⟩) 14
def joined (op : ColOp) (count : BitVec 32) (done : Bool) : ColJoin := ⟨0, colE op count, [(0, some 0)], [], done⟩

/-- CollectiveGroups (a group of more than 65,536 members is with `witness_CollectiveGroups_members`): each state of a
group, a table of a node without cores, of one of this package and of one of another, an operation of no elements and of one that waits, one that waits for slots, and one timed out. -/
theorem witness_CollectiveGroups :
    (∀ st, st < 4 → (col st ColSite.reset).grpState 3 = st)
    ∧ (let grp : ColGrp := { pair true with nx := 1, nodes := [] }
       let s := { col 1 ColSite.reset with colGrps := [(3, some grp)] }
       let w (t : State) : W64 := BitVec.ofNat 64 (t.readN grp.base 8)
       Tab.get none 3 s.colGrps = some grp ∧ grp.nx * grp.ny * grp.nz = 1 ∧ blocksOf grp.base 8 = [(storeAddr 0 0 / 4096, 8)]
       ∧ region (storeAddr 0 0) = .store 0 0 ∧ s.poisoned (storeAddr 0 0) = false
       ∧ bits (w s) 32 16 = (0 : BitVec 16)
       ∧ (∀ fid ∈ [0, 5], let t := s.poke grp.base (toBytes 8 (2 ^ 32 + fid))
          bits (w t) 32 16 = (1 : BitVec 16) ∧ bits (w t) 0 16 = BitVec.ofNat 16 fid ∧ fld (w t) 16 2 = 0 ∧ t.poisoned grp.base = false)
       ∧ s.hasDie 0 = true ∧ repeats [⟨0, 0, 1⟩] = false ∧ ({ grp with nodes := [⟨0, 0, 1⟩] } : ColGrp).n ≤ 65536
       ∧ ∀ d < 4, (s.site 3 d).waiting = [])
    ∧ ({ pair true with nx := 0 } : ColGrp).nx * 1 * 1 = 0
    ∧ (∀ n ∈ [0, 1], let count := BitVec.ofNat 32 n; let e := colE .allreduce count
       let s := col 2 { ColSite.reset with waiting := [(0, e)] }
       s.grpState 3 = 2 ∧ (s.site 3 0).waiting = [(0, e)] ∧ (s.site 3 0).run = none ∧ e.col? = some (.allreduce, ⟨3, 0, 2, 2, sy, 0, 0, count⟩)
       ∧ (pair false).nodeAt s.self 0 = some 0 ∧ (pair false).feed = false
       ∧ (e.td 2).elemAddr 0 = some (storeAddr 0 0x8000) ∧ cellBytes (e.td 2).format = 4
       ∧ (∀ x ∈ [0, 1, 2, 3], s.populated (storeAddr 0 0x8000 + x) = true ∧ s.poisoned (4096 * ((storeAddr 0 0x8000 + x) / 4096)) = false
          ∧ region (4096 * ((storeAddr 0 0x8000 + x) / 4096)) = .store 0 0x8000))
    ∧ (let r := { opRun .allreduce 0 (0 - 1000000) [joined .allreduce 0 false] [] [] [] with reserved := 0 }
       let s := { going r with colWait := [12] }
       (s.site 3 0).run = some r ∧ (pair true).nodeAt s.self 0 = some 0 ∧ s.colWait = [12] ∧ (s.site 3 0).early = []
       ∧ s.slotsUsed (s.engOf 0) + (senders (⟨pair true, r, 0⟩ : ColCtx).legs).length * r.win ≤ 12288
       ∧ (pair true).timeout * 1000000 ≤ (s.time - r.since).toNat ∧ r.joins = [joined .allreduce 0 false] ∧ r.count = 0)
    ∧ ((going (opRun .allreduce 0 0 [] [] [] [])).time - 0).toNat < (pair true).timeout * 1000000 := by
  refine ⟨?_, ?_, ?_, ?_, ?_, ?_⟩ <;> decide +kernel

/-- A chunk of node 1 for node 0: subtype, opseq, slot, payload, its check. -/
def chunk (sub opseq slot : Nat) (data : Bytes) (check : Nat) : Packet :=
  { pkt 0 0 5 4 with srcIo := 1, len := data.length, payload := data,
                     body := BitVec.ofNat 128 (sub * 2 ^ 125 + 3 * 2 ^ 121 + slot * 2 ^ 109 + 5 * 2 ^ 97 + opseq * 2 ^ 64 + check) }

/-- A chain of a drain to group 3 in FP32, and a run of core 0 with one row that waits to be handed to it. -/
def drained (n : Nat) : MxRun :=
  ⟨⟨0, 0, .mx .quad (mxf 2), [], (descs 14).td, [(1, chain 15 ||| BitVec.ofNat 1024 (3 * 2 ^ 232 + 2 ^ 231))], false⟩, 1, 1, [[7]], n, 0, .none, []⟩

/-- CollectiveChunks: chunks beyond the window, stale, early, broken and right; a grant and a re-request of one in flight; the next chunk and
whose turn it is; members that end for each reason; a drained row refused, waiting and taken. -/
theorem witness_CollectiveChunks :
    (let r := opRun .allreduce 1 0 [joined .allreduce 1 false] [] [] [⟨1, 1, [⟨0, 0, 1, 0, []⟩]⟩]
     let s := going r
     let x : ColCtx := ⟨pair true, r, 0⟩
     let ok := chunk 0 0 0 [0, 0, 0, 0] 0
     Tab.get none 3 s.colGrps = some (pair true) ∧ s.grpState 3 = 2 ∧ (s.site 3 0).run = some r ∧ (pair true).nodeAt s.self 0 = some 0
     ∧ ok.kind = 5 ∧ ok.dstIo = 0 ∧ kGrp ok = 3 ∧ kTag ok = (pair true).tag ∧ kStage ok ≠ 3 ∧ s.sendersOf (pair true) ok = [1]
     ∧ hasNat (senders x.legs) 1 = true ∧ kSlot ok < r.win ∧ r.win ≤ kSlot (chunk 0 0 4 [] 0)
     ∧ 128 ≤ (kOpseq (chunk 0 200 0 [] 0) + 256 - (s.site 3 0).opseq) % 256 ∧ kOpseq (chunk 0 1 0 [] 0) = 1 ∧ kSub (chunk 3 0 0 [] 0) = 3
     ∧ crc64 [] ≠ bits (chunk 0 0 0 [] 1).body 0 64 ∧ crc64 (ok.payload.take ok.len) = bits ok.body 0 64
     ∧ x.legFor x.legs [1] (kStage ok) (kIndex ok) = some (0, ⟨false, 1, 0, 0, 1⟩)
     ∧ ok.payload.length = (x.chunkRange ⟨false, 1, 0, 0, 1⟩ 0).2 - (x.chunkRange ⟨false, 1, 0, 0, 1⟩ 0).1
     ∧ kSub (chunk 1 0 0 [] 0) = 1 ∧ kSub (chunk 2 0 0 [] 0) = 2)
    ∧ (let r := opRun .broadcast 1 0 [joined .broadcast 1 false] [] [] []
       let s := going r
       let x : ColCtx := ⟨pair true, r, 0⟩
       let t := { s with colGrps := [(3, some (pair true)), (4, some (pair true))], colTurn := [(64 * 0 + s.colPort 0 x 3 1, 4)],
                         colSites := [(12, { ColSite.reset with run := some r }), (16, { ColSite.reset with run := some r })] }
       s.pwrFail = false ∧ s.engReady 0 = true ∧ (x.nextChunk x.legs).isSome = true ∧ s.colTurnOf 0 3 (s.colPort 0 x 3 1) = true
       ∧ (t.setGrp 4 2).colTurnOf 0 3 (s.colPort 0 x 3 1) = false)
    ∧ (let j := joined .broadcast 1 false
       let r := opRun .broadcast 1 0 [j] [] [(0, 0)] [⟨1, 1, []⟩]
       let x : ColCtx := ⟨pair true, r, 0⟩
       r.joins.find? (fun j => j.core == 0 && !j.done) = some j ∧ x.takes 0 = [] ∧ x.granted x.legs = true
       ∧ ((going r).colDeliver x x.legs j).isSome = true)
    ∧ (let j := joined .allreduce 1 false
       let r := opRun .allreduce 1 0 [j] [⟨0, 0, [0, 0, 0, 0]⟩] [(1, 0)] [⟨1, 1, []⟩]
       let x : ColCtx := ⟨pair true, r, 0⟩
       x.takes 0 ≠ [] ∧ x.settled x.legs = true ∧ x.parts.isSome = true ∧ ((going r).colDeliver x x.legs j).isSome = true)
    ∧ (let j := joined .barrier 0 false
       let r := opRun .barrier 0 0 [j] [⟨0, 0, []⟩] [] []
       let x : ColCtx := ⟨pair true, r, 0⟩
       r.joins.find? (fun j => j.core == 0 && !j.done) = some j ∧ j.entry.col?.isSome = true ∧ x.parts.isSome = true
       ∧ x.arrivedBefore x.legs x.legs.length = true)
    ∧ (let j := joined .broadcast 1 true
       let r := opRun .broadcast 1 0 [j] [] [(0, 0)] [⟨1, 1, []⟩]
       let x : ColCtx := ⟨pair true, r, 0⟩
       r.joins.find? (fun j => j.core == 0 && !j.done) = none ∧ x.parts = some [j] ∧ j.done = true ∧ x.settled x.legs = true)
    ∧ (∀ n, n < 2 → let mr := drained n
       let r := opRun .allreduce 1 0 [joined .allreduce 1 false] [] [] []
       let s := (going r).setCore 0 { blank with mxRuns := [mr], drainQ := [0] }
       let ch := mr.entry.chain (mxf 2)
       (s.core 0).drainHead = some mr ∧ mr.waiting = [[7]] ∧ fld (ch.stage (ch.nstages - 1)) 104 4 = 3 ∧ mr.drained = n
       ∧ s.drainRefused 0 3 ch.outFmt = false ∧ (pair false).feed = false ∧ r.reserved ≠ 0
       ∧ r.op = (if bit (ch.stage (ch.nstages - 1)) 103 then ColOp.allreduce else .reducescatter))
    ∧ (let j : ColJoin := ⟨0, colE .allreduce 1, [], [], false⟩
       let s := col 2 { ColSite.reset with run := some (opRun .allreduce 1 0 [j] [] [] []), drains := [⟨0, 0, 0, [7]⟩] }
       (s.site 3 0).drains = [⟨0, 0, 0, [7]⟩] ∧ 0 < (j.entry.td 2).e1 ∧ 0 < (j.entry.td 2).e0 ∧ Tab.get none 0 j.got = none) := by
  refine ⟨?_, ?_, ?_, ?_, ?_, ?_, ?_, ?_⟩ <;> decide +kernel

/-- The part with the Crown in a state, and with a host command in the mailbox. -/
def crowned (n : Nat) : State := State.reset.setRf (rCrn 0) 29 3 n
def host (cmd : Nat) : State := ((crowned 2).setRbit hostCtrl 0 true).setReg (hostData 0) (BitVec.ofNat 64 cmd)

/-- PowerControl: a boundary in mode 0, and one that leaves Midnight; an Escapement armed and one that stretches; Midnight asked for, with
nothing in flight and with a core that runs. -/
theorem witness_PowerControl :
    (let s := crowned 2; s.vin = true ∧ s.crown = 2 ∧ s.pwrFail = false ∧ s.off = false ∧ s.powerMode ≠ 3 ∧ s.hasDie 3 = true ∧ s.armed 3 = true)
    ∧ (let s := (crowned 2).setRf (rPwr 0x18) 30 2 3; s.powerMode = 3 ∧ s.rf (rPwr 0) 0 2 ≠ 3)
    ∧ (let s := { crowned 2 with stretch := [3] }; 3 ∈ s.stretch ∧ s.armed 3 = false)
    ∧ fld ((3 : BitVec 32).setWidth 64 : W64) 0 2 = 3 ∧ ((crowned 2).setRbit (rThm 0) 31 true).tripped = true
    ∧ (let s := (crowned 2).setRbit (rPwr 0x18) 29 true
       s.rbit (rPwr 0x18) 29 = true ∧ s.quiet' = true ∧ s.fan = [] ∧ (s.setCore 0 { blank with run := .running }).quiet' = false) := by
  refine ⟨?_, ?_, ?_, ?_, ?_, ?_⟩ <;> decide +kernel

/-- Temperatures: an I/O die and stack 31 at their trip thresholds and 1 below, a diode within 10 °C, at 1201, a Crown that runs and one that
does not, inlets at both ends. -/
theorem witness_Temperatures :
    (State.reset.vin = true ∧ State.reset.off = false ∧ State.reset.hasTDie 7 = true ∧ State.reset.tripped = false
      ∧ (State.reset.setRbit (rThm 0) 31 true).tripped = true)
    ∧ (let s := ((crowned 2).setRf (rThm 0x10) 8 8 110).setRf (rThm 0x10) 24 8 113
       s.crown = 2 ∧ s.thermalUp = true ∧ State.reset.thermalUp = false
       ∧ (∃ n < nodesOf 7, 8 * Nat.min 110 (fld (s.reg (rThm 0x10)) 8 8) ≤ nth 0 [880] n + s.margin 7 n)
       ∧ ∀ n < nodesOf 0, nth 0 [] n + s.margin 0 n < 8 * Nat.min 113 (fld (s.reg (rThm 0x10)) 24 8))
    ∧ (let s := State.reset
       (∃ i < nodesOf 7, (Tab.get Diode.reset (64 * 7 + i) s.therm.diodes).broken = false ∧ (nth 0 ([80, 1201] : List Int) i - (s.node 7 i : Int)).natAbs ≤ 80)
       ∧ (Tab.get Diode.reset (64 * 7 + 1) s.therm.diodes).broken = false ∧ (Tab.get Diode.reset (64 * 7) s.therm.diodes).last = none)
    ∧ ((crowned 2).crownUp = true ∧ State.reset.crownUp = false ∧ (crowned 2).rbit (rThm 0x300) 20 = false ∧ (crowned 2).rbit (rThm 0x300) 19 = false)
    ∧ (let s := (crowned 2).setRf (rThm 0x18) 8 8 105
       s.hasStack 31 = true ∧ 8 * Nat.min 105 (fld (s.reg (rThm 0x18)) 8 8) = 840 ∧ 840 ≤ Nat.max (8 * 105) 0 ∧ Nat.max (8 * 104) 839 < 840) := by
  refine ⟨?_, ?_, ?_, ?_, ?_⟩ <;> decide +kernel

/-- EventsAndMailboxes: nothing pending and source 1023 pending on line 9, a first and a third watchdog restart, the mailbox of core 63. -/
theorem witness_EventsAndMailboxes :
    (∀ m ∈ List.range 16, State.reset.reg (rEvc (0x2000 + 8 * m)) = 0)
    ∧ (let s := (((State.reset.setRbit (rEvc (8 * 1023)) 31 true).setRf (rEvc (8 * 1023)) 20 4 9).setRf (rEvc (8 * 1023)) 24 3 7).setPend 1023 true
       s.evcPend 1023 = true ∧ s.rbit (rEvc (8 * 1023)) 31 = true ∧ s.rf (rEvc (8 * 1023)) 20 4 = 9
       ∧ s.rf (rEvc (0x3080 + 8 * 9)) 0 3 ≤ s.rf (rEvc (8 * 1023)) 24 3)
    ∧ (∀ l ∈ [[], [0, 0]], let s := { crowned 2 with wdTimes := l }
       s.crown = 2 ∧ (s.time.toNat :: s.wdTimes.filter fun x => s.time.toNat < x + 10000000000).length = 1 + l.length)
    ∧ State.reset.hasCore 63 = true := by
  refine ⟨?_, ?_, ?_, ?_⟩ <;> decide +kernel

/-- HostAccesses: offsets with no register, of one in two halves, of one written whole; BAR2 over a block that holds, over one that is
poisoned and over a core store. -/
theorem witness_HostAccesses :
    (¬ (2 = 8 ∧ 0 % 8 = 0) ∧ ¬ (2 = 4 ∧ 0 % 4 = 0) ∧ regShape (0x3FFFFF8 / 8 * 8) = none)
    ∧ ((regShape (rCrn 0x200)).any (fun h => h.wide && h.writable &&& ~~~ m32 != 0) = true ∧ State.reset.mountedReg (rCrn 0x200) = true
      ∧ Tab.get none (rCrn 0x200) State.reset.heldLo = none ∧ Tab.get none (rCrn 0x200) State.reset.capHi = none
      ∧ Tab.get none 8 ({ State.reset with heldLo := [(8, some 1)] } : State).heldLo = some 1
      ∧ Tab.get none 8 ({ State.reset with capHi := [(8, some 1)] } : State).capHi = some 1)
    ∧ ((regShape 0x400008).isSome = true ∧ State.reset.mountedReg 0x400008 = true)
    ∧ (State.reset.vin = true ∧ State.reset.porst = false ∧ State.reset.perst = false ∧ State.reset.crown < 2 ∧ 2 ≤ (crowned 2).crown)
    ∧ (State.reset.rf (rCrn 0x200) 30 13 = 0 ∧ (∀ i ∈ List.range 64, State.reset.poisoned i = false)
      ∧ (State.reset.setChk 0 0xFFFFFFFFFFFFFFFF).poisoned 0 = true
      ∧ (State.reset.setRf (rCrn 0x200) 30 13 4096).rf (rCrn 0x200) 30 13 * 2 ^ 30 + 0 = storeAddr 0 0) := by
  refine ⟨?_, ?_, ?_, ?_, ?_⟩ <;> decide +kernel

/-- A job of a kind for core 63, of one program word and one signal. -/
def job (kind : Nat) : Job := ⟨BitVec.ofNat 512 (kind * 2 ^ 280 + 2 ^ 256 + 2 ^ 240 + 2 ^ 127), false, [], none⟩

/-- Jobs: each command of the mailbox, queue 3 with one entry, jobs that have cores and that have none, a wait whose core runs and whose core
has faulted, and jobs that have ended. -/
theorem witness_Jobs :
    (State.reset.crownUp = false ∧ (host 1).crownUp = true ∧ (host 1).hostCmd = some 1 ∧ (host 0xFFFF).hostCmd = some 0xFFFF
      ∧ 0xFFFF ∉ [0x01, 0x10, 0x11, 0x20, 0x21, 0x30, 0x31, 0x40, 0x41, 0x50, 0x51, 0x52, 0x53, 0x60] ∧ (crowned 2).hostCmd = none)
    ∧ (let s := ((crowned 2).setRbit (jqCtrl 3) 31 true).setRf (jqTail 3) 0 32 1
       (∀ q < 4, s.jqLevel q ≤ s.jqSize q) ∧ s.jqLast = 3 ∧ s.jqReady 3 = true ∧ ∀ q < 3, s.jqReady q = false)
    ∧ (∀ kind ∈ List.range 9, let s := (crowned 2).setJob 3 (some (job kind))
       s.job 3 = some (job kind) ∧ fld (job kind).w 280 8 = kind ∧ ((List.range 64).filter fun c => bit (job kind).w (64 + c) && s.hasCore c) = [63]
       ∧ fld (job kind).w 240 15 ≠ 0 ∧ fld (job kind).w 256 16 ≠ 0 ∧ fld (job kind).w 192 32 = 0)
    ∧ (∀ c < 64, bit (0 : BitVec 512) (64 + c) = false)
    ∧ fld ((1 : BitVec 512) <<< 192) 192 32 ≠ 0
    ∧ (∀ r ∈ [RunState.running, .faulted, .stopped], ((crowned 2).setCore 63 { blank with run := r }).core 63 = { blank with run := r })
    ∧ (let j := { job 1 with acted := true }
       ((crowned 2).setJob 3 (some j)).jobResult j = some (0, 0) ∧ { j with result := some (1, 0) }.result ≠ none
       ∧ (((crowned 2).setCore 63 { blank with load := some ⟨0, 1, 0⟩ }).core 63).load ≠ none ∧ (crowned 2).rf (progLoad 63) 32 4 = 0) := by
  refine ⟨?_, ?_, ?_, ?_, ?_, ?_, ?_⟩ <;> decide +kernel

/-- An image, or a container of a kind, that R431 to R433 accept. -/
def image (kind length : Nat) : Image := ⟨0x44544E31, 1, kind, 5, 1, length, 0, true, some 3, true, true, []⟩

/-- Dawn: before Dawn and after it, PWRFAIL latched, a reset with its key, flash empty and with an image in slot 1 alone. -/
theorem witness_Dawn :
    (State.reset.vin = true ∧ State.reset.bootStage = 0 ∧ State.reset.pwrFail = false ∧ (State.reset.setRf (rBoot 0x10) 61 3 4).bootStage = 4
      ∧ State.reset.update = none ∧ State.reset.fan = [])
    ∧ (fld (0x0D1A0001 : BitVec 32) 16 16 = 0x0D1A ∧ bit (0x0D1A0001 : BitVec 32) 0 = true ∧ State.reset.porst = false ∧ State.reset.tripped = false)
    ∧ (State.reset.latest.imgSlot = 0 ∧ State.reset.latest.imgTrial = false ∧ (∀ n ∈ [0, 1], State.reset.slotImage n = none)
      ∧ (let s := { State.reset with flash := [(1, some (image 1 0))] }; s.slotImage 0 = none ∧ s.slotImage 1 = some (image 1 0)))
    ∧ (crowned 3).crown = 3 ∧ 2 ≤ (crowned 2).crown := by
  refine ⟨?_, ?_, ?_, ?_, ?_⟩ <;> decide +kernel

/-- Trust: an image that is good, and one that fails at each check; an update that ends; a trial; owner requests for the first key, a
further one, the last one, with and without the nonce. -/
theorem witness_Trust :
    (let s := (host 0x10).setReg (hostData 2) 0xFFFFFFFF
     let i := image 1 0
     s.crownUp = true ∧ s.hostCmd = some 0x10 ∧ s.update = none ∧ i.readOk = true ∧ 128 + i.length + 5376 ≤ 56 * 2 ^ 20
     ∧ 128 + i.length + 5376 ≤ (s.reg (hostData 2)).toNat ∧ bit s.otpGold (4 + 3) = true ∧ bit s.otpGold 3 = false ∧ ¬ i.svn < s.svnFloor
     ∧ { i with readOk := false }.readOk = false ∧ { i with fmtVer := 2 }.fmtVer ≠ 1 ∧ { i with sigOk := false }.sigOk ≠ true
     ∧ i.svn < ({ s with svnFloor := 6 } : State).svnFloor ∧ ({ s with update := some ⟨i, 1, 0⟩ } : State).update ≠ none
     ∧ (crowned 3).crown = 3 ∧ ((crowned 3).setRf (rBoot 0x108) 0 32 1).rf (rBoot 0x108) 0 32 ≠ 0)
    ∧ (let s := { crowned 2 with update := some ⟨image 1 0, 1, 0⟩ }; s.crownUp = true ∧ s.update = some ⟨image 1 0, 1, 0⟩ ∧ s.rbit hostCtrl 0 = false)
    ∧ (let s := { (host 0x11).setRbit (rBoot 0x10) 58 true with commits := [(0, some ⟨1, 1, 0, 0, true, 0, false⟩)] }
       s.crownUp = true ∧ s.hostCmd = some 0x11 ∧ s.latest.imgTrial = true ∧ s.rbit (rBoot 0x10) 58 = true ∧ (host 0x11).latest.imgTrial = false)
    ∧ (∀ cmd ∈ [0x20, 0x21, 0x30, 0x31], (host cmd).crownUp = true ∧ (host cmd).hostCmd = some cmd ∧ (crowned 2).hostCmd ≠ some cmd)
    ∧ (let s := { host 0x21 with nonce := some 9 }
       let two := { s with otpOwner := 0x30, ownerKeys := [(0, 7), (1, 8)] }
       let live (s : State) (k : Nat) : Prop := bit s.otpOwner (4 + k) = true ∧ bit s.otpOwner k = false
       s.nonce = some 9 ∧ fld s.otpOwner 4 4 = 0 ∧ (image 3 5440).length = 5440 ∧ (image 4 64).length = 64
       ∧ bit s.otpOwner (4 + 0) = false ∧ bit s.otpOwner 0 = false ∧ fld two.otpOwner 4 4 ≠ 0 ∧ live two 0 ∧ Tab.get 0 0 two.ownerKeys = 7
       ∧ bit two.otpOwner (4 + 0) = true ∧ ¬ (∀ k < 4, live two k ↔ k = 0) ∧ ∀ k < 4, live { two with otpOwner := 0x10 } k ↔ k = 0)
    ∧ (List.replicate 5376 (0 : Byte)).length = 5376 := by
  refine ⟨?_, ?_, ?_, ?_, ?_, List.length_replicate⟩ <;> decide +kernel

/-- Resilience: a die's third missed check, one that answers, a die dead already; one record and none in the backlog, records dropped; a drain
asked for, running and quiescent, with a core that still runs; the power good and not. -/
theorem witness_Resilience :
    (let s := { crowned 2 with dieMiss := [(3, 2)] }
     s.crownUp = true ∧ s.hasDie 3 = true ∧ 3 ≤ Tab.get 0 3 s.dieMiss + 1 ∧ 3 ∉ s.deadDies ∧ s.vsp.running = false
     ∧ 3 ∈ ({ s with deadDies := [3] } : State).deadDies)
    ∧ (let s := ((crowned 2).setRf (rD2d 4 0) 61 3 3).setRf (rD2d 0 0) 61 3 3; hasNat (s.reach [0]) 4 = true)
    ∧ (let r : JRec := ⟨0, 0, 0, 0, 0, 2, 4, []⟩
       let s := { State.reset with backlog := [r], jDropped := 1 }
       s.vin = true ∧ s.porst = false ∧ State.reset.backlog = [] ∧ s.backlog = [r] ∧ s.jDropped ≠ 0 ∧ State.reset.jDropped = 0)
    ∧ (∀ cmd ∈ [0x40, 0x41, 0x60], (host cmd).crownUp = true ∧ (host cmd).hostCmd = some cmd)
    ∧ (let s := { crowned 2 with drainRun := some 5 }
       s.drainRun = some 5 ∧ s.rbit hostCtrl 0 = false ∧ (∀ k < 64, (s.core k).run = .stopped) ∧ s.dma = [] ∧ (∀ g < 16, s.grpState g = 0)
       ∧ s.rsbOut = [] ∧ ((s.setCore 63 { blank with run := .running }).core 63).run ≠ .stopped ∧ State.reset.drainRun = none)
    ∧ (State.reset.pwrFail = false ∧ State.reset.porst = false ∧ State.reset.fan = [] ∧ ({ State.reset with porst := true } : State).porst = true) := by
  refine ⟨?_, ?_, ?_, ?_, ?_, ?_⟩ <;> decide +kernel

/-- One region of one block to one buddy, this package's hold slot 3 with room for one block. -/
def vsp (running : Bool) : Vsp :=
  { Vsp.reset with period := 2, buddies := [⟨0, 3, 0, 0, 0⟩], regions := [(7, 1)], pend := [7], running := running }

/-- Vespers: a configuration block that is good; a step due, not due, while one runs, and with Vespers off; blocks read well, poisoned, and
read once without matching their check; a full log; every answer of a hold slot; an apply that reads its one block. -/
theorem witness_Vespers :
    (let a := storeAddr 0 0
     let s := (((host 0x50).setReg (hostData 1) (BitVec.ofNat 64 a)).poke (a + 2) [1, 1]).poke (a + 72) (toBytes 8 4096)
     let t := s.setRbit hostCtrl 0 false
     s.crownUp = true ∧ s.hostCmd = some 0x50 ∧ s.vsp.running = false ∧ (s.reg (hostData 1)).toNat = a ∧ t.readN (a + 2) 1 = 1 ∧ t.readN (a + 3) 1 = 1
     ∧ t.readN (a + 64) 8 = 0 ∧ t.readN (a + 72) 8 = 4096 ∧ region 0 = .hbm 0 0 ∧ t.hasStack 0 = true ∧ 0 + 4096 ≤ usable
     ∧ fidDial (BitVec.ofNat 16 (t.readN (a + 8) 2)) = fidDial t.self ∧ (vsp true).running = true)
    ∧ (∀ cmd ∈ [0x51, 0x52, 0x53], (host cmd).crownUp = true ∧ (host cmd).hostCmd = some cmd)
    ∧ (∀ n ∈ [0, 1, 3, 4, 7, 8], ((host 0x51).setReg (hostData 1) (BitVec.ofNat 64 n)).reg (hostData 1) = BitVec.ofNat 64 n)
    ∧ ((vsp false).period ≠ 0 ∧ ((vsp false).count + 1) % (vsp false).period ≠ 0 ∧ (vsp false).carry = false
      ∧ ({ vsp false with count := 1 }.count + 1) % (vsp false).period = 0 ∧ State.reset.vsp.period = 0
      ∧ ((host 0x52).setRbit hostCtrl 0 false).rbit hostCtrl 0 = false)
    ∧ (let h := { Hold.reset with enable := true, src := 5, log := 8192, blocks := 1, isOpen := true }
       let s := { crowned 2 with vsp := vsp true, holds := [(3, h)] }
       s.vsp.running = true ∧ s.crownUp = true ∧ s.vsp.pend = [] ++ 7 :: [] ∧ blockDie 7 = 0 ∧ s.vsp.cap = []
       ∧ (s.verifyBlock 361 (4096 * 7)).2 = some true ∧ ((s.setChk 7 0xFFFFFFFFFFFFFFFF).verifyBlock 361 (4096 * 7)).2 = some false
       ∧ s.vsp.sequence[0]? = some 7 ∧ (s.logOf ⟨0, 3, 0, 0, 0⟩).2 = 1 ∧ (∀ b ∈ [({ fid := 0, slot := 3, stage := 3, sent := 1, waiting := 0 } : Buddy)], b.stage = 3)
       ∧ (∀ op ∈ [0x30, 0x31, 0x32], let k := { req op 0 0 with kind := 6, payload := List.replicate 8 0 ++ [3] }
          qOp k = op ∧ ofBytes ((k.payload.drop 8).take 1) = 3 ∧ (s.hold 3).enable = true ∧ (s.hold 3).src = k.src ∧ (s.hold 3).apply = none
          ∧ fld k.body 80 16 = 0 ∧ s.replies = [])
       ∧ (s.hold 2).enable = false)
    ∧ (∃ v, let s := (crowned 2).setChk 7 v; s.chkOf 7 ≠ 0 ∧ s.chkOf 7 ≠ 0xFFFFFFFFFFFFFFFF ∧ s.chkOf 7 ≠ sealOf ((crowned 2).read 28672 4096))
    ∧ (let h := { Hold.reset with log := 8192, blocks := 1, isOpen := true, apply := some (0, pkt 0 5 6 5) }
       let s := { State.reset with holds := [(3, h)] }
       (s.hold 3).apply = some (0, pkt 0 5 6 5) ∧ (State.reset.hold 3).apply = none ∧ (8192 + ceilDiv (8 * 1) 4096 * 4096 + 4096 * 0) % 4096 = 0) := by
  refine ⟨?_, ?_, ?_, ?_, ?_, ?_, ?_⟩
  rotate_left 5
  · have h1 : ((crowned 2).setChk 7 1).chkOf 7 = 1 := by decide +kernel
    have h2 : ((crowned 2).setChk 7 2).chkOf 7 = 2 := by decide +kernel
    generalize sealOf ((crowned 2).read 28672 4096) = x
    by_cases h : x = 1
    · exact ⟨2, by rw [h2]; decide, by rw [h2]; decide, by rw [h2, h]; decide⟩
    · exact ⟨1, by rw [h1]; decide, by rw [h1]; decide, by rw [h1]; exact fun e => h e.symm⟩
  all_goals decide +kernel

/-! ### A fan-out that an engine wants: 64 KiB of a broadcast that two packages wait for -/

/-- 2^14 elements of 0, as a member contributes them. -/
def zeros14 : Tab (Option Nat) := (List.range 16384).map fun e => (e, some 0)

/-- A broadcast of 2^14 FP32 elements by core 48 of package 0 to cores of packages 1 and 32, all its elements read. -/
def cast : ColCtx :=
  let e := colE .broadcast 16384
  ⟨{ pair false with nx := 3, nodes := [⟨0, 3, 1⟩, ⟨1, 0, 1⟩, ⟨32, 0, 1⟩] },
   { opRun .broadcast 16384 0 [⟨48, e, zeros14, [], false⟩] [] [] [] with whole := false }, 0⟩

def castLegs : List Leg := [⟨true, 2, 1, 0, 16384⟩, ⟨true, 1, 1, 0, 16384⟩]

/-- Ports 30 and 31, UP at full width towards packages 32 and 1, with the broadcast in group 3. -/
def caster : State :=
  let s := lit 3 0 7 { OPort.reset with pReach := true }
  let s := ((s.setRf (rPort 30 0) 61 3 3).setRf (rPort 30 0) 52 4 6).setRf (rPort 30 0) 28 16 0xFFFF
  let s := ((s.setRf (rFabPort 30) 61 3 3).setRbit (rPort 30 0) 57 true).setRbit (rPort 31 0) 57 true
  { s with oports := [(30, { OPort.reset with pReach := true }), (31, { OPort.reset with pReach := true })],
           colGrps := [(3, some cast.g)], colSites := [(15, { ColSite.reset with run := some cast.r })] }

theorem get_range_map {α : Type} (d v : α) (l : List Nat) (e : Nat) (h : e ∈ l) : Tab.get d e (l.map fun i => (i, v)) = v := by
  induction l with
  | nil => cases h
  | cons a l ih =>
    simp only [List.map_cons, Tab.get]
    split
    · rfl
    · next hn => exact ih (by rcases List.mem_cons.1 h with h | h; exact absurd h.symm hn; exact h)

theorem allSome_map {α β : Type} (f : α → Option β) (v : β) (l : List α) (h : ∀ x ∈ l, f x = some v) :
    allSome (l.map f) = some (l.map fun _ => v) := by
  induction l with
  | nil => rfl
  | cons a l ih =>
    have := ih fun x hx => h x (List.mem_cons_of_mem _ hx)
    simp only [allSome, List.map_cons, List.foldr_cons] at this ⊢
    rw [this, h a (List.mem_cons_self ..)]

theorem cast_record (i e : Nat) (h : e < 16384) : cast.record castLegs i 1 e = some (0, .none) := by
  have hj : (cast.r.joins.find? fun j => hasNat (⟨0, 3, 1⟩ : ColNode).cores j.core && cast.g.member 0 j.core == 0)
      = some ⟨48, colE .broadcast 16384, zeros14, [], false⟩ := rfl
  have hg : Tab.get none e zeros14 = some 0 := get_range_map _ _ _ _ (List.mem_range.2 h)
  have hc : cast.copied castLegs i e = some 0 := by
    unfold ColCtx.copied
    simp only [show cast.g.nodes[0]? = some (⟨0, 3, 1⟩ : ColNode) from rfl, show cast.me = 0 from rfl, show cast.r.op = .broadcast from rfl,
      show cast.r.root = 0 from rfl, if_true, hj, Option.bind_some, hg]
  unfold ColCtx.record
  rw [hc]; rfl

theorem cast_width : cast.recBits 1 = 32 := by decide +kernel

theorem cast_bytes (p : Nat) : cast.legBytes ⟨true, p, 1, 0, 16384⟩ = (0, 65536) := by
  simp only [ColCtx.legBytes, cast_width]; rfl

/-- The payload of chunk k. -/
def castBytes (k : Nat) : Bytes :=
  toBytes 4096 (((List.range 1024).map fun _ => ((0 : Nat), NumFlags.none)).zipIdx.foldl (fun n q => n + q.1.1 * 2 ^ (q.2 * 32)) 0
    / 2 ^ (8 * (4096 * k) - 8 * (4096 * k) / 32 * 32))

/-- It is formed, and the same on both legs. -/
theorem cast_payload (i p k : Nat) (h : k < 16) :
    cast.payload castLegs i ⟨true, p, 1, 0, 16384⟩ k = some (castBytes k) := by
  unfold ColCtx.payload
  have hr : cast.chunkRange ⟨true, p, 1, 0, 16384⟩ k = (4096 * k, 4096 * k + 4096) := by
    have : cast.legBytes ⟨true, p, 1, 0, 16384⟩ = (0, 65536) := cast_bytes p
    simp only [ColCtx.chunkRange, this]
    ext
    · exact Nat.max_eq_right (Nat.zero_le _)
    · exact Nat.min_eq_right (by omega)
  have hw : cast.recBits 1 = 32 := cast_width
  have hq : Nat.min 16384 (ceilDiv (8 * (4096 * k + 4096)) 32) - 8 * (4096 * k) / 32 = 1024 := by
    have : ceilDiv (8 * (4096 * k + 4096)) 32 = 1024 * k + 1024 := by unfold ceilDiv; omega
    rw [this, show Nat.min 16384 (1024 * k + 1024) = 1024 * k + 1024 from Nat.min_eq_right (by omega)]; omega
  simp only [show cast.barrier = false from rfl, show cast.r.whole = false from rfl, hr, hw, hq, Bool.false_eq_true, if_false, Bool.false_and]
  rw [allSome_map _ _ _ fun x hx => cast_record i _ (by have := List.mem_range.1 hx; omega), Option.map_some]
  simp only [castBytes, Nat.add_sub_cancel_left]

theorem cast_waits (n : Nat) (h : n = 1 ∨ n = 2) : cast.waitsFor castLegs n = (List.range 16).map fun k => (k, castBytes k) := by
  have hk (p : Nat) : cast.legChunks ⟨true, p, 1, 0, 16384⟩ = List.range 16 := by
    unfold ColCtx.legChunks; rw [cast_bytes, show cast.barrier = false from rfl]; rfl
  have ht : cast.r.tx = [] := rfl
  have hm (i p : Nat) : (List.range 16).filterMap (fun k =>
      (cast.payload castLegs i ⟨true, p, 1, 0, 16384⟩ k).map fun b => (k, b)) = (List.range 16).map fun k => (k, castBytes k) := by
    rw [← List.filterMap_eq_map]
    exact List.filterMap_congr fun k hk => by rw [cast_payload i p k (List.mem_range.1 hk)]; rfl
  rcases h with rfl | rfl
  · have hl : (castLegs.zipIdx.filter fun p => p.1.send && p.1.stage == 1 && p.1.peer == 1) = [(⟨true, 1, 1, 0, 16384⟩, 1)] := rfl
    simp only [ColCtx.waitsFor, hl, List.flatMap_cons, List.flatMap_nil, List.append_nil, hk, ht, List.any_nil, Bool.false_eq_true, if_false]
    exact hm 1 1
  · have hl : (castLegs.zipIdx.filter fun p => p.1.send && p.1.stage == 1 && p.1.peer == 2) = [(⟨true, 2, 1, 0, 16384⟩, 0)] := rfl
    simp only [ColCtx.waitsFor, hl, List.flatMap_cons, List.flatMap_nil, List.append_nil, hk, ht, List.any_nil, Bool.false_eq_true, if_false]
    exact hm 0 2

/-- OpticalRings: a fan-out that is wanted, with both ports ready for it. -/
theorem witness_OpticalRings_fan :
    (∀ p ∈ [31, 30], caster.portUp p = true ∧ caster.rbit (rPort p 0) 57 = true ∧ (caster.oport p).pReach = true ∧ caster.txMap p = 0xFF
      ∧ (caster.oport p).fanEnd = none)
    ∧ Tab.get none 3 caster.fan = none ∧ caster.fanWanted 3 3 31 30 = true := by
  refine ⟨by decide +kernel, by decide +kernel, ?_⟩
  have hc : caster.colCtx 3 3 = some cast := by
    have h1 : Tab.get none 3 caster.colGrps = some cast.g := rfl
    have h2 : (caster.site 3 3).run = some cast.r := rfl
    have h3 : cast.g.nodeAt caster.self 3 = some 0 := by decide +kernel
    unfold State.colCtx; rw [h1, h2]; simp only [h3]; rfl
  have hl : cast.legs = castLegs := by decide +kernel
  have hp : ((([2, 1] : List Nat).filter fun n => caster.colPort 3 cast 3 n == 31) = [1])
      ∧ (([2, 1] : List Nat).filter fun n => caster.colPort 3 cast 3 n == 30) = [2] := by decide +kernel
  have hd : ((castLegs.filter fun l => l.send && l.stage == 1).map (·.peer)).dedup = [2, 1] := by decide +kernel
  unfold State.fanWanted
  refine List.any_eq_true.2 ⟨3, by decide, ?_⟩
  simp only [hc, hl, hd, hp.1, hp.2, cast_waits 1 (.inl rfl), cast_waits 2 (.inr rfl), List.any_cons, List.any_nil, Bool.or_false]
  have hf : ((List.range 16).map fun k => (k, castBytes k)).filter (fun c => ((List.range 16).map fun k => (k, castBytes k)).any fun e => e == c)
      = (List.range 16).map fun k => (k, castBytes k) :=
    List.filter_eq_self.2 fun c hc => List.any_eq_true.2 ⟨c, hc, by simp⟩
  have hn : (((List.range 16).map fun k => (k, castBytes k)).map fun c => c.2.length) = (List.range 16).map fun _ => 4096 := by
    rw [List.map_map]; exact List.map_congr_left fun k _ => toBytes_length _ _
  rw [hf, hn]
  decide +kernel

/-! ### A group of more than 65,536 members -/

/-- The table of 4,097 nodes: node i is die 0 of package i, with all its 16 cores. -/
def crowdGrp : ColGrp := { pair false with nx := 17, ny := 241, nodes := [] }
def crowdByte (j : Nat) : Byte :=
  if j % 8 = 0 then BitVec.ofNat 8 (j / 8) else if j % 8 = 1 then BitVec.ofNat 8 (j / 8 / 256) else if j % 8 = 4 ∨ j % 8 = 5 then 0xFF else 0
def crowdMem : List Host.Cell :=
  (List.range 32776).filterMap fun j => if crowdByte j = 0 then none else some (storeAddr 0 0 + j, crowdByte j)
def crowd : State := { col 1 ColSite.reset with mem := crowdMem, colGrps := [(3, some crowdGrp)] }

theorem get_sparse (f : Nat → Byte) (a : Nat) (l : List Nat) (j : Nat) (h : j ∈ l ∨ f j = 0) :
    Tab.get 0 (a + j) (l.filterMap fun j => if f j = 0 then none else some (a + j, f j)) = f j := by
  induction l with
  | nil => rcases h with h | h; cases h; exact h.symm
  | cons i l ih =>
    rw [List.filterMap_cons]
    by_cases hi : f i = 0
    · rw [if_pos hi]
      exact ih (h.elim (fun h => (List.mem_cons.1 h).elim (fun e => .inr (e ▸ hi)) .inl) .inr)
    · rw [if_neg hi]
      by_cases hj : i = j
      · subst hj; exact if_pos rfl
      · refine (if_neg (by omega)).trans (ih (h.imp_left fun h => (List.mem_cons.1 h).elim (fun e => absurd e.symm hj) id))

theorem region_store (j : Nat) (h : j < 0x1800000) : region (storeAddr 0 0 + j) = .store 0 j := by
  have h1 : ¬ (storeAddr 0 0 + j < 0x40000000000) := by unfold storeAddr; omega
  have h2 : storeAddr 0 0 + j < 0x40080000000 := by unfold storeAddr; omega
  have h3 : storeAddr 0 0 + j - 0x40000000000 = j := by unfold storeAddr; omega
  have h4 : j % 0x2000000 = j := by omega
  have h5 : j / 0x2000000 = 0 := by omega
  simp only [region, h1, h2, h3, h4, h5, h, if_true, if_false]

theorem crowd_byte (j : Nat) (h : j < 32776) : crowd.byte (storeAddr 0 0 + j) = crowdByte j := by
  have hr := region_store j (by omega)
  have h1 : crowd.hasCore 0 = true := by decide +kernel
  have h2 : hasNat crowd.deadDies 0 = false := by decide +kernel
  have hl : crowd.live (storeAddr 0 0 + j) = true := by
    simp only [State.live, State.populated, State.dead, hr, h1, Nat.zero_div, h2, Bool.not_false, Bool.and_self]
  have hm : crowd.mem = crowdMem := by simp only [crowd]
  rw [State.byte, if_pos hl, hm, crowdMem]
  exact get_sparse crowdByte _ _ _ (.inl (List.mem_range.2 h))

theorem crowdByte_low (i : Nat) : crowdByte (8 * i) = BitVec.ofNat 8 i := by
  unfold crowdByte; rw [if_pos (by omega), show 8 * i / 8 = i by omega]

theorem crowdByte_high (i : Nat) : crowdByte (8 * i + 1) = BitVec.ofNat 8 (i / 256) := by
  unfold crowdByte; rw [if_neg (by omega), if_pos (by omega), show (8 * i + 1) / 8 = i by omega]

theorem crowdByte_mask (i k : Nat) (hk : k = 4 ∨ k = 5) : crowdByte (8 * i + k) = 0xFF := by
  unfold crowdByte; rw [if_neg (by omega), if_neg (by omega), if_pos (by omega)]

theorem crowdByte_zero (i k : Nat) (hk : k = 2 ∨ k = 3 ∨ k = 6 ∨ k = 7) : crowdByte (8 * i + k) = 0 := by
  unfold crowdByte; rw [if_neg (by omega), if_neg (by omega), if_neg (by omega)]

theorem read8 (s : State) (a : Nat) :
    s.read a 8 = [s.byte a, s.byte (a + 1), s.byte (a + 2), s.byte (a + 3), s.byte (a + 4), s.byte (a + 5), s.byte (a + 6), s.byte (a + 7)] := rfl

theorem crowd_entry (s : State) (a : Nat) (h : ∀ j, j < 32776 → s.byte (a + j) = crowdByte j) (i : Nat) (hi : i < 4097) :
    s.readN (a + 8 * i) 8 = i + 65535 * 2 ^ 32 := by
  have hb (k : Nat) (hk : k < 8) : s.byte (a + 8 * i + k) = crowdByte (8 * i + k) := by
    rw [Nat.add_assoc]; exact h _ (by omega)
  have h0 : s.byte (a + 8 * i) = BitVec.ofNat 8 i := (h (8 * i) (by omega)).trans (crowdByte_low i)
  have h1 := (hb 1 (by omega)).trans (crowdByte_high i)
  have h2 := (hb 2 (by omega)).trans (crowdByte_zero i 2 (by omega))
  have h3 := (hb 3 (by omega)).trans (crowdByte_zero i 3 (by omega))
  have h4 := (hb 4 (by omega)).trans (crowdByte_mask i 4 (by omega))
  have h5 := (hb 5 (by omega)).trans (crowdByte_mask i 5 (by omega))
  have h6 := (hb 6 (by omega)).trans (crowdByte_zero i 6 (by omega))
  have h7 := (hb 7 (by omega)).trans (crowdByte_zero i 7 (by omega))
  unfold State.readN
  rw [read8, h0, h1, h2, h3, h4, h5, h6, h7]
  have f0 : (0 : Byte).toNat = 0 := rfl
  have f1 : (0xFF : Byte).toNat = 255 := rfl
  simp only [ofBytes, BitVec.toNat_ofNat, f0, f1]
  omega

theorem crowd_node (i : Nat) (hi : i < 4097) (n : Nat) (hn : n = i + 65535 * 2 ^ 32) :
    (let w : BitVec 64 := BitVec.ofNat 64 n; (⟨bits w 0 16, fld w 16 2, bits w 32 16⟩ : ColNode)) = ⟨BitVec.ofNat 16 i, 0, 0xFFFF⟩ := by
  have h1 : n % 2 ^ 64 % 2 ^ 16 = i % 2 ^ 16 := by omega
  have h2 : n % 2 ^ 64 / 2 ^ 16 % 2 ^ 2 = 0 := by omega
  have h3 : n % 2 ^ 64 / 2 ^ 32 % 2 ^ 16 = 65535 := by omega
  clear hn
  have e1 : bits (BitVec.ofNat 64 n) 0 16 = BitVec.ofNat 16 i := by
    unfold bits; apply BitVec.eq_of_toNat_eq
    rw [BitVec.extractLsb'_toNat, BitVec.toNat_ofNat, BitVec.toNat_ofNat, Nat.shiftRight_zero, h1]
  have e2 : fld (BitVec.ofNat 64 n) 16 2 = 0 := by
    unfold fld; rw [BitVec.extractLsb'_toNat, BitVec.toNat_ofNat, Nat.shiftRight_eq_div_pow, h2]
  have e3 : bits (BitVec.ofNat 64 n) 32 16 = (0xFFFF : BitVec 16) := by
    unfold bits; apply BitVec.eq_of_toNat_eq
    rw [BitVec.extractLsb'_toNat, BitVec.toNat_ofNat, Nat.shiftRight_eq_div_pow, h3]; rfl
  simp only [e1, e2, e3]

theorem crowd_base : crowdGrp.base = storeAddr 0 0 := by simp only [crowdGrp, pair]

theorem crowd_nodes :
    ((List.range 4097).map fun i => let w : BitVec 64 := BitVec.ofNat 64 (crowd.readN (crowdGrp.base + 8 * i) 8)
      (⟨bits w 0 16, fld w 16 2, bits w 32 16⟩ : ColNode)) = (List.range 4097).map fun i => ⟨BitVec.ofNat 16 i, 0, 0xFFFF⟩ :=
  List.map_congr_left fun i hi => crowd_node i (List.mem_range.1 hi) _
    (by rw [crowd_base]; exact crowd_entry crowd _ crowd_byte i (List.mem_range.1 hi))

theorem repeats_range (k n : Nat) (h : k + n ≤ 65536) :
    repeats ((List.range' k n).map fun i => (⟨BitVec.ofNat 16 i, 0, 0xFFFF⟩ : ColNode)) = false := by
  induction n generalizing k with
  | zero => rfl
  | succ n ih =>
    rw [List.range'_succ, List.map_cons, repeats, ih (k + 1) (by omega), Bool.or_false, List.any_eq_false]
    intro y hy
    obtain ⟨i, hi, rfl⟩ := List.mem_map.1 hy
    have := List.mem_range'_1.1 hi
    have hne : BitVec.ofNat 16 i ≠ BitVec.ofNat 16 k := fun e => by
      have := congrArg BitVec.toNat e
      simp only [BitVec.toNat_ofNat] at this; omega
    simp [hne]

theorem sum_sizes (l : List Nat) : ((l.map fun i => (⟨BitVec.ofNat 16 i, 0, 0xFFFF⟩ : ColNode)).map ColNode.size).sum = 16 * l.length := by
  induction l with
  | nil => rfl
  | cons i l ih =>
    have : ColNode.size ⟨BitVec.ofNat 16 i, 0, 0xFFFF⟩ = 16 := show popcount (0xFFFF : BitVec 16) = 16 by decide +kernel
    rw [List.map_cons, List.map_cons, List.sum_cons, ih, this, List.length_cons]; omega

/-- CollectiveGroups: a sound table, with a node of this package, of 65,552 members. -/
theorem witness_CollectiveGroups_members :
    let n := crowdGrp.nx * crowdGrp.ny * crowdGrp.nz
    let nodes := (List.range n).map fun i => let w : BitVec 64 := BitVec.ofNat 64 (crowd.readN (crowdGrp.base + 8 * i) 8)
      (⟨bits w 0 16, fld w 16 2, bits w 32 16⟩ : ColNode)
    Tab.get none 3 crowd.colGrps = some crowdGrp ∧ crowd.grpState 3 = 1 ∧ 0 < n ∧ n ≤ 16384
    ∧ (∀ k ∈ blocksOf crowdGrp.base (8 * n), (∀ a b, region (4096 * k.1) ≠ .hbm a b) ∧ crowd.poisoned (4096 * k.1) = false)
    ∧ ¬ ((∃ x ∈ nodes, x.mask = 0 ∨ (x.fid = crowd.self ∧ crowd.hasDie x.die = false)) ∨ repeats nodes = true)
    ∧ (∃ x ∈ nodes, x.fid = crowd.self ∧ x.die = 0) ∧ 65536 < ({ crowdGrp with nodes := nodes } : ColGrp).n := by
  have hn : crowdGrp.nx * crowdGrp.ny * crowdGrp.nz = 4097 := rfl
  have hself : crowd.self = 0 := by decide +kernel
  have hdie : crowd.hasDie 0 = true := by decide +kernel
  simp only [hn, crowd_nodes, hself]
  refine ⟨rfl, by decide +kernel, by omega, by omega, ?_, ?_, ⟨_, List.mem_map.2 ⟨0, List.mem_range.2 (by omega), rfl⟩, rfl, rfl⟩, ?_⟩
  · have : ∀ k ∈ blocksOf crowdGrp.base (8 * 4097), (match region (4096 * k.1) with | .hbm _ _ => false | _ => true) = true
        ∧ crowd.poisoned (4096 * k.1) = false := by decide +kernel
    intro k hk
    refine ⟨fun a b e => ?_, (this k hk).2⟩
    have := (this k hk).1; rw [e] at this; cases this
  · rintro (⟨x, hx, h⟩ | h)
    · obtain ⟨i, _, rfl⟩ := List.mem_map.1 hx
      rcases h with h | ⟨_, h⟩
      · exact absurd h (show ¬ (0xFFFF : BitVec 16) = 0 by decide)
      · rw [hdie] at h; cases h
    · rw [List.range_eq_range', repeats_range 0 4097 (by omega)] at h; cases h
  · unfold ColGrp.n ColGrp.first
    rw [List.take_length, sum_sizes, List.length_range]; omega

/-! ### The worked examples of the spec (they do not bind) -/

/-- The T16 pair of the worked example of 06_core_instructions.md. -/
def t16pair : MxF := ⟨16, 0, 2, false, false, ⟨1, 1, 0, 0, 2, 1, 0, 0⟩, 0x2000, 0x900, 4, 5, 2⟩

/-- Its word in program memory, both ways. -/
theorem test_t16_pair_word :
    encodeCore (.mxT16Pair 0 false t16pair) = some 0x450200100440008400800000120020A4
    ∧ decodeCore 0 0x450200100440008400800000120020A4 = some (.mxT16Pair 0 false t16pair) := by decide +kernel

/-- 08_hbm_memory.md: where stack offset 0x3456_7800 lands. -/
theorem test_hbm_address :
    hbmPc 0x34567800 = 14 ∧ hbmBank 0x34567800 = 4 ∧ hbmRow 0x34567800 = 209 := by decide +kernel

/-- 02_numerics.md: cancellation inside one group, in long form and as BF16. -/
theorem test_group_cancellation :
    let e (r : Nat) : XV := decodeElem .e4m3 false r
    let v := (dot [e 0x7E, e 0x01, e 0x7E] (fun k => e (nth 0 [0x7E, 0x01, 0xFE] k)) .zero).1
    v.packLong = 0x3DA000000000 ∧ (encodeElem .bf16 .rne false v).1 = 0x3680 := by decide +kernel

/-- 02_numerics.md: one long-form value as BF16 in three modes. -/
theorem test_three_modes :
    let v := unpackLong 0x3FE020020000
    (encodeElem .bf16 .rne false v).1 = 0x3F81 ∧ (encodeElem .bf16 .rtz false v).1 = 0x3F80
    ∧ (encodeElem .bf16 (.sr 0x90000000) false v).1 = 0x3F81 ∧ (encodeElem .bf16 (.sr 0x7FF7FFFF) false v).1 = 0x3F80 := by decide +kernel

/-- 14_collectives.md: the long-form result written to an FP32 destination. -/
theorem test_long_to_fp32 : (encodeElem .fp32 .rne false (unpackLong 0x3C5000000000)).1 = 0x31400000 := by decide +kernel

/-- 01_one_part.md: where the registers of core 37 and of stack 19 lie, and the global address of a block there. -/
theorem test_register_blocks : rCore 37 0x10 = 0x01940010 ∧ rHbm 19 0 = 0x00598000 ∧ hbmAddr 19 0x1000 = 0x026000001000 := by decide

end Sys2Proof.Tests
end

section
/-! The release of reset, and what every step keeps (O1, O2, O4). -/

namespace Sys2Proof

/-- A read of a table that begins with entries of one value. -/
theorem Tab.get_map_append {α β : Type} (d x : α) (key : β → Nat) (o : Nat) (l : List β) (t : Tab α) :
    Tab.get d o (l.map (fun b => (key b, x)) ++ t) = if ∃ b ∈ l, o = key b then x else Tab.get d o t := by
  induction l with
  | nil => simp
  | cons b l ih =>
    simp only [List.map_cons, List.cons_append, Tab.get, ih, List.mem_cons, exists_eq_or_imp]
    by_cases h : key b = o
    · simp [h]
    · simp [h, Ne.symm h]

end Sys2Proof

namespace Sys2Proof.Machine

/-! ### The release of reset -/

/-- No mask word of the MSI-X table is EVC_VEC_ARM. -/
theorem vecArm_ne_msixMask (v : Nat) (h : v < 32) : rEvc 0x3100 ≠ rCrn (0x8008 + 16 * v) := by
  unfold rEvc rCrn
  omega

/-- The registers at the release of reset (R15, R410; log 6 for the mask bits). -/
theorem State.reg_reset (o : Nat) :
    State.reset.reg o = if o = rEvc 0x3100 then 0xFFFFFFFF
      else if ∃ v ∈ List.range 32, o = rCrn (0x8008 + 16 * v) then 0x100000000 else 0 := by
  have hkey : ∀ v, 0x108008 + 16 * v = rCrn (0x8008 + 16 * v) := fun v => by unfold rCrn; omega
  unfold State.reg State.reset resetRegs
  simp only [hkey, Tab.get_map_append]
  by_cases ho : o = rEvc 0x3100
  · have hv : ¬ ∃ v ∈ List.range 32, o = rCrn (0x8008 + 16 * v) := by
      rintro ⟨v, hv, h⟩
      exact vecArm_ne_msixMask v (List.mem_range.1 hv) (ho.symm.trans h)
    rw [if_neg hv, if_pos ho, ho]
    rfl
  · have ha : Tab.get 0 o [(0x203100, (0xFFFFFFFF : W64))] = 0 := if_neg fun h => ho h.symm
    rw [if_neg ho, ha]

theorem State.byte_reset (a : Nat) : State.reset.byte a = 0 := by
  unfold State.byte
  split <;> rfl

theorem Core.s_reset (r : Nat) : Core.reset.s r = 0 := by
  unfold Core.s
  split <;> rfl

/-- A field of a register that is 0 at the release of reset. -/
theorem State.rf_reset {o : Nat} (h : State.reset.reg o = 0) (lo len : Nat) : State.reset.rf o lo len = 0 := by
  unfold State.rf
  rw [h, fld_zero]

/-- Settles O1, from the table of registers that are not 0. -/
theorem resetValues : Obligations.ResetValues := by
  have low : ∀ o < 0x108008, State.reset.reg o = 0 := fun o ho => by
    rw [State.reg_reset, if_neg (by unfold rEvc; omega), if_neg]
    rintro ⟨v, -, h⟩
    unfold rCrn at h
    omega
  exact ⟨rfl, State.rf_reset (low _ (by decide)) _ _, State.rf_reset (low _ (by decide)) _ _, State.byte_reset, fun _ => rfl,
    Core.s_reset, State.reg_reset⟩

/-- Settles O2: memory has no entry, and the registers listed stand in rising order with values other than 0. -/
theorem resetLasts : Obligations.ResetLasts := ⟨rfl, by decide⟩

/-! ### What every step keeps -/

theorem step_of_empty {s : State} (h : s.pending = []) : step s = .next s.tick := by
  unfold step
  rw [h]

theorem step_of_front {s : State} {c : Instr} {rest : List Instr} (h : s.pending = c :: rest) :
    step s = exec c { s with pending := rest } := by
  unfold step
  rw [h]

/-- What lasts does not depend on the commands that wait. -/
theorem Lasts.of_pending {s t : State} {q : List Instr} (h : Lasts { s with pending := q } t) : Lasts s t :=
  ⟨h.grade, h.gold, h.owner, h.floor, h.mem, h.regs⟩

/-- Settles O4: a cycle on an empty queue by `State.tick_keeps`, a command on the rest of the queue by `exec_answers`. -/
theorem stepKeeps : Obligations.StepKeeps := by
  intro s
  cases hq : s.pending with
  | nil =>
    have hk : Keeps s s.tick := State.tick_keeps (Keeps.refl s)
    exact ⟨s.tick, step_of_empty hq, hk.lasts, hk.pending.trans hq⟩
  | cons c rest =>
    obtain ⟨t, ht, hk⟩ := exec_answers c { s with pending := rest }
    exact ⟨t, (step_of_front hq).trans ht, hk.lasts.of_pending, hk.pending⟩

end Sys2Proof.Machine
end

section
/-! Host accesses: BAR0, configuration space, BAR2 and the test port (O55). -/

namespace Sys2Proof.Machine

/-! ### Offsets -/

theorem base_of_low {off : Nat} (h : off % 8 = 0) : off / 8 * 8 = off := by omega

theorem base_of_high {off : Nat} (h : off % 8 = 0) : (off + 4) / 8 * 8 = off := by omega

/-! ### Reads of BAR0 (R10, R11, R14) -/

/-- An access of another size or alignment reads zero (R10). -/
theorem State.regRead_misaligned {s : State} {off size : Nat} (h8 : ¬ (size = 8 ∧ off % 8 = 0)) (h4 : ¬ (size = 4 ∧ off % 4 = 0)) :
    s.regRead off size = (s, 0) := by
  unfold State.regRead
  dsimp only
  split
  · rfl
  · simp only [Bool.and_eq_true, decide_eq_true_eq]
    rw [if_neg (by omega), if_neg (by omega), if_neg fun hh => h4 ⟨hh.1.1, by omega⟩]

/-- Where no register is, a read returns zero (R14). -/
theorem State.regRead_noReg {s : State} {off : Nat} (size : Nat) (h : regShape (off / 8 * 8) = none) : s.regRead off size = (s, 0) := by
  unfold State.regRead
  simp only [h]

section
variable {s : State} {off : Nat} {h : RegShape} (ha : off % 8 = 0) (hs : regShape off = some h)
include ha hs

/-- A read of a whole register. -/
theorem State.regRead_whole : s.regRead off 8 = (s.regClear off m64, s.regValue off) := by
  unfold State.regRead
  simp [base_of_low ha, hs]

theorem State.regRead_low (hw : h.wide = true) : s.regRead off 4 = s.lowRead off := by
  unfold State.regRead
  simp [base_of_low ha, hs, hw]

/-- A high half that was captured is returned, and forgotten. -/
theorem State.regRead_captured (hw : h.wide = true) {c : BitVec 32} (hc : Tab.get none off s.capHi = some c) :
    s.regRead (off + 4) 4 = ({ s with capHi := Tab.put none off none s.capHi }, c.setWidth 64) := by
  unfold State.regRead
  simp [base_of_high ha, hs, hw, hc]

theorem State.regRead_high (hw : h.wide = true) (hc : Tab.get none off s.capHi = none) :
    s.regRead (off + 4) 4 = (s.regClear off (~~~ m32), s.regValue off >>> 32) := by
  unfold State.regRead
  simp [base_of_high ha, hs, hw, hc, highHalf]

/-! ### Writes of BAR0 (R10, R11, R14) -/

theorem State.halfWrite_low (hw : h.wide = true) (hm : s.mountedReg off = true) (lo : BitVec 32) :
    s.halfWrite off lo = { s with heldLo := Tab.put none off (some lo) s.heldLo } := by
  unfold State.halfWrite
  simp [base_of_low ha, hs, hw, hm]

/-- A high half joins the low half that is held. -/
theorem State.halfWrite_held (hw : h.wide = true) (hm : s.mountedReg off = true) {lo : BitVec 32} (hi : BitVec 32)
    (hl : Tab.get none off s.heldLo = some lo) : s.halfWrite (off + 4) hi
      = ({ s with heldLo := Tab.put none off none s.heldLo }).regPut off (hi.setWidth 64 <<< 32 ||| lo.setWidth 64) := by
  unfold State.halfWrite
  simp [base_of_high ha, hs, hw, hm, hl]

/-- A high half on its own leaves the RW fields of the low half (log 80). -/
theorem State.halfWrite_high (hw : h.wide = true) (hm : s.mountedReg off = true) (hi : BitVec 32)
    (hl : Tab.get none off s.heldLo = none) (hf : h.writable &&& ~~~ m32 ≠ 0) :
    s.halfWrite (off + 4) hi = s.regPut off (hi.setWidth 64 <<< 32 ||| (s.reg off &&& h.rw &&& m32)) := by
  unfold State.halfWrite
  simp only [base_of_high ha, hs, hm, hw, hl, Bool.not_true, Bool.false_eq_true, if_false, decide_true, Bool.and_self, if_true]
  rw [if_neg (by omega), if_neg hf]

end

theorem State.halfWrite_noReg {s : State} {off : Nat} (v : BitVec 32) (h : regShape (off / 8 * 8) = none) : s.halfWrite off v = s := by
  unfold State.halfWrite
  simp only [h]

/-- An access of another size or alignment writes nothing (R10). -/
theorem State.regWrite_misaligned {s : State} {off size : Nat} (v : W64) (h8 : ¬ (size = 8 ∧ off % 8 = 0))
    (h4 : ¬ (size = 4 ∧ off % 4 = 0)) : s.regWrite off size v = s := by
  unfold State.regWrite
  simp only [Bool.and_eq_true, decide_eq_true_eq]
  rw [if_neg h8, if_neg h4]

theorem State.regWrite_whole {s : State} {off : Nat} (v : W64) (ha : off % 8 = 0) :
    s.regWrite off 8 v = ({ s with heldLo := Tab.put none off none s.heldLo }).regPut off v := by
  unfold State.regWrite
  simp [ha]

theorem State.regWrite_half {s : State} {off : Nat} (v : W64) (ha : off % 4 = 0) :
    s.regWrite off 4 v = s.halfWrite off (bits v 0 32) := by
  unfold State.regWrite
  simp [ha]

/-! ### What a read clears -/

@[simp] theorem State.pendClrOne_capHi (s : State) (n : Nat) (claim : Bool) : (s.pendClrOne n claim).capHi = s.capHi := by
  unfold State.pendClrOne State.setPend
  dsimp only
  split <;> (try split) <;> rfl

@[simp] theorem State.claim_capHi (s : State) (t : Nat) : (s.claim t).2.capHi = s.capHi := by
  unfold State.claim
  split
  · rfl
  · exact State.pendClrOne_capHi _ _ _

/-- The fields that a read clears hold no captured half. -/
@[simp] theorem State.regClear_capHi (s : State) (off : Nat) (m : W64) : (s.regClear off m).capHi = s.capHi := by
  unfold State.regClear
  split
  · rfl
  · split
    · rfl
    · split
      · exact State.claim_capHi _ _
      · split <;> rfl

/-! ### Registers without an effect of their own (R11) -/

/-- Blocks of BAR0 in which a write does no more than set fields, and a read no more than clear them: THM, the RSB sections, COL but for
its group controls, and the channels of the compute dies but for their controls. -/
def plainReg (off : Nat) : Prop :=
  (0x400000 ≤ off ∧ off < 0x500000) ∨ (0x900000 ≤ off ∧ off < 0x980000)
    ∨ (0xA00000 ≤ off ∧ off < 0xB00000 ∧ ¬ (off < 0xA01000 ∧ off % 0x100 = 0)) ∨ (0xB00000 ≤ off ∧ off < 0xC00000 ∧ off % 0x100 ≠ 8)

theorem State.plainWrite_eq (s : State) (off : Nat) (h : RegShape) (v : W64) :
    s.plainWrite off h v = s.setReg off (mergeMask h.rw (s.reg off) v &&& ~~~ (v &&& h.w1c)) := by
  unfold State.plainWrite State.rwReg
  simp

theorem inRow_claim_of_plainReg {off : Nat} (hp : plainReg off) : inRow off (rEvc 0x3000) 8 10 = false := by
  have : ¬ off < rEvc 0x3000 + 8 * 10 := by unfold plainReg at hp; unfold rEvc; omega
  simp [inRow, this]

section
variable {s : State} {off : Nat} {h : RegShape} (hs : regShape off = some h) (hm : s.mountedReg off = true) (hp : plainReg off)
include hs hm hp

theorem State.regPut_plain (v : W64) : s.regPut off v = s.plainWrite off h v := by
  unfold plainReg at hp
  unfold State.regPut
  simp only [hs, hm, Bool.not_true, Bool.false_eq_true, if_false, Bool.and_eq_true, decide_eq_true_eq]
  iterate 12 rw [if_neg (by omega)]

theorem State.regValue_plain : s.regValue off = s.reg off := by
  unfold State.regValue
  rw [inRow_claim_of_plainReg hp]
  unfold plainReg at hp
  simp only [hm, hs, Option.isSome_some, Bool.and_self, Bool.not_true, Bool.false_eq_true, if_false, Bool.and_eq_true, decide_eq_true_eq]
  rw [if_neg (by omega), if_neg (by omega), if_neg (by unfold rEvc; omega)]

theorem State.regClear_plain : s.regClear off m64 = if h.rc = 0 then s else s.setReg off (s.reg off &&& ~~~ h.rc) := by
  have hall : h.rc &&& m64 = h.rc := BitVec.and_allOnes
  unfold State.regClear
  simp only [hs, hall, inRow_claim_of_plainReg hp, hm, Bool.not_true, Bool.false_or, Bool.false_eq_true, if_false, Bool.and_eq_true,
    decide_eq_true_eq]
  unfold plainReg at hp
  rw [if_neg (by omega : ¬ (0x1000000 ≤ off ∧ off % 0x40000 = 0x28))]

end

/-! ### Poison by blocks (R205, R212) -/

/-- The start of the 4 KiB block of a place. -/
def Region.block : Region → Region
  | .hbm st off => .hbm st (4096 * (off / 4096))
  | .store c off => .store c (4096 * (off / 4096))
  | .regs off => .regs (4096 * (off / 4096))
  | .hole => .hole

/-- Every boundary of R40 is a block's: a block lies within one part. -/
theorem region_block (a : Nat) : region (4096 * (a / 4096)) = (region a).block := by
  unfold region
  dsimp only
  by_cases h1 : a < 0x40000000000
  · rw [if_pos h1, if_pos (by omega)]
    by_cases h : a % 0x2000000000 < 0x1FC0000000
    · rw [if_pos h, if_pos (by omega), Region.block, Region.hbm.injEq]
      omega
    · rw [if_neg h, if_neg (by omega), Region.block]
  · rw [if_neg h1, if_neg (by omega)]
    by_cases h2 : a < 0x40080000000
    · rw [if_pos h2, if_pos (by omega), show 4096 * (a / 4096) - 0x40000000000 = 4096 * ((a - 0x40000000000) / 4096) by omega]
      generalize a - 0x40000000000 = x
      by_cases h : x % 0x2000000 < 0x1800000
      · rw [if_pos h, if_pos (by omega), Region.block, Region.store.injEq]
        omega
      · rw [if_neg h, if_neg (by omega), Region.block]
    · rw [if_neg h2, if_neg (by omega)]
      by_cases h : 0x50000000000 ≤ a ∧ a < 0x50004000000
      · rw [if_pos h, if_pos (by omega), Region.block, Region.regs.injEq]
        omega
      · rw [if_neg h, if_neg (by omega), Region.block]

/-- The bytes of a block are poisoned together. -/
theorem State.poisoned_block (s : State) (a : Nat) : s.poisoned (4096 * (a / 4096)) = s.poisoned a := by
  unfold State.poisoned State.populated State.dead
  rw [region_block]
  cases region a <;> simp [Region.block]

/-- The blocks of a range are those that hold one of its bytes. -/
theorem mem_blocksOf {a n k : Nat} : (∃ b ∈ blocksOf a n, b.1 = k) ↔ ∃ i < n, (a + i) / 4096 = k := by
  unfold blocksOf
  by_cases hn : n = 0
  · simp [hn]
  · rw [if_neg hn]
    simp only [List.mem_map, List.mem_range]
    constructor
    · rintro ⟨-, ⟨j, hj, rfl⟩, rfl⟩
      exact ⟨4096 * (a / 4096 + j) - a, by omega, by omega⟩
    · rintro ⟨i, hi, rfl⟩
      exact ⟨_, ⟨(a + i) / 4096 - a / 4096, by omega, rfl⟩, by dsimp only; omega⟩

/-- No block of a range is poisoned when none of its bytes is. -/
theorem State.poisonIn_eq_nil (s : State) (a n : Nat) : s.poisonIn a n = [] ↔ ∀ i < n, s.poisoned (a + i) = false := by
  unfold State.poisonIn
  simp only [List.filter_eq_nil_iff, List.forall_mem_map, Bool.not_eq_true]
  constructor
  · intro h i hi
    obtain ⟨b, hb, hk⟩ := mem_blocksOf.2 ⟨i, hi, rfl⟩
    rw [← State.poisoned_block, ← hk]
    exact h b hb
  · intro h b hb
    obtain ⟨i, hi, hk⟩ := mem_blocksOf.1 ⟨b, hb, rfl⟩
    rw [← hk, State.poisoned_block]
    exact h i hi

/-! ### Writes within one block -/

theorem cuts_within {n a fuel : Nat} {d : Bytes} (hd : 0 < d.length) (h : a % n + d.length ≤ n) : cuts n (fuel + 1) a d = [(a, d)] := by
  obtain ⟨b, bs, rfl⟩ := List.exists_cons_of_length_pos hd
  have hk : (b :: bs).length ≤ n - a % n := by omega
  have hend : ∀ m, cuts n fuel m [] = [] := fun m => by cases fuel <;> rfl
  rw [cuts]
  simp only [List.take_of_length_le hk, List.drop_eq_nil_of_le hk, hend]

theorem region_storeAddr {c o : Nat} (hc : c < 64) (ho : o < 0x1800000) : region (storeAddr c o) = .store c o := by
  unfold region storeAddr
  dsimp only
  rw [if_neg (by omega), if_pos (by omega), if_pos (by omega), Region.store.injEq]
  omega

/-- A write to a core store within one block pokes its bytes. -/
theorem State.store_core {s : State} {c o : Nat} {d : Bytes} (gen : Bool) (hc : c < 64) (ho : o < 0x1800000) (hd : 0 < d.length)
    (hb : storeAddr c o % 4096 + d.length ≤ 4096) : s.store (storeAddr c o) d gen = s.poke (storeAddr c o) d := by
  unfold State.store
  rw [cuts_within hd hb]
  simp [region_storeAddr hc ho]

/-! ### The window of BAR2 (R401) -/

/-- A request is counted where it touches a silent address. -/
theorem State.winViol_eq (s : State) (a n : Nat) :
    s.winViol a n = if ∀ i < n, s.populated (a + i) = true then s else s.bump (rCrn 0x10) 0 32 1 := by
  have hall : ((List.range n).all fun i => s.populated (a + i)) = true ↔ ∀ i < n, s.populated (a + i) = true := by
    simp only [List.all_eq_true, List.mem_range]
  unfold State.winViol
  exact if_congr hall rfl rfl

theorem State.hostUp_of {s : State} (hv : s.vin = true) (hp : s.porst = false) (he : s.perst = false) : s.hostUp = true := by
  unfold State.hostUp
  rw [hv, hp, he]
  rfl

theorem winOk_of {off n : Nat} (h0 : 0 < n) (h1 : n ≤ 4096) (h2 : off + n ≤ 2 ^ 34) : winOk off n = true := by
  unfold winOk
  simp only [decide_eq_true h0, decide_eq_true h1, decide_eq_true h2, Bool.and_self]

section
variable {s : State} {off len : Nat} (hu : s.hostUp = true) (hok : winOk off len = true)
include hu hok

theorem exec_bar2Read_clean (h : ∀ i < len, s.poisoned (s.winAddr off + i) = false) : exec (.bar2Read off len) s
    = .next ((s.winViol (s.winAddr off) len).send (.bar2Read off (s.read (s.winAddr off) len) false)) := by
  show execBar2Read off len s = _
  unfold execBar2Read
  simp only [hu, hok, Bool.and_self, if_true, (s.poisonIn_eq_nil _ _).2 h]
  rfl

/-- Poisoned data is marked (R205). -/
theorem exec_bar2Read_poisoned (h : ∃ i < len, s.poisoned (s.winAddr off + i) = true) : ∃ t : State,
    exec (.bar2Read off len) s = .next (t.send (.bar2Read off (s.read (s.winAddr off) len) true)) := by
  have hne : (s.poisonIn (s.winAddr off) len).isEmpty = false := by
    rw [List.isEmpty_eq_false_iff, Ne, State.poisonIn_eq_nil]
    obtain ⟨i, hi, hp⟩ := h
    intro hn
    rw [hn i hi] at hp
    cases hp
  show ∃ t : State, execBar2Read off len s = _
  unfold execBar2Read
  simp only [hu, hok, Bool.and_self, if_true, hne]
  exact ⟨_, rfl⟩

theorem exec_bar2Write_window {d : Bytes} (hd : d.length = len) : exec (.bar2Write off d) s
    = .next ((s.winViol (s.winAddr off) len).store (s.winAddr off) d false) := by
  subst hd
  show execBar2Write off d s = _
  unfold execBar2Write
  simp only [hu, hok, Bool.and_self, if_true]
  rfl

end

/-! ### Configuration space (R396, R397; the header is log 52) -/

section
variable {s : State} {off : Nat} (hu : s.hostUp = true) (h4 : off % 4 = 0) (hl : off < 4096)
include hu h4 hl

/-- Until the Crown runs a request is put off. -/
theorem exec_pcieConfigReq_retry (write : Bool) (v : BitVec 32) (hc : s.crown < 2) :
    exec (.pcieConfigReq write off v) s = .next (s.send (.configRetry off)) := by
  show execPcieConfigReq write off v s = _
  unfold execPcieConfigReq
  simp [hu, h4, hl, hc, ret]

theorem exec_pcieConfigReq_write (v : BitVec 32) (hc : 2 ≤ s.crown) :
    exec (.pcieConfigReq true off v) s = .next { s with cfg := Tab.put 0 off v s.cfg } := by
  show execPcieConfigReq true off v s = _
  unfold execPcieConfigReq
  simp [hu, h4, hl, Nat.not_lt.2 hc, ret]

theorem exec_pcieConfigReq_read (v : BitVec 32) (hc : 2 ≤ s.crown) :
    exec (.pcieConfigReq false off v) s = .next (s.send (.config off (s.cfgRead off))) := by
  show execPcieConfigReq false off v s = _
  unfold execPcieConfigReq
  simp [hu, h4, hl, Nat.not_lt.2 hc, ret]

end

/-- The class code lies above the revision, which is the endpoint's own. -/
theorem State.cfgRead_class (s : State) : bits (s.cfgRead 8) 8 24 = 0x120000 := by
  have h (w : BitVec 32) : bits (0x12000000 ||| (w &&& 0xFF)) 8 24 = 0x120000 := by
    have hc : BitVec.extractLsb' 8 24 (0x12000000 : BitVec 32) = 0x120000 := rfl
    have hr : BitVec.extractLsb' 8 24 (0xFF : BitVec 32) = 0#24 := rfl
    unfold bits
    rw [BitVec.extractLsb'_or, BitVec.extractLsb'_and, hc, hr, BitVec.and_zero, BitVec.or_zero]
  exact h _

/-- The header's words that the specification of the function fixes. -/
theorem State.cfgRead_header (s : State) (off : Nat) :
    (off = 8 → bits (s.cfgRead off) 8 24 = 0x120000) ∧ (off = 0x10 → s.cfgRead off = (Tab.get 0 0x10 s.cfg &&& 0xFC000000) ||| 4)
      ∧ (off = 0x14 → s.cfgRead off = Tab.get 0 0x14 s.cfg) ∧ (off = 0x18 → s.cfgRead off = 0xC)
      ∧ (off = 0x1C → s.cfgRead off = Tab.get 0 0x1C s.cfg &&& 0xFFFFFFFC)
      ∧ (off = 0x20 ∨ off = 0x24 ∨ off = 0x30 → s.cfgRead off = 0) := by
  refine ⟨?_, ?_, ?_, ?_, ?_, ?_⟩
  · rintro rfl; exact s.cfgRead_class
  · rintro rfl; rfl
  · rintro rfl; rfl
  · rintro rfl; rfl
  · rintro rfl; rfl
  · rintro (rfl | rfl | rfl) <;> rfl

/-! ### The commands of BAR0 -/

theorem exec_regWrite (off size : Nat) (v : W64) (s : State) : exec (.regWrite off size v) s = .next (s.regWrite off size v) := rfl

theorem exec_regWriteHalf (off : Nat) (v : BitVec 32) (s : State) :
    exec (.regWriteHalf off v) s = .next (if off % 4 = 0 then s.halfWrite off v else s) := rfl

theorem exec_regReadLowHalf (off : Nat) (s : State) :
    exec (.regReadLowHalf off) s = .next ((s.regRead off 4).1.send (.busRead off (s.regRead off 4).2)) := rfl

theorem exec_rcRead (off size : Nat) (s : State) :
    exec (.rcRead off size) s = .next ((s.regRead off size).1.send (.busRead off (s.regRead off size).2)) := rfl

theorem exec_regWriteHalf_aligned {off : Nat} (h : off % 4 = 0) (v : BitVec 32) (s : State) :
    exec (.regWriteHalf off v) s = .next (s.halfWrite off v) := by
  rw [exec_regWriteHalf, if_pos h]

/-- A read that changes nothing and returns zero. -/
theorem exec_rcRead_zero {s : State} {off size : Nat} (h : s.regRead off size = (s, 0)) :
    exec (.rcRead off size) s = .next (s.send (.busRead off 0)) := by
  rw [exec_rcRead, h]

/-- Where no register is, nothing is written and zero is read (R14). -/
theorem exec_noReg {s : State} {off : Nat} (h : regShape (off / 8 * 8) = none) (v : BitVec 32) :
    exec (.regWriteHalf off v) s = .next s ∧ exec (.regReadLowHalf off) s = .next (s.send (.busRead off 0))
      ∧ exec (.rcRead off 8) s = .next (s.send (.busRead off 0)) := by
  refine ⟨?_, ?_, exec_rcRead_zero (State.regRead_noReg 8 h)⟩
  · rw [exec_regWriteHalf, State.halfWrite_noReg v h, ite_self]
  · rw [exec_regReadLowHalf, State.regRead_noReg 4 h]

section
variable {s : State} {off : Nat} {h : RegShape} (ha : off % 8 = 0) (hs : regShape off = some h)
include ha hs

/-- A low half that is read captures the high half, as it was before the read (R10). -/
theorem exec_regReadLowHalf_captures (hw : h.wide = true) :
    ∃ t : State, exec (.regReadLowHalf off) s = .next (t.send (.busRead off (s.regValue off &&& m32)))
      ∧ Tab.get none off t.capHi = some (bits (s.regValue off) 32 32) ∧ { t with capHi := s.capHi } = s.regClear off m64 := by
  refine ⟨(s.lowRead off).1, ?_, ?_, ?_⟩
  · rw [exec_regReadLowHalf, State.regRead_low ha hs hw]
    rfl
  · exact Tab.get_put_self none off (some (bits (s.regValue off) 32 32)) (s.regClear off m64).capHi
  · rw [← State.regClear_capHi s off m64]
    rfl

/-- A register without an effect of its own is written: RW fields take the value, 1s clear W1C fields (R11). -/
theorem exec_regWrite_plain (hm : s.mountedReg off = true) (hp : plainReg off) (v : W64) : exec (.regWrite off 8 v) s
    = .next (({ s with heldLo := Tab.put none off none s.heldLo }).setReg off (mergeMask h.rw (s.reg off) v &&& ~~~ (v &&& h.w1c))) := by
  have hm' : ({ s with heldLo := Tab.put none off none s.heldLo } : State).mountedReg off = true := hm
  rw [exec_regWrite, State.regWrite_whole v ha]
  exact congrArg _ ((State.regPut_plain hs hm' hp v).trans (State.plainWrite_eq _ _ _ _))

/-- A register without an effect of its own is read: its RC fields clear (R11). -/
theorem exec_rcRead_plain (hm : s.mountedReg off = true) (hp : plainReg off) : exec (.rcRead off 8) s
    = .next ((if h.rc = 0 then s else s.setReg off (s.reg off &&& ~~~ h.rc)).send (.busRead off (s.reg off))) := by
  rw [exec_rcRead, State.regRead_whole ha hs, State.regClear_plain hs hm hp, State.regValue_plain hs hm hp]

end

/-- A write of the window into a core store, within one block: its bytes are stored, and nothing else. -/
theorem State.store_core_stored {s : State} {a : Nat} {d : Bytes} (gen : Bool) (ha : ∃ c o, a = storeAddr c o ∧ c < 64 ∧ o < 0x1800000)
    (hd : 0 < d.length) (hb : a % 4096 + d.length ≤ 4096) : Stored s (s.store a d gen) a d := by
  obtain ⟨c, o, rfl, hc, ho⟩ := ha
  rw [State.store_core gen hc ho hd hb]
  exact State.poke_stored _ _ _

/-- PCIE_ERROR (R397). -/
theorem exec_pcieError_up {s : State} (hu : s.hostUp = true) (status : BitVec 32) : exec (.pcieError status) s
    = .next (({ s with aer := s.aer ||| status }).journalPut 0x81 0 0 0 (toBytes 4 status.toNat)) := by
  show ret (if s.hostUp = true then _ else _) = _
  rw [if_pos hu]
  rfl

/-- Settles O55, clause by clause: accesses that are no access of a register, halves, registers without an effect of their own, the
configuration space and the window of a host that is up, and the test port. -/
theorem hostAccesses : Obligations.HostAccesses := by
  intro s off
  refine ⟨?_, fun v hn => exec_noReg hn v, ?_, ?_, ?_, ?_, rfl, rfl, rfl, rfl⟩
  · intro size v h8 h4
    exact ⟨congrArg _ (State.regWrite_misaligned v h8 h4), exec_rcRead_zero (State.regRead_misaligned h8 h4)⟩
  · intro v h4
    rw [exec_regWrite, State.regWrite_half v h4, exec_regWriteHalf_aligned h4]
  · intro h ha hs hw
    have h0 : off % 4 = 0 := by omega
    have h4 : (off + 4) % 4 = 0 := by omega
    refine ⟨fun lo hi hm => ⟨?_, fun hl => ?_, fun hl hf => ?_⟩, exec_regReadLowHalf_captures ha hs hw, fun c hc => ?_, fun hc => ?_⟩
    · rw [exec_regWriteHalf_aligned h0, State.halfWrite_low ha hs hw hm]
    · rw [exec_regWriteHalf_aligned h4, State.halfWrite_held ha hs hw hm hi hl]
    · rw [exec_regWriteHalf_aligned h4, State.halfWrite_high ha hs hw hm hi hl hf]
    · rw [exec_rcRead, State.regRead_captured ha hs hw hc]
    · rw [exec_rcRead, State.regRead_high ha hs hw hc]
  · intro h ha hs hm hp
    exact ⟨exec_regWrite_plain ha hs hm hp, exec_rcRead_plain ha hs hm hp⟩
  · intro hv hpo hpe
    have hu := State.hostUp_of hv hpo hpe
    refine ⟨fun write v h4 hl => ⟨exec_pcieConfigReq_retry hu h4 hl write v, ?_, ?_⟩, exec_pcieError_up hu, ?_⟩
    · rintro hc rfl
      exact exec_pcieConfigReq_write hu h4 hl v hc
    · rintro hc rfl
      exact ⟨_, exec_pcieConfigReq_read hu h4 hl v hc, s.cfgRead_header off⟩
    · intro len hpos hmax hin a seen
      have hok := winOk_of hpos hmax hin
      have hseen : s.winViol a len = seen := s.winViol_eq a len
      refine ⟨fun hc => ?_, exec_bar2Read_poisoned hu hok, fun d hd => ?_⟩
      · rw [← hseen]
        exact exec_bar2Read_clean hu hok hc
      · have hw : exec (.bar2Write off d) s = .next (seen.store a d false) := by
          rw [← hseen]
          exact exec_bar2Write_window hu hok hd
        exact ⟨hw, fun hst hb => ⟨_, hw, State.store_core_stored false hst (hd ▸ hpos) (hd ▸ hb)⟩⟩

end Sys2Proof.Machine
end

section
/-! EPILOGUE_ROW of a chain that is its terminal stage alone (O29). -/

namespace Sys2Proof.Machine

/-! ### A plain row, element by element -/

/-- The elements of a plain row are encoded one by one, each in the mode of its own coordinates (R56, R58). -/
theorem encodeRow_plain {t : TD} (h : t.mx = false) (rnd : Rnd) (off r c0 n : Nat) (v : Nat → XV) :
    let q (j : Nat) := encodeElem t.format (rnd.at off r (c0 + j)) rnd.sat (v j)
    encodeRow t rnd off r c0 ((List.range n).map v) = ((List.range n).map fun j => (q j).1, [], orFlags ((List.range n).map q)) := by
  unfold encodeRow
  simp only [h, Bool.false_eq_true, if_false, List.length_map, List.length_range, List.zip_map', List.map_map]
  rfl

/-- A row in a plain output format takes its encoding and the flags of that, and changes its values alone beside them (R56, R61). -/
theorem RowCtx.encode_plain {x : RowCtx} (h : x.mx = false) (off n : Nat) (v : Nat → XV) {r : Row} (hv : r.vals = (List.range n).map v) :
    let rnd := chainRnd x.e x.d
    let q (j : Nat) := encodeElem ((Fmt.ofCode x.d.outFmt).getD .fp32) (rnd.at off (x.r0 + x.m) (x.c0 + j)) rnd.sat (v j)
    ∃ vals, x.encode off r
      = { r with vals := vals, enc := some ((List.range n).map fun j => (q j).1, []), flags := r.flags.or (orFlags ((List.range n).map q)) } := by
  intro rnd q
  let t : TD := { TD.ofBits 0 with fmt := x.d.outFmt, mx := x.mx }
  have he : encodeRow t rnd off (x.r0 + x.m) x.c0 r.vals = ((List.range n).map fun j => (q j).1, [], orFlags ((List.range n).map q)) := by
    rw [hv]
    exact encodeRow_plain h rnd off (x.r0 + x.m) x.c0 n v
  obtain ⟨vals, hx⟩ : ∃ vals, x.encode off r = { r with
      vals := vals
      enc := some ((encodeRow t rnd off (x.r0 + x.m) x.c0 r.vals).1, (encodeRow t rnd off (x.r0 + x.m) x.c0 r.vals).2.1)
      flags := r.flags.or (encodeRow t rnd off (x.r0 + x.m) x.c0 r.vals).2.2 } := ⟨_, rfl⟩
  rw [he] at hx
  exact ⟨vals, hx⟩

/-! ### The epilogue of a terminal stage -/

/-- A row whose chain has no stage before the terminal one, and no per-row scale, is its accumulator entries, encoded once (R64). -/
theorem State.epilogueRow_terminal {s : State} {x : RowCtx} (form : MxForm) (he : x.exact = false) (hp : x.d.prs = 0) (hn : x.d.nstages = 1) :
    s.epilogueRow x form = x.encode 0 ⟨(accRowKeys form x.f x.m).map (s.core x.c).accVal, none, .none, [], none⟩ := by
  unfold State.epilogueRow
  simp only [he, hp, hn, Bool.false_eq_true, if_false, if_true, Nat.sub_self, List.take_zero, List.zipIdx_nil, List.foldl_nil]

theorem State.storeRow_plain {s : State} {x : RowCtx} (h : (x.e.td x.d.outTd).mx = false) (raws scales : List Nat) :
    s.storeRow x raws scales = s.putRow x.c (x.e.td x.d.outTd) (x.r0 + x.m) x.c0 raws := by
  unfold State.storeRow
  simp only [h, Bool.false_eq_true, if_false]

/-- The next accumulated row, where it violates nothing and writes no ledger row: from a drain it waits for the collective engine, else it
is stored (R26, R104). -/
theorem exec_epilogueRow_ready {s : State} {c : Nat} {r : MxRun} {form : MxForm} {f : MxF} (hr : (s.core c).runOf r.entry.seq = some r)
    (hi : r.entry.ins = .mx form f) (hm : f.m ≠ 0) (hn : f.n ≠ 0) (hfin : mxFinish f = true) (hacc : r.emitted < r.acc) (hw : r.waiting = [])
    (hb : (s.core c).epiBlocked r.entry f r.emitted = false) {st : BitVec 112}
    (hst : (r.entry.chain f).stage ((r.entry.chain f).nstages - 1) = st) {vals : List XV} {raws scales : List Nat} {fl : NumFlags}
    (hrow : s.epilogueRow (rowCtx c r.entry f r.bufs r.emitted) form = ⟨vals, some (raws, scales), fl, [], none⟩) :
    exec (.epilogueRow c r.entry.seq none) s = .next (
      if stageType st = 15 then
        s.modCore c fun k => { k.modRun r.entry.seq (fun x => { x with
          emitted := x.emitted + 1, flags := x.flags.or fl, waiting := if r.code = 0 then [raws] else [] }) with
          drainQ := if r.code = 0 then k.drainQ ++ [r.entry.seq] else k.drainQ }
      else
        (s.storeRow (rowCtx c r.entry f r.bufs r.emitted) raws scales).modCore c fun k => k.modRun r.entry.seq fun x =>
          { x with emitted := x.emitted + 1, flags := x.flags.or fl, waiting := [] }) := by
  have hmx : r.entry.mx? = some (form, f) := by unfold QEntry.mx?; rw [hi]
  have hfence : mxFence f = false := by
    rw [mxFence, Bool.or_eq_false_iff, beq_eq_false_iff_ne, beq_eq_false_iff_ne]
    exact ⟨hm, hn⟩
  have hst' : (rowCtx c r.entry f r.bufs r.emitted).d.stage ((rowCtx c r.entry f r.bufs r.emitted).d.nstages - 1) = st := hst
  show execEpilogueRow c r.entry.seq none s = _
  unfold execEpilogueRow
  simp only [hr, hmx, hfin, hfence, hacc, hw, hb, hrow, hst', decide_true, List.isEmpty_nil, Bool.not_false, Bool.and_self, if_true,
    Option.getD_some]
  by_cases hdrain : stageType st = 15
  · by_cases hcode : r.code = 0
    · simp only [hdrain, hcode, if_true, beq_self_eq_true, Bool.and_self]
      rfl
    · simp only [hdrain, hcode, if_true, if_false, beq_self_eq_true, beq_eq_false_iff_ne.2 hcode, Bool.and_false, Bool.false_eq_true]
      rfl
  · simp only [hdrain, if_false, beq_eq_false_iff_ne.2 hdrain, Bool.false_and, Bool.false_eq_true]
    rfl

/-- Settles O29: the row is its accumulator entries encoded once (`State.epilogueRow_terminal`, `RowCtx.encode_plain`), and then stored or
left waiting (`exec_epilogueRow_ready`). -/
theorem matrixStores : Obligations.MatrixStores := by
  intro c r form f s k e m d o fmt q raws fl hr hi hm hn hfin hacc hw hb hstages hprs hexact hmx htd
  obtain ⟨vals, hrow⟩ := RowCtx.encode_plain (x := rowCtx c e f r.bufs m) hmx 0 f.n.toNat
    (fun n => k.accVal (accKey (form.place f.n.toNat f.rbase.toNat m n)))
    (r := ⟨(accRowKeys form f m).map k.accVal, none, .none, [], none⟩) (List.map_map ..)
  have h := exec_epilogueRow_ready hr hi hm hn hfin hacc hw hb (congrArg (fun n => d.stage (n - 1)) hstages)
    ((s.epilogueRow_terminal form hexact hprs hstages).trans hrow)
  rw [State.storeRow_plain (x := rowCtx c e f r.bufs m) htd] at h
  exact h

end Sys2Proof.Machine
end

section
/-! Power: samples, the Regulator, the Escapement, modes and Midnight (O52). -/

namespace Sys2Proof.Machine

/-! ### Loops and tables -/

/-- What every stage of a loop keeps holds after it. -/
theorem iter_inv {σ : Type} {P : σ → Prop} {n : Nat} {f : Nat → σ → σ} (hf : ∀ i < n, ∀ t, P t → P (f i t)) {s : σ} (h : P s) :
    P (iter n f s) :=
  List.foldlRecOn (motive := P) _ _ h fun _ ht i hi => hf i (List.mem_range.1 hi) _ ht

theorem iter_succ {σ : Type} (n : Nat) (f : Nat → σ → σ) (s : σ) : iter (n + 1) f s = f n (iter n f s) := by
  unfold iter
  rw [List.range_succ, List.foldl_append]
  rfl

/-- What stage p alone changes is changed once by the whole loop. -/
theorem iter_observe {σ α : Type} {P : σ → Prop} {n p : Nat} {f : Nat → σ → σ} (g : σ → α) (F : α → α) (hp : p < n)
    (hinv : ∀ i < n, ∀ t, P t → P (f i t)) (hself : ∀ t, P t → g (f p t) = F (g t))
    (hother : ∀ i < n, i ≠ p → ∀ t, P t → g (f i t) = g t) {s : σ} (h : P s) : g (iter n f s) = F (g s) := by
  have hbefore : ∀ m ≤ p, P (iter m f s) ∧ g (iter m f s) = g s := fun m hm =>
    iter_inv (P := fun t => P t ∧ g t = g s)
      (fun i hi t ht => ⟨hinv i (by omega) t ht.1, (hother i (by omega) (by omega) t ht.1).trans ht.2⟩) ⟨h, rfl⟩
  have hafter : ∀ k, p + 1 + k ≤ n → P (iter (p + 1 + k) f s) ∧ g (iter (p + 1 + k) f s) = F (g s) := by
    intro k
    induction k with
    | zero =>
      intro _
      obtain ⟨hP, hg⟩ := hbefore p le_rfl
      rw [Nat.add_zero, iter_succ]
      exact ⟨hinv p hp _ hP, (hself _ hP).trans (congrArg F hg)⟩
    | succ k ih =>
      intro hk
      obtain ⟨hP, hg⟩ := ih (by omega)
      rw [← Nat.add_assoc, iter_succ]
      exact ⟨hinv _ (by omega) _ hP, (hother _ (by omega) (by omega) _ hP).trans hg⟩
  have := (hafter (n - (p + 1)) (by omega)).2
  rwa [Nat.add_sub_cancel' (by omega : p + 1 ≤ n)] at this

/-- A table after each key of a list has been raised by its own amount. -/
theorem Tab.get_foldl_raise (v : Nat → Nat) (j : Nat) {l : List Nat} (hl : l.Nodup) (t : Tab Nat) :
    Tab.get 0 j (l.foldl (fun t n => Tab.upd 0 n (· + v n) t) t) = Tab.get 0 j t + if j ∈ l then v j else 0 := by
  induction l generalizing t with
  | nil => rfl
  | cons a l ih =>
    obtain ⟨ha, hl⟩ := List.nodup_cons.1 hl
    rw [List.foldl_cons, ih hl, Tab.upd, Tab.get_put]
    by_cases hj : j = a
    · subst hj
      simp [ha]
    · simp [hj]

theorem hasNat_iff {l : List Nat} {n : Nat} : hasNat l n = true ↔ n ∈ l := by
  unfold hasNat
  simp

/-! ### Samples (R367) -/

theorem mem_dies {s : State} {d : Nat} : d ∈ s.dies ↔ d < 4 ∧ s.hasDie d = true := by
  unfold State.dies
  rw [List.mem_filter, List.mem_range]

theorem dies_nodup (s : State) : s.dies.Nodup := List.nodup_range.filter _

/-- The sums with one more sample, of the parts that are mounted. -/
def State.sampled (s : State) (compute uncore hbm io : List Nat) (pkg : Nat) : Rails :=
  { n := s.rails.n + 1
    dies := s.dies.foldl (fun t d => Tab.upd 0 d (· + (nth 0 compute d + nth 0 uncore d)) t) s.rails.dies
    hbm := ((List.range 32).filter s.hasStack).foldl (fun t n => Tab.upd 0 n (· + nth 0 hbm n) t) s.rails.hbm
    io := s.rails.io + (((List.range 4).filter s.hasIo).map fun i => nth 0 io i).sum
    pkg := s.rails.pkg + pkg
    rest := (s.rails.rest + pkg) % 1000 }

/-- A sample joins the sums of what is mounted, and its energy the counter of whole microjoules. -/
theorem exec_railSample {s : State} (hv : s.vin = true) (compute uncore hbm io : List Nat) (island pkg : Nat) :
    ∃ r, exec (.railSample compute uncore hbm io island pkg) s
        = .next (({ s with rails := r }).bump (rPwr 0x30) 0 64 ((s.rails.rest + pkg) / 1000)) ∧ r.n = s.rails.n + 1 ∧ r.pkg = s.rails.pkg + pkg
        ∧ r.rest = (s.rails.rest + pkg) % 1000 ∧ r.io = s.rails.io + (((List.range 4).filter s.hasIo).map fun i => nth 0 io i).sum
        ∧ (∀ d < 4, Tab.get 0 d r.dies = Tab.get 0 d s.rails.dies + if s.hasDie d then nth 0 compute d + nth 0 uncore d else 0)
        ∧ (∀ n < 32, Tab.get 0 n r.hbm = Tab.get 0 n s.rails.hbm + if s.hasStack n then nth 0 hbm n else 0) := by
  refine ⟨s.sampled compute uncore hbm io pkg, ?_, rfl, rfl, rfl, rfl, fun d hd => ?_, fun n hn => ?_⟩
  · show execRailSample compute uncore hbm io island pkg s = _
    unfold execRailSample
    rw [hv]
    rfl
  · rw [State.sampled, Tab.get_foldl_raise (fun d => nth 0 compute d + nth 0 uncore d) d (dies_nodup s)]
    simp only [mem_dies, hd, true_and]
  · rw [State.sampled, Tab.get_foldl_raise (fun n => nth 0 hbm n) n (List.nodup_range.filter s.hasStack)]
    simp only [List.mem_filter, List.mem_range, hn, true_and]

/-! ### Attribution counters (R394) -/

theorem exec_attrClear (s : State) : ∃ t, exec .attrClear s = .next t ∧ { t with regs := s.regs } = s ∧ ∀ o, t.reg o =
    if (rPwr 0x140 ≤ o ∧ o < rPwr 0x160) ∨ (rPwr 0x1000 ≤ o ∧ o < rPwr 0x1200) ∨ (rPwr 0x2000 ≤ o ∧ o < rPwr 0x2800) then 0 else s.reg o := by
  refine ⟨s.attrClear, rfl, rfl, fun o => ?_⟩
  unfold State.reg State.attrClear
  simp only [Tab.get_clear, ite_or]
  rfl

/-! ### The Escapement (R379) -/

theorem armed_of_stretching {s : State} {d : Nat} (h : d ∈ s.stretch) : s.armed d = false := by
  unfold State.armed
  rw [hasNat_iff.2 h]
  rfl

theorem midnight_iff {s : State} : s.midnight = true ↔ s.powerMode = 3 := by
  unfold State.midnight State.powerMode
  exact beq_iff_eq

theorem exec_droopDetect_armed {s : State} {d : Nat} (hd : d < 4) (hh : s.hasDie d = true) (ha : s.armed d = true) (hm : s.powerMode ≠ 3) :
    exec (.droopDetect d) s = .next (({ s with stretch := d :: s.stretch }).bump (rPwr 0x28) 16 16 1) := by
  have hmid : s.midnight = false := by rw [← Bool.not_eq_true, midnight_iff]; exact hm
  show execDroopDetect d s = _
  unfold execDroopDetect
  simp only [hd, hh, ha, hmid, decide_true, Bool.and_self, Bool.not_false, if_true]
  rfl

theorem exec_droopDetect_still {s : State} {d : Nat} (h : s.armed d = false ∨ s.powerMode = 3) : exec (.droopDetect d) s = .next s := by
  have hno : (decide (d < 4) && s.hasDie d && s.armed d && !s.midnight) = false := by
    rcases h with h | h
    · rw [h, Bool.and_false, Bool.false_and]
    · rw [midnight_iff.2 h, Bool.not_true, Bool.and_false]
  show execDroopDetect d s = _
  unfold execDroopDetect
  rw [hno]
  rfl

/-- A stretch ends; the droop floor follows one of 32 cycles whose detector still fires. -/
theorem exec_stretchEnd {s : State} {d : Nat} (h : d ∈ s.stretch) (cycles : Nat) (still : Bool) :
    let t := ({ s with stretch := s.stretch.filter (· != d), escEnd := Tab.put none d (some s.time) s.escEnd }).bump
      (rPwr 0x28) 32 32 (Nat.min 32 cycles)
    exec (.stretchEnd d cycles still) s = .next (if 32 ≤ cycles ∧ still = true then
      (((t.setRf (rDie d) 55 9 (Nat.min 256 (t.rf (rDie d) 55 9 + 8))).setRbit (rDie d) 51 true).bump (rPwr 0x28) 0 16 1).pulse 838 else t) := by
  intro t
  have hmin : Nat.min 32 cycles = 32 ↔ 32 ≤ cycles := min_eq_left_iff
  show execStretchEnd d cycles still s = _
  unfold execStretchEnd
  rw [hasNat_iff.2 h, if_pos rfl]
  simp only [Bool.and_eq_true, decide_eq_true_eq, hmin]
  rfl

/-! ### Modes (R34, R394) -/

theorem powerMode_of_reg {s t : State} (h : t.reg (rPwr 0x18) = s.reg (rPwr 0x18)) : t.powerMode = s.powerMode := by
  unfold State.powerMode State.rf
  rw [h]

theorem exec_pwrModeWrite (s : State) (v : BitVec 32) : let want := fld (v.setWidth 64 : W64) 0 2
    exec (.pwrModeWrite v) s = .next (if want = 3 ∧ s.tripped = true then s
      else (s.setRf (rPwr 0) 0 2 want).setRbit (rPwr 0x18) 29 (want == 3 && s.powerMode != 3)) := by
  intro want
  have hmode : (s.setRf (rPwr 0) 0 2 want).powerMode = s.powerMode := powerMode_of_reg (State.reg_setRf_ne s (by decide))
  show execPwrModeWrite v s = _
  unfold execPwrModeWrite State.pwrModeWrite
  simp only [Bool.and_eq_true, decide_eq_true_eq]
  rw [← hmode]
  rfl

end Sys2Proof.Machine
end

section
/-! Power: what the Regulator touches at a boundary (O52). -/

namespace Sys2Proof.Machine

/-! ### What power management touches -/

/-- `t` is `s` but for the registers of `Q`, what raising events shows, the samples and the Regulator's own state. -/
structure PowersR (Q : Nat → Prop) (s t : State) : Prop where
  regs : ∀ o, ¬ eventReg o → ¬ Q o → t.reg o = s.reg o
  rest : { t with regs := s.regs, out := s.out, rails := s.rails, regl := s.regl } = s

section
variable {Q : Nat → Prop} {s t u : State}

theorem PowersR.refl (s : State) : PowersR Q s s := ⟨fun _ _ _ => rfl, rfl⟩

theorem PowersR.trans (h : PowersR Q s t) (k : PowersR Q t u) : PowersR Q s u := by
  refine ⟨fun o h0 h1 => (k.regs o h0 h1).trans (h.regs o h0 h1), ?_⟩
  have h1 := h.rest
  rw [← k.rest] at h1
  exact h1

theorem PowersR.regl (s : State) (g : Regl) : PowersR Q s { s with regl := g } := ⟨fun _ _ _ => rfl, rfl⟩

theorem PowersR.rails (s : State) (r : Rails) : PowersR Q s { s with rails := r } := ⟨fun _ _ _ => rfl, rfl⟩

theorem PowersR.mono {R : Nat → Prop} (h : PowersR Q s t) (k : ∀ o, Q o → R o) : PowersR R s t :=
  ⟨fun o h0 h1 => h.regs o h0 fun h2 => h1 (k o h2), h.rest⟩

theorem PowersR.powers (h : PowersR pwrReg s t) : Powers s t := ⟨h.regs, h.rest⟩

theorem PowersR.setReg (h : PowersR Q s t) (o : Nat) (v : W64) (ho : Q o) : PowersR Q s (t.setReg o v) :=
  ⟨fun p h0 h1 => (State.reg_setReg_ne t v (by rintro rfl; exact h1 ho)).trans (h.regs p h0 h1), h.rest⟩

theorem PowersR.setRf (h : PowersR Q s t) (o lo len v : Nat) (ho : Q o) : PowersR Q s (t.setRf o lo len v) := h.setReg _ _ ho

theorem PowersR.setRbit (h : PowersR Q s t) (o i : Nat) (b : Bool) (ho : Q o) : PowersR Q s (t.setRbit o i b) := h.setReg _ _ ho

theorem PowersR.bump (h : PowersR Q s t) (o lo len n : Nat) (ho : Q o) : PowersR Q s (t.bump o lo len n) := h.setReg _ _ ho

theorem PowersR.raised (h : PowersR Q s t) (k : Raised t u) : PowersR Q s u :=
  h.trans ⟨fun o h0 _ => k.regs o h0, congrArg (fun z : State => { z with rails := t.rails, regl := t.regl }) k.rest⟩

theorem PowersR.pulse (h : PowersR Q s t) (n : Nat) : PowersR Q s (t.pulse n) := h.raised (State.pulse_raised (Raised.refl t) n)

theorem PowersR.setLevel (h : PowersR Q s t) (n : Nat) (b : Bool) : PowersR Q s (t.setLevel n b) :=
  h.raised (State.setLevel_raised (Raised.refl t) n b)

theorem PowersR.foldl {α : Type} {f : State → α → State} {l : List α} (hf : ∀ z, ∀ a ∈ l, PowersR Q z (f z a)) (h : PowersR Q s t) :
    PowersR Q s (l.foldl f t) :=
  List.foldlRecOn (motive := PowersR Q s) l f h fun z hz a ha => hz.trans (hf z a ha)

theorem PowersR.get (h : PowersR Q s t) {α : Type} (f : State → α)
    (hf : ∀ (z : State) a b c d, f { z with regs := a, out := b, rails := c, regl := d } = f z) : f t = f s := by
  have := congrArg f h.rest
  rwa [hf] at this

theorem PowersR.hasDie (h : PowersR Q s t) (d : Nat) : t.hasDie d = s.hasDie d := h.get (fun z => z.hasDie d) fun _ _ _ _ _ => rfl

theorem PowersR.rf (h : PowersR Q s t) {o : Nat} (h0 : ¬ eventReg o) (h1 : ¬ Q o) (lo len : Nat) : t.rf o lo len = s.rf o lo len := by
  unfold State.rf
  rw [h.regs o h0 h1]

end

/-! ### The interval that ends (R367, R376, R377) -/

/-- Registers of the attribution and of what is learned: PWR_DIEd, ATTR_CTRL and the residuals, the counters of cores and phases, the table
of phases. -/
def learnReg (o : Nat) : Prop :=
  o = rPwr 0x38 ∨ (rPwr 0x100 ≤ o ∧ o < rPwr 0x120) ∨ (rPwr 0x140 ≤ o ∧ o < rPwr 0x160) ∨ (rPwr 0x1000 ≤ o ∧ o < rPwr 0x4000)

theorem learnReg_die {d : Nat} (h : d < 4) : learnReg (rDie d) := by unfold learnReg rDie rPwr; omega

theorem learnReg_phase (n : BitVec 8) : learnReg (rPhase n.toNat) := by
  have := n.isLt
  unfold learnReg rPhase rPwr
  omega

/-- The counters of each core of die d, and of the phase it is in, take its share of an interval. -/
def State.giveCores (s : State) (d : Nat) (f : Nat → Nat) : State :=
  ((List.range 16).map (16 * d + ·)).foldl (fun t c =>
    (t.bump (rPwr (0x1000 + 8 * c)) 0 64 (f c)).bump (rPwr (0x2000 + 8 * (t.core c).phase.toNat)) 0 64 (f c)) s

theorem giveCores_powers (s : State) {d : Nat} (hd : d < 4) (f : Nat → Nat) : PowersR learnReg s (s.giveCores d f) := by
  refine PowersR.foldl (fun z c hc => ?_) (PowersR.refl s)
  obtain ⟨i, hi, rfl⟩ := List.mem_map.1 hc
  have hi := List.mem_range.1 hi
  have hp := (z.core (16 * d + i)).phase.isLt
  exact ((PowersR.refl z).bump _ _ _ _ (by unfold learnReg rPwr; omega)).bump _ _ _ _ (by unfold learnReg rPwr; omega)

/-- The shares of an interval: of the measured energy where the model diverges, else the model's own with the residual to the die (R377). -/
def State.shareOut (s : State) (d energy : Nat) (model : Nat → Nat) : State :=
  let total := (((List.range 16).map (16 * d + ·)).map model).sum
  if s.rbit (rPwr 0x18) 27 then (s.giveCores d fun c => if total = 0 then 0 else model c * energy / total).setRbit (rPwr 0x38) 31 true
  else
    let t := s.giveCores d model
    t.setReg (rPwr (0x140 + 8 * d))
      (BitVec.ofInt 64 (max (-(2 ^ 63)) (min (2 ^ 63 - 1) ((t.reg (rPwr (0x140 + 8 * d))).toInt + (energy : Int) - (total : Int)))))

theorem shareOut_powers (s : State) {d : Nat} (hd : d < 4) (energy : Nat) (model : Nat → Nat) :
    PowersR learnReg s (s.shareOut d energy model) := by
  unfold State.shareOut
  dsimp only
  split
  · exact (giveCores_powers s hd _).setRbit _ _ _ (.inl rfl)
  · exact (giveCores_powers s hd _).setReg _ _ (by unfold learnReg rPwr; omega)

theorem learn_powers (s : State) (d dyn hbm k : Nat) (model : Nat → Nat) : PowersR learnReg s (s.learn d dyn hbm k model) := by
  unfold State.learn
  refine PowersR.foldl (fun z c _ => ?_) (PowersR.refl s)
  have h := learnReg_phase (z.core c).phase
  exact (((PowersR.refl z).setRf _ _ _ _ h).setRf _ _ _ _ h).bump _ _ _ _ h

/-- One die's part of the interval that ends: its mean power is shown, its shares are given, and its phases learned. -/
def State.learnDie (t : State) (x : RegInputs) (s : State) (d : Nat) : State :=
  let t := (t.setRf (rDie d) 16 16 (watts (s.meas d))).shareOut d (Tab.get 0 d s.rails.dies / 1000) fun c => nth 0 x.coreModel c
  if t.regl.clear then t else t.learn d (s.dynDie x d) (s.hbmDie d) (s.oldK d) fun c => nth 0 x.coreModel c

theorem learnDie_powers (t : State) (x : RegInputs) (s : State) {d : Nat} (hd : d < 4) : PowersR learnReg t (t.learnDie x s d) := by
  have h := ((PowersR.refl t).setRf (rDie d) 16 16 (watts (s.meas d)) (learnReg_die hd)).trans
    (shareOut_powers _ hd (Tab.get 0 d s.rails.dies / 1000) fun c => nth 0 x.coreModel c)
  unfold State.learnDie
  dsimp only
  split
  · exact h
  · exact h.trans (learn_powers _ _ _ _ _ _)

theorem learnAll_eq (t : State) (x : RegInputs) (s : State) : t.learnAll x s =
    let u := s.dies.foldl (fun t d => t.learnDie x s d) t
    if u.regl.clear then { u with regs := Tab.clear (rPwr 0x3000) 0x800 u.regs, regl := { u.regl with clear := false } } else u := rfl

/-- The interval that ends is shown and learned; a learn_clear that waited is spent. -/
theorem learnAll_powers (t s : State) (x : RegInputs) : PowersR learnReg t (t.learnAll x s) ∧ (t.learnAll x s).regl.clear = false := by
  have hdies : PowersR learnReg t (s.dies.foldl (fun t d => t.learnDie x s d) t) :=
    PowersR.foldl (fun z d hd => learnDie_powers z x s (mem_dies.1 hd).1) (PowersR.refl t)
  rw [learnAll_eq]
  dsimp only
  split
  · refine ⟨hdies.trans ⟨fun o _ h => ?_, rfl⟩, rfl⟩
    unfold State.reg
    rw [Tab.get_clear, if_neg fun hc => h (by unfold rPwr at hc; unfold learnReg rPwr; omega)]
  · next hc => exact ⟨hdies, Bool.not_eq_true _ ▸ hc⟩

/-! ### Events leave the Regulator and the mode -/

theorem Raised.regl {s t : State} (h : Raised s t) : t.regl = s.regl := by
  have := congrArg State.regl h.rest
  exact this

/-! ### Divergence, and the mode (R34, R378) -/

/-- Registers that show whether the model diverges, and the mode. -/
def statReg (o : Nat) : Prop := o = rPwr 0x18 ∨ o = rThm 0

theorem statReg_plain : ¬ eventReg (rPwr 0x18) ∧ ¬ eventReg (rThm 0) := by
  constructor
  · unfold eventReg rPwr; omega
  · unfold eventReg rThm; omega

/-- Another bit of PWR_STATUS leaves the mode. -/
theorem powerMode_setRbit (s : State) {i : Nat} (b : Bool) (h : i < 30) : (s.setRbit (rPwr 0x18) i b).powerMode = s.powerMode := by
  unfold State.powerMode State.rf
  rw [State.reg_setRbit_self, fld_setBit_ne _ _ _ _ _ (.inl h)]

theorem powerMode_setRbit_ne (s : State) {o i : Nat} {b : Bool} (h : rPwr 0x18 ≠ o) : (s.setRbit o i b).powerMode = s.powerMode :=
  powerMode_of_reg (State.reg_setRbit_ne s h)

theorem powerMode_pulse (s : State) (n : Nat) : (s.pulse n).powerMode = s.powerMode :=
  powerMode_of_reg (State.pulse_reg s n _ statReg_plain.1)

theorem powerMode_setLevel (s : State) (n : Nat) (b : Bool) : (s.setLevel n b).powerMode = s.powerMode :=
  powerMode_of_reg (State.setLevel_reg s n _ b statReg_plain.1)

theorem powerMode_set (s : State) {v : Nat} (h : v < 4) : (s.setRf (rPwr 0x18) 30 2 v).powerMode = v := by
  unfold State.powerMode
  rw [State.rf_setRf _ _ _ _ _ (by omega)]
  exact Nat.mod_eq_of_lt h

theorem judgeDiverged_spec (s : State) : PowersR statReg s s.judgeDiverged ∧ s.judgeDiverged.powerMode = s.powerMode
    ∧ s.judgeDiverged.regl.clear = s.regl.clear := by
  have h (w : Nat) (b : Bool) :
      let t := (({ s with regl := { s.regl with within := w } }.setRbit (rPwr 0x18) 27 b).setRbit (rThm 0) 21 b).setLevel 833 b
      PowersR statReg s t ∧ t.powerMode = s.powerMode ∧ t.regl.clear = s.regl.clear := by
    intro t
    refine ⟨?_, ?_, ?_⟩
    · exact PowersR.setLevel (((PowersR.regl s { s.regl with within := w }).setRbit _ _ _ (.inl rfl)).setRbit _ _ _ (.inr rfl)) _ _
    · exact (powerMode_setLevel _ _ _).trans ((powerMode_setRbit_ne _ (by decide)).trans (powerMode_setRbit _ _ (by omega)))
    · have hr : Raised _ t := State.setLevel_raised (Raised.refl _) 833 b
      have hc := congrArg Regl.clear hr.regl
      exact hc
  exact h _ _

/-- Where Midnight does not end, the mode written takes effect, and no more is touched than shows it. -/
theorem applyMode_spec {s : State} (h : ¬ (s.powerMode = 3 ∧ s.rf (rPwr 0) 0 2 ≠ 3)) : PowersR statReg s s.applyMode
    ∧ s.applyMode.powerMode = (if s.rf (rPwr 0) 0 2 = 3 then s.powerMode else s.rf (rPwr 0) 0 2) ∧ s.applyMode.regl = s.regl := by
  unfold State.applyMode
  simp only [Bool.or_eq_true, decide_eq_true_eq]
  generalize hw : s.rf (rPwr 0) 0 2 = want at h ⊢
  have hwant : want < 4 := by
    rw [← hw]
    exact BitVec.isLt _
  split
  · next hsame =>
    refine ⟨PowersR.refl s, ?_, rfl⟩
    split
    · rfl
    · next h3 => exact (hsame.resolve_left h3).symm
  · next hnew =>
    have h3 : want ≠ 3 := fun e => hnew (.inl e)
    rw [if_neg fun e => h ⟨e, h3⟩, if_neg h3]
    exact ⟨((PowersR.refl s).setRf _ _ _ _ (.inl rfl)).pulse _, (powerMode_pulse _ _).trans (powerMode_set s hwant),
      (State.pulse_raised (Raised.refl _) 840).regl⟩

/-- A mode other than Midnight ends Midnight. -/
theorem applyMode_wakes {s : State} (hm : s.powerMode = 3) (hw : s.rf (rPwr 0) 0 2 ≠ 3) : s.applyMode = s.wake (s.rf (rPwr 0) 0 2) := by
  unfold State.applyMode
  simp only [Bool.or_eq_true, decide_eq_true_eq]
  rw [if_neg (by omega), if_pos hm]

/-! ### The plan of the next interval (R371, R383) -/

/-- Registers that a plan sets: PWR_STATUS and PWR_DIEd. -/
def planReg (o : Nat) : Prop := o = rPwr 0x18 ∨ (rPwr 0x100 ≤ o ∧ o < rPwr 0x120)

/-- k keeps its floors, and never leaves its range. -/
theorem plan_k_bounds (s : State) (m : Nat → DieModel) (pkg io hbm learned d : Nat) : let k := (s.plan m pkg io hbm learned).k d
    modeFloor s.powerMode ≤ k ∧ stepFloor (s.dieStep d) ≤ k ∧ k ≤ 256 := by
  intro k
  obtain ⟨c, hk⟩ : ∃ c, k = Nat.max (s.floorOf d) (Nat.min 256 c) := ⟨_, rfl⟩
  have hmode : modeFloor s.powerMode ≤ 256 := by unfold modeFloor; split <;> omega
  have hstep : stepFloor (s.dieStep d) ≤ 256 := by unfold stepFloor; split <;> omega
  have hmin : Nat.min 256 c ≤ 256 := Nat.min_le_left _ _
  rw [hk, State.floorOf]
  exact ⟨(Nat.le_max_left _ _).trans (Nat.le_max_left _ _), (Nat.le_max_right _ _).trans (Nat.le_max_left _ _),
    Nat.max_le.2 ⟨Nat.max_le.2 ⟨hmode, hstep⟩, hmin⟩⟩

theorem plan_clear (s : State) (m : Nat → DieModel) (pkg io hbm learned : Nat) : (s.plan m pkg io hbm learned).regl.clear = s.regl.clear := rfl

/-- What PWR_DIEd shows of a plan: k, the thermal step, and no droop floor. -/
theorem planDie_fields (s : State) (p : Plan) (m : Nat → DieModel) (d : Nat) (w : W64) :
    fld (s.planDie p m d w) 55 9 = p.k d % 2 ^ 9 ∧ fld (s.planDie p m d w) 52 3 = s.dieStep d % 2 ^ 3 ∧ bit (s.planDie p m d w) 51 = false := by
  unfold State.planDie
  dsimp only
  refine ⟨?_, ?_, ?_⟩
  · rw [fld_setFld_ne _ _ _ _ _ _ (by omega), fld_setFld_ne _ _ _ _ _ _ (by omega), fld_setBit_ne _ _ _ _ _ (by omega),
      fld_setFld_ne _ _ _ _ _ _ (by omega), fld_setFld _ _ _ _ (by omega)]
  · rw [fld_setFld_ne _ _ _ _ _ _ (by omega), fld_setFld_ne _ _ _ _ _ _ (by omega), fld_setBit_ne _ _ _ _ _ (by omega),
      fld_setFld _ _ _ _ (by omega)]
  · rw [bit_setFld_ne _ _ _ _ _ (by omega), bit_setFld_ne _ _ _ _ _ (by omega), bit_setBit _ _ _ (by omega)]

theorem rDie_ne {d e : Nat} (h : d ≠ e) : rDie d ≠ rDie e := by
  unfold rDie rPwr
  omega

/-- PWR_DIEd of each die of a list takes a new value. -/
def State.setDies (s : State) (g : Nat → W64 → W64) (l : List Nat) : State :=
  l.foldl (fun t d => t.setReg (rDie d) (g d (t.reg (rDie d)))) s

section
variable (s : State) (g : Nat → W64 → W64) {l : List Nat}

theorem setDies_powers (h : ∀ d ∈ l, d < 4) : PowersR planReg s (s.setDies g l) :=
  PowersR.foldl (fun z d hd => (PowersR.refl z).setReg _ _ (by
    have := h d hd
    unfold planReg rDie rPwr
    omega)) (PowersR.refl s)

/-- A register that is PWR_DIEd of none of them stands. -/
theorem setDies_reg_ne {o : Nat} (h : ∀ d ∈ l, o ≠ rDie d) : (s.setDies g l).reg o = s.reg o :=
  List.foldlRecOn (motive := fun t : State => t.reg o = s.reg o) l _ rfl fun t ht d hd => (State.reg_setReg_ne t _ (h d hd)).trans ht

theorem setDies_reg_die (hl : l.Nodup) {d : Nat} (hd : d ∈ l) : (s.setDies g l).reg (rDie d) = g d (s.reg (rDie d)) := by
  induction l generalizing s with
  | nil => cases hd
  | cons a l ih =>
    obtain ⟨ha, hl⟩ := List.nodup_cons.1 hl
    show (State.setDies (s.setReg (rDie a) (g a (s.reg (rDie a)))) g l).reg (rDie d) = _
    by_cases hda : d = a
    · subst hda
      rw [setDies_reg_ne _ _ fun e he => rDie_ne (by rintro rfl; exact ha he), State.reg_setReg_self]
    · rw [ih _ hl ((List.mem_cons.1 hd).resolve_left hda), State.reg_setReg_ne _ _ (rDie_ne hda)]

end

theorem applyPlan_eq (s : State) (p : Plan) (m : Nat → DieModel) : s.applyPlan p m =
    ({ (((s.setDies (s.planDie p m) s.dies).setRf (rPwr 0x18) 24 2 p.gating).setRbit (rPwr 0x18) 23 (p.hbmLim != 0)).setRbit
      (rPwr 0x18) 28 p.limiting with regl := p.regl } : State).setLevel 832 p.limiting := rfl

/-- A plan in effect: the dies' registers, PWR_STATUS but for the mode, and the Regulator's state. -/
theorem applyPlan_spec (s : State) (p : Plan) (m : Nat → DieModel) : PowersR planReg s (s.applyPlan p m)
    ∧ (s.applyPlan p m).powerMode = s.powerMode ∧ (s.applyPlan p m).regl = p.regl
    ∧ ∀ d ∈ s.dies, (s.applyPlan p m).reg (rDie d) = s.planDie p m d (s.reg (rDie d)) := by
  have hne (d : Nat) : rDie d ≠ rPwr 0x18 := by unfold rDie rPwr; omega
  have hf : PowersR planReg s (s.setDies (s.planDie p m) s.dies) := setDies_powers s _ fun d hd => (mem_dies.1 hd).1
  have hm : (s.setDies (s.planDie p m) s.dies).powerMode = s.powerMode := powerMode_of_reg (setDies_reg_ne _ _ fun d _ => (hne d).symm)
  have hd : ∀ d ∈ s.dies, (s.setDies (s.planDie p m) s.dies).reg (rDie d) = s.planDie p m d (s.reg (rDie d)) := fun d hd =>
    setDies_reg_die s _ (dies_nodup s) hd
  rw [applyPlan_eq]
  generalize s.setDies (s.planDie p m) s.dies = t at hf hd hm ⊢
  refine ⟨?_, ?_, ?_, fun d hdie => ?_⟩
  · have h18 : planReg (rPwr 0x18) := .inl rfl
    exact PowersR.setLevel ((((hf.setRf _ _ _ _ h18).setRbit _ _ _ h18).setRbit _ _ _ h18).trans (PowersR.regl _ p.regl)) _ _
  · refine (powerMode_setLevel _ _ _).trans (((powerMode_setRbit _ _ (by omega)).trans (powerMode_setRbit _ _ (by omega))).trans ?_)
    rw [← hm]
    exact State.rf_setRf_ne _ _ _ _ _ _ _ (by omega)
  · exact (State.setLevel_raised (Raised.refl _) 832 p.limiting).regl
  · have hev : ¬ eventReg (rDie d) := by
      have := (mem_dies.1 hdie).1
      unfold eventReg rDie rPwr
      omega
    rw [State.setLevel_reg _ _ _ _ hev, ← hd d hdie]
    exact (State.reg_setRbit_ne _ (hne d)).trans ((State.reg_setRbit_ne _ (hne d)).trans (State.reg_setRf_ne _ (hne d)))

end Sys2Proof.Machine
end

section
/-! Power: what the fabric, the optics and the stacks leave alone as Midnight begins and ends (O52). -/

namespace Sys2Proof.Machine

/-! ### What stands -/

/-- Cores, memory, what is mounted, and every register but those of `Q` and of the events stand. -/
structure Apart (Q : Nat → Prop) (s t : State) : Prop where
  cores  : t.cores = s.cores
  mem    : t.mem = s.mem
  grade  : t.grade = s.grade
  off    : t.off = s.off
  iodVer : t.iodVer = s.iodVer
  regs   : ∀ o, ¬ eventReg o → ¬ Q o → t.reg o = s.reg o

section
variable {Q : Nat → Prop} {s t u : State}

theorem Apart.refl (s : State) : Apart Q s s := ⟨rfl, rfl, rfl, rfl, rfl, fun _ _ _ => rfl⟩

theorem Apart.trans (h : Apart Q s t) (k : Apart Q t u) : Apart Q s u :=
  ⟨k.cores.trans h.cores, k.mem.trans h.mem, k.grade.trans h.grade, k.off.trans h.off, k.iodVer.trans h.iodVer,
    fun o h0 h1 => (k.regs o h0 h1).trans (h.regs o h0 h1)⟩

theorem Apart.mono {R : Nat → Prop} (h : Apart Q s t) (k : ∀ o, Q o → R o) : Apart R s t :=
  ⟨h.cores, h.mem, h.grade, h.off, h.iodVer, fun o h0 h1 => h.regs o h0 fun h2 => h1 (k o h2)⟩

theorem Apart.setReg (h : Apart Q s t) (o : Nat) (v : W64) (ho : Q o) : Apart Q s (t.setReg o v) :=
  ⟨h.cores, h.mem, h.grade, h.off, h.iodVer,
    fun p h0 h1 => (State.reg_setReg_ne t v (by rintro rfl; exact h1 ho)).trans (h.regs p h0 h1)⟩

theorem Apart.setRf (h : Apart Q s t) (o lo len v : Nat) (ho : Q o) : Apart Q s (t.setRf o lo len v) := h.setReg _ _ ho

theorem Apart.setRbit (h : Apart Q s t) (o i : Nat) (b : Bool) (ho : Q o) : Apart Q s (t.setRbit o i b) := h.setReg _ _ ho

theorem Apart.raised (h : Apart Q s t) (k : Raised t u) : Apart Q s u := by
  obtain ⟨kregs, krest⟩ := k
  have hcores := congrArg State.cores krest
  have hmem := congrArg State.mem krest
  have hgrade := congrArg State.grade krest
  have hoff := congrArg State.off krest
  have hiod := congrArg State.iodVer krest
  exact h.trans ⟨hcores, hmem, hgrade, hoff, hiod, fun o h0 _ => kregs o h0⟩

theorem Apart.pulse (h : Apart Q s t) (n : Nat) : Apart Q s (t.pulse n) := h.raised (State.pulse_raised (Raised.refl t) n)

theorem Apart.setLevel (h : Apart Q s t) (n : Nat) (b : Bool) : Apart Q s (t.setLevel n b) :=
  h.raised (State.setLevel_raised (Raised.refl t) n b)

theorem Apart.mapChange (h : Apart Q s t) : Apart Q s t.mapChange := ⟨h.cores, h.mem, h.grade, h.off, h.iodVer, h.regs⟩

theorem Apart.of_powers (h : PowersR Q s t) : Apart Q s t :=
  ⟨h.get State.cores fun _ _ _ _ _ => rfl, h.get State.mem fun _ _ _ _ _ => rfl, h.get State.grade fun _ _ _ _ _ => rfl,
    h.get State.off fun _ _ _ _ _ => rfl, h.get State.iodVer fun _ _ _ _ _ => rfl, h.regs⟩

theorem Apart.of_net {P : Nat → Prop} (h : NetR Q P s t) : Apart Q s t :=
  ⟨h.get State.cores fun _ _ _ _ _ _ _ _ _ _ _ _ _ _ _ _ _ _ _ => rfl, h.get State.mem fun _ _ _ _ _ _ _ _ _ _ _ _ _ _ _ _ _ _ _ => rfl,
    h.get State.grade fun _ _ _ _ _ _ _ _ _ _ _ _ _ _ _ _ _ _ _ => rfl, h.get State.off fun _ _ _ _ _ _ _ _ _ _ _ _ _ _ _ _ _ _ _ => rfl,
    h.get State.iodVer fun _ _ _ _ _ _ _ _ _ _ _ _ _ _ _ _ _ _ _ => rfl, h.regs⟩

theorem Apart.hasDie (h : Apart Q s t) (d : Nat) : t.hasDie d = s.hasDie d := by
  unfold State.hasDie
  rw [h.off, h.grade]

theorem Apart.hasIo (h : Apart Q s t) (i : Nat) : t.hasIo i = s.hasIo i := by
  unfold State.hasIo State.endpointAt
  rw [h.off, h.grade, h.iodVer]

theorem Apart.hasStack (h : Apart Q s t) (st : Nat) : t.hasStack st = s.hasStack st := by
  unfold State.hasStack
  rw [h.hasDie, h.grade]

theorem Apart.hasPort (h : Apart Q s t) (p : Nat) : t.hasPort p = s.hasPort p := h.hasIo _

theorem Apart.rf (h : Apart Q s t) {o : Nat} (h0 : ¬ eventReg o) (h1 : ¬ Q o) (lo len : Nat) : t.rf o lo len = s.rf o lo len := by
  unfold State.rf
  rw [h.regs o h0 h1]

theorem Apart.powerMode (h : Apart Q s t) (h1 : ¬ Q (rPwr 0x18)) : t.powerMode = s.powerMode :=
  powerMode_of_reg (h.regs _ statReg_plain.1 h1)

theorem hbm_plain {st : Nat} (hst : st < 32) : ¬ eventReg (rHbm st 0) := by unfold eventReg rHbm; omega

theorem Apart.hbmState (h : Apart Q s t) {st : Nat} (hst : st < 32) (h1 : ¬ Q (rHbm st 0)) : t.hbmState st = s.hbmState st :=
  h.rf (hbm_plain hst) h1 29 3

end

/-! ### The stacks (R388, R389) -/

/-- Registers of the stacks, and the READY map of the stacks. -/
def stackReg (o : Nat) : Prop := o = rBoot 0x108 ∨ (0x500000 ≤ o ∧ o < 0x600000)

theorem stackReg_hbm {st : Nat} (hst : st < 32) : stackReg (rHbm st 0) := by unfold stackReg rHbm; omega

theorem rHbm_ne {st st' : Nat} (h : st ≠ st') : rHbm st 0 ≠ rHbm st' 0 := by unfold rHbm; omega

theorem rHbm_boot (st : Nat) : rHbm st 0 ≠ rBoot 0x108 := by unfold rHbm rBoot; omega

theorem hbmState_of_reg {s t : State} {st : Nat} (h : t.reg (rHbm st 0) = s.reg (rHbm st 0)) : t.hbmState st = s.hbmState st := by
  unfold State.hbmState State.rf
  rw [h]

/-- A stack's scheduler shows its mode, and nothing of the stacks' states moves. -/
theorem schedApply_spec (t : State) {st : Nat} (hst : st < 32) :
    Apart stackReg t (t.schedApply st) ∧ ∀ st', (t.schedApply st).hbmState st' = t.hbmState st' := by
  unfold State.schedApply
  dsimp only
  generalize ht : t.modStack st _ = u
  have hu : Apart stackReg t u := by subst ht; exact ⟨rfl, rfl, rfl, rfl, rfl, fun _ _ _ => rfl⟩
  have hr : ∀ o, u.reg o = t.reg o := by subst ht; exact fun _ => rfl
  split
  · refine ⟨hu.setRbit _ _ _ (stackReg_hbm hst), fun st' => ?_⟩
    by_cases h : st' = st
    · subst h
      unfold State.hbmState State.rf
      rw [State.reg_setRbit_self, fld_setBit_ne _ _ _ _ _ (.inl (by omega)), hr]
    · exact hbmState_of_reg ((State.reg_setRbit_ne u (rHbm_ne h)).trans (hr _))
  · exact ⟨hu, fun st' => hbmState_of_reg (hr _)⟩

theorem setStackState_spec (t : State) {st v : Nat} (hst : st < 32) (hv : v < 8) : Apart stackReg t (t.setStackState st v)
    ∧ (t.setStackState st v).hbmState st = v ∧ ∀ st' < 32, st' ≠ st → (t.setStackState st v).hbmState st' = t.hbmState st' := by
  have hreg : ∀ st' < 32, (t.setStackState st v).reg (rHbm st' 0) = (t.setRf (rHbm st 0) 29 3 v).reg (rHbm st' 0) := fun st' h => by
    unfold State.setStackState
    rw [State.setLevel_reg _ _ _ _ (hbm_plain h), State.reg_setRbit_ne _ (rHbm_boot st')]
  refine ⟨?_, ?_, fun st' h hne => ?_⟩
  · exact (((Apart.refl t).setRf _ _ _ _ (stackReg_hbm hst)).setRbit _ _ _ (.inl rfl)).setLevel _ _
  · rw [hbmState_of_reg (hreg st hst), State.hbmState, State.rf_setRf _ _ _ _ _ (by omega)]
    exact Nat.mod_eq_of_lt hv
  · exact hbmState_of_reg ((hreg st' h).trans (State.reg_setRf_ne t (rHbm_ne hne)))

/-- One stack enters state w from state v. -/
def State.stackTo (t : State) (v w st : Nat) : State :=
  if t.hasStack st && t.hbmState st == v then
    ((t.modStack st fun k => { k with wbuf := [], batch := [], rows := [] }).schedApply st).setStackState st w
  else t

theorem stacksTo_eq (s : State) (v w : Nat) : s.stacksTo v w = iter 32 (fun st t => t.stackTo v w st) s := rfl

theorem stackTo_spec (t : State) {v w st : Nat} (hst : st < 32) (hw : w < 8) : Apart stackReg t (t.stackTo v w st)
    ∧ (t.stackTo v w st).hbmState st = (if t.hasStack st = true ∧ t.hbmState st = v then w else t.hbmState st)
    ∧ ∀ st' < 32, st' ≠ st → (t.stackTo v w st).hbmState st' = t.hbmState st' := by
  unfold State.stackTo
  simp only [Bool.and_eq_true, beq_iff_eq]
  split
  · generalize hu : t.modStack st _ = u
    have ht : Apart stackReg t u := by subst hu; exact ⟨rfl, rfl, rfl, rfl, rfl, fun _ _ _ => rfl⟩
    have hh : ∀ st', u.hbmState st' = t.hbmState st' := by subst hu; exact fun _ => rfl
    obtain ⟨ha, hs⟩ := schedApply_spec u hst
    obtain ⟨hb, hself, hother⟩ := setStackState_spec (u.schedApply st) hst hw
    exact ⟨(ht.trans ha).trans hb, hself, fun st' h hne => (hother st' h hne).trans ((hs st').trans (hh st'))⟩
  · exact ⟨Apart.refl t, rfl, fun _ _ _ => rfl⟩

/-- Every mounted stack in state v enters state w; the others stand. -/
theorem stacksTo_spec (s : State) {v w : Nat} (hw : w < 8) : Apart stackReg s (s.stacksTo v w)
    ∧ ∀ st < 32, (s.stacksTo v w).hbmState st = if s.hasStack st = true ∧ s.hbmState st = v then w else s.hbmState st := by
  rw [stacksTo_eq]
  have hinv : ∀ i < 32, ∀ t, Apart stackReg s t → Apart stackReg s (t.stackTo v w i) := fun i hi t ht => ht.trans (stackTo_spec t hi hw).1
  refine ⟨iter_inv hinv (Apart.refl s), fun st hst => ?_⟩
  refine iter_observe (fun t => t.hbmState st) (fun x => if s.hasStack st = true ∧ x = v then w else x) hst hinv (fun t ht => ?_)
    (fun i hi hne t _ => (stackTo_spec t hi hw).2.2 st hst hne.symm) (Apart.refl s)
  rw [(stackTo_spec t hst hw).2.1, ht.hasStack]

/-! ### Ports that resume (R291, R294) -/

theorem holdDown_net (t : State) {p : Nat} (c : Nat) (hp : p < 32) : Net t (t.holdDown p c) := by
  have h0 := port_net p 0 hp (by omega)
  have h : Net t ((t.setRf (rPort p 0) 61 3 1).setRf (rPort p 0) 58 3 c) := ((NetR.refl t).setRf _ _ _ _ h0).setRf _ _ _ _ h0
  unfold State.holdDown
  dsimp only
  split
  · exact h
  · exact h.mapChange.pulse _

theorem queuePort_apart (t : State) {p : Nat} (hp : p < 32) : Apart netReg t (t.queuePort p) := by
  have h0 := port_net p 0 hp (by omega)
  have h : Apart netReg t ((t.setRf (rPort p 0) 61 3 1).setRf (rPort p 0) 58 3 0).mapChange :=
    (((Apart.refl t).setRf _ _ _ _ h0).setRf _ _ _ _ h0).mapChange
  unfold State.queuePort
  split
  · exact Apart.of_net (holdDown_net t 4 hp)
  · split
    · exact Apart.of_net (holdDown_net t 6 hp)
    · dsimp only
      split
      · exact h
      · exact h.trans ⟨rfl, rfl, rfl, rfl, rfl, fun _ _ _ => rfl⟩

theorem takePorts_apart (t : State) {i : Nat} (hi : i < 4) : Apart netReg t (t.takePorts i) := by
  have h : Net t { t.takePorts i with trainQ := t.trainQ } :=
    (takePorts_net t i (fun q => q / 8 = i) fun _ _ h => h).1.mono (fun o ho => by
      obtain ⟨q, hq, ho⟩ := ho
      exact portReg_net (by omega) ho) fun _ _ => trivial
  have ha := Apart.of_net h
  exact ⟨ha.cores, ha.mem, ha.grade, ha.off, ha.iodVer, ha.regs⟩

theorem resumeDie_apart (t : State) {i : Nat} (hi : i < 4) : Apart netReg t (t.resumeDie i) := by
  unfold State.resumeDie
  refine Apart.trans ?_ (takePorts_apart _ hi)
  refine iter_inv (P := Apart netReg t) (fun q hq z hz => ?_) ((Apart.refl t).setRf _ _ _ _ (opt_net i 0 hi (by omega)))
  have hp : 8 * i + q < 32 := by omega
  have hmaps : PortOnly (8 * i + q) z
      ((z.modPort (8 * i + q) fun o => { OPort.reset with seq := o.seq, fanEnd := o.fanEnd }).setMaps (8 * i + q) 0 0) :=
    ((NetR.refl (Q := portReg (8 * i + q)) (P := (· = 8 * i + q)) z).modPort _ _ rfl).trans (setMaps_net _ _ hp 0 0)
  exact (hz.trans (Apart.of_net (hmaps.net hp))).trans (queuePort_apart _ hp)

/-- Registers that the end of Midnight may touch: the optics and the fabric, the stacks, and PWR_STATUS. -/
def wakeReg (o : Nat) : Prop := netReg o ∨ stackReg o ∨ o = rPwr 0x18

theorem rPwr_notNet : ¬ netReg (rPwr 0x18) := by unfold netReg rPwr; omega

theorem rHbm_notNet {st : Nat} (h : st < 32) : ¬ netReg (rHbm st 0) := by unfold netReg rHbm; omega

/-- The end of Midnight: stacks in MIDNIGHT are READY, and the mode is in effect. -/
theorem wake_spec (s : State) {mode : Nat} (hm : mode < 4) : Apart wakeReg s (s.wake mode) ∧ (s.wake mode).powerMode = mode
    ∧ ∀ st < 32, (s.wake mode).hbmState st = if s.hasStack st = true ∧ s.hbmState st = 4 then 2 else s.hbmState st := by
  obtain ⟨hstack, hstate⟩ := stacksTo_spec s (v := 4) (w := 2) (by omega)
  let t := (((s.stacksTo 4 2).setRf (rPwr 0x18) 30 2 mode).setLevel 839 false).pulse 840
  have ht : Apart (fun o => o = rPwr 0x18) (s.stacksTo 4 2) t :=
    (((Apart.refl (Q := fun o => o = rPwr 0x18) _).setRf _ _ _ _ rfl).setLevel _ _).pulse _
  have hmode : t.powerMode = mode := (powerMode_pulse _ _).trans ((powerMode_setLevel _ _ _).trans (powerMode_set _ hm))
  have hports : Apart netReg t (s.wake mode) := iter_inv (P := Apart netReg t) (fun i hi z hz => by
    split
    · exact hz.trans (resumeDie_apart z hi)
    · exact hz) (Apart.refl t)
  refine ⟨?_, (hports.powerMode rPwr_notNet).trans hmode, fun st hst => ?_⟩
  · exact ((hstack.mono fun o h => .inr (.inl h)).trans (ht.mono fun o h => .inr (.inr h))).trans (hports.mono fun o h => .inl h)
  · rw [hports.hbmState hst (rHbm_notNet hst), ht.hbmState hst (by unfold rHbm rPwr; omega), hstate st hst]

/-! ### The lasers (R294) -/

/-- Lasers at set point go to keep-alive. -/
theorem lasers_spec (s : State) : Apart (fun o => ∃ i < 4, o = rOpt i 0) s (s.lasers 3)
    ∧ ∀ i < 4, s.hasIo i = true → (s.lasers 3).rf (rOpt i 0) 29 3 ≠ 2 := by
  have hinv : ∀ i < 4, ∀ t, Apart (fun o => ∃ i < 4, o = rOpt i 0) s t → Apart (fun o => ∃ i < 4, o = rOpt i 0) s
      (if t.hasIo i && (3 == 4 || t.rf (rOpt i 0) 29 3 == 2) then t.setRf (rOpt i 0) 29 3 3 else t) := fun i hi t ht => by
    split
    · exact ht.setRf _ _ _ _ ⟨i, hi, rfl⟩
    · exact ht
  refine ⟨iter_inv hinv (Apart.refl s), fun i hi hio => ?_⟩
  have h : (s.lasers 3).rf (rOpt i 0) 29 3 = if s.rf (rOpt i 0) 29 3 = 2 then 3 else s.rf (rOpt i 0) 29 3 := by
    refine iter_observe (fun t : State => t.rf (rOpt i 0) 29 3) (fun x => if x = 2 then 3 else x) hi hinv (fun t ht => ?_)
      (fun j hj hne t _ => ?_) (Apart.refl s)
    · rw [ht.hasIo, hio]
      by_cases h2 : t.rf (rOpt i 0) 29 3 = 2
      · simp only [h2, beq_self_eq_true, Bool.or_true, Bool.and_self, if_true]
        exact State.rf_setRf _ _ _ _ _ (by omega)
      · simp [h2]
    · split
      · exact State.rf_setRf_reg _ _ _ _ _ _ _ _ (by unfold rOpt; omega)
      · rfl
  rw [h]
  split <;> omega

/-! ### The ports as Midnight begins (R35, R313) -/

/-- The ports of a fan-out are those of its die. -/
def FanWithin (s : State) : Prop := ∀ i < 4, ∀ x, Tab.get none i s.fan = some x → x.1 / 8 = i ∧ x.2 / 8 = i

/-- The fabric and the optics act, and fan-outs stay within their dies. -/
structure Calm (s t : State) : Prop where
  apart : Apart netReg s t
  fans  : FanWithin s → FanWithin t

section
variable {s t u : State}

theorem Calm.refl (s : State) : Calm s s := ⟨Apart.refl s, id⟩

theorem Calm.trans (h : Calm s t) (k : Calm t u) : Calm s u := ⟨h.apart.trans k.apart, k.fans ∘ h.fans⟩

theorem Calm.of_fan (h : Apart netReg s t) (hf : t.fan = s.fan) : Calm s t :=
  ⟨h, fun k => by unfold FanWithin; rw [hf]; exact k⟩

theorem Calm.of_net (h : Net s t) : Calm s t := Calm.of_fan (Apart.of_net h) h.fan

theorem fab_calm (h : Fab s t) : Calm s t :=
  Calm.of_net (h.mono (fun o ho => by unfold fabReg at ho; unfold netReg; omega) fun _ k => k.elim)

end

theorem sendFrame_calm (s : State) (p slot : Nat) (x : Nat × RFrame × Packet) (a : Arb) : Calm s (s.sendFrame p slot x a) := by
  have hrel (z : State) (f : RFrame) : Calm z (z.release f) := fab_calm (release_net z f)
  have hcross (z : State) : Calm z z.cross := fab_calm (cross_net z)
  have hplain (z : State) (r : List RFrame) (b : Tab Arb) (c : Tab Nat) (o : Out) :
      Calm z (({ z with router := r, arb := b, txCred := c } : State).send o) :=
    Calm.of_fan ⟨rfl, rfl, rfl, rfl, rfl, fun _ _ _ => rfl⟩ rfl
  have hcred (z : State) (c : Tab Nat) (o : Out) : Calm z (({ z with txCred := c } : State).send o) :=
    Calm.of_fan ⟨rfl, rfl, rfl, rfl, rfl, fun _ _ _ => rfl⟩ rfl
  unfold State.sendFrame
  dsimp only
  refine Calm.trans ?_ (hcross _)
  split
  · refine Calm.trans (Calm.trans ?_ (hrel _ _)) (hrel _ _)
    split
    · exact (hplain _ _ _ _ _).trans (hcred _ _ _)
    · exact hplain _ _ _ _ _
  · refine Calm.trans ?_ (hrel _ _)
    split
    · exact (hplain _ _ _ _ _).trans (hcred _ _ _)
    · exact hplain _ _ _ _ _

theorem flushVc0_calm (p fuel : Nat) (s : State) : Calm s (State.flushVc0 p fuel s) := by
  induction fuel generalizing s with
  | zero => exact Calm.refl s
  | succ fuel ih =>
    unfold State.flushVc0
    split
    · next x a _ =>
      split
      · have hfresh (z : State) : Calm z z.fresh := Calm.of_fan ⟨rfl, rfl, rfl, rfl, rfl, fun _ _ _ => rfl⟩ rfl
        exact ((sendFrame_calm s p _ x a).trans (hfresh _)).trans (ih _)
      · exact Calm.refl s
    · exact Calm.refl s

theorem endFan_calm {t : State} {i : Nat} (hi : i < 4) (hf : FanWithin t) : Calm t (t.endFan i) := by
  unfold State.endFan
  cases hx : Tab.get none i t.fan with
  | none => exact Calm.refl t
  | some x =>
    obtain ⟨p, q⟩ := x
    obtain ⟨hp, hq⟩ := hf i hi _ hx
    have h0 := port_net p 0 (by omega) (by omega)
    have h1 := port_net q 0 (by omega) (by omega)
    have hstart : Apart netReg t { t with fan := Tab.put none i none t.fan, meshWait := p :: q :: t.meshWait } :=
      ⟨rfl, rfl, rfl, rfl, rfl, fun _ _ _ => rfl⟩
    have hregs := ((hstart.setRbit _ 56 false h0).setRbit _ 56 false h1).setRf _ (5 * t.rf (rPort q 0) 52 4) 4 (q % 8)
      (opt_net i 0x10 hi (by omega))
    refine ⟨⟨hregs.cores, hregs.mem, hregs.grade, hregs.off, hregs.iodVer, hregs.regs⟩, fun _ j hj x hx => hf j hj x ?_⟩
    have hx : Tab.get none j (Tab.put none i none t.fan) = some x := hx
    rw [Tab.get_put] at hx
    split at hx
    · cases hx
    · exact hx

/-- Port p is DOWN with a cause, before the journal and the fabric hear of it. -/
def State.portOff (t : State) (p c : Nat) : State :=
  (((((t.setRf (rPort p 0) 61 3 1).setRf (rPort p 0) 58 3 c).setRbit (rBoot 0x110) p false).setLevel (640 + 4 * p) false).pulse
    (643 + 4 * p)).modPort p fun o => { o with training := false }

theorem portOff_net (t : State) {p : Nat} (c : Nat) (hp : p < 32) : Net t (t.portOff p c) := by
  have h0 := port_net p 0 hp (by omega)
  exact ((((((NetR.refl t).setRf _ _ _ _ h0).setRf _ _ _ _ h0).setRbit _ _ _ ready_net).setLevel _ _).pulse _).modPort _ _ trivial

/-- A port of a fan-out ends it, and is then DOWN as any other. -/
theorem portDown_calm {t : State} {p : Nat} (c : Nat) (hp : p < 32) (hf : FanWithin t) : Calm t (t.portDown p c) := by
  have hdown (z : State) (hz : Calm t z) (b : List Nat) (was : Bool) : Calm t (
      let u := ((z.portOff p c).portJournal p).mapChange
      if was then u.portsChanged b else u) := by
    have hu := hz.trans (Calm.of_net (portJournal_net (portOff_net z c hp) p).mapChange)
    dsimp only
    split
    · exact hu.trans (fab_calm (portsChanged_net _ _))
    · exact hu
  unfold State.portDown
  cases hx : Tab.get none (p / 8) t.fan with
  | none => exact hdown t (Calm.refl t) _ _
  | some x =>
    by_cases hpx : x.1 = p ∨ x.2 = p
    · simp only [if_pos hpx]
      exact hdown _ (endFan_calm (by omega) hf) _ _
    · simp only [if_neg hpx]
      exact hdown t (Calm.refl t) _ _

theorem dirsDie_calm (l : List Nat) (s : State) : Calm s (l.foldl State.dirDies s) :=
  List.foldlRecOn (motive := Calm s) l _ (Calm.refl s) fun z hz d _ => hz.trans (fab_calm (dirDies_net z d))

theorem rPort_ne {p q : Nat} (h : p ≠ q) : rPort p 0 ≠ rPort q 0 := port_ne p 0 q 0 (by omega) (by omega) (.inl h)

/-- Every port is down to its partner, and shows MIDNIGHT. -/
theorem portsDown_midnight {s : State} (hf : FanWithin s) : Apart netReg s (s.portsDown 4)
    ∧ ∀ p < 32, s.hasPort p = true → (s.portsDown 4).rf (rPort p 0) 61 3 = 4 := by
  let a := s.liveDirs.foldl State.dirDies { s with trainQ := [] }
  let b := iter 32 (fun p t => if t.portUp p then State.flushVc0 p t.router.length t else t) a
  let c := iter 32 (fun p t => if t.hasPort p && 2 ≤ t.rf (rPort p 0) 61 3 then t.portDown p 0 else t) b
  have ha : Calm s a := (Calm.of_fan ⟨rfl, rfl, rfl, rfl, rfl, fun _ _ _ => rfl⟩ rfl : Calm s { s with trainQ := [] }).trans (dirsDie_calm _ _)
  have hb : Calm s b := iter_inv (P := Calm s) (fun p _ t ht => by
    split
    · exact ht.trans (flushVc0_calm _ _ t)
    · exact ht) ha
  have hc : Calm s c := iter_inv (P := Calm s) (fun p hp t ht => by
    split
    · exact ht.trans (portDown_calm 0 hp (ht.fans hf))
    · exact ht) hb
  have hinv : ∀ p < 32, ∀ t, Apart netReg s t → Apart netReg s
      (if t.hasPort p then (t.setRf (rPort p 0) 61 3 4).setRf (rPort p 0) 58 3 0 else t) := fun p hp t ht => by
    have h0 := port_net p 0 hp (by omega)
    split
    · exact (ht.setRf _ _ _ _ h0).setRf _ _ _ _ h0
    · exact ht
  have hd : s.portsDown 4 = (iter 32 (fun p t => if t.hasPort p then (t.setRf (rPort p 0) 61 3 4).setRf (rPort p 0) 58 3 0 else t) c).mapChange := by
    unfold State.portsDown
    exact if_neg (by decide)
  rw [hd]
  refine ⟨(iter_inv hinv hc.apart).mapChange, fun p hp hport => ?_⟩
  have hmap (z : State) : z.mapChange.rf (rPort p 0) 61 3 = z.rf (rPort p 0) 61 3 := rfl
  rw [hmap]
  refine iter_observe (fun t : State => t.rf (rPort p 0) 61 3) (fun _ => 4) hp hinv (fun t ht => ?_) (fun q hq hne t _ => ?_) hc.apart
  · rw [ht.hasPort, hport, if_pos rfl, State.rf_setRf_ne _ _ _ _ _ _ _ (by omega), State.rf_setRf _ _ _ _ _ (by omega)]
    rfl
  · split
    · rw [State.rf_setRf_reg _ _ _ _ _ _ _ _ (rPort_ne hne.symm), State.rf_setRf_reg _ _ _ _ _ _ _ _ (rPort_ne hne.symm)]
    · rfl

end Sys2Proof.Machine
end

section
/-! Power: the boundary of an interval, Midnight, and O52. -/

namespace Sys2Proof.Machine

/-! ### The boundary (R372) -/

/-- The part at a boundary: the interval that ends is shown, learned and judged. -/
def State.judged (s : State) (x : RegInputs) : State :=
  let t := (s.setReg (rPwr 0x20) s.measWord).learnAll x s
  ({ t with regl := s.records x t.regl } : State).judgeDiverged

/-- Registers that the judgement of an interval may touch. -/
def judgedReg (o : Nat) : Prop := o = rPwr 0x20 ∨ learnReg o ∨ statReg o

theorem judged_spec (s : State) (x : RegInputs) : PowersR judgedReg s (s.judged x) ∧ (s.judged x).powerMode = s.powerMode
    ∧ (s.judged x).regl.clear = false ∧ (s.judged x).reg (rPwr 0x20) = s.measWord := by
  unfold State.judged
  dsimp only
  obtain ⟨hlearn, hclear⟩ := learnAll_powers (s.setReg (rPwr 0x20) s.measWord) s x
  generalize (s.setReg (rPwr 0x20) s.measWord).learnAll x s = t at hlearn hclear ⊢
  obtain ⟨hjudge, hmode, hjclear⟩ := judgeDiverged_spec { t with regl := s.records x t.regl }
  have hev20 : ¬ eventReg (rPwr 0x20) := by unfold eventReg rPwr; omega
  have h20 : ¬ learnReg (rPwr 0x20) := by unfold learnReg rPwr; omega
  have h18 : ¬ learnReg (rPwr 0x18) := by unfold learnReg rPwr; omega
  have hstat : ¬ statReg (rPwr 0x20) := by unfold statReg rPwr rThm; omega
  have hmeas : PowersR judgedReg s (s.setReg (rPwr 0x20) s.measWord) := (PowersR.refl s).setReg _ _ (.inl rfl)
  have ht : PowersR judgedReg s { t with regl := s.records x t.regl } :=
    (hmeas.trans (hlearn.mono fun o h => .inr (.inl h))).trans (PowersR.regl t _)
  refine ⟨ht.trans (hjudge.mono fun o h => .inr (.inr h)), hmode.trans ?_, hjclear.trans hclear, ?_⟩
  · exact powerMode_of_reg ((hlearn.regs _ statReg_plain.1 h18).trans (State.reg_setReg_ne s _ (by decide)))
  · exact (hjudge.regs _ hev20 hstat).trans ((hlearn.regs _ hev20 h20).trans (State.reg_setReg_self s _ _))

/-- The mode written is read at the boundary as it was written. -/
theorem judged_want (s : State) (x : RegInputs) : (s.judged x).rf (rPwr 0) 0 2 = s.rf (rPwr 0) 0 2 :=
  (judged_spec s x).1.rf (by unfold eventReg rPwr; omega) (by unfold judgedReg learnReg statReg rPwr rThm; omega) 0 2

/-- REGULATOR_INTERVAL: the interval that ends is judged, the mode applied, the next one planned, and the samples spent. -/
theorem exec_regulatorInterval {s : State} (hc : s.crown = 2) (hp : s.pwrFail = false) (ho : s.off = false) (x : RegInputs) :
    ∃ m pkg io hbm learned, exec (.regulatorInterval x) s = .next
      { (s.judged x).applyMode.applyPlan ((s.judged x).applyMode.plan m pkg io hbm learned) m with
        rails := { Rails.reset with rest := s.rails.rest } } := by
  have hrun : (s.crown != 2 || s.pwrFail || s.off) = false := by rw [hc, hp, ho]; rfl
  refine ⟨s.dieModel (s.judged x).applyMode x, s.rails.pkg / Nat.max 1 s.rails.n, s.rails.io / Nat.max 1 s.rails.n,
    ((List.range 4).map s.hbmDie).sum, (s.judged x).applyMode.hbmLearned, ?_⟩
  show execRegulatorInterval x s = _
  unfold execRegulatorInterval
  rw [hrun]
  rfl

/-- PWR_MEAS shows the mean powers of the interval that ends. -/
theorem measWord_fields (s : State) : fld s.measWord 48 16 = watts (s.rails.pkg / Nat.max 1 s.rails.n)
    ∧ fld s.measWord 0 16 = watts (s.rails.io / Nat.max 1 s.rails.n) := by
  have hle (v : Nat) : watts v ≤ 65535 := Nat.min_le_left _ _
  have ha := hle (s.rails.pkg / Nat.max 1 s.rails.n)
  have hb := hle ((s.dies.map s.meas).sum)
  have hc := hle (((List.range 4).map s.hbmDie).sum)
  have hd := hle (s.rails.io / Nat.max 1 s.rails.n)
  unfold State.measWord
  dsimp only
  rw [fld_ofNat _ _ _ (by omega), fld_ofNat _ _ _ (by omega)]
  omega

theorem planReg_notMeas : ¬ planReg (rPwr 0x20) := by unfold planReg rPwr; omega

/-- A boundary at which Midnight does not end. -/
theorem exec_regulatorInterval_stays {s : State} (hc : s.crown = 2) (hp : s.pwrFail = false) (ho : s.off = false) (x : RegInputs)
    (hm : ¬ (s.powerMode = 3 ∧ s.rf (rPwr 0) 0 2 ≠ 3)) :
    let n := Nat.max 1 s.rails.n
    let want := s.rf (rPwr 0) 0 2
    let mode := if want = 3 then s.powerMode else want
    ∃ t, exec (.regulatorInterval x) s = .next t ∧ Powers s t ∧ t.rails = { Rails.reset with rest := s.rails.rest }
      ∧ t.regl.clear = false ∧ t.powerMode = mode
      ∧ t.rf (rPwr 0x20) 48 16 = Nat.min 65535 (s.rails.pkg / n / 1000) ∧ t.rf (rPwr 0x20) 0 16 = Nat.min 65535 (s.rails.io / n / 1000)
      ∧ ∀ d < 4, s.hasDie d = true → let k := t.rf (rDie d) 55 9
        modeFloor mode ≤ k ∧ stepFloor (s.dieStep d) ≤ k ∧ k ≤ 256 ∧ t.rf (rDie d) 52 3 = s.dieStep d % 8 ∧ t.rbit (rDie d) 51 = false := by
  intro n want mode
  obtain ⟨m, pkg, io, hbm, learned, hexec⟩ := exec_regulatorInterval hc hp ho x
  obtain ⟨hjudged, hjmode, hjclear, hjmeas⟩ := judged_spec s x
  obtain ⟨happly, hamode, haregl⟩ := applyMode_spec (s := s.judged x) (by rw [hjmode, judged_want]; exact hm)
  rw [judged_want, hjmode] at hamode
  generalize (s.judged x).applyMode = t at hexec happly hamode haregl
  obtain ⟨hplan, hpmode, hpregl, hpdie⟩ := applyPlan_spec t (t.plan m pkg io hbm learned) m
  have hst : PowersR (fun o => judgedReg o ∨ planReg o) s t :=
    (hjudged.mono fun o h => .inl h).trans (happly.mono fun o h => .inl (.inr (.inr h)))
  have hall := (hst.trans (hplan.mono fun o h => .inr h)).trans (PowersR.rails _ { Rails.reset with rest := s.rails.rest })
  have hpwr : ∀ o, judgedReg o ∨ planReg o → pwrReg o := fun o h => by
    unfold judgedReg learnReg statReg planReg rPwr at h
    unfold pwrReg rPwr
    omega
  have hmeas : (t.applyPlan (t.plan m pkg io hbm learned) m).reg (rPwr 0x20) = s.measWord := by
    have hev : ¬ eventReg (rPwr 0x20) := by unfold eventReg rPwr; omega
    rw [hplan.regs _ hev planReg_notMeas, happly.regs _ hev (by unfold statReg rPwr rThm; omega), hjmeas]
  refine ⟨_, hexec, (hall.mono hpwr).powers, rfl, ?_, hpmode.trans hamode, ?_, ?_, fun d hd hdie => ?_⟩
  · exact (congrArg Regl.clear hpregl).trans ((plan_clear ..).trans ((congrArg Regl.clear haregl).trans hjclear))
  · exact (congrArg (fld · 48 16) hmeas).trans (measWord_fields s).1
  · exact (congrArg (fld · 0 16) hmeas).trans (measWord_fields s).2
  · have hmem : d ∈ t.dies := mem_dies.2 ⟨hd, (hst.hasDie d).trans hdie⟩
    have hstep : t.dieStep d = s.dieStep d :=
      hst.rf (by unfold eventReg rTDie rThm; omega) (by unfold judgedReg learnReg statReg planReg rTDie rThm rPwr; omega) 32 4
    obtain ⟨hk, hs, hfloor⟩ := planDie_fields t (t.plan m pkg io hbm learned) m d (t.reg (rDie d))
    obtain ⟨hb1, hb2, hb3⟩ := plan_k_bounds t m pkg io hbm learned d
    rw [hamode] at hb1
    rw [hstep] at hb2 hs
    rw [Nat.mod_eq_of_lt (by omega)] at hk
    rw [← hpdie d hmem] at hk hs hfloor
    have hk : State.rf { t.applyPlan (t.plan m pkg io hbm learned) m with rails := { Rails.reset with rest := s.rails.rest } } (rDie d) 55 9
      = (t.plan m pkg io hbm learned).k d := hk
    dsimp only
    rw [hk]
    exact ⟨hb1, hb2, hb3, hs, hfloor⟩

/-- A boundary at which Midnight ends. -/
theorem exec_regulatorInterval_wakes {s : State} (hc : s.crown = 2) (hp : s.pwrFail = false) (ho : s.off = false) (x : RegInputs)
    (hm : s.powerMode = 3) (hw : s.rf (rPwr 0) 0 2 ≠ 3) :
    ∃ t, exec (.regulatorInterval x) s = .next t ∧ t.powerMode = s.rf (rPwr 0) 0 2 ∧ t.cores = s.cores ∧ t.mem = s.mem
      ∧ ∀ st < 32, t.hbmState st = if s.hasStack st = true ∧ s.hbmState st = 4 then 2 else s.hbmState st := by
  obtain ⟨m, pkg, io, hbm, learned, hexec⟩ := exec_regulatorInterval hc hp ho x
  obtain ⟨hjudged, hjmode, -, -⟩ := judged_spec s x
  rw [applyMode_wakes (hjmode.trans hm) (by rw [judged_want]; exact hw), judged_want] at hexec
  have hwant : s.rf (rPwr 0) 0 2 < 4 := BitVec.isLt _
  obtain ⟨hwake, hwmode, hwhbm⟩ := wake_spec (s.judged x) hwant
  generalize (s.judged x).wake (s.rf (rPwr 0) 0 2) = t at hexec hwake hwmode hwhbm
  obtain ⟨hplan, hpmode, -, -⟩ := applyPlan_spec t (t.plan m pkg io hbm learned) m
  have hj := Apart.of_powers hjudged
  have hp := Apart.of_powers hplan
  refine ⟨_, hexec, hpmode.trans hwmode, ?_, ?_, fun st hst => ?_⟩
  · exact hp.cores.trans (hwake.cores.trans hj.cores)
  · exact hp.mem.trans (hwake.mem.trans hj.mem)
  · have hjst := hj.hbmState hst (by unfold judgedReg learnReg statReg rHbm rPwr rThm; omega)
    have hpst := hp.hbmState hst (by unfold planReg rHbm rPwr; omega)
    refine hpst.trans ?_
    rw [hwhbm st hst, hj.hasStack, hjst]

/-! ### Midnight (R388) -/

theorem exec_midnightEntry_busy {s : State} (h : s.quiet' = false) : exec .midnightEntry s = .next s := by
  show execMidnightEntry s = _
  unfold execMidnightEntry
  rw [h, Bool.and_false]
  rfl

/-- Nothing is in flight: ports, stacks and lasers enter Midnight. -/
theorem exec_midnightEntry_quiet {s : State} (ho : s.off = false) (hp : s.pwrFail = false) (hreq : s.rbit (rPwr 0x18) 29 = true)
    (hq : s.quiet' = true) (hf : FanWithin s) :
    ∃ t, exec .midnightEntry s = .next t ∧ t.powerMode = 3 ∧ t.rbit (rPwr 0x18) 29 = false ∧ t.cores = s.cores ∧ t.mem = s.mem
      ∧ (∀ st < 32, t.hbmState st = if s.hasStack st = true ∧ s.hbmState st = 2 then 4 else s.hbmState st)
      ∧ (∀ p < 32, s.hasPort p = true → t.rf (rPort p 0) 61 3 = 4)
      ∧ (∀ i < 4, s.hasIo i = true → t.rf (rOpt i 0) 29 3 ≠ 2) := by
  obtain ⟨hdown, hport⟩ := portsDown_midnight hf
  obtain ⟨hstack, hstate⟩ := stacksTo_spec (s.portsDown 4) (v := 2) (w := 4) (by omega)
  obtain ⟨hlaser, hlit⟩ := lasers_spec ((s.portsDown 4).stacksTo 2 4)
  let u := (((s.portsDown 4).stacksTo 2 4).lasers 3).setRbit (rPwr 0x18) 29 false
  let t := ((u.setRf (rPwr 0x18) 30 2 3).setLevel 839 true).pulse 840
  have hexec : exec .midnightEntry s = .next t := by
    show execMidnightEntry s = _
    unfold execMidnightEntry
    rw [hreq, hq, ho, hp]
    rfl
  have hend : Apart (fun o => o = rPwr 0x18) (((s.portsDown 4).stacksTo 2 4).lasers 3) t :=
    ((((Apart.refl (Q := fun o => o = rPwr 0x18) _).setRbit _ _ _ rfl).setRf _ _ _ _ rfl).setLevel _ _).pulse _
  have hstat : t.reg (rPwr 0x18) = (u.setRf (rPwr 0x18) 30 2 3).reg (rPwr 0x18) :=
    (State.pulse_reg _ _ _ statReg_plain.1).trans (State.setLevel_reg _ _ _ _ statReg_plain.1)
  refine ⟨t, hexec, ?_, ?_, ?_, ?_, fun st hst => ?_, fun p hp hpp => ?_, fun i hi hio => ?_⟩
  · exact (powerMode_of_reg hstat).trans (powerMode_set u (by omega))
  · unfold State.rbit
    rw [hstat, State.reg_setRf_self, bit_setFld_ne _ _ _ _ _ (by omega), State.reg_setRbit_self, bit_setBit _ _ _ (by omega)]
  · exact hend.cores.trans (hlaser.cores.trans (hstack.cores.trans hdown.cores))
  · exact hend.mem.trans (hlaser.mem.trans (hstack.mem.trans hdown.mem))
  · rw [hend.hbmState hst (by unfold rHbm rPwr; omega), hlaser.hbmState hst (by rintro ⟨i, -, hi⟩; unfold rHbm rOpt at hi; omega),
      hstate st hst, hdown.hasStack, hdown.hbmState hst (rHbm_notNet hst)]
  · have hev := port_plain p 0
    rw [hend.rf hev (by unfold rPort rOpt rPwr; omega), hlaser.rf hev (by rintro ⟨i, -, hi⟩; unfold rPort rOpt at hi; omega),
      hstack.rf hev (by unfold stackReg rPort rOpt rBoot; omega), hport p hp hpp]
  · rw [hend.rf (by unfold eventReg rOpt; omega) (by unfold rOpt rPwr; omega)]
    exact hlit i hi (by rw [hstack.hasIo, hdown.hasIo, hio])

/-- Settles O52, clause by clause: samples, the two kinds of boundary, writes and clears, the Escapement, and Midnight. -/
theorem powerControl : Obligations.PowerControl := by
  intro s
  refine ⟨fun compute uncore hbm io island pkg hv => exec_railSample hv compute uncore hbm io island pkg, fun x hc hp ho => ?_, fun _ => rfl, rfl,
    exec_attrClear s, fun d hd hh => ?_, exec_pwrModeWrite s, fun ho hp hreq => ?_⟩
  · exact ⟨exec_regulatorInterval_stays hc hp ho x, exec_regulatorInterval_wakes hc hp ho x⟩
  · refine ⟨exec_droopDetect_armed hd hh, exec_droopDetect_still, fun hs => ⟨armed_of_stretching hs, fun cycles still =>
      ⟨fun h32 hstill => ?_, fun hno => ?_⟩⟩⟩
    · rw [exec_stretchEnd hs, if_pos ⟨h32, hstill⟩]
    · rw [exec_stretchEnd hs, if_neg]
      rintro ⟨h32, hstill⟩
      rcases hno with hno | hno
      · omega
      · rw [hstill] at hno
        cases hno
  · exact ⟨exec_midnightEntry_busy, exec_midnightEntry_quiet ho hp hreq⟩

end Sys2Proof.Machine
end

section
/-! Elements of a tile in a core's own store (O31). -/

namespace Sys2Proof.Machine

/-! ### A field of a number -/

/-- The bits of a number one of whose fields has been replaced. -/
theorem testBit_replaceField (old : Nat) {v w : Nat} (sh : Nat) (hv : v < 2 ^ w) (i : Nat) :
    (old - (old &&& (2 ^ w - 1) <<< sh) + v <<< sh).testBit i
      = if sh ≤ i ∧ i < sh + w then v.testBit (i - sh) else old.testBit i := by
  have hfield : old &&& (2 ^ w - 1) <<< sh = old / 2 ^ sh % 2 ^ w * 2 ^ sh := by
    refine Nat.eq_of_testBit_eq fun j => ?_
    rw [Nat.testBit_and, Nat.testBit_shiftLeft, Nat.testBit_two_pow_sub_one, Nat.testBit_mul_two_pow, Nat.testBit_mod_two_pow,
      Nat.testBit_div_two_pow]
    by_cases hj : sh ≤ j
    · simp [hj, Bool.and_comm]
    · simp [hj]
  have hold : old = 2 ^ sh * (2 ^ w * (old / 2 ^ sh / 2 ^ w) + old / 2 ^ sh % 2 ^ w) + old % 2 ^ sh := by
    rw [Nat.div_add_mod, Nat.div_add_mod]
  have hnew : old - (old &&& (2 ^ w - 1) <<< sh) + v <<< sh = 2 ^ sh * (2 ^ w * (old / 2 ^ sh / 2 ^ w) + v) + old % 2 ^ sh := by
    rw [Nat.mul_add] at hold ⊢
    rw [hfield, Nat.shiftLeft_eq, Nat.mul_comm v, Nat.mul_comm (old / 2 ^ sh % 2 ^ w)]
    omega
  have hmod (x y : Nat) : x % 2 ^ y < 2 ^ y := Nat.mod_lt _ (Nat.two_pow_pos y)
  conv_rhs => rw [hold]
  rw [hnew, Nat.testBit_two_pow_mul_add _ (hmod old sh), Nat.testBit_two_pow_mul_add _ hv, Nat.testBit_two_pow_mul_add _ (hmod old sh),
    Nat.testBit_two_pow_mul_add _ (hmod _ w)]
  by_cases hlo : i < sh
  · rw [if_pos hlo, if_pos hlo, if_neg (by omega)]
  · by_cases hhi : i - sh < w
    · rw [if_neg hlo, if_pos hhi, if_pos (by omega)]
    · rw [if_neg hlo, if_neg hlo, if_neg hhi, if_neg hhi, if_neg (by omega)]

/-- A run of bytes written where every address holds data is read back. -/
theorem State.read_poke {s : State} {a : Nat} {d : Bytes} (hl : ∀ i < d.length, s.live (a + i) = true) :
    (s.poke a d).read a d.length = d := by
  refine List.ext_getElem (State.read_length _ _ _) fun i _ hi => ?_
  simp only [State.read, List.getElem_map, List.getElem_range]
  rw [State.byte_poke, if_pos ⟨by omega, by omega, hl i hi⟩, Nat.add_sub_cancel_left, List.getD_eq_getElem _ _ hi]

theorem State.readN_poke {s : State} {a k : Nat} (v : Nat) (hl : ∀ i < k, s.live (a + i) = true) :
    (s.poke a (toBytes k v)).readN a k = v % 256 ^ k := by
  have h := State.read_poke (d := toBytes k v) (by rwa [toBytes_length])
  rw [toBytes_length] at h
  rw [State.readN, h, ofBytes_toBytes]

/-! ### Cells (R47) -/

/-- A column's bits lie within its cell. -/
theorem cellShift_fits (f : Fmt) (c : Nat) : cellShift f c + f.width ≤ 8 * cellBytes f := by
  cases f <;> simp [cellShift, cellBytes, Fmt.width] <;> omega

/-- Two columns of one cell have bits apart. -/
theorem cellShift_apart {f : Fmt} {c c' : Nat} (hne : c' ≠ c) (h : colBytes f c' = colBytes f c) :
    cellShift f c' + f.width ≤ cellShift f c ∨ cellShift f c + f.width ≤ cellShift f c' := by
  cases f <;> simp [cellShift, colBytes, Fmt.width] at h ⊢ <;> omega

theorem TD.addr_congr (t : TD) (r : Nat) {c c' : Nat} (h : colBytes t.format c' = colBytes t.format c) (i2 i3 : Nat) :
    t.addr r c' i2 i3 = t.addr r c i2 i3 := by
  unfold TD.addr
  rw [h]

/-! ### A cell written (R47) -/

/-- A number whose field of column c is replaced: what a write of an element puts in its cell (`State.putElem_inside`). -/
def cellWith (f : Fmt) (c old raw : Nat) : Nat :=
  old - (old &&& (2 ^ f.width - 1) <<< cellShift f c) + (raw % 2 ^ f.width) <<< cellShift f c

/-- The bits of a column in its cell, after the field of a column of that cell has been replaced: that column takes the raw bits, and
every other stands (R47). -/
theorem cellWith_field (f : Fmt) {c c' : Nat} (old raw : Nat) (h : colBytes f c' = colBytes f c) :
    ((cellWith f c old raw % 256 ^ cellBytes f) >>> cellShift f c') % 2 ^ f.width
      = if c' = c then raw % 2 ^ f.width else (old >>> cellShift f c') % 2 ^ f.width := by
  have hfits := cellShift_fits f c'
  refine Nat.eq_of_testBit_eq fun i => ?_
  rw [show 256 ^ cellBytes f = 2 ^ (8 * cellBytes f) from (Nat.pow_mul 2 8 _).symm, Nat.testBit_mod_two_pow, Nat.testBit_shiftRight,
    Nat.testBit_mod_two_pow, cellWith, testBit_replaceField _ _ (Nat.mod_lt _ (Nat.two_pow_pos _))]
  by_cases hi : i < f.width
  · by_cases hc : c' = c
    · subst hc
      rw [if_pos rfl, if_pos (by omega), Nat.add_sub_cancel_left]
      simp [hi, show cellShift f c' + i < 8 * cellBytes f by omega]
    · have hapart := cellShift_apart hc h
      rw [if_neg hc, if_neg (by omega), Nat.testBit_mod_two_pow, Nat.testBit_shiftRight]
      simp [show cellShift f c' + i < 8 * cellBytes f by omega]
  · split_ifs <;> simp [hi]

/-! ### Elements (R160, R161) -/

section
variable {s : State} {core : Nat} {t : TD} {r c : Nat}

theorem State.elemAt_outside (h : ¬ (t.within r c 0 0 = true ∧ ownStore core (t.addr r c 0 0) (cellBytes t.format) = true)) :
    s.elemAt core t r c = (0, [t.addr r c 0 0]) := by
  unfold State.elemAt
  simp only [Bool.and_eq_true, if_neg h]

theorem State.putElem_outside (raw : Nat) (h : ¬ (t.within r c 0 0 = true ∧ ownStore core (t.addr r c 0 0) (cellBytes t.format) = true)) :
    s.putElem core t r c raw = s.coreViol core [t.addr r c 0 0] := by
  unfold State.putElem
  simp only [Bool.and_eq_true, if_neg h]

variable (hw : t.within r c 0 0 = true) (ho : ownStore core (t.addr r c 0 0) (cellBytes t.format) = true)
include hw ho

theorem State.elemAt_inside :
    s.elemAt core t r c = ((s.readN (t.addr r c 0 0) (cellBytes t.format) >>> cellShift t.format c) % 2 ^ t.format.width, []) := by
  unfold State.elemAt
  simp only [hw, ho, Bool.and_self, if_true]

theorem State.putElem_inside (raw : Nat) :
    s.putElem core t r c raw = s.poke (t.addr r c 0 0) (toBytes (cellBytes t.format)
      (cellWith t.format c (s.readN (t.addr r c 0 0) (cellBytes t.format)) raw)) := by
  unfold State.putElem
  simp only [hw, ho, Bool.and_self, if_true]
  rfl

/-- An element of the cell of a written one: the written one is read back, the others stand (R47, R161). -/
theorem State.elemAt_putElem (raw : Nat) (hl : ∀ i < cellBytes t.format, s.live (t.addr r c 0 0 + i) = true) {c' : Nat}
    (hc : colBytes t.format c' = colBytes t.format c) :
    (s.putElem core t r c raw).elemAt core t r c' = if c' = c then (raw % 2 ^ t.format.width, []) else s.elemAt core t r c' := by
  have ha := t.addr_congr r hc 0 0
  by_cases hw' : t.within r c' 0 0 = true
  · have ho' : ownStore core (t.addr r c' 0 0) (cellBytes t.format) = true := by rwa [ha]
    rw [State.elemAt_inside hw' ho', State.elemAt_inside hw' ho', State.putElem_inside hw ho raw, ha, State.readN_poke _ hl,
      cellWith_field _ _ _ hc]
    split_ifs <;> rfl
  · have hne : c' ≠ c := fun h => hw' (h ▸ hw)
    rw [State.elemAt_outside fun h => hw' h.1, State.elemAt_outside fun h => hw' h.1, if_neg hne]

end

/-- Settles O31: in the tile the write is of the cell alone (`State.putElem_inside`) and of one field in it (`State.elemAt_putElem`); beyond
it the address is a violation of the read and of the write. -/
theorem tileElements : Obligations.TileElements := by
  intro s core t r c raw a n into u
  refine ⟨fun ⟨hw, ho⟩ hl => ⟨?_, fun c' hne hc => ?_, fun x hx => ?_, ?_⟩, fun hout => ⟨?_, ?_⟩⟩
  · exact (State.elemAt_putElem hw ho raw hl rfl).trans (if_pos rfl)
  · exact (State.elemAt_putElem hw ho raw hl hc).trans (if_neg hne)
  · show (s.putElem core t r c raw).byte x = _
    rw [State.putElem_inside hw ho raw, State.byte_poke, toBytes_length, if_neg fun h => hx ⟨h.1, h.2.1⟩]
  · show { s.putElem core t r c raw with mem := s.mem } = s
    rw [State.putElem_inside hw ho raw, State.poke_rest]
  · exact State.elemAt_outside hout
  · exact State.putElem_outside raw hout

end Sys2Proof.Machine
end

section
/-! ACC_ROW_READY: the last row of a run is accumulated (O28). -/

namespace Sys2Proof.Machine

/-! ### The runs of a core -/

theorem QEntry.mx?_of_ins {e : QEntry} {form : MxForm} {f : MxF} (h : e.ins = .mx form f) : e.mx? = some (form, f) := by
  unfold QEntry.mx?
  rw [h]

theorem mxFence_eq_false {f : MxF} (hm : f.m ≠ 0) (hn : f.n ≠ 0) : mxFence f = false := by
  unfold mxFence
  rw [Bool.or_eq_false_iff, beq_eq_false_iff_ne, beq_eq_false_iff_ne]
  exact ⟨hm, hn⟩

/-- The run of an instruction after it has been changed. -/
theorem Core.runOf_modRun {k : Core} {seq : Nat} {r : MxRun} (h : k.runOf seq = some r) {g : MxRun → MxRun}
    (hg : ∀ x, (g x).entry = x.entry) : (k.modRun seq g).runOf seq = some (g r) := by
  unfold Core.runOf at h ⊢
  have hseq : r.entry.seq = seq := by simpa using List.find?_some h
  have hpred : ((fun x : MxRun => decide (x.entry.seq = seq)) ∘ fun x => if x.entry.seq = seq then g x else x)
      = fun x => decide (x.entry.seq = seq) := by
    funext x
    by_cases hx : x.entry.seq = seq <;> simp [hx, hg]
  rw [Core.modRun, List.find?_map, hpred, h, Option.map_some, if_pos hseq]

/-! ### The sums of a row (R53) -/

/-- The weight of K row kk at output column n of a running instruction: from the store in a Tourbillon form (R83), from the active
registers else (R76, R77). -/
def State.rowWeight (s : State) (c : Nat) (e : QEntry) (form : MxForm) (f : MxF) (kk n : Nat) : XV :=
  if form.isTour then (s.weight c e f kk n).1
  else Tab.get .zero (nth 0 form.arrays (n / 256) * 131072 + kk * 256 + n % 256) (s.core c).wAct

/-- The long-form sum of output element (m, n), from its init (R53). -/
def State.rowSum (s : State) (c : Nat) (e : QEntry) (form : MxForm) (f : MxF) (bufs : Tab (List Nat)) (m n : Nat) : XV × NumFlags :=
  dot (s.actRow c e f bufs m).1 (fun kk => s.rowWeight c e form f kk n) (nth .zero (s.initRow c e form f m).1 n)

/-- The sums of output row m, as the accumulation lists them. -/
def State.rowSums (s : State) (c : Nat) (e : QEntry) (form : MxForm) (f : MxF) (bufs : Tab (List Nat)) (m : Nat) : List (XV × NumFlags) :=
  (s.initRow c e form f m).1.zipIdx.map fun p => dot (s.actRow c e f bufs m).1 (fun kk => s.rowWeight c e form f kk p.2) p.1

/-- The accumulator entries of a core after the sums of row m have been put in theirs, one by one (R53). -/
def State.rowAcc (s : State) (c : Nat) (e : QEntry) (form : MxForm) (f : MxF) (bufs : Tab (List Nat)) (m : Nat) : Tab (BitVec 48) :=
  (List.range f.n.toNat).foldl (fun t n => Tab.put 0 (accKey (form.place f.n.toNat f.rbase.toNat m n))
    (s.rowSum c e form f bufs m n).1.packLong t) (s.core c).acc

/-- The violations of the weights that a Tourbillon form reads from the store, counted with its first row (R83). -/
def State.rowLost (s : State) (c : Nat) (e : QEntry) (form : MxForm) (f : MxF) (m : Nat) : List Nat :=
  if form.isTour ∧ m = 0 then
    (List.range f.k.toNat).flatMap fun kk => (List.range f.n.toNat).flatMap fun n => (s.weight c e f kk n).2
  else []

/-- Keys listed by index, beside what a list's elements give with their index. -/
theorem zip_map_zipIdx {α β : Type} (d : α) (key : Nat → Nat) (g : α × Nat → β) (xs : List α) :
    ((List.range xs.length).map key).zip (xs.zipIdx.map g) = (List.range xs.length).map fun n => (key n, g (nth d xs n, n)) := by
  refine List.ext_getElem (by simp) fun i hi _ => ?_
  have hx : i < xs.length := by simpa using hi
  simp [nth, hx]

section
variable {s : State} {c : Nat} {e : QEntry} {form : MxForm} {f : MxF} {bufs : Tab (List Nat)} {m : Nat}

/-- The accumulation's writes are those of `State.rowAcc`. -/
theorem State.foldl_rowSums (hlen : (s.initRow c e form f m).1.length = f.n.toNat) :
    ((accRowKeys form f m).zip (s.rowSums c e form f bufs m)).foldl (fun t p => Tab.put 0 p.1 p.2.1.packLong t) (s.core c).acc
      = s.rowAcc c e form f bufs m := by
  rw [accRowKeys, ← hlen, State.rowSums, zip_map_zipIdx XV.zero, List.foldl_map, hlen]
  rfl

theorem State.rowAcc_get (hk : (accRowKeys form f m).Nodup) {n : Nat} (hn : n < f.n.toNat) :
    Tab.get 0 (accKey (form.place f.n.toNat f.rbase.toNat m n)) (s.rowAcc c e form f bufs m) = (s.rowSum c e form f bufs m n).1.packLong :=
  Tab.get_puts 0 _ _ _ _ _ _
    (fun p hp hpn => by rw [List.inj_on_of_nodup_map hk hp (List.mem_range.2 hn) hpn]) ⟨n, List.mem_range.2 hn, rfl⟩

theorem State.rowAcc_get_ne {x : Nat} (hx : ∀ n < f.n.toNat, x ≠ accKey (form.place f.n.toNat f.rbase.toNat m n)) :
    Tab.get 0 x (s.rowAcc c e form f bufs m) = Tab.get 0 x (s.core c).acc :=
  Tab.get_puts_ne 0 _ _ _ _ _ fun n hn => (hx n (List.mem_range.1 hn)).symm

theorem State.rowLost_clean (hw : form.isTour = true → ∀ i j, i < f.k.toNat → j < f.n.toNat → (s.weight c e f i j).2 = []) :
    s.rowLost c e form f m = [] := by
  unfold State.rowLost
  split_ifs with h
  · simp only [List.flatMap_eq_nil_iff, List.mem_range]
    exact fun i hi j hj => hw h.1 i j hi hj
  · rfl

/-- A row that violates nothing puts its sums in its entries; the core's other fields stand, but for the stationary registers of a
Tourbillon form (R53, R82). -/
theorem State.accumulate_clean (hlen : (s.initRow c e form f m).1.length = f.n.toNat) (hinit : (s.initRow c e form f m).2.2 = [])
    (hact : (s.actRow c e f bufs m).2.2 = []) (hlost : s.rowLost c e form f m = []) :
    ∃ stat fl, s.accumulate c e form f bufs m
      = (s.modCore c fun k => { k with acc := s.rowAcc c e form f bufs m, stat := stat }, fl) := by
  obtain ⟨stat, fl, hacc⟩ : ∃ stat fl, s.accumulate c e form f bufs m = ((s.modCore c fun k => { k with
      acc := ((accRowKeys form f m).zip (s.rowSums c e form f bufs m)).foldl (fun t p => Tab.put 0 p.1 p.2.1.packLong t) (s.core c).acc
      stat := stat }).coreViol c
        ((s.initRow c e form f m).2.2 ++ (s.actRow c e f bufs m).2.2 ++ s.rowLost c e form f m), fl) := ⟨_, _, rfl⟩
  refine ⟨stat, fl, ?_⟩
  rw [hacc, State.foldl_rowSums hlen, hinit, hact, hlost]
  rfl

end

/-! ### The stream of a run (R80) -/

section
variable {s t : State} {c seq : Nat} {r : MxRun} {form : MxForm} {f : MxF}

/-- A run that has accumulated one row more. -/
def MxRun.rowDone (fl : NumFlags) (r : MxRun) : MxRun := { r with acc := r.acc + 1, flags := r.flags.or fl }

/-- The next row of a run, where nothing holds it. -/
theorem State.streamRow_ready (hr : (s.core c).runOf seq = some r) (hx : r.entry.mx? = some (form, f)) (hf : mxFence f = false)
    (hacc : r.acc < f.m.toNat) (hready : (s.core c).rowReady r.entry form f r.acc = true) :
    let q := s.accumulate c r.entry form f r.bufs r.acc
    s.streamRow c seq = q.1.modCore c fun k => k.modRun seq (MxRun.rowDone q.2) := by
  unfold State.streamRow
  simp only [hr, hx, hf, hacc, hready, decide_true, Bool.not_false, Bool.and_self, if_true]
  rfl

/-- A run that has accumulated all its rows goes no further. -/
theorem State.streamRow_ended (hr : (s.core c).runOf seq = some r) (hx : r.entry.mx? = some (form, f)) (hacc : f.m.toNat ≤ r.acc) :
    s.streamRow c seq = s := by
  unfold State.streamRow
  simp only [hr, hx, Nat.not_lt.2 hacc, decide_false, Bool.and_false, Bool.false_and, Bool.false_eq_true, if_false]

/-- A stream whose next row is its last takes that row alone. -/
theorem State.stream_last (h : s.streamRow c seq = t) (ht : t.streamRow c seq = t) : s.stream c seq = t := by
  have hiter (n : Nat) : iter (n + 1) (fun _ s => s.streamRow c seq) s = t := by
    induction n with
    | zero => exact h
    | succ n ih => rw [iter_succ, ih, ht]
  exact hiter 255

theorem exec_accRowReady (hr : (s.core c).runOf seq = some r) : exec (.accRowReady c seq none) s = .next (s.stream c seq) := by
  show execAccRowReady c seq none s = _
  unfold execAccRowReady
  rw [hr]
  rfl

end

/-- Settles O28: the stream takes the last row alone (`State.stream_last`), which puts its sums in its entries
(`State.accumulate_clean`). -/
theorem matrixRows : Obligations.MatrixRows := by
  intro c r form f s k e m init act w key sum hr hi hn hm hready hkeys hlen hinit hact hw
  have hx : e.mx? = some (form, f) := QEntry.mx?_of_ins hi
  have hf : mxFence f = false := mxFence_eq_false (fun h => by rw [h] at hm; exact absurd hm (Nat.succ_ne_zero m)) hn
  obtain ⟨stat, fl, hrow⟩ := State.accumulate_clean hlen hinit hact (State.rowLost_clean hw)
  let u : Core := ({ k with acc := s.rowAcc c e form f r.bufs m, stat := stat } : Core).modRun e.seq (MxRun.rowDone fl)
  have hu : u.runOf e.seq = some (r.rowDone fl) := Core.runOf_modRun hr fun _ => rfl
  have hstep : s.streamRow c e.seq = s.setCore c u := by
    rw [State.streamRow_ready hr hx hf (by omega) hready, hrow, State.modCore_modCore]
    rfl
  have hend : (s.setCore c u).streamRow c e.seq = s.setCore c u :=
    State.streamRow_ended (r := r.rowDone fl) (by rwa [State.core_setCore_self]) hx (Nat.le_of_eq hm.symm)
  refine ⟨u, ?_, rfl, fun n hn' => State.rowAcc_get hkeys hn', fun x hx' => State.rowAcc_get_ne hx', r.flags.or fl, ?_⟩
  · rw [exec_accRowReady hr, State.stream_last hstep hend]
  · rw [hu, ← hm]
    rfl

end Sys2Proof.Machine
end

section
/-! MX_COMPLETE: a run leaves the matrix unit, its status is recorded and its semaphores rise (O30). -/

namespace Sys2Proof.Machine

/-! ### A completion's record and signals (R131, R142, R143) -/

/-- A core that records a status and signals changes in its semaphores and in the two status registers alone. -/
theorem State.recordStatus_signals (s : State) (c : Nat) (k : Core) (q : Queue) (code pc : Nat) (fl : NumFlags) (y : Sync)
    (h : ∀ n, k.semVal n + y.s0inc.toNat + y.s1inc.toNat ≤ 65535) :
    let qs := rCore c (0x80 + 8 * queueNum q)
    let nf := rCore c 0x20
    let counts : Prop := code ≠ 0 ∧ code ≠ 1
    ∃ (t : State) (u : Core), ((s.setCore c k).recordStatus c q code pc fl).signals c y = t
      ∧ { t with regs := s.regs } = s.setCore c u
      ∧ { u with sem := k.sem } = k
      ∧ (∀ n, u.semVal n = k.semVal n + (if n = y.s0sem.toNat then y.s0inc.toNat else 0)
          + (if n = y.s1sem.toNat then y.s1inc.toNat else 0))
      ∧ (∀ o, o ≠ qs → o ≠ nf → t.reg o = s.reg o)
      ∧ t.rf nf 0 4 = s.rf nf 0 4 ||| fl.toNat
      ∧ t.rf qs 32 4 = s.rf qs 32 4 ||| fl.toNat
      ∧ t.rf qs 0 32 = (if counts then min (s.rf qs 0 32 + 1) (2 ^ 32 - 1) else s.rf qs 0 32)
      ∧ t.rf qs 56 8 = (if counts ∧ s.rf qs 0 32 = 0 then code % 256 else s.rf qs 56 8)
      ∧ t.rf qs 36 14 = (if counts ∧ s.rf qs 0 32 = 0 then pc % 2 ^ 14 else s.rf qs 36 14) := by
  intro qs nf counts
  have hspec := State.recordStatus_spec (s.setCore c k) c q code pc fl
  generalize (s.setCore c k).recordStatus c q code pc fl = w at hspec ⊢
  obtain ⟨hrest, hregs⟩ := hspec
  have hw : w = ({ s with regs := w.regs } : State).setCore c k := congrArg (fun z : State => { z with regs := w.regs }) hrest
  obtain ⟨u, hu, husem, hval⟩ := State.signals_plain { s with regs := w.regs } k c y h
  exact ⟨_, u, (congrArg (State.signals · c y) hw).trans hu, rfl, husem, hval, hregs⟩

/-! ### The end of a run (R74, R87, R132) -/

theorem mxFence_iff {f : MxF} : mxFence f = true ↔ f.m = 0 ∨ f.n = 0 := by
  unfold mxFence
  rw [Bool.or_eq_true, beq_iff_eq, beq_iff_eq]

/-- The work of a run is done: its rows have been accumulated, or emitted and handed over, or nothing issued before a fence runs. -/
def Core.mxDone (k : Core) (r : MxRun) (f : MxF) : Prop :=
  if f.m = 0 ∨ f.n = 0 then ∀ x ∈ k.mxRuns, r.entry.seq ≤ x.entry.seq
  else if mxFinish f then r.emitted = f.m.toNat ∧ r.waiting = [] else r.acc = f.m.toNat

/-- MX_COMPLETE's own test of a run is `Core.mxDone`. -/
theorem Core.mxDone_iff {k : Core} {r : MxRun} {f : MxF} :
    (if mxFence f = true then (k.earlierRuns r.entry.seq).isEmpty
      else if mxFinish f = true then r.emitted == f.m.toNat && r.waiting.isEmpty else r.acc == f.m.toNat) = true
      ↔ k.mxDone r f := by
  unfold Core.mxDone
  by_cases hf : f.m = 0 ∨ f.n = 0
  · rw [if_pos (mxFence_iff.2 hf), if_pos hf]
    simp [Core.earlierRuns]
  · rw [if_neg (mxFence_iff.not.2 hf), if_neg hf]
    split_ifs <;> simp

theorem exec_mxComplete_done {s : State} {c : Nat} {r : MxRun} {form : MxForm} {f : MxF} (hr : (s.core c).runOf r.entry.seq = some r)
    (hi : r.entry.ins = .mx form f) (hd : (s.core c).mxDone r f) :
    exec (.mxComplete c r.entry.seq) s = .next (((s.modCore c fun k =>
      { k with mxRuns := k.mxRuns.filter fun x => x.entry.seq ≠ r.entry.seq }).recordStatus c .mx r.code r.entry.pc r.flags).signals c f.sync) := by
  show execMxComplete c r.entry.seq s = _
  unfold execMxComplete
  simp only [hr, QEntry.mx?_of_ins hi, hi]
  rw [if_pos (Core.mxDone_iff.2 hd)]
  rfl

/-- Settles O30: a run that is done leaves (`exec_mxComplete_done`), and the rest is the record and the signals of a completion
(`State.recordStatus_signals`). -/
theorem matrixCompletes : Obligations.MatrixCompletes := by
  intro c r form f s k y qs nf counts hr hi hd hsem
  obtain ⟨t, u, ht, hspec⟩ := State.recordStatus_signals s c
    { k with mxRuns := k.mxRuns.filter fun x => x.entry.seq ≠ r.entry.seq } .mx r.code r.entry.pc r.flags y hsem
  exact ⟨t, u, (exec_mxComplete_done hr hi hd).trans (congrArg _ ht), hspec⟩

end Sys2Proof.Machine
end

section
/-! Weight staging: the counts, the start of the staging and the staged tile (O26). -/

namespace Sys2Proof.Machine

/-! ### Weight registers (R76) -/

/-- A weight register's key names its array, row and column. -/
theorem weightKey_inj {a b i j x y : Nat} (hi : i < 512) (hj : j < 256) (hx : x < 512) (hy : y < 256) :
    a * 131072 + i * 256 + j = b * 131072 + x * 256 + y ↔ a = b ∧ i = x ∧ j = y := by omega

/-- The registers of one array are cleared together. -/
theorem Tab.get_clearArrays {α : Type} (d : α) (arrays : List Nat) (t : Tab α) {a o : Nat} (ho : o < 131072) :
    Tab.get d (a * 131072 + o) (arrays.foldl (fun t a => Tab.clear (a * 131072) 131072 t) t)
      = if a ∈ arrays then d else Tab.get d (a * 131072 + o) t := by
  rw [Tab.get_clears]
  refine if_congr ⟨?_, fun h => ⟨a, h, by omega, by omega⟩⟩ rfl rfl
  rintro ⟨b, hb, hlo, hhi⟩
  rwa [show a = b by omega]

theorem nth_mem {α : Type} (d : α) {l : List α} {a : Nat} (h : a < l.length) : nth d l a ∈ l := by
  rw [nth, List.getD_eq_getElem _ _ h]
  exact List.getElem_mem h

theorem nth_inj {α : Type} (d : α) {l : List α} (hl : l.Nodup) {a b : Nat} (ha : a < l.length) (hb : b < l.length) :
    nth d l a = nth d l b ↔ a = b := by
  rw [nth, nth, List.getD_eq_getElem _ _ ha, List.getD_eq_getElem _ _ hb, hl.getElem_inj_iff]

/-! ### The staged tile (R76) -/

/-- The weight register of element (i, n) of a tile: array by 256 columns. -/
def tileKey (form : MxForm) (i n : Nat) : Nat := nth 0 form.arrays (n / 256) * 131072 + i * 256 + n % 256

/-- The elements of a tile, as (row, column) pairs. -/
def tileCells (f : MxF) : List (Nat × Nat) :=
  (List.range f.k.toNat).flatMap fun i => (List.range f.n.toNat).map fun n => (i, n)

theorem mem_tileCells {f : MxF} {p : Nat × Nat} : p ∈ tileCells f ↔ p.1 < f.k.toNat ∧ p.2 < f.n.toNat := by
  obtain ⟨i, n⟩ := p
  simp [tileCells]

/-- The shadow registers after an instruction's tile has been staged, element by element, into cleared arrays. -/
def State.stagedShadow (s : State) (c : Nat) (e : QEntry) (form : MxForm) (f : MxF) : Tab XV :=
  (tileCells f).foldl (fun t p => Tab.put .zero (tileKey form p.1 p.2) (s.weight c e f p.1 p.2).1 t)
    (form.arrays.foldl (fun t a => Tab.clear (a * 131072) 131072 t) (s.core c).wShadow)

section
variable {s : State} {c : Nat} {e : QEntry} {form : MxForm} {f : MxF}

/-- Staging a tile whose elements all lie inside the core store. -/
theorem State.stage_clean (hw : ∀ i j, i < f.k.toNat → j < f.n.toNat → (s.weight c e f i j).2 = []) :
    s.stage c e form f = s.setCore c { s.core c with
      wShadow := s.stagedShadow c e form f, staging := none, staged := some e.seq } := by
  let cell (p : Nat × Nat) := (tileKey form p.1 p.2, s.weight c e f p.1 p.2)
  let shadow (l : List (Nat × XV × List Nat)) : Tab XV := l.foldl (fun t p => Tab.put .zero p.1 p.2.1 t)
    (form.arrays.foldl (fun t a => Tab.clear (a * 131072) 131072 t) (s.core c).wShadow)
  have hcells : ((List.range f.k.toNat).flatMap fun i => (List.range f.n.toNat).map fun n => cell (i, n)) = (tileCells f).map cell := by
    simp only [tileCells, List.map_flatMap, List.map_map]
    rfl
  have hstage : s.stage c e form f = (s.setCore c { s.core c with
      wShadow := shadow ((tileCells f).map cell), staging := none, staged := some e.seq }).coreViol c
        (((tileCells f).map cell).flatMap (·.2.2)) := by
    rw [← hcells]
    rfl
  have hviol : ((tileCells f).map cell).flatMap (·.2.2) = [] := by
    rw [List.flatMap_eq_nil_iff, List.forall_mem_map]
    exact fun p hp => hw _ _ (mem_tileCells.1 hp).1 (mem_tileCells.1 hp).2
  rw [hstage, hviol, show shadow ((tileCells f).map cell) = s.stagedShadow c e form f from List.foldl_map]
  rfl

/-- Elements of the tile stand in their registers, and the other registers of the arrays hold zero. -/
theorem State.stagedShadow_get (hk : f.k.toNat ≤ 512) (hn : f.n.toNat ≤ 256 * form.arrays.length) (hnd : form.arrays.Nodup)
    {a i j : Nat} (ha : a < form.arrays.length) (hi : i < 512) (hj : j < 256) :
    Tab.get .zero (nth 0 form.arrays a * 131072 + i * 256 + j) (s.stagedShadow c e form f)
      = if i < f.k.toNat ∧ 256 * a + j < f.n.toNat then (s.weight c e f i (256 * a + j)).1 else .zero := by
  have hkey : ∀ p ∈ tileCells f, tileKey form p.1 p.2 = nth 0 form.arrays a * 131072 + i * 256 + j ↔ p = (i, 256 * a + j) := by
    intro ⟨x, n⟩ hp
    obtain ⟨hx, hcol⟩ := mem_tileCells.1 hp
    dsimp only at hx hcol
    rw [tileKey, weightKey_inj (by omega) (by omega) hi hj, nth_inj 0 hnd (by omega) ha, Prod.mk.injEq]
    omega
  by_cases hin : i < f.k.toNat ∧ 256 * a + j < f.n.toNat
  · have hmem : (i, 256 * a + j) ∈ tileCells f := mem_tileCells.2 hin
    rw [if_pos hin]
    exact Tab.get_puts _ _ _ _ _ _ _ (fun p hp h => by rw [(hkey p hp).1 h]) ⟨_, hmem, (hkey _ hmem).2 rfl⟩
  · rw [if_neg hin, State.stagedShadow, Tab.get_puts_ne, Nat.add_assoc, Tab.get_clearArrays _ _ _ (by omega), if_pos (nth_mem 0 ha)]
    intro p hp h
    exact hin (mem_tileCells.1 ((hkey p hp).1 h ▸ hp))

/-- The shadow registers of other arrays stand. -/
theorem State.stagedShadow_get_ne (hk : f.k.toNat ≤ 512) (hn : f.n.toNat ≤ 256 * form.arrays.length) {b i j : Nat}
    (hb : b ∉ form.arrays) (hi : i < 512) (hj : j < 256) :
    Tab.get .zero (b * 131072 + i * 256 + j) (s.stagedShadow c e form f) = Tab.get .zero (b * 131072 + i * 256 + j) (s.core c).wShadow := by
  rw [State.stagedShadow, Tab.get_puts_ne, Nat.add_assoc, Tab.get_clearArrays _ _ _ (by omega), if_neg hb]
  intro ⟨x, n⟩ hp h
  obtain ⟨hx, hcol⟩ := mem_tileCells.1 hp
  dsimp only at hx hcol
  rw [tileKey, weightKey_inj (by omega) (by omega) hi hj] at h
  exact hb (h.1 ▸ nth_mem 0 (by omega))

/-! ### The commands -/

variable {rest : List QEntry} (hq : (s.core c).qMx = e :: rest) (hi : e.ins = .mx form f)
include hq hi

theorem exec_mxTakeCounts_ready (hc : (s.core c).mxCounts = false) (ht : (s.core c).mayTake e.seq (waitSet f.sync) = true) :
    exec (.mxTakeCounts c) s = .next (s.modCore c fun k => { k.take (waitSet f.sync) with mxCounts := true }) := by
  show execMxTakeCounts c s = _
  have hs : e.ins.sync = f.sync := by rw [hi]; rfl
  unfold execMxTakeCounts
  simp only [hq, hs, hc, ht]
  rfl

theorem exec_weightStagingStart_ready (hc : (s.core c).mxCounts = true) (hm : mxStages form f = true) (hst : (s.core c).staging = none)
    (hsd : (s.core c).staged ≠ some e.seq) :
    exec (.weightStagingStart c) s = .next (s.modCore c fun k => { k with staging := some e.seq }) := by
  show execWeightStagingStart c s = _
  unfold execWeightStagingStart
  simp only [hq, QEntry.mx?_of_ins hi, hc, hm, hst, bne_iff_ne.2 hsd]
  rfl

theorem exec_weightStagingDone_staging (hst : (s.core c).staging = some e.seq) :
    exec (.weightStagingDone c none) s = .next (s.stage c e form f) := by
  show execWeightStagingDone c none s = _
  unfold execWeightStagingDone
  simp only [hq, QEntry.mx?_of_ins hi, hst, if_true]
  rfl

end

/-- Settles O26: the staged tile is `State.stagedShadow` (read at the end of the staging, log 60). -/
theorem matrixStages : Obligations.MatrixStages := by
  intro c e rest form f s hq hi k
  refine ⟨exec_mxTakeCounts_ready hq hi, exec_weightStagingStart_ready hq hi, fun hst hk hn hnd hw =>
    ⟨s.stagedShadow c e form f, ?_, fun a i j => State.stagedShadow_get hk hn hnd, fun b i j => State.stagedShadow_get_ne hk hn⟩⟩
  rw [exec_weightStagingDone_staging hq hi hst, State.stage_clean hw]

end Sys2Proof.Machine
end

section
/-! MX_START: the weight swap, and the fence (O27). -/

namespace Sys2Proof.Machine

/-- Counting violations changes no core. -/
theorem State.coreViol_core (s : State) (c : Nat) (addrs : List Nat) (d : Nat) : (s.coreViol c addrs).core d = s.core d := by
  cases addrs with
  | nil => rfl
  | cons a l =>
    unfold State.coreViol
    dsimp only
    rw [apply_ite (State.core · d), (State.pulse_raised (Raised.refl _) _).core, ite_self]
    split <;> rfl

/-! ### The weight swap (R76, R77) -/

/-- The core with the active weights that an instruction starts on: its staged ones, none in a Tourbillon form, else those that stand. -/
def Core.swapFor (k : Core) (form : MxForm) (f : MxF) : Core :=
  if mxStages form f || (form.isTour && !mxFence f) then k.swap form else k

section
variable {k : Core} {form : MxForm} {f : MxF}

theorem mxStages_fence (hf : mxFence f = true) : mxStages form f = false := by
  simp [mxStages, hf]

theorem Core.swapFor_fence (hf : mxFence f = true) : k.swapFor form f = k := by
  simp [Core.swapFor, mxStages_fence hf, hf]

/-- The swap changes the active weights alone. -/
theorem Core.swapFor_eq : k.swapFor form f = { k with wAct := (k.swapFor form f).wAct } := by
  unfold Core.swapFor Core.swap
  split_ifs <;> rfl

theorem Core.swap_tour (ht : form.isTour = true) {a i : Nat} (hi : i < 131072) :
    Tab.get .zero (a * 131072 + i) (k.swap form).wAct = if a ∈ form.arrays then .zero else Tab.get .zero (a * 131072 + i) k.wAct := by
  unfold Core.swap
  rw [if_pos ht]
  exact Tab.get_clearArrays _ _ _ hi

/-- The staged weights that a form takes: those in the shadow registers of its own arrays. -/
def Core.movedWeights (k : Core) (form : MxForm) : Tab XV := k.wShadow.filter fun p => hasNat form.arrays (p.1 / 131072)

theorem Core.movedWeights_get {a i : Nat} (hi : i < 131072) (ha : a ∈ form.arrays) :
    Tab.get .zero (a * 131072 + i) (k.movedWeights form) = Tab.get .zero (a * 131072 + i) k.wShadow := by
  have hkey : hasNat form.arrays ((a * 131072 + i) / 131072) = true := by
    rwa [hasNat_iff, show (a * 131072 + i) / 131072 = a by omega]
  exact (Tab.get_filter _ _ (fun x => hasNat form.arrays (x / 131072)) _).trans (if_pos hkey)

theorem Core.mem_movedWeights {a i : Nat} (hi : i < 131072) (h : ∃ p ∈ k.movedWeights form, p.1 = a * 131072 + i) : a ∈ form.arrays := by
  obtain ⟨p, hp, hkey⟩ := h
  have hm := hasNat_iff.1 (List.mem_filter.1 hp).2
  rwa [hkey, show (a * 131072 + i) / 131072 = a by omega] at hm

theorem Core.swap_normal (ht : form.isTour = false) {a i : Nat} (hi : i < 131072) :
    Tab.get .zero (a * 131072 + i) (k.swap form).wAct
      = if a ∈ form.arrays then Tab.get .zero (a * 131072 + i) k.wShadow else Tab.get .zero (a * 131072 + i) k.wAct := by
  have hswap : (k.swap form).wAct = (k.movedWeights form).foldr (fun p t => Tab.put .zero p.1 p.2 t)
      (form.arrays.foldl (fun t a => Tab.clear (a * 131072) 131072 t) k.wAct) := by
    unfold Core.swap
    rw [ht]
    rfl
  rw [hswap, Tab.get_over, Tab.get_clearArrays _ _ _ hi]
  by_cases ha : a ∈ form.arrays
  · rw [if_pos ha, if_pos ha, ← Core.movedWeights_get hi ha]
    split_ifs with hex
    · rfl
    · exact (Tab.get_none _ _ _ hex).symm
  · rw [if_neg fun hex => ha (Core.mem_movedWeights hi hex), if_neg ha, if_neg ha]

/-- The active weights of the instruction's own arrays at its start. -/
theorem Core.swapFor_own (hf : mxFence f = false) {a i : Nat} (hi : i < 131072) (ha : a ∈ form.arrays) :
    Tab.get .zero (a * 131072 + i) (k.swapFor form f).wAct
      = if form.isTour then .zero else if mxStages form f then Tab.get .zero (a * 131072 + i) k.wShadow
        else Tab.get .zero (a * 131072 + i) k.wAct := by
  unfold Core.swapFor
  cases ht : form.isTour with
  | true => simp [hf, Core.swap_tour ht hi, ha]
  | false =>
    cases hs : mxStages form f with
    | true => simp [Core.swap_normal ht hi, ha]
    | false => simp

/-- The active weights of other arrays stand. -/
theorem Core.swapFor_other {a i : Nat} (hi : i < 131072) (ha : a ∉ form.arrays) :
    Tab.get .zero (a * 131072 + i) (k.swapFor form f).wAct = Tab.get .zero (a * 131072 + i) k.wAct := by
  unfold Core.swapFor
  split_ifs
  · cases ht : form.isTour with
    | true => rw [Core.swap_tour ht hi, if_neg ha]
    | false => rw [Core.swap_normal ht hi, if_neg ha]
  · rfl

end

/-! ### The start of a run (R72, R73) -/

/-- The run of an instruction that has just started, with the vectors of its chain. -/
def MxRun.fresh (e : QEntry) (bufs : Tab (List Nat)) : MxRun := ⟨e, 0, 0, [], 0, 0, .none, bufs⟩

/-- A core whose oldest matrix instruction has started. -/
def Core.mxStarted (k : Core) (e : QEntry) (rest : List QEntry) (form : MxForm) (f : MxF) (bufs : Tab (List Nat)) : Core :=
  let k := k.swapFor form f
  { k with qMx := rest, mxCounts := false, staged := if mxStages form f then none else k.staged,
           mxRuns := k.mxRuns ++ [MxRun.fresh e bufs] }

section
variable (k : Core) (e : QEntry) (rest : List QEntry) (form : MxForm) (f : MxF) (bufs : Tab (List Nat))

theorem Core.mxStarted_eq : k.mxStarted e rest form f bufs = { k with
    qMx := rest, mxCounts := false, mxRuns := k.mxRuns ++ [MxRun.fresh e bufs], wAct := (k.swapFor form f).wAct,
    staged := if mxStages form f then none else k.staged } := by
  unfold Core.mxStarted
  rw [Core.swapFor_eq]

theorem Core.mxStarted_fence {f : MxF} (hf : mxFence f = true) : k.mxStarted e rest form f bufs = { k with
    qMx := rest, mxCounts := false, mxRuns := k.mxRuns ++ [MxRun.fresh e bufs] } := by
  rw [Core.mxStarted_eq, Core.swapFor_fence hf, mxStages_fence hf]
  rfl

end

/-- A new run is found by its sequence number, whatever violations its start counts. -/
theorem State.runOf_mxStarted {s : State} {c : Nat} {k : Core} {e : QEntry} (hnew : ∀ r ∈ k.mxRuns, r.entry.seq ≠ e.seq)
    (rest : List QEntry) (form : MxForm) (f : MxF) (bufs : Tab (List Nat)) (viol : List Nat) :
    ((((s.setCore c (k.mxStarted e rest form f bufs)).coreViol c viol).core c).runOf e.seq) = some (MxRun.fresh e bufs) := by
  have hold : k.mxRuns.find? (fun r => decide (r.entry.seq = e.seq)) = none := by simpa using hnew
  rw [State.coreViol_core, State.core_setCore_self, Core.mxStarted_eq]
  show (k.mxRuns ++ [MxRun.fresh e bufs]).find? (fun r => decide (r.entry.seq = e.seq)) = _
  rw [List.find?_append, hold]
  simp [MxRun.fresh]

/-- A fence has no rows to stream (R74). -/
theorem State.stream_fence {s : State} {c seq : Nat} {r : MxRun} {form : MxForm} {f : MxF} (hr : (s.core c).runOf seq = some r)
    (hx : r.entry.mx? = some (form, f)) (hf : mxFence f = true) : s.stream c seq = s := by
  have hrow : s.streamRow c seq = s := by
    unfold State.streamRow
    simp only [hr, hx, hf, Bool.not_true, Bool.false_and, Bool.false_eq_true, if_false]
  exact State.stream_last hrow hrow

/-- A fence reads no vectors (R74, R103). -/
theorem State.operandBufs_fence (s : State) (c : Nat) (e : QEntry) {f : MxF} (hf : mxFence f = true) : s.operandBufs c e f = ([], []) := by
  unfold State.operandBufs
  simp only [hf, if_true, List.foldl_nil, List.flatMap_nil]

/-- Nothing holds back the oldest matrix instruction of a core (R27, R72, R73, R76, R375). -/
structure State.MxMayStart (s : State) (c : Nat) (e : QEntry) (rest : List QEntry) (form : MxForm) (f : MxF) : Prop where
  power  : s.pwrFail = false
  drain  : s.drainWaits c = false
  gate   : s.mxGated c = false
  queue  : (s.core c).qMx = e :: rest
  ins    : e.ins = .mx form f
  counts : (s.core c).mxCounts = true
  free   : (s.core c).arraysFree form f = true
  staged : mxStages form f = true → (s.core c).staged = some e.seq

/-- The oldest matrix instruction leaves its queue, and its stream begins. -/
theorem exec_mxStart_ready {s : State} {c : Nat} {e : QEntry} {rest : List QEntry} {form : MxForm} {f : MxF}
    (h : s.MxMayStart c e rest form f) : exec (.mxStart c none) s
    = .next (((s.setCore c ((s.core c).mxStarted e rest form f (s.operandBufs c e f).1)).coreViol c
        (s.operandBufs c e f).2).stream c e.seq) := by
  obtain ⟨hp, hd, hg, hq, hi, hc, hf, hst⟩ := h
  have hready : (!mxStages form f || (s.core c).staged == some e.seq) = true := by
    cases hm : mxStages form f with
    | true => simp [hst hm]
    | false => rfl
  have hgo : ((s.core c).mxCounts && (s.core c).arraysFree form f && (!mxStages form f || (s.core c).staged == some e.seq)) = true := by
    rw [hc, hf, hready]
    rfl
  show execMxStart c none s = _
  unfold execMxStart
  simp only [hp, hd, hg, hq, QEntry.mx?_of_ins hi]
  rw [if_neg (by decide), if_pos hgo]
  rfl

/-- Settles O27: the stream of a fence is empty (`State.stream_fence`); any other's is that of ACC_ROW_READY, on the weights of
`Core.swapFor`. The vectors are those at MX_START (log 60). -/
theorem matrixStarts : Obligations.MatrixStarts := by
  intro c e rest form f s hp hd hg hq hi hc hfree hst hnew k b runs
  have hgo := exec_mxStart_ready ⟨hp, hd, hg, hq, hi, hc, hfree, hst⟩
  have hrun := State.runOf_mxStarted (s := s) (c := c) hnew rest form f b.1 b.2
  refine ⟨fun hmn => ?_, fun hm hn => ⟨(k.swapFor form f).wAct, ?_, fun a i => Core.swapFor_own (mxFence_eq_false hm hn), fun a i =>
    Core.swapFor_other⟩⟩
  · have hf := mxFence_iff.2 hmn
    have hb : b.2 = [] := congrArg Prod.snd (State.operandBufs_fence s c e hf)
    rw [hgo, State.stream_fence hrun (QEntry.mx?_of_ins hi) hf, hb, Core.mxStarted_fence _ _ _ _ _ hf]
    rfl
  · rw [hgo, ← exec_accRowReady hrun, Core.mxStarted_eq]
    rfl

end Sys2Proof.Machine
end

section
/-! Registers of a core that act when written or read: semaphores, timers, the ledger, violations (O35). -/

namespace Sys2Proof

/-- A field of a word that is widened. -/
theorem fld_setWidth {n m : Nat} (w : BitVec n) (lo len : Nat) (h : n ≤ m) : fld (w.setWidth m) lo len = fld w lo len := by
  unfold fld
  rw [BitVec.extractLsb'_toNat, BitVec.extractLsb'_toNat, BitVec.toNat_setWidth_of_le h]

end Sys2Proof

namespace Sys2Proof.Machine

/-! ### A write through a mask (R11) -/

theorem State.reg_rwReg_ne (s : State) {o p : Nat} (m v : W64) (h : p ≠ o) : (s.rwReg o m v).reg p = s.reg p :=
  State.reg_setReg_ne s _ h

/-- A field that the mask covers takes the written bits. -/
theorem State.rf_rwReg (s : State) (o : Nat) {m : W64} (v : W64) {lo len : Nat} (h : ∀ i < len, m.getLsbD (lo + i) = true) :
    (s.rwReg o m v).rf o lo len = fld v lo len := by
  unfold State.rf State.rwReg
  rw [State.reg_setReg_self, fld_mergeMask _ _ _ _ _ h]

theorem State.rf_of_reg {s t : State} {o : Nat} (h : t.reg o = s.reg o) (lo len : Nat) : t.rf o lo len = s.rf o lo len :=
  congrArg (fld · lo len) h

/-- A field that takes a field of its own width. -/
theorem State.rf_setRf_fld (s : State) (o lo len : Nat) {n : Nat} (w : BitVec n) (lo' : Nat) (h : lo + len ≤ 64) :
    (s.setRf o lo len (fld w lo' len)).rf o lo len = fld w lo' len := by
  rw [State.rf_setRf _ _ _ _ _ h, Nat.mod_eq_of_lt (fld_lt _ _ _)]

/-! ### Commands at a core that answers -/

section
variable {c : Nat} {s : State} (hc : c < 64) (hk : s.hasCore c = true)
include hc hk

theorem exec_timerWrite {n : Nat} (hn : n < 4) (v : W64) : exec (.timerWrite c n v) s = .next (s.timerWrite c n v) := by
  show ret (if _ then _ else _) = _
  rw [if_pos (by simp [hc, hn, hk])]
  rfl

theorem exec_timerExpiry {n : Nat} (hn : n < 4) (hen : s.rbit (tmrReg c n) 63 = true) :
    exec (.timerExpiry c n) s = .next (s.timerExpire c n) := by
  show ret (if _ then _ else _) = _
  rw [if_pos (by simp [hc, hn, hk, hen])]
  rfl

variable (hd : hasNat s.deadDies (c / 16) = false)
include hd

theorem atCore_live (f : State → State) : atCore c f s = .next (f s) := by
  unfold atCore ret
  rw [if_pos (by simp [hc, hk, hd])]

theorem exec_coreSemSig (v : W64) : exec (.coreSemSig c v) s = .next (s.semSig c v) :=
  atCore_live hc hk hd (·.semSig c v)

theorem exec_ledgerCfgWrite (w : BitVec 32) : exec (.ledgerCfgWrite c w) s = .next (s.ledgerWrite c w) :=
  atCore_live hc hk hd (·.ledgerWrite c w)

/-- A held write applies, once the matrix unit is idle, as a write made then does. -/
theorem exec_ledgerCfgApply_held {w : BitVec 32} (hw : (s.core c).ledgerHeld = some w) (h : (s.core c).mxActive = false) :
    exec (.ledgerCfgApply c) s = .next (s.ledgerWrite c w) := by
  show execLedgerCfgApply c s = _
  unfold execLedgerCfgApply State.ledgerWrite
  rw [atCore_live hc hk hd]
  simp only [hw, h]
  rfl

theorem exec_coreViolCntRead : exec (.coreViolCntRead c) s
    = .next ((s.violRead c).send (.busRead (rCore c 0x28) (BitVec.ofNat 64 (s.rf (rCore c 0x28) 0 32)))) :=
  atCore_live hc hk hd fun s => (s.violRead c).send (.busRead (rCore c 0x28) (BitVec.ofNat 64 (s.rf (rCore c 0x28) 0 32)))

end

/-! ### CORE_SEM_SIG (R131) -/

theorem State.semSig_zero (s : State) (c : Nat) {v : W64} (h : fld v 0 16 = 0) : s.semSig c v = s := if_pos h

theorem State.semSig_plain {s : State} {c : Nat} {v : W64} (h : fld v 0 16 ≠ 0)
    (hroom : (s.core c).semVal (fld v 16 6) + fld v 0 16 ≤ 65535) :
    s.semSig c v = s.setCore c ((s.core c).setSem (fld v 16 6) ((s.core c).semVal (fld v 16 6) + fld v 0 16)) :=
  (if_neg h).trans (State.signal_plain s c _ _ hroom)

/-! ### Timers (R139) -/

theorem tmrReg_ne_tmrCnt (c n : Nat) : tmrReg c n ≠ tmrCnt c n := by
  unfold tmrReg tmrCnt rCore
  omega

@[simp] theorem State.reg_paceCredit (s : State) (src o : Nat) : (s.paceCredit src).reg o = s.reg o := rfl

/-- A write touches no more than the timer's two registers. -/
theorem State.timerWrite_frame (s : State) (c n : Nat) (v : W64) : { s.timerWrite c n v with regs := s.regs } = s
    ∧ ∀ o, o ≠ tmrReg c n → o ≠ tmrCnt c n → (s.timerWrite c n v).reg o = s.reg o := by
  unfold State.timerWrite
  dsimp only
  split
  · exact ⟨rfl, fun o ht hn => (State.reg_setRf_ne _ hn).trans (State.reg_rwReg_ne s _ v ht)⟩
  · exact ⟨rfl, fun o ht _ => State.reg_rwReg_ne s _ v ht⟩

/-- The fields of CORE_TMRn after a write. -/
theorem State.timerWrite_field (s : State) (c n : Nat) (v : W64) {lo len : Nat}
    (h : ∀ i < len, (0xE03F0000FFFFFFFF : W64).getLsbD (lo + i) = true) :
    (s.timerWrite c n v).rf (tmrReg c n) lo len = fld v lo len := by
  unfold State.timerWrite
  dsimp only
  split
  · rw [State.rf_of_reg (State.reg_setRf_ne _ (tmrReg_ne_tmrCnt c n)), State.rf_rwReg _ _ _ h]
  · exact State.rf_rwReg _ _ _ h

/-- A write with en loads the count; another holds it. -/
theorem State.timerWrite_count (s : State) (c n : Nat) (v : W64) :
    (s.timerWrite c n v).rf (tmrCnt c n) 0 32 = if bit v 63 then fld v 0 32 else s.rf (tmrCnt c n) 0 32 := by
  unfold State.timerWrite
  dsimp only
  split
  · exact State.rf_setRf_fld _ _ _ _ _ _ (by omega)
  · exact State.rf_of_reg (State.reg_rwReg_ne s _ v (tmrReg_ne_tmrCnt c n).symm) 0 32

/-- A timer without a signal, periodic and of a period other than 0, reloads. -/
theorem State.timerExpire_reloads {s : State} {c n : Nat} (hsig : s.rbit (tmrReg c n) 61 = false)
    (h : (s.rbit (tmrReg c n) 62 && s.rf (tmrReg c n) 0 32 != 0) = true) :
    s.timerExpire c n = (s.paceCredit (2 * (4 * c + n))).setRf (tmrCnt c n) 0 32 (s.rf (tmrReg c n) 0 32) := by
  unfold State.rbit at hsig
  unfold State.timerExpire
  simp only [hsig, Bool.false_eq_true, if_false]
  exact if_pos h

/-- Any other timer without a signal stops at 0. -/
theorem State.timerExpire_stops {s : State} {c n : Nat} (hsig : s.rbit (tmrReg c n) 61 = false)
    (h : (s.rbit (tmrReg c n) 62 && s.rf (tmrReg c n) 0 32 != 0) = false) :
    s.timerExpire c n = ((s.paceCredit (2 * (4 * c + n))).setRbit (tmrReg c n) 63 false).setRf (tmrCnt c n) 0 32 0 := by
  unfold State.rbit at hsig
  unfold State.timerExpire
  simp only [hsig, Bool.false_eq_true, if_false]
  exact if_neg (Bool.eq_false_iff.1 h)

/-- What the expiry of a timer without a signal changes: credits, its enable and its count. -/
theorem State.timerExpire_silent {s : State} {c n : Nat} (hen : s.rbit (tmrReg c n) 63 = true)
    (hsig : s.rbit (tmrReg c n) 61 = false) :
    { s.timerExpire c n with regs := s.regs } = s.paceCredit (2 * (4 * c + n))
    ∧ (∀ o, o ≠ tmrReg c n → o ≠ tmrCnt c n → (s.timerExpire c n).reg o = s.reg o)
    ∧ (s.timerExpire c n).rbit (tmrReg c n) 63 = (s.rbit (tmrReg c n) 62 && s.rf (tmrReg c n) 0 32 != 0)
    ∧ (s.timerExpire c n).rf (tmrCnt c n) 0 32 = if s.rbit (tmrReg c n) 62 then s.rf (tmrReg c n) 0 32 else 0 := by
  have hne := tmrReg_ne_tmrCnt c n
  cases h : s.rbit (tmrReg c n) 62 && s.rf (tmrReg c n) 0 32 != 0 with
  | true =>
    rw [State.timerExpire_reloads hsig h]
    refine ⟨rfl, fun o _ hn => State.reg_setRf_ne _ hn, ?_, ?_⟩
    · unfold State.rbit
      rw [State.reg_setRf_ne _ hne]
      exact hen
    · rw [if_pos (Bool.and_eq_true_iff.1 h).1]
      exact State.rf_setRf_fld _ _ _ _ _ _ (by omega)
  | false =>
    rw [State.timerExpire_stops hsig h]
    refine ⟨rfl, fun o ht hn => (State.reg_setRf_ne _ hn).trans (State.reg_setRbit_ne _ ht), ?_, ?_⟩
    · unfold State.rbit
      rw [State.reg_setRf_ne _ hne, State.reg_setRbit_self, bit_setBit _ _ _ (by omega)]
    · rw [State.rf_setRf _ _ _ _ _ (by omega)]
      split
      · next hper => exact (by simpa [hper] using h : s.rf (tmrReg c n) 0 32 = 0).symm
      · rfl

/-! ### CORE_LEDGER_CFG (R108) -/

theorem Core.mxActive_eq_false {k : Core} (hq : k.qMx = []) (hr : k.mxRuns = []) : k.mxActive = false := by
  unfold Core.mxActive
  rw [hq, hr]
  rfl

theorem Core.mxActive_eq_true {k : Core} (h : k.qMx ≠ [] ∨ k.mxRuns ≠ []) : k.mxActive = true := by
  unfold Core.mxActive
  rcases h with h | h <;> simp [h]

/-- en, rows and base take the written value, and nothing else changes. -/
theorem State.ledgerSet_spec (s : State) (c : Nat) (w : BitVec 32) :
    { s.ledgerSet c w with regs := s.regs } = s ∧ (∀ o, o ≠ rCore c 0x200 → (s.ledgerSet c w).reg o = s.reg o)
    ∧ (s.ledgerSet c w).rbit (rCore c 0x200) 31 = bit w 31
    ∧ (s.ledgerSet c w).rf (rCore c 0x200) 24 7 = fld w 24 7
    ∧ (s.ledgerSet c w).rf (rCore c 0x200) 0 13 = fld w 0 13 := by
  have hfield {lo len : Nat} (h : ∀ i < len, (0xFF001FFF : W64).getLsbD (lo + i) = true) :
      (s.ledgerSet c w).rf (rCore c 0x200) lo len = fld w lo len :=
    (State.rf_rwReg s _ _ h).trans (fld_setWidth w lo len (by omega))
  refine ⟨rfl, fun o ho => State.reg_rwReg_ne s _ _ ho, ?_, hfield (by decide), hfield (by decide)⟩
  rw [bit_eq_fld, ← hfield (lo := 31) (len := 1) (by decide)]
  exact bit_eq_fld _ _

theorem State.ledgerWrite_idle {s : State} {c : Nat} (w : BitVec 32) (h : (s.core c).mxActive = false) :
    s.ledgerWrite c w = (s.ledgerSet c w).setCore c { s.core c with ledgerHeld := none } := by
  unfold State.ledgerWrite
  rw [h]
  rfl

theorem State.ledgerWrite_busy {s : State} {c : Nat} (w : BitVec 32) (h : (s.core c).mxActive = true) :
    s.ledgerWrite c w = s.setCore c { s.core c with ledgerHeld := some w } := by
  unfold State.ledgerWrite
  rw [h]
  rfl

/-- Settles O35, clause by clause: signals, the two commands of a timer, the two of the ledger, and the read of CORE_VIOL_CNT. A timer
expires only while enabled (log 82). -/
theorem coreRegisters : Obligations.CoreRegisters := by
  intro c n v w s hc hn hk hd k tmr cnt led takes
  refine ⟨fun h0 => ?_, fun h0 hroom => ?_, ?_, fun hen hsig => ?_, fun hq hr => ?_, fun hbusy => ?_, fun hheld hq hr => ?_,
    exec_coreViolCntRead hc hk hd⟩
  · rw [exec_coreSemSig hc hk hd, State.semSig_zero s c h0]
  · rw [exec_coreSemSig hc hk hd, State.semSig_plain h0 hroom]
  · obtain ⟨hrest, hregs⟩ := State.timerWrite_frame s c n v
    exact ⟨_, exec_timerWrite hc hk hn v, hrest, hregs, State.timerWrite_field s c n v (by decide),
      State.timerWrite_field s c n v (by decide), State.timerWrite_field s c n v (by decide), State.timerWrite_count s c n v⟩
  · exact ⟨_, exec_timerExpiry hc hk hn hen, State.timerExpire_silent hen hsig⟩
  · have hidle := Core.mxActive_eq_false hq hr
    rw [exec_ledgerCfgWrite hc hk hd, State.ledgerWrite_idle w hidle]
    exact ⟨_, _, rfl, State.ledgerSet_spec s c w, rfl⟩
  · rw [exec_ledgerCfgWrite hc hk hd, State.ledgerWrite_busy w (Core.mxActive_eq_true hbusy)]
  · have hidle := Core.mxActive_eq_false hq hr
    rw [exec_ledgerCfgApply_held hc hk hd hheld hidle, State.ledgerWrite_idle w hidle]
    exact ⟨_, _, rfl, State.ledgerSet_spec s c w, rfl⟩

end Sys2Proof.Machine
end

section
/-! The sequencer: control, scalar results, waits and its own faults (O7, O8, O9, O12, O14, O15). -/

namespace Sys2Proof.Machine

/-! ### Issue at a core -/

/-- A core that issues a good program word, at any index (R122, R127). -/
theorem issue_good {c : Nat} {s : State} (hi : s.issuing c = true) (hw : hasNat (s.core c).badProg (s.core c).pc = false)
    (f : State → State) : issue c s f = f s := by
  unfold issue
  rw [if_pos hi, hw]
  rfl

/-- An instruction that changes the core in some fields other than its program counter, and goes on. -/
theorem issue_modCore_advance {c : Nat} {s : State} (h : s.Ready c) {f : Core → Core} (hf : (f (s.core c)).pc = (s.core c).pc) :
    ret (issue c s fun s => (s.modCore c f).advance c) = .next (s.setCore c (f (s.core c)).next) := by
  rw [issue_ready h, State.modCore_advance f (hf ▸ h.room)]
  rfl

/-- An instruction that issues and is refused stops its core with the fault that its effect names (R144). -/
theorem exec_issue_faults {i : Instr} {c cause queue pc detail : Nat} {s : State} (hi : s.issuing c = true)
    (hw : hasNat (s.core c).badProg (s.core c).pc = false) (hf : (s.core c).fault = none) (hr : (s.core c).run = .running)
    {f : State → State} (hexec : exec i s = ret (issue c s f)) (hx : f s = s.coreFault c cause queue pc detail) :
    ∃ t, exec i s = .next t ∧ Faults s t c cause queue pc detail :=
  ⟨_, hexec.trans (congrArg ret ((issue_good hi hw f).trans hx)), State.coreFault_faults _ _ _ _ hf (.inl hr)⟩

/-- An access of the sequencer that is not aligned is a format error of its own queue (R145, R170). -/
theorem seqLoad_misaligned {c align n off : Nat} {par : Option Parity} {f : Bytes → Core → Core} {s : State} (h : off % align ≠ 0) :
    seqLoad c align n off par f s = s.coreFault c 2 5 (s.core c).pc 0 := if_pos h

theorem seqStore_misaligned {c align off : Nat} {d : Bytes} {s : State} (h : off % align ≠ 0) :
    seqStore c align off d s = s.coreFault c 2 5 (s.core c).pc 0 := if_pos h

/-! ### Control class (R124, R168) -/

/-- What each condition of a branch compares (R168). -/
theorem branchCond_eq {cond : BitVec 4} (h : cond.toNat ≤ 5) (a b : W64) :
    ∃ t, branchCond cond.toNat a b = some t ∧ (t = true ↔ (cond = 0 ∧ a = b) ∨ (cond = 1 ∧ a ≠ b) ∨ (cond = 2 ∧ a.toInt < b.toInt)
      ∨ (cond = 3 ∧ b.toInt ≤ a.toInt) ∨ (cond = 4 ∧ a.toNat < b.toNat) ∨ (cond = 5 ∧ b.toNat ≤ a.toNat)) := by
  have hcases : cond = 0 ∨ cond = 1 ∨ cond = 2 ∨ cond = 3 ∨ cond = 4 ∨ cond = 5 := by bv_omega
  rcases hcases with rfl | rfl | rfl | rfl | rfl | rfl <;> exact ⟨_, rfl, by simp [BitVec.slt, BitVec.ult]⟩

section
variable {c : Nat} {s : State} (h : s.Ready c)
include h

theorem exec_nop_ready (f : CtrlF) : exec (.nop c f) s = .next (s.setCore c (s.core c).next) := by
  show ret (issue c s _) = _
  rw [issue_ready h, State.advance_room h.room]
  rfl

theorem exec_jmp_ready (f : CtrlF) : exec (.jmp c f) s = .next (s.setCore c ((s.core c).at f.target.toNat)) := by
  show ret (issue c s _) = _
  rw [issue_ready h, State.jump_room (by omega)]
  rfl

theorem exec_br_ready {f : CtrlF} {taken : Bool} (hb : branchCond f.cond.toNat ((s.core c).s f.sa.toNat) (ctrlB f (s.core c)) = some taken) :
    exec (.br c f) s = .next (s.setCore c (if taken then (s.core c).at f.target.toNat else (s.core c).next)) := by
  show ret (issue c s _) = _
  rw [issue_ready h, hb]
  cases taken with
  | true => exact congrArg ret (State.jump_room (by omega))
  | false => exact congrArg ret (State.advance_room h.room)

theorem exec_call_ready (f : CtrlF) (hr : (s.core c).rstack.length < 8) :
    exec (.call c f) s = .next (s.setCore c { (s.core c).at f.target.toNat with rstack := ((s.core c).pc + 1) :: (s.core c).rstack }) := by
  show ret (issue c s _) = _
  rw [issue_ready h]
  dsimp only
  rw [if_neg (by omega), State.jump_room (by omega)]
  simp only [State.modCore, State.core_setCore_self, State.setCore_setCore]
  rfl

theorem exec_ret_ready (f : CtrlF) {t : Nat} {rest : List Nat} (hr : (s.core c).rstack = t :: rest) (ht : t ≤ 16383) :
    exec (.ret c f) s = .next (s.setCore c { (s.core c).at t with rstack := rest }) := by
  show ret (issue c s _) = _
  rw [issue_ready h]
  simp only [hr]
  rw [State.jump_room ht]
  simp only [State.modCore, State.core_setCore_self, State.setCore_setCore]
  rfl

end

/-- Settles O7: one lemma per instruction of the class, the branch by the truth of its condition (`branchCond_eq`). -/
theorem controlFlow : Obligations.ControlFlow := by
  intro c f s h k a b taken
  refine ⟨exec_nop_ready h f, exec_jmp_ready h f, fun hc ht => ?_, fun hc ht => ?_, exec_call_ready h f, fun t rest => exec_ret_ready h f⟩
  · obtain ⟨t, hb, hi⟩ := branchCond_eq hc a b
    rw [exec_br_ready h hb, if_pos (hi.2 ht)]
  · obtain ⟨t, hb, hi⟩ := branchCond_eq hc a b
    rw [exec_br_ready h hb, if_neg (mt hi.1 ht)]

/-! ### Scalar class (R127, R169) -/

/-- A write of a scalar register, s0 apart, by an instruction that goes on. -/
theorem Core.next_setS (k : Core) (n : BitVec 5) (v : W64) :
    (k.setS n.toNat v).next = if n = 0 then k.next else { k.next with sreg := Tab.put 0 n.toNat v k.sreg } := by
  unfold Core.setS
  by_cases hn : n = 0
  · have h0 : n.toNat = 0 := congrArg BitVec.toNat hn
    rw [if_pos hn, if_pos h0]
  · have h0 : n.toNat ≠ 0 := fun h0 => hn (BitVec.eq_of_toNat_eq h0)
    rw [if_neg hn, if_neg h0]
    rfl

@[simp] theorem Core.setS_pc (k : Core) (n : Nat) (v : W64) : (k.setS n v).pc = k.pc := by
  unfold Core.setS
  split <;> rfl

theorem scalar_ready {c : Nat} {s : State} (h : s.Ready c) (f : ScalF) {op : W64 → W64 → W64} {v : W64}
    (hv : op ((s.core c).s f.sa.toNat) (scalB f (s.core c)) = v) : scalar op c f s
    = .next (s.setCore c (if f.sd = 0 then (s.core c).next else { (s.core c).next with sreg := Tab.put 0 f.sd.toNat v (s.core c).sreg })) := by
  refine (issue_modCore_advance h (Core.setS_pc _ _ _)).trans ?_
  rw [Core.next_setS, hv]

theorem shiftLeft_eq_ofNat (a : W64) (n : Nat) : a <<< n = BitVec.ofNat 64 (a.toNat * 2 ^ n) := by
  apply BitVec.eq_of_toNat_eq
  rw [BitVec.toNat_shiftLeft, BitVec.toNat_ofNat, Nat.shiftLeft_eq]

theorem ushiftRight_eq_ofNat (a : W64) (n : Nat) : a >>> n = BitVec.ofNat 64 (a.toNat / 2 ^ n) := by
  apply BitVec.eq_of_toNat_eq
  rw [BitVec.toNat_ushiftRight, BitVec.toNat_ofNat, Nat.shiftRight_eq_div_pow,
    Nat.mod_eq_of_lt (Nat.lt_of_le_of_lt (Nat.div_le_self _ _) a.isLt)]

theorem sshiftRight_eq_ofInt (a : W64) (n : Nat) : a.sshiftRight n = BitVec.ofInt 64 (a.toInt / 2 ^ n) := by
  rw [BitVec.sshiftRight, Int.shiftRight_eq_div_pow]
  norm_cast

theorem sub_eq_ofInt (a b : W64) : a - b = BitVec.ofInt 64 (a.toInt - b.toInt) := by
  apply BitVec.eq_of_toInt_eq
  rw [BitVec.toInt_sub, BitVec.toInt_ofInt]

/-- The sum and the bitwise operations, as numbers. -/
theorem ofNat_add_and_or_xor (a b : W64) : BitVec.ofNat 64 (a.toNat + b.toNat) = a + b ∧ BitVec.ofNat 64 (a.toNat &&& b.toNat) = a &&& b
    ∧ BitVec.ofNat 64 (a.toNat ||| b.toNat) = a ||| b ∧ BitVec.ofNat 64 (a.toNat ^^^ b.toNat) = a ^^^ b
    ∧ BitVec.ofNat 64 (a.toNat * b.toNat) = a * b := by
  refine ⟨?_, ?_, ?_, ?_, ?_⟩ <;> exact BitVec.eq_of_toNat_eq (by simp)

/-- A signed comparison selects as the integers say. -/
theorem ite_slt (a b : W64) {α : Type} (x y : α) : (if a.slt b = true then x else y) = if a.toInt < b.toInt then x else y :=
  if_congr decide_eq_true_iff rfl rfl

theorem ite_ult (a b : W64) {α : Type} (x y : α) : (if a.ult b = true then x else y) = if a.toNat < b.toNat then x else y :=
  if_congr decide_eq_true_iff rfl rfl

/-- Of two words in order, the one that a strict comparison picks when it fails. -/
theorem ite_lt_eq_ite_le {β : Type} [LinearOrder β] (x y : β) (v w : W64) : (if y < x then v else w) = if x ≤ y then w else v := by
  rw [← ite_not]
  exact if_congr not_lt rfl rfl

/-- Settles O8: every operation goes through `scalar_ready`, with its value as the numbers say. -/
theorem scalarResults : Obligations.ScalarResults := by
  intro c f s h k a b n wrote gives
  have result {i : Instr} (op : W64 → W64 → W64) {v : W64} (hi : exec i s = scalar op c f s) (hv : op a b = v) : gives i v :=
    hi.trans (scalar_ready h f hv)
  obtain ⟨hadd, hand, hor, hxor, hmul⟩ := ofNat_add_and_or_xor a b
  refine ⟨result (· + ·) rfl hadd.symm, result (· - ·) rfl (sub_eq_ofInt a b), result (· &&& ·) rfl hand.symm,
    result (· ||| ·) rfl hor.symm, result (· ^^^ ·) rfl hxor.symm, result (fun a b => a <<< (b.toNat % 64)) rfl (shiftLeft_eq_ofNat a n),
    result (fun a b => a >>> (b.toNat % 64)) rfl (ushiftRight_eq_ofNat a n),
    result (fun a b => a.sshiftRight (b.toNat % 64)) rfl (sshiftRight_eq_ofInt a n), result (· * ·) rfl hmul.symm,
    result (fun a b => BitVec.ofNat 64 (a.toNat * b.toNat / 2 ^ 64)) rfl rfl,
    result (fun a b => if b.slt a then b else a) rfl ?_, result (fun a b => if a.slt b then b else a) rfl ?_,
    result (fun a b => if b.ult a then b else a) rfl ?_, result (fun a b => if a.ult b then b else a) rfl ?_,
    result (fun a b => if a.slt b then 1 else 0) rfl (ite_slt a b 1 0), result (fun a b => if a.ult b then 1 else 0) rfl (ite_ult a b 1 0),
    result (fun _ _ => f.imm64) rfl rfl⟩
  · exact (ite_slt b a b a).trans (ite_lt_eq_ite_le _ _ b a)
  · exact (ite_slt a b b a).trans (ite_lt_eq_ite_le _ _ b a)
  · exact (ite_ult b a b a).trans (ite_lt_eq_ite_le _ _ b a)
  · exact (ite_ult a b b a).trans (ite_lt_eq_ite_le _ _ b a)

/-! ### The faults of the sequencer (R124, R144, R145) -/

/-- Settles O9: each of the four ends in a core fault of queue 5 (`exec_issue_faults`). -/
theorem sequencerEnds : Obligations.SequencerEnds := by
  intro c f s hi hw hf hr k
  have hend (hpc : (s.core c).pc = 16383) : s.advance c = s.coreFault c 7 5 16383 0 := by
    unfold State.advance
    rw [if_neg (by omega), hpc]
  refine ⟨fun hpc => exec_issue_faults hi hw hf hr rfl (hend hpc), fun hpc hcond himm hab => exec_issue_faults hi hw hf hr rfl ?_,
    fun hcall => exec_issue_faults hi hw hf hr rfl (if_pos hcall), fun hret => exec_issue_faults hi hw hf hr rfl ?_⟩
  · have hb : branchCond f.cond.toNat ((s.core c).s f.sa.toNat) (ctrlB f (s.core c)) = some false := by
      rw [hcond, ctrlB, himm, show (s.core c).s f.sa.toNat = (s.core c).s f.sb.toNat from hab]
      simp [branchCond]
    rw [hb]
    exact hend hpc
  · rw [show (s.core c).rstack = [] from hret]

/-- Settles O12: whatever its parity, a misaligned access is the core fault of `seqLoad_misaligned` and `seqStore_misaligned`. -/
theorem sequencerMisaligned : Obligations.SequencerMisaligned := by
  intro c s h hf hr k off stops
  have fault {i : Instr} {f : State → State} (hi : exec i s = ret (issue c s f)) (hx : f s = s.coreFault c 2 5 k.pc 0) : stops i :=
    exec_issue_faults h.issuing h.word hf hr hi hx
  exact ⟨fun f p ho => ⟨fault rfl (seqLoad_misaligned ho), fault rfl (seqStore_misaligned ho)⟩,
    fun f p ho => ⟨fault rfl (seqLoad_misaligned ho), fault rfl (seqStore_misaligned ho)⟩,
    fun f p ho => ⟨fault rfl (seqLoad_misaligned ho), fault rfl (seqStore_misaligned ho)⟩⟩

/-! ### Waits (R129, R130, R142) -/

section
variable {c : Nat} {s : State} (h : s.Ready c) {f : CtrlF}
include h

theorem exec_swait_zero (h0 : f.count = 0) : exec (.swait c f) s = .next (s.setCore c (s.core c).next) := by
  refine congrArg ret ((issue_ready h _).trans ?_)
  rw [if_pos h0, State.advance_room h.room]

theorem exec_swait_takes (h0 : f.count ≠ 0) (ht : (s.core c).mayTake (s.core c).issueSeq [(f.sem.toNat, f.count.toNat)] = true) :
    exec (.swait c f) s = .next (s.setCore c ((s.core c).take [(f.sem.toNat, f.count.toNat)]).next) := by
  refine congrArg ret ((issue_ready h _).trans ?_)
  rw [if_neg h0, if_pos ht]
  exact State.modCore_advance _ h.room

theorem exec_swait_waits (h0 : f.count ≠ 0) (ht : (s.core c).mayTake (s.core c).issueSeq [(f.sem.toNat, f.count.toNat)] = false) :
    exec (.swait c f) s
      = .next (s.setCore c { (s.core c).next with swait := some ⟨(s.core c).issueSeq, f.sem.toNat, f.count.toNat⟩ }) := by
  refine congrArg ret ((issue_ready h _).trans ?_)
  rw [if_neg h0, ht, if_neg (by decide)]
  exact State.modCore_advance _ h.room

theorem exec_qstat_reads (hq : f.cond.toNat ≤ 4) : exec (.qstat c f) s = .next
    ((s.setReg (rCore c (0x80 + 8 * f.cond.toNat)) 0).setCore c
      ((s.core c).setS f.sa.toNat (s.reg (rCore c (0x80 + 8 * f.cond.toNat)))).next) := by
  refine congrArg ret ((issue_ready h _).trans ?_)
  rw [if_neg (by omega)]
  exact State.modCore_advance _ ((Core.setS_pc _ _ _).symm ▸ h.room)

end

/-- Settles O14: a wait completes at once, takes, or holds; QSTAT writes its register as a scalar instruction does. -/
theorem sequencerWaits : Obligations.SequencerWaits := by
  intro c f s h k n took
  refine ⟨exec_swait_zero h, exec_swait_takes h, exec_swait_waits h, fun hq => ?_⟩
  rw [exec_qstat_reads h hq, Core.next_setS]

@[simp] theorem Core.setQueue_pc (k : Core) (q : Queue) (l : List QEntry) : (k.setQueue q l).pc = k.pc := by
  cases q <;> rfl

@[simp] theorem Core.setQueue_issueSeq (k : Core) (q : Queue) (l : List QEntry) : (k.setQueue q l).issueSeq = k.issueSeq := by
  cases q <;> rfl

/-- Settles O15: a wait that may take its count ends, and a held instruction with room enters its queue and the sequencer goes on. -/
theorem waitSatisfied : Obligations.WaitSatisfied := by
  intro c s hp k
  refine ⟨fun w hw ht => ?_, fun q e hq hroom hpc => ?_⟩
  · show ret (if s.pwrFail then s else _) = _
    rw [hp, if_neg (by decide), show (s.core c).swait = some w from hw]
    exact congrArg ret (if_pos ht)
  · show ret (if s.pwrFail then s else _) = _
    rw [hp, if_neg (by decide), show (s.core c).heldIns = some (q, e) from hq]
    refine congrArg ret ((if_pos hroom).trans ?_)
    rw [State.modCore_advance _ (by simpa using hpc)]
    simp only [Core.next, Core.at, Core.setQueue_pc, Core.setQueue_issueSeq]
    rfl

end Sys2Proof.Machine
end

section
/-! The issue of queue instructions: what enters a queue, and what is refused (O18, O19, O20). -/

namespace Sys2Proof.Machine

/-! ### Refusals at issue (R144, R145, R156, R187) -/

section
variable {c : Nat} {s : State} {ins : QIns} {ill : Bool} {bad : QEntry → Bool}

/-- An illegal field is a core fault of the sequencer, before any descriptor is looked at. -/
theorem issueQ_illegal {i : Instr} (h : s.Ready c) (hf : (s.core c).fault = none) (hr : (s.core c).run = .running)
    (hi : exec i s = ret (issueQ c ins ill bad s)) (hill : ill = true) : ∃ t, exec i s = .next t ∧ Faults s t c 1 5 (s.core c).pc 0 :=
  exec_issue_faults h.issuing h.word hf hr hi (if_pos hill)

/-- A descriptor in error is a core fault of the instruction's queue. -/
theorem issueQ_bad {i : Instr} (h : s.Ready c) (hf : (s.core c).fault = none) (hr : (s.core c).run = .running)
    (hi : exec i s = ret (issueQ c ins ill bad s)) (hill : ill = false) (hbad : bad (s.entryOf c ins) = true) :
    ∃ t, exec i s = .next t ∧ Faults s t c 2 (queueNum ins.queue) (s.core c).pc 0 :=
  exec_issue_faults h.issuing h.word hf hr hi ((if_neg (Bool.eq_false_iff.1 hill)).trans (if_pos hbad))

/-- An instruction that no check refuses enters its queue. -/
theorem issueQ_queues {i : Instr} (h : s.Takes c ins) (hi : exec i s = ret (issueQ c ins ill bad s)) (hill : ill = false)
    (hbad : bad (s.entryOf c ins) = false) : Queues i s c ins :=
  hi.trans (congrArg ret (issueQ_takes h hill hbad))

end

/-! ### Vector register instructions (R176, R177, R179) -/

theorem vxIllegal_of_lanes {op : VxOp} {f : VxF} {td : TD} (h : f.rmode = 3 ∨ 512 < f.lanes.toNat) : vxIllegal op f td = true := by
  unfold vxIllegal
  rcases h with h | h <;> simp [h]

/-- With lanes and rounding mode in range, an operation's own limit on fmt decides. -/
theorem vxIllegal_eq_false {op : VxOp} {f : VxF} {td : TD} {own : Bool} (hl : f.lanes.toNat ≤ 512) (hr : f.rmode ≠ 3)
    (hop : vxIllegal op f td = (decide (512 < f.lanes.toNat) || f.rmode.toNat == 3 || own)) (hown : own = false) :
    vxIllegal op f td = false := by
  have h3 : f.rmode.toNat ≠ 3 := fun h => hr (BitVec.eq_of_toNat_eq h)
  rw [hop, hown]
  simp [h3, hl]

/-- Only VLD and VST name a descriptor. -/
theorem vxBad_eq_false {op : VxOp} (f : VxF) (e : QEntry) (h : (op == .vld || op == .vst) = false) : vxBad op f e = false := by
  unfold vxBad
  dsimp only
  rw [h, Bool.false_and]

/-- Settles O18: of an operation without a descriptor only fmt is left to check, by `resultFmt` where the result is binary32, else by its
being 0. -/
theorem vectorIssues : Obligations.VectorIssues := by
  intro c f s
  refine ⟨fun hl hr => ⟨fun hfmt p hp ht => ?_, fun hfmt p hp ht => ?_⟩, fun p hp ht hill hbad => ?_⟩
  · have hres : (!resultFmt f.fmt.toNat) = false := by
      rcases hfmt with h | h <;> simp [resultFmt, h]
    fin_cases hp <;> exact issueQ_queues ht rfl (vxIllegal_eq_false hl hr rfl hres) (vxBad_eq_false f _ rfl)
  · have hzero : (f.fmt.toNat != 0) = false := by rw [hfmt]; rfl
    fin_cases hp <;> exact issueQ_queues ht rfl (vxIllegal_eq_false hl hr rfl hzero) (vxBad_eq_false f _ rfl)
  · fin_cases hp <;> exact issueQ_queues ht rfl hill hbad

/-! ### The other classes -/

/-- Settles O19: each instruction issues by its class's checks (`issueQ_queues`). -/
theorem queueIssues : Obligations.QueueIssues := by
  intro c s
  refine ⟨fun f p hp ht hill hbad => ?_, fun f b a p hp ht hill hbad => ?_, fun f p hp ht => ?_,
    fun f => ⟨fun ht => issueQ_queues ht rfl rfl rfl, fun ht => issueQ_queues ht rfl rfl rfl⟩, fun f p hp ht hill hbad => ?_,
    fun f hlen hmul p hp ht => ?_, fun f hlen p hp ht hfadd => ?_, fun f hn hfirst => ?_, fun f hp ht => ?_,
    fun f ht => issueQ_queues ht rfl rfl rfl⟩
  · fin_cases hp <;> exact issueQ_queues ht rfl hill hbad
  · fin_cases hp <;> exact issueQ_queues ht rfl hill hbad
  · fin_cases hp <;> exact issueQ_queues ht rfl rfl rfl
  · fin_cases hp <;> exact issueQ_queues ht rfl hill hbad
  · have hill : (decide (4096 < f.len.toNat) || f.len.toNat % 8 != 0) = false := by simp [hlen, hmul]
    fin_cases hp <;> exact issueQ_queues ht rfl hill rfl
  · have hill (op : RsbOp) (h : op = .fadd → f.w = false) : (f.len != 0 || (op == .fadd && f.w)) = false := by
      by_cases hop : op = .fadd
      · simp [hlen, h hop]
      · simp [hlen, hop]
    fin_cases hp <;> exact issueQ_queues ht rfl (hill _ hfadd) rfl
  · have hregs : regsBad f = false := by simp [regsBad, hn, hfirst]
    refine ⟨fun ht => issueQ_queues ht rfl hregs rfl, fun ht => issueQ_queues ht rfl hregs rfl, fun hlen ht => ?_,
      fun ht => issueQ_queues ht rfl hregs rfl⟩
    exact issueQ_queues ht rfl (by rw [hregs]; simp [hlen]) rfl
  · intro e a b ha hb hfmt hmx
    refine issueQ_queues ht rfl (by simpa using hp) ?_
    show (e.tdBad a || e.tdBad b || a.fmt != b.fmt || a.mx != b.mx) = false
    simp [ha, hb, hfmt, hmx]

/-! ### What is refused -/

theorem tdField_eq_none {n : Nat} (h : 11 ≤ n) : tdField n = none := by
  unfold tdField
  split
  case h_11 => rfl
  all_goals omega

theorem branchCond_eq_none {n : Nat} (h : 6 ≤ n) (a b : W64) : branchCond n a b = none := by
  unfold branchCond
  split
  case h_7 => rfl
  all_goals omega

theorem mxIllegal_of_rows {f : MxF} (e : QEntry) (h : 256 < f.m.toNat) : mxIllegal .quad f e = true := by
  unfold mxIllegal
  simp [MxForm.maxM, h]

/-- Settles O20: an illegal field by `issueQ_illegal`, a descriptor in error by `issueQ_bad`, and the three of the sequencer's own classes
by `exec_issue_faults`. -/
theorem issueRefused : Obligations.IssueRefused := by
  intro c s h hf hr k
  refine ⟨fun f hx => issueQ_illegal h hf hr rfl (vxIllegal_of_lanes hx), fun f hill hbad => issueQ_bad h hf hr rfl hill hbad,
    fun f hm => issueQ_illegal h hf hr rfl (mxIllegal_of_rows _ hm), fun f hill hbad => issueQ_bad h hf hr rfl hill hbad,
    fun f ho => issueQ_illegal h hf hr rfl ?_, fun f hlen => issueQ_illegal h hf hr rfl ?_, fun f hlen => issueQ_illegal h hf hr rfl ?_,
    fun f hregs i hi => ?_, fun f hp => issueQ_illegal h hf hr rfl (by simp [hp]), fun f hfield => exec_issue_faults h.issuing h.word hf hr rfl ?_,
    fun f hcond => exec_issue_faults h.issuing h.word hf hr rfl ?_, fun f hcond => exec_issue_faults h.issuing h.word hf hr rfl (if_pos hcond)⟩
  · simpa [colIllegal] using ho
  · simpa using hlen
  · simpa using hlen
  · have hbad : regsBad f = true := by simpa [regsBad] using hregs
    have hmsg : (regsBad f || decide (4096 < f.len.toNat)) = true := by rw [hbad]; rfl
    simp only [List.mem_cons, List.not_mem_nil, or_false] at hi
    rcases hi with rfl | rfl | rfl | rfl
    · exact issueQ_illegal h hf hr rfl hbad
    · exact issueQ_illegal h hf hr rfl hbad
    · exact issueQ_illegal h hf hr rfl hmsg
    · exact issueQ_illegal h hf hr rfl hbad
  · rw [tdField_eq_none hfield]
    dsimp only
    split
    · omega
    · contradiction
    · rfl
  · rw [branchCond_eq_none hcond]
    rfl

end Sys2Proof.Machine
end

section
/-! Starts of vector and sync instructions: what QUEUE_INSTR_START does with them (O21, O22, O23). -/

namespace Sys2Proof

/-- The lowest bits of a word are the word cut short. -/
theorem bits_zero {n : Nat} (w : BitVec n) (len : Nat) : bits w 0 len = w.truncate len := by
  apply BitVec.eq_of_toNat_eq
  rw [bits, BitVec.extractLsb'_toNat, BitVec.truncate_eq_setWidth, BitVec.toNat_setWidth, Nat.shiftRight_zero]

end Sys2Proof

namespace Sys2Proof.Machine

/-! ### A core whose queue head has started -/

@[simp] theorem Core.take_vreg (k : Core) (ws : List (Nat × Nat)) : (k.take ws).vreg = k.vreg := by
  unfold Core.take
  exact List.foldlRecOn (motive := fun z : Core => z.vreg = k.vreg) ws _ rfl fun z hz w _ => hz

@[simp] theorem Core.setQueue_vreg (k : Core) (q : Queue) (l : List QEntry) : (k.setQueue q l).vreg = k.vreg := by
  cases q <;> rfl

@[simp] theorem Core.begun_vreg (k : Core) (e : QEntry) (rest : List QEntry) : (k.begun e rest).vreg = k.vreg := by
  simp [Core.begun]

@[simp] theorem Core.ended_vreg (k : Core) (e : QEntry) (rest : List QEntry) (code : Nat) (fl : NumFlags) :
    (k.ended e rest code fl).vreg = k.vreg := by
  simp [Core.ended]

@[simp] theorem Core.lane_begun (k : Core) (e : QEntry) (rest : List QEntry) (r j : Nat) : (k.begun e rest).lane r j = k.lane r j := by
  simp [Core.lane]

section
variable {c : Nat} {s t : State} {e : QEntry} {rest : List QEntry} {code : Nat} {fl : NumFlags} (h : s.Starts c e rest)
  (hq : e.ins.queue ≠ .mx)
include h hq

/-- A head whose effect is done at once with a change `f` of its own core. -/
theorem start_changes {f : Core → Core} (hf : ∀ k l, f { k with started := l } = { f k with started := l })
    (he : (s.setCore c ((s.core c).begun e rest)).startIns c e = (s.setCore c (f ((s.core c).begun e rest)), some (code, fl))) :
    exec (.queueInstrStart c e.ins.queue none) s = .next (s.setCore c (f ((s.core c).ended e rest code fl))) := by
  rw [start_starts h hq, he]
  exact congrArg _ (State.finish_begun code fl f hf h.only)

/-- A head whose effect is done at once and changes its core no further. -/
theorem start_keeps (he : (s.setCore c ((s.core c).begun e rest)).startIns c e = (t, some (code, fl)))
    (ht : t.core c = (s.core c).begun e rest) :
    exec (.queueInstrStart c e.ins.queue none) s = .next (t.setCore c ((s.core c).ended e rest code fl)) := by
  rw [start_starts h hq, he]
  exact congrArg _ (State.finish_of code fl id (fun _ _ => rfl) h.only ht)

end

/-! ### Vector register operations (R128, R176, R177, R179) -/

theorem startIns_vx {c : Nat} {e : QEntry} {op : VxOp} {f : VxF} (he : e.ins = .vx op f) (s : State) :
    s.startIns c e = ((vxStart c e op f s).1, some (0, (vxStart c e op f s).2)) := by
  unfold State.startIns
  rw [he]

/-- An operation that is no load or store writes its result lanes. -/
theorem vxStart_lanes {op : VxOp} (hl : op ≠ .vld) (hs : op ≠ .vst) (c : Nat) (e : QEntry) (f : VxF) (s : State) :
    vxStart c e op f s = (s.modCore c fun k => k.setLanes f.vd.toNat ((vxResult (s.core c) e op f).map (·.1)),
      orFlags (vxResult (s.core c) e op f)) := by
  unfold vxStart
  split
  · contradiction
  · contradiction
  · rfl

/-- The result of one lane, on the lanes of its operands (or, with bc, the low half of s[vb] at issue). -/
def vxLaneResult (k : Core) (e : QEntry) (op : VxOp) (f : VxF) (j : Nat) : BitVec 32 × NumFlags :=
  let b : BitVec 32 := if f.bc then (e.s f.vb.toNat).truncate 32 else k.lane f.vb.toNat j
  let a : BitVec 32 := if op = .vmov ∧ f.bc = true then b else k.lane f.va.toNat j
  vxLane op f.fmt.toNat ((vxRnd e f).at 0 (e.s f.rowReg.toNat).toNat ((e.s f.colReg.toNat).toNat + j)) f.sat a b (k.lane f.vc.toNat j)

theorem vxResult_eq (k : Core) (e : QEntry) (op : VxOp) (f : VxF) :
    vxResult k e op f = (List.range f.lanes.toNat).map (vxLaneResult k e op f) := by
  unfold vxResult
  refine List.map_congr_left fun j _ => ?_
  unfold vxLaneResult
  dsimp only
  rw [bits_zero]
  by_cases hb : f.bc = true <;> simp [hb]

theorem vxResult_begun (k : Core) (e : QEntry) (rest : List QEntry) (op : VxOp) (f : VxF) :
    vxResult (k.begun e rest) e op f = vxResult k e op f := by
  simp [vxResult]

/-- Writing lanes of a core that has ended its head: its vector registers are those that the head found. -/
theorem Core.setLanes_ended (k : Core) (e : QEntry) (rest : List QEntry) (code : Nat) (fl : NumFlags) (r : Nat) (vs : List (BitVec 32)) :
    (k.ended e rest code fl).setLanes r vs = { k.ended e rest code fl with vreg := (k.setLanes r vs).vreg } := by
  unfold Core.setLanes
  rw [Core.ended_vreg]

/-- A vector instruction done at once that writes lanes of one register and nothing else. -/
theorem start_writes_lanes {c : Nat} {s : State} {e : QEntry} {rest : List QEntry} {op : VxOp} {f : VxF} {vs : List (BitVec 32)} {fl : NumFlags}
    (h : s.Starts c e rest) (he : e.ins = .vx op f)
    (hx : vxStart c e op f (s.setCore c ((s.core c).begun e rest))
      = (s.setCore c (((s.core c).begun e rest).setLanes f.vd.toNat vs), fl)) :
    exec (.queueInstrStart c .vx none) s
      = .next (s.setCore c { (s.core c).ended e rest 0 fl with vreg := ((s.core c).setLanes f.vd.toNat vs).vreg }) := by
  have hq : e.ins.queue = .vx := by rw [he]; rfl
  have hgo := start_changes (f := fun k => k.setLanes f.vd.toNat vs) h (by rw [hq]; decide) (fun _ _ => rfl)
    ((startIns_vx he _).trans (by rw [hx]))
  rw [hq, Core.setLanes_ended] at hgo
  exact hgo

/-- The lanes of a core whose register `r` takes values in its first lanes. -/
theorem Core.lane_written {α : Type} (k : Core) (r n : Nat) (hn : n ≤ 512) (g : Nat → α) (w : α → BitVec 32) {r' j : Nat} (hj : j < 512) :
    ({ k with vreg := (k.setLanes r (((List.range n).map g).map w)).vreg } : Core).lane r' j
      = if r' = r ∧ j < n then w (g j) else k.lane r' j := by
  refine (Core.lane_setLanes k r _ (by simpa using hn) r' j hj).trans ?_
  simp only [List.length_map, List.length_range, List.map_map]
  refine if_ctx_congr Iff.rfl (fun hr => ?_) fun _ => rfl
  simp [List.getD, hr.2]

/-- Settles O21: the lanes by `Core.lane_written`, the integer and logical operations by computation of `vxLane`. -/
theorem vectorResults : Obligations.VectorResults := by
  refine ⟨fun c e rest op f s h he hl hs hlanes => ?_, fun m rm sat a b x => ?_⟩
  · intro k b a row col res
    refine ⟨(k.setLanes f.vd.toNat ((vxResult k e op f).map (·.1))).vreg, orFlags (vxResult k e op f), start_writes_lanes h he ?_,
      fun r j hj => ?_, ?_⟩
    · rw [vxStart_lanes hl hs, State.core_setCore_self, vxResult_begun]
      simp [State.modCore, k]
    · rw [vxResult_eq]
      exact Core.lane_written k _ _ hlanes _ _ hj
    · rw [vxResult_eq]
      rfl
  · intro gives
    refine ⟨rfl, rfl, rfl, rfl, rfl, rfl, rfl, rfl, rfl, rfl, ?_⟩
    exact congrArg (·, NumFlags.none) (ite_not (x = 0) a b)

/-! ### Sync instructions (R133, R139, R140, R181, R182) -/

theorem Core.markDue_started (k : Core) (now : Nat) (l : List Started) :
    ({ k with started := l } : Core).markDue now = { k.markDue now with started := l } := by
  unfold Core.markDue
  rcases hm : k.markHeld with _ | ⟨p, t⟩ <;> simp only [hm]
  split
  · rfl
  · rw [hm]

/-- What a sync instruction does when it starts (R181). -/
def State.sxEffect (s : State) (c : Nat) (e : QEntry) (f : SyncF) : SxOp → State
  | .sig => s
  | .sign => if f.inc = 0 then s else s.signal c f.sem.toNat f.inc.toNat
  | .tmr => s.timerWrite c f.tmr.toNat (e.s f.sa.toNat)
  | .evt => s.pulse (8 * c + 7)

theorem startIns_sx {c : Nat} {e : QEntry} {op : SxOp} {f : SyncF} (he : e.ins = .sx op f) (s : State) :
    s.startIns c e = (s.sxEffect c e f op, some (0, .none)) := by
  unfold State.startIns
  rw [he]
  cases op <;> rfl

theorem startIns_pmark {c : Nat} {e : QEntry} {reg : Bool} {g : PmarkF} (he : e.ins = .pmark reg g) (s : State) :
    s.startIns c e = (s.mark c (if reg then (e.s g.sa.toNat).truncate 8 else g.phase), some (0, .none)) := by
  unfold State.startIns
  rw [he, ← bits_zero]

theorem State.timerWrite_core (s : State) (c n : Nat) (v : W64) (d : Nat) : (s.timerWrite c n v).core d = s.core d := by
  have hcores := congrArg State.cores (State.timerWrite_frame s c n v).1
  exact congrArg (Tab.get Core.reset d) hcores

/-- Settles O22: SIGN and the marks change their core (`start_changes`), the others leave it as it started (`start_keeps`). That SIGN and
TMR act at the start, and when a mark is delivered, is log 82. -/
theorem syncResults : Obligations.SyncResults := by
  intro c e rest f g s h k d go v
  have hsx {q : QIns} (he : e.ins = q) (hq : q.queue = .sx) : e.ins.queue = .sx := (congrArg QIns.queue he).trans hq
  have keeps (hq : e.ins.queue = .sx) {t : State} (hi : (s.setCore c (k.begun e rest)).startIns c e = (t, some (0, .none)))
      (ht : t.core c = k.begun e rest) : go = .next (t.setCore c d) := by
    have hgo := start_keeps h (by rw [hq]; decide) hi ht
    rw [hq] at hgo
    exact hgo
  have changes (hq : e.ins.queue = .sx) (f : Core → Core) (hf : ∀ k l, f { k with started := l } = { f k with started := l })
      (hi : (s.setCore c (k.begun e rest)).startIns c e = (s.setCore c (f (k.begun e rest)), some (0, .none))) : go = .next (s.setCore c (f d)) := by
    have hgo := start_changes (f := f) h (by rw [hq]; decide) hf hi
    rw [hq] at hgo
    exact hgo
  have marks (reg : Bool) (he : e.ins = .pmark reg g) : go = .next (s.setCore c { d.markDue s.hclk with
      markHeld := some (if reg then (e.s g.sa.toNat).truncate 8 else g.phase, s.hclk) }) := by
    refine changes (hsx he rfl) (fun k => { k.markDue s.hclk with markHeld := some (_, s.hclk) }) (fun k l => ?_) ((startIns_pmark he _).trans ?_)
    · rw [Core.markDue_started]
    · simp only [State.mark, State.modCore, State.core_setCore_self, State.setCore_setCore]
      rfl
  refine ⟨fun he => ?_, fun he hroom => ?_, fun he => ?_, fun he => ?_, marks false, marks true⟩
  · exact changes (hsx he rfl) id (fun _ _ => rfl) (startIns_sx he _)
  · by_cases h0 : f.inc = 0
    · rw [if_pos h0]
      exact changes (hsx he rfl) id (fun _ _ => rfl) ((startIns_sx he _).trans (by rw [State.sxEffect, if_pos h0]; rfl))
    · rw [if_neg h0]
      refine changes (hsx he rfl) (fun k => k.setSem _ _) (fun _ _ => rfl) ((startIns_sx he _).trans ?_)
      rw [State.sxEffect, if_neg h0, State.signal_plain _ _ _ _ (by rw [State.core_setCore_self]; exact hroom),
        State.core_setCore_self, State.setCore_setCore]
      rfl
  · let t := (s.setCore c (k.begun e rest)).timerWrite c f.tmr.toNat v
    have hcore : t.core c = k.begun e rest := (State.timerWrite_core _ _ _ _ _).trans (State.core_setCore_self _ _ _)
    obtain ⟨hrest, hregs⟩ := State.timerWrite_frame (s.setCore c (k.begun e rest)) c f.tmr.toNat v
    refine ⟨_, keeps (hsx he rfl) (startIns_sx he _) hcore, ?_, hregs, State.timerWrite_field _ _ _ _ (by decide),
      State.timerWrite_field _ _ _ _ (by decide), State.timerWrite_field _ _ _ _ (by decide), State.timerWrite_count _ _ _ _⟩
    exact (congrArg (State.setCore · c d) hrest).trans (State.setCore_setCore _ _ _ _)
  · exact keeps (hsx he rfl) (startIns_sx he _) (((State.pulse_raised (Raised.refl _) _).core c).trans (State.core_setCore_self _ _ _))

/-! ### Loads and stores of a vector register (R135, R161, R177) -/

/-- The row that VLD and VST name. -/
def vxRow (e : QEntry) (f : VxF) : Nat := (e.td f.td.toNat).row + (e.s f.rowReg.toNat).toNat

section
variable {s : State} {c : Nat} {e : QEntry} {f : VxF}

/-- A lane whose element lies in the core's own store, with its scale: what it takes, and no violation. -/
theorem loadLane_inside {j : Nat} (hraw : (s.elemAt c (e.td f.td.toNat) (vxRow e f) (vxCol e f + j)).2 = [])
    (hval : (s.elemVal c (e.td f.td.toNat) (e.scaleOf (e.td f.td.toNat)) false (vxRow e f) (vxCol e f + j)).2 = []) :
    let t := e.td f.td.toNat
    let x := s.elemVal c t (e.scaleOf t) false (vxRow e f) (vxCol e f + j)
    (loadLane s c e f j).2.2 = [] ∧ (loadLane s c e f j).1 = BitVec.ofNat 32
      (if t.format = .int32 ∨ t.format = .uint32 then (s.elemAt c t (vxRow e f) (vxCol e f + j)).1
        else if t.mx = true ∨ t.format = .long then
          (encodeElem .fp32 ((vxRnd e f).at 0 (vxRow e f) (vxCol e f + j)) f.sat x.1).1
        else (encodeElem .fp32 .rne false x.1).1) := by
  intro t x
  unfold loadLane
  dsimp only
  split
  · exact ⟨hraw, rfl⟩
  · refine ⟨hval, ?_⟩
    split <;> rfl

theorem loadLane_setCore (k : Core) : loadLane (s.setCore c k) c e f = loadLane s c e f := rfl

/-- A load of elements that all lie in the core's own store changes vector register vd alone. -/
theorem vxStart_load {n : Nat} (hn : f.lanes.toNat = n)
    (hin : ∀ j < n, (loadLane s c e f j).2.2 = []) :
    vxStart c e .vld f s = (s.modCore c fun k => k.setLanes f.vd.toNat (((List.range n).map (loadLane s c e f)).map (·.1)),
      ((List.range n).map (loadLane s c e f)).foldl (fun a l => a.or l.2.1) .none) := by
  have hnone : ((List.range n).map (loadLane s c e f)).flatMap (·.2.2) = [] := by
    simpa [List.flatMap_eq_nil_iff] using hin
  unfold vxStart
  dsimp only
  rw [hn, hnone]
  rfl

/-- A store to a plain descriptor writes one row of raw elements. -/
theorem vxStart_store (hmx : (e.td f.td.toNat).mx = false) : ∃ fl, vxStart c e .vst f s
    = (s.putRow c (e.td f.td.toNat) (vxRow e f) (vxCol e f) ((List.range f.lanes.toNat).map fun j =>
        if (e.td f.td.toNat).format = .int32 ∨ (e.td f.td.toNat).format = .uint32 then ((s.core c).lane f.va.toNat j).toNat
        else (encodeElem (e.td f.td.toNat).format ((vxRnd e f).at 0 (vxRow e f) (vxCol e f + j)) f.sat
          (decodeElem .fp32 false ((s.core c).lane f.va.toNat j).toNat)).1), fl) := by
  by_cases h0 : f.lanes = 0
  · refine ⟨.none, (if_pos h0 : vxStart c e .vst f s = (s, .none)).trans ?_⟩
    rw [h0]
    rfl
  · rw [show vxStart c e .vst f s = storeLanes s c e f from if_neg h0]
    unfold storeLanes
    dsimp only
    split
    · next hw => exact ⟨_, by rw [List.map_map]; rfl⟩
    · next hw =>
      unfold State.writeRow
      simp only [List.map_map]
      rw [encodeRow_plain hmx, hmx]
      exact ⟨_, rfl⟩

theorem State.core_putElem (s : State) (c : Nat) (t : TD) (r col raw d : Nat) : (s.putElem c t r col raw).core d = s.core d := by
  unfold State.putElem
  dsimp only
  split
  · exact State.core_poke _ _ _ _
  · exact State.coreViol_core _ _ _ _

theorem State.core_putRow (s : State) (c : Nat) (t : TD) (r c0 : Nat) (raws : List Nat) (d : Nat) :
    (s.putRow c t r c0 raws).core d = s.core d :=
  List.foldlRecOn (motive := fun z : State => z.core d = s.core d) _ _ rfl fun z hz _ _ => (State.core_putElem z _ _ _ _ _ _).trans hz

end

/-- Settles O23: VLD writes the lanes of `loadLane_inside`, VST the row of `vxStart_store`. The rounding of MX elements is log 59. -/
theorem vectorMemory : Obligations.VectorMemory := by
  intro c e rest f s h hlanes k t r col whole mode
  refine ⟨fun he hin => ?_, fun he hmx => ?_⟩
  · have hlane (j : Nat) (hj : j < f.lanes.toNat) := loadLane_inside (hin j hj).1 (hin j hj).2
    have hload := vxStart_load (s := s.setCore c (k.begun e rest)) (c := c) rfl fun j hj => (hlane j hj).1
    simp only [loadLane_setCore, State.modCore, State.core_setCore_self, State.setCore_setCore] at hload
    refine ⟨_, _, start_writes_lanes h he hload, fun n j hj => ?_⟩
    refine (Core.lane_written k _ _ hlanes (loadLane s c e f) (·.1) hj).trans ?_
    refine if_ctx_congr Iff.rfl (fun hn => (hlane j hn.2).2) fun _ => rfl
  · obtain ⟨fl, hst⟩ := vxStart_store (s := s.setCore c (k.begun e rest)) (c := c) hmx
    have hq : e.ins.queue = .vx := by rw [he]; rfl
    have hgo := start_keeps h (by rw [hq]; decide) ((startIns_vx he _).trans (by rw [hst]))
      ((State.core_putRow _ _ _ _ _ _ _).trans (State.core_setCore_self _ _ _))
    rw [hq] at hgo
    simp only [State.core_setCore_self, Core.lane_begun] at hgo
    exact ⟨fl, hgo⟩

end Sys2Proof.Machine
end

section
/-! Completion, faults, and the commands of a core (O24, O25, O32). -/

namespace Sys2Proof.Machine

/-! ### INSTR_COMPLETE (R132, R133, R141 to R143) -/

/-- Nothing of its own queue that completes in order is before it. -/
theorem Core.mustWait_eq_false {k : Core} {r : Started}
    (h : ∀ x ∈ k.started, (r.entry.ins.queue = .vx ∨ r.entry.ins.queue = .sx) → x.entry.ins.queue = r.entry.ins.queue →
      r.entry.seq ≤ x.entry.seq) :
    k.mustWait r = false := by
  unfold Core.mustWait
  dsimp only
  by_cases hq : r.entry.ins.queue = .vx ∨ r.entry.ins.queue = .sx
  · refine Bool.and_eq_false_imp.2 fun _ => List.any_eq_false.2 fun x hx => ?_
    simpa using h x hx hq
  · obtain ⟨hv, hs⟩ := not_or.1 hq
    simp [hv, hs]

theorem exec_instrComplete_done {s : State} {c : Nat} {r : Started}
    (hr : (s.core c).started.find? (fun x => x.entry.seq == r.entry.seq) = some r) (hfin : r.finished = true)
    (hw : (s.core c).mustWait r = false) : exec (.instrComplete c r.entry.seq) s
      = .next (((s.setCore c { s.core c with started := (s.core c).started.filter fun x => x.entry.seq != r.entry.seq }).recordStatus c
          r.entry.ins.queue r.code r.entry.pc r.flags).signals c r.entry.ins.sync) := by
  show execInstrComplete c r.entry.seq s = _
  unfold execInstrComplete
  simp only [hr, hfin, hw]
  rfl

/-- Settles O24: a finished instruction leaves, and the rest is the record and the signals of a completion (`State.recordStatus_signals`). -/
theorem instrCompletes : Obligations.InstrCompletes := by
  intro c r s k q y qs nf counts hr hfin hfirst hsem
  obtain ⟨t, u, ht, hspec⟩ := State.recordStatus_signals s c
    { k with started := k.started.filter fun x => x.entry.seq != r.entry.seq } q r.code r.entry.pc r.flags y hsem
  exact ⟨t, u, (exec_instrComplete_done hr hfin (Core.mustWait_eq_false hfirst)).trans (congrArg _ ht), hspec⟩

/-! ### CORE_FAULTED (R144, R146, R454) -/

/-- CORE_FAULT of a fault (R144). -/
def FaultRec.word (r : FaultRec) : W64 :=
  BitVec.ofNat 64 (r.cause <<< 56 + (r.queue % 8) <<< 48 + (r.pc % 2 ^ 14) <<< 32 + r.detail % 2 ^ 32)

/-- The fields of CORE_FAULT hold the fault. -/
theorem FaultRec.word_fields {r : FaultRec} (hc : r.cause < 256) (hq : r.queue < 8) (hp : r.pc < 2 ^ 14) (hd : r.detail < 2 ^ 32) :
    fld r.word 56 8 = r.cause ∧ fld r.word 48 3 = r.queue ∧ fld r.word 32 14 = r.pc ∧ fld r.word 0 32 = r.detail := by
  unfold FaultRec.word
  simp only [Nat.shiftLeft_eq]
  refine ⟨?_, ?_, ?_, ?_⟩ <;> rw [fld_ofNat _ _ _ (by omega)] <;> omega

/-- The record of a fault joins the backlog: of class 1, it is never dropped (R452). -/
theorem State.journalPut_record (s : State) (kind uclass unit : Nat) (d : Bytes) :
    s.journalPut kind 1 uclass unit d
      = { s with backlog := s.backlog ++ [⟨0, s.rf (rBoot 0x10) 0 32, s.time, unit, uclass, 1, kind, d⟩] } :=
  if_neg fun h => absurd h.1 (by decide)

theorem exec_coreFaulted_drained {s : State} {c : Nat} {r : FaultRec} (hf : (s.core c).fault = some r) (hr : (s.core c).run = .stopping)
    (hb : (s.core c).anyBusy = false) :
    let t := (s.setReg (rCore c 0x18) r.word).modCore c fun k => { k with fault := none }
    exec (.coreFaulted c) s = .next ((t.setRun c .faulted).journalPut 0x10 1 2 c (toBytes 8 r.word.toNat)) := by
  intro t
  have hd : faultDetail t c = toBytes 8 r.word.toNat := congrArg (fun w : W64 => toBytes 8 w.toNat) (State.reg_setReg_self s _ _)
  rw [← hd]
  show execCoreFaulted c s = _
  unfold execCoreFaulted
  simp only [hf, hr, hb]
  rfl

/-- A core that changes and enters a run state, and what the two level events show (R148). -/
theorem State.modCore_setRun (s : State) (c : Nat) (f : Core → Core) (r : RunState) :
    Raised (s.setCore c { f (s.core c) with run := r }) ((s.modCore c f).setRun c r) := by
  have h := State.setRun_raised (s.modCore c f) c r
  rw [State.modCore_modCore] at h
  exact h

theorem Raised.backlog {s t : State} (h : Raised s t) : t.backlog = s.backlog := by
  have hb := congrArg State.backlog h.rest
  exact hb

/-- Records that join the backlog of a part that events show in. -/
theorem Raised.forget_backlog {s t : State} (h : Raised s t) (l : List JRec) :
    Raised s { { t with backlog := l } with backlog := s.backlog } :=
  ⟨h.regs, congrArg (fun z : State => { z with backlog := s.backlog }) h.rest⟩

/-- Settles O25: the fields of CORE_FAULT by `FaultRec.word_fields`; the boot count and the time of the record are those before, for
neither register is one that events show in. -/
theorem coreFaults : Obligations.CoreFaults := by
  intro c r s hf hr hb hcause hqueue hpc hdetail _
  have hgo := exec_coreFaulted_drained hf hr hb
  have hraised := State.modCore_setRun (s.setReg (rCore c 0x18) r.word) c (fun k => { k with fault := none }) .faulted
  dsimp only at hgo
  rw [State.journalPut_record] at hgo
  generalize ((s.setReg (rCore c 0x18) r.word).modCore c fun k => { k with fault := none }).setRun c .faulted = v at hgo hraised
  have hreg (o : Nat) (he : ¬ eventReg o) (ho : o ≠ rCore c 0x18) : v.reg o = s.reg o :=
    (hraised.regs o he).trans (State.reg_setReg_ne s _ ho)
  have hboot : v.rf (rBoot 0x10) 0 32 = s.rf (rBoot 0x10) 0 32 :=
    State.rf_of_reg (hreg _ (by simp [eventReg, rBoot]) (by unfold rBoot rCore; omega)) 0 32
  have htime : v.time = s.time := hreg (rCrn 8) (by simp [eventReg, rCrn]) (by unfold rCrn rCore; omega)
  obtain ⟨h1, h2, h3, h4⟩ := FaultRec.word_fields hcause hqueue hpc hdetail
  refine ⟨_, r.word, hgo, hraised.forget_backlog _, h1, h2, h3, h4, ?_⟩
  show v.backlog ++ _ = _
  rw [hraised.backlog, hboot, htime]
  rfl

/-! ### The commands of CORE_CTRL (R148 to R151) -/

section
variable {c : Nat} {s : State} (hc : c < 64) (hk : s.hasCore c = true) (hd : hasNat s.deadDies (c / 16) = false)
include hc hk hd

theorem exec_start_stopped (hr : (s.core c).run = .stopped) (hl : (s.core c).load = none) (hm : s.powerMode ≠ 3) :
    exec (.start c) s = .next ((s.modCore c fun k => { k with pc := s.rf (rCore c 0x10) 0 14, stopCause := .none }).setRun c .running) := by
  refine (atCore_live hc hk hd fun s => s.coreStart c).trans (congrArg _ (if_pos ?_))
  simp [hr, hl, hm]

theorem exec_start_rejected (h : (s.core c).run ≠ .stopped ∨ (s.core c).load ≠ none ∨ s.powerMode = 3) :
    exec (.start c) s = .next (s.setRbit (rCore c 8) 25 true) := by
  refine (atCore_live hc hk hd fun s => s.coreStart c).trans (congrArg _ (if_neg ?_))
  simp only [Bool.and_eq_true, beq_iff_eq, bne_iff_ne, Option.isNone_iff_eq_none]
  tauto

theorem exec_stop_running (hr : (s.core c).run = .running) :
    exec (.stop c) s = .next ((s.modCore c fun k => { k with stopCause := .stop }).setRun c .stopping) :=
  (atCore_live hc hk hd fun s => s.coreStop c).trans (congrArg _ (if_pos (by simp [hr])))

theorem exec_abort_active (hr : (s.core c).run = .running ∨ (s.core c).run = .stopping) :
    exec (.abort c) s = .next ((s.modCore c fun k => { k.discard with
      stopCause := if (s.core c).fault = none then .abort else (s.core c).stopCause }).setRun c .stopping) := by
  refine (atCore_live hc hk hd fun s => s.coreAbort c).trans (congrArg _ ((if_pos (by simpa using hr)).trans ?_))
  cases hf : (s.core c).fault <;> simp only [State.modCore, hf] <;> rfl

theorem exec_reset_begins (hr : (s.core c).run ≠ .resetting) :
    exec (.reset c) s = .next ((s.modCore c fun k => { k.discard with fault := none, ledgerHeld := none }).setRun c .resetting) :=
  (atCore_live hc hk hd fun s => s.coreReset c).trans (congrArg _ (if_neg (by simpa using hr)))

end

theorem exec_coreStopped_drained {c : Nat} {s : State} (hr : (s.core c).run = .stopping) (hf : (s.core c).fault = none)
    (hb : (s.core c).anyBusy = false) (hh : (s.core c).heldIns = none) (hw : (s.core c).swait = none) :
    exec (.coreStopped c) s = .next (((if (s.core c).stopCause = .halt ∨ (s.core c).stopCause = .stop
      then s.setReg (rCore c 0x10) (BitVec.ofNat 64 (s.core c).pc) else s).modCore c
        fun k => { k with phase := 0, markHeld := none }).setRun c .stopped) := by
  show execCoreStopped c s = _
  unfold execCoreStopped
  simp only [hr, hf, hb, hh, hw, Bool.or_eq_true, beq_iff_eq]
  rfl

/-- Settles O32: each command changes its core and enters a run state (`State.modCore_setRun`). That a start in Midnight is rejected is the
model's reading of R389. -/
theorem coreCommands : Obligations.CoreCommands := by
  intro c s hc hk hd k goes
  refine ⟨fun hr hl hm => ⟨_, exec_start_stopped hc hk hd hr hl hm,
      State.modCore_setRun s c (fun k => { k with pc := s.rf (rCore c 0x10) 0 14, stopCause := .none }) _⟩,
    exec_start_rejected hc hk hd,
    fun hr => ⟨_, exec_stop_running hc hk hd hr, State.modCore_setRun s c (fun k => { k with stopCause := .stop }) _⟩, fun hr => ?_,
    fun hr => ⟨_, exec_reset_begins hc hk hd hr,
      State.modCore_setRun s c (fun k => { k.discard with fault := none, ledgerHeld := none }) _⟩, fun hr hf hb hh hw => ?_⟩
  · exact ⟨_, exec_abort_active hc hk hd hr,
      State.modCore_setRun s c (fun k => { k.discard with stopCause := if (s.core c).fault = none then .abort else (s.core c).stopCause }) _⟩
  · refine ⟨_, exec_coreStopped_drained hr hf hb hh hw, ?_⟩
    have h := State.modCore_setRun (if k.stopCause = .halt ∨ k.stopCause = .stop then s.setReg (rCore c 0x10) (BitVec.ofNat 64 k.pc) else s) c
      (fun k => { k with phase := 0, markHeld := none }) .stopped
    have hcore : (if k.stopCause = .halt ∨ k.stopCause = .stop then s.setReg (rCore c 0x10) (BitVec.ofNat 64 k.pc) else s).core c = k := by
      split <;> rfl
    rw [hcore] at h
    exact h

end Sys2Proof.Machine
end

section
/-! Program loading: go, its refusals, and the copy (O34). -/

namespace Sys2Proof.Machine

/-! ### Blocks of a source (R126, R215) -/

/-- A block of a range, and one that the range holds whole. -/
theorem blocksOf_bounds {a n : Nat} {b : Nat × Nat} (hb : b ∈ blocksOf a n) :
    a / 4096 ≤ b.1 ∧ 4096 * b.1 < a + n ∧ (b.2 = 4096 → a ≤ 4096 * b.1 ∧ 4096 * b.1 + 4096 ≤ a + n) := by
  unfold blocksOf at hb
  split at hb
  · exact absurd hb List.not_mem_nil
  · obtain ⟨i, hi, rfl⟩ := List.mem_map.1 hb
    have hi := List.mem_range.1 hi
    simp only [Nat.min, Nat.max]
    omega

/-- A block that source `who` reads as whole: not poisoned, and unsealed, or sealed with the right check word and not being read again. -/
structure State.BlockHolds (s : State) (who k : Nat) (whole : Prop) : Prop where
  clean  : s.poisoned (4096 * k) = false
  sealed : whole → s.chkOf k = 0 ∨ (s.chkOf k = sealOf (s.read (4096 * k) 4096) ∧ (who, k) ∉ s.rechecks)

/-- A sealed block that passes its first check changes nothing (R215). -/
theorem State.verifyBlock_passes {s : State} {who k st o : Nat} (hr : region (4096 * k) = .hbm st o) (hp : s.poisoned (4096 * k) = false)
    (h0 : s.chkOf k ≠ 0) (hs : s.chkOf k = sealOf (s.read (4096 * k) 4096)) (ha : (who, k) ∉ s.rechecks) :
    s.verifyBlock who (4096 * k) = (s, some true) := by
  have hk : 4096 * k / 4096 = k := Nat.mul_div_cancel_left k (by decide)
  have hne (p : Nat × Nat) (hp : p ∈ s.rechecks) : (p.1 == who && p.2 == k) = false := by
    refine Bool.eq_false_iff.2 fun h => ha ?_
    obtain ⟨h1, h2⟩ := Bool.and_eq_true_iff.1 h
    rwa [← eq_of_beq h1, ← eq_of_beq h2]
  have hread : s.rereads who k = false := List.any_eq_false.2 fun p hp => Bool.eq_false_iff.1 (hne p hp)
  have hdrop : s.dropRecheck who k = s := by
    have hall : s.rechecks.filter (fun p => !(p.1 == who && p.2 == k)) = s.rechecks :=
      List.filter_eq_self.2 fun p hp => by rw [hne p hp]; rfl
    unfold State.dropRecheck
    rw [hall]
  unfold State.verifyBlock
  simp only [hr, hk, hread, hdrop, hp, h0, ← hs]
  rfl

/-- A source of which every HBM block holds passes its check, and nothing changes. -/
theorem State.loadCheck_holds {s : State} {c : Nat} {bs : List (Nat × Nat)}
    (h : ∀ b ∈ bs, ∀ st o, region (4096 * b.1) = .hbm st o → s.BlockHolds (288 + c) b.1 (b.2 = 4096)) :
    s.loadCheck c bs = (s, some none) := by
  induction bs with
  | nil => rfl
  | cons b bs ih =>
    have hrest := ih fun b' hb' => h b' (List.mem_cons_of_mem _ hb')
    unfold State.loadCheck
    dsimp only
    cases hr : region (4096 * b.1) with
    | store _ _ => exact hrest
    | regs _ => exact hrest
    | hole => exact hrest
    | hbm st o =>
      obtain ⟨hclean, hsealed⟩ := h b List.mem_cons_self st o hr
      simp only [hclean, Bool.false_or, Bool.true_and, Bool.and_eq_true, beq_iff_eq, bne_iff_ne]
      split
      · next hcheck =>
        obtain ⟨hs, ha⟩ := (hsealed hcheck.1).resolve_left hcheck.2
        rw [State.verifyBlock_passes hr hclean hcheck.2 hs ha]
        exact hrest
      · exact hrest

/-! ### Program words -/

/-- Words written from an index on: each takes its place with good parity, and the other words stand. -/
theorem Core.foldl_putProg (i : Nat) (ws : List (BitVec 128)) : ∀ (n : Nat) (k : Core),
    ∃ p b, (ws.zipIdx n).foldl (fun k w => { k with prog := Tab.put 0 (i + w.2) w.1 k.prog, badProg := k.badProg.filter (· != i + w.2) }) k
        = { k with prog := p, badProg := b }
      ∧ ∀ j, Tab.get 0 j p = (if i + n ≤ j ∧ j < i + n + ws.length then ws.getD (j - (i + n)) 0 else Tab.get 0 j k.prog)
        ∧ (j ∈ b ↔ j ∈ k.badProg ∧ ¬ (i + n ≤ j ∧ j < i + n + ws.length)) := by
  induction ws with
  | nil =>
    refine fun n k => ⟨k.prog, k.badProg, rfl, fun j => ⟨?_, ?_⟩⟩
    · rw [if_neg (by simp)]
    · simp
  | cons w ws ih =>
    intro n k
    obtain ⟨p, b, hk, hj⟩ := ih (n + 1) { k with prog := Tab.put 0 (i + n) w k.prog, badProg := k.badProg.filter (· != i + n) }
    refine ⟨p, b, hk, fun j => ⟨?_, ?_⟩⟩
    · rw [(hj j).1, Tab.get_put, List.length_cons]
      by_cases hn : j = i + n
      · rw [if_neg (by omega), if_pos hn, if_pos (by omega), hn, Nat.sub_self]
        rfl
      · rw [if_neg hn]
        refine if_ctx_congr (by omega) (fun hr => ?_) fun _ => rfl
        rw [show j - (i + n) = j - (i + (n + 1)) + 1 by omega]
        rfl
    · rw [(hj j).2, List.length_cons, List.mem_filter, bne_iff_ne, and_assoc]
      exact and_congr_right fun _ => by omega

/-- A core whose program words from an index on are written. -/
theorem Core.putProg_spec (k : Core) (i : Nat) (ws : List (BitVec 128)) : ∃ p b, k.putProg i ws = { k with prog := p, badProg := b }
    ∧ (∀ j < ws.length, Tab.get 0 (i + j) p = ws.getD j 0 ∧ i + j ∉ b)
    ∧ ∀ j, ¬ (i ≤ j ∧ j < i + ws.length) → Tab.get 0 j p = Tab.get 0 j k.prog ∧ (j ∈ b ↔ j ∈ k.badProg) := by
  obtain ⟨p, b, hk, hj⟩ := Core.foldl_putProg i ws 0 k
  refine ⟨p, b, hk, fun j hlt => ⟨?_, fun hb => ?_⟩, fun j hn => ⟨?_, ?_⟩⟩
  · rw [(hj (i + j)).1, if_pos (by omega)]
    congr 1
    omega
  · exact ((hj (i + j)).2.1 hb).2 (by omega)
  · rw [(hj j).1, if_neg (by omega)]
  · rw [(hj j).2]
    exact and_iff_left (by omega)

/-! ### The end of a load (R126) -/

/-- CORE_PROG_LOAD when a load ends: its status, done, not busy. -/
def loadEndWord (w : W64) (status : Nat) : W64 := setBit (setBit (setFld w 32 4 status) 61 true) 62 false

theorem State.loadEnd_eq (s : State) (c status : Nat) : s.loadEnd c status
    = ((s.setReg (progLoad c) (loadEndWord (s.reg (progLoad c)) status)).setCore c { s.core c with load := none }).pulse (8 * c + 2) := by
  have hregs : ((s.setRf (progLoad c) 32 4 status).setRbit (progLoad c) 61 true).setRbit (progLoad c) 62 false
      = s.setReg (progLoad c) (loadEndWord (s.reg (progLoad c)) status) := by
    simp only [State.setRf, State.setRbit, State.setReg_setReg, State.reg_setReg_self]
    rfl
  unfold State.loadEnd
  rw [hregs]
  rfl

theorem loadEndWord_fields (w : W64) {status : Nat} (h : status < 16) :
    fld (loadEndWord w status) 32 4 = status ∧ bit (loadEndWord w status) 61 = true ∧ bit (loadEndWord w status) 62 = false := by
  unfold loadEndWord
  refine ⟨?_, ?_, bit_setBit _ _ _ (by decide)⟩
  · rw [fld_setBit_ne _ _ _ _ _ (by omega), fld_setBit_ne _ _ _ _ _ (by omega), fld_setFld _ _ _ _ (by omega)]
    exact Nat.mod_eq_of_lt h
  · rw [bit_setBit_ne _ _ _ _ (by decide), bit_setBit _ _ _ (by decide)]

/-- The pulse that ends a load leaves CORE_PROG_LOAD (R126). -/
theorem State.reg_progLoad_pulse (s : State) (c n : Nat) : (s.pulse n).reg (progLoad c) = s.reg (progLoad c) :=
  State.pulse_reg s n _ (by unfold eventReg progLoad rCore; omega)

/-- What the end of a load shows. -/
theorem State.loadEnd_shows (s : State) (c : Nat) {status : Nat} (h : status < 16) : (s.loadEnd c status).rf (progLoad c) 32 4 = status
    ∧ (s.loadEnd c status).rbit (progLoad c) 61 = true ∧ (s.loadEnd c status).rbit (progLoad c) 62 = false := by
  have hreg : (s.loadEnd c status).reg (progLoad c) = loadEndWord (s.reg (progLoad c)) status := by
    rw [State.loadEnd_eq, State.reg_progLoad_pulse]
    exact State.reg_setReg_self _ _ _
  unfold State.rf State.rbit
  rw [hreg]
  exact loadEndWord_fields _ h

/-! ### go (R126) -/

theorem exec_progLoadGo {c : Nat} {s : State} (hc : c < 64) (hk : s.hasCore c = true) (hd : hasNat s.deadDies (c / 16) = false) (v : W64) :
    ∃ u, exec (.progLoadGo c v) s = .next ((s.setReg (progLoad c) u).loadGo c) ∧ fld u 16 15 = fld v 16 15 ∧ fld u 0 14 = fld v 0 14 := by
  let w := setBit v 63 true
  let m := mergeMask 0x7FFF3FFF (s.reg (progLoad c)) w
  have hexec : exec (.progLoadGo c v) s = .next (s.progLoadWrite c w) := atCore_live hc hk hd fun s => s.progLoadWrite c (setBit v 63 true)
  have hgo : bit w 63 = true := bit_setBit _ _ _ (by decide)
  have hlen : fld m 16 15 = fld v 16 15 := (fld_mergeMask _ _ _ _ _ (by decide)).trans (fld_setBit_ne _ _ _ _ _ (by omega))
  have hdest : fld m 0 14 = fld v 0 14 := (fld_mergeMask _ _ _ _ _ (by decide)).trans (fld_setBit_ne _ _ _ _ _ (by omega))
  rw [hexec]
  unfold State.progLoadWrite
  dsimp only
  rw [if_pos hgo]
  by_cases hdone : bit w 61 = true
  · refine ⟨setBit m 61 false, ?_, (fld_setBit_ne _ _ _ _ _ (by omega)).trans hlen, (fld_setBit_ne _ _ _ _ _ (by omega)).trans hdest⟩
    rw [if_pos hdone, State.rwReg, State.setRbit, State.setReg_setReg, State.reg_setReg_self]
  · exact ⟨m, by rw [if_neg hdone]; rfl, hlen, hdest⟩

/-! ### The copy (R126) -/

/-- A load from sources that hold copies every word, and ends with status 0. -/
theorem exec_progLoadDone_holds {c : Nat} {s : State} {l : Load} (hl : (s.core c).load = some l)
    (hcheck : s.loadCheck c (blocksOf l.src (16 * l.length)) = (s, some none))
    (hpop : ∀ b ∈ blocksOf l.src (16 * l.length), s.populated (4096 * b.1) = true) :
    exec (.progLoadDone c none) s = .next (((s.dropRechecks (288 + c)).modCore c fun k => k.putProg l.dest
      ((List.range l.length).map fun i => BitVec.ofNat 128 (s.readN (l.src + 16 * i) 16))).loadEnd c 0) := by
  have hholes : ((blocksOf l.src (16 * l.length)).filter fun b => !(s.dropRechecks (288 + c)).populated (4096 * b.1)) = [] := by
    refine List.filter_eq_nil_iff.2 fun b hb => ?_
    rw [show (s.dropRechecks (288 + c)).populated (4096 * b.1) = true from hpop b hb]
    decide
  show execProgLoadDone c none s = _
  unfold execProgLoadDone
  simp only [hl, hcheck, hholes, Nat.sub_self, List.range_zero, List.map_nil, List.append_nil]
  rfl

/-- What go does, with CORE_PROG_SRC as it was and the length and range just written. -/
theorem State.loadGo_written (s : State) (c : Nat) (u : W64) : (s.setReg (progLoad c) u).loadGo c
    = if (s.core c).load.isSome then (s.setReg (progLoad c) u).coreReject c
      else if (s.core c).run ≠ .stopped ∧ (s.core c).run ≠ .faulted then (s.setReg (progLoad c) u).loadEnd c 2
      else if fld u 16 15 = 0 then (s.setReg (progLoad c) u).loadEnd c 1
      else if 16384 < fld u 0 14 + fld u 16 15 ∨ 2 ^ 43 ≤ (s.reg (rCore c 0x40)).toNat then (s.setReg (progLoad c) u).loadEnd c 3
      else if (s.reg (rCore c 0x40)).toNat % 64 ≠ 0 then (s.setReg (progLoad c) u).loadEnd c 4
      else (s.setReg (progLoad c) (setBit u 62 true)).setCore c
        { s.core c with load := some ⟨(s.reg (rCore c 0x40)).toNat, fld u 16 15, fld u 0 14⟩ } := by
  have hsrc : (s.setReg (progLoad c) u).reg (rCore c 0x40) = s.reg (rCore c 0x40) :=
    State.reg_setReg_ne s u (by unfold progLoad rCore; omega)
  have hfld (lo n : Nat) : (s.setReg (progLoad c) u).rf (progLoad c) lo n = fld u lo n := by
    rw [State.rf, State.reg_setReg_self]
  have htake (k' : Core) : ((s.setReg (progLoad c) u).setCore c k').setRbit (progLoad c) 62 true
      = (s.setReg (progLoad c) (setBit u 62 true)).setCore c k' := by
    have hreg : ((s.setReg (progLoad c) u).setCore c k').reg (progLoad c) = u := State.reg_setReg_self s _ _
    rw [State.setRbit, hreg]
    exact congrArg (State.setCore · c k') (State.setReg_setReg s _ _ _)
  unfold State.loadGo
  dsimp only
  rw [hsrc, hfld, hfld, State.modCore, htake]
  simp only [Bool.and_eq_true, Bool.or_eq_true, bne_iff_ne, decide_eq_true_eq]
  rfl

/-- Settles O34: go by `exec_progLoadGo` and the branches of `State.loadGo_written`, the copy by `exec_progLoadDone_holds`, and its words
by `Core.putProg_spec`. -/
theorem programLoads : Obligations.ProgramLoads := by
  intro c v s hc hk hd k src len dest pl takes ends
  have ended {i : Instr} {t : State} {status : Nat} {k' : Core} {r : List (Nat × Nat)} (hi : exec i s = .next (t.loadEnd c status))
      (hs : status < 16) (ht : ∀ u, (t.setReg pl u).setCore c { t.core c with load := none } = takes u k' r) : ends i status k' r :=
    ⟨_, hi, ⟨_, (State.loadEnd_eq t c status).trans (congrArg (State.pulse · _) (ht _))⟩, State.loadEnd_shows t c hs⟩
  obtain ⟨u, hgo, hlen, hdest⟩ := exec_progLoadGo hc hk hd v
  rw [State.loadGo_written, hlen, hdest] at hgo
  have refused {status : Nat} (hi : exec (.progLoadGo c v) s = .next ((s.setReg (progLoad c) u).loadEnd c status)) (hs : status < 16) :
      ends (.progLoadGo c v) status { k with load := none } s.rechecks :=
    ended hi hs fun w => congrArg (State.setCore · c { k with load := none }) (State.setReg_setReg s pl u w)
  have hload (h : k.load = none) : ¬ k.load.isSome = true := by rw [h]; decide
  have hrun (h : k.run = .stopped ∨ k.run = .faulted) : ¬ (k.run ≠ .stopped ∧ k.run ≠ .faulted) := by tauto
  have hrange (h1 : dest + len ≤ 16384) (h2 : src < 2 ^ 43) : ¬ (16384 < dest + len ∨ 2 ^ 43 ≤ src) := by omega
  refine ⟨fun hl hr h0 hfit hsrc hal => ⟨setBit u 62 true, hgo.trans (congrArg _ ?_), bit_setBit _ _ _ (by decide)⟩,
    fun hl hs hf => refused (status := 2) (hgo.trans (congrArg _ ?_)) (by decide),
    fun hl hr h0 => refused (status := 1) (hgo.trans (congrArg _ ?_)) (by decide),
    fun hl hr h0 hbad => refused (status := 3) (hgo.trans (congrArg _ ?_)) (by decide),
    fun hl hr h0 hfit hsrc hal => refused (status := 4) (hgo.trans (congrArg _ ?_)) (by decide),
    fun hl => ⟨u, hgo.trans (congrArg _ ?_)⟩, fun l hl hblocks => ?_⟩
  · rw [if_neg (hload hl), if_neg (hrun hr), if_neg (Nat.ne_of_gt h0), if_neg (hrange hfit hsrc), if_neg (not_not.2 hal)]
    rfl
  · rw [if_neg (hload hl), if_pos ⟨hs, hf⟩]
  · rw [if_neg (hload hl), if_neg (hrun hr), if_pos h0]
  · rw [if_neg (hload hl), if_neg (hrun hr), if_neg (Nat.ne_of_gt h0), if_pos hbad]
  · rw [if_neg (hload hl), if_neg (hrun hr), if_neg (Nat.ne_of_gt h0), if_neg (hrange hfit hsrc), if_pos hal]
  · rw [if_pos (Option.isSome_iff_ne_none.2 hl)]
    rfl
  · have hcheck : s.loadCheck c (blocksOf l.src (16 * l.length)) = (s, some none) := State.loadCheck_holds fun b hb st o hr => by
      obtain ⟨hlo, hhi, hwhole⟩ := blocksOf_bounds hb
      obtain ⟨hclean, hsealed⟩ := (hblocks b.1 hlo hhi).2 st o hr
      exact ⟨hclean, fun hw => hsealed (hwhole hw).1 (hwhole hw).2⟩
    have hdone := exec_progLoadDone_holds hl hcheck fun b hb => (hblocks b.1 (blocksOf_bounds hb).1 (blocksOf_bounds hb).2.1).1
    obtain ⟨p, b, hput, hin, hout⟩ := Core.putProg_spec k l.dest
      ((List.range l.length).map fun i => BitVec.ofNat 128 (s.readN (l.src + 16 * i) 16))
    rw [List.length_map, List.length_range] at hin hout
    refine ⟨p, b, ended hdone (by decide) fun w => ?_, fun i hi => ⟨(hin i hi).1.trans ?_, (hin i hi).2⟩, hout⟩
    · simp only [State.modCore]
      rw [show (s.dropRechecks (288 + c)).core c = k from rfl, hput, State.core_setCore_self]
      exact State.setCore_setCore ((s.dropRechecks (288 + c)).setReg pl w) c _ _
    · simp [List.getD, hi]

end Sys2Proof.Machine
end

section
/-! Instruction words: every layout gives its fields back, and the words spelled by hand (O3, O5). -/

namespace Sys2Proof.Machine

/-! ### Fields placed into a word -/

/-- Fields (low bit, length, value) that lie in the word, apart from each other. -/
abbrev FieldsApart (l : List (Nat × Nat × Nat)) : Prop :=
  (∀ p ∈ l, p.1 + p.2.1 ≤ 128) ∧ l.Pairwise fun p q => p.1 + p.2.1 ≤ q.1 ∨ q.1 + q.2.1 ≤ p.1

/-- A word in which each of the fields stands at its value, modulo 2 to its length. -/
def HasFields (w : BitVec 128) (l : List (Nat × Nat × Nat)) : Prop := ∀ p ∈ l, fld w p.1 p.2.1 = p.2.2 % 2 ^ p.2.1

/-- Setting fields leaves a field alone that lies apart from them all. -/
theorem fld_foldl_setFld_ne {lo len : Nat} {l : List (Nat × Nat × Nat)} :
    ∀ w : BitVec 128, (∀ q ∈ l, lo + len ≤ q.1 ∨ q.1 + q.2.1 ≤ lo) →
      fld (l.foldl (fun w q => setFld w q.1 q.2.1 q.2.2) w) lo len = fld w lo len := by
  induction l with
  | nil => exact fun w _ => rfl
  | cons q l ih =>
    intro w h
    obtain ⟨hq, hl⟩ := List.forall_mem_cons.1 h
    rw [List.foldl_cons, ih _ hl, fld_setFld_ne _ _ _ _ _ _ hq.symm]

theorem hasFields_foldl_setFld {l : List (Nat × Nat × Nat)} :
    ∀ w : BitVec 128, FieldsApart l → HasFields (l.foldl (fun w q => setFld w q.1 q.2.1 q.2.2) w) l := by
  induction l with
  | nil => exact fun w _ => List.forall_mem_nil _
  | cons p l ih =>
    rintro w ⟨hin, hapart⟩
    obtain ⟨hp, hl⟩ := List.forall_mem_cons.1 hin
    obtain ⟨hpl, hll⟩ := List.pairwise_cons.1 hapart
    refine List.forall_mem_cons.2 ⟨?_, ih _ ⟨hl, hll⟩⟩
    rw [List.foldl_cons, fld_foldl_setFld_ne _ hpl, fld_setFld _ _ _ _ hp]

/-- A word made of fields that lie apart gives each of them back. -/
theorem hasFields_place {l : List (Nat × Nat × Nat)} (h : FieldsApart l) : HasFields (place l) l := hasFields_foldl_setFld 0 h

theorem fld_eq_toNat {lo len : Nat} {w : BitVec 128} {x : BitVec len} : fld w lo len = x.toNat % 2 ^ len ↔ bits w lo len = x := by
  rw [Nat.mod_eq_of_lt x.isLt, ← bits_toNat, BitVec.toNat_inj]

theorem fld_eq_boolToNat {i : Nat} {w : BitVec 128} {b : Bool} : fld w i 1 = b.toNat % 2 ^ 1 ↔ bit w i = b := by
  have h : fld w i 1 < 2 := fld_lt w i 1
  rw [bit_eq_fld]
  cases b with
  | false => simp; omega
  | true => simp

/-! ### Layouts -/

/-- A layout of an instruction's fields below its class and code, and its reading: the fields lie apart, and the reading of a word that
has them is the instruction's fields. -/
structure Layout {F : Type} (fields : F → List (Nat × Nat × Nat)) (dec : BitVec 128 → F) : Prop where
  apart : ∀ cls op f, FieldsApart (head cls op ++ fields f)
  reads : ∀ f w, HasFields w (fields f) → dec w = f

/-- What a word spells under a class and an operation code (R153): `decodeCore` with the two read apart. -/
def decodeAs (c cls op : Nat) (w : BitVec 128) : Option Instr :=
  match cls with
  | 0 => decClass0 c op w
  | 1 => decClass1 c op w
  | 2 => decClass2 c op w
  | 3 => decClass3 c op w
  | 4 => decClass4 c op w
  | 5 => decClass5 c op w
  | 6 => decClass6 c op w
  | 7 => decClass7 c op w
  | 8 => decClass8 c op w
  | 9 => decClass9 c op w
  | 10 => decClassA c op w
  | 11 => decClassB c op w
  | 12 => decClassC c op w
  | _ => none

theorem decodeCore_eq (c : Nat) (w : BitVec 128) : decodeCore c w = decodeAs c (fld w 124 4) (fld w 118 6) w := rfl

/-- A kind of instruction whose word is laid out so, under a class and code that spell it, decodes back. -/
theorem Layout.back {F : Type} {fields : F → List (Nat × Nat × Nat)} {dec : BitVec 128 → F} (hl : Layout fields dec)
    {k : Nat → F → Instr} {cls op : Nat} (henc : ∀ c f, encodeCore (k c f) = some (place (head cls op ++ fields f)))
    (hdec : ∀ c w, decodeAs c (cls % 2 ^ 4) (op % 2 ^ 6) w = some (k c (dec w))) : Back k := by
  intro c f
  obtain ⟨hhead, hfields⟩ := List.forall_mem_append.1 (hasFields_place (hl.apart cls op f))
  have hcls : fld _ 124 4 = cls % 2 ^ 4 := hhead _ (.head _)
  have hop : fld _ 118 6 = op % 2 ^ 6 := hhead _ (.tail _ (.head _))
  refine ⟨_, henc c f, ?_⟩
  rw [decodeCore_eq, hcls, hop, hdec, hl.reads f _ hfields]

theorem decSync_eq {y : Sync} {w : BitVec 128} (h : HasFields w y.fields) : decSync w = y := by
  simp only [HasFields, Sync.fields, List.forall_mem_cons, fld_eq_toNat] at h
  simp only [decSync, h]

/-! Every layout of R168 to R185: that its fields lie apart rests on their places alone, and its reading takes them one by one. -/

theorem ctrlLayout : Layout CtrlF.fields decCtrlF := by
  refine ⟨fun _ _ _ => of_decide_eq_true rfl, fun f w h => ?_⟩
  simp only [HasFields, CtrlF.fields, List.forall_mem_cons, fld_eq_toNat, fld_eq_boolToNat] at h
  simp only [decCtrlF, h]

theorem scalLayout : Layout ScalF.fields decScalF := by
  refine ⟨fun _ _ _ => of_decide_eq_true rfl, fun f w h => ?_⟩
  simp only [HasFields, ScalF.fields, List.forall_mem_cons, fld_eq_toNat, fld_eq_boolToNat] at h
  simp only [decScalF, h]

theorem descLayout : Layout DescF.fields decDescF := by
  refine ⟨fun _ _ _ => of_decide_eq_true rfl, fun f w h => ?_⟩
  simp only [HasFields, DescF.fields, List.forall_mem_cons, fld_eq_toNat, fld_eq_boolToNat] at h
  simp only [decDescF, h]

theorem chainLayout : Layout ChainF.fields decChainF := by
  refine ⟨fun _ _ _ => of_decide_eq_true rfl, fun f w h => ?_⟩
  simp only [HasFields, ChainF.fields, List.forall_mem_cons, fld_eq_toNat, fld_eq_boolToNat] at h
  simp only [decChainF, h]

theorem dmaTdLayout : Layout DmaTdF.fields decDmaTdF := by
  refine ⟨fun _ _ _ => of_decide_eq_true rfl, fun f w h => ?_⟩
  obtain ⟨h, hsync⟩ := List.forall_mem_append.1 h
  simp only [List.forall_mem_cons, fld_eq_toNat] at h
  simp only [decDmaTdF, h, decSync_eq hsync]

theorem dmaListLayout : Layout DmaListF.fields decDmaListF := by
  refine ⟨fun _ _ _ => of_decide_eq_true rfl, fun f w h => ?_⟩
  obtain ⟨h, hsync⟩ := List.forall_mem_append.1 h
  simp only [List.forall_mem_cons, fld_eq_toNat] at h
  simp only [decDmaListF, h, decSync_eq hsync]

theorem mxLayout : Layout MxF.fields decMxF := by
  refine ⟨fun _ _ _ => of_decide_eq_true rfl, fun f w h => ?_⟩
  obtain ⟨h, hsync⟩ := List.forall_mem_append.1 h
  simp only [List.forall_mem_cons, fld_eq_toNat, fld_eq_boolToNat] at h
  simp only [decMxF, h, decSync_eq hsync]

theorem vxLayout : Layout VxF.fields decVxF := by
  refine ⟨fun _ _ _ => of_decide_eq_true rfl, fun f w h => ?_⟩
  obtain ⟨h, hsync⟩ := List.forall_mem_append.1 h
  simp only [List.forall_mem_cons, fld_eq_toNat, fld_eq_boolToNat] at h
  simp only [decVxF, h, decSync_eq hsync]

theorem vtLayout : Layout VtF.fields decVtF := by
  refine ⟨fun _ _ _ => of_decide_eq_true rfl, fun f w h => ?_⟩
  obtain ⟨h, hsync⟩ := List.forall_mem_append.1 h
  simp only [List.forall_mem_cons, fld_eq_toNat, fld_eq_boolToNat] at h
  simp only [decVtF, h, decSync_eq hsync]

theorem syncLayout : Layout SyncF.fields decSyncF := by
  refine ⟨fun _ _ _ => of_decide_eq_true rfl, fun f w h => ?_⟩
  obtain ⟨h, hsync⟩ := List.forall_mem_append.1 h
  simp only [List.forall_mem_cons, fld_eq_toNat] at h
  simp only [decSyncF, h, decSync_eq hsync]

theorem pmarkLayout : Layout PmarkF.fields decPmarkF := by
  refine ⟨fun _ _ _ => of_decide_eq_true rfl, fun f w h => ?_⟩
  obtain ⟨h, hsync⟩ := List.forall_mem_append.1 h
  simp only [List.forall_mem_cons, fld_eq_toNat] at h
  simp only [decPmarkF, h, decSync_eq hsync]

theorem colLayout : Layout ColF.fields decColF := by
  refine ⟨fun _ _ _ => of_decide_eq_true rfl, fun f w h => ?_⟩
  obtain ⟨h, hsync⟩ := List.forall_mem_append.1 h
  simp only [List.forall_mem_cons, fld_eq_toNat] at h
  simp only [decColF, h, decSync_eq hsync]

theorem rsbLayout : Layout RsbF.fields decRsbF := by
  refine ⟨fun _ _ _ => of_decide_eq_true rfl, fun f w h => ?_⟩
  obtain ⟨h, hsync⟩ := List.forall_mem_append.1 h
  simp only [List.forall_mem_cons, fld_eq_toNat, fld_eq_boolToNat] at h
  simp only [decRsbF, h, decSync_eq hsync]

theorem msgLayout : Layout MsgF.fields decMsgF := by
  refine ⟨fun _ _ _ => of_decide_eq_true rfl, fun f w h => ?_⟩
  obtain ⟨h, hsync⟩ := List.forall_mem_append.1 h
  simp only [List.forall_mem_cons, fld_eq_toNat] at h
  simp only [decMsgF, h, decSync_eq hsync]

/-! ### Every instruction -/

/-- Settles O5: each kind goes through `Layout.back` with the layout of its class, under the class and code that `encodeCore` gives it; for
the matrix class the code holds the array or pair, so the kinds are taken for each of them. -/
theorem roundTrip : Obligations.RoundTrip := by
  refine ⟨?_, ?_, ?_, ?_, ?_, ?_, ?_, ?_, ?_, ?_, ?_, ?_, ?_, ?_⟩
  · repeat refine List.forall_mem_cons.2 ⟨ctrlLayout.back (fun _ _ => rfl) (fun _ _ => rfl), ?_⟩
    exact List.forall_mem_nil _
  · repeat refine List.forall_mem_cons.2 ⟨scalLayout.back (fun _ _ => rfl) (fun _ _ => rfl), ?_⟩
    exact List.forall_mem_nil _
  · repeat refine List.forall_mem_cons.2 ⟨descLayout.back (fun _ _ => rfl) (fun _ _ => rfl), ?_⟩
    exact List.forall_mem_nil _
  · repeat refine List.forall_mem_cons.2 ⟨chainLayout.back (fun _ _ => rfl) (fun _ _ => rfl), ?_⟩
    exact List.forall_mem_nil _
  · repeat refine List.forall_mem_cons.2 ⟨dmaTdLayout.back (fun _ _ => rfl) (fun _ _ => rfl), ?_⟩
    exact List.forall_mem_nil _
  · repeat refine List.forall_mem_cons.2 ⟨dmaListLayout.back (fun _ _ => rfl) (fun _ _ => rfl), ?_⟩
    exact List.forall_mem_nil _
  · repeat refine List.forall_mem_cons.2 ⟨vxLayout.back (fun _ _ => rfl) (fun _ _ => rfl), ?_⟩
    exact List.forall_mem_nil _
  · repeat refine List.forall_mem_cons.2 ⟨vtLayout.back (fun _ _ => rfl) (fun _ _ => rfl), ?_⟩
    exact List.forall_mem_nil _
  · repeat refine List.forall_mem_cons.2 ⟨syncLayout.back (fun _ _ => rfl) (fun _ _ => rfl), ?_⟩
    exact List.forall_mem_nil _
  · repeat refine List.forall_mem_cons.2 ⟨pmarkLayout.back (fun _ _ => rfl) (fun _ _ => rfl), ?_⟩
    exact List.forall_mem_nil _
  · repeat refine List.forall_mem_cons.2 ⟨colLayout.back (fun _ _ => rfl) (fun _ _ => rfl), ?_⟩
    exact List.forall_mem_nil _
  · repeat refine List.forall_mem_cons.2 ⟨rsbLayout.back (fun _ _ => rfl) (fun _ _ => rfl), ?_⟩
    exact List.forall_mem_nil _
  · repeat refine List.forall_mem_cons.2 ⟨msgLayout.back (fun _ _ => rfl) (fun _ _ => rfl), ?_⟩
    exact List.forall_mem_nil _
  · intro b a
    have ha : a = 0 ∨ a = 1 ∨ a = 2 ∨ a = 3 := by bv_omega
    cases b <;> rcases ha with rfl | rfl | rfl | rfl
    all_goals
      repeat refine List.forall_mem_cons.2 ⟨mxLayout.back (fun _ _ => rfl) (fun _ _ => rfl), ?_⟩
      exact List.forall_mem_nil _

/-- Settles O3: the words are read by evaluating their fields, and no class from 0xD on has a table. -/
theorem decodeWords : Obligations.DecodeWords := by
  intro c
  refine ⟨rfl, rfl, rfl, rfl, rfl, rfl, rfl, rfl, rfl, rfl, rfl, rfl, rfl, rfl, rfl, fun w h => ?_⟩
  have hlt : fld w 124 4 < 16 := fld_lt w 124 4
  obtain hcls | hcls | hcls : fld w 124 4 = 13 ∨ fld w 124 4 = 14 ∨ fld w 124 4 = 15 := by omega
  all_goals
    rw [decodeCore_eq, hcls]
    rfl

end Sys2Proof.Machine
end

section
/-! The sequencer: loads and stores of the core store, descriptor and chain sets, HALT and words that spell nothing
(O10, O11, O13, O16, O17). -/

namespace Sys2Proof.Machine

/-! ### Descriptor registers -/

theorem Core.next_setTd (k : Core) (n : Nat) (v : BitVec 512) : (k.setTd n v).next = { k.next with td := Tab.put 0 n v k.td } := rfl

theorem Core.next_setCd (k : Core) (n : Nat) (v : BitVec 1024) : (k.setCd n v).next = { k.next with cd := Tab.put 0 n v k.cd } := rfl

/-! ### Loads and stores inside the core store (R170-R172) -/

section
variable {c align off : Nat} {s : State} (h : s.Ready c) (halign : off % align = 0)
include h halign

/-- A load that changes the core in fields other than its program counter. -/
theorem seqLoad_ready {n : Nat} (hroom : off + n ≤ 0x1800000) {f : Bytes → Core → Core}
    (hf : ∀ bs, (f bs (s.core c)).pc = (s.core c).pc) :
    seqLoad c align n off none f s = s.setCore c (f (s.read (storeAddr c off) n) (s.core c)).next := by
  rw [seqLoad_inside halign hroom, State.modCore_advance _ ((hf _).symm ▸ h.room)]

theorem seqStore_ready {d : Bytes} (hroom : off + d.length ≤ 0x1800000) :
    Stored (s.setCore c (s.core c).next) (seqStore c align off d s) (storeAddr c off) d := by
  rw [seqStore_inside halign hroom, State.advance_room (by rw [State.core_poke]; exact h.room), State.core_poke, State.poke_setCore]
  exact State.poke_stored _ _ _

end

/-- An instruction that issues at a core that is ready leaves the state that its effect names. -/
theorem ret_issue_ready {c : Nat} {s t : State} (h : s.Ready c) {f : State → State} (hf : f s = t) : ret (issue c s f) = .next t :=
  congrArg ret ((issue_ready h f).trans hf)

/-- Settles O10: each load is `seqLoad_ready`, LD with a register write that s0 ignores (`Core.next_setS`). -/
theorem sequencerLoads : Obligations.SequencerLoads := by
  intro c s h k off at'
  have loads {i : Instr} {sa : BitVec 5} {im : BitVec 32} {align n : Nat} {g : Nat → Core → Core} {k' : Core}
      (hi : exec i s = ret (issue c s fun s => seqLoad c align n (seqOffset (s.core c) sa im) none (fun bs => g (ofBytes bs)) s))
      (hpc : ∀ v, (g v k).pc = k.pc) (hk : (g (at' (off sa im) n) k).next = k') (ha : off sa im % align = 0)
      (hr : off sa im + n ≤ 0x1800000) : exec i s = .next (s.setCore c k') :=
    hi.trans (ret_issue_ready h ((seqLoad_ready h ha hr fun _ => hpc _).trans (congrArg (s.setCore c) hk)))
  exact ⟨fun f => loads (g := fun v k => k.setS f.sd.toNat (BitVec.ofNat 64 v)) rfl (fun _ => Core.setS_pc _ _ _) (Core.next_setS _ _ _),
    fun f => loads (g := fun v k => k.setTd f.td.toNat (BitVec.ofNat 512 v)) rfl (fun _ => rfl) (Core.next_setTd _ _ _),
    fun f => loads (g := fun v k => k.setCd f.cd.toNat (BitVec.ofNat 1024 v)) rfl (fun _ => rfl) (Core.next_setCd _ _ _)⟩

/-- Settles O11: each store is `seqStore_ready`, with as many bytes as the register or the descriptor has. -/
theorem sequencerStores : Obligations.SequencerStores := by
  intro c s h k u off
  have stores {i : Instr} {sa : BitVec 5} {im : BitVec 32} {align n : Nat} {v : Core → Nat}
      (hi : exec i s = ret (issue c s fun s => seqStore c align (seqOffset (s.core c) sa im) (toBytes n (v (s.core c))) s))
      (ha : off sa im % align = 0) (hr : off sa im + n ≤ 0x1800000) :
      ∃ t, exec i s = .next t ∧ Stored u t (storeAddr c (off sa im)) (toBytes n (v k)) :=
    ⟨_, hi.trans (ret_issue_ready h rfl), seqStore_ready h ha (by rwa [toBytes_length])⟩
  exact ⟨fun f => stores (v := fun k => (k.s f.sd.toNat).toNat) rfl, fun f => stores (v := fun k => (Tab.get 0 f.td.toNat k.td).toNat) rfl,
    fun f => stores (v := fun k => (Tab.get 0 f.cd.toNat k.cd).toNat) rfl⟩

/-! ### HALT, and words that spell no instruction (R150, R157) -/

theorem exec_halt_ready {c : Nat} {s : State} (h : s.Ready c) (f : CtrlF) :
    ∃ t, exec (.halt c f) s = .next t ∧
      Raised (s.setCore c { (s.core c).at (((s.core c).pc + 1) % 16384) with stopCause := .halt, run := .stopping }) t := by
  refine ⟨_, ret_issue_ready h rfl, ?_⟩
  have hrun := State.setRun_raised
    (s.modCore c fun k => { k with pc := (k.pc + 1) % 16384, issueSeq := k.issueSeq + 1, stopCause := .halt }) c .stopping
  rwa [State.modCore, State.modCore, State.core_setCore_self, State.setCore_setCore] at hrun

/-- Settles O13: HALT enters STOPPING (`exec_halt_ready`), and a word that spells nothing faults (`exec_issue_faults`). -/
theorem sequencerStops : Obligations.SequencerStops := by
  intro c f w s h hf hr k
  refine ⟨exec_halt_ready h f, fun hw => exec_issue_faults h.issuing h.word hf hr rfl ?_⟩
  rw [hw]
  rfl

/-! ### Tensor descriptors (R159, R171) -/

/-- A tensor descriptor with the field of a code that TDSET and TDADD select at a value (R171). -/
def TD.setField (t : TD) (code v : Nat) : TD :=
  match code with
  | 0 => { t with base := v }
  | 2 => { t with row := v }
  | 3 => { t with col := v }
  | 4 => { t with e0 := v }
  | 5 => { t with e1 := v }
  | 6 => { t with e2 := v }
  | 7 => { t with e3 := v }
  | 8 => { t with s1 := v }
  | 9 => { t with s2 := v }
  | 10 => { t with s3 := v }
  | _ => t

theorem TD.ofBits_setFld {code lo len : Nat} (hcode : tdField code = some (lo, len)) (w : BitVec 512) (v : Nat) :
    TD.ofBits (setFld w lo len v) = (TD.ofBits w).setField code (v % 2 ^ len) := by
  unfold tdField at hcode
  split at hcode <;> cases hcode
  all_goals simp (disch := omega) only [TD.ofBits, TD.setField, fld_setFld, fld_setFld_ne, bit_setFld_ne]

/-- The format word of a descriptor: format, MX and scale descriptor (R159, R171). -/
theorem TD.ofBits_setFormat (w : BitVec 512) (v : Nat) : TD.ofBits (setFld (setFld (setFld w 443 5 v) 442 1 (v / 32)) 436 6 (v / 64))
    = { TD.ofBits w with fmt := v % 32, mx := v / 32 % 2 == 1, scaleTd := v / 64 % 64 } := by
  simp (disch := omega) only [TD.ofBits, bit_eq_fld, fld_setFld, fld_setFld_ne, Nat.reducePow]

section
variable {c : Nat} {s : State} (h : s.Ready c) {f : DescF}
include h

theorem exec_tdset_field {code lo len : Nat} (hf : f.field.toNat = code) (hcode : tdField code = some (lo, len)) :
    exec (.tdset c f) s = .next (s.setCore c ((s.core c).setTd f.td.toNat
      (setFld (Tab.get 0 f.td.toNat (s.core c).td) lo len (descV f (s.core c)).toNat)).next) := by
  refine ret_issue_ready h ?_
  rw [hf, hcode]
  split
  · cases hcode
  · next he => cases he; exact State.modCore_advance _ h.room
  · next he => cases he

theorem exec_tdadd_field {code lo len : Nat} (hf : f.field.toNat = code) (hcode : tdField code = some (lo, len)) :
    exec (.tdadd c f) s = .next (s.setCore c ((s.core c).setTd f.td.toNat (setFld (Tab.get 0 f.td.toNat (s.core c).td) lo len
      (fld (Tab.get 0 f.td.toNat (s.core c).td) lo len + (descV f (s.core c)).toNat))).next) := by
  refine ret_issue_ready h ?_
  rw [hf, hcode]
  exact State.modCore_advance _ h.room

theorem exec_tdset_format (hf : f.field.toNat = 1) : exec (.tdset c f) s = .next (s.setCore c ((s.core c).setTd f.td.toNat
      (setFld (setFld (setFld (Tab.get 0 f.td.toNat (s.core c).td) 443 5 (descV f (s.core c)).toNat)
        442 1 ((descV f (s.core c)).toNat / 32)) 436 6 ((descV f (s.core c)).toNat / 64))).next) := by
  refine ret_issue_ready h ?_
  rw [hf]
  exact State.modCore_advance _ h.room

end

/-- Settles O16: TDSET and TDADD set the field of their code alone (`TD.ofBits_setFld`). -/
theorem descriptorSets : Obligations.DescriptorSets := by
  intro c f s h k v o gives
  have sets {n : BitVec 4} {lo len : Nat} (hcode : tdField n.toNat = some (lo, len)) (hf : f.field = n) :
      gives (.tdset c f) (o.setField n.toNat (v % 2 ^ len))
      ∧ gives (.tdadd c f) (o.setField n.toNat ((fld (Tab.get 0 f.td.toNat k.td) lo len + v) % 2 ^ len)) :=
    have hn := congrArg BitVec.toNat hf
    ⟨⟨_, TD.ofBits_setFld hcode _ _, exec_tdset_field h hn hcode⟩, ⟨_, TD.ofBits_setFld hcode _ _, exec_tdadd_field h hn hcode⟩⟩
  exact ⟨issue_modCore_advance h rfl, sets rfl, fun hf => ⟨_, TD.ofBits_setFormat _ _, exec_tdset_format h (congrArg BitVec.toNat hf)⟩,
    sets rfl, sets rfl, sets rfl, sets rfl, sets rfl, sets rfl, sets rfl, sets rfl, sets rfl⟩

/-! ### Chain descriptors (R172) -/

/-- Settles O17: each of the three sets one field of cd (`fld_setFld`) and leaves those apart from it (`fld_setFld_ne`). -/
theorem chainSets : Obligations.ChainSets := by
  intro c f s h k v o gives
  have sets {i : Instr} {lo len : Nat} (hi : exec i s = cdField lo len c f s) (hin : lo + len ≤ 1024) : gives i lo len :=
    ⟨setFld o lo len v, fld_setFld o lo len v hin, fld_setFld_ne o lo len v, hi.trans (issue_modCore_advance h rfl)⟩
  exact ⟨issue_modCore_advance h rfl, sets rfl (by omega), sets rfl (by decide), sets rfl (by decide)⟩

end Sys2Proof.Machine
end

section
/-! The stacks' controllers: requests, batches, reads and modes (O38). -/

namespace Sys2Proof.Machine

/-! ### The controllers and their registers -/

theorem State.stack_modStack (s : State) (st x : Nat) (f : Stack → Stack) :
    (s.modStack st f).stack x = if x = st then f (s.stack st) else s.stack x := Tab.get_put _ _ _ _ _

@[simp] theorem State.stack_modStack_self (s : State) (st : Nat) (f : Stack → Stack) : (s.modStack st f).stack st = f (s.stack st) :=
  Tab.get_put_self _ _ _ _

@[simp] theorem State.modStack_modStack (s : State) (st : Nat) (f g : Stack → Stack) :
    (s.modStack st f).modStack st g = s.modStack st fun k => g (f k) := by
  simp [State.modStack, State.stack, Tab.put_put]

/-- What a controller becomes is all that a change of it says. -/
theorem State.modStack_congr (s : State) {st : Nat} {f g : Stack → Stack} (h : f (s.stack st) = g (s.stack st)) :
    s.modStack st f = s.modStack st g := by
  unfold State.modStack
  rw [h]

theorem hasDie_lt {s : State} {d : Nat} (h : s.hasDie d = true) : d < 4 := by
  unfold State.hasDie at h
  rw [Bool.and_eq_true] at h
  obtain ⟨-, hd⟩ := h
  cases hg : s.grade <;> simp only [hg, Bool.or_eq_true, beq_iff_eq, decide_eq_true_eq] at hd <;> omega

theorem hasStack_lt {s : State} {st : Nat} (h : s.hasStack st = true) : st < 32 := by
  have hd := hasDie_lt (Bool.and_eq_true _ _ ▸ h).1
  omega

/-- No register of a stack is one that events show in. -/
theorem rHbm_plain {st o : Nat} (hst : st < 32) (ho : o < 0x8000) : ¬ eventReg (rHbm st o) := by
  unfold eventReg rHbm
  omega

theorem rHbm_inj {st o o' : Nat} : rHbm st o = rHbm st o' ↔ o = o' := by
  unfold rHbm
  omega

/-- A field of a stack's register is not touched where only other registers show. -/
theorem Shows.rf {s t : State} {os : List Nat} (h : Shows s t os) {o : Nat} (ho : o ∉ os) (he : ¬ eventReg o) (lo len : Nat) :
    t.rf o lo len = s.rf o lo len := State.rf_of_reg (h.regs o ho he) lo len

theorem Shows.stack {s t : State} {os : List Nat} (h : Shows s t os) (x : Nat) : t.stack x = s.stack x :=
  h.get (fun z => z.stack x) fun _ _ _ => rfl

/-! ### Addresses of a stack -/

theorem region_hbmAddr {st o : Nat} (hst : st < 32) (ho : o < usable) : region (hbmAddr st o) = .hbm st o := by
  unfold region hbmAddr
  unfold usable at ho
  rw [if_pos (by omega), if_pos (by omega), Region.hbm.injEq]
  omega

/-- A stack's address holds data where the stack is mounted and neither it, the block nor its die answers as dead. -/
theorem State.live_hbmAddr {st o : Nat} (s : State) (hst : st < 32) (ho : o < usable) : s.live (hbmAddr st o)
    = (s.hasStack st && !(s.hbmState st == 3 || s.hbmState st == 5 || hasNat (s.stack st).lost (o / 4096) || hasNat s.deadDies (st / 8))) := by
  unfold State.live State.populated State.dead
  rw [region_hbmAddr hst ho]

/-- A block that no snapshot covers is written with no part of Vespers (R459). -/
theorem State.vspTouch_uncovered {s : State} {key : Nat} (hv : s.vsp.covers key = false) : s.vspTouch key = s := by
  unfold State.vspTouch
  rw [hv, if_neg (by decide)]

theorem State.live_hbmAddr_congr {s u : State} {st o : Nat} (hst : st < 32) (ho : o < usable) (hh : u.hasStack st = s.hasStack st)
    (hb : u.hbmState st = s.hbmState st) (hk : (u.stack st).lost = (s.stack st).lost) (hd : u.deadDies = s.deadDies) :
    u.live (hbmAddr st o) = s.live (hbmAddr st o) := by
  rw [State.live_hbmAddr u hst ho, State.live_hbmAddr s hst ho, hh, hb, hk, hd]

/-- A write within a block of a stack that no snapshot covers: its bytes show, and a block written in part is unsealed unless it is
poisoned (R213). -/
theorem State.store_hbm {s : State} {st o : Nat} {d : Bytes} (hst : st < 32) (ho : o < usable) (hd : 0 < d.length) (hlt : d.length < 4096)
    (hb : hbmAddr st o % 4096 + d.length ≤ 4096) (hl : s.live (hbmAddr st o) = true) (hv : s.vsp.covers (hbmAddr st o / 4096) = false) :
    s.store (hbmAddr st o) d false = if s.chkOf (hbmAddr st o / 4096) = poisonMark then s.poke (hbmAddr st o) d
      else (s.poke (hbmAddr st o) d).setChk (hbmAddr st o / 4096) 0 := by
  unfold State.store
  rw [cuts_within hd hb, List.foldl_cons, List.foldl_nil]
  dsimp only
  rw [region_hbmAddr hst ho]
  dsimp only
  unfold State.hbmPart
  rw [if_pos hl]
  dsimp only
  rw [State.vspTouch_uncovered hv, if_neg (by omega)]

/-! ### Requests (R204, R210, R217) -/

/-- Less than three parity failures cost no more than their count. -/
theorem State.cmdParity_retried (s : State) (st : Nat) {p : Nat} (hp : p < 3) :
    s.cmdParity st p = if p = 0 ∨ s.hbmState st = 5 then s else s.bump (rHbm st 0x20) 0 32 1 := by
  unfold State.cmdParity
  rw [if_pos hp]

theorem State.cmdParity_shows (s : State) (st : Nat) {p : Nat} (hp : p < 3) : Shows s (s.cmdParity st p) [rHbm st 0x20] := by
  rw [State.cmdParity_retried s st hp]
  split
  · exact Shows.refl s _
  · exact (Shows.refl s _).bump _ _ _ _ (.inl (List.mem_singleton_self _))

theorem State.cmdParity_hbmState {s : State} {st p : Nat} (hst : st < 32) (hp : p < 3) : (s.cmdParity st p).hbmState st = s.hbmState st :=
  (s.cmdParity_shows st hp).rf (by simp [rHbm]) (rHbm_plain hst (by decide)) 29 3

/-- A request has a legal shape, and lies in the usable region of its stack (R200, R204). -/
structure LegalReq (r : HbmReq) : Prop where
  aligned : r.offset % 64 = 0
  units   : r.len % 64 = 0
  least   : 64 ≤ r.len
  granule : r.offset % 2048 + r.len ≤ 2048
  inside  : r.offset + r.len ≤ usable

theorem LegalReq.holds {r : HbmReq} (h : LegalReq r) (hd : r.write = true → r.data.length = r.len) : legalReq r = true := by
  obtain ⟨h1, h2, h3, h4, h5⟩ := h
  unfold usable at h5
  unfold legalReq hbmCol
  have hw : (!r.write || r.data.length == r.len) = true := by
    cases hc : r.write
    · rfl
    · simp [hd hc]
  simp only [Bool.and_eq_true, beq_iff_eq, decide_eq_true_eq]
  exact ⟨⟨⟨⟨⟨h1, h2⟩, h3⟩, h4⟩, by omega⟩, hw⟩

/-- A legal request that has room enters, a write where its stack is neither in MAINT nor FAILED. -/
theorem exec_hbmReqAccept_enters {st p : Nat} {r : HbmReq} {s : State} (hs : s.hasStack st = true) (hr : LegalReq r)
    (hd : r.write = true → r.data.length = r.len) (hp : p < 3) (hroom : (s.stack st).room r = true)
    (hup : r.write = true → s.hbmState st ≠ 3 ∧ s.hbmState st ≠ 5) :
    exec (.hbmReqAccept st r p) s = .next ((s.cmdParity st p).enterReq st r) := by
  have hst := hasStack_lt hs
  show execHbmReqAccept st r p s = _
  unfold execHbmReqAccept
  have hin := hr.inside
  rw [hr.holds hd, hs, if_neg (by simp; omega), if_neg (by simp; omega), if_pos hroom]
  dsimp only
  rw [State.cmdParity_hbmState hst hp, if_neg]
  · rfl
  · simp only [Bool.and_eq_true, Bool.or_eq_true, beq_iff_eq]
    rintro ⟨hw, h⟩
    have := hup hw
    omega

section
variable {s : State} {st : Nat} {r : HbmReq}

/-- A write to a block that is not being copied shows in memory at once (R204, R210). -/
theorem State.enterReq_write (hw : r.write = true) (hc : ((s.stack st).copying.any fun c => c.block == r.offset / 4096) = false) :
    s.enterReq st r = (s.modStack st fun k => { k with wbuf := Tab.upd 0 (hbmPc r.offset) (· + r.len) k.wbuf }).store
      (hbmAddr st r.offset) r.data false := by
  unfold State.enterReq
  rw [hc, if_pos hw]
  rfl

theorem State.enterReq_write_held (hw : r.write = true) (hc : ((s.stack st).copying.any fun c => c.block == r.offset / 4096) = true) :
    s.enterReq st r = s.modStack st fun k => { k with wbuf := Tab.upd 0 (hbmPc r.offset) (· + r.len) k.wbuf, held := k.held ++ [r] } := by
  unfold State.enterReq
  rw [hc, if_pos hw]
  dsimp only
  rw [if_pos rfl, State.modStack_modStack]

/-- A read takes its data and poison, and waits for them where its block is being copied (R223). -/
theorem State.enterReq_read (hw : r.write = false) : s.enterReq st r = s.modStack st fun k =>
    if (s.stack st).copying.any fun c => c.block == r.offset / 4096
    then { k with held := k.held ++ [r], reads := k.reads ++ [⟨r.source, r.offset, r.len, none⟩] }
    else { k with reads := k.reads ++ [⟨r.source, r.offset, r.len, some (s.capture st r.offset r.len)⟩] } := by
  unfold State.enterReq
  rw [hw, if_neg (by decide)]
  split <;> rfl

end

/-! ### Modes (R34, R209) -/

theorem State.schedApply_eq (u : State) (st : Nat) : u.schedApply st =
    let want := u.rbit (rHbm st 8) 0
    let k := u.stack st
    let v := u.modStack st fun l => { l with lat := (List.range 32).filter fun c => if hasNat k.batch c then hasNat l.lat c else want }
    if (k.batch.filter (· < 32)).all fun c => hasNat k.lat c == want then v.setRbit (rHbm st 0) 28 want else v := by
  unfold State.schedApply
  dsimp only
  rw [State.stack_modStack_self]
  refine if_congr ?_ rfl rfl
  simp only [List.all_eq_true, List.mem_filter, List.mem_range, decide_eq_true_eq, beq_iff_eq]
  generalize (u.stack st).batch = b
  generalize (u.stack st).lat = l
  generalize u.rbit (rHbm st 8) 0 = want
  have hnew (c : Nat) (hc : c < 32) : hasNat ((List.range 32).filter fun c => if hasNat b c then hasNat l c else want) c
      = if hasNat b c then hasNat l c else want := by
    rw [Bool.eq_iff_iff, hasNat_iff, List.mem_filter, List.mem_range]
    exact and_iff_right hc
  constructor
  · rintro h c ⟨hb, hc⟩
    have := h c hc
    rwa [hnew c hc, if_pos (hasNat_iff.2 hb)] at this
  · intro h c hc
    rw [hnew c hc]
    split
    · next hb => exact h c ⟨hasNat_iff.1 hb, hc⟩
    · rfl

/-! ### Reads (R209, R223) -/

theorem takeRead_first {p : HRead → Bool} {hs rest : List HRead} {x : HRead} (hx : p x = true) (hhs : ∀ h ∈ hs, p h = false) :
    takeRead p (hs ++ x :: rest) = some (x, hs ++ rest) := by
  induction hs with
  | nil => simp [takeRead, hx]
  | cons h hs ih =>
    rw [List.cons_append, takeRead, hhs h (by simp), ih fun y hy => hhs y (by simp [hy])]
    rfl

theorem takeRead_none {p : HRead → Bool} {l : List HRead} (h : ∀ y ∈ l, p y = false) : takeRead p l = none := by
  induction l with
  | nil => rfl
  | cons y l ih =>
    rw [takeRead, h y (by simp), ih fun z hz => h z (by simp [hz])]
    rfl

/-- A read of a pseudo-channel that is not held (R223). -/
def HRead.served (pc : Nat) (y : HRead) : Bool := hbmPc y.offset == pc && y.got.isSome

/-- A read of a pseudo-channel to an open row. -/
def Stack.hits (k : Stack) (pc : Nat) (y : HRead) : Bool := y.served pc && Tab.get 0 (hbmOpen y.offset).1 k.rows == (hbmOpen y.offset).2

theorem HRead.served_iff {pc : Nat} {y : HRead} : y.served pc = true ↔ hbmPc y.offset = pc ∧ y.got ≠ none := by
  unfold HRead.served
  rw [Bool.and_eq_true, beq_iff_eq, Option.isSome_iff_ne_none]

theorem Stack.hits_iff {k : Stack} {pc : Nat} {y : HRead} :
    k.hits pc y = true ↔ y.served pc = true ∧ Tab.get 0 (hbmOpen y.offset).1 k.rows = (hbmOpen y.offset).2 := by
  unfold Stack.hits
  rw [Bool.and_eq_true, beq_iff_eq]

/-- The read that leaves next: the oldest to an open row where none is old and there is one, else the oldest. -/
theorem Stack.nextRead_first {k : Stack} {pc aged : Nat} {hs rest : List HRead} {x : HRead} (hk : k.reads = hs ++ x :: rest)
    (h : if aged = 0 ∧ ∃ y ∈ k.reads, k.hits pc y = true then k.hits pc x = true ∧ ∀ y ∈ hs, k.hits pc y = false
      else x.served pc = true ∧ ∀ y ∈ hs, y.served pc = false) : k.nextRead pc aged = some (x, hs ++ rest) := by
  have heq : k.nextRead pc aged = if aged = 0 then (takeRead (k.hits pc) k.reads).orElse fun _ => takeRead (HRead.served pc) k.reads
      else takeRead (HRead.served pc) k.reads := rfl
  rw [heq]
  split at h
  · next hc => rw [if_pos hc.1, hk, takeRead_first h.1 h.2]; rfl
  · next hc =>
    have hold : takeRead (HRead.served pc) k.reads = some (x, hs ++ rest) := hk ▸ takeRead_first h.1 h.2
    split
    · next ha =>
      rw [takeRead_none fun y hy => Bool.eq_false_iff.2 fun hh => hc ⟨ha, y, hy, hh⟩, hold]
      rfl
    · exact hold

/-! ### The commands -/

section
variable {st : Nat} {s : State} (hs : s.hasStack st = true)
include hs

/-- A write of a block that is not being copied, where it holds data and no snapshot covers it. -/
theorem exec_hbmReqAccept_write {p : Nat} {r : HbmReq} (hr : LegalReq r) (hp : p < 3) (hw : r.write = true) (hd : r.data.length = r.len)
    (hroom : Tab.get 0 (hbmPc r.offset) (s.stack st).wbuf + r.len ≤ 65536) (hl : s.live (hbmAddr st r.offset) = true)
    (hv : s.vsp.covers (hbmAddr st r.offset / 4096) = false)
    (hc : ((s.stack st).copying.any fun c => c.block == r.offset / 4096) = false) :
    exec (.hbmReqAccept st r p) s = .next (
      let key := hbmAddr st r.offset / 4096
      let t := ((s.cmdParity st p).modStack st fun k =>
        { k with wbuf := Tab.upd 0 (hbmPc r.offset) (· + r.len) k.wbuf }).poke (hbmAddr st r.offset) r.data
      if s.chkOf key = poisonMark then t else t.setChk key 0) := by
  have hst := hasStack_lt hs
  have ⟨h64, _, hleast, hgran, hin⟩ := hr
  have hoff : r.offset < usable := by omega
  have hshow := s.cmdParity_shows st hp
  have hup : s.hbmState st ≠ 3 ∧ s.hbmState st ≠ 5 := by
    rw [State.live_hbmAddr s hst hoff] at hl
    simp only [Bool.and_eq_true, Bool.not_eq_true', Bool.or_eq_false_iff, beq_eq_false_iff_ne] at hl
    exact hl.2.1.1
  rw [exec_hbmReqAccept_enters hs hr (fun _ => hd) hp (by simpa [Stack.room, hw] using hroom) (fun _ => hup),
    State.enterReq_write hw (by rw [hshow.stack]; exact hc)]
  congr 1
  have hchk : (s.cmdParity st p).chkOf (hbmAddr st r.offset / 4096) = s.chkOf (hbmAddr st r.offset / 4096) :=
    hshow.get (fun z => z.chkOf (hbmAddr st r.offset / 4096)) fun _ _ _ => rfl
  have hlive : ((s.cmdParity st p).modStack st fun k =>
      { k with wbuf := Tab.upd 0 (hbmPc r.offset) (· + r.len) k.wbuf }).live (hbmAddr st r.offset) = true :=
    Eq.trans (State.live_hbmAddr_congr hst hoff (hshow.get (fun z => z.hasStack st) fun _ _ _ => rfl)
      (State.cmdParity_hbmState hst hp) (by rw [State.stack_modStack_self, hshow.stack]) (hshow.get State.deadDies fun _ _ _ => rfl)) hl
  have hcov : (s.cmdParity st p).vsp.covers (hbmAddr st r.offset / 4096) = false := (hshow.get State.vsp fun _ _ _ => rfl) ▸ hv
  have hblk : hbmAddr st r.offset % 4096 + r.data.length ≤ 4096 := by unfold hbmAddr; omega
  rw [State.store_hbm hst hoff (by omega) (by omega) hblk hlive hcov]
  exact if_congr (by rw [← hchk]; rfl) rfl rfl

theorem exec_hbmWriteBatchEnd_empty {pc ns : Nat} (hb : pc ∈ (s.stack st).batch) (hns : ns < if hasNat (s.stack st).lat pc then 500 else 2000) :
    exec (.hbmWriteBatchEnd st pc ns) s = .next ((s.modStack st fun k => { k.closeRows pc with
      batch := k.batch.filter (· != pc), wbuf := Tab.put 0 pc 0 k.wbuf }).schedApply st) := by
  show execHbmWriteBatchEnd st pc ns s = _
  unfold execHbmWriteBatchEnd
  dsimp only
  rw [hs, hasNat_iff.2 hb, if_pos (by decide), decide_eq_false (by omega), Bool.false_and]
  rfl

theorem exec_hbmPcTimeout_eq {pc : Nat} (hpc : pc < 32) (h5 : s.hbmState st ≠ 5) (answered : Bool) :
    exec (.hbmPcTimeout st pc answered) s = .next (
      let n := if answered then 0 else Tab.get 0 pc (s.stack st).timeouts + 1
      if 3 ≤ n then s.failStack st else s.modStack st fun k => { k with timeouts := Tab.put 0 pc n k.timeouts }) := by
  show execHbmPcTimeout st pc answered s = _
  unfold execHbmPcTimeout
  rw [hs, if_pos (by simp [hpc, h5])]
  exact (apply_ite Host.Outcome.next _ _ _).symm

end

/-- The read that is next leaves with its data and poison, and its row stays open (R205, R209). -/
theorem exec_hbmReadComplete_next {st pc aged p timeS : Nat} {s : State} {x : HRead} {rest : List HRead} {d : Bytes × List Bool}
    (hp : p < 3) (hn : (s.stack st).nextRead pc aged = some (x, rest)) (hx : x.got = some d) :
    exec (.hbmReadComplete ⟨st, pc, aged, p⟩ [] timeS) s = .next (((s.cmdParity st p).modStack st fun k => { k with
      reads := rest, rows := Tab.put 0 (hbmOpen x.offset).1 (hbmOpen x.offset).2 k.rows }).send
        (.hbmRead st x.source x.offset d.1 ((List.range (x.len / 64)).map fun i => nth false d.2 i))) := by
  show execHbmReadComplete ⟨st, pc, aged, p⟩ [] timeS s = _
  unfold execHbmReadComplete
  dsimp only
  rw [hn, Option.isSome_some, if_pos rfl, (s.cmdParity_shows st hp).stack, hn]
  dsimp only
  rw [hx, List.take_nil, ite_self]
  exact congrArg (fun l => ret (State.send _ (.hbmRead st x.source x.offset d.1 l))) (List.map_congr_left fun i _ => Bool.or_false _)

/-! ### The statement -/

/-- Settles O38: a legal request enters (`exec_hbmReqAccept_enters`), the read that leaves is `Stack.nextRead_first`, and modes are taken
as `State.schedApply_eq` says. That no row is known open after a batch is the model's choice (log 86). -/
theorem hbmRequests : Obligations.HbmRequests := by
  intro st pc ns r p s hs hpc k key q s0 copied lat full legal sets want takes mine hit
  have hst := hasStack_lt hs
  have hs0 : p < 3 → s.cmdParity st p = s0 := s.cmdParity_retried st
  have hlegal : legal → LegalReq r := fun ⟨h1, h2, h3, h4, h5⟩ => ⟨h1, h2, h3, h4, h5⟩
  refine ⟨fun hr hp hw hd hroom hl hv hc => ?_, fun hr hp hw hd hroom h2 hc => ?_, fun hr hp hw hroom => ?_, fun hfull hb hdue => ?_,
    fun hb hns => ?_, fun hs' rest x d aged timeS hk hx hp hsel => ?_, ?_, fun answered h5 h => ?_⟩
  · rw [exec_hbmReqAccept_write hs (hlegal hr) hp hw hd hroom hl hv hc, hs0 hp]
    rfl
  · rw [exec_hbmReqAccept_enters hs (hlegal hr) (fun _ => hd) hp (by simpa [Stack.room, hw] using hroom) (fun _ => by omega), hs0 hp,
      State.enterReq_write_held hw]
    rw [← hs0 hp, (s.cmdParity_shows st hp).stack]
    exact hc
  · rw [exec_hbmReqAccept_enters hs (hlegal hr) (fun h => by simp [hw] at h) hp (by simpa [Stack.room, hw] using hroom) (fun h => by simp [hw] at h),
      State.enterReq_read hw, (s.cmdParity_shows st hp).stack, hs0 hp]
    rfl
  · show execHbmWriteBatchStart st pc ns s = _
    unfold execHbmWriteBatchStart
    dsimp only
    rw [if_pos]
    · rfl
    · have hnot : hasNat k.batch pc = false := Bool.eq_false_iff.2 fun h => hb (hasNat_iff.1 h)
      have hdue' : (if lat then decide (4096 ≤ full) || decide (500 ≤ ns) else decide (32768 ≤ full) || decide (3000 ≤ ns)) = true := by
        cases hlat : lat <;> simpa [hlat] using hdue
      rw [hs, decide_eq_true hpc, decide_eq_true hfull, hdue', hnot]
      rfl
  · rw [exec_hbmWriteBatchEnd_empty hs hb hns, State.schedApply_eq, State.stack_modStack_self]
    rfl
  · have hfirst : k.nextRead pc aged = some (x, hs' ++ rest) := by
      refine Stack.nextRead_first hk ?_
      have hmine (y : HRead) : y.served pc = true ↔ mine y := HRead.served_iff
      have hhit (y : HRead) : k.hits pc y = true ↔ hit y := Stack.hits_iff.trans (and_congr_left' HRead.served_iff)
      simpa only [← Bool.not_eq_true, hmine, hhit] using hsel
    rw [exec_hbmReadComplete_next hp hfirst hx, hs0 hp]
  · show execHbmSchedApply st s = _
    unfold execHbmSchedApply
    rw [if_pos hs, State.schedApply_eq]
    rfl
  · have hn : (if answered then 0 else Tab.get 0 pc k.timeouts + 1) < 3 := by
      rcases h with rfl | h
      · rw [if_pos rfl]; omega
      · split <;> omega
    rw [exec_hbmPcTimeout_eq hs hpc h5]
    dsimp only
    rw [if_neg (Nat.not_le.2 hn)]
    rfl

end Sys2Proof.Machine
end

section
/-! The stacks' errors, remaps, bring-up and maintenance (O39). -/

namespace Sys2Proof.Machine

/-! ### Reports (R228, R229) -/

/-- HBM_ERR_LOG after an event: the first since it was read stands (R228). -/
def State.errWord (s : State) (st kind a : Nat) : W64 :=
  if s.rf (rHbm st 0x48) 60 4 = 0 then setFld (BitVec.ofNat 64 a) 60 4 kind else s.reg (rHbm st 0x48)

section
variable {s t : State} {os : List Nat} {st : Nat}

theorem Shows.errLog (h : Shows s t os) (ho : rHbm st 0x48 ∈ os) (kind a : Nat) : Shows s (t.errLog st kind a) os := by
  unfold State.errLog
  split
  · exact h.setReg _ _ (.inl ho)
  · exact h

theorem Shows.repairStat (h : Shows s t os) (ho : rHbm st 0x40 ∈ os) : Shows s (t.repairStat st) os :=
  (((h.setRf _ _ _ _ (.inl ho)).setRf _ _ _ _ (.inl ho)).setRf _ _ _ _ (.inl ho)).setLevel _ _

theorem Shows.setStackState (h : Shows s t os) (h0 : rHbm st 0 ∈ os) (h1 : rBoot 0x108 ∈ os) (v : Nat) : Shows s (t.setStackState st v) os :=
  ((h.setRf _ _ _ _ (.inl h0)).setRbit _ _ _ (.inl h1)).setLevel _ _

/-- The change of a controller, beside what shows. -/
theorem Shows.modStack (h : Shows s t os) (f : Stack → Stack) : Shows (s.modStack st f) (t.modStack st f) os :=
  h.map (fun z => z.modStack st f) (fun _ _ _ => rfl) (fun _ => rfl)

/-- The journal's backlog is as the part has it. -/
theorem Shows.logged {B : List JRec} {J : Nat} (h : Shows { s with backlog := B, jDropped := J } t os) :
    Shows { s with backlog := t.backlog, jDropped := t.jDropped } t os := by
  rwa [show t.backlog = B from h.get State.backlog fun _ _ _ => rfl, show t.jDropped = J from h.get State.jDropped fun _ _ _ => rfl]

end

theorem State.errLog_reg (s : State) (st kind : Nat) {a : Nat} (ha : a < 2 ^ 43) :
    (s.errLog st kind a).reg (rHbm st 0x48) = s.errWord st kind a := by
  unfold State.errLog State.errWord
  split
  · rw [State.reg_setReg_self, Nat.mod_eq_of_lt ha]
  · rfl

theorem hbmAddr_lt {st b : Nat} (hst : st < 32) (hb : b < usable / 4096) : hbmAddr st (4096 * b) < 2 ^ 43 := by
  unfold usable at hb
  unfold hbmAddr
  omega

/-- An event that is counted in a counter of the stack and logged. -/
theorem State.counted_spec (s : State) {st c kind a : Nat} (hst : st < 32) (hc : c < 0x48) (ha : a < 2 ^ 43) :
    let w := (s.bump (rHbm st c) 0 32 1).errLog st kind a
    Shows s w [rHbm st c, rHbm st 0x48] ∧ w.rf (rHbm st c) 0 32 = Nat.min (s.rf (rHbm st c) 0 32 + 1) (2 ^ 32 - 1)
      ∧ w.reg (rHbm st 0x48) = s.errWord st kind a := by
  intro w
  have hne : rHbm st 0x48 ≠ rHbm st c := fun h => absurd (rHbm_inj.1 h) (by omega)
  have hw : Shows (s.bump (rHbm st c) 0 32 1) w [rHbm st 0x48] := (Shows.refl _ _).errLog (List.mem_singleton_self _) _ _
  refine ⟨((Shows.refl s _).bump _ _ _ _ (.inl (by simp))).errLog (by simp) _ _, ?_, ?_⟩
  · rw [hw.rf (by simpa using hne.symm) (rHbm_plain hst (by omega)), State.bump, State.rf_setRf _ _ _ _ _ (by decide)]
    exact Nat.mod_eq_of_lt (Nat.lt_of_le_of_lt (Nat.min_le_right _ _) (by decide))
  · rw [State.errLog_reg _ _ _ ha]
    unfold State.errWord State.bump
    rw [State.rf_setRf_reg _ _ _ _ _ _ _ _ hne, State.reg_setRf_ne _ hne]

/-- Content loss: a pulse, and a record that is never dropped (R229, R452). -/
theorem State.contentLoss_eq (s : State) {st : Nat} : s.contentLoss st = { s.pulse (514 + 4 * st) with
    backlog := s.backlog ++ [⟨0, s.rf (rBoot 0x10) 0 32, s.time, st, 3, 1, 0x21, toBytes 8 (s.reg (rHbm st 0x48)).toNat⟩] } := by
  have h := State.pulse_raised (Raised.refl s) (514 + 4 * st)
  unfold State.contentLoss
  rw [State.journalPut_record, h.backlog, State.rf_of_reg (h.regs (rBoot 0x10) (by simp [eventReg, rBoot])),
    show (s.pulse (514 + 4 * st)).time = s.time from h.regs (rCrn 8) (by simp [eventReg, rCrn])]

/-- The repairs that hard PPR has made stand beside the counts of remaps (R228). -/
theorem State.repairStat_rows (s : State) {st : Nat} (hst : st < 32) :
    (s.repairStat st).rf (rHbm st 0x40) 0 14 = s.rf (rHbm st 0x40) 0 14 := by
  unfold State.repairStat
  dsimp only
  rw [State.rf_of_reg (State.setLevel_reg _ _ _ _ (rHbm_plain hst (by decide))), State.rf_setRf_ne _ _ _ _ _ _ _ (by omega),
    State.rf_setRf_ne _ _ _ _ _ _ _ (by omega), State.rf_setRf_ne _ _ _ _ _ _ _ (by omega)]

/-! ### Remaps (R220-R222) -/

theorem lowestFree_not_mem (l : List Nat) : lowestFree l ∉ l := by
  obtain ⟨n, hn, hl⟩ : ∃ n ∈ List.range (l.length + 1), n ∉ l := by
    by_contra h
    push Not at h
    have := ((List.nodup_range (n := l.length + 1)).subperm h).length_le
    rw [List.length_range] at this
    omega
  have hsome : ((List.range (l.length + 1)).find? fun n => !hasNat l n).isSome = true :=
    List.find?_isSome.2 ⟨n, hn, by simpa [← hasNat_iff] using hl⟩
  obtain ⟨m, hm⟩ := Option.isSome_iff_exists.1 hsome
  have hfree := List.find?_some hm
  unfold lowestFree
  rw [hm, Option.getD_some]
  simpa [← hasNat_iff] using hfree

theorem Stack.entryOf_none {k : Stack} {b : Nat} (h : ∀ p ∈ k.remaps, ∀ e, p.2 = some e → e.block ≠ b) : k.entryOf b = none := by
  unfold Stack.entryOf
  rw [List.find?_eq_none]
  intro q hq
  obtain ⟨p, hp, he⟩ := List.mem_filterMap.1 hq
  obtain ⟨e, hpe, rfl⟩ := Option.map_eq_some_iff.1 he
  simpa using h p hp e hpe

/-- The first failure of a block takes a free spare, while entries and spares last (R220). -/
theorem State.blockFails_first {s : State} {st b : Nat} (ue : Bool) (hlost : b ∉ (s.stack st).lost)
    (hcopy : ∀ c ∈ (s.stack st).copying, c.block ≠ b) (hent : (s.stack st).entryOf b = none) (htaken : (s.stack st).taken.length < 196608)
    (hroom : (s.stack st).entries.length + (s.stack st).copying.length < 32768) : s.blockFails st b ue
      = (s.modStack st fun k => { k with taken := lowestFree (s.stack st).taken :: k.taken,
                                         copying := k.copying ++ [⟨b, lowestFree (s.stack st).taken, ue⟩] }).repairStat st := by
  have hl : hasNat (s.stack st).lost b = false := Bool.eq_false_iff.2 fun h => hlost (hasNat_iff.1 h)
  have hc : ((s.stack st).copying.any fun c => c.block == b) = false := by simpa using hcopy
  have hused := List.length_filter_le (fun c => ((s.stack st).entryOf c.block).isNone) (s.stack st).copying
  unfold State.blockFails
  dsimp only
  rw [hl, if_neg (by decide), hc, if_neg (by decide), hent, if_neg (by decide), if_neg (by simp; omega)]

/-! ### The scrub (R218-R220) -/

theorem State.trackCe_first {s : State} {st b timeS : Nat} (hthr : s.rf (rHbm st 0x18) 0 8 = 0) (hk : (s.stack st).tracker = []) :
    s.trackCe st b timeS = s.modStack st fun k => { k with tracker := [⟨b, 1, timeS⟩] } := by
  unfold State.trackCe
  dsimp only
  rw [hthr, hk, if_neg fun h => h.1 rfl]
  rfl

section
variable {st b : Nat} {s : State} (hs : s.hasStack st = true) (hscrub : s.rbit (rHbm st 8) 1 = true) (hup : s.hbmState st = 2)
  (hb : b < usable / 4096)
include hs hscrub hup hb

theorem exec_hbmScrubRead_running (ecc : List Ecc) (timeS : Nat) :
    exec (.hbmScrubRead st b ecc timeS) s = .next (s.eccOutcomes st (4096 * b) timeS (ecc.take 64)) := by
  show execHbmScrubRead st b ecc timeS s = _
  unfold execHbmScrubRead
  rw [hs, hscrub, hup, decide_eq_true hb, if_pos (by decide)]
  rfl

end

theorem State.eccOutcome_corrected {s : State} {st b timeS : Nat} (hv : s.vsp.covers (hbmAddr st (4096 * b) / 4096) = false)
    (hthr : s.rf (rHbm st 0x18) 0 8 = 0) (hk : (s.stack st).tracker = []) (hst : st < 32) :
    s.eccOutcome st (4096 * b) timeS .corrected = ((s.bump (rHbm st 0x20) 0 32 1).errLog st 1 (hbmAddr st (4096 * b))).modStack st
      fun k => { k with tracker := [⟨b, 1, timeS⟩] } := by
  have hw : Shows s ((s.bump (rHbm st 0x20) 0 32 1).errLog st 1 (hbmAddr st (4096 * b))) [rHbm st 0x20, rHbm st 0x48] :=
    ((Shows.refl s _).bump _ _ _ _ (.inl (by simp))).errLog (by simp) _ _
  have hblk : 4096 * b / 4096 = b := by omega
  have hoff : 4096 * b / 64 * 64 = 4096 * b := by omega
  unfold State.eccOutcome
  dsimp only
  rw [hblk, hoff, State.vspTouch_uncovered ((hw.get State.vsp fun _ _ _ => rfl) ▸ hv)]
  exact State.trackCe_first ((hw.rf (by simp [rHbm]) (rHbm_plain hst (by decide)) 0 8).trans hthr) ((hw.stack st).symm ▸ hk)

/-- An uncorrectable error of a block that is not lost poisons its check word, and is reported (R218, R220). -/
theorem State.eccOutcome_uncorrectable {s : State} {st b timeS : Nat} (hlost : b ∉ (s.stack st).lost) :
    s.eccOutcome st (4096 * b) timeS .uncorrectable = ((((s.bump (rHbm st 0x28) 0 32 1).errLog st 2 (hbmAddr st (4096 * b))).contentLoss
      st).setChk (hbmAddr st (4096 * b) / 4096) poisonMark).blockFails st b true := by
  have hblk : 4096 * b / 4096 = b := by omega
  have hoff : 4096 * b / 64 * 64 = 4096 * b := by omega
  have hl : hasNat (s.stack st).lost b = false := Bool.eq_false_iff.2 fun h => hlost (hasNat_iff.1 h)
  unfold State.eccOutcome
  dsimp only
  rw [hblk, hoff, hl, if_neg (by decide)]

/-! ### Copies (R220, R223) -/

/-- A record joins the backlog, or is dropped and counted (R452). -/
theorem State.journalPut_logs (s : State) (kind cls uclass unit : Nat) (d : Bytes) :
    ∃ B J, s.journalPut kind cls uclass unit d = { s with backlog := B, jDropped := J } := by
  unfold State.journalPut
  split
  · exact ⟨_, _, rfl⟩
  · exact ⟨_, _, rfl⟩

/-- A controller after the first copy of a block has ended, with its entry at an index. -/
def Stack.copied (k : Stack) (c : Copy) (ix : Nat) : Stack :=
  { k with copying := k.copying.filter (fun d => d.block != c.block), remaps := Tab.put none ix (some ⟨c.block, 1, c.spare, false⟩) k.remaps }

/-- The end of a copy with nothing held for its block: the entry is made, reported and recorded. -/
theorem State.remapDone_first {s : State} {st : Nat} {c : Copy} (hc : (s.stack st).copying.find? (fun d => d.block == c.block) = some c)
    (hheld : ∀ r ∈ (s.stack st).held, r.offset / 4096 ≠ c.block) (hagain : c.block ∉ (s.stack st).again)
    (hent : (s.stack st).entryOf c.block = none) :
    ∃ d, s.remapDone st c.block = ((((s.modStack st fun k => k.copied c (lowestFree ((s.stack st).remaps.map (·.1)))).errLog st
      (if c.ue then 9 else 8) (hbmAddr st (4096 * c.block))).repairStat st).pulse (513 + 4 * st)).journalPut 0x20 0 3 st d := by
  have hmine : (s.stack st).held.filter (fun r => r.offset / 4096 == c.block) = [] := by simpa using hheld
  have hheld' : (s.stack st).held.filter (fun r => r.offset / 4096 != c.block) = (s.stack st).held := by simpa using hheld
  have hagain' : (s.stack st).again.filter (· != c.block) = (s.stack st).again := by
    rw [List.filter_eq_self]
    intro a ha
    simpa using fun h : a = c.block => hagain (h ▸ ha)
  have hnone : (s.stack st).again.filter (· == c.block) = [] := by
    rw [List.filter_eq_nil_iff]
    intro a ha
    simpa using fun h : a = c.block => hagain (h ▸ ha)
  have hmod : (s.modStack st fun k => { k with
      copying := k.copying.filter (fun d => d.block != c.block),
      remaps := Tab.put none (lowestFree ((s.stack st).remaps.map (·.1))) (some ⟨c.block, 1, c.spare, false⟩) k.remaps,
      held := k.held.filter (fun r => r.offset / 4096 != c.block), again := k.again.filter (· != c.block) })
      = s.modStack st fun k => k.copied c (lowestFree ((s.stack st).remaps.map (·.1))) :=
    State.modStack_congr s (by rw [hheld', hagain']; rfl)
  unfold State.remapDone
  dsimp only
  rw [hc]
  dsimp only
  rw [hent, hmine, hnone]
  dsimp only
  rw [hmod]
  exact ⟨_, rfl⟩

/-! ### States of a stack (R224, R226) -/

/-- A stack enters a state: HBM_STATUS and BOOT_READY_STACK show it, and the mode shown stands. -/
theorem State.setStackState_shows (s : State) {st v : Nat} (hst : st < 32) (hv : v < 8) :
    Shows s (s.setStackState st v) [rHbm st 0, rBoot 0x108] ∧ (s.setStackState st v).hbmState st = v
      ∧ (s.setStackState st v).rbit (rBoot 0x108) st = (v == 2) ∧ (s.setStackState st v).rbit (rHbm st 0) 28 = s.rbit (rHbm st 0) 28 := by
  refine ⟨(Shows.refl s _).setStackState (by simp) (by simp) v, (setStackState_spec s hst hv).2.1, ?_, ?_⟩
  · unfold State.setStackState State.rbit
    rw [State.setLevel_reg _ _ _ _ (by simp [eventReg, rBoot]), State.reg_setRbit_self, bit_setBit _ _ _ (by omega)]
  · unfold State.setStackState State.rbit
    rw [State.setLevel_reg _ _ _ _ (rHbm_plain hst (by decide)), State.reg_setRbit_ne _ (rHbm_boot st), State.reg_setRf_self,
      bit_setFld_ne _ _ _ _ _ (.inl (by decide))]

/-- The controller of a stack that fails: accepted reads complete poisoned, and nothing is held or buffered (R226, R230). -/
def Stack.failed (k : Stack) : Stack :=
  { k with held := [], wbuf := [], batch := [], rows := [], copying := [], again := [], timeouts := [],
           reads := k.reads.map fun r => { r with got := some (List.replicate r.len 0, List.replicate (r.len / 64) true) } }

/-- A stack that fails: one record joins the backlog, and the fault map advances (R226, R457). -/
theorem State.failStack_eq (s : State) (st : Nat) : ∃ r, s.failStack st =
    (({ (s.setStackState st 5).modStack st Stack.failed with
        backlog := ((s.setStackState st 5).modStack st Stack.failed).backlog ++ [r] } : State).fresh).mapChange :=
  ⟨_, congrArg (fun z => (State.fresh z).mapChange) (State.journalPut_record _ _ _ _ _)⟩

/-- A part with the log and the controllers of another, and the fault map's advance at a time: what the failure of a stack shows beside
registers. -/
def State.failing (t : State) (now : W64) (z : State) : State :=
  { z with backlog := t.backlog, jDropped := t.jDropped, mapGen := z.mapGen + 1, mapTime := now, freeIx := z.freeIx + 1, ctls := t.ctls }

/-- What a stack that fails leaves. -/
theorem State.failStack_spec (s : State) {st : Nat} (hst : st < 32) :
    let t := s.failStack st
    (t.hbmState st = 5 ∧ t.rbit (rBoot 0x108) st = false)
      ∧ Shows (State.failing t s.time s) t [rHbm st 0, rBoot 0x108]
      ∧ (∀ x, x ≠ st → t.stack x = s.stack x) ∧ (t.stack st).held = [] ∧ (∀ w, Tab.get 0 w (t.stack st).wbuf = 0)
      ∧ t.backlog.length = s.backlog.length + 1 := by
  intro t
  obtain ⟨hshow, hstate, hboot, -⟩ := s.setStackState_shows hst (v := 5) (by decide)
  obtain ⟨r, hr⟩ := s.failStack_eq st
  have htime : (s.setStackState st 5).time = s.time := hshow.regs (rCrn 8) (by simp [rCrn, rHbm, rBoot]; omega) (by simp [eventReg, rCrn])
  have hlog : (s.setStackState st 5).backlog = s.backlog := hshow.get State.backlog fun _ _ _ => rfl
  have hold := hshow.stack
  have ht : t = _ := hr
  clear_value t
  generalize s.setStackState st 5 = w at *
  have hstack (x : Nat) : t.stack x = if x = st then (w.stack st).failed else w.stack x := by
    rw [ht]
    exact State.stack_modStack w st x _
  have hself : t.stack st = (w.stack st).failed := (hstack st).trans (if_pos rfl)
  refine ⟨?_, ?_, fun x hx => ((hstack x).trans (if_neg hx)).trans (hold x), by rw [hself]; rfl, fun x => by rw [hself]; rfl, ?_⟩
  · rw [ht]
    exact ⟨hstate, hboot⟩
  · have hmap := hshow.map (State.failing t s.time) (fun _ _ _ => rfl) fun _ => rfl
    have hsame : State.failing t s.time w = t := by
      rw [ht, ← htime]
      rfl
    rw [hsame] at hmap
    exact hmap
  · rw [ht, ← hlog]
    exact List.length_append

/-! ### Bring-up and maintenance (R224, R225) -/

/-- `t` is `s` but for the registers listed, what raising events shows, and what a repair changes: memory, check words, the controllers
and the rows that hard PPR has repaired. -/
def Repairs (s t : State) (os : List Nat) : Prop :=
  Shows { s with mem := t.mem, chk := t.chk, ctls := t.ctls, hppr := t.hppr } t os

section
variable {s t u : State} {os : List Nat}

theorem Repairs.trans (h : Repairs s t os) (k : Repairs t u os) : Repairs s u os :=
  Shows.trans (h.map (fun z => { z with mem := u.mem, chk := u.chk, ctls := u.ctls, hppr := u.hppr }) (fun _ _ _ => rfl) fun _ => rfl) k

theorem Shows.repairs (h : Shows s t os) : Repairs s t os := by
  have hm : t.mem = s.mem := h.get State.mem fun _ _ _ => rfl
  have hc : t.chk = s.chk := h.get State.chk fun _ _ _ => rfl
  have hk : t.ctls = s.ctls := h.get State.ctls fun _ _ _ => rfl
  have hp : t.hppr = s.hppr := h.get State.hppr fun _ _ _ => rfl
  unfold Repairs
  rw [hm, hc, hk, hp]
  exact h

theorem Repairs.modStack (h : Repairs s t os) (st : Nat) (f : Stack → Stack) : Repairs s (t.modStack st f) os :=
  h.trans ⟨fun _ _ _ => rfl, rfl⟩

end

/-- A test's remap of one more failing block, while entries and spares last (R224). -/
def Stack.testRemap (k : Stack) (b : Nat) : Stack :=
  if (k.entryOf b).isSome || hasNat k.lost b || 32768 ≤ k.entries.length || 196608 ≤ k.taken.length then k
  else { k with taken := lowestFree k.taken :: k.taken,
                remaps := Tab.put none (lowestFree (k.remaps.map (·.1))) (some ⟨b, 1, lowestFree k.taken, false⟩) k.remaps }

theorem Stack.testRemap_batch (k : Stack) (b : Nat) : (k.testRemap b).batch = k.batch := by
  unfold Stack.testRemap
  split <;> rfl

theorem Stack.foldl_testRemap_batch (l : List Nat) (k : Stack) : (l.foldl Stack.testRemap k).batch = k.batch := by
  induction l generalizing k with
  | nil => rfl
  | cons b l ih => rw [List.foldl_cons, ih, Stack.testRemap_batch]

/-- Steps that each change controllers alone, and one stack's in a known way, change them so together. -/
theorem State.foldl_ctls {f : State → Nat → State} {g : Stack → Nat → Stack} {st : Nat}
    (hf : ∀ t b, (f t b).stack st = g (t.stack st) b ∧ ∃ c, f t b = { t with ctls := c }) (l : List Nat) (t : State) :
    (l.foldl f t).stack st = l.foldl g (t.stack st) ∧ ∃ c, l.foldl f t = { t with ctls := c } := by
  induction l generalizing t with
  | nil => exact ⟨rfl, _, rfl⟩
  | cons b l ih =>
    obtain ⟨hstack, c, hc⟩ := hf t b
    obtain ⟨hfold, d, hd⟩ := ih (f t b)
    rw [List.foldl_cons, hfold, hstack, hd, hc]
    exact ⟨rfl, _, rfl⟩

/-- A test's remaps are those of `Stack.testRemap`, one block after the other. -/
theorem State.testRepair_eq (s : State) (st hard soft : Nat) (l : List Nat) :
    ∃ f : State → Nat → State, (∀ t b, (f t b).stack st = (t.stack st).testRemap b ∧ ∃ c, f t b = { t with ctls := c })
      ∧ s.testRepair st hard soft l = (l.foldl f ((((s.zeroStack st).setRf (rHbm st 0x60) 16 16
        (Nat.min hard (s.hardLeft st))).setRf (rHbm st 0x60) 0 16 soft).useHard st hard)).repairStat st := by
  refine ⟨_, fun t b => ?_, rfl⟩
  dsimp only
  unfold Stack.testRemap
  split
  · exact ⟨rfl, _, rfl⟩
  · exact ⟨State.stack_modStack_self _ _ _, _, rfl⟩

/-- What the steps of a test have done (R224 steps 5 and 6): the rows repaired are shown and counted while there are rows left, and
every byte is zero and every block unsealed. -/
structure Tested (s t : State) (st hard soft : Nat) : Prop where
  repairs : Repairs s t [rHbm st 0, rBoot 0x108, rHbm st 0x60, rHbm st 0x40]
  mem     : t.mem = Tab.clear (hbmAddr st 0) usable s.mem
  chk     : t.chk = Tab.clear (hbmAddr st 0 / 4096) (usable / 4096) s.chk
  hppr    : t.hppr = Tab.put 0 st (Tab.get 0 st s.hppr + Nat.min hard (s.hardLeft st)) s.hppr
  hards   : t.rf (rHbm st 0x60) 16 16 = Nat.min hard (s.hardLeft st)
  softs   : t.rf (rHbm st 0x60) 0 16 = soft
  rows    : t.rf (rHbm st 0x40) 0 14 = (Tab.get 0 st s.hppr + Nat.min hard (s.hardLeft st)) % 2 ^ 14

section
variable {s t u : State} {st hard soft : Nat}

theorem Tested.modStack (h : Tested s t st hard soft) (f : Stack → Stack) : Tested s (t.modStack st f) st hard soft :=
  ⟨h.repairs.modStack st f, h.mem, h.chk, h.hppr, h.hards, h.softs, h.rows⟩

/-- A test's results stand where only the state of the stack shows. -/
theorem Tested.shows (h : Tested s t st hard soft) (hst : st < 32) (k : Shows t u [rHbm st 0, rBoot 0x108]) : Tested s u st hard soft where
  repairs := h.repairs.trans (k.mono (by simp)).repairs
  mem := (k.get State.mem fun _ _ _ => rfl).trans h.mem
  chk := (k.get State.chk fun _ _ _ => rfl).trans h.chk
  hppr := (k.get State.hppr fun _ _ _ => rfl).trans h.hppr
  hards := (k.rf (by simp [rHbm, rBoot]; omega) (rHbm_plain hst (by decide)) _ _).trans h.hards
  softs := (k.rf (by simp [rHbm, rBoot]; omega) (rHbm_plain hst (by decide)) _ _).trans h.softs
  rows := (k.rf (by simp [rHbm, rBoot]; omega) (rHbm_plain hst (by decide)) _ _).trans h.rows

end

section
variable {s t u : State} {os : List Nat} {st hard soft : Nat}

theorem Repairs.setRf (h : Repairs s t os) (o lo len v : Nat) (ho : o ∈ os) : Repairs s (t.setRf o lo len v) os :=
  h.trans ((Shows.refl t os).setRf o lo len v (.inl ho)).repairs

theorem State.zeroStack_repairs (s : State) (st : Nat) (os : List Nat) : Repairs s (s.zeroStack st) os := ⟨fun _ _ _ => rfl, rfl⟩

@[simp] theorem State.stack_repairStat (t : State) (st x : Nat) : (t.repairStat st).stack x = t.stack x :=
  ((Shows.refl t [rHbm st 0x40]).repairStat (List.mem_singleton_self _)).stack x

@[simp] theorem State.stack_useHard (t : State) (st n x : Nat) : (t.useHard st n).stack x = t.stack x := rfl

theorem Repairs.useHard (h : Repairs s t os) (ho : rHbm st 0x40 ∈ os) (n : Nat) : Repairs s (t.useHard st n) os := by
  have hp (p : Tab Nat) : Repairs t { t with hppr := p } os := ⟨fun _ _ _ => rfl, rfl⟩
  exact (h.trans (hp _)).setRf _ _ _ _ ho

/-- Counts of remaps show beside a test's results. -/
theorem Tested.repairStat (h : Tested s t st hard soft) (hst : st < 32) : Tested s (t.repairStat st) st hard soft := by
  have k : Shows t (t.repairStat st) [rHbm st 0x40] := (Shows.refl t _).repairStat (List.mem_singleton_self _)
  refine ⟨h.repairs.trans (k.mono (by simp)).repairs, (k.get State.mem fun _ _ _ => rfl).trans h.mem,
    (k.get State.chk fun _ _ _ => rfl).trans h.chk, (k.get State.hppr fun _ _ _ => rfl).trans h.hppr, ?_, ?_,
    (State.repairStat_rows t hst).trans h.rows⟩
  · exact (k.rf (by simp [rHbm]) (rHbm_plain hst (by decide)) _ _).trans h.hards
  · exact (k.rf (by simp [rHbm]) (rHbm_plain hst (by decide)) _ _).trans h.softs

/-- Only HBM_REPAIR_STAT shows rows that hard PPR repairs. -/
theorem State.useHard_rf_ne (t : State) (st n : Nat) {o : Nat} (h : o ≠ rHbm st 0x40) (lo len : Nat) :
    (t.useHard st n).rf o lo len = t.rf o lo len := by
  unfold State.useHard
  exact State.rf_setRf_reg _ _ _ _ _ _ _ _ h

/-- Hard PPR that repairs no further row changes nothing of a test's results. -/
theorem Tested.useHard_zero (h : Tested s t st hard soft) : Tested s (t.useHard st 0) st hard soft := by
  have hv : Tab.get 0 st t.hppr + Nat.min 0 (t.hardLeft st) = Tab.get 0 st s.hppr + Nat.min hard (s.hardLeft st) := by
    rw [h.hppr, Tab.get_put_self]
    exact congrArg _ (Nat.zero_min _)
  have hput : (t.useHard st 0).hppr = Tab.put 0 st (Tab.get 0 st s.hppr + Nat.min hard (s.hardLeft st)) s.hppr := by
    show Tab.put 0 st (Tab.get 0 st t.hppr + Nat.min 0 (t.hardLeft st)) t.hppr = _
    rw [hv, h.hppr, Tab.put_put]
  have hne : rHbm st 0x60 ≠ rHbm st 0x40 := by simp [rHbm]
  refine ⟨?_, h.mem, h.chk, hput, ?_, ?_, ?_⟩
  · exact h.repairs.useHard (by simp) 0
  · exact (t.useHard_rf_ne st 0 hne 16 16).trans h.hards
  · exact (t.useHard_rf_ne st 0 hne 0 16).trans h.softs
  · rw [← hv]
    exact State.rf_setRf _ _ _ _ _ (by decide)

/-- The steps of a test of a stack, and the controller that its remaps leave. -/
theorem State.testRepair_tested (s : State) (hst : st < 32) (hsoft : soft < 65536) (l : List Nat) :
    Tested s (s.testRepair st hard soft l) st hard soft ∧ (s.testRepair st hard soft l).stack st = l.foldl Stack.testRemap (s.stack st) := by
  obtain ⟨f, hf, heq⟩ := s.testRepair_eq st hard soft l
  have hhards : Nat.min hard (s.hardLeft st) ≤ 2048 := (Nat.min_le_right _ _).trans (Nat.sub_le _ _)
  have hne : rHbm st 0x60 ≠ rHbm st 0x40 := by simp [rHbm]
  have hbase : Tested s ((((s.zeroStack st).setRf (rHbm st 0x60) 16 16
      (Nat.min hard (s.hardLeft st))).setRf (rHbm st 0x60) 0 16 soft).useHard st hard) st hard soft := by
    refine ⟨?_, rfl, rfl, rfl, ?_, ?_, State.rf_setRf _ _ _ _ _ (by decide)⟩
    · exact (((s.zeroStack_repairs st _).setRf _ _ _ _ (by simp)).setRf _ _ _ _ (by simp)).useHard (by simp) _
    · rw [State.useHard_rf_ne _ _ _ hne, State.rf_setRf_ne _ _ _ _ _ _ _ (by decide), State.rf_setRf _ _ _ _ _ (by decide)]
      exact Nat.mod_eq_of_lt (by omega)
    · rw [State.useHard_rf_ne _ _ _ hne, State.rf_setRf _ _ _ _ _ (by decide)]
      exact Nat.mod_eq_of_lt (by omega)
  obtain ⟨hstack, c, hc⟩ := State.foldl_ctls hf l ((((s.zeroStack st).setRf (rHbm st 0x60) 16 16
    (Nat.min hard (s.hardLeft st))).setRf (rHbm st 0x60) 0 16 soft).useHard st hard)
  rw [heq]
  refine ⟨Tested.repairStat ?_ hst, ?_⟩
  · rw [hc]
    exact ⟨hbase.repairs.trans ⟨fun _ _ _ => rfl, rfl⟩, hbase.mem, hbase.chk, hbase.hppr, hbase.hards, hbase.softs, hbase.rows⟩
  · rw [State.stack_repairStat, hstack]
    rfl

/-- A stack of which no batch is in progress takes the requested mode and becomes READY. -/
theorem State.becomesReady (t : State) (hst : st < 32) (hb : (t.stack st).batch = []) :
    let u := (t.schedApply st).setStackState st 2
    Shows (t.modStack st fun k => { k with lat := if t.rbit (rHbm st 8) 0 then List.range 32 else [] }) u [rHbm st 0, rBoot 0x108]
      ∧ (u.hbmState st = 2 ∧ u.rbit (rBoot 0x108) st = true) ∧ u.rbit (rHbm st 0) 28 = t.rbit (rHbm st 8) 0 := by
  have hlat : (List.range 32).filter (fun _ => t.rbit (rHbm st 8) 0) = if t.rbit (rHbm st 8) 0 then List.range 32 else [] := by
    cases t.rbit (rHbm st 8) 0 <;> simp
  have hsched : t.schedApply st = (t.modStack st fun k => { k with lat := if t.rbit (rHbm st 8) 0 then List.range 32 else [] }).setRbit
      (rHbm st 0) 28 (t.rbit (rHbm st 8) 0) := by
    rw [State.schedApply_eq, ← hlat]
    dsimp only
    rw [hb]
    rfl
  intro u
  obtain ⟨hshow, hstate, hboot, hmode⟩ := (t.schedApply st).setStackState_shows hst (v := 2) (by decide)
  refine ⟨Shows.trans ?_ hshow, ⟨hstate, hboot⟩, hmode.trans ?_⟩
  · rw [hsched]
    exact (Shows.refl _ _).setRbit _ _ _ (.inl (by simp))
  · rw [hsched]
    unfold State.rbit
    rw [State.reg_setRbit_self, bit_setBit _ _ _ (by decide)]

end

/-- The first block that a test of a fresh stack remaps takes the first spare and the first entry. -/
theorem Stack.testRemap_reset (b : Nat) :
    Stack.reset.testRemap b = { Stack.reset with remaps := [(0, some ⟨b, 1, 0, false⟩)], taken := [0] } := by
  unfold Stack.testRemap
  rw [if_neg]
  · rfl
  · simp [Stack.reset, Stack.entryOf, Stack.entries, hasNat]

theorem Stack.foldl_testRemap_reset {l : List Nat} (h : l.length ≤ 1) : l.foldl Stack.testRemap Stack.reset = { Stack.reset with
    remaps := (List.range l.length).map fun i => (i, some ⟨nth 0 l i, 1, i, false⟩), taken := List.range l.length } := by
  match l, h with
  | [], _ => rfl
  | [b], _ => exact Stack.testRemap_reset b

section
variable {s t : State} {st hard soft : Nat}

/-- A tested stack becomes READY in the requested mode. -/
theorem Tested.ready (h : Tested s t st hard soft) (hst : st < 32) (hb : (t.stack st).batch = []) :
    let u := (t.schedApply st).setStackState st 2
    (u.hbmState st = 2 ∧ u.rbit (rBoot 0x108) st = true) ∧ Tested s u st hard soft ∧ u.rbit (rHbm st 0) 28 = s.rbit (rHbm st 8) 0
      ∧ u.stack st = { t.stack st with lat := if s.rbit (rHbm st 8) 0 then List.range 32 else [] } := by
  intro u
  obtain ⟨hshow, hstate, hmode⟩ := t.becomesReady hst hb
  have hwant : t.rbit (rHbm st 8) 0 = s.rbit (rHbm st 8) 0 :=
    congrArg (bit · 0) (h.repairs.regs (rHbm st 8) (by simp [rHbm, rBoot]; omega) (rHbm_plain hst (by decide)))
  refine ⟨hstate, (h.modStack _).shows hst hshow, hmode.trans hwant, (hshow.stack st).trans ?_⟩
  rw [State.stack_modStack_self, hwant]

/-- Outside a recovery boot no stack takes the window (R447). -/
theorem State.recovered_normal {s : State} (st : Nat) (h : s.rf (rCrn 0) 29 3 ≠ 3) : s.recovered st = s := if_neg h

theorem State.recoverNext_normal {s : State} (st : Nat) (h : s.rf (rCrn 0) 29 3 ≠ 3) : s.recoverNext st = s := by
  unfold State.recoverNext
  rw [if_neg]
  simp [h]

end

/-! ### The commands -/

section
variable {st : Nat} {s : State} (hs : s.hasStack st = true)
include hs

theorem exec_hbmWaveStart_cold (hcrn : s.rf (rCrn 0) 29 3 ≠ 3) (h0 : s.hbmState st = 0)
    (hwave : st % 8 < 4 ∨ ∀ i, i < 4 → 2 ≤ s.hbmState (st / 8 * 8 + i)) :
    exec (.hbmWaveStart st) s = .next (s.setRf (rHbm st 0) 29 3 1) := by
  show execHbmWaveStart st s = _
  unfold execHbmWaveStart
  have hgo : (decide (st % 8 < 4) || (List.range 4).all fun i => decide (2 ≤ s.hbmState (st / 8 * 8 + i))) = true := by
    simpa using hwave
  dsimp only
  rw [hs, hgo, h0, if_pos]
  · rfl
  · simpa using hcrn

theorem exec_stackBringupEnd_failed (hcrn : s.rf (rCrn 0) 29 3 ≠ 3) (h1 : s.hbmState st = 1) (hard soft : Nat) (l : List Nat) :
    exec (.stackBringupEnd st false hard soft l) s = .next (s.failStack st) := by
  have hst := hasStack_lt hs
  obtain ⟨-, hshow, -⟩ := s.failStack_spec hst
  have hsame : (s.failStack st).rf (rCrn 0) 29 3 = s.rf (rCrn 0) 29 3 :=
    hshow.rf (by simp [rCrn, rHbm, rBoot]; omega) (by simp [eventReg, rCrn]) 29 3
  show execStackBringupEnd st false hard soft l s = _
  unfold execStackBringupEnd
  rw [hs, h1, if_pos (by decide), if_neg (by decide), State.recoverNext_normal _ (hsame.symm ▸ hcrn)]
  rfl

/-- A stack that passes its test is READY, with the blocks remapped that the test remaps. -/
theorem exec_stackBringupEnd_passed (hcrn : s.rf (rCrn 0) 29 3 ≠ 3) (h1 : s.hbmState st = 1) {hard soft : Nat} (hsoft : soft < 65536)
    (l : List Nat) : ∃ t, exec (.stackBringupEnd st true hard soft l) s = .next t ∧ (t.hbmState st = 2 ∧ t.rbit (rBoot 0x108) st = true)
      ∧ Tested s t st hard soft ∧ t.rbit (rHbm st 0) 28 = s.rbit (rHbm st 8) 0
      ∧ t.stack st = { l.foldl Stack.testRemap Stack.reset with lat := if s.rbit (rHbm st 8) 0 then List.range 32 else [] } := by
  have hst := hasStack_lt hs
  obtain ⟨hx, hstack⟩ := (s.modStack st fun _ => Stack.reset).testRepair_tested (hard := hard) hst hsoft l
  rw [State.stack_modStack_self] at hstack
  have htested : Tested s ((s.modStack st fun _ => Stack.reset).testRepair st hard soft l) st hard soft :=
    ⟨hx.repairs, hx.mem, hx.chk, hx.hppr, hx.hards, hx.softs, hx.rows⟩
  have hbatch : (((s.modStack st fun _ => Stack.reset).testRepair st hard soft l).stack st).batch = [] := by
    rw [hstack, Stack.foldl_testRemap_batch]
    rfl
  obtain ⟨hstate, hready, hmode, hlat⟩ := htested.ready hst hbatch
  refine ⟨_, ?_, hstate, hready, hmode, by rw [hlat, hstack]⟩
  have hsame := hready.repairs.rf (o := rCrn 0) (by simp [rCrn, rHbm, rBoot]; omega) (by simp [eventReg, rCrn]) 29 3
  show execStackBringupEnd st true hard soft l s = _
  unfold execStackBringupEnd
  rw [hs, h1, if_pos (by decide), if_pos rfl]
  exact congrArg ret (State.recovered_normal st (hsame.symm ▸ hcrn))

theorem exec_hbmMaintReq_idle (hup : s.hbmState st = 2 ∨ s.hbmState st = 4) (hc : (s.stack st).copying = []) :
    exec (.hbmMaintReq st) s = .next ((s.modStack st fun k => { k with wbuf := [], batch := [], rows := [] }).setStackState st 3) := by
  show ret (s.maintReq st) = _
  unfold State.maintReq
  have hgo : (s.hasStack st && (s.hbmState st == 2 || s.hbmState st == 4)) = true := by simpa [hs] using hup
  rw [if_pos hgo, hc, List.foldl_nil]
  dsimp only
  rw [hc, List.foldl_nil]
  rfl

/-- Maintenance that remaps and repairs no block. -/
theorem exec_hbmMaintDone_bare (h3 : s.hbmState st = 3) (hard soft : Nat) : exec (.hbmMaintDone st hard soft ⟨[], []⟩) s = .next
    ((((((s.testRepair st hard soft []).modStack st fun k => k).useHard st 0).repairStat st).schedApply st).setStackState st 2) := by
  have hgone (m : Tab (Option Remap)) (n : Nat) : (m.filter fun p => p.2.isSome && hasNat [] p.1).take n = [] := by
    have hnil : m.filter (fun p => p.2.isSome && hasNat [] p.1) = [] := by simp [hasNat]
    rw [hnil, List.take_nil]
  show execHbmMaintDone st hard soft ⟨[], []⟩ s = _
  unfold execHbmMaintDone
  rw [hs, h3, if_pos (by decide)]
  dsimp only
  rw [hgone]
  refine congrArg (fun z : State => ret ((((z.useHard st 0).repairStat st).schedApply st).setStackState st 2)) (State.modStack_congr _ ?_)
  simp [hasNat]

/-- A third command that is not answered fails the stack (R227). -/
theorem exec_hbmPcTimeout_third {pc : Nat} (hpc : pc < 32) (h5 : s.hbmState st ≠ 5) (h : 2 ≤ Tab.get 0 pc (s.stack st).timeouts) :
    exec (.hbmPcTimeout st pc false) s = .next (s.failStack st) := by
  rw [exec_hbmPcTimeout_eq hs hpc h5]
  exact congrArg _ (if_pos (Nat.succ_le_succ h))

end

section
variable {s : State} {st b timeS : Nat} (hst : st < 32) (hb : b < usable / 4096)
include hst hb

/-- A corrected error found on a block that is not tracked (R218, R220). -/
theorem State.corrected_spec (hv : s.vsp.covers (hbmAddr st (4096 * b) / 4096) = false) (hthr : s.rf (rHbm st 0x18) 0 8 = 0)
    (hk : (s.stack st).tracker = []) :
    let t := s.eccOutcome st (4096 * b) timeS .corrected
    Shows (s.modStack st fun k => { k with tracker := [⟨b, 1, timeS⟩] }) t [rHbm st 0x20, rHbm st 0x48]
      ∧ t.rf (rHbm st 0x20) 0 32 = Nat.min (s.rf (rHbm st 0x20) 0 32 + 1) (2 ^ 32 - 1)
      ∧ t.reg (rHbm st 0x48) = s.errWord st 1 (hbmAddr st (4096 * b)) := by
  obtain ⟨hshow, hcount, hlog⟩ := s.counted_spec (c := 0x20) (kind := 1) hst (by decide) (hbmAddr_lt hst hb)
  rw [State.eccOutcome_corrected hv hthr hk hst]
  exact ⟨hshow.modStack _, hcount, hlog⟩

/-- An uncorrectable error found on a block that has failed for the first time, while entries and spares last (R218, R220). -/
theorem State.uncorrectable_spec (hlost : b ∉ (s.stack st).lost) (hcopy : ∀ c ∈ (s.stack st).copying, c.block ≠ b)
    (hent : (s.stack st).entryOf b = none) (htaken : (s.stack st).taken.length < 196608)
    (hroom : (s.stack st).entries.length + (s.stack st).copying.length < 32768) :
    let t := s.eccOutcome st (4096 * b) timeS .uncorrectable
    let sp := lowestFree (s.stack st).taken
    Shows { (s.setChk (hbmAddr st (4096 * b) / 4096) poisonMark).modStack st fun k =>
          { k with taken := sp :: k.taken, copying := k.copying ++ [⟨b, sp, true⟩] } with backlog := t.backlog, jDropped := t.jDropped }
        t [rHbm st 0x28, rHbm st 0x48, rHbm st 0x40]
      ∧ t.rf (rHbm st 0x28) 0 32 = Nat.min (s.rf (rHbm st 0x28) 0 32 + 1) (2 ^ 32 - 1)
      ∧ t.reg (rHbm st 0x48) = s.errWord st 2 (hbmAddr st (4096 * b))
      ∧ t.backlog = s.backlog ++ [⟨0, s.rf (rBoot 0x10) 0 32, s.time, st, 3, 1, 0x21, toBytes 8 (t.reg (rHbm st 0x48)).toNat⟩] := by
  intro t sp
  obtain ⟨hshow, hcount, hlog⟩ := s.counted_spec (c := 0x28) (kind := 2) hst (by decide) (hbmAddr_lt hst hb)
  have ht : t = _ := State.eccOutcome_uncorrectable hlost
  clear_value t
  generalize (s.bump (rHbm st 0x28) 0 32 1).errLog st 2 (hbmAddr st (4096 * b)) = w at *
  have hpulse := hshow.pulse (514 + 4 * st)
  rw [State.contentLoss_eq] at ht
  generalize hR : ([⟨0, w.rf (rBoot 0x10) 0 32, w.time, st, 3, 1, 0x21, toBytes 8 (w.reg (rHbm st 0x48)).toNat⟩] : List JRec) = R at ht
  have hpoison := hpulse.map (fun z => ({ z with backlog := w.backlog ++ R } : State).setChk (hbmAddr st (4096 * b) / 4096) poisonMark)
    (fun _ _ _ => rfl) fun _ => rfl
  have hreg : (w.pulse (514 + 4 * st)).reg (rHbm st 0x48) = w.reg (rHbm st 0x48) := State.pulse_reg _ _ _ (rHbm_plain hst (by decide))
  have hcnt : (w.pulse (514 + 4 * st)).rf (rHbm st 0x28) 0 32 = w.rf (rHbm st 0x28) 0 32 :=
    State.rf_of_reg (State.pulse_reg _ _ _ (rHbm_plain hst (by decide))) 0 32
  have hk : ((({ w.pulse (514 + 4 * st) with backlog := w.backlog ++ R } : State).setChk (hbmAddr st (4096 * b) / 4096) poisonMark).stack st)
    = s.stack st := hpulse.stack st
  rw [State.blockFails_first true (hk ▸ hlost) (hk ▸ hcopy) (hk ▸ hent) (hk ▸ htaken) (hk ▸ hroom), hk] at ht
  have hspare := hpoison.modStack (st := st) fun k => { k with taken := sp :: k.taken, copying := k.copying ++ [⟨b, sp, true⟩] }
  have hstat (x : State) : Shows x (x.repairStat st) [rHbm st 0x40] := (Shows.refl x _).repairStat (List.mem_singleton_self _)
  have herr : t.reg (rHbm st 0x48) = w.reg (rHbm st 0x48) := by
    rw [ht]
    exact ((hstat _).regs _ (by simp [rHbm]) (rHbm_plain hst (by decide))).trans hreg
  have hall : Shows _ t [rHbm st 0x28, rHbm st 0x48, rHbm st 0x40] := ht ▸ (hspare.mono (by simp)).trans ((hstat _).mono (by simp))
  refine ⟨?_, ?_, herr.trans hlog, ?_⟩
  · exact Shows.logged (J := s.jDropped) hall
  · rw [← hcount, ← hcnt, ht]
    exact (hstat _).rf (by simp [rHbm]) (rHbm_plain hst (by decide)) 0 32
  · have hlog' : t.backlog = w.backlog ++ R := hall.get State.backlog fun _ _ _ => rfl
    rw [hlog', ← hR, herr, hshow.get State.backlog fun _ _ _ => rfl, hshow.rf (by simp [rHbm, rBoot]) (by simp [eventReg, rBoot]) 0 32,
      show w.time = s.time from hshow.regs (rCrn 8) (by simp [rHbm, rCrn]; omega) (by simp [eventReg, rCrn])]

/-- The end of the first copy of a block, with nothing held for it (R220, R223). -/
theorem State.remapDone_spec {c : Copy} (hcb : c.block = b) (hc : (s.stack st).copying.find? (fun d => d.block == b) = some c)
    (hheld : ∀ r ∈ (s.stack st).held, r.offset / 4096 ≠ b) (hagain : b ∉ (s.stack st).again) (hent : (s.stack st).entryOf b = none) :
    let t := s.remapDone st b
    let ix := lowestFree ((s.stack st).remaps.map (·.1))
    Shows { s.modStack st fun k => { k with
          copying := k.copying.filter (fun d => d.block != b), remaps := Tab.put none ix (some ⟨b, 1, c.spare, false⟩) k.remaps } with
        backlog := t.backlog, jDropped := t.jDropped }
        t [rHbm st 0x48, rHbm st 0x40]
      ∧ t.reg (rHbm st 0x48) = s.errWord st (if c.ue then 9 else 8) (hbmAddr st (4096 * b)) := by
  subst hcb
  intro t ix
  obtain ⟨d, hd⟩ := State.remapDone_first hc hheld hagain hent
  have ht : t = _ := hd
  clear_value t
  obtain ⟨B, J, hj⟩ := State.journalPut_logs ((((s.modStack st fun k => k.copied c ix).errLog st (if c.ue then 9 else 8)
    (hbmAddr st (4096 * c.block))).repairStat st).pulse (513 + 4 * st)) 0x20 0 3 st d
  have hpre := ((((Shows.refl (s.modStack st fun k => k.copied c ix) [rHbm st 0x48, rHbm st 0x40]).errLog (st := st) (by simp)
    (if c.ue then 9 else 8) (hbmAddr st (4096 * c.block))).repairStat (st := st) (by simp)).pulse (513 + 4 * st)).map
    (fun z => { z with backlog := B, jDropped := J }) (fun _ _ _ => rfl) fun _ => rfl
  have hreg : t.reg (rHbm st 0x48) = ((s.modStack st fun k => k.copied c ix).errLog st (if c.ue then 9 else 8)
      (hbmAddr st (4096 * c.block))).reg (rHbm st 0x48) := by
    rw [ht, hj]
    exact (((Shows.refl _ [rHbm st 0x40]).repairStat (by simp)).pulse (513 + 4 * st)).regs _ (by simp [rHbm]) (rHbm_plain hst (by decide))
  refine ⟨?_, hreg.trans (State.errLog_reg _ _ _ (hbmAddr_lt hst hb))⟩
  rw [← hj, ← ht] at hpre
  exact hpre.logged

end

/-! ### The statement -/

/-- Settles O39, clause by clause: the scrub by `State.corrected_spec` and `State.uncorrectable_spec`, the end of a copy by
`State.remapDone_spec`, a passed test by `Tested` with `Tested.ready`, and the two failures by `State.failStack_spec`. -/
theorem hbmRepair : Obligations.HbmRepair := by
  intro st b pc hard soft timeS spares s hs hb hpc k a err rep lat hards tested kinds logs status fails zeroed
  have hst := hasStack_lt hs
  have hb' : b < usable / 4096 := hb
  have ha : a - 4096 * b = hbmAddr st 0 := by
    show hbmAddr st (4096 * b) - 4096 * b = _
    unfold hbmAddr
    omega
  have tests {t : State} (h : Tested s t st hard soft) (hm : t.rbit (rHbm st 0) 28 = s.rbit (rHbm st 8) 0) : tested t :=
    ⟨h.hards, h.softs, h.hppr, h.rows, hm, h.repairs⟩
  have zeroes {t : State} (h : Tested s t st hard soft) : zeroed t := by
    have hmem (x : Nat) : Tab.get 0 x t.mem = if hbmAddr st 0 ≤ x ∧ x < hbmAddr st 0 + usable then 0 else Tab.get 0 x s.mem := by
      rw [h.mem, Tab.get_clear]
    have hchk (x : Nat) : t.chkOf x = if hbmAddr st 0 / 4096 ≤ x ∧ x < hbmAddr st 0 / 4096 + usable / 4096 then 0 else s.chkOf x := by
      unfold State.chkOf
      rw [h.chk, Tab.get_clear]
    show (∀ x, a - 4096 * b ≤ x → _) ∧ _
    rw [ha]
    exact ⟨fun x h1 h2 => (hmem x).trans (if_pos ⟨h1, h2⟩), fun x h1 h2 => (hchk x).trans (if_pos ⟨h1, h2⟩),
      fun x hx => (hmem x).trans (if_neg hx), fun x hx => (hchk x).trans (if_neg hx)⟩
  have failing {i : Instr} (hi : exec i s = .next (s.failStack st)) : fails i := by
    obtain ⟨hstate, hshow, hrest⟩ := s.failStack_spec hst
    exact ⟨_, hi, hstate, hshow, hrest⟩
  refine ⟨fun hscrub hup hv => ⟨?_, fun hthr hk => ?_, fun hlost hcopy hent htaken hroom => ?_⟩,
    fun c hc hcb huniq hheld hagain hent => ?_, exec_hbmWaveStart_cold hs, fun hcrn h1 hsoft => ⟨?_, ?_⟩, fun hup hc => ?_,
    fun h3 hbatch hsoft => ?_, fun h5 h2 => failing (exec_hbmPcTimeout_third hs hpc h5 h2)⟩
  · exact exec_hbmScrubRead_running hs hscrub hup hb' [] timeS
  · exact ⟨_, exec_hbmScrubRead_running hs hscrub hup hb' [.corrected] timeS, State.corrected_spec hst hb' hv hthr hk⟩
  · obtain ⟨hshow, hcount, hlog, hrec⟩ := s.uncorrectable_spec (timeS := timeS) hst hb' hlost hcopy (Stack.entryOf_none hent) htaken hroom
    exact ⟨_, _, exec_hbmScrubRead_running hs hscrub hup hb' [.uncorrectable] timeS, lowestFree_not_mem _, hshow, hcount, hlog, hrec⟩
  · have hfind : k.copying.find? (fun d => d.block == b) = some c := by
      have hsome : (k.copying.find? fun d => d.block == b).isSome = true := List.find?_isSome.2 ⟨c, hc, by simpa using hcb⟩
      obtain ⟨d, hd⟩ := Option.isSome_iff_exists.1 hsome
      rw [hd, huniq d (List.mem_of_find?_eq_some hd) (by simpa using List.find?_some hd)]
    obtain ⟨hshow, hlog⟩ := State.remapDone_spec hst hb' hcb hfind hheld hagain (Stack.entryOf_none hent)
    exact ⟨_, _, rfl, fun p hp h => lowestFree_not_mem _ (List.mem_map.2 ⟨p, hp, h⟩), hshow, hlog⟩
  · exact failing (exec_stackBringupEnd_failed hs hcrn h1 hard soft spares)
  · obtain ⟨t, ht, hstate, htested, hmode, hstack⟩ := exec_stackBringupEnd_passed hs hcrn h1 hsoft spares
    refine ⟨t, ht, hstate, zeroes htested, tests htested hmode, fun hle => ?_⟩
    rw [hstack, Stack.foldl_testRemap_reset hle]
  · obtain ⟨hshow, hstate, hboot, -⟩ := (s.modStack st fun k => { k with wbuf := [], batch := [], rows := [] }).setStackState_shows hst
      (v := 3) (by decide)
    exact ⟨_, exec_hbmMaintReq_idle hs hup hc, ⟨hstate, hboot⟩, hshow⟩
  · obtain ⟨htested, hstack⟩ := s.testRepair_tested (hard := hard) hst hsoft []
    have hdone := ((htested.modStack fun k => k).useHard_zero.repairStat hst)
    have hkept : ((((s.testRepair st hard soft []).modStack st fun k => k).useHard st 0).repairStat st).stack st = k := by
      rw [State.stack_repairStat, State.stack_useHard, State.stack_modStack_self, hstack, List.foldl_nil]
    have hexec := exec_hbmMaintDone_bare hs h3 hard soft
    generalize (((s.testRepair st hard soft []).modStack st fun k => k).useHard st 0).repairStat st = w at hdone hkept hexec
    obtain ⟨hstate, hready, hmode, hlat⟩ := hdone.ready hst (hkept ▸ hbatch)
    exact ⟨_, hexec, hstate, zeroes hready, tests hready hmode, by rw [hlat, hkept]⟩

end Sys2Proof.Machine
end

section
/-! DMA channels: their status registers and their work, channel control and the clearing of halts (O36). -/

namespace Sys2Proof

/-- A write through a mask does not see a bit that the mask leaves alone. -/
theorem mergeMask_setBit {n : Nat} {m : BitVec n} (w v : BitVec n) {i : Nat} (b : Bool) (h : m.getLsbD i = false) :
    mergeMask m w (setBit v i b) = mergeMask m w v := by
  refine BitVec.eq_of_getLsbD_eq fun k hk => ?_
  unfold mergeMask setBit
  simp only [BitVec.getLsbD_or, BitVec.getLsbD_and, getLsbD_setFld _ _ _ _ _ hk]
  by_cases hi : k = i
  · rw [hi, h, Bool.and_false, Bool.and_false]
  · rw [if_neg (by omega)]

end Sys2Proof

namespace Sys2Proof.Machine

/-! ### Channels and their status registers (R247, R248) -/

@[simp] theorem State.chan_modChan_self (s : State) (ch : Nat) (f : DChan → DChan) : (s.modChan ch f).chan ch = f (s.chan ch) :=
  Tab.get_put_self _ _ _ _

@[simp] theorem State.modChan_modChan (s : State) (ch : Nat) (f g : DChan → DChan) :
    (s.modChan ch f).modChan ch g = s.modChan ch fun k => g (f k) := by
  simp [State.modChan, State.chan, Tab.put_put]

/-- What a channel becomes is all that a change of it says. -/
theorem State.modChan_congr (s : State) {ch : Nat} {f g : DChan → DChan} (h : f (s.chan ch) = g (s.chan ch)) :
    s.modChan ch f = s.modChan ch g := by
  unfold State.modChan
  rw [h]

theorem coreCh_core {c n : Nat} (hc : c < 64) (hn : n < 4) : coreCh (4 * c + n) = true := decide_eq_true (by omega)

theorem coreCh_die (d j : Nat) : coreCh (256 + 8 * d + j) = false := decide_eq_false (by omega)

theorem chStat_core {c n : Nat} (hc : c < 64) (hn : n < 4) : chStat (4 * c + n) = rCore c (0x2000 + 0x100 * n) := by
  unfold chStat
  rw [coreCh_core hc hn, if_pos rfl, show (4 * c + n) / 4 = c by omega, show (4 * c + n) % 4 = n by omega]

theorem chStat_die (d : Nat) {j : Nat} (hj : j < 8) : chStat (256 + 8 * d + j) = rDma d (0x100 * j + 0x10) := by
  unfold chStat
  rw [coreCh_die, if_neg (by decide), show (256 + 8 * d + j - 256) / 8 = d by omega, show (256 + 8 * d + j) % 8 = j by omega]

theorem rDma_plain (d o : Nat) : ¬ eventReg (rDma d o) := by
  unfold eventReg rDma
  omega

/-- The status register of a channel is not one that events show in. -/
theorem chStat_plain (ch : Nat) : ¬ eventReg (chStat ch) := by
  unfold chStat
  split
  · unfold eventReg rCore
    omega
  · exact rDma_plain _ _

/-- State and address take their values, and another field of the status register stands. -/
theorem State.setCh_spec (s : State) (ch : Nat) {st : Nat} (hst : st < 4) (addr : Nat) : (s.setCh ch st addr).chState ch = st
    ∧ (s.setCh ch st addr).rf (chStat ch) 0 43 = addr % 2 ^ 43
    ∧ ∀ lo len, 43 ≤ lo → lo + len ≤ 62 → (s.setCh ch st addr).rf (chStat ch) lo len = s.rf (chStat ch) lo len := by
  have hreg : (s.setCh ch st addr).reg (chStat ch) = ((s.setRf (chStat ch) 62 2 st).setRf (chStat ch) 0 43 addr).reg (chStat ch) := by
    unfold State.setCh
    dsimp only
    split
    · rfl
    · exact State.setLevel_reg _ _ _ _ (chStat_plain ch)
  unfold State.chState
  simp only [State.rf_of_reg hreg]
  refine ⟨?_, State.rf_setRf _ _ _ _ _ (by omega), fun lo len hlo hhi => ?_⟩
  · rw [State.rf_setRf_ne _ _ _ _ _ _ _ (by omega), State.rf_setRf _ _ _ _ _ (by omega)]
    exact Nat.mod_eq_of_lt hst
  · rw [State.rf_setRf_ne _ _ _ _ _ _ _ (by omega), State.rf_setRf_ne _ _ _ _ _ _ _ (by omega)]

section
variable {s t : State} {os : List Nat} (h : Shows s t os)
include h

/-- State and address of a channel show in its status register and in the halted level. -/
theorem Shows.setCh {ch : Nat} (ho : chStat ch ∈ os) (st addr : Nat) : Shows s (t.setCh ch st addr) os := by
  have hregs := (h.setRf (chStat ch) 62 2 st (.inl ho)).setRf (chStat ch) 0 43 addr (.inl ho)
  unfold State.setCh
  dsimp only
  split
  · exact hregs
  · exact hregs.setLevel _ _

/-- The change of a channel, beside what shows. -/
theorem Shows.modChan (ch : Nat) (f : DChan → DChan) : Shows (s.modChan ch f) (t.modChan ch f) os :=
  h.map (fun z => z.modChan ch f) (fun _ _ _ => rfl) fun _ => rfl

end

/-! ### Channel control (R239, R246, R248) -/

/-- A write of a control bit above the count leaves the fields written as they are. -/
theorem State.rwReg_ctl (s : State) (o : Nat) (v : W64) {i : Nat} (h : (0x7FFFF : W64).getLsbD i = false) :
    s.rwReg o 0x7FFFF (setBit v i true) = s.rwReg o 0x7FFFF v := by
  unfold State.rwReg
  rw [mergeMask_setBit _ _ _ h]

/-- abort at a channel that Vespers does not own marks its list to end after the descriptor in progress (R246). -/
theorem State.chAbort_free {s : State} {d j : Nat} (hv : s.vspOwns j = false) :
    s.chAbort d j = s.modWork (256 + 8 * d + j) fun w => { w with stop := true } :=
  if_neg (Bool.eq_false_iff.1 hv)

section
variable {d j : Nat} {s : State} (hd : s.hasDie d = true) (hj : j < 8)
include hd hj

/-- go without abort, at a channel that is not halted or without clr_halt. -/
theorem exec_dmaChGo_eq {v : W64} (h62 : bit v 62 = false)
    (hclr : bit v 61 = false ∨ s.chState (256 + 8 * d + j) ≠ 2) :
    exec (.dmaChGo d j v) s = .next ((s.rwReg (rDma d (0x100 * j + 8)) 0x7FFFF v).chGo d j) := by
  have h61 : (bit (setBit v 63 true) 61 && s.chState (256 + 8 * d + j) == 2) = false := by
    rw [bit_setBit_ne _ _ _ _ (by decide)]
    rcases hclr with h | h <;> simp [h]
  show ret (s.chCtrl d j (setBit v 63 true)) = _
  unfold State.chCtrl ret
  simp only [hd, hasDie_lt hd, hj, h61, decide_true, Bool.and_self, if_true, bit_setBit v 63 true (by decide),
    bit_setBit_ne v 63 62 true (by decide), h62, State.rwReg_ctl s _ v (i := 63) (by decide)]
  rfl

/-- abort without clr_halt: go beside it is turned away. -/
theorem exec_dmaChAbort_eq {v : W64} (hv : s.vspOwns j = false) (h61 : bit v 61 = false) : exec (.dmaChAbort d j v) s = .next
    (let t := (s.rwReg (rDma d (0x100 * j + 8)) 0x7FFFF v).modWork (256 + 8 * d + j) fun w => { w with stop := true }
     if bit v 63 then t.setRbit (chStat (256 + 8 * d + j)) 60 true else t) := by
  have habort := State.chAbort_free (s := s.rwReg (rDma d (0x100 * j + 8)) 0x7FFFF v) (d := d) hv
  show ret (s.chCtrl d j (setBit v 62 true)) = _
  unfold State.chCtrl ret
  simp only [hd, hasDie_lt hd, hj, decide_true, Bool.and_self, if_true, bit_setBit v 62 true (by decide),
    bit_setBit_ne v 62 61 true (by decide), bit_setBit_ne v 62 63 true (by decide), h61, Bool.false_and,
    State.rwReg_ctl s _ v (i := 62) (by decide)]
  rw [habort]
  rfl

theorem exec_dmaChClrHalt_eq : exec (.dmaChClrHalt d j) s = .next (s.chClear (256 + 8 * d + j)) := by
  show ret (if _ then _ else _) = _
  rw [if_pos (by simp [hd, hasDie_lt hd, hj])]
  rfl

end

theorem exec_coreDmaClrHalt_eq {c n : Nat} {s : State} (hc : c < 64) (hn : n < 4) (hk : s.hasCore c = true) :
    exec (.coreDmaClrHalt c n) s = .next (s.chClear (4 * c + n)) := by
  show ret (if _ then _ else _) = _
  rw [if_pos (by simp [hc, hn, hk])]
  rfl

/-- go at an idle channel with a list: it runs from the head, for the count of DMA_CH_CTRL (R236, R248). -/
theorem State.chGo_idle {s : State} {d j : Nat} (hv : s.vspOwns j = false) (h0 : s.chState (256 + 8 * d + j) = 0)
    (hn : s.rf (rDma d (0x100 * j + 8)) 0 19 ≠ 0) (ha : s.rf (rDma d (0x100 * j)) 0 43 % 64 = 0) :
    s.chGo d j = (s.modChan (256 + 8 * d + j) fun k => { k with work := some ⟨none, s.rf (rDma d (0x100 * j)) 0 43,
      s.rf (rDma d (0x100 * j + 8)) 0 19, none, false, false, false⟩ }).setCh (256 + 8 * d + j) 1 0 := by
  unfold State.chGo
  simp [h0, hv, hn, ha]

/-- go at a channel that is not idle is turned away (R248). -/
theorem State.chGo_busy {s : State} {d j : Nat} (h : s.chState (256 + 8 * d + j) ≠ 0) :
    s.chGo d j = s.setRbit (chStat (256 + 8 * d + j)) 60 true := by
  unfold State.chGo
  simp [h]

theorem State.chClear_other {s : State} {ch : Nat} (h : s.chState ch ≠ 2) : s.chClear ch = s := if_neg h

/-- A halted channel of a core is cleared (R239, R247). -/
theorem State.chClear_core {s : State} {ch : Nat} (h : s.chState ch = 2) (hc : coreCh ch = true) :
    s.chClear ch = (s.setRf (chStat ch) 62 2 0).setRf (chStat ch) 0 43 0 := by
  unfold State.chClear State.setCh
  simp only [h, hc, if_true]

/-- A halted channel of a die is cleared, with its format error (R239, R248). -/
theorem State.chClear_die {s : State} {ch : Nat} (h : s.chState ch = 2) (hc : coreCh ch = false) :
    s.chClear ch = (s.setRbit (chStat ch) 61 false).setCh ch 0 0 := by
  unfold State.chClear
  simp only [h, hc]
  rfl

/-- Settles O36, clause by clause: go (`State.chGo_idle`, `State.chGo_busy`), abort, and the clearing of halts of a die and of a core. -/
theorem dmaChannels : Obligations.DmaChannels := by
  intro d j c n v s hd4 hj hd hv hc hn hk ch head ctl stat
  have hstat : chStat ch = stat := chStat_die d hj
  have hne : stat ≠ ctl := by show rDma d _ ≠ rDma d _; unfold rDma; omega
  have hhead : rDma d (0x100 * j) ≠ ctl := by show rDma d _ ≠ rDma d _; unfold rDma; omega
  have hmem : chStat ch ∈ [stat] := hstat ▸ List.mem_singleton_self _
  have hstate : (s.rwReg ctl 0x7FFFF v).chState ch = s.chState ch :=
    State.rf_of_reg (State.reg_rwReg_ne s _ v (by rw [hstat]; exact hne)) _ _
  refine ⟨fun h0 hcnt h62 hal => ?_, fun h1 h62 h61 => ?_, fun h61 => ?_, fun h2 => ?_, fun h2 => ?_, fun h2 => ?_, fun h2 => ?_⟩
  · have hcount : (s.rwReg ctl 0x7FFFF v).rf ctl 0 19 = fld v 0 19 := State.rf_rwReg s ctl v (by decide)
    have hlist : (s.rwReg ctl 0x7FFFF v).rf (rDma d (0x100 * j)) 0 43 = head := State.rf_of_reg (State.reg_rwReg_ne s _ v hhead) _ _
    rw [exec_dmaChGo_eq hd hj h62 (.inr (by show s.chState ch ≠ 2; omega)),
      State.chGo_idle (s := s.rwReg ctl 0x7FFFF v) hv (hstate.trans h0) (hcount ▸ hcnt) (hlist ▸ hal), hcount, hlist]
    let run (u : State) : State := u.modChan ch fun k => { k with work := some ⟨none, head, fld v 0 19, none, false, false, false⟩ }
    have hrun : Shows (run s) (run (s.rwReg ctl 0x7FFFF v)) [ctl, stat] :=
      ((Shows.refl s _).rwReg ctl 0x7FFFF v (.inl List.mem_cons_self)).modChan ch _
    have hset : Shows (run (s.rwReg ctl 0x7FFFF v)) ((run (s.rwReg ctl 0x7FFFF v)).setCh ch 1 0) [stat] := (Shows.refl _ _).setCh hmem 1 0
    have ⟨hst, haddr, _⟩ := State.setCh_spec (run (s.rwReg ctl 0x7FFFF v)) ch (st := 1) (by decide) 0
    exact ⟨_, rfl, hrun.trans (hset.mono (List.subset_cons_self _ _)), hst, hstat ▸ haddr,
      (hset.rf (by simpa using hne.symm) (rDma_plain _ _) 0 19).trans hcount⟩
  · rw [exec_dmaChGo_eq hd hj h62 (.inl h61), State.chGo_busy (by show State.chState _ ch ≠ 0; rw [hstate, h1]; decide), hstat]
  · rw [exec_dmaChAbort_eq hd hj hv h61, hstat]
    rfl
  · rw [exec_dmaChClrHalt_eq hd hj, State.chClear_die h2 (coreCh_die d j), hstat]
    have ⟨hst, haddr, hrest⟩ := State.setCh_spec (s.setRbit stat 61 false) ch (st := 0) (by decide) 0
    rw [hstat] at haddr hrest
    have hshow := ((Shows.refl s [stat]).setRbit stat 61 false (.inl (by simp))).setCh hmem 0 0
    refine ⟨_, rfl, hshow, hst, haddr, ?_, (hrest 48 8 (by omega) (by omega)).trans (State.rf_setRf_ne _ _ _ _ _ _ _ (by omega))⟩
    rw [State.rbit, bit_eq_fld, beq_eq_false_iff_ne]
    refine ne_of_eq_of_ne (hrest 61 1 (by omega) (by omega)) ?_
    rw [State.setRbit, State.rf, State.reg_setReg_self, setBit, fld_setFld _ _ _ _ (by decide)]
    decide
  · rw [exec_dmaChClrHalt_eq hd hj, State.chClear_other h2]
  · rw [exec_coreDmaClrHalt_eq hc hn hk, State.chClear_core h2 (coreCh_core hc hn), chStat_core hc hn]
  · rw [exec_coreDmaClrHalt_eq hc hn hk, State.chClear_other h2]

end Sys2Proof.Machine
end

section
/-! DMA transfers: the lines of a unit that moves between core stores (O37). -/

namespace Sys2Proof.Machine

/-! ### Memory beside a write -/

/-- A change of what is no memory, and leaves what holds data, commutes with a write. -/
theorem State.map_poke {g : State → State} (hg : ∀ (z : State) m, g { z with mem := m } = { g z with mem := m })
    (hl : ∀ (z : State) a, (g z).live a = z.live a) (d : Bytes) : ∀ (s : State) (a : Nat), g (s.poke a d) = (g s).poke a d := by
  have hmem (z : State) : (g z).mem = z.mem := by
    have h := congrArg State.mem (hg z z.mem)
    exact h
  have hbyte (s : State) (a : Nat) (b : Byte) : g (s.putByte a b) = (g s).putByte a b := by
    unfold State.putByte
    rw [hl, hmem, apply_ite g, hg]
  induction d with
  | nil => exact fun _ _ => rfl
  | cons b d ih => exact fun s a => (ih _ _).trans (congrArg (State.poke · (a + 1) d) (hbyte s a b))

theorem State.poke_append (d e : Bytes) : ∀ (s : State) (a : Nat), s.poke a (d ++ e) = (s.poke a d).poke (a + d.length) e := by
  induction d with
  | nil => exact fun _ _ => rfl
  | cons b d ih =>
    intro s a
    rw [List.cons_append, State.poke, ih, State.poke, List.length_cons]
    congr 1
    omega

/-- A read apart from the bytes written. -/
theorem State.read_poke_apart (s : State) {a x n : Nat} {d : Bytes} (h : x + n ≤ a ∨ a + d.length ≤ x) : (s.poke a d).read x n = s.read x n := by
  unfold State.read
  refine List.map_congr_left fun i hi => ?_
  have hi := List.mem_range.1 hi
  rw [State.byte_poke, if_neg (by omega)]

/-! ### Ranges of a core store that a channel reaches (R21, R41, R235) -/

/-- Bytes of a core store that is mounted, its die alive and reached by the channel's die. -/
def State.Reaches (s : State) (ch a n : Nat) : Prop :=
  ∃ c o, a = storeAddr c o ∧ c < 64 ∧ o + n ≤ 0x1800000 ∧ s.hasCore c = true ∧ hasNat s.deadDies (c / 16) = false
    ∧ (s.dieRoute (chDie ch) (c / 16)).isSome = true

/-- Routes hang on the groups alone. -/
theorem State.dieRoute_congr {s t : State} (h : ∀ g, t.joined g = s.joined g) (r d : Nat) : t.dieRoute r d = s.dieRoute r d := by
  have hopen : ∀ (l : List Nat) (r : Nat), t.routeOpen r l = s.routeOpen r l := by
    intro l
    induction l with
    | nil => exact fun _ => rfl
    | cons e l ih => exact fun r => by rw [State.routeOpen, State.routeOpen, h, ih]
  unfold State.dieRoute
  rw [show t.routeOpen r = s.routeOpen r from funext fun l => hopen l r]

/-- What a channel reaches hangs on the parts mounted, the dies alive and the groups. -/
theorem State.Reaches.congr {s t : State} {ch a n : Nat} (h : s.Reaches ch a n) (hk : t.hasCore = s.hasCore)
    (hd : t.deadDies = s.deadDies) (hg : t.joined = s.joined) : t.Reaches ch a n := by
  obtain ⟨c, o, ha, hc, ho, h1, h2, h3⟩ := h
  exact ⟨c, o, ha, hc, ho, hk ▸ h1, hd ▸ h2, (State.dieRoute_congr (congrFun hg) _ _).symm ▸ h3⟩

section
variable {s : State} {ch a n : Nat} (h : s.Reaches ch a n)
include h

theorem State.Reaches.sub {off m : Nat} (hm : off + m ≤ n) : s.Reaches ch (a + off) m := by
  obtain ⟨c, o, rfl, hc, ho, hrest⟩ := h
  exact ⟨c, o + off, Nat.add_assoc _ _ _, hc, by omega, hrest⟩

theorem State.Reaches.poke (x : Nat) (d : Bytes) : (s.poke x d).Reaches ch a n :=
  h.congr (State.poke_get State.hasCore (fun _ _ => rfl) d s x) (State.poke_get State.deadDies (fun _ _ => rfl) d s x)
    (State.poke_get State.joined (fun _ _ => rfl) d s x)

variable (hn : 0 < n)
include hn

theorem State.Reaches.region : ∃ c o, region a = .store c o := by
  obtain ⟨c, o, rfl, hc, ho, -⟩ := h
  exact ⟨c, o, region_storeAddr hc (by omega)⟩

theorem State.Reaches.dEnd : s.dEnd ch a = .here a := by
  obtain ⟨c, o, rfl, hc, ho, hk, hd, hroute⟩ := h
  have hr := region_storeAddr (o := o) hc (by omega)
  have hlt : storeAddr c o < 2 ^ 43 := by unfold storeAddr; omega
  have hdie : dieOfAddr (storeAddr c o) = c / 16 := by unfold dieOfAddr; rw [hr]
  have hpop : s.populated (storeAddr c o) = true := by unfold State.populated; rw [hr]; exact hk
  unfold State.dEnd
  simp only [hlt, if_true, hr, hpop, hdie, hroute, Bool.or_true, Bool.and_self]

theorem State.Reaches.poisoned : s.poisoned a = false := by
  obtain ⟨c, o, rfl, hc, ho, hk, hd, hroute⟩ := h
  have hr := region_storeAddr (o := o) hc (by omega)
  unfold State.poisoned State.dead
  simp only [hr, hd, Bool.or_self, Bool.and_false]

/-- A write within one block. -/
theorem State.Reaches.store {d : Bytes} (hd : d.length = n) (hb : a % 4096 + d.length ≤ 4096) (gen : Bool) : s.store a d gen = s.poke a d := by
  obtain ⟨c, o, rfl, hc, ho, -⟩ := h
  exact State.store_core gen hc (by omega) (by omega) hb

end

/-- No byte of a range that is reached is dropped. -/
theorem State.Reaches.endSilent {s : State} {ch a n : Nat} (h : s.Reaches ch a n) : s.endSilent ch a n = none := by
  unfold State.endSilent
  rw [List.find?_eq_none]
  intro b hb
  obtain ⟨j, hj, rfl⟩ := List.mem_map.1 hb
  have hj := List.mem_range.1 hj
  unfold ceilDiv at hj
  rw [(h.sub (off := 64 * j) (m := 1) (by omega)).dEnd Nat.one_pos]
  exact Bool.false_ne_true

/-! ### Bytes rearranged (R173, R241) -/

theorem flatten_chunksOf {α : Type} {k : Nat} (hk : 0 < k) : ∀ (fuel : Nat) (l : List α), l.length ≤ fuel → (chunksOf k fuel l).flatten = l := by
  intro fuel
  induction fuel with
  | zero => exact fun l h => (List.eq_nil_of_length_eq_zero (Nat.le_zero.1 h)).symm ▸ rfl
  | succ fuel ih =>
    intro l h
    cases l with
    | nil => rfl
    | cons x xs =>
      rw [chunksOf, List.flatten_cons, ih _ (by rw [List.length_drop]; omega), List.take_append_drop]

/-- Bytes rearranged within units are as many as before. -/
theorem length_flatMap_chunksOf {k : Nat} (hk : 0 < k) {f : Bytes → Bytes} (hf : ∀ q, (f q).length = q.length) (d : Bytes) :
    ((chunksOf k d.length d).flatMap f).length = d.length := by
  conv => rhs; rw [← flatten_chunksOf hk d.length d (Nat.le_refl _)]
  rw [List.length_flatMap, List.length_flatten, List.map_congr_left fun q _ => hf q]

@[simp] theorem length_swapBytes (mode : Nat) (d : Bytes) : (swapBytes mode d).length = d.length := by
  unfold swapBytes
  split
  · exact length_flatMap_chunksOf (by decide) (fun _ => List.length_reverse) d
  · exact length_flatMap_chunksOf (by decide) (fun _ => List.length_reverse) d
  · exact length_flatMap_chunksOf (by decide) (fun q => by rw [List.length_append, List.length_drop, List.length_take]; omega) d
  · rfl

/-! ### The transfer in progress -/

/-- The transfer in progress of a channel replaced. -/
def State.withCur (s : State) (ch : Nat) (c : DCur) : State := s.modCur ch fun _ => c

theorem State.modCur_withCur (s : State) (ch : Nat) (c : DCur) (f : DCur → DCur) : (s.withCur ch c).modCur ch f = s.withCur ch (f c) := by
  unfold State.withCur State.modCur State.modWork
  rw [State.modChan_modChan]
  refine State.modChan_congr _ ?_
  cases (s.chan ch).work with
  | none => rfl
  | some w => cases hc : w.cur <;> simp [hc]

theorem State.modCur_eq {s : State} {ch : Nat} {c : DCur} (h : s.cur ch = some c) (f : DCur → DCur) : s.modCur ch f = s.withCur ch (f c) := by
  unfold State.cur at h
  unfold State.withCur State.modCur State.modWork
  refine State.modChan_congr _ ?_
  cases hw : (s.chan ch).work with
  | none => simp [hw] at h
  | some w =>
    rw [hw] at h
    simp [show w.cur = some c from h]

theorem State.cur_withCur {s : State} {ch : Nat} (h : (s.cur ch).isSome = true) (c : DCur) : (s.withCur ch c).cur ch = some c := by
  unfold State.cur at h
  unfold State.cur State.withCur State.modCur State.modWork
  rw [State.chan_modChan_self]
  cases hw : (s.chan ch).work with
  | none => simp [hw] at h
  | some w => cases hc : w.cur <;> simp [hw, hc] at h ⊢

theorem State.cur_poke (s : State) (ch a : Nat) (d : Bytes) : (s.poke a d).cur ch = s.cur ch :=
  State.poke_get (fun z => z.cur ch) (fun _ _ => rfl) d s a

theorem State.modCur_poke (s : State) (ch a : Nat) (f : DCur → DCur) (d : Bytes) : (s.poke a d).modCur ch f = (s.modCur ch f).poke a d :=
  State.map_poke (g := fun z => z.modCur ch f) (fun _ _ => rfl) (fun _ _ => rfl) d s a

end Sys2Proof.Machine
end

section
/-! DMA transfers: a unit moves line by line, block by block (O37). -/

namespace Sys2Proof.Machine

/-! ### Pieces of a destination block (R242) -/

/-- Pieces of 64 bytes that follow one another are one. -/
theorem joinParts_lines (b : Nat) {line : Nat → Bytes} (hl : ∀ j, (line j).length = 64) (n m : Nat) :
    joinParts ((List.range' m (n + 1)).map fun j => (b + 64 * j, line j)) = [(b + 64 * m, (List.range' m (n + 1)).flatMap line)] := by
  induction n generalizing m with
  | zero => simp [joinParts]
  | succ n ih =>
    rw [List.range'_succ, List.map_cons, joinParts, ih (m + 1)]
    simp only [hl]
    rw [if_pos (by omega), List.flatMap_cons]

theorem length_flatMap_lines {line : Nat → Bytes} (hl : ∀ j, (line j).length = 64) (l : List Nat) : (l.flatMap line).length = 64 * l.length := by
  induction l with
  | nil => rfl
  | cons j l ih => rw [List.flatMap_cons, List.length_append, hl, ih, List.length_cons]; omega

/-- The pieces of one block are written together, as one run within it. -/
theorem State.dmaFlush_block {s : State} {ch : Nat} (hs : (s.cur ch).isSome = true) (x : Xfer) {c : DCur} {a key : Nat} {e : Bytes}
    (hkey : ∀ p ∈ c.parts, p.1 / 4096 = key) (hjoin : joinParts c.parts = [(a, e)]) (h : s.Reaches ch a e.length) (he : 0 < e.length)
    (hb : a % 4096 + e.length ≤ 4096) (b : Nat) (d : Bytes) : ((s.withCur ch c).poke b d).dmaFlush ch x key
      = ((s.withCur ch { c with parts := [] }).poke b d).poke a e := by
  have hall : c.parts.filter (fun p => p.1 / 4096 == key) = c.parts := List.filter_eq_self.2 fun p hp => beq_iff_eq.2 (hkey p hp)
  have hnone : c.parts.filter (fun p => p.1 / 4096 != key) = [] := List.filter_eq_nil_iff.2 fun p hp => by simp [hkey p hp]
  have hreach : ((s.withCur ch { c with parts := [] }).poke b d).Reaches ch a e.length :=
    State.Reaches.poke (h.congr (t := s.withCur ch { c with parts := [] }) rfl rfl rfl) b d
  unfold State.dmaFlush
  rw [State.cur_poke, State.cur_withCur hs]
  dsimp only
  rw [State.modCur_poke, State.modCur_withCur, hall, hnone, hjoin, List.foldl_cons, List.foldl_nil, State.dmaWrite, hreach.dEnd he]
  exact hreach.store he rfl hb _

/-! ### Lines (R233, R235, R241) -/

/-- Bytes that lie within the extents wait for the rest of their block. -/
theorem State.dmaPut_whole (s : State) (ch a : Nat) {d : Bytes} {room : Nat} (hd : 0 < d.length) (h : 8 * d.length ≤ room) :
    s.dmaPut ch a d room = s.modCur ch fun c => { c with parts := c.parts ++ [(a, d)] } := by
  unfold State.dmaPut State.dmaSink
  rw [if_pos h, if_neg]
  rw [List.isEmpty_iff]
  exact List.ne_nil_of_length_pos hd

/-- A line of a core store goes to the destination as it is read. -/
theorem State.moveLine_reached {s : State} {ch : Nat} {x : Xfer} {i off : Nat} (h : s.Reaches ch (x.src i + off) 64) :
    s.moveLine ch x i off = s.dmaLine ch x i off (s.read (x.src i + off) 64) := by
  obtain ⟨c, o, hr⟩ := h.region (by decide)
  unfold State.moveLine
  rw [h.dEnd (by decide)]
  simp only [hr, h.poisoned (by decide), Bool.false_and, Bool.false_eq_true, and_false, if_false]

/-- Line j of unit i, rearranged. -/
def State.unitLine (s : State) (x : Xfer) (i j : Nat) : Bytes := swapBytes x.swap (s.read (x.src i + 64 * j) 64)

@[simp] theorem State.length_unitLine (s : State) (x : Xfer) (i j : Nat) : (s.unitLine x i j).length = 64 := by
  rw [State.unitLine, length_swapBytes, State.read_length]

/-- The lines of unit i from m up to k, as they wait for their block. -/
def State.pieces (s : State) (x : Xfer) (i m k : Nat) : List (Nat × Bytes) :=
  (List.range' m (k - m)).map fun j => (x.dst i + 64 * j, s.unitLine x i j)

theorem State.pieces_succ (s : State) (x : Xfer) (i : Nat) {m k : Nat} (h : m ≤ k) :
    s.pieces x i m (k + 1) = s.pieces x i m k ++ [(x.dst i + 64 * k, s.unitLine x i k)] := by
  unfold State.pieces
  rw [Nat.succ_sub h, List.range'_1_concat, List.map_append, List.map_singleton, Nat.add_sub_cancel' h]

/-- A transfer that has read the lines of unit i up to k. -/
def DCur.atLine (c : DCur) (x : Xfer) (i k : Nat) : DCur :=
  { c with moved := c.moved + 64 * k, toUnit := if x.len ≤ 64 * k then i + 1 else i, toOff := if x.len ≤ 64 * k then 0 else 64 * k }

theorem DCur.atLine_succ (c : DCur) (x : Xfer) (i k : Nat) : c.atLine x i (k + 1) = { c.atLine x i k with
    moved := (c.atLine x i k).moved + 64, toUnit := if x.len ≤ 64 * k + 64 then i + 1 else i,
    toOff := if x.len ≤ 64 * k + 64 then 0 else 64 * k + 64 } := by
  unfold DCur.atLine
  simp only [Nat.mul_succ, Nat.add_assoc]

/-- A part whose channel has read the lines of unit i up to k and written those up to m. -/
def State.atLine (s : State) (ch : Nat) (x : Xfer) (c : DCur) (i k m : Nat) : State :=
  (s.withCur ch { c.atLine x i k with parts := s.pieces x i m k }).poke (x.dst i) ((List.range m).flatMap (s.unitLine x i))

theorem State.Reaches.atLine {s : State} {ch a l : Nat} (h : s.Reaches ch a l) (x : Xfer) (c : DCur) (i k m : Nat) :
    (s.atLine ch x c i k m).Reaches ch a l :=
  State.Reaches.poke (h.congr (t := s.withCur ch _) rfl rfl rfl) _ _

/-- Unit i is n lines between core stores, apart from each other, and its destination's last block is written with it (R233, R235, R242). -/
structure State.Moves (s : State) (ch : Nat) (x : Xfer) (i n : Nat) : Prop where
  runs    : (s.cur ch).isSome = true
  len     : x.len = 64 * n
  srcBits : x.srcBits i = 8 * x.len
  dstBits : x.dstBits i = 8 * x.len
  src     : s.Reaches ch (x.src i) x.len
  dst     : s.Reaches ch (x.dst i) x.len
  aligned : x.dst i % 64 = 0
  apart   : x.src i + x.len ≤ x.dst i ∨ x.dst i + x.len ≤ x.src i
  ends    : x.goesOn i = false ∨ (x.dst i + x.len) % 4096 = 0

section
variable {s : State} {ch : Nat} {x : Xfer} {i n : Nat} (h : s.Moves ch x i n) (c : DCur) {k m : Nat}
include h

theorem State.Moves.cur_atLine : (s.atLine ch x c i k m).cur ch = some { c.atLine x i k with parts := s.pieces x i m k } :=
  (State.cur_poke _ _ _ _).trans (State.cur_withCur h.runs _)

/-- The source still reads as it did. -/
theorem State.Moves.read_atLine (hk : k < n) (hm : m ≤ k) : (s.atLine ch x c i k m).read (x.src i + 64 * k) 64 = s.read (x.src i + 64 * k) 64 := by
  have hlen := h.len
  have hlines : ((List.range m).flatMap (s.unitLine x i)).length = 64 * m := by
    rw [length_flatMap_lines (s.length_unitLine x i), List.length_range]
  refine State.read_poke_apart _ ?_
  rw [hlines]
  rcases h.apart with ha | ha <;> omega

/-- The lines that wait are written as one run, after those written before. -/
theorem State.Moves.flush (hk : k < n) (hm : m ≤ k) (hblk : (x.dst i + 64 * m) / 4096 = (x.dst i + 64 * k) / 4096) {c' : DCur}
    (hparts : c'.parts = s.pieces x i m (k + 1)) :
    ((s.withCur ch c').poke (x.dst i) ((List.range m).flatMap (s.unitLine x i))).dmaFlush ch x ((x.dst i + 64 * k) / 4096)
      = (s.withCur ch { c' with parts := [] }).poke (x.dst i) ((List.range (k + 1)).flatMap (s.unitLine x i)) := by
  have hlen := h.len
  have hal := h.aligned
  have hl := s.length_unitLine x i
  have hjoin : joinParts c'.parts = [(x.dst i + 64 * m, (List.range' m (k - m + 1)).flatMap (s.unitLine x i))] := by
    rw [hparts, State.pieces, Nat.succ_sub hm]
    exact joinParts_lines _ hl _ _
  have hrun : ((List.range' m (k - m + 1)).flatMap (s.unitLine x i)).length = 64 * (k - m + 1) := by
    rw [length_flatMap_lines hl, List.length_range']
  rw [State.dmaFlush_block h.runs x (fun p hp => ?_) hjoin (hrun ▸ h.dst.sub (by omega)) (by omega) (by omega)]
  · have hsplit : (List.range (k + 1)).flatMap (s.unitLine x i)
        = (List.range m).flatMap (s.unitLine x i) ++ (List.range' m (k - m + 1)).flatMap (s.unitLine x i) := by
      rw [← List.flatMap_append, List.range_eq_range', List.range_eq_range', show k + 1 = m + (k - m + 1) by omega,
        ← List.range'_append_1, Nat.zero_add]
    rw [hsplit, State.poke_append, length_flatMap_lines hl, List.length_range]
  · rw [hparts] at hp
    obtain ⟨j, hj, rfl⟩ := List.mem_map.1 hp
    have hj := List.mem_range'_1.1 hj
    show (x.dst i + 64 * j) / 4096 = _
    omega

/-- One line more: with it the block or the unit may end, and is written. -/
theorem State.Moves.moveLine (hk : k < n) (hm : m ≤ k) (hblk : (x.dst i + 64 * m) / 4096 = (x.dst i + 64 * k) / 4096) :
    (s.atLine ch x c i k m).moveLine ch x i (64 * k)
      = s.atLine ch x c i (k + 1) (if (x.dst i + 64 * (k + 1)) % 4096 = 0 ∨ k + 1 = n then k + 1 else m) := by
  have hlen := h.len
  have hline : swapBytes x.swap (keepBits (x.srcBits i - 8 * (64 * k)) (s.read (x.src i + 64 * k) 64)) = s.unitLine x i k := by
    rw [State.unitLine, keepBits, State.read_length, h.srcBits, if_pos (by omega)]
  have hput : (s.atLine ch x c i k m).dmaPut ch (x.dst i + 64 * k) (s.unitLine x i k) (x.dstBits i - 8 * (64 * k))
      = (s.withCur ch { c.atLine x i k with parts := s.pieces x i m (k + 1) }).poke (x.dst i) ((List.range m).flatMap (s.unitLine x i)) := by
    rw [State.dmaPut_whole _ _ _ (by rw [State.length_unitLine]; decide) (by rw [State.length_unitLine, h.dstBits]; omega), State.atLine,
      State.modCur_poke, State.modCur_withCur, State.pieces_succ s x i hm]
  have hcond : ((x.dst i + 64 * k + 64) % 4096 = 0 ∨ (decide (x.len ≤ 64 * k + 64) && !x.goesOn i) = true)
      ↔ ((x.dst i + 64 * (k + 1)) % 4096 = 0 ∨ k + 1 = n) := by
    rw [Bool.and_eq_true, decide_eq_true_eq, Bool.not_eq_true', ← Nat.mul_succ, Nat.add_assoc, ← Nat.mul_succ]
    have hends := h.ends
    rw [hlen] at hends
    constructor
    · rintro (h0 | ⟨h1, -⟩)
      · exact .inl h0
      · exact .inr (by omega)
    · rintro (h0 | rfl)
      · exact .inl h0
      · exact hends.symm.imp id fun hg => ⟨by omega, hg⟩
  rw [State.moveLine_reached ((h.src.sub (by omega)).atLine x c i k m), h.read_atLine c hk hm, State.dmaLine]
  rw [hline, hput, State.read_length]
  have hdone : s.pieces x i (k + 1) (k + 1) = [] := by rw [State.pieces, Nat.sub_self]; rfl
  by_cases hc : (x.dst i + 64 * (k + 1)) % 4096 = 0 ∨ k + 1 = n
  · rw [if_pos hc, if_pos (by rw [Bool.or_eq_true, decide_eq_true_eq]; exact hcond.2 hc), h.flush hk hm hblk rfl, State.modCur_poke,
      State.modCur_withCur, State.atLine, DCur.atLine_succ, hdone]
  · rw [if_neg hc, if_neg (by rw [Bool.or_eq_true, decide_eq_true_eq]; exact fun hn => hc (hcond.1 hn)), State.modCur_poke,
      State.modCur_withCur, State.atLine, DCur.atLine_succ]

/-- The lines that are left of a unit are moved, and it is written whole (R233, R242). -/
theorem State.Moves.dmaPump (hunit : c.unit = i + 1) (hcode : c.code = 0) (hhold : c.hold = false) (r : Nat) : ∀ fuel k m,
    k + r = n → r ≤ fuel → m ≤ k → (x.dst i + 64 * m) / 4096 = (x.dst i + 64 * k) / 4096 → (k = n → m = n) →
    State.dmaPump ch x fuel (s.atLine ch x c i k m) = s.atLine ch x c i n n := by
  have hlen := h.len
  induction r with
  | zero =>
    intro fuel k m hk _ _ _ hend
    obtain rfl : k = n := hk
    cases fuel with
    | zero => rw [hend rfl]; rfl
    | succ fuel =>
      rw [State.dmaPump, h.cur_atLine c, hend rfl]
      refine if_pos ?_
      simp [DCur.atLine, hcode, hhold, hunit, hlen]
  | succ r ih =>
    intro fuel k m hk hfuel hm hblk _
    obtain ⟨fuel, rfl⟩ := Nat.exists_eq_add_of_lt (Nat.lt_of_lt_of_le (Nat.succ_pos r) hfuel)
    have hal := h.aligned
    have hleft : ¬ x.len ≤ 64 * k := by omega
    have hto : (c.atLine x i k).toUnit = i ∧ (c.atLine x i k).toOff = 64 * k := ⟨if_neg hleft, if_neg hleft⟩
    rw [Nat.zero_add, State.dmaPump, h.cur_atLine c]
    dsimp only
    rw [if_neg (by simp [DCur.atLine, hcode, hhold, hunit, hleft]), hto.1, hto.2, (h.src.atLine x c i k m).dEnd (by omega)]
    dsimp only
    rw [h.moveLine c (by omega) hm hblk]
    refine ih fuel (k + 1) _ (by omega) (by omega) ?_ ?_ ?_
    · split <;> omega
    · split
      · rfl
      · next hc => omega
    · exact fun hkn => by rw [if_pos (.inr hkn), hkn]

end

/-- A unit between core stores counts no violation (R41, R161). -/
theorem State.Moves.unitViol {s : State} {ch : Nat} {x : Xfer} {i n : Nat} (h : s.Moves ch x i n) (hsrc : x.srcOut i = 0)
    (hdst : x.dstOut i = 0) : s.unitViol ch x i = s := by
  have hceil : ceilDiv (8 * x.len) 8 = x.len := by unfold ceilDiv; omega
  unfold State.unitViol
  simp only [hsrc, hdst, State.dmaViol, h.srcBits, h.dstBits, hceil, h.src.endSilent, h.dst.endSilent, if_true]

/-- The next unit of a channel with nothing left to write: it is moved whole, and counted (R233). -/
theorem State.Moves.moveUnit {s : State} {ch : Nat} {x : Xfer} {c : DCur} {n : Nat} (h : s.Moves ch x c.unit n) (hn : 0 < n)
    (hcur : s.cur ch = some c) (hsrc : x.srcOut c.unit = 0) (hdst : x.dstOut c.unit = 0) (hleft : c.unit < x.n) (hcode : c.code = 0)
    (hto : c.toUnit = c.unit) (hoff : c.toOff = 0) (hhold : c.hold = false) (hparts : c.parts = []) :
    s.moveUnit ch x = (s.withCur ch { c with unit := c.unit + 1, toUnit := c.unit + 1, moved := c.moved + x.len }).poke (x.dst c.unit)
      ((List.range n).flatMap (s.unitLine x c.unit)) := by
  have hlen := h.len
  let c' : DCur := { c with unit := c.unit + 1 }
  have hstart : s.modCur ch (fun c => { c with unit := c.unit + 1 }) = s.atLine ch x c' c.unit 0 0 := by
    have hfirst : { c'.atLine x c.unit 0 with parts := s.pieces x c.unit 0 0 } = c' := by
      unfold DCur.atLine State.pieces
      rw [if_neg (by omega), if_neg (by omega), DCur.mk.injEq]
      simp [c', hto, hoff, hparts]
    rw [State.modCur_eq hcur, State.atLine, hfirst]
    rfl
  have hend : s.atLine ch x c' c.unit n n
      = (s.withCur ch { c with unit := c.unit + 1, toUnit := c.unit + 1, moved := c.moved + x.len }).poke (x.dst c.unit)
        ((List.range n).flatMap (s.unitLine x c.unit)) := by
    unfold State.atLine DCur.atLine State.pieces
    rw [if_pos (Nat.le_of_eq hlen), if_pos (Nat.le_of_eq hlen), Nat.sub_self, ← hlen]
    simp only [c', hoff, hparts]
    rfl
  unfold State.moveUnit
  rw [hcur]
  dsimp only
  rw [if_neg (by simp [hcode, hleft]), h.unitViol hsrc hdst, hstart, (h.src.atLine x c' c.unit 0 0).dEnd (by omega)]
  dsimp only
  rw [State.dmaRun, h.cur_atLine c', ← hend]
  refine h.dmaPump c' rfl hcode hhold n _ 0 0 (Nat.zero_add n) ?_ (Nat.le_refl _) rfl fun h0 => h0
  rw [show (c'.atLine x c.unit 0).toUnit = c.unit from if_neg (by omega)]
  show n ≤ (c.unit + 1 - c.unit) * (x.len / 64 + 1) + 1
  rw [Nat.add_sub_cancel_left, hlen]
  omega

end Sys2Proof.Machine
end

section
/-! DMA transfers: a descriptor begins, moves its units and completes (O37). -/

namespace Sys2Proof.Machine

/-! ### What an engine's write may touch beside memory (R213, R215, R460) -/

/-- `t` is `s` but for memory, check words, the blocks that are read again or snapshot, registers, what leaves and the journal's backlog. -/
def Wrote (s t : State) : Prop :=
  { t with mem := s.mem, chk := s.chk, rechecks := s.rechecks, vsp := s.vsp, regs := s.regs, out := s.out, backlog := s.backlog,
           jDropped := s.jDropped } = s

/-- What a write does not touch stands. -/
theorem Wrote.get {s t : State} {α : Type} (h : Wrote s t) (f : State → α)
    (hf : ∀ (z : State) m c r v g o b j,
      f { z with mem := m, chk := c, rechecks := r, vsp := v, regs := g, out := o, backlog := b, jDropped := j } = f z) : f t = f s := by
  have := congrArg f h
  rw [hf] at this
  exact this

section
variable {s t : State} (h : Wrote s t)
include h

theorem Wrote.pulse (n : Nat) : Wrote s (t.pulse n) := by
  have hrest := (State.pulse_raised (Raised.refl t) n).rest
  unfold Wrote at h ⊢
  rw [← hrest] at h
  exact h

theorem Wrote.errLog (st kind a : Nat) : Wrote s (t.errLog st kind a) := by
  unfold State.errLog
  split <;> exact h

theorem Wrote.journalPut (kind cls uclass unit : Nat) (d : Bytes) : Wrote s (t.journalPut kind cls uclass unit d) := by
  unfold State.journalPut
  split <;> exact h

theorem Wrote.reportLost (st kind a : Nat) : Wrote s (t.reportLost st kind a) :=
  Wrote.journalPut (Wrote.pulse (t := (t.errLog st kind a).bump (rHbm st 0x30) 16 16 1) (h.errLog st kind a) _) _ _ _ _ _

/-- One verification of a block. -/
theorem Wrote.verifyBlock (who a : Nat) : Wrote s (t.verifyBlock who a).1 := by
  unfold State.verifyBlock
  split
  · next st o hr =>
    have hdrop : Wrote s (t.dropRecheck who (a / 4096)) := h
    have hpassed : Wrote s (if t.rereads who (a / 4096) then (t.dropRecheck who (a / 4096)).transient st a
        else t.dropRecheck who (a / 4096)) := by
      split
      · exact hdrop.errLog st 3 a
      · exact hdrop
    dsimp only
    split
    · exact hdrop.reportLost _ _ _
    · split
      · exact hpassed
      · split
        · exact hpassed
        · split
          · exact hdrop.reportLost _ _ _
          · exact h
  · exact h

theorem Wrote.verifyNow (who a : Nat) : Wrote s (t.verifyNow who a).1 := by
  unfold State.verifyNow
  dsimp only
  split
  · exact h.verifyBlock who a
  · exact (h.verifyBlock who a).verifyBlock who a

theorem Wrote.vspTouch (key : Nat) : Wrote s (t.vspTouch key) := by
  have hread : Wrote s (t.verifyNow 361 (4096 * key)).1 := h.verifyNow 361 (4096 * key)
  unfold State.vspTouch
  dsimp only
  split
  · split
    · split <;> exact hread
    · split <;> exact h
  · exact h

theorem Wrote.poke (a : Nat) (d : Bytes) : Wrote s (t.poke a d) := by
  have hrest := State.poke_rest d t a
  unfold Wrote at h ⊢
  rw [← hrest] at h
  exact h

theorem Wrote.hbmPart (a : Nat) (d : Bytes) (gen : Bool) : Wrote s (t.hbmPart a d gen) := by
  have hput : Wrote s ((t.vspTouch (a / 4096)).poke a d) := (h.vspTouch _).poke a d
  unfold State.hbmPart
  dsimp only
  split
  · split
    · exact hput
    · split <;> exact hput
  · exact h

end

theorem State.store_wrote (s : State) (a : Nat) (d : Bytes) (gen : Bool) : Wrote s (s.store a d gen) := by
  have hall : ∀ (l : List (Nat × Bytes)) (t : State), Wrote s t → Wrote s (l.foldl (fun t p =>
      match region p.1 with
      | .hbm _ _ => t.hbmPart p.1 p.2 gen
      | .store _ _ => t.poke p.1 p.2
      | _ => t) t) := by
    intro l
    induction l with
    | nil => exact fun _ h => h
    | cons p l ih =>
      refine fun t h => ih _ ?_
      dsimp only
      split
      · exact h.hbmPart _ _ _
      · exact h.poke _ _
      · exact h
  exact hall _ s rfl

/-! ### A channel beside its memory and its registers -/

theorem State.modChan_poke (s : State) (ch a : Nat) (f : DChan → DChan) (d : Bytes) : (s.poke a d).modChan ch f = (s.modChan ch f).poke a d :=
  State.map_poke (g := fun z => z.modChan ch f) (fun _ _ => rfl) (fun _ _ => rfl) d s a

theorem State.setPaced_poke (s : State) (ch a : Nat) (w : DWork) (on : Option Nat) (d : Bytes) :
    (s.poke a d).setPaced ch w on = (s.setPaced ch w on).poke a d := by
  refine State.map_poke (g := fun z => z.setPaced ch w on) (fun z m => ?_) (fun z b => ?_) d s a
  all_goals unfold State.setPaced; split <;> rfl

@[simp] theorem State.chan_setPaced (s : State) (c ch : Nat) (w : DWork) (on : Option Nat) : (s.setPaced c w on).chan ch = s.chan ch := by
  unfold State.setPaced
  split <;> rfl

@[simp] theorem State.reg_setPaced (s : State) (c o : Nat) (w : DWork) (on : Option Nat) : (s.setPaced c w on).reg o = s.reg o := by
  unfold State.setPaced
  split <;> rfl

theorem State.setPaced_die (s : State) (ch : Nat) {w : DWork} (h : w.entry = none) (on : Option Nat) : s.setPaced ch w on = s := by
  unfold State.setPaced
  rw [h]

theorem Shows.setPaced {s t : State} {os : List Nat} (h : Shows s t os) (ch : Nat) (w : DWork) (on : Option Nat) :
    Shows (s.setPaced ch w on) (t.setPaced ch w on) os := by
  refine h.map (fun z => z.setPaced ch w on) (fun z r o => ?_) fun z => ?_
  all_goals unfold State.setPaced; split <;> rfl

theorem Shows.paceCredit {s t : State} {os : List Nat} (h : Shows s t os) (src : Nat) : Shows (s.paceCredit src) (t.paceCredit src) os :=
  h.map (fun z => z.paceCredit src) (fun _ _ _ => rfl) fun _ => rfl

/-- A wait that is removed from a core's own list does not end its work (R246). -/
theorem State.released_setPaced (s : State) (ch c : Nat) (w v : DWork) (on : Option Nat) : (s.setPaced c v on).released ch w = s.released ch w := by
  unfold State.setPaced
  split
  · rfl
  · next e he =>
    unfold State.released State.modCore Core.ending
    rw [State.core_setCore]
    split
    · next hc => rw [hc]
    · rfl

/-- A list of descriptors is not a DMA.TD, which alone completes by itself. -/
theorem State.tdSettle_list {s : State} {ch : Nat} (h : ∀ w, (s.chan ch).work = some w → w.td = none) : s.tdSettle ch = s := by
  unfold State.tdSettle
  split
  · rfl
  · next w hw =>
    rw [h w hw]
    split
    · next heq => cases heq
    · rfl

end Sys2Proof.Machine
end

section
/-! DMA transfers: the commands of a descriptor on a channel, and O37. -/

namespace Sys2Proof.Machine

/-! ### DMA_DESC_BEGIN (R234, R235, R243, R244) -/

/-- The transfer of a descriptor that has just been read; one that moves nothing is done, with code 1 (R244). -/
def DCur.read (a : Nat) (d : BitVec 512) : DCur := ⟨a, d, 0, 0, 0, 0, if (descXfer d).empty then 1 else 0, 0, [], false, []⟩

section
variable {s : State} {ch : Nat} {w : DWork} (hw : (s.chan ch).work = some w) (htd : w.td = none) (hp : s.pwrFail = false)
  (hm : s.midnight = false) (hrel : s.released ch w = false)
include hw htd hp hm hrel

/-- A descriptor in good format is read from a core store, and its channel shows it. -/
theorem exec_dmaDescBegin_reads (hcur : w.cur = none) (ha : s.Reaches ch w.head 64) {d : BitVec 512}
    (hd : d = BitVec.ofNat 512 (s.readN w.head 64)) (hbad : descBad ch d = false) (hmis : (descXfer d).misaligned = none) :
    exec (.dmaDescBegin ch none) s = .next (
      let w' : DWork := { w with cur := some (DCur.read w.head d) }
      let t := (s.modChan ch fun k => { k with work := some w' }).setCh ch 1 w.head
      if (descXfer d).empty then t else t.beginXfer ch w' (descXfer d)) := by
  show execDmaDescBegin ch none s = _
  unfold execDmaDescBegin
  rw [hp, hm, hw]
  simp only [hcur, htd, hrel, ha.dEnd (by decide), ha.poisoned (by decide)]
  rw [← State.readN, ← hd, hbad, hmis]
  rfl

/-- A unit starts on a credit (R243). -/
theorem exec_dmaUnitStart_credit {c : DCur} (hcur : w.cur = some c) (hhold : c.hold = false) (hcode : c.code = 0)
    (hleft : c.unit < (descXfer c.w).n) (hpaced : (descXfer c.w).paced ch = true) (h3 : (descXfer c.w).pace ≠ 3)
    (hcred : (s.chan ch).credit = true) : exec (.dmaUnitStart ch none) s = .next (
      let t := (s.modChan ch fun k => { k with credit := false }).moveUnit ch (descXfer c.w)
      (if (descXfer c.w).n ≤ c.unit + 1 then t.setPaced ch w none else t).tdSettle ch) := by
  have hx : w.xfer c = descXfer c.w := by unfold DWork.xfer; rw [htd]
  show execDmaUnitStart ch none s = _
  unfold execDmaUnitStart
  rw [hp, hm, hw]
  simp only [hcur, hx, hhold, hcode, hrel, hpaced, h3, hcred, Nat.not_le.2 hleft]
  rfl

end

theorem paced_of_paceSrc {ch pace id src : Nat} (h : paceSrc ch pace id = some src) : pace = 1 ∨ pace = 2 := by
  match pace with
  | 0 => cases h
  | 1 => exact .inl rfl
  | 2 => exact .inr rfl
  | _ + 3 => cases h

/-- A transfer that is paced by a timer or another channel waits; a credit that its source gave before stands (R243). -/
theorem State.beginXfer_waits {t : State} {ch : Nat} {w : DWork} {x : Xfer} {src : Nat} (hsrc : paceSrc ch x.pace x.paceId = some src)
    (hne : src ≠ 2 * ch + 1) (hrel : t.released ch w = false) : t.beginXfer ch w x =
      (if (t.chan ch).src = some src then t
        else t.modChan ch fun k => { k with src := some src, credit := false }).setPaced ch w none := by
  have hpace : x.pace ≠ 0 ∧ x.pace ≠ 3 := by
    have := paced_of_paceSrc hsrc
    omega
  have hpaced : x.paced ch = true := by
    unfold Xfer.paced
    rw [hsrc]
    simp [hpace.1, hne]
  unfold State.beginXfer
  rw [hsrc, hrel, hpaced]
  simp only [hpace.2]
  rfl

/-- A descriptor that waits for its source's credits: the channel shows it, and holds no credit of another source. -/
theorem State.descWaits_shows {s : State} {ch : Nat} {w : DWork} {x : Xfer} {src : Nat} (hsrc : paceSrc ch x.pace x.paceId = some src)
    (hne : src ≠ 2 * ch + 1) (hrel : s.released ch w = false) (c : DCur) (a : Nat) :
    let w' : DWork := { w with cur := some c }
    let t := ((s.modChan ch fun k => { k with work := some w' }).setCh ch 1 a).beginXfer ch w' x
    Shows ((s.modChan ch fun k => ⟨some w', some src, k.src == some src && k.credit⟩).setPaced ch w none) t [chStat ch]
      ∧ t.chState ch = 1 ∧ t.rf (chStat ch) 0 43 = a % 2 ^ 43 := by
  intro w' t
  let run := s.modChan ch fun k => { k with work := some w' }
  let u := run.setCh ch 1 a
  have hset : Shows run u [chStat ch] := (Shows.refl _ _).setCh (List.mem_singleton_self _) 1 a
  have ⟨hst, haddr, _⟩ := State.setCh_spec run ch (st := 1) (by decide) a
  have hchan : (u.chan ch).src = (s.chan ch).src :=
    (hset.get (fun z => (z.chan ch).src) fun _ _ _ => rfl).trans (by rw [State.chan_modChan_self])
  have ht : t = (if (s.chan ch).src = some src then u else u.modChan ch fun k => { k with src := some src, credit := false }).setPaced ch w none := by
    have hrel' : u.released ch w' = false := (hset.get (fun z => z.released ch w') fun _ _ _ => rfl).trans hrel
    exact hchan ▸ State.beginXfer_waits hsrc hne hrel'
  have hreg : t.reg (chStat ch) = u.reg (chStat ch) := by
    rw [ht, State.reg_setPaced]
    split <;> rfl
  refine ⟨?_, (State.rf_of_reg hreg _ _).trans hst, (State.rf_of_reg hreg _ _).trans haddr⟩
  rw [ht]
  refine Shows.setPaced ?_ ch w none
  by_cases hsame : (s.chan ch).src = some src
  · rw [if_pos hsame, State.modChan_congr s (g := fun k => { k with work := some w' }) (by simp [hsame])]
    exact hset
  · rw [if_neg hsame, State.modChan_congr s (g := fun _ => ⟨some w', some src, false⟩) (by simp [hsame])]
    have hboth : (run.modChan ch fun k => { k with src := some src, credit := false }) = s.modChan ch fun _ => ⟨some w', some src, false⟩ :=
      State.modChan_modChan s ch _ _
    rw [← hboth]
    exact hset.modChan ch _

/-! ### DMA_UNIT_START (R233, R235, R241 to R243) -/

/-- The units of a paced transfer are visible one by one where no checks are generated (R242, R243). -/
theorem Xfer.goesOn_paced {x : Xfer} {ch : Nat} (hpaced : x.paced ch = true) (hgen : x.check % 2 = 0) (i : Nat) : x.goesOn i = false := by
  have hpace : x.pace ≠ 0 := fun h0 => by
    unfold Xfer.paced at hpaced
    rw [h0] at hpaced
    cases hpaced
  unfold Xfer.goesOn
  simp [hgen, hpace]

/-- A paced unit between core stores: it takes the credit, and its bytes are stored, rearranged. -/
theorem exec_dmaUnitStart_moves {s : State} {ch : Nat} {w : DWork} {c : DCur} (hw : (s.chan ch).work = some w) (htd : w.td = none)
    (hp : s.pwrFail = false) (hm : s.midnight = false) (hrel : s.released ch w = false) (hcur : w.cur = some c)
    (hleft : c.unit < (descXfer c.w).n) (hcode : c.code = 0) (hpaced : (descXfer c.w).paced ch = true) (h3 : (descXfer c.w).pace ≠ 3)
    (hcred : (s.chan ch).credit = true) (hto : c.toUnit = c.unit) (hoff : c.toOff = 0) (hhold : c.hold = false) (hparts : c.parts = [])
    {n : Nat} (hn : 0 < n) (h : s.Moves ch (descXfer c.w) c.unit n) : ∃ t, exec (.dmaUnitStart ch none) s = .next t
      ∧ Stored (let u := s.modChan ch fun k => ⟨some { w with cur := some { c with
            unit := c.unit + 1, toUnit := c.unit + 1, moved := c.moved + (descXfer c.w).len } }, k.src, false⟩
          if (descXfer c.w).n ≤ c.unit + 1 then u.setPaced ch w none else u) t ((descXfer c.w).dst c.unit)
        ((List.range n).flatMap (s.unitLine (descXfer c.w) c.unit)) := by
  let x := descXfer c.w
  let c' : DCur := { c with unit := c.unit + 1, toUnit := c.unit + 1, moved := c.moved + x.len }
  let s' := s.modChan ch fun k => { k with credit := false }
  let u := s.modChan ch fun k => ⟨some { w with cur := some c' }, k.src, false⟩
  let d := (List.range n).flatMap (s.unitLine x c.unit)
  have hcur' : s'.cur ch = some c := by
    rw [State.cur, State.chan_modChan_self, hw]
    exact hcur
  have h' : s'.Moves ch x c.unit n := ⟨by rw [hcur']; rfl, h.len, h.srcBits, h.dstBits, h.src.congr rfl rfl rfl, h.dst.congr rfl rfl rfl,
    h.aligned, h.apart, h.ends⟩
  have hmove : s'.moveUnit ch x = u.poke (x.dst c.unit) d := by
    rw [h'.moveUnit hn hcur' rfl rfl hleft hcode hto hoff hhold hparts, State.withCur, State.modCur, State.modWork, State.modChan_modChan]
    refine congrArg (State.poke · _ _) (State.modChan_congr s ?_)
    simp [hw, hcur, c']
  have hend : (if x.n ≤ c.unit + 1 then (s'.moveUnit ch x).setPaced ch w none else s'.moveUnit ch x)
      = (if x.n ≤ c.unit + 1 then u.setPaced ch w none else u).poke (x.dst c.unit) d := by
    rw [hmove, State.setPaced_poke, apply_ite (State.poke · (x.dst c.unit) d)]
  refine ⟨_, exec_dmaUnitStart_credit hw htd hp hm hrel hcur hhold hcode hleft hpaced h3 hcred, ?_⟩
  dsimp only
  rw [hend, State.tdSettle_list fun v hv => ?_]
  · exact State.poke_stored _ _ _
  · rw [State.poke_get (fun z => z.chan ch) (fun _ _ => rfl)] at hv
    have hchan : (if x.n ≤ c.unit + 1 then u.setPaced ch w none else u).chan ch = u.chan ch := by
      split
      · exact State.chan_setPaced _ _ _ _ _
      · rfl
    rw [hchan, State.chan_modChan_self] at hv
    obtain rfl := Option.some.inj hv
    exact htd

/-! ### DMA_DESC_COMPLETE (R236, R243 to R246) -/

/-- The code of a channel takes its value, and the channel's state stands. -/
theorem State.setChCode_spec (s : State) (ch : Nat) {code : Nat} (h : code < 256) :
    (s.setChCode ch code).rf (chStat ch) 48 8 = code ∧ (s.setChCode ch code).chState ch = s.chState ch :=
  ⟨(State.rf_setRf s (chStat ch) 48 8 code (by decide)).trans (Nat.mod_eq_of_lt h),
    State.rf_setRf_ne s (chStat ch) 48 8 code 62 2 (.inl (by decide))⟩

/-- The list after a descriptor. -/
def DWork.after (w : DWork) (c : DCur) : DWork :=
  ⟨w.entry, if bit c.w 72 then fld c.w 85 43 else c.addr + 64, w.left - 1, none, w.bad || c.code == 0x30, w.some' || 0 < c.moved, w.stop⟩

/-- The part after a descriptor has completed, before its list goes on or ends: its status is written, it is counted, and those paced
by the channel have their credit. -/
def State.descDone (s : State) (ch : Nat) (w : DWork) (c : DCur) : State :=
  let t := (((s.writeBack c).setPaced ch w none).dmaCount ch).modChan ch fun k => { k with work := some (w.after c) }
  if coreCh ch then t.setChCode ch c.code else t

/-- A status word in a core store (R234, R245). -/
theorem State.writeBack_stored {s : State} {c : DCur} {ch : Nat} (hb : bit c.w 70 = true) (ha : s.Reaches ch c.addr 8) (hal : c.addr % 64 = 0) :
    Stored s (s.writeBack c) c.addr (toBytes 8 (c.code * 2 ^ 56 + 2 ^ 55 + Nat.min c.moved (2 ^ 48 - 1))) := by
  rw [State.writeBack, if_pos hb, ha.store (by decide) (toBytes_length _ _) (by rw [toBytes_length]; omega)]
  exact State.poke_stored _ _ _

theorem State.writeBack_wrote (s : State) (c : DCur) : Wrote s (s.writeBack c) := by
  unfold State.writeBack
  split
  · exact s.store_wrote _ _ _
  · rfl

/-- Whether waits are released hangs on the cores and on the list's own mark (R246). -/
theorem State.released_of_cores {s t : State} (h : t.cores = s.cores) (ch : Nat) {v w : DWork} (hstop : v.stop = w.stop) :
    t.released ch v = s.released ch w := by
  unfold State.released State.core
  rw [h, hstop]

/-- Writing a status, counting and giving credits release no wait (R246). -/
theorem State.released_descDone (s : State) (ch : Nat) (w : DWork) (c : DCur) : (s.descDone ch w c).released ch (w.after c) = s.released ch w := by
  have hcores : (s.descDone ch w c).cores = ((s.writeBack c).setPaced ch w none).cores := by
    have hcount (z : State) : (z.dmaCount ch).cores = z.cores := by unfold State.dmaCount; dsimp only; split <;> rfl
    have hcode (z : State) : (if coreCh ch then z.setChCode ch c.code else z).cores = z.cores := by split <;> rfl
    unfold State.descDone
    dsimp only
    rw [hcode]
    exact hcount _
  calc (s.descDone ch w c).released ch (w.after c)
      = ((s.writeBack c).setPaced ch w none).released ch w := State.released_of_cores hcores ch rfl
    _ = (s.writeBack c).released ch w := State.released_setPaced _ _ _ _ _ _
    _ = s.released ch w := (s.writeBack_wrote c).get (fun z => z.released ch w) fun _ _ _ _ _ _ _ _ _ => rfl

section
variable {s : State} {ch : Nat} {w : DWork} (hw : (s.chan ch).work = some w) (htd : w.td = none) (hm : s.midnight = false)
  {c : DCur} (hcur : w.cur = some c) (hall : c.allWritten (descXfer c.w) = true) (hwait : c.waiting = 0)
include hw htd hm hcur hall hwait

theorem exec_dmaDescComplete_eq (hrel : s.released ch w = false) (hcode : c.code < 0x31) : exec (.dmaDescComplete ch) s = .next (
    if w.left - 1 = 0 ∨ bit c.w 71 = true then (s.descDone ch w c).endWork ch ((w.after c).listCode false)
    else (s.descDone ch w c).setCh ch 1 0) := by
  have hx : w.xfer c = descXfer c.w := by unfold DWork.xfer; rw [htd]
  have hhalt : (c.code == 0x31) = false := by rw [beq_eq_false_iff_ne]; omega
  have hstay := (s.released_descDone ch w c).trans hrel
  show execDmaDescComplete ch s = _
  unfold execDmaDescComplete
  rw [hm, hw]
  simp only [hcur, htd, hx, hall, hwait, hhalt]
  rw [if_neg (by decide), if_pos (by decide)]
  show ret (if (false || w.left - 1 == 0 || bit c.w 71 || (s.descDone ch w c).released ch (w.after c)) = true then
    (s.descDone ch w c).endWork ch ((w.after c).listCode false) else (s.descDone ch w c).setCh ch 1 0) = _
  simp only [hstay, Bool.false_or, Bool.or_false, Bool.or_eq_true, beq_iff_eq]
  rfl

end

/-- DMA_CH_DONE of a die channel (R248). -/
def chDone (ch : Nat) : Nat := rDma ((ch - 256) / 8) (0x100 * (ch % 8) + 0x18)

/-- The registers in which the end of a descriptor shows. -/
def doneRegs (ch : Nat) : List Nat := if coreCh ch then [chStat ch] else [chStat ch, chDone ch]

theorem chStat_mem_doneRegs (ch : Nat) : chStat ch ∈ doneRegs ch := by
  unfold doneRegs
  split <;> exact List.mem_cons_self

theorem chStat_ne_chDone {ch : Nat} (h : coreCh ch = false) : chStat ch ≠ chDone ch := by
  unfold chStat chDone rDma
  rw [h, if_neg (by decide)]
  omega

/-- What the end of a descriptor shows before its list goes on or ends: the code of a core's channel, the count of a die's. -/
theorem State.descDone_shows (s : State) (ch : Nat) (w : DWork) {c : DCur} (hcode : c.code < 256) :
    Shows ((((s.writeBack c).setPaced ch w none).paceCredit (2 * ch + 1)).modChan ch fun k => { k with work := some (w.after c) })
      (s.descDone ch w c) (doneRegs ch)
    ∧ (s.descDone ch w c).rf (chStat ch) 48 8 = (if coreCh ch then c.code else (s.writeBack c).rf (chStat ch) 48 8)
    ∧ (s.descDone ch w c).chState ch = (s.writeBack c).chState ch
    ∧ (coreCh ch = false →
        (s.descDone ch w c).rf (chDone ch) 0 32 = Nat.min ((s.writeBack c).rf (chDone ch) 0 32 + 1) (2 ^ 32 - 1)) := by
  let p := (s.writeBack c).setPaced ch w none
  let after (z : State) : State := (z.paceCredit (2 * ch + 1)).modChan ch fun k => { k with work := some (w.after c) }
  have hreg (o lo len : Nat) : p.rf o lo len = (s.writeBack c).rf o lo len := State.rf_of_reg (State.reg_setPaced _ _ _ _ _) _ _
  cases hcc : coreCh ch with
  | true =>
    have hdone : s.descDone ch w c = (after p).setChCode ch c.code := by
      unfold State.descDone State.dmaCount
      rw [hcc]
      rfl
    rw [hdone]
    have ⟨hc48, hst⟩ := State.setChCode_spec (after p) ch hcode
    exact ⟨(Shows.refl _ _).setRf _ _ _ _ (.inl (chStat_mem_doneRegs ch)), hc48.trans (if_pos rfl).symm, hst.trans (hreg (chStat ch) 62 2),
      fun h => by cases h⟩
  | false =>
    have hdone : s.descDone ch w c = after (p.bump (chDone ch) 0 32 1) := by
      unfold State.descDone State.dmaCount chDie
      rw [hcc]
      rfl
    have hmem : chDone ch ∈ doneRegs ch := by unfold doneRegs; rw [hcc]; simp
    have hstat (lo len : Nat) : (after (p.bump (chDone ch) 0 32 1)).rf (chStat ch) lo len = (s.writeBack c).rf (chStat ch) lo len :=
      (State.rf_setRf_reg p _ _ _ _ _ lo len (chStat_ne_chDone hcc)).trans (hreg _ _ _)
    rw [hdone]
    refine ⟨(((Shows.refl p _).bump _ 0 32 1 (.inl hmem)).paceCredit _).modChan ch _, hstat 48 8, hstat 62 2, fun _ => ?_⟩
    rw [← hreg]
    refine (State.rf_setRf p (chDone ch) 0 32 _ (by decide)).trans (Nat.mod_eq_of_lt ?_)
    exact Nat.lt_of_le_of_lt (Nat.min_le_right _ _) (by decide)

theorem State.work_descDone (s : State) (ch : Nat) (w : DWork) (c : DCur) : ((s.descDone ch w c).chan ch).work = some (w.after c) := by
  have hcode (z : State) : ((if coreCh ch then z.setChCode ch c.code else z).chan ch) = z.chan ch := by split <;> rfl
  unfold State.descDone
  dsimp only
  rw [hcode, State.chan_modChan_self]

/-- The code of a list that ends without a halt (R236). -/
theorem DWork.listCode_running (w : DWork) : w.listCode false = if w.bad then 0x30 else if w.some' then 0 else 1 := by
  unfold DWork.listCode
  cases w.some' <;> rfl

/-- The list of a die channel that is not halted ends: its code shows, and its source pulses (R236, R248, R249). -/
theorem State.endWork_die {s : State} {ch : Nat} {w : DWork} (hw : (s.chan ch).work = some w) (he : w.entry = none) (h2 : s.chState ch ≠ 2)
    (code : Nat) : s.endWork ch code = ((((s.modChan ch fun k => { k with work := none }).setChCode ch code).dropRechecks ch).setCh ch 0 0).pulse
      (896 + 16 * chDie ch + 2 * (ch % 8)) := by
  have hst : (((s.modChan ch fun k => { k with work := none }).setChCode ch code).dropRechecks ch).chState ch = s.chState ch :=
    State.rf_setRf_ne (s.modChan ch fun k => { k with work := none }) (chStat ch) 48 8 code 62 2 (.inl (by decide))
  unfold State.endWork
  rw [hw]
  dsimp only
  rw [State.setPaced_die s ch he, hst, if_neg h2, he]

/-- What the end of a die channel's list shows. -/
theorem State.endWork_shows {s u : State} {ch : Nat} {w : DWork} {os : List Nat} (h : Shows u s os) (hos : chStat ch ∈ os)
    (hw : (s.chan ch).work = some w) (he : w.entry = none) (h2 : s.chState ch ≠ 2) {code : Nat} (hcode : code < 256) :
    Shows ((u.modChan ch fun k => { k with work := none }).dropRechecks ch) (s.endWork ch code) os
    ∧ (s.endWork ch code).chState ch = 0 ∧ (s.endWork ch code).rf (chStat ch) 0 43 = 0 ∧ (s.endWork ch code).rf (chStat ch) 48 8 = code := by
  rw [State.endWork_die hw he h2]
  let e := ((s.modChan ch fun k => { k with work := none }).setChCode ch code).dropRechecks ch
  have hshow : Shows ((u.modChan ch fun k => { k with work := none }).dropRechecks ch) e os :=
    ((h.modChan ch fun k => { k with work := none }).setRf (chStat ch) 48 8 code (.inl hos)).map (fun z => z.dropRechecks ch)
      (fun _ _ _ => rfl) fun _ => rfl
  have hpulse (lo len : Nat) := State.rf_of_reg (State.pulse_reg (e.setCh ch 0 0) (896 + 16 * chDie ch + 2 * (ch % 8)) _ (chStat_plain ch)) lo len
  have ⟨hst, haddr, hrest⟩ := State.setCh_spec e ch (st := 0) (by decide) 0
  refine ⟨(hshow.setCh hos 0 0).pulse _, (hpulse 62 2).trans hst, (hpulse 0 43).trans haddr,
    (hpulse 48 8).trans ((hrest 48 8 (by decide) (by decide)).trans ?_)⟩
  exact (State.setChCode_spec (s.modChan ch fun k => { k with work := none }) ch hcode).1

/-! ### The statement -/

/-- Settles O37: DMA_DESC_BEGIN by `exec_dmaDescBegin_reads` and `State.descWaits_shows`, DMA_UNIT_START by `exec_dmaUnitStart_moves`, and
DMA_DESC_COMPLETE by `State.descDone_shows` with the next descriptor or the end of the list (`State.endWork_shows`). -/
theorem dmaTransfers : Obligations.DmaTransfers := by
  intro ch w s hw htd hp hm hrel stat runs held
  refine ⟨fun d hcur ha _ hd hbad hmis => ?_, fun c hcur => ?_, fun c hcur hall hwait => ?_⟩
  · have hread := exec_dmaDescBegin_reads hw htd hp hm hrel hcur ha hd hbad hmis
    refine ⟨fun hempty => ?_, fun src hempty hsrc hne => ?_⟩
    · have hcur' : DCur.read w.head d = ⟨w.head, d, 0, 0, 0, 0, 1, 0, [], false, []⟩ := by rw [DCur.read, hempty, if_pos rfl]
      rw [hempty, hcur'] at hread
      have ⟨hst, haddr, _⟩ := State.setCh_spec (runs { w with cur := some ⟨w.head, d, 0, 0, 0, 0, 1, 0, [], false, []⟩ } s) ch (st := 1)
        (by decide) w.head
      exact ⟨_, hread, (Shows.refl _ _).setCh (List.mem_singleton_self _) 1 _, hst, haddr⟩
    · have hcur' : DCur.read w.head d = ⟨w.head, d, 0, 0, 0, 0, 0, 0, [], false, []⟩ := by
        rw [DCur.read, hempty, if_neg Bool.false_ne_true]
      rw [hempty, hcur'] at hread
      exact ⟨_, hread, State.descWaits_shows hsrc hne hrel _ _⟩
  · intro x src dst hleft hlen0 hcode hlen64 h3 hpaced hcred hto hoff hhold hparts hend hsrc hdst _ hal hapart
    have hruns : (s.cur ch).isSome = true := by
      rw [State.cur, hw]
      exact Option.isSome_iff_exists.2 ⟨c, hcur⟩
    have hmoves : s.Moves ch x c.unit (x.len / 64) := ⟨hruns, by omega, rfl, rfl, hsrc, hdst, hal, hapart,
      hend.imp_left fun hgen => Xfer.goesOn_paced hpaced hgen c.unit⟩
    exact exec_dmaUnitStart_moves hw htd hp hm hrel hcur hleft hcode hpaced h3 hcred hto hoff hhold hparts (by omega) hmoves
  · refine ⟨s.writeBack c, fun hb => if_neg (Bool.eq_false_iff.1 hb), State.writeBack_stored (ch := ch), fun hcode hleft hlast => ?_,
      fun hcode hlast he hcc h1 => ?_⟩
    · have hexec := exec_dmaDescComplete_eq hw htd hm hcur hall hwait hrel hcode
      rw [if_neg (by rw [hlast]; simp; omega)] at hexec
      have ⟨hshow, hc48, _, hcount⟩ := s.descDone_shows ch w (c := c) (by omega)
      have ⟨hst, haddr, hrest⟩ := State.setCh_spec (s.descDone ch w c) ch (st := 1) (by decide) 0
      refine ⟨_, hexec, hshow.setCh (chStat_mem_doneRegs ch) 1 0, hst, haddr, (hrest 48 8 (by decide) (by decide)).trans hc48, fun hcc => ?_⟩
      have hset : Shows (s.descDone ch w c) ((s.descDone ch w c).setCh ch 1 0) [chStat ch] := (Shows.refl _ _).setCh (List.mem_singleton_self _) 1 0
      exact (hset.rf (o := chDone ch) (by simpa using (chStat_ne_chDone hcc).symm) (rDma_plain _ _) 0 32).trans (hcount hcc)
    · have hexec := exec_dmaDescComplete_eq hw htd hm hcur hall hwait hrel hcode
      rw [if_pos (hlast.imp_left fun h => by omega)] at hexec
      have ⟨hshow, _, hstate, _⟩ := s.descDone_shows ch w (c := c) (by omega)
      have hlist : (w.after c).listCode false < 256 := by
        rw [DWork.listCode_running]
        split
        · decide
        · split <;> decide
      have ⟨hends, hst, haddr, hc48⟩ := State.endWork_shows hshow (chStat_mem_doneRegs ch) (s.work_descDone ch w c) he
        (by rw [hstate, h1]; decide) hlist
      rw [State.modChan_modChan, State.setPaced_die _ _ he, doneRegs, hcc] at hends
      exact ⟨_, hexec, hends, hst, haddr, hc48.trans (DWork.listCode_running _)⟩

end Sys2Proof.Machine
end

section
/-! Die-to-die links: what a command of a module touches, the packets that leave, and the judgement of its group (O40, O41). -/

namespace Sys2Proof.Machine

/-! ### The registers of the link blocks -/

/-- A register of the die-to-die block. -/
def linkReg (o : Nat) : Prop := 0x600000 ≤ o ∧ o < 0x700000

theorem rD2d_link {g o : Nat} (hg : g < 8) (ho : o < 0x1000) : linkReg (rD2d g o) := by
  unfold linkReg rD2d
  omega

theorem linkReg_plain {o : Nat} (h : linkReg o) : ¬ eventReg o := by
  unfold linkReg at h
  unfold eventReg
  omega

theorem modulesOf_le (g : Nat) : modulesOf g ≤ 24 := by
  unfold modulesOf
  split <;> omega

theorem rMod_link {g m : Nat} (hg : g < 8) (hm : m < modulesOf g) : linkReg (rMod g m) :=
  rD2d_link hg (by have := modulesOf_le g; omega)

theorem rD2d_inj {g o o' : Nat} : rD2d g o = rD2d g o' ↔ o = o' := by
  unfold rD2d
  omega

theorem rMod_inj {g m m' : Nat} : rMod g m = rMod g m' ↔ m = m' := by
  unfold rMod rD2d
  omega

theorem rMod_eq_rD2d {g m o : Nat} : rMod g m = rD2d g o ↔ 0x400 + 8 * m = o := by
  unfold rMod
  exact rD2d_inj

theorem rD2d_ne_boot (g o : Nat) : rD2d g o ≠ rBoot 0x118 := by
  unfold rD2d rBoot
  omega

theorem d2dHere_lt {s : State} {g m : Nat} (h : s.d2dHere g m = true) : g < 8 ∧ m < modulesOf g := by
  simp only [State.d2dHere, Bool.and_eq_true, decide_eq_true_eq] at h
  exact h.1.1

/-! ### A module's own state -/

@[simp] theorem State.reg_modDmod (s : State) (g m : Nat) (f : DModule → DModule) (o : Nat) : (s.modDmod g m f).reg o = s.reg o := rfl

@[simp] theorem State.rf_modDmod (s : State) (g m : Nat) (f : DModule → DModule) (o lo len : Nat) :
    (s.modDmod g m f).rf o lo len = s.rf o lo len := rfl

@[simp] theorem State.dmod_setReg (s : State) (o : Nat) (v : W64) (g m : Nat) : (s.setReg o v).dmod g m = s.dmod g m := rfl

@[simp] theorem State.dmod_setRf (s : State) (o lo len v g m : Nat) : (s.setRf o lo len v).dmod g m = s.dmod g m := rfl

@[simp] theorem State.dmod_modDmod_self (s : State) (g m : Nat) (f : DModule → DModule) : (s.modDmod g m f).dmod g m = f (s.dmod g m) :=
  Tab.get_put_self _ _ _ _

theorem State.dmod_modDmod_ne (s : State) {g m m' : Nat} (f : DModule → DModule) (h : m' ≠ m) :
    (s.modDmod g m f).dmod g m' = s.dmod g m' := Tab.get_put_ne _ _ _ (by omega)

/-- Two changes of one module are one. -/
theorem State.modDmod_modDmod (s : State) (g m : Nat) (f f' : DModule → DModule) :
    (s.modDmod g m f).modDmod g m f' = s.modDmod g m fun d => f' (f d) := by
  rw [State.modDmod, State.dmod_modDmod_self]
  unfold State.modDmod
  rw [Tab.put_put]

/-- A module's state beside the packets that it carries. -/
def DModule.bare (d : DModule) : DModule := { d with flight := [], pos := 0 }

/-- A change of a module that touches no more than its packets. -/
theorem State.modDmod_bare (s : State) (g m : Nat) {f : DModule → DModule} (hf : ∀ d, (f d).bare = d.bare) (g' m' : Nat) :
    ((s.modDmod g m f).dmod g' m').bare = (s.dmod g' m').bare := by
  unfold State.modDmod State.dmod
  rw [Tab.get_put]
  split
  · next h => rw [h, hf]
  · rfl

/-! ### What a command of a module touches -/

section
variable {s t u : State} {os ps : List Nat}

theorem Links.refl (s : State) (os : List Nat) : Links s s os := ⟨fun _ _ _ => rfl, rfl⟩

theorem Links.trans (h : Links s t os) (k : Links t u os) : Links s u os := by
  refine ⟨fun o h1 h2 => (k.regs o h1 h2).trans (h.regs o h1 h2), ?_⟩
  have h1 := h.rest
  have h2 := k.rest
  rw [← h2] at h1
  exact h1

theorem Links.mono (h : Links s t os) (hs : os ⊆ ps) : Links s t ps := ⟨fun o h1 h2 => h.regs o (fun h3 => h1 (hs h3)) h2, h.rest⟩

/-- What the links do not say stands. -/
theorem Links.get {α : Type} (h : Links s t os) (f : State → α)
    (hf : ∀ (z : State) a b c d e i j k l n o p,
      f { z with regs := a, out := b, dmods := c, steer := d, steerLast := e, movedFlows := i, drQueue := j, drCred := k, drPart := l,
                 backlog := n, jDropped := o, freeIx := p } = f z) : f t = f s := by
  have := congrArg f h.rest
  rw [hf] at this
  exact this

theorem Links.mem (h : Links s t os) : t.mem = s.mem := h.get State.mem fun _ _ _ _ _ _ _ _ _ _ _ _ _ => rfl
theorem Links.cores (h : Links s t os) : t.cores = s.cores := h.get State.cores fun _ _ _ _ _ _ _ _ _ _ _ _ _ => rfl
theorem Links.fan (h : Links s t os) : t.fan = s.fan := h.get State.fan fun _ _ _ _ _ _ _ _ _ _ _ _ _ => rfl

theorem Links.setReg (h : Links s t os) {o : Nat} (v : W64) (ho : o ∈ os) : Links s (t.setReg o v) os :=
  ⟨fun p hp he => (State.reg_setReg_ne t v (by rintro rfl; exact hp ho)).trans (h.regs p hp he), h.rest⟩

theorem Links.setRf (h : Links s t os) {o : Nat} (lo len v : Nat) (ho : o ∈ os) : Links s (t.setRf o lo len v) os := h.setReg _ ho

theorem Links.bump (h : Links s t os) {o : Nat} (lo len n : Nat) (ho : o ∈ os) : Links s (t.bump o lo len n) os := h.setReg _ ho

theorem Links.modDmod (h : Links s t os) (g m : Nat) (f : DModule → DModule) : Links s (t.modDmod g m f) os := ⟨h.regs, h.rest⟩

theorem Links.shows (h : Links s t os) (k : Shows t u os) : Links s u os := by
  refine ⟨fun o h1 h2 => (k.regs o h1 h2).trans (h.regs o h1 h2), ?_⟩
  have h1 := h.rest
  have h2 := k.rest
  rw [← h2] at h1
  exact h1

theorem Links.reg (h : Links s t os) {o : Nat} (hl : linkReg o) (ho : o ∉ os) : t.reg o = s.reg o := h.regs o ho (linkReg_plain hl)

end

/-! ### What leaves the modules' states and the registers alone -/

/-- `t` is `s` but for what raising events shows, the journal's backlog, the steering, and the packets that wait or are on their way. -/
structure Quiet (s t : State) : Prop where
  links : Links s t []
  bare  : ∀ g m, (t.dmod g m).bare = (s.dmod g m).bare

section
variable {s t u : State}

theorem Quiet.refl (s : State) : Quiet s s := ⟨Links.refl s [], fun _ _ => rfl⟩

theorem Quiet.trans (h : Quiet s t) (k : Quiet t u) : Quiet s u :=
  ⟨h.links.trans k.links, fun g m => (k.bare g m).trans (h.bare g m)⟩

theorem Quiet.reg (h : Quiet s t) {o : Nat} (hl : linkReg o) : t.reg o = s.reg o := h.links.reg hl (by simp)

theorem Quiet.raised (h : Quiet s t) (k : Raised t u) : Quiet s u := by
  have hshow : Shows t u [] := (Shows.refl t []).raised k
  have hd : u.dmods = t.dmods := hshow.get State.dmods fun _ _ _ => rfl
  refine ⟨h.links.shows hshow, fun g m => ?_⟩
  rw [← h.bare g m, State.dmod, hd]
  rfl

theorem Quiet.pulse (h : Quiet s t) (n : Nat) : Quiet s (t.pulse n) := h.raised (State.pulse_raised (Raised.refl t) n)

theorem Quiet.d2dJournal (h : Quiet s t) (g : Nat) : Quiet s (t.d2dJournal g) := by
  refine h.trans ?_
  unfold State.d2dJournal State.journalOpen State.journalPut
  split <;> exact ⟨⟨fun _ _ _ => rfl, rfl⟩, fun _ _ => rfl⟩

theorem Quiet.send (h : Quiet s t) (o : Out) : Quiet s (t.send o) := h.trans ⟨⟨fun _ _ _ => rfl, rfl⟩, fun _ _ => rfl⟩

/-! ### Steering (R261) -/

theorem setEntry_quiet (s : State) (g f m : Nat) : Quiet s (s.setEntry g f m) := ⟨⟨fun _ _ _ => rfl, rfl⟩, fun _ _ => rfl⟩

theorem passEntries_quiet (g : Nat) (fs : List Nat) (s : State) : Quiet s (s.passEntries g fs) := by
  induction fs generalizing s with
  | nil => exact Quiet.refl s
  | cons f fs ih =>
    unfold State.passEntries
    split
    · exact ih s
    · next m _ =>
      have hlast (z : State) (l : Tab Nat) : Quiet z { z with steerLast := l } := ⟨⟨fun _ _ _ => rfl, rfl⟩, fun _ _ => rfl⟩
      exact ((setEntry_quiet s g f m).trans (hlast _ _)).trans (ih _)

theorem Quiet.passModule (h : Quiet s t) (g m : Nat) : Quiet s (t.passModule g m) := by
  refine h.trans ?_
  unfold State.passModule
  dsimp only
  split
  · exact passEntries_quiet _ _ _
  · exact passEntries_quiet _ _ _
  · exact passEntries_quiet _ _ _
  · exact Quiet.refl t

theorem Quiet.resteer (h : Quiet s t) (g : Nat) : Quiet s (t.resteer g) := by
  refine h.trans ?_
  unfold State.resteer
  have hfill : Quiet t (iter 96 (fun f z => z.setEntry g f (f % modulesOf g)) { t with steerLast := Tab.put 0 g 0 t.steerLast }) :=
    iter_inv (P := Quiet t) (fun f _ z hz => hz.trans (setEntry_quiet z g f _)) ⟨⟨fun _ _ _ => rfl, rfl⟩, fun _ _ => rfl⟩
  have hpass := List.foldlRecOn (motive := Quiet t) (List.range (modulesOf g)) (fun z m => z.passModule g m) hfill
    fun z hz m _ => hz.passModule g m
  exact hpass.trans ⟨⟨fun _ _ _ => rfl, rfl⟩, fun _ _ => rfl⟩

/-! ### Packets that leave (R261, R267) -/

theorem drEmit_quiet (s : State) (m : Nat) (k : DrPkt) : Quiet s (s.drEmit m k) := by
  unfold State.drEmit
  dsimp only
  refine Quiet.send ?_ _
  have hmod (z : State) (p : Nat) : Quiet z (z.modDmod k.group m fun d => { d with flight := d.flight ++ [k], pos := p }) :=
    ⟨(Links.refl z []).modDmod _ _ _, State.modDmod_bare z _ _ fun _ => rfl⟩
  have hcred (z : State) (c : Tab Nat) : Quiet z { z with drCred := c } := ⟨⟨fun _ _ _ => rfl, rfl⟩, fun _ _ => rfl⟩
  have hpart (z : State) (c : Tab Nat) : Quiet z { z with drPart := c } := ⟨⟨fun _ _ _ => rfl, rfl⟩, fun _ _ => rfl⟩
  split
  · exact ((hcred s _).trans (hmod _ _)).trans (hpart _ _)
  · exact (hcred s _).trans (hmod _ _)

theorem drPump_quiet (ks : List DrPkt) (blocked : List Nat) (s : State) : Quiet s (s.drPump blocked ks) := by
  induction ks generalizing s blocked with
  | nil => exact Quiet.refl s
  | cons k ks ih =>
    have hqueue (z : State) (q : List DrPkt) : Quiet z { z with drQueue := q } := ⟨⟨fun _ _ _ => rfl, rfl⟩, fun _ _ => rfl⟩
    unfold State.drPump
    dsimp only
    split
    · exact (drEmit_quiet s _ _).trans (ih _ _)
    · exact (ih _ s).trans (hqueue _ _)

theorem Quiet.drGo (h : Quiet s t) : Quiet s t.drGo := by
  have hqueue : Quiet t { t with drQueue := [] } := ⟨⟨fun _ _ _ => rfl, rfl⟩, fun _ _ => rfl⟩
  exact (h.trans hqueue).trans (drPump_quiet _ _ _)

/-- Nothing waits, and nothing leaves. -/
theorem drGo_empty (h : s.drQueue = []) : s.drGo = s := by
  have hsame : ({ s with drQueue := [] } : State) = s := by rw [← h]
  rw [State.drGo, h]
  exact hsame

end

/-! ### The judgement of a group (R256, R261, R271, R272) -/

/-- The state that a group's modules give it (R271). -/
def State.groupState (s : State) (g : Nat) : Nat :=
  if 0 < s.modsIn g (· == 3) + s.modsIn g (fun x => x == 4 || x == 5) then 3
  else if s.modsIn g (· == 6) = modulesOf g then 4
  else if 0 < s.modsIn g (· == 2) then 2 else 1

/-- The registers and levels of a group as its modules give them. -/
def State.marked (s : State) (g : Nat) : State :=
  let r := rD2d g 0
  let st := s.groupState g
  let t := (((s.setRf r 61 3 st).setRf r 40 8 (s.modsIn g (· == 3))).setRf r 32 8 (s.modsIn g fun x => x == 4 || x == 5)).setRf r 24 8
    (s.modsIn g (· == 6))
  let t := (t.setLevel (768 + 8 * g) (st == 3)).setLevel (769 + 8 * g) (s.modsIn g (· == 3) == modulesOf g)
  (t.setLevel (775 + 8 * g) (st == 4)).setRbit (rBoot 0x118) (4 + g) (st == 3)

/-- The ports hear of a group that goes down or comes back. -/
theorem judgeGroup_eq (s : State) (g : Nat) : s.judgeGroup g =
    if s.groupState g = 4 ∧ s.rf (rD2d g 0) 61 3 ≠ 4 then
      (((s.marked g).journalPut 0x31 1 4 g (toBytes 8 ((s.marked g).reg (rD2d g 0)).toNat)).mapChange).ioCut g true
    else if s.groupState g = 3 ∧ s.rf (rD2d g 0) 61 3 ≠ 3 then
      (if s.rf (rD2d g 0) 61 3 = 4 then (s.marked g).mapChange else s.marked g).ioCut g false
    else if s.groupState g ≠ 4 ∧ s.rf (rD2d g 0) 61 3 = 4 then (s.marked g).mapChange
    else s.marked g := rfl

section
variable {s t : State} {g : Nat}

theorem groupState_lt (s : State) (g : Nat) : s.groupState g < 8 := by
  unfold State.groupState
  split
  · omega
  · split
    · omega
    · split <;> omega

theorem modsIn_congr (h : ∀ v < modulesOf g, t.modState g v = s.modState g v) (p : Nat → Bool) : t.modsIn g p = s.modsIn g p := by
  unfold State.modsIn
  congr 1
  exact List.filter_congr fun v hv => by rw [h v (List.mem_range.1 hv)]

theorem groupState_congr (h : ∀ v < modulesOf g, t.modState g v = s.modState g v) : t.groupState g = s.groupState g := by
  unfold State.groupState
  simp only [modsIn_congr h]

theorem modsIn_pos {p : Nat → Bool} : 0 < s.modsIn g p ↔ ∃ v < modulesOf g, p (s.modState g v) = true := by
  unfold State.modsIn
  simp [List.length_pos_iff_exists_mem]

theorem modsIn_eq_zero {p : Nat → Bool} : s.modsIn g p = 0 ↔ ∀ v < modulesOf g, p (s.modState g v) = false := by
  unfold State.modsIn
  simp [List.filter_eq_nil_iff]

/-- A group with a module in normal mode is up. -/
theorem groupState_up {v : Nat} (hv : v < modulesOf g) (h : s.modState g v = 3 ∨ s.modState g v = 4 ∨ s.modState g v = 5) :
    s.groupState g = 3 := by
  unfold State.groupState
  refine if_pos ?_
  rcases h with h | h
  · have : 0 < s.modsIn g (· == 3) := modsIn_pos.2 ⟨v, hv, by simp [h]⟩
    omega
  · have : 0 < s.modsIn g (fun x => x == 4 || x == 5) := modsIn_pos.2 ⟨v, hv, by simpa using h⟩
    omega

theorem marked_shows (s : State) (g : Nat) : Shows s (s.marked g) [rD2d g 0, rBoot 0x118] := by
  have h0 : rD2d g 0 ∈ [rD2d g 0, rBoot 0x118] ∨ eventReg (rD2d g 0) := .inl (by simp)
  exact ((((((((Shows.refl s _).setRf _ _ _ _ h0).setRf _ _ _ _ h0).setRf _ _ _ _ h0).setRf _ _ _ _ h0).setLevel _ _).setLevel _ _).setLevel
    _ _).setRbit _ _ _ (.inl (by simp))

theorem marked_grp (hg : g < 8) : (s.marked g).reg (rD2d g 0)
    = setFld (setFld (setFld (setFld (s.reg (rD2d g 0)) 61 3 (s.groupState g)) 40 8 (s.modsIn g (· == 3))) 32 8
        (s.modsIn g fun x => x == 4 || x == 5)) 24 8 (s.modsIn g (· == 6)) := by
  have hp := linkReg_plain (rD2d_link (o := 0) hg (by omega))
  unfold State.marked
  dsimp only
  rw [State.reg_setRbit_ne _ (rD2d_ne_boot g 0), State.setLevel_reg _ _ _ _ hp, State.setLevel_reg _ _ _ _ hp, State.setLevel_reg _ _ _ _ hp]
  simp only [State.reg_setRf_self]

theorem marked_state (hg : g < 8) : (s.marked g).rf (rD2d g 0) 61 3 = s.groupState g := by
  unfold State.rf
  rw [marked_grp hg, fld_setFld_ne _ _ _ _ _ _ (by omega), fld_setFld_ne _ _ _ _ _ _ (by omega), fld_setFld_ne _ _ _ _ _ _ (by omega),
    fld_setFld _ _ _ _ (by omega)]
  exact Nat.mod_eq_of_lt (groupState_lt s g)

theorem marked_fields (hg : g < 8) {lo len : Nat} (h0 : 48 ≤ lo) (h1 : lo + len ≤ 61) :
    (s.marked g).rf (rD2d g 0) lo len = s.rf (rD2d g 0) lo len := by
  unfold State.rf
  rw [marked_grp hg, fld_setFld_ne _ _ _ _ _ _ (by omega), fld_setFld_ne _ _ _ _ _ _ (by omega), fld_setFld_ne _ _ _ _ _ _ (by omega),
    fld_setFld_ne _ _ _ _ _ _ (by omega)]

/-- `t` is `s` but for the optics and the fabric: memory, cores, the links and their registers stand. -/
structure Afar (s t : State) : Prop where
  mem    : t.mem = s.mem
  cores  : t.cores = s.cores
  dmods  : t.dmods = s.dmods
  drCred : t.drCred = s.drCred
  drPart : t.drPart = s.drPart
  fan    : t.fan = s.fan
  regs   : ∀ o, linkReg o → t.reg o = s.reg o

theorem Afar.refl (s : State) : Afar s s := ⟨rfl, rfl, rfl, rfl, rfl, rfl, fun _ _ => rfl⟩

theorem Afar.trans {u : State} (h : Afar s t) (k : Afar t u) : Afar s u :=
  ⟨k.mem.trans h.mem, k.cores.trans h.cores, k.dmods.trans h.dmods, k.drCred.trans h.drCred, k.drPart.trans h.drPart, k.fan.trans h.fan,
    fun o ho => (k.regs o ho).trans (h.regs o ho)⟩

theorem Afar.of_net {P : Nat → Prop} (h : NetR netReg P s t) : Afar s t where
  mem := h.get State.mem fun _ _ _ _ _ _ _ _ _ _ _ _ _ _ _ _ _ _ _ => rfl
  cores := h.get State.cores fun _ _ _ _ _ _ _ _ _ _ _ _ _ _ _ _ _ _ _ => rfl
  dmods := h.get State.dmods fun _ _ _ _ _ _ _ _ _ _ _ _ _ _ _ _ _ _ _ => rfl
  drCred := h.get State.drCred fun _ _ _ _ _ _ _ _ _ _ _ _ _ _ _ _ _ _ _ => rfl
  drPart := h.get State.drPart fun _ _ _ _ _ _ _ _ _ _ _ _ _ _ _ _ _ _ _ => rfl
  fan := h.fan
  regs o ho := h.regs o (linkReg_plain ho) (by unfold linkReg at ho; unfold netReg; omega)

theorem Afar.queue (s : State) (q : List Nat) : Afar s { s with trainQ := q } := ⟨rfl, rfl, rfl, rfl, rfl, rfl, fun _ _ => rfl⟩

theorem Afar.mapChange (s : State) : Afar s s.mapChange := ⟨rfl, rfl, rfl, rfl, rfl, rfl, fun _ _ => rfl⟩

theorem Afar.journalPut (s : State) (k c u n : Nat) (d : Bytes) : Afar s (s.journalPut k c u n d) := by
  unfold State.journalPut
  split <;> exact ⟨rfl, rfl, rfl, rfl, rfl, rfl, fun _ _ => rfl⟩

theorem queuePort_afar (s : State) {p : Nat} (hp : p < 32) : Afar s (s.queuePort p) := by
  have h0 := port_net p 0 hp (by omega)
  have hwait : Net s ((s.setRf (rPort p 0) 61 3 1).setRf (rPort p 0) 58 3 0).mapChange :=
    (((NetR.refl s).setRf _ _ _ _ h0).setRf _ _ _ _ h0).mapChange
  unfold State.queuePort
  split
  · exact Afar.of_net (holdDown_net s 4 hp)
  · split
    · exact Afar.of_net (holdDown_net s 6 hp)
    · dsimp only
      split
      · exact Afar.of_net hwait
      · exact (Afar.of_net hwait).trans (Afar.queue _ _)

theorem takePorts_afar (s : State) {i : Nat} (hi : i < 4) : Afar s (s.takePorts i) := by
  have h : Net s { s.takePorts i with trainQ := s.trainQ } :=
    (takePorts_net s i (fun q => q / 8 = i) fun _ _ h => h).1.mono (fun o ho => by
      obtain ⟨q, hq, ho⟩ := ho
      exact portReg_net (by omega) ho) fun _ _ => trivial
  obtain ⟨hmem, hcores, hdmods, hcred, hpart, hfan, hregs⟩ := Afar.of_net h
  exact ⟨hmem, hcores, hdmods, hcred, hpart, hfan, hregs⟩

/-- The ports of an I/O die without a fan-out hear that it is cut off, or reachable again (R261). -/
theorem ioCut_afar (s : State) (down : Bool) (h : g < 4 ∨ Tab.get none (g - 4) s.fan = none) (hg : g < 8) : Afar s (s.ioCut g down) := by
  unfold State.ioCut
  dsimp only
  split
  · exact Afar.refl s
  · next h4 =>
    have hfan := h.resolve_left h4
    have hboot : Afar s (s.setRbit (rBoot 0x118) (12 + (g - 4)) (!down)) :=
      ⟨rfl, rfl, rfl, rfl, rfl, rfl, fun o ho => State.reg_setRbit_ne s (by unfold linkReg at ho; unfold rBoot; omega)⟩
    refine iter_inv (P := Afar s) (fun q hq t ht => ht.trans ?_) hboot
    have hp : 8 * (g - 4) + q < 32 := by omega
    split
    · exact Afar.refl t
    · split
      · split
        · have hdown := portDown_net { t with trainQ := t.trainQ.erase (8 * (g - 4) + q) } (8 * (g - 4) + q) 6 hp
            (by rw [show (8 * (g - 4) + q) / 8 = g - 4 by omega]; exact ht.fan ▸ hfan)
          exact (Afar.queue t _).trans (Afar.of_net (hdown.net hp))
        · exact Afar.refl t
      · split
        · exact (queuePort_afar t hp).trans (takePorts_afar _ (by omega))
        · exact Afar.refl t

/-- Judging a group writes its registers; only the ports of its I/O die can hear of it. -/
theorem judgeGroup_afar (hg : g < 8) (h : (s.rf (rD2d g 0) 61 3 = 3 ∧ s.groupState g = 3) ∨ g < 4 ∨ Tab.get none (g - 4) s.fan = none) :
    Afar (s.marked g) (s.judgeGroup g) := by
  have hfan : (s.marked g).fan = s.fan := (marked_shows s g).get State.fan fun _ _ _ => rfl
  rw [judgeGroup_eq]
  rcases h with ⟨h3, hs⟩ | h
  · rw [h3, hs]
    exact Afar.refl _
  · have hcut (z : State) (hz : Afar (s.marked g) z) (down : Bool) : Afar (s.marked g) (z.ioCut g down) :=
      hz.trans (ioCut_afar z down (by rw [hz.fan, hfan]; exact h) hg)
    split
    · exact hcut _ ((Afar.journalPut _ _ _ _ _ _).trans (Afar.mapChange _)) true
    · split
      · refine hcut _ ?_ false
        split
        · exact Afar.mapChange _
        · exact Afar.refl _
      · split
        · exact Afar.mapChange _
        · exact Afar.refl _

/-- A group that is up and stays up changes nothing but its counts. -/
theorem judgeGroup_up (h3 : s.rf (rD2d g 0) 61 3 = 3) (hs : s.groupState g = 3) : s.judgeGroup g = s.marked g := by
  rw [judgeGroup_eq, h3, hs]
  rfl

end

end Sys2Proof.Machine
end

section
/-! Die-to-die links: how a command of a module ends, fences, failed attempts, lane tests and retrains (O40, O41). -/

namespace Sys2Proof.Machine

/-! ### A command of a module, and the judgement of its group -/

/-- The group of module m is up, and stays so through another module at full width. -/
def State.upheld (s : State) (g m : Nat) : Prop :=
  s.rf (rD2d g 0) 61 3 = 3 ∧ ∃ u, u < modulesOf g ∧ u ≠ m ∧ s.modState g u = 3

/-- Registers that a command of module m may write: among them those of its group, and no other module's. -/
structure OwnRegs (g m : Nat) (os : List Nat) : Prop where
  grp   : rD2d g 0 ∈ os
  ready : rBoot 0x118 ∈ os
  apart : ∀ v, v < modulesOf g → v ≠ m → rMod g v ∉ os

/-- A command of module m of group g has turned `s` into `t`: `a` is what it made of the module before the group was judged. -/
structure Judged (s a t : State) (g m : Nat) (os : List Nat) : Prop where
  links  : s.upheld g m → Links s t os ∧ t.rf (rD2d g 0) 61 3 = 3
  mem    : t.mem = s.mem
  cores  : t.cores = s.cores
  others : ∀ v, v < modulesOf g → v ≠ m → t.modState g v = s.modState g v
  own    : t.modState g m = a.modState g m
  state  : t.rf (rD2d g 0) 61 3 = a.groupState g
  fields : ∀ lo len, 48 ≤ lo → lo + len ≤ 61 → t.rf (rD2d g 0) lo len = a.rf (rD2d g 0) lo len
  regs   : ∀ o, linkReg o → o ≠ rD2d g 0 → t.reg o = a.reg o
  bare   : (t.dmod g m).bare = (a.dmod g m).bare

section
variable {s a b t u : State} {g m : Nat} {os : List Nat}

theorem modState_of_reg {v : Nat} (h : t.reg (rMod g v) = s.reg (rMod g v)) : t.modState g v = s.modState g v := by
  unfold State.modState State.rf
  rw [h]

theorem rf_of_reg {o : Nat} (h : t.reg o = s.reg o) (lo len : Nat) : t.rf o lo len = s.rf o lo len := by
  unfold State.rf
  rw [h]

theorem rMod_ne_group (g m : Nat) : rMod g m ≠ rD2d g 0 := by
  rw [Ne, rMod_eq_rD2d]
  omega

theorem judged (hlt : g < 8 ∧ m < modulesOf g) (hg : s.upheld g m ∨ g < 4 ∨ Tab.get none (g - 4) s.fan = none) (hos : OwnRegs g m os)
    (h : Links s a os) (hgrp : a.rf (rD2d g 0) 61 3 = s.rf (rD2d g 0) 61 3) (hq : Quiet a b) (hp : Quiet (b.judgeGroup g) t) :
    Judged s a t g m os := by
  obtain ⟨hg8, hm⟩ := hlt
  have hlink : linkReg (rD2d g 0) := rD2d_link hg8 (by omega)
  have hothers : ∀ v, v < modulesOf g → v ≠ m → a.modState g v = s.modState g v := fun v hv hne =>
    modState_of_reg (h.reg (rMod_link hg8 hv) (hos.apart v hv hne))
  have hab : ∀ v < modulesOf g, b.modState g v = a.modState g v := fun v hv => modState_of_reg (hq.reg (rMod_link hg8 hv))
  have hstate : b.groupState g = a.groupState g := groupState_congr hab
  have hsb : Links s b os := h.trans (hq.links.mono (List.nil_subset _))
  have hup : s.upheld g m → b.rf (rD2d g 0) 61 3 = 3 ∧ b.groupState g = 3 := by
    rintro ⟨h3, u, hu, hne, hfull⟩
    refine ⟨(rf_of_reg (hq.reg hlink) 61 3).trans (hgrp.trans h3), groupState_up hu (.inl ?_)⟩
    rw [hab u hu, hothers u hu hne, hfull]
  have hafar : Afar (b.marked g) (b.judgeGroup g) := judgeGroup_afar hg8 (hg.imp hup fun hn => by rw [hsb.fan]; exact hn)
  have hmark := marked_shows b g
  have hrb : ∀ o, linkReg o → o ≠ rD2d g 0 → (b.marked g).reg o = a.reg o := fun o ho hne =>
    (hmark.regs o (by
      rw [List.mem_pair]
      rintro (rfl | rfl)
      · exact hne rfl
      · unfold linkReg rBoot at ho; omega) (linkReg_plain ho)).trans (hq.reg ho)
  have hregs : ∀ o, linkReg o → o ≠ rD2d g 0 → t.reg o = a.reg o := fun o ho hne =>
    (hp.reg ho).trans ((hafar.regs o ho).trans (hrb o ho hne))
  have hgrpReg : t.reg (rD2d g 0) = (b.marked g).reg (rD2d g 0) := (hp.reg hlink).trans (hafar.regs _ hlink)
  have hst : t.rf (rD2d g 0) 61 3 = a.groupState g := by
    rw [rf_of_reg hgrpReg, marked_state hg8, hstate]
  refine ⟨fun hu => ⟨?_, ?_⟩, ?_, ?_, fun v hv hne => ?_, ?_, hst, fun lo len h0 h1 => ?_, hregs, ?_⟩
  · obtain ⟨h3, hs⟩ := hup hu
    rw [judgeGroup_up h3 hs] at hp
    have hsub : [rD2d g 0, rBoot 0x118] ⊆ os := by
      intro o ho
      rcases List.mem_pair.1 ho with rfl | rfl
      · exact hos.grp
      · exact hos.ready
    exact (hsb.shows (hmark.mono hsub)).trans (hp.links.mono (List.nil_subset _))
  · rw [hst, ← hstate, (hup hu).2]
  · rw [hp.links.mem, hafar.mem, hmark.get State.mem fun _ _ _ => rfl, hsb.mem]
  · rw [hp.links.cores, hafar.cores, hmark.get State.cores fun _ _ _ => rfl, hsb.cores]
  · exact (modState_of_reg (hregs _ (rMod_link hg8 hv) (rMod_ne_group g v))).trans (hothers v hv hne)
  · exact modState_of_reg (hregs _ (rMod_link hg8 hm) (rMod_ne_group g m))
  · rw [rf_of_reg hgrpReg, marked_fields hg8 h0 h1]
    exact rf_of_reg (hq.reg hlink) lo len
  · have hd : (b.judgeGroup g).dmod g m = b.dmod g m := by
      unfold State.dmod
      rw [hafar.dmods, hmark.get State.dmods fun _ _ _ => rfl]
    rw [hp.bare, hd, hq.bare]

/-- What packets leave afterwards changes nothing of it. -/
theorem Judged.quiet (h : Judged s a t g m os) (hlt : g < 8 ∧ m < modulesOf g) (k : Quiet t u) : Judged s a u g m os := by
  have hr (o : Nat) (ho : linkReg o) : u.reg o = t.reg o := k.reg ho
  have hgrp := rf_of_reg (hr (rD2d g 0) (rD2d_link hlt.1 (by omega)))
  exact ⟨fun hu => ⟨(h.links hu).1.trans (k.links.mono (List.nil_subset _)), (hgrp 61 3).trans (h.links hu).2⟩, k.links.mem.trans h.mem,
    k.links.cores.trans h.cores, fun v hv hne => (modState_of_reg (hr _ (rMod_link hlt.1 hv))).trans (h.others v hv hne),
    (modState_of_reg (hr _ (rMod_link hlt.1 hlt.2))).trans h.own, (hgrp 61 3).trans h.state,
    fun lo len h0 h1 => (hgrp lo len).trans (h.fields lo len h0 h1), fun o ho hne => (hr o ho).trans (h.regs o ho hne),
    (k.bare g m).trans h.bare⟩

theorem Judged.rf (h : Judged s a t g m os) {o : Nat} (ho : linkReg o) (hne : o ≠ rD2d g 0) (lo len : Nat) : t.rf o lo len = a.rf o lo len :=
  rf_of_reg (h.regs o ho hne) lo len

theorem Judged.train (h : Judged s a t g m os) : (t.dmod g m).train = (a.dmod g m).train := (congrArg DModule.train h.bare :)
theorem Judged.width (h : Judged s a t g m os) : (t.dmod g m).width = (a.dmod g m).width := (congrArg DModule.width h.bare :)
theorem Judged.weak (h : Judged s a t g m os) : (t.dmod g m).weak = (a.dmod g m).weak := (congrArg DModule.weak h.bare :)
theorem Judged.role (h : Judged s a t g m os) : (t.dmod g m).role = (a.dmod g m).role := (congrArg DModule.role h.bare :)

end

/-! ### Fenced modules (R260, R261, R263) -/

/-- A module marked as fenced: the packets that it had not delivered wait again, ahead of the others. -/
def State.struck (s : State) (g m cause : Nat) : State :=
  let t := (s.setRf (rMod g m) 61 3 6).setRf (rMod g m) 51 4 cause
  let lost := ((t.dmod g m).flight.filter fun (k : DrPkt) => k.via.isNone).map fun (k : DrPkt) => { k with again := true }
  let t := { t with drQueue := lost ++ t.drQueue.filter fun (k : DrPkt) => !(k.group == g && k.via == some m) }
  t.modDmod g m fun d => { d with train := 0, width := 0, replays := [], fails := 0, flight := [] }

theorem fence_eq (s : State) (g m cause : Nat) : s.fence g m cause
    = ((((((s.struck g m cause).pulse (772 + 8 * g)).d2dJournal g).passModule g m)).judgeGroup g).drGo := rfl

section
variable {s a : State} {g m cause : Nat} {os : List Nat}

theorem struck_reg_ne {o : Nat} (h : o ≠ rMod g m) : (s.struck g m cause).reg o = s.reg o :=
  (State.reg_setRf_ne _ h).trans (State.reg_setRf_ne s h)

theorem struck_reg : (s.struck g m cause).reg (rMod g m) = setFld (setFld (s.reg (rMod g m)) 61 3 6) 51 4 cause := by
  have h : (s.struck g m cause).reg (rMod g m) = ((s.setRf (rMod g m) 61 3 6).setRf (rMod g m) 51 4 cause).reg (rMod g m) := rfl
  rw [h, State.reg_setRf_self, State.reg_setRf_self]

theorem struck_modState : (s.struck g m cause).modState g m = 6 := by
  unfold State.modState State.rf
  rw [struck_reg, fld_setFld_ne _ _ _ _ _ _ (by omega), fld_setFld _ _ _ _ (by omega)]
  rfl

theorem struck_cause (h : cause < 16) : (s.struck g m cause).rf (rMod g m) 51 4 = cause := by
  unfold State.rf
  rw [struck_reg, fld_setFld _ _ _ _ (by omega)]
  exact Nat.mod_eq_of_lt h

theorem struck_links (h : Links s a os) (hr : rMod g m ∈ os) : Links s (a.struck g m cause) os := by
  obtain ⟨hregs, hrest⟩ := (h.setRf 61 3 6 hr).setRf 51 4 cause hr
  exact ⟨hregs, hrest⟩

theorem fence_judged (hlt : g < 8 ∧ m < modulesOf g) (hg : s.upheld g m ∨ g < 4 ∨ Tab.get none (g - 4) s.fan = none) (hos : OwnRegs g m os)
    (hr : rMod g m ∈ os) (h : Links s a os) (hgrp : a.rf (rD2d g 0) 61 3 = s.rf (rD2d g 0) 61 3) :
    Judged s (a.struck g m cause) (a.fence g m cause) g m os := by
  rw [fence_eq]
  exact judged hlt hg hos (struck_links h hr) ((rf_of_reg (struck_reg_ne (rMod_ne_group g m).symm) 61 3).trans hgrp)
    ((((Quiet.refl _).pulse _).d2dJournal g).passModule g m) (Quiet.refl _).drGo

end

/-! ### Failed attempts (R257, R258, R268) -/

/-- A module whose attempt has failed: its repair and width state is cleared, and the failure counted. -/
def State.attemptFailed (s : State) (g m : Nat) : State :=
  let r := rMod g m
  let t := ((s.setRf r 57 2 0).setRf r 55 2 0).setReg (rD2d g (0x600 + 8 * m)) 0
  (t.modDmod g m fun d => { d with train := 2, width := 0, spare := 0, weak := 0 }).setRf r 59 2 (s.rf r 59 2 + 1)

theorem failAttempt_eq (s : State) (g m : Nat) : s.failAttempt g m = if 3 ≤ s.rf (rMod g m) 59 2 + 1 then (s.attemptFailed g m).fence g m 2
    else ((s.attemptFailed g m).setRf (rMod g m) 61 3 (if s.endpointGroup g then 2 else 1)).judgeGroup g := rfl

section
variable {s : State} {g m : Nat} {os : List Nat}

theorem rMod_ne_lanes (g m : Nat) : rMod g m ≠ rD2d g (0x600 + 8 * m) := by
  rw [Ne, rMod_eq_rD2d]
  omega

theorem attemptFailed_reg_ne {o : Nat} (h0 : o ≠ rMod g m) (h1 : o ≠ rD2d g (0x600 + 8 * m)) : (s.attemptFailed g m).reg o = s.reg o := by
  unfold State.attemptFailed
  dsimp only
  rw [State.reg_setRf_ne _ h0, State.reg_modDmod, State.reg_setReg_ne _ _ h1, State.reg_setRf_ne _ h0, State.reg_setRf_ne _ h0]

theorem attemptFailed_spec : (s.attemptFailed g m).rf (rMod g m) 59 2 = (s.rf (rMod g m) 59 2 + 1) % 4
    ∧ (s.attemptFailed g m).reg (rD2d g (0x600 + 8 * m)) = 0
    ∧ ((s.attemptFailed g m).dmod g m).train = 2 ∧ ((s.attemptFailed g m).dmod g m).width = 0 := by
  have hd : (s.attemptFailed g m).dmod g m = { s.dmod g m with train := 2, width := 0, spare := 0, weak := 0 } := by
    simp [State.attemptFailed]
  refine ⟨State.rf_setRf _ _ _ _ _ (by omega), ?_, congrArg DModule.train hd, congrArg DModule.width hd⟩
  unfold State.attemptFailed
  dsimp only
  rw [State.reg_setRf_ne _ (rMod_ne_lanes g m).symm, State.reg_modDmod, State.reg_setReg_self]

theorem attemptFailed_links (hr : rMod g m ∈ os) (hl : rD2d g (0x600 + 8 * m) ∈ os) : Links s (s.attemptFailed g m) os :=
  (((((Links.refl s os).setRf _ _ _ hr).setRf _ _ _ hr).setReg _ hl).modDmod _ _ _).setRf _ _ _ hr

end

end Sys2Proof.Machine
end

section
/-! Training of die-to-die modules: attempts, lane tests, retrains, and O40. -/

namespace Sys2Proof.Machine

/-! ### What a command of a module comes to -/

/-- Running `i` brings module m of group g to state st, as `P` says of the result; the other modules, memory and the cores stand, and in a
group that stays up through another module so does all but the registers listed. -/
def Becomes (s : State) (g m : Nat) (os : List Nat) (i : Instr) (st : Nat) (P : State → Prop) : Prop :=
  ∃ t, exec i s = .next t ∧ (s.upheld g m → Links s t os ∧ t.rf (rD2d g 0) 61 3 = 3) ∧ t.mem = s.mem ∧ t.cores = s.cores
    ∧ t.modState g m = st ∧ (∀ v, v < modulesOf g → v ≠ m → t.modState g v = s.modState g v) ∧ P t

theorem Judged.becomes {s a t : State} {g m st : Nat} {os : List Nat} {i : Instr} {P : State → Prop} (h : Judged s a t g m os)
    (hi : exec i s = .next t) (hst : a.modState g m = st) (hP : P t) : Becomes s g m os i st P :=
  ⟨t, hi, h.links, h.mem, h.cores, h.own.trans hst, h.others, hP⟩

theorem Becomes.imp {s : State} {g m st : Nat} {os : List Nat} {i : Instr} {P Q : State → Prop} (h : Becomes s g m os i st P)
    (hPQ : ∀ t, P t → Q t) : Becomes s g m os i st Q := by
  obtain ⟨t, hi, hlinks, hmem, hcores, hown, hothers, hP⟩ := h
  exact ⟨t, hi, hlinks, hmem, hcores, hown, hothers, hPQ t hP⟩

/-- Registers of module m's training: its status, its lane map, the counts and state of its group, and the READY map. -/
def trainRegs (g m : Nat) : List Nat := [rMod g m, rD2d g (0x600 + 8 * m), rD2d g 0x10, rD2d g 0, rBoot 0x118]

theorem trainRegs_own (g m : Nat) : OwnRegs g m (trainRegs g m) := by
  refine ⟨by simp [trainRegs], by simp [trainRegs], fun v hlv hv => ?_⟩
  have hb : rMod g v ≠ rBoot 0x118 := rD2d_ne_boot g _
  simp [trainRegs, rMod_inj, rMod_eq_rD2d, hv, hb]
  have := modulesOf_le g
  omega

/-! ### Lane tests (R259, R260) -/

theorem laneWidth_eq (half : Nat) (f : W64) (sp : BitVec 4) : laneWidth half f sp =
    let lo := popcount (bits f 0 32) + popcount (bits sp 0 2)
    let hi := popcount (bits f 32 32) + popcount (bits sp 2 2)
    if half = 4 then (if lo ≤ 2 then 4 else 6) else if half = 5 then (if hi ≤ 2 then 5 else 6)
    else if lo ≤ 2 ∧ hi ≤ 2 then 3 else if lo ≤ 2 then 4 else if hi ≤ 2 then 5 else 6 := by
  simp [laneWidth]

/-- A width that a lane test leaves has at most two failed lanes in each half that it uses. -/
theorem laneWidth_repairs (half : Nat) (f : W64) (sp : BitVec 4) : laneWidth half f sp = 6
    ∨ ((laneWidth half f sp = 3 ∨ laneWidth half f sp = 4 ∨ laneWidth half f sp = 5)
      ∧ (laneWidth half f sp ≠ 5 → popcount (bits f 0 32) ≤ 2) ∧ (laneWidth half f sp ≠ 4 → popcount (bits f 32 32) ≤ 2)) := by
  rw [laneWidth_eq]
  dsimp only
  split
  · split <;> omega
  · split
    · split <;> omega
    · split
      · omega
      · split
        · omega
        · split <;> omega

/-- The lane map, the redundant lanes and the half that a lane test adds to: those of a module that retrains. -/
def State.oldLanes (s : State) (g m : Nat) : W64 := if (s.dmod g m).train == 5 then s.reg (rD2d g (0x600 + 8 * m)) else 0
def State.oldSpare (s : State) (g m : Nat) : BitVec 4 := if (s.dmod g m).train == 5 then (s.dmod g m).spare else 0
def State.oldHalf (s : State) (g m : Nat) : Nat := if (s.dmod g m).train == 5 && (s.dmod g m).width != 3 then (s.dmod g m).width else 0

/-- A module whose lanes have been tested. -/
def State.tested (s : State) (g m : Nat) (f : W64) (spare : BitVec 4) (w : Nat) : State :=
  (s.setReg (rD2d g (0x600 + 8 * m)) f).modDmod g m fun d =>
    { d with weak := 0, train := 0, replays := [], fails := 0, spare := spare, width := w }

/-- A module in normal mode at a width, with its repaired lanes counted. -/
def State.widened (s : State) (g m : Nat) (f : W64) (w : Nat) : State :=
  (((s.setRf (rMod g m) 61 3 w).setRf (rMod g m) 57 2 (if w = 5 then 0 else popcount (bits f 0 32))).setRf (rMod g m) 55 2
    (if w = 4 then 0 else popcount (bits f 32 32))).setRf (rMod g m) 59 2 0

/-- What is told of a lane test: a repair, and a loss of width. -/
def State.laneNotes (s : State) (g m : Nat) (repaired : Bool) (half w : Nat) : State :=
  let t := if repaired then (s.pulse (770 + 8 * g)).d2dJournal g else s
  if w = 3 ∨ half = w then t else ((t.pulse (771 + 8 * g)).d2dJournal g).passModule g m

theorem laneNotes_quiet (s : State) (g m : Nat) (repaired : Bool) (half w : Nat) : Quiet s (s.laneNotes g m repaired half w) := by
  have htold : Quiet s (if repaired then (s.pulse (770 + 8 * g)).d2dJournal g else s) := by
    split
    · exact ((Quiet.refl s).pulse _).d2dJournal g
    · exact Quiet.refl s
  unfold State.laneNotes
  dsimp only
  split
  · exact htold
  · exact ((htold.pulse _).d2dJournal g).passModule g m

theorem laneTest_eq (s : State) (g m : Nat) (failed : W64) (spareFailed : BitVec 4) : s.laneTest g m failed spareFailed =
    let f := s.oldLanes g m ||| failed ||| (s.dmod g m).weak
    let spare := s.oldSpare g m ||| spareFailed
    let w := laneWidth (s.oldHalf g m) f spare
    let lo := if w = 5 then 0 else popcount (bits f 0 32)
    let hi := if w = 4 then 0 else popcount (bits f 32 32)
    let new := bits (spare &&& ~~~ (s.oldSpare g m)) 0 2
    let new' := bits (spare &&& ~~~ (s.oldSpare g m)) 2 2
    let repaired := (f &&& ~~~ (s.oldLanes g m) &&& widthLanes w) != 0 || (new != 0 && 0 < lo) || (new' != 0 && 0 < hi)
    if w = 6 then (s.tested g m f spare w).fence g m 1
    else (((s.tested g m f spare w).widened g m f w).laneNotes g m repaired (s.oldHalf g m) w).judgeGroup g := rfl

section
variable {s : State} {g m w : Nat} {f : W64} {sp : BitVec 4}

theorem tested_links : Links s (s.tested g m f sp w) (trainRegs g m) :=
  ((Links.refl s _).setReg _ (by simp [trainRegs])).modDmod _ _ _

theorem tested_grp (lo len : Nat) : (s.tested g m f sp w).rf (rD2d g 0) lo len = s.rf (rD2d g 0) lo len :=
  rf_of_reg (State.reg_setReg_ne s f (by rw [Ne, rD2d_inj]; omega)) lo len

theorem tested_lanes : (s.tested g m f sp w).reg (rD2d g (0x600 + 8 * m)) = f := State.reg_setReg_self s _ f

theorem tested_dmod : (s.tested g m f sp w).dmod g m
    = { s.dmod g m with weak := 0, train := 0, replays := [], fails := 0, spare := sp, width := w } := by
  simp [State.tested]

theorem widened_reg_ne {o : Nat} (h : o ≠ rMod g m) : (s.widened g m f w).reg o = s.reg o := by
  unfold State.widened
  rw [State.reg_setRf_ne _ h, State.reg_setRf_ne _ h, State.reg_setRf_ne _ h, State.reg_setRf_ne _ h]

theorem widened_links {a : State} (h : Links s a (trainRegs g m)) : Links s (a.widened g m f w) (trainRegs g m) := by
  have hr : rMod g m ∈ trainRegs g m := by simp [trainRegs]
  exact (((h.setRf _ _ _ hr).setRf _ _ _ hr).setRf _ _ _ hr).setRf _ _ _ hr

theorem widened_fields : let r := rMod g m
    (s.widened g m f w).rf r 61 3 = w % 2 ^ 3 ∧ (s.widened g m f w).rf r 59 2 = 0
    ∧ (s.widened g m f w).rf r 57 2 = (if w = 5 then 0 else popcount (bits f 0 32)) % 2 ^ 2
    ∧ (s.widened g m f w).rf r 55 2 = (if w = 4 then 0 else popcount (bits f 32 32)) % 2 ^ 2 := by
  unfold State.widened
  refine ⟨?_, State.rf_setRf _ _ _ _ _ (by omega), ?_, ?_⟩
  · rw [State.rf_setRf_ne _ _ _ _ _ _ _ (by omega), State.rf_setRf_ne _ _ _ _ _ _ _ (by omega), State.rf_setRf_ne _ _ _ _ _ _ _ (by omega),
      State.rf_setRf _ _ _ _ _ (by omega)]
  · rw [State.rf_setRf_ne _ _ _ _ _ _ _ (by omega), State.rf_setRf_ne _ _ _ _ _ _ _ (by omega), State.rf_setRf _ _ _ _ _ (by omega)]
  · rw [State.rf_setRf_ne _ _ _ _ _ _ _ (by omega), State.rf_setRf _ _ _ _ _ (by omega)]

end

/-- What a lane test that leaves width w shows of its module: the lane map, and the cause of the fence or the repairs. -/
def LaneShows (g m : Nat) (f : W64) (w : Nat) (t : State) : Prop :=
  t.reg (rD2d g (0x600 + 8 * m)) = f ∧ if w = 6 then t.rf (rMod g m) 51 4 = 1 else t.rf (rMod g m) 59 2 = 0
    ∧ t.rf (rMod g m) 57 2 = (if w = 5 then 0 else popcount (bits f 0 32))
    ∧ t.rf (rMod g m) 55 2 = (if w = 4 then 0 else popcount (bits f 32 32))
    ∧ (t.dmod g m).train = 0 ∧ (t.dmod g m).width = w ∧ t.rf (rD2d g 0) 61 3 = 3

section
variable {s t : State} {g m train width : Nat} {map : W64} {i : Instr} (hhere : s.d2dHere g m = true)
  (hg : s.upheld g m ∨ g < 4 ∨ Tab.get none (g - 4) s.fan = none)
include hhere hg

/-- A command that tests lanes gives the width that the failed lanes leave. -/
theorem laneTest_becomes {failed old : W64} {spare oldSpare : BitVec 4} {half : Nat} (ho : s.oldLanes g m = old)
    (hs : s.oldSpare g m = oldSpare) (hh : s.oldHalf g m = half) (ht : Quiet (s.laneTest g m failed spare) t) (hi : exec i s = .next t) :
    let f := old ||| failed ||| (s.dmod g m).weak
    let w := laneWidth half f (oldSpare ||| spare)
    Becomes s g m (trainRegs g m) i w (LaneShows g m f w) := by
  subst ho hs hh
  intro f w
  have hlt := d2dHere_lt hhere
  have hos := trainRegs_own g m
  have hlanes : rD2d g (0x600 + 8 * m) ≠ rD2d g 0 := by rw [Ne, rD2d_inj]; omega
  have hll : linkReg (rD2d g (0x600 + 8 * m)) := rD2d_link hlt.1 (by have := modulesOf_le g; omega)
  have hlr : linkReg (rMod g m) := rMod_link hlt.1 hlt.2
  rw [laneTest_eq] at ht
  dsimp only at ht
  rcases laneWidth_repairs (s.oldHalf g m) f (s.oldSpare g m ||| spare) with h6 | ⟨hw, hlo, hhi⟩
  · rw [if_pos h6] at ht
    have hJ := (fence_judged (cause := 1) hlt hg hos (by simp [trainRegs]) tested_links (tested_grp 61 3)).quiet hlt ht
    refine hJ.becomes hi (struck_modState.trans h6.symm) ⟨?_, ?_⟩
    · rw [hJ.regs _ hll hlanes, struck_reg_ne (rMod_ne_lanes g m).symm, tested_lanes]
    · rw [if_pos h6, hJ.rf hlr (rMod_ne_group g m), struck_cause (by omega)]
  · have h6 : ¬ w = 6 := by omega
    rw [if_neg h6] at ht
    have hJ := judged hlt hg hos (widened_links (f := f) (w := w) (tested_links (sp := s.oldSpare g m ||| spare)))
      ((rf_of_reg (widened_reg_ne (rMod_ne_group g m).symm) 61 3).trans (tested_grp 61 3)) (laneNotes_quiet _ g m _ _ _) ht
    obtain ⟨hst, hzero, hlow, hhigh⟩ := widened_fields (s := s.tested g m f (s.oldSpare g m ||| spare) w) (g := g) (m := m) (f := f) (w := w)
    have hst' : ((s.tested g m f (s.oldSpare g m ||| spare) w).widened g m f w).modState g m = w := hst.trans (Nat.mod_eq_of_lt (by omega))
    have hd : ((s.tested g m f (s.oldSpare g m ||| spare) w).widened g m f w).dmod g m = _ := tested_dmod
    refine hJ.becomes hi hst' ⟨?_, ?_⟩
    · rw [hJ.regs _ hll hlanes, widened_reg_ne (rMod_ne_lanes g m).symm, tested_lanes]
    · rw [if_neg h6]
      refine ⟨?_, ?_, ?_, ?_, ?_, ?_⟩
      · rw [hJ.rf hlr (rMod_ne_group g m), hzero]
      · rw [hJ.rf hlr (rMod_ne_group g m), hlow]
        split
        · rfl
        · next h => exact Nat.mod_eq_of_lt (by have := hlo h; omega)
      · rw [hJ.rf hlr (rMod_ne_group g m), hhigh]
        split
        · rfl
        · next h => exact Nat.mod_eq_of_lt (by have := hhi h; omega)
      · rw [hJ.train, hd]
      · rw [hJ.width, hd]
      · rw [hJ.state]
        exact groupState_up hlt.2 (by rw [hst']; exact hw)

/-! ### Attempts (R257, R258, R268) -/

omit hhere hg in
theorem endpointGroup_iff : s.endpointGroup g = true ↔ 4 ≤ g ∧ nth 0 s.iodVer (g - 4) = 3 := by
  unfold State.endpointGroup State.endpointAt
  simp

theorem failAttempt_retries (hi : exec i s = .next (s.failAttempt g m)) (hn : s.rf (rMod g m) 59 2 < 2) :
    Becomes s g m (trainRegs g m) i (if 4 ≤ g ∧ nth 0 s.iodVer (g - 4) = 3 then 2 else 1) fun t =>
      t.rf (rMod g m) 59 2 = s.rf (rMod g m) 59 2 + 1 ∧ t.reg (rD2d g (0x600 + 8 * m)) = 0 ∧ (t.dmod g m).train = 2
      ∧ (t.dmod g m).width = 0 := by
  have hlt := d2dHere_lt hhere
  have hr : rMod g m ∈ trainRegs g m := by simp [trainRegs]
  obtain ⟨hcount, hmap, htrain, hwidth⟩ := attemptFailed_spec (s := s) (g := g) (m := m)
  rw [failAttempt_eq, if_neg (by omega)] at hi
  have hJ := judged hlt hg (trainRegs_own g m) ((attemptFailed_links hr (by simp [trainRegs])).setRf 61 3 (if s.endpointGroup g then 2 else 1) hr)
    (rf_of_reg ((State.reg_setRf_ne _ (rMod_ne_group g m).symm).trans
      (attemptFailed_reg_ne (rMod_ne_group g m).symm (by rw [Ne, rD2d_inj]; omega))) 61 3) (Quiet.refl _) (Quiet.refl _)
  refine hJ.becomes hi ?_ ⟨?_, ?_, ?_, ?_⟩
  · rw [State.modState, State.rf_setRf _ _ _ _ _ (by omega)]
    simp only [endpointGroup_iff]
    split <;> rfl
  · rw [hJ.rf (rMod_link hlt.1 hlt.2) (rMod_ne_group g m), State.rf_setRf_ne _ _ _ _ _ _ _ (by omega), hcount]
    exact Nat.mod_eq_of_lt (by omega)
  · rw [hJ.regs _ (rD2d_link hlt.1 (by have := modulesOf_le g; omega)) (by rw [Ne, rD2d_inj]; omega),
      State.reg_setRf_ne _ (rMod_ne_lanes g m).symm, hmap]
  · rw [hJ.train, State.dmod_setRf, htrain]
  · rw [hJ.width, State.dmod_setRf, hwidth]

theorem failAttempt_fences (hi : exec i s = .next (s.failAttempt g m)) (hn : 2 ≤ s.rf (rMod g m) 59 2) :
    Becomes s g m (trainRegs g m) i 6 fun t => t.rf (rMod g m) 51 4 = 2 := by
  have hlt := d2dHere_lt hhere
  have hr : rMod g m ∈ trainRegs g m := by simp [trainRegs]
  rw [failAttempt_eq, if_pos (by omega)] at hi
  have hJ := fence_judged (cause := 2) hlt hg (trainRegs_own g m) hr (attemptFailed_links hr (by simp [trainRegs]))
    (rf_of_reg (attemptFailed_reg_ne (rMod_ne_group g m).symm (by rw [Ne, rD2d_inj]; omega)) 61 3)
  refine hJ.becomes hi struck_modState ?_
  rw [hJ.rf (rMod_link hlt.1 hlt.2) (rMod_ne_group g m), struck_cause (by omega)]

end

/-! ### Retrains and the follower's report (R257 to R260) -/

/-- A module that retrains keeps its repair map. -/
def State.retraining (s : State) (g m : Nat) : State :=
  (s.setRf (rMod g m) 61 3 2).modDmod g m fun d => { d with train := 5, replays := [], fails := 0 }

theorem retrain_eq {s : State} {g m : Nat} (h : s.modState g m = 3 ∨ s.modState g m = 4 ∨ s.modState g m = 5) :
    s.retrain g m = (((((s.retraining g m).bump (rD2d g 0x10) 16 16 1).pulse (773 + 8 * g)).d2dJournal g).judgeGroup g) := if_pos h

theorem beginTrain_eq (s : State) (g m n : Nat) :
    s.beginTrain g m n = ((s.modDmod g m fun d => { d with train := n }).setRf (rMod g m) 61 3 2).judgeGroup g := rfl

/-- A counter field after one more. -/
theorem rf_bump (s : State) (o lo len n : Nat) (h : lo + len ≤ 64) :
    (s.bump o lo len n).rf o lo len = Nat.min (s.rf o lo len + n) (2 ^ len - 1) := by
  unfold State.bump satAdd
  rw [State.rf_setRf _ _ _ _ _ h]
  have hpos : 0 < 2 ^ len := Nat.two_pow_pos len
  exact Nat.mod_eq_of_lt (lt_of_le_of_lt (Nat.min_le_right _ _) (by omega))

theorem rf_bump_ne (s : State) (o lo len n : Nat) {lo' len' : Nat} (h : lo + len ≤ lo' ∨ lo' + len' ≤ lo) :
    (s.bump o lo len n).rf o lo' len' = s.rf o lo' len' := State.rf_setRf_ne s o lo len _ lo' len' h

/-- A module that carries traffic retrains, from a state in which its counters and its own record have moved. -/
theorem retrain_judged {s a : State} {g m : Nat} {os : List Nat} (hlt : g < 8 ∧ m < modulesOf g)
    (hg : s.upheld g m ∨ g < 4 ∨ Tab.get none (g - 4) s.fan = none) (hos : OwnRegs g m os) (hr : rMod g m ∈ os) (hc : rD2d g 0x10 ∈ os)
    (h : Links s a os) (hgrp : a.rf (rD2d g 0) 61 3 = s.rf (rD2d g 0) 61 3)
    (hlive : a.modState g m = 3 ∨ a.modState g m = 4 ∨ a.modState g m = 5) :
    Judged s ((a.retraining g m).bump (rD2d g 0x10) 16 16 1) (a.retrain g m) g m os := by
  rw [retrain_eq hlive]
  have hkeep : ((a.retraining g m).bump (rD2d g 0x10) 16 16 1).reg (rD2d g 0) = a.reg (rD2d g 0) :=
    (State.reg_setRf_ne _ (by rw [Ne, rD2d_inj]; omega)).trans (State.reg_setRf_ne a (rMod_ne_group g m).symm)
  exact judged hlt hg hos (((h.setRf 61 3 2 hr).modDmod g m _).bump 16 16 1 hc) ((rf_of_reg hkeep 61 3).trans hgrp)
    (((Quiet.refl _).pulse _).d2dJournal g) (Quiet.refl _)

section
variable {s a : State} {g m : Nat} {i : Instr} (hhere : s.d2dHere g m = true)
  (hg : s.upheld g m ∨ g < 4 ∨ Tab.get none (g - 4) s.fan = none)
include hhere hg

/-- A module that carries traffic retrains: the retrain is counted, and what else the command noted stands. -/
theorem retrain_becomes (h : Links s a (trainRegs g m)) (hkeep : ∀ o, o ≠ rD2d g 0x10 → a.reg o = s.reg o)
    (hcount : a.rf (rD2d g 0x10) 16 16 = s.rf (rD2d g 0x10) 16 16)
    (hlive : s.modState g m = 3 ∨ s.modState g m = 4 ∨ s.modState g m = 5) (hi : exec i s = .next (a.retrain g m)) :
    Becomes s g m (trainRegs g m) i 2 fun t => (t.dmod g m).train = 5
      ∧ t.rf (rD2d g 0x10) 16 16 = Nat.min (s.rf (rD2d g 0x10) 16 16 + 1) 65535
      ∧ (∀ lo len, lo + len ≤ 16 ∨ 32 ≤ lo → t.rf (rD2d g 0x10) lo len = a.rf (rD2d g 0x10) lo len)
      ∧ (t.dmod g m).weak = (a.dmod g m).weak := by
  have hlt := d2dHere_lt hhere
  have hmod : rMod g m ≠ rD2d g 0x10 := by rw [Ne, rMod_eq_rD2d]; omega
  have hlive' : a.modState g m = 3 ∨ a.modState g m = 4 ∨ a.modState g m = 5 := by
    rw [modState_of_reg (hkeep _ hmod)]
    exact hlive
  have hJ := retrain_judged hlt hg (trainRegs_own g m) (by simp [trainRegs]) (by simp [trainRegs]) h
    (rf_of_reg (hkeep _ (by rw [Ne, rD2d_inj]; omega)) 61 3) hlive'
  have hd : ((a.retraining g m).bump (rD2d g 0x10) 16 16 1).dmod g m = { a.dmod g m with train := 5, replays := [], fails := 0 } := by
    simp [State.bump, State.retraining]
  have hcnt (lo len : Nat) := hJ.rf (rD2d_link (o := 0x10) hlt.1 (by omega)) (by rw [Ne, rD2d_inj]; omega) lo len
  have hold (lo len : Nat) : (a.retraining g m).rf (rD2d g 0x10) lo len = a.rf (rD2d g 0x10) lo len :=
    rf_of_reg (State.reg_setRf_ne a hmod.symm) lo len
  refine hJ.becomes hi ?_ ⟨?_, ?_, fun lo len hfar => ?_, ?_⟩
  · have hst : ((a.retraining g m).bump (rD2d g 0x10) 16 16 1).modState g m = (a.retraining g m).modState g m :=
      modState_of_reg (State.reg_setRf_ne _ hmod)
    rw [hst]
    exact State.rf_setRf a _ _ _ _ (by omega)
  · rw [hJ.train, hd]
  · rw [hcnt, rf_bump _ _ _ _ _ (by omega), hold, hcount]
    rfl
  · rw [hcnt, State.bump, State.rf_setRf_ne _ _ _ _ _ _ _ (by omega), hold]
  · rw [hJ.weak, hd]

theorem beginTrain_becomes (n : Nat) (hi : exec i s = .next (s.beginTrain g m n)) :
    Becomes s g m (trainRegs g m) i 2 fun t => (t.dmod g m).train = n := by
  have hlt := d2dHere_lt hhere
  rw [beginTrain_eq] at hi
  have hJ := judged hlt hg (trainRegs_own g m)
    (((Links.refl s _).modDmod g m fun d => { d with train := n }).setRf 61 3 2 (by simp [trainRegs]))
    (rf_of_reg (State.reg_setRf_ne _ (rMod_ne_group g m).symm) 61 3) (Quiet.refl _) (Quiet.refl _)
  refine hJ.becomes hi (State.rf_setRf _ _ _ _ _ (by omega)) ?_
  rw [hJ.train, State.dmod_setRf, State.dmod_modDmod_self]

end

/-! ### Flits (R254, R259) -/

theorem voteMasks_of {bad : W64} (h : ∀ i, i < 16 → (bit bad i).toNat + (bit bad (i + 16)).toNat + (bit bad (i + 32)).toNat ≤ 1) :
    voteMasks bad = true := by
  unfold voteMasks
  rw [List.all_eq_true]
  exact fun i hi => decide_eq_true (h i (List.mem_range.1 hi))

/-- A module in normal mode carries traffic. -/
theorem carries_live {s : State} {g m : Nat} (hhere : s.d2dHere g m = true)
    (hlive : s.modState g m = 3 ∨ s.modState g m = 4 ∨ s.modState g m = 5) : s.carries g m = true := by
  unfold State.carries
  dsimp only
  rcases hlive with h | h | h <;> simp [hhere, h]

/-- A bad flit is counted, with the time of its replay. -/
def State.replayed (s : State) (g m : Nat) : State :=
  (s.bump (rD2d g 0x10) 32 32 1).modDmod g m fun d =>
    { d with fails := d.fails + 1, replays := s.time.toNat :: d.replays.filter (fun n => s.time.toNat < n + 1000000) }

section
variable {s : State} {g m : Nat} {bad : W64}

theorem exec_d2dFlitRx_good {ok : Bool} (hc : s.carries g m = true) (h : ok = true ∨ (s.modState g m = 1 ∧ voteMasks bad = true)) :
    exec (.d2dFlitRx g m ⟨ok, bad⟩) s = .next (s.modDmod g m fun d => { d with fails := 0 }) := by
  show execD2dFlitRx g m ⟨ok, bad⟩ s = _
  have hgood : (ok || (s.modState g m == 1 && voteMasks bad)) = true := by simpa using h
  unfold execD2dFlitRx
  rw [if_pos hc, if_pos hgood]
  rfl

theorem exec_d2dFlitRx_bad (hhere : s.d2dHere g m = true) (hlive : s.modState g m = 3 ∨ s.modState g m = 4 ∨ s.modState g m = 5) :
    exec (.d2dFlitRx g m ⟨false, bad⟩) s = .next (if 64 < ((s.replayed g m).dmod g m).replays.length ∨ 9 ≤ (s.dmod g m).fails + 1
      then (s.replayed g m).retrain g m else s.replayed g m) := by
  show execD2dFlitRx g m ⟨false, bad⟩ s = _
  have hbad : ¬ (false || (s.modState g m == 1 && voteMasks bad)) = true := by
    rcases hlive with h | h | h <;> simp [h]
  have hfails : ((s.replayed g m).dmod g m).fails = (s.dmod g m).fails + 1 := congrArg DModule.fails (State.dmod_modDmod_self _ g m _)
  unfold execD2dFlitRx
  rw [if_pos (carries_live hhere hlive), if_neg hbad, ← hfails]
  simp only [Bool.or_eq_true, decide_eq_true_eq]
  rfl

theorem replayed_links : Links s (s.replayed g m) (trainRegs g m) :=
  ((Links.refl s _).bump _ _ _ (by simp [trainRegs])).modDmod _ _ _

theorem replayed_dmod : (s.replayed g m).dmod g m = { s.dmod g m with
    fails := (s.dmod g m).fails + 1, replays := s.time.toNat :: (s.dmod g m).replays.filter (fun n => s.time.toNat < n + 1000000) } :=
  State.dmod_modDmod_self _ g m _

theorem replayed_reg_ne {o : Nat} (h : o ≠ rD2d g 0x10) : (s.replayed g m).reg o = s.reg o := State.reg_setRf_ne s h

theorem replayed_count : (s.replayed g m).rf (rD2d g 0x10) 32 32 = Nat.min (s.rf (rD2d g 0x10) 32 32 + 1) (2 ^ 32 - 1) :=
  rf_bump s _ _ _ _ (by omega)

theorem replayed_retrains : (s.replayed g m).rf (rD2d g 0x10) 16 16 = s.rf (rD2d g 0x10) 16 16 :=
  (State.rf_modDmod _ _ _ _ _ _ _).trans (rf_bump_ne s _ _ _ _ (by omega))

/-- A replay that is not the last is counted, and nothing else comes of it. -/
theorem replayed_becomes {i : Instr} (hi : exec i s = .next (s.replayed g m)) :
    Becomes s g m (trainRegs g m) i (s.modState g m) fun t =>
      t.rf (rD2d g 0x10) 32 32 = Nat.min (s.rf (rD2d g 0x10) 32 32 + 1) (2 ^ 32 - 1) ∧ (t.dmod g m).fails = (s.dmod g m).fails + 1 := by
  have hmod (v : Nat) (hv : v < modulesOf g) : (s.replayed g m).modState g v = s.modState g v :=
    modState_of_reg (replayed_reg_ne (by rw [Ne, rMod_eq_rD2d]; omega))
  refine ⟨_, hi, fun h => ⟨replayed_links, ?_⟩, rfl, rfl, ?_, fun v hv _ => hmod v hv, replayed_count, ?_⟩
  · rw [rf_of_reg (replayed_reg_ne (by rw [Ne, rD2d_inj]; omega)), h.1]
  · exact modState_of_reg (replayed_reg_ne (by rw [Ne, rMod_eq_rD2d]; omega))
  · rw [replayed_dmod]

end

/-- Lanes with a low margin are counted, and noted for the repair (R260). -/
def State.lowMargin (s : State) (g m : Nat) (low : W64) : State :=
  (s.bump (rD2d g 0x10) 0 16 1).modDmod g m fun d => { d with weak := low }

section
variable {s : State} {g m : Nat} {low : W64}

theorem lowMargin_links : Links s (s.lowMargin g m low) (trainRegs g m) := ((Links.refl s _).bump _ _ _ (by simp [trainRegs])).modDmod _ _ _

theorem lowMargin_reg_ne {o : Nat} (h : o ≠ rD2d g 0x10) : (s.lowMargin g m low).reg o = s.reg o := State.reg_setRf_ne s h

theorem lowMargin_retrains : (s.lowMargin g m low).rf (rD2d g 0x10) 16 16 = s.rf (rD2d g 0x10) 16 16 :=
  (State.rf_modDmod _ _ _ _ _ _ _).trans (rf_bump_ne s _ _ _ _ (by omega))

theorem lowMargin_count : (s.lowMargin g m low).rf (rD2d g 0x10) 0 16 = Nat.min (s.rf (rD2d g 0x10) 0 16 + 1) 65535 :=
  (State.rf_modDmod _ _ _ _ _ _ _).trans (rf_bump s _ _ _ _ (by omega))

theorem lowMargin_weak : ((s.lowMargin g m low).dmod g m).weak = low := congrArg DModule.weak (State.dmod_modDmod_self _ g m _)

end

/-! ### The commands -/

section
variable {s : State} {g m : Nat} (hhere : s.d2dHere g m = true)
include hhere

theorem exec_d2dTrainActive (failed : W64) (spare : BitVec 4) (hr : (s.dmod g m).role = 3) (h1 : 1 ≤ (s.dmod g m).train)
    (h4 : (s.dmod g m).train ≤ 4) :
    exec (.d2dTrainActive g m failed spare) s = .next ((s.laneTest g m failed spare).resteer g).drGo := by
  show execD2dTrainActive g m failed spare s = _
  unfold execD2dTrainActive
  simp only [hhere, hr, h1, h4, beq_self_eq_true, decide_true, Bool.and_self, if_true]
  rfl

theorem exec_d2dRetrainDone (failed : W64) (spare : BitVec 4) (hst : s.modState g m = 2) (ht : (s.dmod g m).train = 5) :
    exec (.d2dRetrainDone g m failed spare) s = .next (s.laneTest g m failed spare).drGo := by
  show execD2dRetrainDone g m failed spare s = _
  unfold execD2dRetrainDone
  simp only [hhere, hst, ht, beq_self_eq_true, Bool.and_self, if_true]
  rfl

theorem exec_d2dTrainStateTimeout (ht : (s.dmod g m).train ≠ 0) :
    exec (.d2dTrainStateTimeout g m) s = .next (s.failAttempt g m) := by
  show execD2dTrainStateTimeout g m s = _
  have hc : (s.d2dHere g m && (s.dmod g m).train != 0) = true := by simp [hhere, ht]
  unfold execD2dTrainStateTimeout
  rw [if_pos hc]
  rfl

/-- A report that disagrees with a leader in normal mode fails its attempt (R258). -/
theorem exec_d2dStateReport_differs (x : StateReport) (hlive : s.modState g m = 3 ∨ s.modState g m = 4 ∨ s.modState g m = 5)
    (hx : x.width ≠ (s.dmod g m).width ∨ x.lanes ≠ s.reg (rD2d g (0x600 + 8 * m))) :
    exec (.d2dStateReport g m x) s = .next (s.failAttempt g m) := by
  show execD2dStateReport g m x s = _
  have hactive : (s.modState g m == 3 || s.modState g m == 4 || s.modState g m == 5) = true := by simpa [or_assoc] using hlive
  have hdiffer : (x.width != (s.dmod g m).width || x.lanes != s.reg (rD2d g (0x600 + 8 * m))) = true := by simpa using hx
  unfold execD2dStateReport
  simp only [hhere, hactive, hdiffer, Bool.true_or, Bool.and_self, if_true]
  rfl

omit hhere in
theorem exec_d2dStateReport_agrees (n : Nat) (hlive : s.modState g m = 3 ∨ s.modState g m = 4 ∨ s.modState g m = 5)
    (ht : (s.dmod g m).train = 0) :
    exec (.d2dStateReport g m ⟨n, (s.dmod g m).width, s.reg (rD2d g (0x600 + 8 * m))⟩) s = .next s := by
  show execD2dStateReport g m _ s = _
  have hactive : (s.modState g m == 3 || s.modState g m == 4 || s.modState g m == 5) = true := by simpa [or_assoc] using hlive
  unfold execD2dStateReport
  simp [hactive, ht]
  rfl

/-- The follower enters MBINIT, or goes further in the attempt (R257). -/
theorem exec_d2dStateReport_begins {n : Nat} (map : W64)
    (hlive : ¬ (s.modState g m = 3 ∨ s.modState g m = 4 ∨ s.modState g m = 5)) (h1 : 1 ≤ (s.dmod g m).train)
    (h4 : (s.dmod g m).train ≤ 4) (hn : 2 ≤ n) (hn4 : n ≤ 4) :
    exec (.d2dStateReport g m ⟨n, 0, map⟩) s = .next (s.beginTrain g m (Nat.max (s.dmod g m).train n)) := by
  show execD2dStateReport g m _ s = _
  have hactive : (s.modState g m == 3 || s.modState g m == 4 || s.modState g m == 5) = false := by simpa [and_assoc] using hlive
  have htrain : ((s.dmod g m).train != 0) = true := by simp; omega
  have hsteps : decide ((s.dmod g m).train < 5) = true := by simp; omega
  unfold execD2dStateReport
  simp only [hhere, hactive, htrain, hsteps, hn, hn4, bne_self_eq_false, Bool.or_self, Bool.false_eq_true, if_false, Bool.or_true,
    Bool.and_self, decide_true, if_true]
  rfl

theorem exec_d2dMarginRead (low : W64) (hlow : low ≠ 0) (hv : g < 4 ∨ nth 0 s.iodVer (g - 4) = 2)
    (hlive : s.modState g m = 3 ∨ s.modState g m = 4 ∨ s.modState g m = 5) : exec (.d2dMarginRead g m low) s
      = .next ((s.lowMargin g m low).retrain g m) := by
  show execD2dMarginRead g m low s = _
  have hc : (s.d2dHere g m && (decide (g < 4) || nth 0 s.iodVer (g - 4) == 2) && low != 0
      && (s.modState g m == 3 || s.modState g m == 4 || s.modState g m == 5)) = true := by
    simpa [hhere, hlow, or_assoc] using And.intro (And.intro hv hlow) hlive
  unfold execD2dMarginRead
  dsimp only
  rw [if_pos hc]
  rfl

end

/-! ### Moved flows (R261) -/

theorem exec_flowRelease {s : State} (g flow : Nat) (h : s.drQueue = []) :
    exec (.flowRelease g flow) s = .next { s with movedFlows := s.movedFlows.filter (· != (g, flow)) } := by
  show execFlowRelease g flow s = _
  have hnone : (s.drQueue.any fun k => k.again && k.group == g && k.flow == flow) = false := by rw [h]; rfl
  unfold execFlowRelease
  rw [if_neg (by rw [hnone]; exact Bool.false_ne_true)]
  exact congrArg Host.Outcome.next (drGo_empty h)

theorem exec_flowRelease_waits {s : State} {g flow : Nat} (h : ∃ k ∈ s.drQueue, k.again = true ∧ k.group = g ∧ k.flow = flow) :
    exec (.flowRelease g flow) s = .next s := by
  show execFlowRelease g flow s = _
  have hany : (s.drQueue.any fun k => k.again && k.group == g && k.flow == flow) = true := by
    rw [List.any_eq_true]
    obtain ⟨k, hk, hagain, hgroup, hflow⟩ := h
    exact ⟨k, hk, by simp [hagain, hgroup, hflow]⟩
  unfold execFlowRelease
  rw [if_pos hany]
  rfl

/-! ### The statement -/

/-- Settles O40: lane tests by `laneTest_becomes`, failed attempts by `failAttempt_retries` and `failAttempt_fences`, the follower's MBINIT by
`beginTrain_becomes`, and retrains by `retrain_becomes`; each rests on `judged`, what a command of a module leaves once its group is judged. -/
theorem linkTraining : Obligations.LinkTraining := by
  intro g m train width failed low map spare s hhere upheld hg r lanes cnt d os live becomes tests attempts retrains
  have hg : s.upheld g m ∨ g < 4 ∨ Tab.get none (g - 4) s.fan = none := hg
  have hattempts : ∀ i, exec i s = .next (s.failAttempt g m) → attempts i := fun i hi =>
    ⟨failAttempt_retries hhere hg hi, failAttempt_fences hhere hg hi⟩
  refine ⟨fun hr h1 h4 => ?_, fun hst ht => ?_, fun ht => hattempts _ (exec_d2dTrainStateTimeout hhere ht),
    fun hlive hx => hattempts _ (exec_d2dStateReport_differs hhere _ hlive hx), fun hlive ht => exec_d2dStateReport_agrees train hlive ht,
    fun hlive h1 h4 hn hn4 => beginTrain_becomes hhere hg _ (exec_d2dStateReport_begins hhere map hlive h1 h4 hn hn4),
    fun hlive bad => exec_d2dFlitRx_good (carries_live hhere hlive) (.inl rfl), fun hst ht bad hbad => ?_, fun hlive hf hrep bad => ?_,
    fun hlive hf bad => ?_, fun hlive hlow hv => ?_, fun flow => ⟨exec_flowRelease g flow, exec_flowRelease_waits⟩⟩
  · have hnew : ((s.dmod g m).train == 5) = false := beq_eq_false_iff_ne.2 (Nat.ne_of_lt (Nat.lt_succ_of_le h4))
    have h := laneTest_becomes hhere hg (old := 0) (oldSpare := 0) (half := 0) (by rw [State.oldLanes, hnew]; rfl)
      (by rw [State.oldSpare, hnew]; rfl) (by rw [State.oldHalf, hnew]; rfl) ((Quiet.refl _).resteer g).drGo
      (exec_d2dTrainActive hhere failed spare hr h1 h4)
    dsimp only at h
    rw [laneWidth_eq] at h
    exact h
  · have hkept : ((s.dmod g m).train == 5) = true := beq_iff_eq.2 ht
    have h := laneTest_becomes hhere hg (old := s.reg lanes) (oldSpare := d.spare) (half := if d.width = 3 then 0 else d.width)
      (by rw [State.oldLanes, hkept]; rfl) (by rw [State.oldSpare, hkept]; rfl)
      (by rw [State.oldHalf, hkept]; by_cases h3 : (s.dmod g m).width = 3 <;> simp [d, h3]) (Quiet.refl _).drGo
      (exec_d2dRetrainDone hhere failed spare hst ht)
    dsimp only at h
    rw [laneWidth_eq] at h
    exact h
  · refine exec_d2dFlitRx_good ?_ (.inr ⟨hst, voteMasks_of hbad⟩)
    unfold State.carries
    simp [hhere, hst, show (s.dmod g m).train = 0 from ht]
  · have hfew : ¬ (64 < ((s.replayed g m).dmod g m).replays.length ∨ 9 ≤ (s.dmod g m).fails + 1) := by
      have hlen : ((s.replayed g m).dmod g m).replays.length = 1 := by
        rw [replayed_dmod, show (s.dmod g m).replays = [] from hrep]
        rfl
      have hlt : (s.dmod g m).fails < 8 := hf
      omega
    exact replayed_becomes (by rw [exec_d2dFlitRx_bad hhere hlive, if_neg hfew])
  · have hmany : 64 < ((s.replayed g m).dmod g m).replays.length ∨ 9 ≤ (s.dmod g m).fails + 1 := .inr (Nat.succ_le_succ hf)
    have h := retrain_becomes (i := .d2dFlitRx g m ⟨false, bad⟩) hhere hg replayed_links (fun o ho => replayed_reg_ne ho) replayed_retrains
      hlive (by rw [exec_d2dFlitRx_bad hhere hlive, if_pos hmany])
    exact h.imp fun t ⟨htrain, hcount, hcnt, _⟩ => ⟨htrain, hcount, (hcnt 32 32 (.inr le_rfl)).trans replayed_count⟩
  · have h := retrain_becomes hhere hg lowMargin_links (fun o ho => lowMargin_reg_ne ho) lowMargin_retrains hlive
      (exec_d2dMarginRead hhere low hlow hv hlive)
    exact h.imp fun t ⟨htrain, hcount, hcnt, hweak⟩ =>
      ⟨htrain, hcount, hweak.trans lowMargin_weak, (hcnt 0 16 (.inl le_rfl)).trans lowMargin_count⟩

end Sys2Proof.Machine
end

section
/-! The role exchange of die-to-die modules: the partner that fits, and what is noted of it (O41). -/

namespace Sys2Proof.Machine

/-! ### A partner that fits (R263, R264, R268) -/

/-- The partner's messages fit the part: its role, versions, credits, modules and packet size. -/
def State.roleFits (s : State) (g : Nat) (adv cred : W64) : Prop :=
  (if g < 4 then fld adv 60 4 = 1 else if s.hasIo (g - 4) = true then fld adv 60 4 = 2 else fld adv 60 4 = 3 ∧ g ≠ 4)
  ∧ fld adv 56 4 = 1 ∧ (fld adv 48 4 = 1 ∨ fld adv 48 4 = 2)
  ∧ (8 ≤ fld cred 50 10 ∧ 64 ≤ fld cred 40 10 ∧ 256 ≤ fld cred 30 10 ∧ 64 ≤ fld cred 20 10 ∧ 256 ≤ fld cred 10 10 ∧ 128 ≤ fld cred 0 10)
  ∧ fld adv 40 8 = modulesOf g ∧ fld adv 32 8 = 64

theorem credits_fit (cred : W64) : (List.range 6).any (fun c => roleCredit cred c < minCredit c) = false ↔
    8 ≤ fld cred 50 10 ∧ 64 ≤ fld cred 40 10 ∧ 256 ≤ fld cred 30 10 ∧ 64 ≤ fld cred 20 10 ∧ 256 ≤ fld cred 10 10 ∧ 128 ≤ fld cred 0 10 := by
  rw [show List.range 6 = [0, 1, 2, 3, 4, 5] from rfl]
  simp [roleCredit, minCredit]

/-- A refusal is the first reason that holds. -/
theorem refuse_none_iff {p : Prop} [Decidable p] {n : Nat} {x : Option Nat} : (if p then some n else x) = none ↔ ¬ p ∧ x = none := by
  split <;> simp_all

theorem roleReason_none_iff (s : State) (g : Nat) (adv cred : W64) : s.roleReason g adv cred = none ↔ s.roleFits g adv cred := by
  have hrole : (if g < 4 then fld adv 60 4 == 1 else if s.hasIo (g - 4) then fld adv 60 4 == 2 else fld adv 60 4 == 3 && g != 4) = true ↔
      (if g < 4 then fld adv 60 4 = 1 else if s.hasIo (g - 4) = true then fld adv 60 4 = 2 else fld adv 60 4 = 3 ∧ g ≠ 4) := by
    split
    · simp
    · split <;> simp
  unfold State.roleReason State.roleFits
  dsimp only
  rw [← hrole, ← credits_fit]
  simp only [refuse_none_iff, Bool.not_eq_true', Bool.not_eq_false, Bool.not_eq_true, and_true, ne_eq, not_not, Bool.or_eq_true,
    not_or, beq_iff_eq, decide_eq_true_eq, and_assoc]

/-! ### The partner admitted (R263, R264) -/

/-- ROLE_ACK is sent, and the group knows its partner. -/
def State.welcomed (s : State) (g m : Nat) (a : W64) : State :=
  let t := (s.send (.role g m 2 0)).modDmod g m fun d => { d with role := 3, missed := 0 }
  ((t.setRf (rD2d g 0) 57 4 (fld a 60 4)).setRf (rD2d g 0) 53 4 (fld a 48 4)).setReg (rD2d g 0x20) (BitVec.ofNat 64 (fld a 0 32))

/-- An endpoint that is admitted is noted as attached (R268). -/
def State.noteAttached (s : State) (g : Nat) (a : W64) : State :=
  if fld a 60 4 = 3 && !hasNat s.attached (g - 4) then { s with attached := (g - 4) :: s.attached } else s

/-- The credits of both sides are noted (R264). -/
def State.credited (s : State) (g m : Nat) (c : W64) : State :=
  (List.range 6).foldl (fun t k =>
    { t with drCred := Tab.put 0 (drIx g m k) (roleCredit c k) t.drCred, drPart := Tab.put 0 (drIx g m k) (ownCredit k) t.drPart }) s

/-- The partner is admitted. -/
def State.admitted (s : State) (g m : Nat) (a c : W64) : State := ((s.welcomed g m a).noteAttached g a).credited g m c

theorem answerRole_none {s : State} {g m : Nat} (h : (s.dmod g m).cred = none) : s.answerRole g m = s := by
  unfold State.answerRole
  dsimp only
  rw [h]
  cases (s.dmod g m).adv <;> rfl

theorem answerRole_refuses {s : State} {g m : Nat} {a c : W64} (ha : (s.dmod g m).adv = some a) (hc : (s.dmod g m).cred = some c)
    (h : ¬ s.roleFits g a c) : ∃ r, s.answerRole g m = (s.send (.role g m 3 r)).fence g m 4 := by
  obtain ⟨r, hr⟩ := Option.ne_none_iff_exists'.1 (mt (roleReason_none_iff s g a c).1 h)
  unfold State.answerRole
  dsimp only
  rw [ha, hc]
  dsimp only
  rw [hr]
  exact ⟨_, rfl⟩

/-- Both tables of credits are filled class by class. -/
theorem foldl_credits (g m : Nat) (c : W64) (l : List Nat) (t : State) :
    l.foldl (fun t k => { t with drCred := Tab.put 0 (drIx g m k) (roleCredit c k) t.drCred,
                                 drPart := Tab.put 0 (drIx g m k) (ownCredit k) t.drPart }) t
      = { t with drCred := l.foldl (fun p k => Tab.put 0 (drIx g m k) (roleCredit c k) p) t.drCred,
                 drPart := l.foldl (fun p k => Tab.put 0 (drIx g m k) (ownCredit k) p) t.drPart } := by
  induction l generalizing t with
  | nil => rfl
  | cons k l ih => exact ih _

theorem answerRole_admits {s : State} {g m : Nat} {a c : W64} (ha : (s.dmod g m).adv = some a) (hc : (s.dmod g m).cred = some c)
    (h : s.roleFits g a c) :
    s.answerRole g m = if (s.admitted g m a c).crownRuns then (s.admitted g m a c).beginTrain g m 1 else (s.admitted g m a c).drGo := by
  unfold State.answerRole
  dsimp only
  rw [ha, hc]
  dsimp only
  rw [(roleReason_none_iff s g a c).2 h]
  rfl

section
variable {s : State} {g m : Nat} {a c : W64}

/-- Registers that the exchange of module m may write: its status, its group's, and the READY map. -/
def roleRegs (g m : Nat) : List Nat := [rMod g m, rD2d g 0, rD2d g 0x20, rBoot 0x118]

theorem roleRegs_own (g m : Nat) : OwnRegs g m (roleRegs g m) := by
  refine ⟨by simp [roleRegs], by simp [roleRegs], fun v _ hv => ?_⟩
  have hb : rMod g v ≠ rBoot 0x118 := rD2d_ne_boot g _
  simp [roleRegs, rMod_inj, rMod_eq_rD2d, hv, hb]
  omega

theorem admitted_eq (s : State) (g m : Nat) (a c : W64) : ∃ l, s.admitted g m a c = { s.welcomed g m a with
    attached := l, drCred := (List.range 6).foldl (fun p k => Tab.put 0 (drIx g m k) (roleCredit c k) p) s.drCred,
    drPart := (List.range 6).foldl (fun p k => Tab.put 0 (drIx g m k) (ownCredit k) p) s.drPart } := by
  unfold State.admitted State.noteAttached
  split <;> exact ⟨_, foldl_credits g m c (List.range 6) _⟩

theorem admitted_links : Links { s with attached := (s.admitted g m a c).attached } (s.admitted g m a c) (roleRegs g m) := by
  have h0 : rD2d g 0 ∈ roleRegs g m := by simp [roleRegs]
  have h : Links s (s.welcomed g m a) (roleRegs g m) :=
    (((((Links.refl s _).trans ⟨fun _ _ _ => rfl, rfl⟩ : Links s (s.send (.role g m 2 0)) (roleRegs g m)).modDmod g m _).setRf _ _ _ h0).setRf
      _ _ _ h0).setReg _ (by simp [roleRegs])
  obtain ⟨l, hl⟩ := admitted_eq s g m a c
  rw [hl]
  exact ⟨h.regs, congrArg (fun z : State => { z with attached := l }) h.rest⟩

theorem admitted_dmod : (s.admitted g m a c).dmod g m = { s.dmod g m with role := 3, missed := 0 } := by
  obtain ⟨l, hl⟩ := admitted_eq s g m a c
  have h : (s.admitted g m a c).dmod g m
      = ((s.send (.role g m 2 0)).modDmod g m fun d => { d with role := 3, missed := 0 }).dmod g m := by rw [hl]; rfl
  rw [h, State.dmod_modDmod_self]
  rfl

theorem admitted_reg (o : Nat) : (s.admitted g m a c).reg o = (s.welcomed g m a).reg o := by
  obtain ⟨l, hl⟩ := admitted_eq s g m a c
  rw [hl]
  rfl

theorem admitted_reg_ne {o : Nat} (h0 : o ≠ rD2d g 0) (h1 : o ≠ rD2d g 0x20) : (s.admitted g m a c).reg o = s.reg o :=
  (admitted_reg o).trans ((State.reg_setReg_ne _ _ h1).trans ((State.reg_setRf_ne _ h0).trans (State.reg_setRf_ne _ h0)))

theorem admitted_partner : (s.admitted g m a c).reg (rD2d g 0x20) = BitVec.ofNat 64 (fld a 0 32) :=
  (admitted_reg _).trans (State.reg_setReg_self _ _ _)

theorem admitted_grp : (s.admitted g m a c).reg (rD2d g 0) = setFld (setFld (s.reg (rD2d g 0)) 57 4 (fld a 60 4)) 53 4 (fld a 48 4) := by
  rw [admitted_reg, State.welcomed, State.reg_setReg_ne _ _ (by rw [Ne, rD2d_inj]; omega), State.reg_setRf_self, State.reg_setRf_self]
  rfl

theorem admitted_fields : (s.admitted g m a c).rf (rD2d g 0) 61 3 = s.rf (rD2d g 0) 61 3
    ∧ (s.admitted g m a c).rf (rD2d g 0) 57 4 = fld a 60 4 ∧ (s.admitted g m a c).rf (rD2d g 0) 53 4 = fld a 48 4 := by
  unfold State.rf
  rw [admitted_grp]
  refine ⟨?_, ?_, ?_⟩
  · rw [fld_setFld_ne _ _ _ _ _ _ (by omega), fld_setFld_ne _ _ _ _ _ _ (by omega)]
  · rw [fld_setFld_ne _ _ _ _ _ _ (by omega), fld_setFld _ _ _ _ (by omega)]
    exact Nat.mod_eq_of_lt (fld_lt _ _ _)
  · rw [fld_setFld _ _ _ _ (by omega)]
    exact Nat.mod_eq_of_lt (fld_lt _ _ _)

theorem drIx_inj {g m k k' : Nat} : drIx g m k = drIx g m k' ↔ k = k' := by
  unfold drIx
  omega

theorem admitted_credits {k : Nat} (hk : k < 6) : Tab.get 0 (drIx g m k) (s.admitted g m a c).drCred = fld c (50 - 10 * k) 10
    ∧ Tab.get 0 (drIx g m k) (s.admitted g m a c).drPart = nth 0 [66, 66, 256, 66, 256, 128] k := by
  have hown : ∀ k < 6, ownCredit k = nth 0 [66, 66, 256, 66, 256, 128] k := by decide
  have hmem : ∃ p ∈ List.range 6, drIx g m p = drIx g m k := ⟨k, List.mem_range.2 hk, rfl⟩
  obtain ⟨l, hl⟩ := admitted_eq s g m a c
  rw [hl]
  dsimp only
  refine ⟨Tab.get_puts 0 (drIx g m) (roleCredit c) _ _ _ _ (fun p _ hp => by rw [drIx_inj.1 hp]; rfl) hmem, ?_⟩
  refine Tab.get_puts 0 (drIx g m) ownCredit _ _ _ _ (fun p _ hp => ?_) hmem
  rw [drIx_inj.1 hp]
  exact hown k hk

theorem admitted_crown (hg : g < 8) : (s.admitted g m a c).crownRuns = true ↔ s.rf (rCrn 0) 29 3 = 2 := by
  unfold State.crownRuns
  have hne (o : Nat) : rCrn 0 ≠ rD2d g o := by unfold rCrn rD2d; omega
  rw [rf_of_reg (admitted_reg_ne (hne 0) (hne 0x20)), beq_iff_eq]

end

end Sys2Proof.Machine
end

section
/-! The role exchange of die-to-die modules: the commands, a module fenced, and the partner admitted (O41). -/

namespace Sys2Proof.Machine

/-! ### The commands of the exchange (R263, R270) -/

section
variable {s : State} {g m : Nat} (hhere : s.d2dHere g m = true) (h0 : s.modState g m ≠ 0) (h6 : s.modState g m ≠ 6)
include hhere h0 h6

theorem roleHere_of : s.roleHere g m = true := by
  simp [State.roleHere, hhere, h0, h6]

theorem exec_roleAdv (adv : W64) : exec (.roleAdv g m adv) s = .next (if (s.dmod g m).role = 3 then s.sidebandBreach g m
    else (s.modDmod g m fun d => { d with role := 1, adv := some adv }).answerRole g m) := by
  show execRoleAdv g m adv s = _
  unfold execRoleAdv
  rw [if_pos (roleHere_of hhere h0 h6)]
  split <;> rfl

theorem exec_roleCred (cred : W64) : exec (.roleCred g m cred) s = .next (if (s.dmod g m).role ≠ 1 then s.sidebandBreach g m
    else (s.modDmod g m fun d => { d with role := 2, cred := some cred }).answerRole g m) := by
  show execRoleCred g m cred s = _
  unfold execRoleCred
  rw [if_pos (roleHere_of hhere h0 h6)]
  split <;> rfl

theorem exec_roleAck_early (hr : (s.dmod g m).role ≠ 3) : exec (.roleAck g m) s = .next (s.sidebandBreach g m) := by
  show execRoleAck g m s = _
  unfold execRoleAck
  rw [if_pos (by simp [roleHere_of hhere h0 h6, hr])]
  rfl

theorem exec_roleNak {reason : Nat} (hr : reason ≤ 255) : exec (.roleNak g m reason) s = .next (s.fence g m 4) := by
  show execRoleNak g m reason s = _
  unfold execRoleNak
  rw [if_pos (by simp [roleHere_of hhere h0 h6, hr])]
  rfl

theorem exec_roleTimeout (hr : (s.dmod g m).role ≠ 3) : exec (.roleTimeout g m) s = .next (if 2 ≤ (s.dmod g m).missed then s.fence g m 3
    else (s.modDmod g m fun d => { d with missed := d.missed + 1 }).roleStart g m) := by
  show execRoleTimeout g m s = _
  unfold execRoleTimeout
  dsimp only
  rw [if_pos (by simp [roleHere_of hhere h0 h6, hr])]
  split <;> rfl

end

theorem exec_roleAck_late {s : State} {g m : Nat} (hr : (s.dmod g m).role = 3) : exec (.roleAck g m) s = .next s := by
  show execRoleAck g m s = _
  unfold execRoleAck
  rw [if_neg (by simp [hr])]
  rfl

theorem roleStart_eq (s : State) (g m : Nat) (f : DModule → DModule) : (s.modDmod g m f).roleStart g m =
    ((s.modDmod g m fun d => { f d with role := 0, adv := none, cred := none }).send (.role g m 0 (ownAdv g))).send (.role g m 1 ownCred) := by
  unfold State.roleStart
  rw [State.modDmod_modDmod]

/-! ### A module fenced by the exchange, and a partner admitted -/

section
variable {s a : State} {g m : Nat} {i : Instr} (hhere : s.d2dHere g m = true)
  (hg : s.upheld g m ∨ g < 4 ∨ Tab.get none (g - 4) s.fan = none)
include hhere hg

theorem fence_role {cause : Nat} (hc : cause < 16) (h : Links s a (roleRegs g m)) (hgrp : a.rf (rD2d g 0) 61 3 = s.rf (rD2d g 0) 61 3)
    (hi : exec i s = .next (a.fence g m cause)) : ∃ t, exec i s = .next t
      ∧ ((s.upheld g m → Links s t (roleRegs g m)) ∧ t.mem = s.mem ∧ t.cores = s.cores) ∧ t.modState g m = 6
      ∧ t.rf (rMod g m) 51 4 = cause := by
  have hlt := d2dHere_lt hhere
  have hJ := fence_judged (cause := cause) hlt hg (roleRegs_own g m) (by simp [roleRegs]) h hgrp
  refine ⟨_, hi, ⟨fun hu => (hJ.links hu).1, hJ.mem, hJ.cores⟩, hJ.own.trans struck_modState, ?_⟩
  rw [hJ.rf (rMod_link hlt.1 hlt.2) (rMod_ne_group g m), struck_cause hc]

end

/-- The credits of a judged group's modules stand. -/
theorem judgeGroup_credits {s : State} {g : Nat} (hg : g < 8)
    (h : (s.rf (rD2d g 0) 61 3 = 3 ∧ s.groupState g = 3) ∨ g < 4 ∨ Tab.get none (g - 4) s.fan = none) :
    (s.judgeGroup g).drCred = s.drCred ∧ (s.judgeGroup g).drPart = s.drPart := by
  have hafar := judgeGroup_afar hg h
  have hmark := marked_shows s g
  exact ⟨hafar.drCred.trans (hmark.get State.drCred fun _ _ _ => rfl), hafar.drPart.trans (hmark.get State.drPart fun _ _ _ => rfl)⟩

/-- A module after ROLE_CRED, and the partner that its messages bring in. -/
def State.credHeard (s : State) (g m : Nat) (adv cred : W64) : State :=
  (s.modDmod g m fun d => { d with role := 2, cred := some cred }).admitted g m adv cred

section
variable {s : State} {g m : Nat} {adv cred : W64}

theorem credHeard_links :
    Links { s with attached := (s.credHeard g m adv cred).attached } (s.credHeard g m adv cred) (roleRegs g m) := by
  have h := admitted_links (s := s.modDmod g m fun d => { d with role := 2, cred := some cred }) (g := g) (m := m) (a := adv) (c := cred)
  have hstart : Links { s with attached := (s.credHeard g m adv cred).attached }
      { s.modDmod g m fun d => { d with role := 2, cred := some cred } with attached := (s.credHeard g m adv cred).attached }
      (roleRegs g m) := ⟨fun _ _ _ => rfl, rfl⟩
  exact hstart.trans h

theorem credHeard_reg_ne {o : Nat} (h0 : o ≠ rD2d g 0) (h1 : o ≠ rD2d g 0x20) : (s.credHeard g m adv cred).reg o = s.reg o :=
  admitted_reg_ne h0 h1

theorem credHeard_modState (v : Nat) : (s.credHeard g m adv cred).modState g v = s.modState g v :=
  modState_of_reg (credHeard_reg_ne (rMod_ne_group g v) (by rw [Ne, rMod_eq_rD2d]; omega))

theorem credHeard_drQueue : (s.credHeard g m adv cred).drQueue = s.drQueue := by
  obtain ⟨l, hl⟩ := admitted_eq (s.modDmod g m fun d => { d with role := 2, cred := some cred }) g m adv cred
  rw [State.credHeard, hl]
  rfl

theorem credHeard_dmod : (s.credHeard g m adv cred).dmod g m = { s.dmod g m with role := 3, missed := 0, cred := some cred } := by
  rw [State.credHeard, admitted_dmod, State.dmod_modDmod_self]

/-- ROLE_CRED of a partner that fits, before the module trains or its packets go. -/
theorem exec_roleCred_fits (hhere : s.d2dHere g m = true) (h0 : s.modState g m ≠ 0) (h6 : s.modState g m ≠ 6)
    (hr : (s.dmod g m).role = 1) (ha : (s.dmod g m).adv = some adv) (hfits : s.roleFits g adv cred) :
    exec (.roleCred g m cred) s = .next (if s.rf (rCrn 0) 29 3 = 2 then (s.credHeard g m adv cred).beginTrain g m 1
      else (s.credHeard g m adv cred).drGo) := by
  let z := s.modDmod g m fun d => { d with role := 2, cred := some cred }
  have hz : z.dmod g m = { s.dmod g m with role := 2, cred := some cred } := State.dmod_modDmod_self s g m _
  have hcrown : (z.admitted g m adv cred).crownRuns = true ↔ s.rf (rCrn 0) 29 3 = 2 := admitted_crown (s := z) (d2dHere_lt hhere).1
  rw [exec_roleCred hhere h0 h6, if_neg (not_not.2 hr)]
  show Host.Outcome.next (z.answerRole g m) = _
  rw [answerRole_admits (by rw [hz]; exact ha) (by rw [hz]) (show z.roleFits g adv cred from hfits)]
  simp only [hcrown]
  rfl

theorem exec_roleCred_refuses (hhere : s.d2dHere g m = true) (h0 : s.modState g m ≠ 0) (h6 : s.modState g m ≠ 6)
    (hr : (s.dmod g m).role = 1) (ha : (s.dmod g m).adv = some adv) (hfits : ¬ s.roleFits g adv cred) :
    ∃ r, exec (.roleCred g m cred) s
      = .next (((s.modDmod g m fun d => { d with role := 2, cred := some cred }).send (.role g m 3 r)).fence g m 4) := by
  let z := s.modDmod g m fun d => { d with role := 2, cred := some cred }
  have hz : z.dmod g m = { s.dmod g m with role := 2, cred := some cred } := State.dmod_modDmod_self s g m _
  obtain ⟨r, hr'⟩ := answerRole_refuses (s := z) (by rw [hz]; exact ha) (by rw [hz]) (show ¬ z.roleFits g adv cred from hfits)
  refine ⟨r, ?_⟩
  rw [exec_roleCred hhere h0 h6, if_neg (not_not.2 hr)]
  exact congrArg Host.Outcome.next hr'

/-- The partner is admitted: the module trains once the Crown runs, and else keeps its state. -/
theorem admits_role (hhere : s.d2dHere g m = true) (hg : s.upheld g m ∨ g < 4 ∨ Tab.get none (g - 4) s.fan = none)
    (h0 : s.modState g m ≠ 0) (h6 : s.modState g m ≠ 6) (hr : (s.dmod g m).role = 1) (ha : (s.dmod g m).adv = some adv)
    (hfits : s.roleFits g adv cred) : ∃ t, exec (.roleCred g m cred) s = .next t
      ∧ ((s.upheld g m → Links { s with attached := t.attached } t (roleRegs g m)) ∧ t.mem = s.mem ∧ t.cores = s.cores)
      ∧ t.modState g m = (if s.rf (rCrn 0) 29 3 = 2 then 2 else s.modState g m) ∧ (t.dmod g m).role = 3
      ∧ (t.dmod g m).train = (if s.rf (rCrn 0) 29 3 = 2 then 1 else (s.dmod g m).train)
      ∧ t.rf (rD2d g 0) 57 4 = fld adv 60 4 ∧ t.rf (rD2d g 0) 53 4 = fld adv 48 4 ∧ (t.reg (rD2d g 0x20)).toNat = fld adv 0 32
      ∧ (s.rf (rCrn 0) 29 3 = 2 ∨ s.drQueue = [] → ∀ c, c < 6 → Tab.get 0 (drIx g m c) t.drCred = fld cred (50 - 10 * c) 10
        ∧ Tab.get 0 (drIx g m c) t.drPart = nth 0 [66, 66, 256, 66, 256, 128] c) := by
  have hlt := d2dHere_lt hhere
  have hlinks := credHeard_links (s := s) (g := g) (m := m) (adv := adv) (cred := cred)
  have hmods := credHeard_modState (s := s) (g := g) (m := m) (adv := adv) (cred := cred)
  have hqueue := credHeard_drQueue (s := s) (g := g) (m := m) (adv := adv) (cred := cred)
  have hdmod := credHeard_dmod (s := s) (g := g) (m := m) (adv := adv) (cred := cred)
  obtain ⟨hstate, hrole, hucie⟩ : (s.credHeard g m adv cred).rf (rD2d g 0) 61 3 = s.rf (rD2d g 0) 61 3
    ∧ (s.credHeard g m adv cred).rf (rD2d g 0) 57 4 = fld adv 60 4 ∧ (s.credHeard g m adv cred).rf (rD2d g 0) 53 4 = fld adv 48 4 :=
    admitted_fields
  have hpartner : ((s.credHeard g m adv cred).reg (rD2d g 0x20)).toNat = fld adv 0 32 := by
    rw [State.credHeard, admitted_partner, BitVec.toNat_ofNat]
    exact Nat.mod_eq_of_lt (lt_trans (fld_lt adv 0 32) (by decide))
  have hcred : ∀ c, c < 6 → Tab.get 0 (drIx g m c) (s.credHeard g m adv cred).drCred = fld cred (50 - 10 * c) 10
      ∧ Tab.get 0 (drIx g m c) (s.credHeard g m adv cred).drPart = nth 0 [66, 66, 256, 66, 256, 128] c := fun _ hc => admitted_credits hc
  have hexec := exec_roleCred_fits hhere h0 h6 hr ha hfits
  have h20 : linkReg (rD2d g 0x20) := rD2d_link hlt.1 (by omega)
  generalize s.credHeard g m adv cred = z at hlinks hmods hqueue hdmod hstate hrole hucie hpartner hcred hexec
  have hattached {t : State} (h : Links { s with attached := z.attached } t (roleRegs g m)) :
      Links { s with attached := t.attached } t (roleRegs g m) := by
    have he : t.attached = z.attached := h.get State.attached fun _ _ _ _ _ _ _ _ _ _ _ _ _ => rfl
    rw [he]
    exact h
  by_cases hcrown : s.rf (rCrn 0) 29 3 = 2
  · rw [if_pos hcrown, beginTrain_eq] at hexec
    rw [if_pos hcrown, if_pos hcrown]
    let b := (z.modDmod g m fun d => { d with train := 1 }).setRf (rMod g m) 61 3 2
    have hb : Links { s with attached := z.attached } b (roleRegs g m) := (hlinks.modDmod g m _).setRf 61 3 2 (by simp [roleRegs])
    have hbreg {o : Nat} (ho : o ≠ rMod g m) : b.reg o = z.reg o := State.reg_setRf_ne _ ho
    have hbgrp (lo len : Nat) : b.rf (rD2d g 0) lo len = z.rf (rD2d g 0) lo len := rf_of_reg (hbreg (rMod_ne_group g m).symm) lo len
    have hJ : Judged { s with attached := z.attached } b (b.judgeGroup g) g m (roleRegs g m) :=
      judged hlt hg (roleRegs_own g m) hb ((hbgrp 61 3).trans hstate) (Quiet.refl b) (Quiet.refl _)
    have hbd : b.dmod g m = { z.dmod g m with train := 1 } := State.dmod_modDmod_self z g m fun d => { d with train := 1 }
    have hkeep : (b.rf (rD2d g 0) 61 3 = 3 ∧ b.groupState g = 3) ∨ g < 4 ∨ Tab.get none (g - 4) b.fan = none := by
      refine hg.imp (fun hu => ?_) fun hn => by rw [hb.fan]; exact hn
      obtain ⟨h3, u, hlu, hne, hfull⟩ := hu
      refine ⟨(hbgrp 61 3).trans (hstate.trans h3), groupState_up hlu (.inl ?_)⟩
      exact (modState_of_reg (hbreg (by rw [Ne, rMod_inj]; exact hne))).trans ((hmods u).trans hfull)
    obtain ⟨hc6, hp6⟩ := judgeGroup_credits hlt.1 hkeep
    refine ⟨_, hexec, ⟨fun hu => hattached (hJ.links hu).1, hJ.mem, hJ.cores⟩, ?_, ?_, ?_, ?_, ?_, ?_, fun _ c hc => ?_⟩
    · exact hJ.own.trans (State.rf_setRf _ _ _ _ _ (by omega))
    · exact hJ.role.trans (by rw [hbd, hdmod])
    · exact hJ.train.trans (by rw [hbd])
    · exact (hJ.fields 57 4 (by omega) (by omega)).trans ((hbgrp 57 4).trans hrole)
    · exact (hJ.fields 53 4 (by omega) (by omega)).trans ((hbgrp 53 4).trans hucie)
    · have hreg : (b.judgeGroup g).reg (rD2d g 0x20) = z.reg (rD2d g 0x20) :=
        (hJ.regs _ h20 (by rw [Ne, rD2d_inj]; omega)).trans (hbreg (by rw [Ne, eq_comm, rMod_eq_rD2d]; omega))
      exact (congrArg BitVec.toNat hreg).trans hpartner
    · rw [hc6, hp6]
      exact hcred c hc
  · rw [if_neg hcrown] at hexec
    rw [if_neg hcrown, if_neg hcrown]
    have hq : Quiet z z.drGo := (Quiet.refl z).drGo
    have hall := hlinks.trans (hq.links.mono (List.nil_subset _))
    have hgrp (lo len : Nat) := rf_of_reg (hq.reg (rD2d_link (o := 0) hlt.1 (by omega))) lo len
    refine ⟨_, hexec, ⟨fun _ => hattached hall, hall.mem, hall.cores⟩, ?_, ?_, ?_, ?_, ?_, ?_, fun hwait c hc => ?_⟩
    · exact (modState_of_reg (hq.reg (rMod_link hlt.1 hlt.2))).trans (hmods m)
    · exact (congrArg DModule.role (hq.bare g m) :).trans (congrArg DModule.role hdmod :)
    · exact (congrArg DModule.train (hq.bare g m) :).trans (congrArg DModule.train hdmod :)
    · exact (hgrp 57 4).trans hrole
    · exact (hgrp 53 4).trans hucie
    · exact (congrArg BitVec.toNat (hq.reg h20)).trans hpartner
    · rw [drGo_empty (hqueue.trans (hwait.resolve_left hcrown))]
      exact hcred c hc

end

end Sys2Proof.Machine
end

section
/-! The role exchange of die-to-die modules: messages out of order, RETRAIN_ALL, and O41. -/

namespace Sys2Proof.Machine

/-! ### Messages out of order (R270) -/

/-- Registers that a message out of order may write: the module's status, its group's, the group's counts, and the READY map. -/
def breachRegs (g m : Nat) : List Nat := [rMod g m, rD2d g 0, rD2d g 0x10, rD2d g 0x18, rBoot 0x118]

theorem breachRegs_own (g m : Nat) : OwnRegs g m (breachRegs g m) := by
  refine ⟨by simp [breachRegs], by simp [breachRegs], fun v _ hv => ?_⟩
  have hb : rMod g v ≠ rBoot 0x118 := rD2d_ne_boot g _
  simp [breachRegs, rMod_inj, rMod_eq_rD2d, hv, hb]
  omega

section
variable {s : State} {g m : Nat}

/-- A violation of the partner moves no register of its group but their count. -/
theorem partnerViol_reg_ne {o : Nat} (ho : linkReg o) (hne : o ≠ rD2d g 0x18) : (s.partnerViol g).reg o = s.reg o :=
  (((Quiet.refl _).pulse (774 + 8 * g)).reg ho).trans (State.reg_setRf_ne s hne)

theorem partnerViol_counted (hg : g < 8) :
    (s.partnerViol g).rf (rD2d g 0x18) 0 32 = Nat.min (s.rf (rD2d g 0x18) 0 32 + 1) (2 ^ 32 - 1) :=
  (rf_of_reg (((Quiet.refl _).pulse (774 + 8 * g)).reg (rD2d_link hg (by omega))) 0 32).trans (rf_bump s _ 0 32 1 (by omega))

theorem partnerViol_links : Links s (s.partnerViol g) (breachRegs g m) :=
  ((Links.refl s _).bump 0 32 1 (by simp [breachRegs])).trans (((Quiet.refl _).pulse _).links.mono (List.nil_subset _))

theorem partnerViol_dmod : ((s.partnerViol g).dmod g m).bare = (s.dmod g m).bare := ((Quiet.refl _).pulse (774 + 8 * g)).bare g m

/-- A retrain that is noted moves no register of its group but their count. -/
theorem retrainNote_quiet (s : State) (g : Nat) : Quiet (s.bump (rD2d g 0x10) 16 16 1) (s.retrainNote g) :=
  ((Quiet.refl _).pulse _).d2dJournal g

theorem sidebandBreach_live (h : s.modState g m = 3 ∨ s.modState g m = 4 ∨ s.modState g m = 5) :
    s.sidebandBreach g m = (s.partnerViol g).retrain g m := if_pos h

theorem sidebandBreach_idle (h : ¬ (s.modState g m = 3 ∨ s.modState g m = 4 ∨ s.modState g m = 5)) : s.sidebandBreach g m =
    if (s.dmod g m).role = 3 then ((s.partnerViol g).retrainNote g).modDmod g m fun d => { d with train := if d.train = 0 then 0 else 2 }
    else ((s.partnerViol g).retrainNote g).roleStart g m := if_neg h

/-- Beginning an exchange again changes the module's own record, and sends. -/
theorem roleStart_links : Links s (s.roleStart g m) [] :=
  ((Links.refl s []).modDmod g m _).trans (((Quiet.refl _).send _).send _).links

theorem roleStart_dmod : (s.roleStart g m).dmod g m = { s.dmod g m with role := 0, adv := none, cred := none } :=
  State.dmod_modDmod_self s g m fun d => { d with role := 0, adv := none, cred := none }

theorem roleStart_dmod_ne {v : Nat} (h : v ≠ m) : (s.roleStart g m).dmod g v = s.dmod g v :=
  State.dmod_modDmod_ne s (fun d => { d with role := 0, adv := none, cred := none }) h

/-- A module that starts to retrain moves no other register. -/
theorem retraining_reg_ne {o : Nat} (h : o ≠ rMod g m) : (s.retraining g m).reg o = s.reg o := State.reg_setRf_ne s h

theorem retraining_modState : (s.retraining g m).modState g m = 2 := State.rf_setRf s (rMod g m) 61 3 2 (by omega)

theorem retraining_train : ((s.retraining g m).dmod g m).train = 5 :=
  (congrArg DModule.train (State.dmod_modDmod_self (s.setRf (rMod g m) 61 3 2) g m
    fun d => { d with train := 5, replays := [], fails := 0 }) :)

/-- Counting a retrain moves no other register. -/
theorem countRetrain_reg_ne {o : Nat} (h : o ≠ rD2d g 0x10) : (s.bump (rD2d g 0x10) 16 16 1).reg o = s.reg o := State.reg_setRf_ne s h

/-- What a message out of order comes to. -/
def Breached (s t : State) (g m : Nat) : Prop :=
  ((s.upheld g m → Links s t (breachRegs g m)) ∧ t.mem = s.mem ∧ t.cores = s.cores)
  ∧ t.rf (rD2d g 0x18) 0 32 = Nat.min (s.rf (rD2d g 0x18) 0 32 + 1) (2 ^ 32 - 1)
  ∧ t.rf (rD2d g 0x10) 16 16 = Nat.min (s.rf (rD2d g 0x10) 16 16 + 1) 65535
  ∧ (s.modState g m = 3 ∨ s.modState g m = 4 ∨ s.modState g m = 5 → t.modState g m = 2 ∧ (t.dmod g m).train = 5)
  ∧ (¬ (s.modState g m = 3 ∨ s.modState g m = 4 ∨ s.modState g m = 5) → t.modState g m = s.modState g m
      ∧ if (s.dmod g m).role = 3 then (t.dmod g m).train = (if (s.dmod g m).train = 0 then 0 else 2) else (t.dmod g m).role = 0)

theorem sidebandBreach_live_breached (hlt : g < 8 ∧ m < modulesOf g) (hg : s.upheld g m ∨ g < 4 ∨ Tab.get none (g - 4) s.fan = none)
    (hlive : s.modState g m = 3 ∨ s.modState g m = 4 ∨ s.modState g m = 5) : Breached s (s.sidebandBreach g m) g m := by
  have hmod : rMod g m ≠ rD2d g 0x10 := by rw [Ne, rMod_eq_rD2d]; omega
  have hmod' : rMod g m ≠ rD2d g 0x18 := by rw [Ne, rMod_eq_rD2d]; omega
  have h10 : linkReg (rD2d g 0x10) := rD2d_link hlt.1 (by omega)
  have h18 : linkReg (rD2d g 0x18) := rD2d_link hlt.1 (by omega)
  have hviol {o : Nat} (ho : linkReg o) (hne : o ≠ rD2d g 0x18) := partnerViol_reg_ne (s := s) ho hne
  have hst : (s.partnerViol g).modState g m = s.modState g m := modState_of_reg (hviol (rMod_link hlt.1 hlt.2) hmod')
  have hJ := retrain_judged hlt hg (breachRegs_own g m) (by simp [breachRegs]) (by simp [breachRegs]) partnerViol_links
    (rf_of_reg (hviol (rD2d_link hlt.1 (by omega)) (by rw [Ne, rD2d_inj]; omega)) 61 3) (by rw [hst]; exact hlive)
  rw [sidebandBreach_live hlive]
  refine ⟨⟨fun hu => (hJ.links hu).1, hJ.mem, hJ.cores⟩, ?_, ?_, fun _ => ⟨hJ.own.trans ?_, hJ.train.trans ?_⟩, fun h => absurd hlive h⟩
  · have hreg : (((s.partnerViol g).retraining g m).bump (rD2d g 0x10) 16 16 1).reg (rD2d g 0x18) = (s.partnerViol g).reg (rD2d g 0x18) :=
      (countRetrain_reg_ne (by rw [Ne, rD2d_inj]; omega)).trans (retraining_reg_ne hmod'.symm)
    rw [hJ.rf h18 (by rw [Ne, rD2d_inj]; omega), rf_of_reg hreg, partnerViol_counted hlt.1]
  · have hold : ((s.partnerViol g).retraining g m).rf (rD2d g 0x10) 16 16 = s.rf (rD2d g 0x10) 16 16 :=
      rf_of_reg ((retraining_reg_ne hmod.symm).trans (hviol h10 (by rw [Ne, rD2d_inj]; omega))) 16 16
    rw [hJ.rf h10 (by rw [Ne, rD2d_inj]; omega), rf_bump _ _ _ _ _ (by omega), hold]
    rfl
  · exact (modState_of_reg (countRetrain_reg_ne hmod)).trans retraining_modState
  · rw [State.bump, State.dmod_setRf]
    exact retraining_train

theorem sidebandBreach_idle_breached (hlt : g < 8 ∧ m < modulesOf g)
    (hidle : ¬ (s.modState g m = 3 ∨ s.modState g m = 4 ∨ s.modState g m = 5)) : Breached s (s.sidebandBreach g m) g m := by
  have hmod : rMod g m ≠ rD2d g 0x10 := by rw [Ne, rMod_eq_rD2d]; omega
  have hmod' : rMod g m ≠ rD2d g 0x18 := by rw [Ne, rMod_eq_rD2d]; omega
  have h10 : linkReg (rD2d g 0x10) := rD2d_link hlt.1 (by omega)
  have h18 : linkReg (rD2d g 0x18) := rD2d_link hlt.1 (by omega)
  have hq := retrainNote_quiet (s.partnerViol g) g
  have hviol {o : Nat} (ho : linkReg o) (hne : o ≠ rD2d g 0x18) := partnerViol_reg_ne (s := s) ho hne
  have hlinks : Links s ((s.partnerViol g).retrainNote g) (breachRegs g m) :=
    (partnerViol_links.bump 16 16 1 (by simp [breachRegs])).trans (hq.links.mono (List.nil_subset _))
  have hcount : ((s.partnerViol g).retrainNote g).rf (rD2d g 0x18) 0 32 = Nat.min (s.rf (rD2d g 0x18) 0 32 + 1) (2 ^ 32 - 1) :=
    (rf_of_reg ((hq.reg h18).trans (State.reg_setRf_ne _ (by rw [Ne, rD2d_inj]; omega))) 0 32).trans (partnerViol_counted hlt.1)
  have hretrains : ((s.partnerViol g).retrainNote g).rf (rD2d g 0x10) 16 16 = Nat.min (s.rf (rD2d g 0x10) 16 16 + 1) 65535 := by
    rw [rf_of_reg (hq.reg h10), rf_bump _ _ _ _ _ (by omega), rf_of_reg (hviol h10 (by rw [Ne, rD2d_inj]; omega))]
    rfl
  have hst : ((s.partnerViol g).retrainNote g).modState g m = s.modState g m :=
    modState_of_reg ((hq.reg (rMod_link hlt.1 hlt.2)).trans ((State.reg_setRf_ne _ hmod).trans (hviol (rMod_link hlt.1 hlt.2) hmod')))
  have hbare : (((s.partnerViol g).retrainNote g).dmod g m).bare = (s.dmod g m).bare := (hq.bare g m).trans partnerViol_dmod
  rw [sidebandBreach_idle hidle]
  generalize (s.partnerViol g).retrainNote g = b at hlinks hcount hretrains hst hbare
  have htrain : (b.dmod g m).train = (s.dmod g m).train := (congrArg DModule.train hbare :)
  by_cases hr : (s.dmod g m).role = 3
  · have hall := hlinks.modDmod g m fun d => { d with train := if d.train = 0 then 0 else 2 }
    rw [if_pos hr]
    refine ⟨⟨fun _ => hall, hall.mem, hall.cores⟩, hcount, hretrains, fun h => absurd h hidle, fun _ => ⟨hst, ?_⟩⟩
    rw [if_pos hr, ← htrain]
    exact (congrArg DModule.train (State.dmod_modDmod_self b g m fun d => { d with train := if d.train = 0 then 0 else 2 }) :)
  · have hall := hlinks.trans ((roleStart_links (s := b) (g := g) (m := m)).mono (List.nil_subset _))
    rw [if_neg hr]
    refine ⟨⟨fun _ => hall, hall.mem, hall.cores⟩, hcount, hretrains, fun h => absurd h hidle, fun _ => ⟨hst, ?_⟩⟩
    rw [if_neg hr, roleStart_dmod]

/-- A message out of order is counted; it retrains the module, or begins its training or its exchange again. -/
theorem breach_role {i : Instr} (hlt : g < 8 ∧ m < modulesOf g) (hg : s.upheld g m ∨ g < 4 ∨ Tab.get none (g - 4) s.fan = none)
    (hi : exec i s = .next (s.sidebandBreach g m)) : ∃ t, exec i s = .next t ∧ Breached s t g m := by
  refine ⟨_, hi, ?_⟩
  by_cases hlive : s.modState g m = 3 ∨ s.modState g m = 4 ∨ s.modState g m = 5
  · exact sidebandBreach_live_breached hlt hg hlive
  · exact sidebandBreach_idle_breached hlt hlive

end

/-! ### RETRAIN_ALL (R260, R271) -/

/-- RETRAIN_ALL at one module: one that is mounted starts from MBINIT, or from its exchange. -/
def State.restart (t : State) (g m : Nat) : State :=
  if t.modState g m = 0 then t
  else
    let t := (t.setReg (rMod g m) (setFld 0 61 3 2)).setReg (rD2d g (0x600 + 8 * m)) 0
    let t := t.modDmod g m fun d => { d with train := 2, width := 0, spare := 0, missed := 0, replays := [], fails := 0, weak := 0 }
    let t := if (t.dmod g m).role = 3 then t else t.roleStart g m
    t.bump (rD2d g 0x10) 16 16 1

theorem retrainAll_eq (s : State) (g : Nat) : s.retrainAll g
    = (((iter (modulesOf g) (fun m t => t.restart g m) s).pulse (773 + 8 * g)).d2dJournal g).judgeGroup g := rfl

/-- A module's own record once it has restarted. -/
def DModule.restarted (d : DModule) : DModule :=
  let d := { d with train := 2, width := 0, spare := 0, missed := 0, replays := [], fails := 0, weak := 0 }
  if d.role = 3 then d else { d with role := 0, adv := none, cred := none }

/-- What shows of module v: its status, its lane map and its own record. -/
def State.moduleSeen (g v : Nat) (t : State) : W64 × W64 × DModule := (t.reg (rMod g v), t.reg (rD2d g (0x600 + 8 * v)), t.dmod g v)

/-- What RETRAIN_ALL makes of it. -/
def seenRestarted (x : W64 × W64 × DModule) : W64 × W64 × DModule :=
  if fld x.1 61 3 = 0 then x else (setFld 0 61 3 2, 0, x.2.2.restarted)

section
variable {s t : State} {g v m : Nat}

theorem restart_absent (h : t.modState g m = 0) : t.restart g m = t := if_pos h

/-- A module that restarts, before the retrain is counted. -/
def State.restarted (t : State) (g m : Nat) : State :=
  let t := (t.setReg (rMod g m) (setFld 0 61 3 2)).setReg (rD2d g (0x600 + 8 * m)) 0
  let t := t.modDmod g m fun d => { d with train := 2, width := 0, spare := 0, missed := 0, replays := [], fails := 0, weak := 0 }
  if (t.dmod g m).role = 3 then t else t.roleStart g m

theorem restart_present (h : t.modState g m ≠ 0) : t.restart g m = (t.restarted g m).bump (rD2d g 0x10) 16 16 1 := if_neg h

theorem restarted_reg (o : Nat) : (t.restarted g m).reg o
    = ((t.setReg (rMod g m) (setFld 0 61 3 2)).setReg (rD2d g (0x600 + 8 * m)) 0).reg o := by
  unfold State.restarted
  dsimp only
  split <;> rfl

theorem restarted_dmod : (t.restarted g m).dmod g m = (t.dmod g m).restarted := by
  unfold State.restarted DModule.restarted
  dsimp only
  rw [apply_ite (fun z : State => z.dmod g m), roleStart_dmod, State.dmod_modDmod_self]
  rfl

theorem restarted_dmod_ne (h : v ≠ m) : (t.restarted g m).dmod g v = t.dmod g v := by
  have hset : (((t.setReg (rMod g m) (setFld 0 61 3 2)).setReg (rD2d g (0x600 + 8 * m)) 0).modDmod g m fun d =>
      { d with train := 2, width := 0, spare := 0, missed := 0, replays := [], fails := 0, weak := 0 }).dmod g v = t.dmod g v :=
    State.dmod_modDmod_ne _ _ h
  unfold State.restarted
  dsimp only
  split
  · exact hset
  · exact (roleStart_dmod_ne h).trans hset

theorem restarted_links : Links t (t.restarted g m) [rMod g m, rD2d g (0x600 + 8 * m)] := by
  have hset := (((Links.refl t [rMod g m, rD2d g (0x600 + 8 * m)]).setReg (o := rMod g m) (setFld 0 61 3 2) (by simp)).setReg
    (o := rD2d g (0x600 + 8 * m)) 0 (by simp)).modDmod g m fun d =>
      { d with train := 2, width := 0, spare := 0, missed := 0, replays := [], fails := 0, weak := 0 }
  unfold State.restarted
  dsimp only
  split
  · exact hset
  · exact hset.trans (roleStart_links.mono (List.nil_subset _))

theorem restart_links : Links t (t.restart g m) [rMod g m, rD2d g (0x600 + 8 * m), rD2d g 0x10] := by
  by_cases h : t.modState g m = 0
  · rw [restart_absent h]
    exact Links.refl t _
  · rw [restart_present h]
    exact (restarted_links.mono (by simp)).bump 16 16 1 (by simp)

theorem restart_seen_self : State.moduleSeen g m (t.restart g m) = seenRestarted (State.moduleSeen g m t) := by
  by_cases h : t.modState g m = 0
  · rw [restart_absent h]
    exact (if_pos h).symm
  · have hcnt (o : Nat) (ho : o ≠ 0x10) : ((t.restarted g m).bump (rD2d g 0x10) 16 16 1).reg (rD2d g o) = (t.restarted g m).reg (rD2d g o) :=
      State.reg_setRf_ne _ (by rw [Ne, rD2d_inj]; exact ho)
    have hstatus : ((t.restarted g m).bump (rD2d g 0x10) 16 16 1).reg (rMod g m) = setFld 0 61 3 2 := by
      rw [rMod, hcnt _ (by omega), restarted_reg, ← rMod, State.reg_setReg_ne _ _ (rMod_ne_lanes g m), State.reg_setReg_self]
    have hlanes : ((t.restarted g m).bump (rD2d g 0x10) 16 16 1).reg (rD2d g (0x600 + 8 * m)) = 0 := by
      rw [hcnt _ (by omega), restarted_reg, State.reg_setReg_self]
    have hd : ((t.restarted g m).bump (rD2d g 0x10) 16 16 1).dmod g m = (t.dmod g m).restarted := restarted_dmod
    rw [restart_present h, State.moduleSeen, hstatus, hlanes, hd]
    exact (if_neg h).symm

theorem restart_seen_ne (hv : v < modulesOf g) (hm : m < modulesOf g) (h : m ≠ v) : State.moduleSeen g v (t.restart g m) = State.moduleSeen g v t := by
  have := modulesOf_le g
  by_cases h0 : t.modState g m = 0
  · rw [restart_absent h0]
  · have hreg (o : Nat) (h1 : o ≠ 0x400 + 8 * m) (h2 : o ≠ 0x600 + 8 * m) (h3 : o ≠ 0x10) :
        ((t.restarted g m).bump (rD2d g 0x10) 16 16 1).reg (rD2d g o) = t.reg (rD2d g o) := by
      rw [countRetrain_reg_ne (by rw [Ne, rD2d_inj]; exact h3), restarted_reg,
        State.reg_setReg_ne _ _ (by rw [Ne, rD2d_inj]; exact h2), State.reg_setReg_ne _ _ (by rw [rMod, Ne, rD2d_inj]; exact h1)]
    have hstatus := hreg (0x400 + 8 * v) (by omega) (by omega) (by omega)
    have hlanes := hreg (0x600 + 8 * v) (by omega) (by omega) (by omega)
    have hd : ((t.restarted g m).bump (rD2d g 0x10) 16 16 1).dmod g v = t.dmod g v := restarted_dmod_ne (Ne.symm h)
    rw [restart_present h0]
    exact Prod.ext hstatus (Prod.ext hlanes hd)

/-- Registers that restarting the modules of a group may write. -/
def restartRegs (g : Nat) : List Nat :=
  (List.range (modulesOf g)).flatMap (fun v => [rMod g v, rD2d g (0x600 + 8 * v)]) ++ [rD2d g 0, rD2d g 0x10, rBoot 0x118]

theorem iter_restart_links (s : State) (g : Nat) : Links s (iter (modulesOf g) (fun m t => t.restart g m) s) (restartRegs g) := by
  refine iter_inv (P := fun t => Links s t (restartRegs g)) (fun m hm t ht => ht.trans (restart_links.mono fun o ho => ?_)) (Links.refl s _)
  have hself : m ∈ List.range (modulesOf g) := List.mem_range.2 hm
  simp only [List.mem_cons, List.not_mem_nil, or_false] at ho
  rw [restartRegs, List.mem_append, List.mem_flatMap]
  rcases ho with rfl | rfl | rfl
  · exact .inl ⟨m, hself, by simp⟩
  · exact .inl ⟨m, hself, by simp⟩
  · exact .inr (by simp)

theorem restart_grp : (t.restart g m).reg (rD2d g 0) = t.reg (rD2d g 0) := by
  by_cases h : t.modState g m = 0
  · rw [restart_absent h]
  · rw [restart_present h, countRetrain_reg_ne (by rw [Ne, rD2d_inj]; omega), restarted_reg,
      State.reg_setReg_ne _ _ (by rw [Ne, rD2d_inj]; omega), State.reg_setReg_ne _ _ (rMod_ne_group g m).symm]

theorem iter_restart_grp (s : State) (g : Nat) : (iter (modulesOf g) (fun m t => t.restart g m) s).reg (rD2d g 0) = s.reg (rD2d g 0) :=
  iter_inv (P := fun t : State => t.reg (rD2d g 0) = s.reg (rD2d g 0)) (fun _ _ _ ht => restart_grp.trans ht) rfl

theorem iter_restart_seen (s : State) (hv : v < modulesOf g) :
    State.moduleSeen g v (iter (modulesOf g) (fun m t => t.restart g m) s) = seenRestarted (State.moduleSeen g v s) :=
  iter_observe (P := fun _ => True) _ seenRestarted hv (fun _ _ _ _ => trivial) (fun _ _ => restart_seen_self)
    (fun _ hm hne _ _ => restart_seen_ne hv hm hne) trivial

/-- A new generation of the map, on both sides of a change of the links. -/
theorem Links.mapChange {os : List Nat} (h : Links s t os) (ht : rCrn 0x8 ∉ os) : Links s.mapChange t.mapChange os := by
  have htime : t.time = s.time := h.regs _ ht (by unfold eventReg rCrn; omega)
  have hrest := congrArg (fun z : State => { z with mapGen := z.mapGen + 1, mapTime := s.time }) h.rest
  refine ⟨h.regs, ?_⟩
  rw [State.mapChange, htime]
  exact hrest

/-- With no module left in normal mode, one in MBINIT, and none fenced, the group is judged as training. -/
theorem judgeGroup_training (h : s.groupState g = 2) :
    s.judgeGroup g = if s.rf (rD2d g 0) 61 3 = 4 then (s.marked g).mapChange else s.marked g := by
  rw [judgeGroup_eq, h]
  by_cases h4 : s.rf (rD2d g 0) 61 3 = 4 <;> simp [h4]

theorem groupState_training (hall : ∀ v < modulesOf g, s.modState g v = 0 ∨ s.modState g v = 2) (hv : v < modulesOf g)
    (h2 : s.modState g v = 2) : s.groupState g = 2 := by
  have hnone (p : Nat → Bool) (h0 : p 0 = false) (h2 : p 2 = false) : s.modsIn g p = 0 :=
    modsIn_eq_zero.2 fun u hu => (hall u hu).elim (fun h => by rw [h, h0]) fun h => by rw [h, h2]
  have hsome : 0 < s.modsIn g (· == 2) := modsIn_pos.2 ⟨v, hv, by rw [h2]; rfl⟩
  unfold State.groupState
  rw [hnone (· == 3) rfl rfl, hnone (fun x => x == 4 || x == 5) rfl rfl, hnone (· == 6) rfl rfl, if_neg (by omega), if_neg (by omega),
    if_pos hsome]

theorem time_not_restartRegs (g : Nat) : rCrn 0x8 ∉ restartRegs g := by
  have hne (o : Nat) : rCrn 0x8 ≠ rD2d g o := by unfold rCrn rD2d; omega
  have hboot : rCrn 0x8 ≠ rBoot 0x118 := by decide
  simp [restartRegs, rMod, hne, hboot]

theorem exec_retrainAll (hg : g < 8) (hhas : s.hasGroup g = true) : exec (.retrainAll g) s = .next (s.retrainAll g) := by
  show execRetrainAll g s = _
  unfold execRetrainAll
  rw [if_pos (by simp [hg, hhas])]
  rfl

theorem restarted_record (d : DModule) :
    d.restarted.train = 2 ∧ d.restarted.width = 0 ∧ d.restarted.role = if d.role = 3 then 3 else 0 := by
  unfold DModule.restarted
  dsimp only
  split
  · next h => exact ⟨rfl, rfl, h⟩
  · exact ⟨rfl, rfl, rfl⟩

/-- Every mounted module restarts, and the group trains. -/
theorem retrainAll_role (hg : g < 8) (hsome : ∃ v, v < modulesOf g ∧ s.modState g v ≠ 0) :
    Links (if s.rf (rD2d g 0) 61 3 = 4 then s.mapChange else s) (s.retrainAll g) (restartRegs g)
    ∧ (∀ v, v < modulesOf g → s.modState g v ≠ 0 → (s.retrainAll g).reg (rMod g v) = setFld 0 61 3 2
        ∧ (s.retrainAll g).reg (rD2d g (0x600 + 8 * v)) = 0
        ∧ ((s.retrainAll g).dmod g v).train = 2 ∧ ((s.retrainAll g).dmod g v).width = 0
        ∧ ((s.retrainAll g).dmod g v).role = (if (s.dmod g v).role = 3 then 3 else 0))
    ∧ (∀ v, v < modulesOf g → s.modState g v = 0 → (s.retrainAll g).reg (rMod g v) = s.reg (rMod g v))
    ∧ (s.retrainAll g).rf (rD2d g 0) 61 3 = 2 := by
  have hseen (v : Nat) (hv : v < modulesOf g) := iter_restart_seen s hv
  have hgrp := iter_restart_grp s g
  have hlinks := iter_restart_links s g
  rw [retrainAll_eq]
  generalize iter (modulesOf g) (fun m t => t.restart g m) s = b at hseen hgrp hlinks
  have hq : Quiet b ((b.pulse (773 + 8 * g)).d2dJournal g) := ((Quiet.refl b).pulse _).d2dJournal g
  generalize (b.pulse (773 + 8 * g)).d2dJournal g = c at hq
  have hkept (v : Nat) (hv : v < modulesOf g) (h0 : s.modState g v = 0) : State.moduleSeen g v b = State.moduleSeen g v s :=
    (hseen v hv).trans (if_pos h0)
  have hnew (v : Nat) (hv : v < modulesOf g) (h0 : s.modState g v ≠ 0) :
      State.moduleSeen g v b = (setFld 0 61 3 2, 0, (s.dmod g v).restarted) := (hseen v hv).trans (if_neg h0)
  have hmod (v : Nat) (hv : v < modulesOf g) : c.reg (rMod g v) = b.reg (rMod g v) := hq.reg (rMod_link hg hv)
  have hzero (v : Nat) (hv : v < modulesOf g) (h0 : s.modState g v = 0) : c.modState g v = 0 :=
    (modState_of_reg ((hmod v hv).trans (congrArg Prod.fst (hkept v hv h0)))).trans h0
  have htwo (v : Nat) (hv : v < modulesOf g) (h0 : s.modState g v ≠ 0) : c.modState g v = 2 := by
    have hst : c.reg (rMod g v) = setFld 0 61 3 2 := (hmod v hv).trans (congrArg Prod.fst (hnew v hv h0))
    unfold State.modState State.rf
    rw [hst]
    decide
  have htrain : c.groupState g = 2 := by
    obtain ⟨v, hv, h0⟩ := hsome
    exact groupState_training (fun u hu => (Decidable.em (s.modState g u = 0)).imp (hzero u hu) (htwo u hu)) hv (htwo v hv h0)
  have hgrp4 : c.rf (rD2d g 0) 61 3 = s.rf (rD2d g 0) 61 3 := rf_of_reg ((hq.reg (rD2d_link hg (by omega))).trans hgrp) 61 3
  have hmark : Links s (c.marked g) (restartRegs g) :=
    (hlinks.trans (hq.links.mono (List.nil_subset _))).shows ((marked_shows c g).mono (by simp [restartRegs]))
  have hreg (o : Nat) : (c.judgeGroup g).reg o = (c.marked g).reg o := by
    rw [judgeGroup_training htrain]
    split <;> rfl
  have hlink {o : Nat} (ho : linkReg o) (hne : o ≠ rD2d g 0) : (c.judgeGroup g).reg o = b.reg o := by
    rw [hreg, (marked_shows c g).regs o (by
      rw [List.mem_pair]
      rintro (rfl | rfl)
      · exact hne rfl
      · unfold linkReg rBoot at ho; omega) (linkReg_plain ho)]
    exact hq.reg ho
  have hd (v : Nat) : ((c.judgeGroup g).dmod g v).bare = (b.dmod g v).bare := by
    have hdmods : (c.judgeGroup g).dmods = c.dmods := by
      have hm : (c.marked g).dmods = c.dmods := (marked_shows c g).get State.dmods fun _ _ _ => rfl
      rw [judgeGroup_training htrain]
      split <;> exact hm
    rw [State.dmod, hdmods]
    exact hq.bare g v
  refine ⟨?_, fun v hv h0 => ?_, fun v hv h0 => ?_, ?_⟩
  · rw [judgeGroup_training htrain, hgrp4]
    split
    · exact hmark.mapChange (time_not_restartRegs g)
    · exact hmark
  · obtain ⟨htr, hw, hro⟩ := restarted_record (s.dmod g v)
    have hdv : b.dmod g v = (s.dmod g v).restarted := congrArg (fun x => x.2.2) (hnew v hv h0)
    have hbare := hd v
    rw [hdv] at hbare
    refine ⟨(hlink (rMod_link hg hv) (rMod_ne_group g v)).trans (congrArg Prod.fst (hnew v hv h0)), ?_, ?_, ?_, ?_⟩
    · refine (hlink (rD2d_link hg ?_) (by rw [Ne, rD2d_inj]; omega)).trans (congrArg (fun x => x.2.1) (hnew v hv h0))
      have := modulesOf_le g
      omega
    · exact (congrArg DModule.train hbare :).trans htr
    · exact (congrArg DModule.width hbare :).trans hw
    · exact (congrArg DModule.role hbare :).trans hro
  · exact (hlink (rMod_link hg hv) (rMod_ne_group g v)).trans (congrArg Prod.fst (hkept v hv h0))
  · rw [rf_of_reg (hreg _), marked_state hg, htrain]

end

theorem d2dHere_has {s : State} {g m : Nat} (h : s.d2dHere g m = true) : s.hasGroup g = true := by
  simp only [State.d2dHere, Bool.and_eq_true, decide_eq_true_eq] at h
  exact h.1.2

/-! ### O41 -/

/-- Settles O41: each message either leaves the module's status to `judgeGroup`, which moves nothing else in a group that stays up, or is
counted as out of order; RETRAIN_ALL is a loop over the modules of which each stage moves one module's registers and record. -/
theorem linkRoles : Obligations.LinkRoles := by
  unfold Obligations.LinkRoles
  intro g m reason adv cred s hhere
  have hlt := d2dHere_lt hhere
  dsimp only
  refine ⟨fun hg h0 h6 => ⟨fun hr hc => ?_, fun hr ha hfits => ?_, fun hr ha hfits => ?_, fun hreason => ?_, fun hr hmiss => ?_,
    fun hr hmiss => ?_, fun hr => ?_, fun hr => ?_, fun hr => ?_⟩, exec_roleAck_late, fun hsome => ?_⟩
  · rw [exec_roleAdv hhere h0 h6, if_neg hr, answerRole_none]
    rw [State.dmod_modDmod_self]
    exact hc
  · exact admits_role hhere hg h0 h6 hr ha hfits
  · obtain ⟨r, hi⟩ := exec_roleCred_refuses hhere h0 h6 hr ha hfits
    have hheard := (Links.refl s (roleRegs g m)).modDmod g m fun d => { d with role := 2, cred := some cred }
    have hsent := hheard.trans (((Quiet.refl _).send (.role g m 3 r)).links.mono (List.nil_subset _))
    exact fence_role hhere hg (by omega) hsent rfl hi
  · exact fence_role hhere hg (by omega) (Links.refl s _) rfl (exec_roleNak hhere h0 h6 hreason)
  · rw [exec_roleTimeout hhere h0 h6 hr, if_neg (by omega), roleStart_eq]
  · exact fence_role hhere hg (by omega) (Links.refl s _) rfl (by rw [exec_roleTimeout hhere h0 h6 hr, if_pos hmiss])
  · exact breach_role hlt hg (by rw [exec_roleAdv hhere h0 h6, if_pos hr])
  · exact breach_role hlt hg (by rw [exec_roleCred hhere h0 h6, if_pos hr])
  · exact breach_role hlt hg (exec_roleAck_early hhere h0 h6 hr)
  · exact ⟨_, exec_retrainAll hlt.1 (d2dHere_has hhere), retrainAll_role hlt.1 hsome⟩

end Sys2Proof.Machine
end

section
/-! Die-role packets: the checks, the credits that go back, what answers, and O42. -/

namespace Sys2Proof.Machine

/-! ### What a packet that leaves moves -/

/-- `t` is `s` but for what has left the part, the packets on their way, and the credits of the modules. -/
structure Delivered (s t : State) : Prop where
  rest : { t with out := s.out, dmods := s.dmods, drCred := s.drCred, drPart := s.drPart, drOwed := s.drOwed } = s
  bare : ∀ g m, (t.dmod g m).bare = (s.dmod g m).bare

section
variable {s t u : State}

theorem Delivered.trans (h : Delivered s t) (k : Delivered t u) : Delivered s u := by
  have h1 := h.rest
  have h2 := k.rest
  rw [← h2] at h1
  exact ⟨h1, fun g m => (k.bare g m).trans (h.bare g m)⟩

/-- What deliveries do not say stands. -/
theorem Delivered.get {α : Type} (h : Delivered s t) (f : State → α)
    (hf : ∀ (z : State) a b c d e, f { z with out := a, dmods := b, drCred := c, drPart := d, drOwed := e } = f z) : f t = f s := by
  have := congrArg f h.rest
  rw [hf] at this
  exact this

theorem Delivered.reg (h : Delivered s t) (o : Nat) : t.reg o = s.reg o := h.get (fun z => z.reg o) fun _ _ _ _ _ _ => rfl
theorem Delivered.drQueue (h : Delivered s t) : t.drQueue = s.drQueue := h.get State.drQueue fun _ _ _ _ _ _ => rfl
theorem Delivered.movedFlows (h : Delivered s t) : t.movedFlows = s.movedFlows := h.get State.movedFlows fun _ _ _ _ _ _ => rfl
theorem Delivered.steering (h : Delivered s t) (g : Nat) : t.steering g = s.steering g := h.get (fun z => z.steering g) fun _ _ _ _ _ _ => rfl
theorem Delivered.hasDie (h : Delivered s t) (d : Nat) : t.hasDie d = s.hasDie d := h.get (fun z => z.hasDie d) fun _ _ _ _ _ _ => rfl
theorem Delivered.deadDies (h : Delivered s t) : t.deadDies = s.deadDies := h.get State.deadDies fun _ _ _ _ _ _ => rfl
theorem Delivered.byte (h : Delivered s t) (a : Nat) : t.byte a = s.byte a := h.get (fun z => z.byte a) fun _ _ _ _ _ _ => rfl
theorem Delivered.live (h : Delivered s t) (a : Nat) : t.live a = s.live a := h.get (fun z => z.live a) fun _ _ _ _ _ _ => rfl
theorem Delivered.read (h : Delivered s t) (a n : Nat) : t.read a n = s.read a n := h.get (fun z => z.read a n) fun _ _ _ _ _ _ => rfl
theorem Delivered.chkRead (h : Delivered s t) (a : Nat) : t.chkRead a = s.chkRead a := h.get (fun z => z.chkRead a) fun _ _ _ _ _ _ => rfl
theorem Delivered.poisoned (h : Delivered s t) (a : Nat) : t.poisoned a = s.poisoned a :=
  h.get (fun z => z.poisoned a) fun _ _ _ _ _ _ => rfl
theorem Delivered.routeOpen (h : Delivered s t) (l : List Nat) (r : Nat) : t.routeOpen r l = s.routeOpen r l := by
  have hjoined (g : Nat) : t.joined g = s.joined g := h.get (fun z => z.joined g) fun _ _ _ _ _ _ => rfl
  induction l generalizing r with
  | nil => rfl
  | cons d l ih => rw [State.routeOpen, State.routeOpen, hjoined, ih]

theorem Delivered.dieRoute (h : Delivered s t) (r d : Nat) : t.dieRoute r d = s.dieRoute r d := by
  unfold State.dieRoute
  rw [funext fun l => h.routeOpen l r]

theorem Delivered.carries (h : Delivered s t) (g m : Nat) : t.carries g m = s.carries g m := by
  have hhere : t.d2dHere g m = s.d2dHere g m := h.get (fun z => z.d2dHere g m) fun _ _ _ _ _ _ => rfl
  have htrain : (t.dmod g m).train = (s.dmod g m).train := (congrArg DModule.train (h.bare g m) :)
  unfold State.carries
  rw [hhere, htrain, modState_of_reg (h.reg _)]

theorem Delivered.drPart (h : Delivered s t) (p : Tab Nat) : Delivered s { t with drPart := p } := ⟨h.rest, h.bare⟩
theorem Delivered.drOwed (h : Delivered s t) (p : Tab Nat) : Delivered s { t with drOwed := p } := ⟨h.rest, h.bare⟩

theorem drEmit_delivered (s : State) (m : Nat) (k : DrPkt) : Delivered s (s.drEmit m k) := by
  have hcred (c : Tab Nat) : Delivered s { s with drCred := c } := ⟨rfl, fun _ _ => rfl⟩
  have hmod (z : State) (p : Nat) (hz : Delivered s z) :
      Delivered s (z.modDmod k.group m fun d => { d with flight := d.flight ++ [k], pos := p }) :=
    hz.trans ⟨rfl, State.modDmod_bare z _ _ fun _ => rfl⟩
  have hsend (z : State) (o : Out) (hz : Delivered s z) : Delivered s (z.send o) := ⟨hz.rest, hz.bare⟩
  unfold State.drEmit
  dsimp only
  refine hsend _ _ ?_
  split
  · exact (hmod _ _ (hcred _)).drPart _
  · exact hmod _ _ (hcred _)

/-- A packet leaves while memory changes: neither minds the other. -/
theorem drEmit_mem (s : State) (x : Tab Byte) (m : Nat) (k : DrPkt) : ({ s with mem := x }).drEmit m k = { s.drEmit m k with mem := x } := by
  unfold State.drEmit
  dsimp only
  split <;> rfl

theorem drEmit_stored {a : Nat} {d : Bytes} (h : Stored s t a d) (m : Nat) (k : DrPkt) : Stored (s.drEmit m k) (t.drEmit m k) a d := by
  have hs := drEmit_delivered s m k
  have ht := drEmit_delivered t m k
  refine ⟨fun x => ?_, ?_⟩
  · rw [ht.byte, hs.byte, hs.live]
    exact h.bytes x
  · have hmem : (s.drEmit m k).mem = s.mem := hs.get State.mem fun _ _ _ _ _ _ => rfl
    rw [hmem, ← drEmit_mem, h.rest]

/-! ### A packet that need not wait (R261, R267) -/

theorem drSend_goes {k : DrPkt} (hq : t.drQueue = []) (hway : t.drDetour k = k) (hflow : k.via ≠ none ∨ (k.group, k.flow) ∉ t.movedFlows)
    (hcar : t.carries k.group (t.drModule k) = true)
    (hcr : drUnits k.hdr ≤ Tab.get 0 (drIx k.group (t.drModule k) (drClass k.hdr)) t.drCred) : t.drSend k = t.drEmit (t.drModule k) k := by
  have hsame : ({ t with drQueue := [] } : State) = t := by rw [← hq]
  have hgo : t.drSend k = ({ t with drQueue := [] }).drPump [] (t.drQueue ++ [k]) := rfl
  have hfree : (!k.again && k.via.isNone && t.movedFlows.contains (k.group, k.flow)) = false := by
    rcases hflow with h | h
    · simp [Option.isNone_eq_false_iff.2 (Option.isSome_iff_ne_none.2 h)]
    · simp [h]
  rw [hgo, hsame, hq, List.nil_append]
  unfold State.drPump
  dsimp only
  rw [hway, hfree, hcar, if_pos (by simp [hcr, hasNat])]
  rfl

/-- A packet for a partner whose group is not down takes no other way. -/
theorem drDetour_up {k : DrPkt} (h : t.rf (rD2d k.group 0) 61 3 ≠ 4) : t.drDetour k = k := by
  unfold State.drDetour
  dsimp only
  rw [if_neg (by simp [h])]

/-- A packet of a module's own takes its way. -/
theorem drDetour_via {k : DrPkt} (h : k.via ≠ none) : t.drDetour k = k := by
  unfold State.drDetour
  dsimp only
  rw [if_neg (by simp [h])]

end

/-! ### The buffers that a packet frees (R264, R266) -/

/-- The header of a CREDIT packet: class 0, and two units. -/
def creditHdr : BitVec 128 := drHdr 6 0 0 0 1 false false 0 0 0 0 0

theorem creditHdr_units : drUnits creditHdr = 2 := by decide
theorem creditHdr_class : drClass creditHdr = 0 := by decide

/-- The CREDIT packet that returns n units of class c on module m. -/
def creditPkt (g m c n : Nat) : DrPkt :=
  ⟨g, creditHdr,
    (List.range 6).flatMap (fun k => toBytes 2 (if k = c then n else 0)) ++ List.replicate 52 0, false, some m⟩

/-- A module whose packet has been taken: its units are no longer the partner's. -/
def State.drTaken (s : State) (g m : Nat) (h : BitVec 128) : State :=
  { s with drPart := Tab.upd 0 (drIx g m (drClass h)) (· - drUnits h) s.drPart }

/-- Units that are returned: nothing is owed, and a CREDIT packet leaves. -/
def State.drReturned (s : State) (g m c n : Nat) : State :=
  ({ s with drOwed := (List.range 6).foldl (fun p k => Tab.put 0 (drIx g m k) 0 p)
              (Tab.upd 0 (drIx g m c) (· + n) s.drOwed) }).drEmit m (creditPkt g m c n)

section
variable {s : State} {g m c n : Nat} (howed : ∀ k, k < 6 → Tab.get 0 (drIx g m k) s.drOwed = 0)
include howed

/-- What is owed once n units of class c are free. -/
theorem drOwed_freed : ((List.range 6).map fun k => Tab.get 0 (drIx g m k) (Tab.upd 0 (drIx g m c) (· + n) s.drOwed))
    = (List.range 6).map fun k => if k = c then n else 0 := by
  refine List.map_congr_left fun k hk => ?_
  have h0 := howed k (List.mem_range.1 hk)
  rw [Tab.upd]
  by_cases h : k = c
  · rw [if_pos h, h, Tab.get_put_self, ← h, h0, Nat.zero_add]
  · rw [if_neg h, Tab.get_put_ne _ _ _ (mt drIx_inj.1 h), h0]

theorem drFree_returns (hcar : s.carries g m = true) (hq : s.drQueue = []) (hcr : 2 ≤ Tab.get 0 (drIx g m 0) s.drCred) (hc : c < 6)
    (hn : 0 < n) (hdue : c ≠ 0 ∨ 4 ≤ n) : s.drFree g m c n = s.drReturned g m c n := by
  have hdue' : ((((List.range 6).map fun k => if k = c then n else 0).drop 1).any (0 < ·)
      || decide (4 ≤ nth 0 ((List.range 6).map fun k => if k = c then n else 0) 0)) = true := by
    interval_cases c <;> simp [List.range_succ, nth] <;> omega
  have hto : ((List.range 6).map fun k => if k = c then n else 0).flatMap (toBytes 2 ·)
      = (List.range 6).flatMap fun k => toBytes 2 (if k = c then n else 0) := List.flatMap_map _ _ _
  unfold State.drFree
  dsimp only
  rw [drOwed_freed howed, if_pos hdue', hto]
  refine drSend_goes hq (drDetour_via (by simp)) (.inl (by simp)) ?_ ?_
  · exact hcar
  · show drUnits creditHdr ≤ Tab.get 0 (drIx g m (drClass creditHdr)) s.drCred
    rw [creditHdr_units, creditHdr_class]
    exact hcr

theorem drFree_owes (hn : n < 4) : s.drFree g m 0 n = { s with drOwed := Tab.upd 0 (drIx g m 0) (· + n) s.drOwed } := by
  have hless : ¬ ((((List.range 6).map fun k => if k = 0 then n else 0).drop 1).any (0 < ·)
      || decide (4 ≤ nth 0 ((List.range 6).map fun k => if k = 0 then n else 0) 0)) = true := by
    simp [List.range_succ, nth]
    omega
  unfold State.drFree
  dsimp only
  rw [drOwed_freed howed, if_neg hless]

end

/-! ### The checks on a packet (R264, R270) -/

section
variable {h : BitVec 128} (hbad : drBad h = false)
include hbad

theorem drBad_class : drClass h ∈ typeClasses (fld h 124 4) := by
  simp only [drBad, Bool.or_eq_false_iff, Bool.not_eq_false'] at hbad
  exact hasNat_iff.1 hbad.1.1.1

theorem drClass_lt : drClass h < 6 := by
  have hmem := drBad_class hbad
  unfold typeClasses at hmem
  split at hmem <;> simp at hmem <;> omega

/-- Requests, replies and messages are not of class 0. -/
theorem drClass_pos (h1 : 1 ≤ fld h 124 4) (h5 : fld h 124 4 ≤ 5) : drClass h ≠ 0 := by
  have hmem := drBad_class hbad
  unfold typeClasses at hmem
  split at hmem <;> simp at hmem <;> omega

theorem drClass_mgmt (h7 : fld h 124 4 = 7) : drClass h = 0 := by
  have hmem := drBad_class hbad
  rw [h7] at hmem
  simpa [typeClasses] using hmem

end

/-- The state after a packet that passes the checks: its units have been returned. -/
def State.drTook (s : State) (g m : Nat) (h : BitVec 128) : State := (s.drTaken g m h).drReturned g m (drClass h) (drUnits h)

theorem drTook_delivered (s : State) (g m : Nat) (h : BitVec 128) : Delivered s (s.drTook g m h) := by
  have htaken : Delivered s (s.drTaken g m h) := ⟨rfl, fun _ _ => rfl⟩
  exact (htaken.drOwed _).trans (drEmit_delivered _ _ _)

/-- A packet of this part flows when it leaves at once, by its flow's module. -/
structure Flows (t : State) (k : DrPkt) : Prop where
  queue : t.drQueue = []
  up    : t.rf (rD2d k.group 0) 61 3 ≠ 4
  moved : (k.group, k.flow) ∉ t.movedFlows
  mod   : t.carries k.group (t.drModule k) = true
  cred  : drUnits k.hdr ≤ Tab.get 0 (drIx k.group (t.drModule k) (drClass k.hdr)) t.drCred

theorem Flows.sends {t : State} {k : DrPkt} (h : Flows t k) : t.drSend k = t.drEmit (t.drModule k) k :=
  drSend_goes h.queue (drDetour_up h.up) (.inr h.moved) h.mod h.cred

/-- A store steers no packet. -/
theorem stored_drModule {s t : State} {a : Nat} {d : Bytes} (h : Stored s t a d) (k : DrPkt) : t.drModule k = s.drModule k :=
  (congrArg (fun z => State.drModule z k) h.rest :)

theorem Flows.stored {s t : State} {k : DrPkt} {a : Nat} {d : Bytes} (h : Flows s k) (ht : Stored s t a d) : Flows t k := by
  have hrest := ht.rest
  rw [← hrest] at h
  exact ⟨h.queue, h.up, h.moved, h.mod, h.cred⟩

/-! ### What answers a packet that passes (R266, R267) -/

/-- A read request for a whole block of HBM. -/
def State.drWhole (s : State) (g : Nat) (h : BitVec 128) : Bool :=
  fld h 108 7 == 64 && fld h 0 43 % 4096 == 0 && !s.drHole g h (fld h 0 43) (64 * fld h 108 7)
    && (match region (fld h 0 43) with | .hbm _ _ => true | _ => false)

/-- The core store, and the unit of it, whose parity a read request finds wrong. -/
def State.drFound (s : State) (g : Nat) (h : BitVec 128) (par : Option Nat) : Option (Nat × Nat) :=
  par.bind fun i => if i < fld h 108 7 && !s.drHole g h (fld h 0 43) (64 * fld h 108 7) then
    (match region (fld h 0 43 + 64 * i) with | .store c off => some (c, off / 64) | _ => none) else none

/-- The state after a read request that touches what the die does not serve. -/
def State.drServes (s u : State) (g : Nat) (h : BitVec 128) : State :=
  if s.drHole g h (fld h 0 43) (64 * fld h 108 7) && fld h 108 7 != 0 then u.drViol g h (fld h 0 43) else u

/-- The header of a reply to a read request. -/
def State.rdHdr (s : State) (g : Nat) (h : BitVec 128) (p : Bool) : BitVec 128 :=
  drHdr 3 2 (fld h 115 3) (fld h 118 3) (fld h 108 7) p (s.drWhole g h) (fld h 84 12) (fld h 72 12) (fld h 64 8) 0 (fld h 0 43)

/-- The reply to a read request out of state t. -/
def State.rdReply (s t : State) (g : Nat) (h : BitVec 128) (par : Bool) : DrPkt :=
  let a := fld h 0 43
  let n := fld h 108 7
  let hole := s.drHole g h a (64 * n)
  drPkt g (s.rdHdr g h ((!hole && (List.range n).any fun i => t.poisoned (a + 64 * i)) || par))
    ((if hole then List.replicate (64 * n) 0 else t.read a (64 * n))
      ++ (if s.drWhole g h then toBytes 64 (t.chkRead (a / 4096)).toNat else []))

section
variable {s u : State} {g m : Nat} {h : BitVec 128} (hcar : s.carries g m = true) (hchk : s.drCheck g m h = (u, true))
include hcar hchk

theorem exec_rdReq (par : Option Nat) : exec (.rdReq g m h par) s
    = .next (let t := (s.drFound g h par).elim (s.drServes u g h) fun p => (s.drServes u g h).parityFault 0 6 0 (.other p.1 p.2)
        t.drSend (s.rdReply t g h (s.drFound g h par).isSome)) := by
  have hfound : execRdReq g m h par s
      = ret (let t := (match s.drFound g h par with
            | some p => (s.drServes u g h).parityFault 0 6 0 (.other p.1 p.2) | none => s.drServes u g h)
          t.drSend (s.rdReply t g h (s.drFound g h par).isSome)) := by
    unfold execRdReq
    rw [if_pos hcar]
    dsimp only
    rw [hchk]
    rfl
  refine Eq.trans hfound ?_
  cases s.drFound g h par <;> rfl

/-- A read that is served. -/
theorem exec_rdReq_served (hhole : s.drHole g h (fld h 0 43) (64 * fld h 108 7) = false) : exec (.rdReq g m h none) s
    = .next (u.drSend (s.rdReply u g h false)) := by
  have hserves : s.drServes u g h = u := by
    unfold State.drServes
    rw [hhole]
    rfl
  rw [exec_rdReq hcar hchk none]
  show Host.Outcome.next ((s.drServes u g h).drSend (s.rdReply (s.drServes u g h) g h false)) = _
  rw [hserves]

/-- A read of what the die does not serve. -/
theorem exec_rdReq_hole (hhole : s.drHole g h (fld h 0 43) (64 * fld h 108 7) = true) (hn : fld h 108 7 ≠ 0) : exec (.rdReq g m h none) s
    = .next ((u.drViol g h (fld h 0 43)).drSend (drPkt g (s.rdHdr g h false) (List.replicate (64 * fld h 108 7) 0))) := by
  have hserves : s.drServes u g h = u.drViol g h (fld h 0 43) := by
    unfold State.drServes
    rw [hhole, if_pos (by simp [hn])]
  have hwhole : s.drWhole g h = false := by
    unfold State.drWhole
    rw [hhole]
    simp
  have hreply (t : State) : s.rdReply t g h false = drPkt g (s.rdHdr g h false) (List.replicate (64 * fld h 108 7) 0) := by
    unfold State.rdReply
    simp [hhole, hwhole]
  rw [exec_rdReq hcar hchk none]
  show Host.Outcome.next ((s.drServes u g h).drSend (s.rdReply (s.drServes u g h) g h false)) = _
  rw [hserves, hreply]

/-- A read that finds a core store's parity wrong. -/
theorem exec_rdReq_parity (hhole : s.drHole g h (fld h 0 43) (64 * fld h 108 7) = false) {i c o : Nat} (hi : i < fld h 108 7)
    (hr : region (fld h 0 43 + 64 * i) = .store c o) (hwhole : s.drWhole g h = false) : exec (.rdReq g m h (some i)) s
    = .next ((u.parityFault 0 6 0 (.other c (o / 64))).drSend (drPkt g (s.rdHdr g h true)
        ((u.parityFault 0 6 0 (.other c (o / 64))).read (fld h 0 43) (64 * fld h 108 7)))) := by
  have hserves : s.drServes u g h = u := by
    unfold State.drServes
    rw [hhole]
    rfl
  have hfound : s.drFound g h (some i) = some (c, o / 64) := by
    unfold State.drFound
    simp [hhole, hi, hr]
  have hreply (t : State) : s.rdReply t g h true = drPkt g (s.rdHdr g h true) (t.read (fld h 0 43) (64 * fld h 108 7)) := by
    unfold State.rdReply
    simp [hhole, hwhole]
  rw [exec_rdReq hcar hchk, hfound, hserves]
  show Host.Outcome.next ((u.parityFault 0 6 0 (.other c (o / 64))).drSend (s.rdReply (u.parityFault 0 6 0 (.other c (o / 64))) g h true)) = _
  rw [hreply]

end

end Sys2Proof.Machine
end

section
/-! Die-role packets: writes, replies, messages, management and credits, and O42. -/

namespace Sys2Proof.Machine

/-! ### Writes, replies, messages and management packets (R266, R268, R270) -/

/-- The acknowledgement of a write request. -/
def ackHdr (h : BitVec 128) : BitVec 128 :=
  drHdr 4 2 (fld h 115 3) (fld h 118 3) 0 false false (fld h 84 12) (fld h 72 12) (fld h 64 8) 0 (fld h 0 43)

section
variable {s u : State} {g m : Nat} {h : BitVec 128} (hcar : s.carries g m = true) (hchk : s.drCheck g m h = (u, true))
include hcar hchk

/-- A write to a core store. -/
theorem exec_wrReq_store {payload : Bytes} (tail : W64) (hhole : s.drHole g h (fld h 0 43) (64 * fld h 108 7) = false) (hn : fld h 108 7 ≠ 0)
    (hlen : payload.length = 64 * fld h 108 7) {c o : Nat} (hr : region (fld h 0 43) = .store c o) : exec (.wrReq g m h payload tail) s
    = .next ((u.store (fld h 0 43) payload false).drSend (drPkt g (ackHdr h) [])) := by
  have hpay : (payload ++ List.replicate (64 * fld h 108 7) 0).take (64 * fld h 108 7) = payload := List.take_left' hlen
  show execWrReq g m h payload tail s = _
  unfold execWrReq
  rw [if_pos hcar]
  dsimp only
  rw [hchk]
  simp only [hhole, hr, hpay, hn, Bool.and_false]
  rfl

theorem drReply_counts : s.drReply g m h = u.partnerViol g := by
  unfold State.drReply
  rw [if_pos hcar, hchk]
  rfl

theorem exec_rdRsp_counts (payload : Bytes) (tail : W64) : exec (.rdRsp g m h payload tail) s = .next (u.partnerViol g) :=
  congrArg Host.Outcome.next (drReply_counts hcar hchk)

theorem exec_wrAck_counts : exec (.wrAck g m h) s = .next (u.partnerViol g) := congrArg Host.Outcome.next (drReply_counts hcar hchk)

/-- A message from a unit of the partner's package has no effect of its own. -/
theorem exec_drMsg_inner (payload : Bytes) (hu : fld h 84 12 < 0x800) : exec (.drMsg g m h payload) s = .next u := by
  show execDrMsg g m h payload s = _
  unfold execDrMsg
  rw [if_pos hcar]
  dsimp only
  rw [hchk, if_neg (by simp; omega)]
  rfl

/-- A message from an attached endpoint acts as a trigger. -/
theorem exec_drMsg_trigger (payload : Bytes) (hu : 0x800 ≤ fld h 84 12) (hcore : fld h 64 8 ≤ 15) (hd : fld h 115 3 ≤ 3)
    (hdie : u.hasDie (fld h 115 3) = true) (hdead : hasNat u.deadDies (fld h 115 3) = false)
    (hroute : (u.dieRoute (rxDie g h) (fld h 115 3)).isSome) : ∃ (vals : List W64) (first sem inc : Nat), vals.length ≤ 8
      ∧ exec (.drMsg g m h payload) s = .next (u.fresh.trigger (16 * fld h 115 3 + fld h 64 8) vals first sem inc) := by
  let f : BitVec 531 := Config.freeBits 531 u.freeIx
  refine ⟨(List.range (Nat.min 8 (fld f 527 4))).map fun i => bits f (64 * i) 64, fld f 512 5, fld f 517 6, fld f 523 4, ?_, ?_⟩
  · rw [List.length_map, List.length_range]
    exact Nat.min_le_left _ _
  · have hreach : (15 < fld h 64 8 || 3 < fld h 115 3 || !u.hasDie (fld h 115 3) || hasNat u.deadDies (fld h 115 3)
        || (u.dieRoute (rxDie g h) (fld h 115 3)).isNone) = false := by
      simp only [Bool.or_eq_false_iff, decide_eq_false_iff_not, Bool.not_eq_false', Option.isNone_eq_false_iff]
      exact ⟨⟨⟨⟨by omega, by omega⟩, hdie⟩, hdead⟩, hroute⟩
    show execDrMsg g m h payload s = _
    unfold execDrMsg
    rw [if_pos hcar]
    dsimp only
    rw [hchk, if_pos (by simp [hu]), hreach]
    rfl

theorem exec_mgmt_taken (payload : Bytes) : exec (.mgmt g m h payload) s = .next u := by
  show execMgmt g m h payload s = _
  unfold execMgmt
  rw [if_pos hcar, hchk]
  rfl

end

/-! ### CREDIT (R264, R266) -/

/-- The units that a CREDIT packet returns, by class. -/
def creditUnits (payload : Bytes) : List Nat := (List.range 6).map fun c => ofBytes ((payload.drop (2 * c)).take 2)

/-- The credits of module m once its partner has returned units. -/
def creditAdded (g m : Nat) (units : List Nat) (p : Tab Nat) : Tab Nat :=
  (List.range 6).foldl (fun p c => Tab.upd 0 (drIx g m c) (· + nth 0 units c) p) p

theorem foldl_returned (g m : Nat) (units : List Nat) (l : List Nat) (t : State) :
    l.foldl (fun t c => { t with drCred := Tab.upd 0 (drIx g m c) (· + nth 0 units c) t.drCred }) t
      = { t with drCred := l.foldl (fun p c => Tab.upd 0 (drIx g m c) (· + nth 0 units c) p) t.drCred } := by
  induction l generalizing t with
  | nil => rfl
  | cons c l ih => exact ih _

/-- The classes of a module have keys of their own. -/
theorem mem_drIx {g m i : Nat} : i ∈ (List.range 6).map (drIx g m) ↔ drIx g m 0 ≤ i ∧ i < drIx g m 0 + 6 := by
  simp only [List.mem_map, List.mem_range, drIx]
  refine ⟨?_, fun h => ⟨i - (32 * g + m) * 8, by omega, by omega⟩⟩
  rintro ⟨c, hc, rfl⟩
  omega

theorem drIx_sub {g m : Nat} (c : Nat) : drIx g m c - drIx g m 0 = c := by
  unfold drIx
  omega

theorem creditAdded_get (g m : Nat) (units : List Nat) (p : Tab Nat) (i : Nat) : Tab.get 0 i (creditAdded g m units p)
    = Tab.get 0 i p + if i ∈ (List.range 6).map (drIx g m) then nth 0 units (i - drIx g m 0) else 0 := by
  have hix := drIx_sub (g := g) (m := m)
  have hkeys : creditAdded g m units p
      = ((List.range 6).map (drIx g m)).foldl (fun t n => Tab.upd 0 n (· + nth 0 units (n - drIx g m 0)) t) p := by
    rw [List.foldl_map]
    simp only [hix]
    rfl
  rw [hkeys]
  exact Tab.get_foldl_raise (fun n => nth 0 units (n - drIx g m 0)) i (List.nodup_range.map fun _ _ h => drIx_inj.1 h) p

theorem creditAdded_get_class {g m c : Nat} (payload : Bytes) (p : Tab Nat) (hc : c < 6) :
    Tab.get 0 (drIx g m c) (creditAdded g m (creditUnits payload) p) = Tab.get 0 (drIx g m c) p + ofBytes ((payload.drop (2 * c)).take 2) := by
  have hunits : nth 0 (creditUnits payload) c = ofBytes ((payload.drop (2 * c)).take 2) := by
    simp [creditUnits, nth, hc]
  rw [creditAdded_get, if_pos (List.mem_map.2 ⟨c, List.mem_range.2 hc, rfl⟩), drIx_sub, hunits]

theorem creditAdded_get_ne {g m i : Nat} (units : List Nat) (p : Tab Nat) (hi : ¬ (drIx g m 0 ≤ i ∧ i < drIx g m 0 + 6)) :
    Tab.get 0 i (creditAdded g m units p) = Tab.get 0 i p := by
  rw [creditAdded_get, if_neg (mt mem_drIx.1 hi), Nat.add_zero]

/-- The state after CREDIT: the units are added, what they cover is delivered, and the packet's own are no longer the partner's. -/
def State.drHeard (s : State) (g m : Nat) (payload : Bytes) : State :=
  { s with drCred := creditAdded g m (creditUnits payload) s.drCred, drPart := Tab.upd 0 (drIx g m 0) (· - 2) s.drPart,
           dmods := Tab.put DModule.reset (32 * g + m)
             { s.dmod g m with flight := freeFlight (creditUnits payload) (s.dmod g m).flight } s.dmods }

theorem drHeard_rest (s : State) (g m : Nat) (payload : Bytes) :
    { s.drHeard g m payload with drCred := s.drCred, drPart := s.drPart, drOwed := s.drOwed, dmods := s.dmods } = s := by
  unfold State.drHeard
  rfl

theorem exec_credit_hears {s : State} {g m : Nat} (payload : Bytes) (hcar : s.carries g m = true) :
    exec (.credit g m payload) s = .next ((s.drHeard g m payload).drFree g m 0 2).drGo := by
  show execCredit g m payload s = _
  unfold execCredit
  rw [if_pos hcar]
  dsimp only
  rw [foldl_returned]
  rfl

theorem exec_credit_owes {s : State} {g m : Nat} (payload : Bytes) (hcar : s.carries g m = true) (hq : s.drQueue = [])
    (howed : ∀ k, k < 6 → Tab.get 0 (drIx g m k) s.drOwed = 0) : exec (.credit g m payload) s
    = .next { s.drHeard g m payload with drOwed := Tab.upd 0 (drIx g m 0) (· + 2) s.drOwed } := by
  have hfree : (s.drHeard g m payload).drFree g m 0 2
      = { s.drHeard g m payload with drOwed := Tab.upd 0 (drIx g m 0) (· + 2) s.drOwed } :=
    drFree_owes (s := s.drHeard g m payload) howed (by omega)
  have hempty : ((s.drHeard g m payload).drFree g m 0 2).drQueue = [] := (congrArg State.drQueue hfree).trans hq
  rw [exec_credit_hears payload hcar, drGo_empty hempty, hfree]

/-- A table after one entry of class 0 has been changed. -/
theorem get_upd_class0 {g m : Nat} (f : Nat → Nat) (p : Tab Nat) (i : Nat) :
    Tab.get 0 i (Tab.upd 0 (drIx g m 0) f p) = if i = drIx g m 0 then f (Tab.get 0 (drIx g m 0) p) else Tab.get 0 i p := by
  rw [Tab.upd, Tab.get_put]

theorem credit_adds {s : State} {g m : Nat} (payload : Bytes) (hcar : s.carries g m = true) (hq : s.drQueue = [])
    (howed : ∀ k, k < 6 → Tab.get 0 (drIx g m k) s.drOwed = 0) : ∃ t, exec (.credit g m payload) s = .next t
      ∧ (∀ c, c < 6 → Tab.get 0 (drIx g m c) t.drCred = Tab.get 0 (drIx g m c) s.drCred + ofBytes ((payload.drop (2 * c)).take 2)
          ∧ Tab.get 0 (drIx g m c) t.drPart = Tab.get 0 (drIx g m c) s.drPart - (if c = 0 then 2 else 0)
          ∧ Tab.get 0 (drIx g m c) t.drOwed = if c = 0 then 2 else 0)
      ∧ (∀ i, ¬ (drIx g m 0 ≤ i ∧ i < drIx g m 0 + 6) → Tab.get 0 i t.drCred = Tab.get 0 i s.drCred ∧ Tab.get 0 i t.drPart = Tab.get 0 i s.drPart
          ∧ Tab.get 0 i t.drOwed = Tab.get 0 i s.drOwed)
      ∧ (t.dmod g m).flight = freeFlight (creditUnits payload) (s.dmod g m).flight
      ∧ { t with drCred := s.drCred, drPart := s.drPart, drOwed := s.drOwed, dmods := s.dmods } = s := by
  have hpart (i : Nat) : Tab.get 0 i (s.drHeard g m payload).drPart
      = if i = drIx g m 0 then Tab.get 0 (drIx g m 0) s.drPart - 2 else Tab.get 0 i s.drPart := get_upd_class0 (· - 2) s.drPart i
  have howes (i : Nat) := get_upd_class0 (g := g) (m := m) (· + 2) s.drOwed i
  refine ⟨_, exec_credit_owes payload hcar hq howed, fun c hc => ⟨creditAdded_get_class payload s.drCred hc, ?_, ?_⟩,
    fun i hi => ⟨creditAdded_get_ne _ s.drCred hi, ?_, ?_⟩, ?_, drHeard_rest s g m payload⟩
  · refine (hpart _).trans ?_
    by_cases h : c = 0
    · rw [h, if_pos rfl, if_pos rfl]
    · rw [if_neg (mt drIx_inj.1 h), if_neg h, Nat.sub_zero]
  · refine (howes _).trans ?_
    by_cases h : c = 0
    · rw [h, if_pos rfl, if_pos rfl, howed 0 (by omega)]
    · rw [if_neg (mt drIx_inj.1 h), if_neg h, howed c hc]
  · exact (hpart i).trans (if_neg (by omega))
  · exact (howes i).trans (if_neg (by omega))
  · exact (congrArg DModule.flight (Tab.get_put_self DModule.reset (32 * g + m)
      { s.dmod g m with flight := freeFlight (creditUnits payload) (s.dmod g m).flight } s.dmods) :)

/-! ### O42 -/

section
variable {s : State} {g m : Nat} {h : BitVec 128} (hcar : s.carries g m = true) (hq : s.drQueue = []) (hbad : drBad h = false)
  (howed : ∀ k, k < 6 → Tab.get 0 (drIx g m k) s.drOwed = 0) (hpart : drUnits h ≤ Tab.get 0 (drIx g m (drClass h)) s.drPart)
include hbad hpart

/-- A packet that passes the checks frees its buffer. -/
theorem drCheck_passes : s.drCheck g m h = ((s.drTaken g m h).drFree g m (drClass h) (drUnits h), true) := by
  have hlt := drClass_lt hbad
  unfold State.drCheck
  dsimp only
  rw [if_neg (by omega), if_neg (by omega), if_neg (by simp [hbad])]
  rfl

include hcar hq howed

/-- A packet whose units are due is answered by a CREDIT packet. -/
theorem drCheck_returns (hcred : 2 ≤ Tab.get 0 (drIx g m 0) s.drCred) (hdue : drClass h ≠ 0 ∨ 4 ≤ drUnits h) :
    s.drCheck g m h = (s.drTook g m h, true) := by
  have hpos : 0 < drUnits h := by unfold drUnits; omega
  rw [drCheck_passes hbad hpart, drFree_returns (s := s.drTaken g m h) howed hcar hq hcred (drClass_lt hbad) hpos hdue]
  rfl

omit hcar hq in
/-- A packet of class 0 with few units leaves them owed. -/
theorem drCheck_owes (hc : drClass h = 0) (hn : drUnits h < 4) : s.drCheck g m h
    = ({ s.drTaken g m h with drOwed := Tab.upd 0 (drIx g m 0) (· + drUnits h) s.drOwed }, true) := by
  rw [drCheck_passes hbad hpart, hc, drFree_owes (s := s.drTaken g m h) howed hn]
  rfl

end

/-- The module that a reply's flow takes. -/
def State.drVia (s : State) (g : Nat) (r : BitVec 128) : Nat := nth 0 (s.steering g) (drPkt g r []).flow

/-- A reply need not wait, once the packet that it answers has been taken. -/
def State.drGoes (s : State) (g m : Nat) (h r : BitVec 128) : Prop :=
  s.carries g (s.drVia g r) = true ∧ drUnits r ≤ Tab.get 0 (drIx g (s.drVia g r) (drClass r)) (s.drTook g m h).drCred
    ∧ (g, (drPkt g r []).flow) ∉ s.movedFlows

section
variable {s : State} {g m : Nat} {h r : BitVec 128}

theorem drModule_took (data : Bytes) : (s.drTook g m h).drModule (drPkt g r data) = s.drVia g r :=
  congrArg (fun l => nth 0 l (drPkt g r []).flow) ((drTook_delivered s g m h).steering g)

theorem State.drGoes.flows (hgoes : s.drGoes g m h r) (hq : s.drQueue = []) (hup : s.rf (rD2d g 0) 61 3 ≠ 4) (data : Bytes) :
    Flows (s.drTook g m h) (drPkt g r data) := by
  obtain ⟨hmod, hcred, hmoved⟩ := hgoes
  have hd := drTook_delivered s g m h
  refine ⟨hd.drQueue.trans hq, ?_, ?_, ?_, ?_⟩
  · rw [rf_of_reg (hd.reg _)]
    exact hup
  · rw [hd.movedFlows]
    exact hmoved
  · rw [hd.carries, drModule_took]
    exact hmod
  · rw [drModule_took]
    exact hcred

theorem State.drGoes.sends (hgoes : s.drGoes g m h r) (hq : s.drQueue = []) (hup : s.rf (rD2d g 0) 61 3 ≠ 4) (data : Bytes) :
    (s.drTook g m h).drSend (drPkt g r data) = (s.drTook g m h).drEmit (s.drVia g r) (drPkt g r data) := by
  rw [(hgoes.flows hq hup data).sends, drModule_took]

/-- What a read request reads is poisoned. -/
def State.drPoison (s : State) (g : Nat) (h : BitVec 128) : Bool :=
  !s.drHole g h (fld h 0 43) (64 * fld h 108 7) && (List.range (fld h 108 7)).any fun i => s.poisoned (fld h 0 43 + 64 * i)

/-- The reply to a read that is served holds what the state before it does. -/
theorem rdReply_took (hhole : s.drHole g h (fld h 0 43) (64 * fld h 108 7) = false) : s.rdReply (s.drTook g m h) g h false
    = drPkt g (s.rdHdr g h (s.drPoison g h))
      (s.read (fld h 0 43) (64 * fld h 108 7) ++ (if s.drWhole g h then toBytes 64 (s.chkRead (fld h 0 43 / 4096)).toNat else [])) := by
  have hd := drTook_delivered s g m h
  have hpois : (fun i => (s.drTook g m h).poisoned (fld h 0 43 + 64 * i)) = fun i => s.poisoned (fld h 0 43 + 64 * i) :=
    funext fun i => hd.poisoned _
  unfold State.rdReply State.drPoison
  dsimp only
  rw [hpois, hd.read, hd.chkRead, Bool.or_false, hhole]
  rfl

theorem rdReq_answers (hcar : s.carries g m = true) (hq : s.drQueue = []) (hup : s.rf (rD2d g 0) 61 3 ≠ 4)
    (hchk : s.drCheck g m h = (s.drTook g m h, true)) (hhole : s.drHole g h (fld h 0 43) (64 * fld h 108 7) = false)
    (hgoes : s.drGoes g m h (s.rdHdr g h (s.drPoison g h))) : exec (.rdReq g m h none) s
    = .next ((s.drTook g m h).drEmit (s.drVia g (s.rdHdr g h (s.drPoison g h))) (drPkt g (s.rdHdr g h (s.drPoison g h))
        (s.read (fld h 0 43) (64 * fld h 108 7) ++ (if s.drWhole g h then toBytes 64 (s.chkRead (fld h 0 43 / 4096)).toNat else [])))) := by
  rw [exec_rdReq_served hcar hchk hhole, rdReply_took hhole, hgoes.sends hq hup]

theorem wrReq_stores (hcar : s.carries g m = true) (hq : s.drQueue = []) (hup : s.rf (rD2d g 0) 61 3 ≠ 4)
    (hchk : s.drCheck g m h = (s.drTook g m h, true)) (hhole : s.drHole g h (fld h 0 43) (64 * fld h 108 7) = false)
    (hgoes : s.drGoes g m h (ackHdr h)) {payload : Bytes} (tail : W64) (hlen : payload.length = 64 * fld h 108 7) (hn : 0 < fld h 108 7)
    (hblock : fld h 0 43 % 4096 + 64 * fld h 108 7 ≤ 4096) (ha : ∃ c o, fld h 0 43 = storeAddr c o ∧ c < 64 ∧ o < 0x1800000) :
    ∃ t, exec (.wrReq g m h payload tail) s = .next t
      ∧ Stored ((s.drTook g m h).drEmit (s.drVia g (ackHdr h)) (drPkt g (ackHdr h) [])) t (fld h 0 43) payload := by
  have hstored := State.store_core_stored (s := s.drTook g m h) (d := payload) false ha (by omega) (by omega)
  have hflows := hgoes.flows hq hup []
  have hmod : ((s.drTook g m h).store (fld h 0 43) payload false).drModule (drPkt g (ackHdr h) []) = s.drVia g (ackHdr h) :=
    (stored_drModule hstored _).trans (drModule_took [])
  obtain ⟨c, o, hao, hc, ho⟩ := ha
  have hr : region (fld h 0 43) = .store c o := by
    rw [hao]
    exact region_storeAddr hc ho
  refine ⟨_, exec_wrReq_store hcar hchk tail hhole (by omega) hlen hr, ?_⟩
  rw [(hflows.stored hstored).sends, hmod]
  exact drEmit_stored hstored _ _

end

/-- Settles O42: a packet that passes the checks leaves the state `drTook`, which differs from the one before in credits, the packets on
their way and what has left; what answers then leaves at once. -/
theorem linkPackets : Obligations.LinkPackets := by
  unfold Obligations.LinkPackets
  intro g m h payload tail s hcar hq hup hbad howed hpart hcred
  have hd := drTook_delivered s g m h
  have hreturns (hdue : drClass h ≠ 0 ∨ 4 ≤ drUnits h) := drCheck_returns hcar hq hbad howed hpart hcred hdue
  have hanswers (h1 : 1 ≤ fld h 124 4) (h5 : fld h 124 4 ≤ 5) := hreturns (.inl (drClass_pos hbad h1 h5))
  intro a n taken owed back u via goes hole whole bad rd wr
  refine ⟨fun h1 => ⟨fun hhole hgoes => ?_, fun hhole hn => ?_, fun i c o hhole hi hr hwhole => ?_⟩,
    fun h2 hlen hn hblock hhole hgoes ha => ?_, fun h3 => ?_, fun h4 => ?_,
    fun h5 => ⟨fun hu => ?_, fun hu hcore hdst hdie hdead hroute => ?_⟩, fun h7 => ⟨fun hn => ?_, fun hn => ?_⟩, ?_⟩
  · exact rdReq_answers hcar hq hup (hanswers (by omega) (by omega)) hhole hgoes
  · exact exec_rdReq_hole hcar (hanswers (by omega) (by omega)) hhole hn
  · exact exec_rdReq_parity hcar (hanswers (by omega) (by omega)) hhole hi hr hwhole
  · exact wrReq_stores hcar hq hup (hanswers (by omega) (by omega)) hhole hgoes tail hlen hn hblock ha
  · exact exec_rdRsp_counts hcar (hanswers (by omega) (by omega)) payload tail
  · exact exec_wrAck_counts hcar (hanswers (by omega) (by omega))
  · exact exec_drMsg_inner hcar (hanswers (by omega) (by omega)) payload hu
  · exact exec_drMsg_trigger hcar (hanswers (by omega) (by omega)) payload hu hcore hdst ((hd.hasDie _).trans hdie)
      (by rw [hd.deadDies]; exact hdead) (by rw [hd.dieRoute]; exact hroute)
  · exact exec_mgmt_taken hcar (hreturns (.inr hn)) payload
  · exact exec_mgmt_taken hcar (drCheck_owes hbad howed hpart (drClass_mgmt hbad h7) hn) payload
  · exact credit_adds payload hcar hq howed

end Sys2Proof.Machine
end

section
/-! Bring-up of an optical port: who trains, who is DOWN, and the spares (O43). -/

namespace Sys2Proof.Machine

/-! ### A port and the ports of its die that wait -/

/-- Port q of I/O die i waits to train. -/
def State.waitsOn (s : State) (i q : Nat) : Prop := q / 8 = i ∧ q ∈ s.trainQ

/-- `t` is `s` but for port p and the waiting ports of its die, of which none begins where there is none. -/
def PortAndWaiting (p : Nat) (s t : State) : Prop :=
  NetR (fun o => portReg p o ∨ ∃ q, s.waitsOn (p / 8) q ∧ portReg q o) (fun q => q = p ∨ s.waitsOn (p / 8) q) s { t with trainQ := s.trainQ }
    ∧ ((∀ q, ¬ s.waitsOn (p / 8) q) → t.trainQ = s.trainQ)

/-- `t` is `s` with port p DOWN with a cause. -/
def PortFalls (p c : Nat) (s t : State) : Prop :=
  PortAndWaiting p s t ∧ t.rf (rPort p 0) 61 3 = 1 ∧ t.rf (rPort p 0) 58 3 = c ∧ t.rbit (rBoot 0x110) p = false ∧ (t.oport p).training = false

/-- `t` is `s` with a hart training port p on fibre f. -/
def PortTrains (Q : Nat → Prop) (p f : Nat) (s t : State) : Prop :=
  NetR Q (· = p) s t ∧ t.rf (rPort p 0) 61 3 = 2 ∧ t.rf (rPort p 0) 58 3 = 0 ∧ t.rbit (rPort p 0) 57 = s.rbit (rPort p 8) 29
    ∧ (t.oport p).training = true ∧ t.rf (rPort p 0) 52 4 = f

/-- Both meshes of the die lead port p to fibre f (R287, R288). -/
def SteeredTo (p f : Nat) (t : State) : Prop :=
  t.rf (rOpt (p / 8) 0x10) (5 * f) 5 = 16 + p % 8 ∧ t.rf (rOpt (p / 8) 0x18) (5 * (p % 8)) 5 = 16 + f

/-- Port p of a lit die trains as soon as it is queued: it alone waits, the map uses it, its group is up and a hart is free (R291). -/
structure State.MayTrain (s : State) (p : Nat) : Prop where
  live  : s.portLive p = true
  alone : ∀ q ∈ s.trainQ, q / 8 ≠ p / 8
  used  : s.rf (rFabPort p) 61 3 ≠ 0
  group : s.rf (rD2d (4 + p / 8) 0) 61 3 ≠ 4
  hart  : others s p < 2

theorem portLive_hasPort {s : State} {p : Nat} (h : s.portLive p = true) : s.hasPort p = true := by
  unfold State.portLive at h
  exact (Bool.and_eq_true_iff.1 h).1

theorem portLive_lt {s : State} {p : Nat} (h : s.portLive p = true) : p < 32 := hasPort_lt (portLive_hasPort h)

/-- The free harts of the die act after port p alone has changed, and left the queue or not. -/
theorem takePorts_after {s z : State} {p : Nat} {L : List Nat} (h : PortOnly p { s with trainQ := L } z) (hL : ∀ q ∈ L, q ∈ s.trainQ)
    (hsame : (∀ q, ¬ s.waitsOn (p / 8) q) → L = s.trainQ) : PortAndWaiting p s (z.takePorts (p / 8)) := by
  have hz : z.trainQ = L := h.trainQ
  have hport : PortOnly p s { z with trainQ := s.trainQ } := h.queued s.trainQ
  have htake := (takePorts_net z (p / 8) (s.waitsOn (p / 8)) fun q hq hd => ⟨hd, hL q (hz ▸ hq)⟩).1.queued s.trainQ
  refine ⟨(hport.mono (fun _ => .inl) fun _ => .inl).trans (htake.mono (fun _ => .inr) fun _ => .inr), fun halone => ?_⟩
  have hnone : ∀ q ∈ z.trainQ, q / 8 ≠ p / 8 := fun q hq hd => halone q ⟨hd, hL q (hz ▸ hq)⟩
  rw [takePorts_none z _ hnone, hz, hsame halone]

theorem takePorts_boot (t : State) (i : Nat) : (t.takePorts i).reg (rBoot 0x110) = t.reg (rBoot 0x110) :=
  (takePorts_net t i (fun _ => True) fun _ _ _ => trivial).2

theorem takePorts_port {t : State} {p : Nat} (hp : p < 32) (h : p ∉ t.trainQ) : (t.takePorts (p / 8)).reg (rPort p 0) = t.reg (rPort p 0) :=
  (takePorts_other t p hp h).1 0 (by omega)

/-! ### DOWN (R281, R288, R291, R295) -/

theorem portDown_stat {t : State} {p c : Nat} (hp : p < 32) (hfan : Tab.get none (p / 8) t.fan = none) (hc : c < 8) :
    (t.portDown p c).rf (rPort p 0) 61 3 = 1 ∧ (t.portDown p c).rf (rPort p 0) 58 3 = c := by
  have hreg := (portDown_port t p c hp hfan).1
  rw [fwp _ hreg, fwp _ hreg]
  refine ⟨?_, ?_⟩
  · rw [fld_setFld_ne _ _ _ _ _ _ (by omega), fld_setFld _ _ _ _ (by omega)]
    rfl
  · rw [fld_setFld _ _ _ _ (by omega)]
    exact Nat.mod_eq_of_lt hc

/-- Port p goes DOWN, and other ports take its hart. -/
theorem portDown_falls {s u : State} {p c : Nat} {L : List Nat} (hp : p < 32) (hfan : Tab.get none (p / 8) s.fan = none) (hc : c < 8)
    (hu : PortOnly p { s with trainQ := L } u) (hL : ∀ q ∈ L, q ∈ s.trainQ) (hsame : (∀ q, ¬ s.waitsOn (p / 8) q) → L = s.trainQ)
    (hpL : p ∉ L) : PortFalls p c s ((u.portDown p c).takePorts (p / 8)) := by
  have hufan : Tab.get none (p / 8) u.fan = none := by rw [hu.fan]; exact hfan
  have hdown := hu.trans (portDown_net u p c hp hufan)
  have hwait : p ∉ (u.portDown p c).trainQ := by rw [hdown.trainQ]; exact hpL
  have hreg := takePorts_port hp hwait
  obtain ⟨hst, hcause⟩ := portDown_stat hp hufan hc
  obtain ⟨_, hboot, hport⟩ := portDown_port u p c hp hufan
  refine ⟨takePorts_after hdown hL hsame, (State.rf_of_reg hreg 61 3).trans hst, (State.rf_of_reg hreg 58 3).trans hcause, ?_, ?_⟩
  · unfold State.rbit
    rw [takePorts_boot]
    exact hboot
  · rw [(takePorts_other _ p hp hwait).2, hport]

/-- Port p, which does not wait, goes DOWN. -/
theorem portDown_falls_idle {s u : State} {p c : Nat} (hp : p < 32) (hfan : Tab.get none (p / 8) s.fan = none) (hc : c < 8)
    (hu : PortOnly p s u) (hq : p ∉ s.trainQ) : PortFalls p c s ((u.portDown p c).takePorts (p / 8)) :=
  portDown_falls (L := s.trainQ) hp hfan hc hu (fun _ h => h) (fun _ => rfl) hq

theorem exec_adminDown_holds {s : State} {p : Nat} (h : s.hasPort p = true) (h0 : s.rf (rPort p 0) 61 3 ≠ 0) (h4 : s.rf (rPort p 0) 61 3 ≠ 4)
    (hnew : ¬ (s.rf (rPort p 0) 61 3 = 1 ∧ s.rf (rPort p 0) 58 3 = 4)) : exec (.adminDown p true) s
    = .next ((({ s.setRbit (rPort p 8) 30 true with trainQ := s.trainQ.erase p } : State).portDown p 4).takePorts (p / 8)) := by
  show ret (s.adminDown p true) = _
  unfold State.adminDown
  simp [h, h0, h4, hnew, ret]

theorem adminDown_falls {s : State} {p : Nat} (hp : p < 32) (hfan : Tab.get none (p / 8) s.fan = none) (hq : p ∉ s.trainQ.erase p) :
    let t := (({ s.setRbit (rPort p 8) 30 true with trainQ := s.trainQ.erase p } : State).portDown p 4).takePorts (p / 8)
    PortFalls p 4 s t ∧ t.rbit (rPort p 8) 30 = true := by
  intro t
  let u : State := { s.setRbit (rPort p 8) 30 true with trainQ := s.trainQ.erase p }
  have hu : PortOnly p { s with trainQ := s.trainQ.erase p } u := (NetR.refl _).setRbit _ 30 true (port_reg p 8 (by omega))
  have hsame (halone : ∀ q, ¬ s.waitsOn (p / 8) q) : s.trainQ.erase p = s.trainQ := List.erase_of_not_mem fun hm => halone p ⟨rfl, hm⟩
  have hwait : p ∉ (u.portDown p 4).trainQ := by
    rw [(portDown_net u p 4 hp hfan).trainQ]
    exact hq
  refine ⟨portDown_falls hp hfan (by omega) hu (fun _ => List.mem_of_mem_erase) hsame hq, ?_⟩
  show bit (t.reg (rPort p 8)) 30 = true
  rw [(takePorts_other _ p hp hwait).1 8 (by omega), portDown_at u p 4 8 hp hfan (by omega) (by omega)]
  exact (congrArg (bit · 30) (State.reg_setRbit_self s _ 30 true)).trans (bit_setBit _ 30 true (by omega))

/-! ### Training (R291, R295) -/

/-- A port that the driver has released trains at once when a command has touched it alone. -/
theorem queuePort_trains {s z : State} {p : Nat} (h : s.MayTrain p) (hz : PortOnly p s z) (h30 : z.rbit (rPort p 8) 30 = false)
    (h29 : z.rbit (rPort p 8) 29 = s.rbit (rPort p 8) 29) (ht : (z.oport p).training = false) {f : Nat} (hf : z.rf (rPort p 0) 52 4 = f) :
    PortTrains (portReg p) p f s ((z.queuePort p).takePorts (p / 8)) := by
  obtain ⟨hnet, hst, hcause, hreach, htrain, hfibre, _⟩ := starts s z p (portReg p) (fun _ ho => ho)
    (by unfold portReg fabReg rPort rOpt; omega) (fun _ => .inl) h.live h.alone hz h.used h.group h30 h29 h.hart ht
  exact ⟨hnet, hst, hcause, hreach, htrain, hfibre.trans hf⟩

theorem exec_portRetry_down {s : State} {p : Nat} (h : s.portLive p = true) (h1 : s.rf (rPort p 0) 61 3 = 1)
    (hc : s.rf (rPort p 0) 58 3 = 1 ∨ s.rf (rPort p 0) 58 3 = 2) :
    exec (.portRetry p) s = .next ((s.queuePort p).takePorts (p / 8)) := by
  show execPortRetry p s = _
  unfold execPortRetry
  rcases hc with hc | hc <;> simp [h, h1, hc, ret]

/-- A port leaves service and trains again, with all its registers but its status as they were. -/
theorem restartPort_trains {s : State} {p : Nat} (h : s.MayTrain p) (hfan : Tab.get none (p / 8) s.fan = none)
    (h30 : s.rbit (rPort p 8) 30 = false) : PortTrains (portReg p) p (s.rf (rPort p 0) 52 4) s (s.restartPort p) := by
  have hp := portLive_lt h.live
  unfold State.restartPort
  dsimp only
  split
  · obtain ⟨hreg, _, hport⟩ := portDown_port s p 0 hp hfan
    have h8 : ∀ j, (s.portDown p 0).rbit (rPort p 8) j = s.rbit (rPort p 8) j := fun j => by
      unfold State.rbit
      rw [portDown_at s p 0 8 hp hfan (by omega) (by omega)]
    refine queuePort_trains h (portDown_net s p 0 hp hfan) ((h8 30).trans h30) (h8 29) (by rw [hport]) ?_
    rw [fwp _ hreg, fld_setFld_ne _ _ _ _ _ _ (by omega), fld_setFld_ne _ _ _ _ _ _ (by omega)]
    rfl
  · exact queuePort_trains h ((NetR.refl s).modPort p _ rfl) h30 rfl (by rw [oport_modPort]) rfl

theorem exec_optRetrain_home {s : State} {p : Nat} (h : s.portLive p = true) (hf : s.rf (rPort p 0) 52 4 = s.homeFibre p) :
    exec (.optRetrain p) s = .next (s.restartPort p) := by
  show ret (s.optRetrain p) = _
  unfold State.optRetrain
  simp [h, hf, ret]

theorem exec_adminDown_releases {s : State} {p : Nat} (h : s.hasPort p = true) (h1 : s.rf (rPort p 0) 61 3 = 1)
    (h4 : s.rf (rPort p 0) 58 3 = 4) :
    exec (.adminDown p false) s = .next (((s.setRbit (rPort p 8) 30 false).queuePort p).takePorts (p / 8)) := by
  show ret (s.adminDown p false) = _
  unfold State.adminDown
  simp [h, h1, h4, ret]

theorem adminUp_trains {s : State} {p : Nat} (h : s.MayTrain p) (ht : (s.oport p).training = false) :
    PortTrains (portReg p) p (s.rf (rPort p 0) 52 4) s (((s.setRbit (rPort p 8) 30 false).queuePort p).takePorts (p / 8)) := by
  have hne : rPort p 0 ≠ rPort p 8 := port_ne _ _ _ _ (by omega) (by omega) (.inr (by omega))
  refine queuePort_trains h ((NetR.refl s).setRbit _ 30 false (port_reg p 8 (by omega))) ?_ ?_ ht (State.rf_of_reg (State.reg_setRbit_ne s hne) 52 4)
  · unfold State.rbit
    rw [State.reg_setRbit_self, bit_setBit _ _ _ (by omega)]
  · unfold State.rbit
    rw [State.reg_setRbit_self, bit_setBit_ne _ _ _ _ (by omega)]

/-- A training port whose lanes are there at both ends, with the maps to hold them, is UP (R281, R291). -/
theorem judgePort_rises {s : State} {p : Nat} (h2 : s.rf (rPort p 0) 61 3 = 2) (ht : (s.oport p).training = false)
    (htx : s.minLanes p ≤ popcount (s.txMap p)) (hrx : s.minLanes p ≤ popcount (s.rxMap p)) (hown : s.minLanes p ≤ popcount (s.oport p).rxReady)
    (hpart : s.minLanes p ≤ popcount ((s.oport p).pReady &&& s.sources (p / 8))) : s.judgePort p = s.portRise p := by
  unfold State.judgePort
  simp [h2, ht, htx, hrx, hown, hpart]

/-- The lanes that a hart has verified on a port (R291). -/
def OPort.trained (o : OPort) (v : BitVec 8) : OPort :=
  (List.range 8).foldl (fun o l =>
    if bit v l then o.modLane l fun x => { x with stage := 0 } else o.modLane l fun x => { x with stage := 1, good := 0 })
    { o with training := false, rxReady := v, rxRemove := ~~~ v }

theorem OPort.trained_flags (o : OPort) (v : BitVec 8) :
    (o.trained v).rxReady = v ∧ (o.trained v).pReady = o.pReady ∧ (o.trained v).training = false :=
  lanes_keep v (fun x => { x with stage := 0 }) (fun x => { x with stage := 1, good := 0 }) (List.range 8)
    { o with training := false, rxReady := v, rxRemove := ~~~ v }

/-- The port as its hart leaves it, before it is judged. -/
def State.trained (s : State) (p : Nat) (v : BitVec 8) : State := (s.modPort p fun o => o.trained v).laneStats p

theorem exec_portTrainDone_lit {s : State} {p : Nat} (h : s.portLive p = true) (h2 : s.rf (rPort p 0) 61 3 = 2) (ht : (s.oport p).training = true)
    (v : BitVec 8) : exec (.portTrainDone p true v) s = .next (((s.trained p v).judgePort p).takePorts (p / 8)) := by
  show execPortTrainDone p true v s = _
  unfold execPortTrainDone
  simp only [h, h2, ht, beq_self_eq_true, Bool.and_self, if_true]
  rfl

theorem exec_portTrainDone_dark {s : State} {p : Nat} (h : s.portLive p = true) (h2 : s.rf (rPort p 0) 61 3 = 2) (ht : (s.oport p).training = true)
    (hf : s.rf (rPort p 0) 52 4 < 8) (v : BitVec 8) : exec (.portTrainDone p false v) s = .next ((s.portDown p 1).takePorts (p / 8)) := by
  show execPortTrainDone p false v s = _
  unfold execPortTrainDone
  simp [h, h2, ht, Nat.not_le.2 hf, ret]

theorem trained_net (s : State) {p : Nat} (hp : p < 32) (v : BitVec 8) : PortOnly p s (s.trained p v) :=
  ((NetR.refl (Q := portReg p) (P := (· = p)) s).modPort p _ rfl).trans (laneStats_net _ p hp)

theorem trained_reg (s : State) (p o : Nat) (v : BitVec 8) (ho : ∀ l, l < 8 → o ≠ rPort p (0x40 + 8 * l)) : (s.trained p v).reg o = s.reg o :=
  laneStats_reg _ p o ho

theorem trained_port (s : State) {p : Nat} (hp : p < 32) (v : BitVec 8) : (s.trained p v).oport p = (s.oport p).trained v := by
  have hlanes := (laneStats_net (P := fun _ => False) (s.modPort p fun o => o.trained v) p hp).lanes p fun h => h
  exact hlanes.trans (oport_modPort s p _)

theorem minLanes_of_reg {s t : State} {p : Nat} (h : t.reg (rPort p 8) = s.reg (rPort p 8)) : t.minLanes p = s.minLanes p := by
  unfold State.minLanes
  rw [State.rf_of_reg h]

theorem maps_of_reg {s t : State} {p : Nat} (h : t.reg (rPort p 0) = s.reg (rPort p 0)) : t.txMap p = s.txMap p ∧ t.rxMap p = s.rxMap p := by
  unfold State.txMap State.rxMap
  rw [h]
  exact ⟨rfl, rfl⟩

theorem sources_of_reg {s t : State} {i : Nat} (h : t.reg (rOpt i 0) = s.reg (rOpt i 0)) : t.sources i = s.sources i := by
  unfold State.sources
  rw [h]

theorem sources_of_net {Q P : Nat → Prop} {s t : State} {i : Nat} (h : NetR Q P s t) (hQ : ¬ Q (rOpt i 0)) : t.sources i = s.sources i :=
  sources_of_reg (h.regs _ (by unfold eventReg rOpt; omega) hQ)

theorem bits_setFld_ne {n : Nat} (w : BitVec n) (lo len v lo' len' : Nat) (h : lo + len ≤ lo' ∨ lo' + len' ≤ lo) :
    bits (setFld w lo len v) lo' len' = bits w lo' len' := BitVec.eq_of_toNat_eq (fld_setFld_ne w lo len v lo' len' h)

/-- The lane maps of a port that has come UP or gone DOWN are those of before. -/
theorem maps_of_stat {s t : State} {p a b : Nat} (h : t.reg (rPort p 0) = setFld (setFld (s.reg (rPort p 0)) 61 3 a) 58 3 b) :
    t.txMap p = s.txMap p ∧ t.rxMap p = s.rxMap p := by
  unfold State.txMap State.rxMap
  rw [h]
  simp only [bits_setFld_ne, Nat.reduceAdd, Nat.reduceLeDiff, or_true]
  exact ⟨trivial, trivial⟩

theorem trained_rises {s : State} {p : Nat} {v : BitVec 8} (hlive : s.portLive p = true) (hq : p ∉ s.trainQ) (h2 : s.rf (rPort p 0) 61 3 = 2)
    (hown : s.minLanes p ≤ popcount v) (hpart : s.minLanes p ≤ popcount ((s.oport p).pReady &&& s.sources (p / 8)))
    (htx : s.minLanes p ≤ popcount (s.txMap p)) (hrx : s.minLanes p ≤ popcount (s.rxMap p)) :
    let t := ((s.trained p v).judgePort p).takePorts (p / 8)
    PortAndWaiting p s t ∧ t.portUp p = true ∧ t.rf (rPort p 0) 58 3 = 0 ∧ t.rbit (rBoot 0x110) p = true ∧ t.txMap p = s.txMap p
      ∧ t.rxMap p = s.rxMap p := by
  have hp := portLive_lt hlive
  let u := s.trained p v
  have hu : PortOnly p s u := trained_net s hp v
  have hne (o : Nat) (ho : o < 0x40) (l : Nat) (hl : l < 8) : rPort p o ≠ rPort p (0x40 + 8 * l) :=
    port_ne _ _ _ _ (by omega) (by omega) (.inr (by omega))
  have hr0 : u.reg (rPort p 0) = s.reg (rPort p 0) := trained_reg s p _ v (hne 0 (by omega))
  have hmin : u.minLanes p = s.minLanes p := minLanes_of_reg (trained_reg s p _ v (hne 8 (by omega)))
  obtain ⟨hutx, hurx⟩ := maps_of_reg hr0
  obtain ⟨hready, hpready, htraining⟩ := OPort.trained_flags (s.oport p) v
  have hport : u.oport p = (s.oport p).trained v := trained_port s hp v
  have hsrc : u.sources (p / 8) = s.sources (p / 8) := sources_of_net hu (by unfold portReg fabReg rPort rOpt; omega)
  have hjudge : u.judgePort p = u.portRise p := judgePort_rises ((State.rf_of_reg hr0 61 3).trans h2) (by rw [hport, htraining])
    (by rwa [hmin, hutx]) (by rwa [hmin, hurx]) (by rwa [hmin, hport, hready]) (by rwa [hmin, hport, hpready, hsrc])
  have hrise := hu.trans (portRise_net (P := (· = p)) u p hp)
  have hwait : p ∉ (u.portRise p).trainQ := by rw [hrise.trainQ]; exact hq
  have hstat := portRise_port u p hp
  intro t
  have ht : t = (u.portRise p).takePorts (p / 8) := congrArg (fun z : State => z.takePorts (p / 8)) hjudge
  have hreg : t.reg (rPort p 0) = setFld (setFld (s.reg (rPort p 0)) 61 3 3) 58 3 0 := by rw [ht, takePorts_port hp hwait, hstat, hr0]
  obtain ⟨httx, htrx⟩ := maps_of_stat hreg
  refine ⟨?_, ?_, ?_, ?_, httx, htrx⟩
  · rw [ht]
    exact takePorts_after (L := s.trainQ) hrise (fun _ h => h) fun _ => rfl
  · unfold State.portUp
    have hhas : t.hasPort p = true := by rw [ht, takePorts_hasPort, hrise.hasPort, portLive_hasPort hlive]
    rw [hhas, fwp _ hreg, fld_setFld_ne _ _ _ _ _ _ (by omega), fld_setFld _ _ _ _ (by omega)]
    rfl
  · rw [fwp _ hreg, fld_setFld _ _ _ _ (by omega)]
    rfl
  · unfold State.rbit
    rw [ht, takePorts_boot]
    exact portRise_boot u p hp

/-! ### Spares (R288) -/

/-- Port p moves to a spare and trains there. -/
theorem moveToSpare_trains {s u : State} {p f : Nat} (h : s.MayTrain p) (hfan : Tab.get none (p / 8) s.fan = none)
    (h30 : s.rbit (rPort p 8) 30 = false) (hu : PortOnly p s u) (h8 : u.reg (rPort p 8) = s.reg (rPort p 8))
    (hfree : [8, 9].find? (spareFree u p) = some f) :
    PortTrains (meshReg p) p f s ((u.moveToSpare p).takePorts (p / 8)) ∧ SteeredTo p f ((u.moveToSpare p).takePorts (p / 8)) := by
  have hp := portLive_lt h.live
  have hf : f = 8 ∨ f = 9 := by
    have := List.mem_of_find?_eq_some hfree
    simpa using this
  obtain ⟨hnet, hfibre, hout, hin, hctl, htraining⟩ := onSpare_spec u p f hp (by rw [hu.fan]; exact hfan) hf
  have hctl8 : (onSpare u p f).reg (rPort p 8) = s.reg (rPort p 8) := hctl.trans h8
  have hbit : ∀ j, (onSpare u p f).rbit (rPort p 8) j = s.rbit (rPort p 8) j := fun j => by
    unfold State.rbit
    rw [hctl8]
  have hmeshes (o : Nat) (ho : meshReg p o) : portReg p o ∨ (rOpt (p / 8) 0 ≤ o ∧ o < rOpt (p / 8) 0x20) :=
    ho.imp_right fun h => by unfold rOpt at h ⊢; omega
  obtain ⟨hrest, hst, hcause, hreach, htrain, hfib, hfar⟩ := starts s (onSpare u p f) p (meshReg p) (fun _ => .inl)
    (by unfold meshReg portReg fabReg rPort rOpt; omega) hmeshes h.live h.alone
    ((hu.mono (fun _ => .inl) fun _ h => h).trans hnet) h.used h.group ((hbit 30).trans h30) (hbit 29) h.hart htraining
  have hmesh (o : Nat) (ho : o < 0x20) := hfar (rOpt (p / 8) o) (by unfold eventReg rOpt; omega) (by unfold portReg fabReg rPort rOpt; omega)
  rw [move_eq u p f hfree]
  exact ⟨⟨hrest, hst, hcause, hreach, htrain, hfib.trans hfibre⟩,
    (State.rf_of_reg (hmesh 0x10 (by omega)) _ 5).trans hout, (State.rf_of_reg (hmesh 0x18 (by omega)) _ 5).trans hin⟩

theorem moveToSpare_falls {s u : State} {p : Nat} (hp : p < 32) (hfan : Tab.get none (p / 8) s.fan = none) (hq : p ∉ s.trainQ)
    (hu : PortOnly p s u) (hst : u.rf (rPort p 0) 61 3 ≠ 1) (hfree : [8, 9].find? (spareFree u p) = none) :
    PortFalls p 5 s ((u.moveToSpare p).takePorts (p / 8)) := by
  rw [move_none u p hfree fun h => hst h.1]
  exact portDown_falls_idle hp hfan (by omega) hu hq

theorem find_spare_first {s : State} {p : Nat} (h : spareFree s p 8 = true) : [8, 9].find? (spareFree s p) = some 8 := by
  rw [find_free, if_pos h]

theorem find_spare_second {s : State} {p : Nat} (h8 : ¬ spareFree s p 8 = true) (h9 : spareFree s p 9 = true) :
    [8, 9].find? (spareFree s p) = some 9 := by rw [find_free, if_neg h8, if_pos h9]

theorem find_spare_none {s : State} {p : Nat} (h8 : ¬ spareFree s p 8 = true) (h9 : ¬ spareFree s p 9 = true) :
    [8, 9].find? (spareFree s p) = none := by rw [find_free, if_neg h8, if_neg h9]

/-- Port p has told its partner of its dark fibre, where the darkness is its own (R288). -/
def State.darkened (s : State) (p : Nat) (own : Bool) : State := if own then s.modPort p fun o => { o with fault := true } else s

theorem darkened_net (s : State) (p : Nat) (own : Bool) : PortOnly p s (s.darkened p own) := by
  unfold State.darkened
  split
  · exact (NetR.refl s).modPort p _ rfl
  · exact NetR.refl s

theorem darkened_reg (s : State) (p o : Nat) (own : Bool) : (s.darkened p own).reg o = s.reg o := by
  unfold State.darkened
  split <;> rfl

theorem darkened_spareFree (s : State) (p f : Nat) (own : Bool) : spareFree (s.darkened p own) p f = spareFree s p f := by
  unfold State.darkened
  split <;> rfl

theorem exec_fibreDark_up {s : State} {p : Nat} {own : Bool} (h : s.portLive p = true) (h3 : s.rf (rPort p 0) 61 3 = 3)
    (hdark : own = true ∨ (s.oport p).pFault = true) :
    exec (.fibreDark ⟨p, own⟩) s = .next (((s.darkened p own).moveToSpare p).takePorts (p / 8)) := by
  show execFibreDark ⟨p, own⟩ s = _
  unfold execFibreDark
  have hd : (own || (s.oport p).pFault) = true := Bool.or_eq_true_iff.2 hdark
  have hs : s.inService p = true := by
    unfold State.inService
    rw [h3]
    rfl
  simp only [h, hs, hd, Bool.true_or, Bool.and_self, if_true]
  rfl

/-- The fibre that port p trains on is a bad spare (R288). -/
def State.spareBad (s : State) (p f : Nat) : State := { s with badSpares := (16 * (p / 8) + f) :: s.badSpares }

theorem spareBad_first (s : State) (p : Nat) : ¬ spareFree (s.spareBad p 8) p 8 = true := by
  rw [spareFree_iff]
  exact fun hfree => hfree.2.1 (List.mem_cons_self ..)

theorem spareBad_second (s : State) (p : Nat) : spareFree (s.spareBad p 8) p 9 = true ↔ spareFree s p 9 = true := by
  rw [spareFree_iff, spareFree_iff]
  refine and_congr Iff.rfl (and_congr (not_congr ?_) Iff.rfl)
  show _ ∈ (_ :: s.badSpares) ↔ _
  rw [List.mem_cons, or_iff_right (by omega)]

theorem exec_spareTrainTimeout_first {s : State} {p : Nat} (h : s.portLive p = true) (h2 : s.rf (rPort p 0) 61 3 = 2)
    (h8 : s.rf (rPort p 0) 52 4 = 8) : exec (.spareTrainTimeout p) s = .next (((s.spareBad p 8).moveToSpare p).takePorts (p / 8)) := by
  show execSpareTrainTimeout p s = _
  unfold execSpareTrainTimeout
  simp only [h, h2, h8, beq_self_eq_true, Nat.le_refl, decide_true, Bool.and_self, if_true]
  rfl

theorem exec_portTrainDone_spare {s : State} {p : Nat} (h : s.portLive p = true) (h2 : s.rf (rPort p 0) 61 3 = 2)
    (h8 : s.rf (rPort p 0) 52 4 = 8) (ht : (s.oport p).training = true) (v : BitVec 8) :
    exec (.portTrainDone p false v) s = .next (((s.spareBad p 8).moveToSpare p).takePorts (p / 8)) := by
  show execPortTrainDone p false v s = _
  unfold execPortTrainDone
  simp only [h, h2, h8, ht, beq_self_eq_true, Bool.and_self, if_true, Bool.false_eq_true, if_false, Nat.le_refl]
  rfl

/-- The second spare of a pair, where the first did not train. -/
theorem secondSpare_trains {s : State} {p : Nat} (h : s.MayTrain p) (hfan : Tab.get none (p / 8) s.fan = none)
    (h30 : s.rbit (rPort p 8) 30 = false) (h9 : spareFree s p 9 = true) :
    let t := ((s.spareBad p 8).moveToSpare p).takePorts (p / 8)
    PortTrains (meshReg p) p 9 (s.spareBad p 8) t ∧ SteeredTo p 9 t :=
  moveToSpare_trains (s := s.spareBad p 8) ⟨h.live, h.alone, h.used, h.group, h.hart⟩ hfan h30 (NetR.refl _) rfl
    (find_spare_second (spareBad_first s p) ((spareBad_second s p).2 h9))

theorem secondSpare_falls {s : State} {p : Nat} (hp : p < 32) (hfan : Tab.get none (p / 8) s.fan = none) (hq : p ∉ s.trainQ)
    (h2 : s.rf (rPort p 0) 61 3 = 2) (h9 : ¬ spareFree s p 9 = true) :
    PortFalls p 5 (s.spareBad p 8) (((s.spareBad p 8).moveToSpare p).takePorts (p / 8)) :=
  moveToSpare_falls (s := s.spareBad p 8) hp hfan hq (NetR.refl _) (fun h => absurd (h2.symm.trans h) (by omega))
    (find_spare_none (spareBad_first s p) fun h => h9 ((spareBad_second s p).1 h))

theorem exec_reachWrite_held {s : State} {p : Nat} (h : s.hasPort p = true) (short : Bool) :
    exec (.reachWrite p short) s = .next (s.setRbit (rPort p 8) 29 short) := by
  show ret (if s.hasPort p = true then _ else _) = _
  rw [if_pos h]
  rfl

/-! ### O43 -/

/-- Settles O43: a port that leaves the queue alone falls by `portDown`, whose hart others may take; one that a free hart takes trains at
once (`starts`), on its own fibre or on the spare that `moveToSpare` finds. -/
theorem opticalPorts : Obligations.OpticalPorts := by
  unfold Obligations.OpticalPorts
  intro p v s hlive hfan herase
  have hp := portLive_lt hlive
  have hport := portLive_hasPort hlive
  intro i r st cause hart home waits alone at' only mesh trains down ready released free spare8 moved moves
  have hmay (h : ready) : s.MayTrain p := ⟨hlive, fun q hq hd => h.1 q ⟨hd, hq⟩, h.2.1, h.2.2.1, h.2.2.2⟩
  have hfree (f : Nat) : spareFree s p f = true ↔ free f := spareFree_iff s p f
  refine ⟨fun h2 _ hown hpart htx hrx => ?_, fun h2 ht hf => ?_, fun hr hrel h1 ht hc => ?_, fun hr hrel hf => ?_, fun h0 h4 hnew => ?_,
    fun hr h1 ht h4 => ?_, exec_reachWrite_held hport true, exec_reachWrite_held hport false, fun own h3 hdark => ?_, fun h2 h8 => ?_⟩
  · exact ⟨_, exec_portTrainDone_lit hlive h2.1 ‹_› v, trained_rises hlive h2.2 h2.1 hown hpart htx hrx⟩
  · exact ⟨_, exec_portTrainDone_dark hlive h2.1 ht hf v, portDown_falls_idle hp hfan (by omega) (NetR.refl s) h2.2⟩
  · exact ⟨_, exec_portRetry_down hlive h1 hc, queuePort_trains (hmay hr) (NetR.refl s) hrel rfl ht rfl⟩
  · exact ⟨_, exec_optRetrain_home hlive hf, restartPort_trains (hmay hr) hfan hrel⟩
  · have hexec := exec_adminDown_holds hport h0 h4 hnew
    obtain ⟨hfalls, hheld⟩ := adminDown_falls hp hfan herase
    exact ⟨⟨_, hexec, hfalls⟩, fun t ht => by cases hexec.symm.trans ht; exact hheld⟩
  · exact ⟨_, exec_adminDown_releases hport h1 h4, adminUp_trains (hmay hr) ht⟩
  · have hexec := exec_fibreDark_up hlive h3.1 hdark
    have hspare (f : Nat) : spareFree (s.darkened p own) p f = true ↔ free f := by rw [darkened_spareFree]; exact hfree f
    have hmoves (f : Nat) (hr : ready) (hrel : released) (hfind : [8, 9].find? (spareFree (s.darkened p own) p) = some f) :
        moves (.fibreDark ⟨p, own⟩) f s := by
      obtain ⟨htrains, hmoved⟩ := moveToSpare_trains (hmay hr) hfan hrel (darkened_net s p own) (darkened_reg s p _ own) hfind
      exact ⟨⟨_, hexec, htrains⟩, fun t ht => by cases hexec.symm.trans ht; exact hmoved⟩
    refine ⟨fun hr hrel h8 => hmoves 8 hr hrel (find_spare_first ((hspare 8).2 h8)), fun hr hrel h8 h9 => ?_, fun h8 h9 => ⟨_, hexec, ?_⟩⟩
    · exact hmoves 9 hr hrel (find_spare_second (fun h => h8 ((hspare 8).1 h)) ((hspare 9).2 h9))
    · refine moveToSpare_falls hp hfan h3.2 (darkened_net s p own) ?_ (find_spare_none (fun h => h8 ((hspare 8).1 h)) fun h => h9 ((hspare 9).1 h))
      rw [State.rf_of_reg (darkened_reg s p _ own)]
      exact fun h1 => absurd (h3.1.symm.trans h1) (by omega)
  · have hmoves (j : Instr) (hexec : exec j s = .next (((s.spareBad p 8).moveToSpare p).takePorts (p / 8))) :
        (ready → released → free 9 → moves j 9 spare8) ∧ (¬ free 9 → down j 5 spare8) := by
      refine ⟨fun hr hrel h9 => ?_, fun h9 => ⟨_, hexec, secondSpare_falls hp hfan h2.2 h2.1 fun h => h9 ((hfree 9).1 h)⟩⟩
      obtain ⟨htrains, hmoved⟩ := secondSpare_trains (hmay hr) hfan hrel ((hfree 9).2 h9)
      exact ⟨⟨_, hexec, htrains⟩, fun t ht => by cases hexec.symm.trans ht; exact hmoved⟩
    obtain ⟨htrain, hdown⟩ := hmoves _ (exec_spareTrainTimeout_first hlive h2.1 h8)
    exact ⟨htrain, hdown, fun ht => hmoves _ (exec_portTrainDone_spare hlive h2.1 h8 ht v)⟩

end Sys2Proof.Machine
end

section
/-! Lanes of an optical port: judgement, removal, and the word of the partner (O44). -/

namespace Sys2Proof.Machine

/-! ### A lane of a port -/

theorem OPort.lane_modLane_self (o : OPort) (l : Nat) (f : OLane → OLane) : (o.modLane l f).lane l = f (o.lane l) := Tab.get_put_self ..

theorem OPort.lane_modLane_ne (o : OPort) {j l : Nat} (f : OLane → OLane) (h : j ≠ l) : (o.modLane l f).lane j = o.lane j :=
  Tab.get_put_ne _ _ _ h

/-- A change of one lane of a port. -/
def State.modLaneOf (s : State) (p l : Nat) (g : OLane → OLane) : State := s.modPort p fun o => o.modLane l g

theorem modLaneOf_oport (s : State) (p l : Nat) (g : OLane → OLane) : (s.modLaneOf p l g).oport p = (s.oport p).modLane l g :=
  oport_modPort s p _

theorem modLaneOf_net (s : State) (p l : Nat) (g : OLane → OLane) : PortOnly p s (s.modLaneOf p l g) := (NetR.refl s).modPort p _ rfl

theorem inService_of_up {s : State} {p : Nat} (h : s.rf (rPort p 0) 61 3 = 3) : s.inService p = true := by
  unfold State.inService
  rw [h]
  rfl

/-! ### The maps of a port (R278) -/

theorem rf_setMaps (t : State) (p : Nat) (tx rx : BitVec 8) {lo len : Nat} (h : lo + len ≤ 28 ∨ 52 ≤ lo) :
    (t.setMaps p tx rx).rf (rPort p 0) lo len = t.rf (rPort p 0) lo len := by
  rw [fwp _ (setMaps_port t p tx rx), fld_setFld_ne _ _ _ _ _ _ (by omega), fld_setFld_ne _ _ _ _ _ _ (by omega),
    fld_setFld_ne _ _ _ _ _ _ (by omega), fld_setFld_ne _ _ _ _ _ _ (by omega)]
  rfl

theorem bits_setFld_self {n len : Nat} (w : BitVec n) (lo : Nat) (v : BitVec len) (h : lo + len ≤ n) :
    bits (setFld w lo len v.toNat) lo len = v :=
  BitVec.eq_of_toNat_eq ((fld_setFld w lo len _ h).trans (Nat.mod_eq_of_lt v.isLt))

theorem setMaps_maps (t : State) (p : Nat) (tx rx : BitVec 8) : (t.setMaps p tx rx).txMap p = tx ∧ (t.setMaps p tx rx).rxMap p = rx := by
  unfold State.txMap State.rxMap
  rw [setMaps_port]
  refine ⟨?_, ?_⟩
  · rw [bits_setFld_ne _ _ _ _ _ _ (by omega), bits_setFld_ne _ _ _ _ _ _ (by omega), bits_setFld_ne _ _ _ _ _ _ (by omega),
      bits_setFld_self _ _ _ (by omega)]
  · rw [bits_setFld_ne _ _ _ _ _ _ (by omega), bits_setFld_ne _ _ _ _ _ _ (by omega), bits_setFld_self _ _ _ (by omega)]

theorem setMaps_oport (t : State) {p : Nat} (hp : p < 32) (tx rx : BitVec 8) : (t.setMaps p tx rx).oport p = t.oport p :=
  (setMaps_net (P := fun _ => False) t p hp tx rx).lanes p fun h => h

/-- A map change writes the port's status, its count of lane changes and the status of its lanes. -/
theorem setMaps_reg (t : State) {p o : Nat} (tx rx : BitVec 8) (he : ¬ eventReg o) (h0 : o ≠ rPort p 0) (h1 : o ≠ rPort p 0x10)
    (hl : ∀ l, l < 8 → o ≠ rPort p (0x40 + 8 * l)) : (t.setMaps p tx rx).reg o = t.reg o := by
  have hpulses (n : Nat) (z : State) : (iter n (fun _ t => (t.journalOpen 0x40 0 6 p).pulse (642 + 4 * p)) z).reg o = z.reg o :=
    iter_inv (P := fun y : State => y.reg o = z.reg o) (fun _ _ y hy => by rw [State.pulse_reg _ _ _ he, journal_reg, hy]) rfl
  have hmap (z : State) : z.mapChange.reg o = z.reg o := rfl
  unfold State.setMaps
  dsimp only
  rw [laneStats_reg _ _ _ hl]
  split <;> split <;>
    simp only [hmap, State.setLevel_reg _ _ _ _ he, hpulses, State.bump, State.reg_setRf_ne _ h0, State.reg_setRf_ne _ h1]

theorem setMaps_ctl (t : State) (p : Nat) (tx rx : BitVec 8) : (t.setMaps p tx rx).reg (rPort p 8) = t.reg (rPort p 8) :=
  setMaps_reg t tx rx (port_plain p 8) (port_ne _ _ _ _ (by omega) (by omega) (by omega)) (port_ne _ _ _ _ (by omega) (by omega) (by omega))
    fun _ _ => port_ne _ _ _ _ (by omega) (by omega) (by omega)

/-! ### The judgement of a port (R281) -/

/-- `t` is `s` with port p judged: UP, DOWN or as it was. -/
structure PortJudged (p : Nat) (s t : State) : Prop where
  net  : PortOnly p s t
  stat : ∀ lo len, lo + len ≤ 58 → t.rf (rPort p 0) lo len = s.rf (rPort p 0) lo len
  port : ∃ b, t.oport p = { s.oport p with training := b }

theorem PortJudged.refl (p : Nat) (s : State) : PortJudged p s s := ⟨NetR.refl s, fun _ _ _ => rfl, _, rfl⟩

theorem PortJudged.maps {p : Nat} {s t : State} (h : PortJudged p s t) : t.txMap p = s.txMap p ∧ t.rxMap p = s.rxMap p :=
  ⟨BitVec.eq_of_toNat_eq (h.stat 36 8 (by omega)), BitVec.eq_of_toNat_eq (h.stat 28 8 (by omega))⟩

theorem rf_of_stat {s t : State} {p a b lo len : Nat} (h : t.reg (rPort p 0) = setFld (setFld (s.reg (rPort p 0)) 61 3 a) 58 3 b)
    (hlo : lo + len ≤ 58) : t.rf (rPort p 0) lo len = s.rf (rPort p 0) lo len := by
  rw [fwp _ h, fld_setFld_ne _ _ _ _ _ _ (by omega), fld_setFld_ne _ _ _ _ _ _ (by omega)]
  rfl

theorem portRise_judged (s : State) {p : Nat} (hp : p < 32) : PortJudged p s (s.portRise p) :=
  ⟨portRise_net s p hp, fun _ _ h => rf_of_stat (portRise_port s p hp) h, _,
    (portRise_net (P := fun _ => False) s p hp).lanes p fun h => h⟩

theorem portDown_judged {s : State} {p : Nat} (c : Nat) (hp : p < 32) (hfan : Tab.get none (p / 8) s.fan = none) :
    PortJudged p s (s.portDown p c) := by
  obtain ⟨hreg, _, hport⟩ := portDown_port s p c hp hfan
  exact ⟨portDown_net s p c hp hfan, fun _ _ h => rf_of_stat hreg h, _, hport⟩

theorem judgePort_judged {s : State} {p : Nat} (hp : p < 32) (hfan : Tab.get none (p / 8) s.fan = none) : PortJudged p s (s.judgePort p) := by
  unfold State.judgePort
  dsimp only
  split
  · split
    · exact portRise_judged s hp
    · exact PortJudged.refl p s
  · split
    · split
      · exact PortJudged.refl p s
      · exact portDown_judged 3 hp hfan
    · split
      · exact portRise_judged s hp
      · exact PortJudged.refl p s

theorem judgePort_stays {s : State} {p : Nat} (h3 : s.rf (rPort p 0) 61 3 = 3) (htx : s.minLanes p ≤ popcount (s.txMap p))
    (hrx : s.minLanes p ≤ popcount (s.rxMap p)) : s.judgePort p = s := by
  unfold State.judgePort
  simp [h3, htx, hrx]

/-! ### A lane leaves service (R279, R280) -/

/-- The port without lane l, which begins its recovery. -/
def OPort.without (o : OPort) (l : Nat) : OPort :=
  ({ o with rxReady := setBit o.rxReady l false, rxRemove := setBit o.rxRemove l true }).modLane l fun x =>
    { x with stage := 1, good := 0, asked := false }

theorem setHeater_reg (t : State) {i ring o : Nat} (temp : Nat) (h : o ≠ rOpt i (0x1040 + 0x100 * (ring % 64 / 8) + 8 * (ring % 8))) :
    (t.setHeater i ring temp).reg o = t.reg o := by
  unfold State.setHeater
  dsimp only
  generalize t.heaterAt i ring temp _ = v
  exact State.reg_setRf_ne t h

theorem retuneRing_reg (t : State) {i ring o : Nat} (h : o ≠ rOpt i (0x1040 + 0x100 * (ring % 64 / 8) + 8 * (ring % 8))) :
    (t.retuneRing i ring).reg o = t.reg o := setHeater_reg t _ h

/-- The ring of a removed lane is retuned. -/
def State.lostLane (s : State) (p l : Nat) : State := (s.modPort p fun o => o.without l).retuneRing (p / 8) (64 + 8 * (p % 8) + l)

theorem lostLane_oport (s : State) (p l : Nat) : (s.lostLane p l).oport p = (s.oport p).without l :=
  oport_modPort s p fun o => o.without l

theorem lostLane_net (s : State) (p : Nat) {l : Nat} (hl : l < 8) : PortOnly p s (s.lostLane p l) :=
  ((NetR.refl (Q := portReg p) (P := (· = p)) s).modPort p _ rfl).trans (retune_net _ p _ (ring_reg p l hl 64 (.inr rfl)))

theorem lostLane_reg (s : State) (p : Nat) {l : Nat} (hl : l < 8) : (s.lostLane p l).reg (rPort p 0) = s.reg (rPort p 0) := by
  refine retuneRing_reg _ ?_
  rw [ring_reg p l hl 64 (.inr rfl)]
  exact port_ne _ _ _ _ (by omega) (by omega) (by omega)

theorem removeLane_eq {s : State} {p l : Nat} (hfan : Tab.get none (p / 8) s.fan = none) (hbit : bit (s.oport p).rxReady l = true) :
    s.removeLane p l = (if setBit (s.oport p).rxReady l false = 0 then (s.lostLane p l).setMaps p ((s.lostLane p l).txMap p) 0
      else (s.lostLane p l).laneStats p).judgePort p := by
  have hready : ((s.lostLane p l).oport p).rxReady = setBit (s.oport p).rxReady l false := congrArg OPort.rxReady (lostLane_oport s p l)
  have hlost : ((s.modPort p fun o => o.without l).laneFan p).retuneRing (p / 8) (64 + 8 * (p % 8) + l) = s.lostLane p l := by
    rw [laneFan_none (s.modPort p fun o => o.without l) p hfan]
    rfl
  rw [← hready]
  unfold State.removeLane
  rw [if_pos hbit]
  exact congrArg (fun t : State => (if (t.oport p).rxReady = 0 then t.setMaps p (t.txMap p) 0 else t.laneStats p).judgePort p) hlost

theorem removeLane_spec {s : State} {p l : Nat} (hp : p < 32) (hl : l < 8) (hfan : Tab.get none (p / 8) s.fan = none)
    (hbit : bit (s.oport p).rxReady l = true) : PortOnly p s (s.removeLane p l)
    ∧ (s.removeLane p l).rxMap p = (if setBit (s.oport p).rxReady l false = 0 then 0 else s.rxMap p)
    ∧ ∃ b, (s.removeLane p l).oport p = { (s.oport p).without l with training := b } := by
  have hlost := lostLane_net s p hl
  have hfan' : Tab.get none (p / 8) (s.lostLane p l).fan = none := by rw [hlost.fan]; exact hfan
  refine ⟨removeLane_net s p l hp hl hfan, ?_⟩
  rw [removeLane_eq hfan hbit]
  split
  · have hmaps := setMaps_net (P := (· = p)) (s.lostLane p l) p hp ((s.lostLane p l).txMap p) 0
    have hj := judgePort_judged hp ((congrArg (Tab.get none (p / 8)) hmaps.fan).trans hfan')
    obtain ⟨b, hport⟩ := hj.port
    exact ⟨hj.maps.2.trans (setMaps_maps ..).2, b, by rw [hport, setMaps_oport _ hp, lostLane_oport]⟩
  · have hstats := laneStats_net (P := fun _ => False) (s.lostLane p l) p hp
    have hj := judgePort_judged hp ((congrArg (Tab.get none (p / 8)) hstats.fan).trans hfan')
    obtain ⟨b, hport⟩ := hj.port
    refine ⟨hj.maps.2.trans ?_, b, by rw [hport, hstats.lanes p fun h => h, lostLane_oport]⟩
    have hreg := laneStats_reg (s.lostLane p l) p (rPort p 0) fun _ _ => port_ne _ _ _ _ (by omega) (by omega) (by omega)
    exact (maps_of_reg (hreg.trans (lostLane_reg s p hl))).2

/-- The removal of a lane leaves what the lanes' flits have named. -/
theorem removeLane_wrong {s : State} {p l : Nat} (hp : p < 32) (hl : l < 8) (hfan : Tab.get none (p / 8) s.fan = none) (j : Nat) :
    (((s.removeLane p l).oport p).lane j).wrong = ((s.oport p).lane j).wrong := by
  by_cases hbit : bit (s.oport p).rxReady l = true
  · obtain ⟨_, _, b, hport⟩ := removeLane_spec hp hl hfan hbit
    rw [hport]
    show (((s.oport p).without l).lane j).wrong = _
    unfold OPort.without
    by_cases hj : j = l
    · subst hj
      rw [OPort.lane_modLane_self]
      rfl
    · rw [OPort.lane_modLane_ne _ _ hj]
      rfl
  · unfold State.removeLane
    rw [if_neg hbit]

/-- `t` is `s` with lane l of port p out of service. -/
def LaneRemoved (p l : Nat) (s t : State) : Prop :=
  PortOnly p s t ∧ bit (t.oport p).rxReady l = false ∧ bit (t.oport p).rxRemove l = true
    ∧ t.rxMap p = (if setBit (s.oport p).rxReady l false = 0 then 0 else s.rxMap p) ∧ ((t.oport p).lane l).stage = 1

/-- A lane that its errors or flits condemn leaves service, after they have been noted of it. -/
theorem removeLane_removes {s u : State} {p l : Nat} (hp : p < 32) (hl : l < 8) (hfan : Tab.get none (p / 8) s.fan = none)
    (hu : PortOnly p s u) (hreg : u.reg (rPort p 0) = s.reg (rPort p 0)) (hport : u.oport p = s.oport p) (g : OLane → OLane)
    (hbit : bit (s.oport p).rxReady l = true) : LaneRemoved p l s ((u.modLaneOf p l g).removeLane p l) := by
  have hnoted := hu.trans (modLaneOf_net u p l g)
  have hready : ((u.modLaneOf p l g).oport p).rxReady = (s.oport p).rxReady := by rw [modLaneOf_oport, hport]; rfl
  have hmap : (u.modLaneOf p l g).rxMap p = s.rxMap p := (maps_of_reg (t := u.modLaneOf p l g) hreg).2
  obtain ⟨hnet, hrx, b, hafter⟩ := removeLane_spec (s := u.modLaneOf p l g) hp hl (by rw [hnoted.fan]; exact hfan) (by rw [hready]; exact hbit)
  refine ⟨hnoted.trans hnet, ?_, ?_, by rw [hrx, hready, hmap], ?_⟩ <;> rw [hafter]
  · exact bit_setBit _ l false hl
  · exact bit_setBit _ l true hl
  · show ((((u.modLaneOf p l g).oport p).without l).lane l).stage = 1
    unfold OPort.without
    rw [OPort.lane_modLane_self]

end Sys2Proof.Machine
end

section
/-! Lanes of an UP port: identity flits and boundaries, error windows, the steps of a recovery, and O44. -/

namespace Sys2Proof.Machine

/-! ### The word of the partner (R276, R277, R292, R293) -/

/-- What an identity flit says of the partner. -/
def OPort.word (o : OPort) : (BitVec 8 × BitVec 8 × Bool) × (Bool × BitVec 8 × BitVec 8) :=
  ((o.pTx, o.pNext, o.pReach), (o.pFault, o.pReady, o.pRemove))

/-- What identity flits have done for a lane. -/
def OLane.heard (x : OLane) : Nat × Nat × Option W64 := (x.missing, x.good, x.goodAt)

/-- `t` is `s` with port p's own lanes and maps changed: the partner's names and word stand. -/
structure Follows (p : Nat) (s t : State) : Prop where
  net   : PortOnly p s t
  names : ∀ lo len, lo + len ≤ 28 → t.rf (rPort p 0) lo len = s.rf (rPort p 0) lo len
  word  : (t.oport p).word = (s.oport p).word
  lanes : ∀ l, ((t.oport p).lane l).heard = ((s.oport p).lane l).heard

theorem Follows.refl (p : Nat) (s : State) : Follows p s s := ⟨NetR.refl s, fun _ _ _ => rfl, rfl, fun _ => rfl⟩

theorem Follows.trans {p : Nat} {s t u : State} (h : Follows p s t) (k : Follows p t u) : Follows p s u :=
  ⟨h.net.trans k.net, fun lo len hlo => (k.names lo len hlo).trans (h.names lo len hlo), k.word.trans h.word,
    fun l => (k.lanes l).trans (h.lanes l)⟩

theorem Follows.of_judged {p : Nat} {s t : State} (h : PortJudged p s t) : Follows p s t := by
  obtain ⟨b, hport⟩ := h.port
  exact ⟨h.net, fun lo len hlo => h.stat lo len (by omega), by rw [hport]; rfl, fun l => by rw [hport]; rfl⟩

theorem Follows.fan {p i : Nat} {s t : State} (h : Follows p s t) (hfan : Tab.get none i s.fan = none) : Tab.get none i t.fan = none := by
  rw [h.net.fan]
  exact hfan

theorem judgePort_follows {s : State} {p : Nat} (hp : p < 32) (hfan : Tab.get none (p / 8) s.fan = none) : Follows p s (s.judgePort p) :=
  Follows.of_judged (judgePort_judged hp hfan)

theorem setMaps_follows (s : State) {p : Nat} (hp : p < 32) (tx rx : BitVec 8) : Follows p s (s.setMaps p tx rx) :=
  ⟨setMaps_net s p hp tx rx, fun _ _ h => rf_setMaps s p tx rx (.inl h), by rw [setMaps_oport s hp], fun l => by rw [setMaps_oport s hp]⟩

theorem laneStats_follows (s : State) {p : Nat} (hp : p < 32) : Follows p s (s.laneStats p) := by
  have hport := (laneStats_net (P := fun _ => False) s p hp).lanes p fun h => h
  have hreg := laneStats_reg s p (rPort p 0) fun _ _ => port_ne _ _ _ _ (by omega) (by omega) (by omega)
  exact ⟨laneStats_net s p hp, fun lo len _ => State.rf_of_reg hreg lo len, by rw [hport], fun l => by rw [hport]⟩

theorem laneReady_follows {s : State} {p : Nat} (hp : p < 32) (l : Nat) (hfan : Tab.get none (p / 8) s.fan = none) :
    Follows p s (s.laneReady p l) := by
  let g (o : OPort) : OPort :=
    ({ o with rxReady := setBit o.rxReady l true, rxRemove := setBit o.rxRemove l false, retune := setBit o.retune l false }).modLane l
      fun x => { x with stage := 0, asked := false }
  have hport : (s.modPort p g).oport p = g (s.oport p) := oport_modPort s p g
  have hmark : Follows p s (s.modPort p g) := by
    refine ⟨(NetR.refl s).modPort p g rfl, fun _ _ _ => rfl, by rw [hport]; rfl, fun j => ?_⟩
    rw [hport]
    show (OLane.heard (OPort.lane (OPort.modLane _ l _) j)) = _
    by_cases hj : j = l
    · subst hj
      rw [OPort.lane_modLane_self]
      rfl
    · rw [OPort.lane_modLane_ne _ _ hj]
      rfl
  have hstats := hmark.trans (laneStats_follows _ hp)
  exact hstats.trans (judgePort_follows hp (hstats.fan hfan))

/-- Port p takes the word of a flit of its own partner. -/
def State.hear (s : State) (p l : Nat) (f : IdFlit) (viol : Nat) (withdrawn known moved : Bool) : State :=
  let t := s.fresh.bump (rPort p 0x10) 0 16 viol
  let t := if withdrawn then t.setRf (rPort p 0x10) 32 16 (s.rf (rPort p 0x10) 32 16 - 1) else t
  let t := t.modPort p fun o => o.heard l f true (s.inService p) known (~~~ (s.sources (p / 8))) (s.txMap p) s.time
  let t := if moved then t.mapChange else t
  (t.setRf (rPort p 0) 0 16 f.fabricId.toNat).setRf (rPort p 0) 16 5 f.port

/-- A lane that the partner's flits have verified, and the map that they announce, take effect (R278, R280). -/
def State.follow (s : State) (p l : Nat) (f : IdFlit) : State :=
  let x := (s.oport p).lane l
  let t := if 3 ≤ x.good && (x.stage == 1 || x.stage == 2 || x.stage == 4) then s.laneReady p l else s
  let r := (t.oport p).rxReady
  let rx := if r = 0 then 0 else f.txMap &&& (r ||| t.rxMap p)
  (if rx = t.rxMap p then t else t.setMaps p (t.txMap p) rx).judgePort p

theorem follow_follows {s : State} {p : Nat} (hp : p < 32) (l : Nat) (f : IdFlit) (hfan : Tab.get none (p / 8) s.fan = none) :
    Follows p s (s.follow p l f) := by
  have hmaps (t : State) (ht : Follows p s t) (rx : BitVec 8) :
      Follows p s ((if rx = t.rxMap p then t else t.setMaps p (t.txMap p) rx).judgePort p) := by
    split
    · exact ht.trans (judgePort_follows hp (ht.fan hfan))
    · have := ht.trans (setMaps_follows t hp (t.txMap p) rx)
      exact this.trans (judgePort_follows hp (this.fan hfan))
  unfold State.follow
  dsimp only
  split
  · exact hmaps _ (laneReady_follows hp l hfan) _
  · exact hmaps s (Follows.refl p s) _

theorem hear_net (s : State) (p l : Nat) (f : IdFlit) (viol : Nat) (withdrawn known moved : Bool) :
    PortOnly p s (s.hear p l f viol withdrawn known moved) := by
  have h0 := port_reg p 0 (by omega)
  have h1 := port_reg p 0x10 (by omega)
  have hfresh : PortOnly p s s.fresh := ⟨fun _ _ _ => rfl, fun _ _ => rfl, rfl⟩
  have hbump := hfresh.bump _ 0 16 viol h1
  have hname {t : State} (h : PortOnly p s t) : PortOnly p s ((t.setRf (rPort p 0) 0 16 f.fabricId.toNat).setRf (rPort p 0) 16 5 f.port) :=
    (h.setRf _ _ _ _ h0).setRf _ _ _ _ h0
  unfold State.hear
  dsimp only
  refine hname ?_
  split <;> split
  · exact ((hbump.setRf _ _ _ _ h1).modPort p _ rfl).mapChange
  · exact (hbump.modPort p _ rfl).mapChange
  · exact (hbump.setRf _ _ _ _ h1).modPort p _ rfl
  · exact hbump.modPort p _ rfl

theorem hear_names (s : State) (p l : Nat) (f : IdFlit) (viol : Nat) (withdrawn known moved : Bool) :
    (s.hear p l f viol withdrawn known moved).rf (rPort p 0) 0 16 = f.fabricId.toNat
    ∧ (s.hear p l f viol withdrawn known moved).rf (rPort p 0) 16 5 = f.port % 32 := by
  unfold State.hear
  dsimp only
  refine ⟨?_, State.rf_setRf _ _ _ _ _ (by omega)⟩
  rw [State.rf_setRf_ne _ _ _ _ _ _ _ (by omega), State.rf_setRf _ _ _ _ _ (by omega)]
  exact Nat.mod_eq_of_lt f.fabricId.isLt

theorem hear_oport (s : State) (p l : Nat) (f : IdFlit) (viol : Nat) (withdrawn known moved : Bool) :
    (s.hear p l f viol withdrawn known moved).oport p
      = (s.oport p).heard l f true (s.inService p) known (~~~ (s.sources (p / 8))) (s.txMap p) s.time := by
  unfold State.hear
  dsimp only
  split <;> split <;> exact oport_modPort _ p fun o => o.heard l f true _ known _ _ _

theorem heard_word (o : OPort) (l : Nat) (f : IdFlit) (service known : Bool) (src tx : BitVec 8) (now : W64) :
    (o.heard l f true service known (~~~ src) tx now).word
      = ((f.txMap, f.nextMap, f.reach), (f.remoteFault, f.rxReady &&& src, f.rxRemove)) := by
  unfold OPort.heard OPort.word
  simp only [if_true, BitVec.not_not]

theorem heard_lane (o : OPort) (l : Nat) (f : IdFlit) (service known : Bool) (never tx : BitVec 8) (now : W64) :
    ((o.heard l f true service known never tx now).lane l).heard = (0, (o.lane l).good + 1, some now) :=
  congrArg OLane.heard (OPort.lane_modLane_self o l fun x =>
    { x with missing := 0, good := x.good + 1, wrong := false, goodAt := some now, badAt := none })

/-- What the partner asks to be retuned is retuned (R279). -/
def State.retuneAsked (s : State) (p : Nat) (f : IdFlit) (quiet : Nat → Bool) : State :=
  iter 8 (fun j t => if bit f.retuneReq j && !quiet j then t.retuneRing (p / 8) (8 * (p % 8) + j) else t) s

theorem retuneAsked_none (s : State) (p : Nat) {f : IdFlit} (quiet : Nat → Bool) (h : f.retuneReq = 0) : s.retuneAsked p f quiet = s :=
  iter_inv (P := fun t => t = s) (fun j _ t ht => by rw [h]; simpa [bit] using ht) rfl

/-- A flit of the port's own partner is heard and followed. -/
theorem idAccept_own (s : State) (p l : Nat) {f : IdFlit} (hown : f.fanout = false) :
    ∃ (viol : Nat) (withdrawn known moved : Bool) (quiet : Nat → Bool) (fans : Bool), s.idAccept p l f = (let t := (s.hear p l f viol withdrawn known moved).retuneAsked p f quiet
      if fans then t.laneFan p else t).follow p l f := by
  obtain ⟨magic, fid, port, lane, reach, fanout, fanPort, rf, tx, nx, rr, rd, rq, seq, fibre, crc⟩ := f
  obtain rfl : fanout = false := hown
  exact ⟨_, _, _, _, _, _, rfl⟩

/-- The word of the partner is kept, whatever lanes and maps become of it. -/
theorem idAccept_takes {s : State} {p : Nat} (l : Nat) {f : IdFlit} (hp : p < 32) (hfan : Tab.get none (p / 8) s.fan = none)
    (hown : f.fanout = false) (hret : f.retuneReq = 0) :
    let t := s.idAccept p l f
    PortOnly p s t ∧ (t.oport p).pTx = f.txMap ∧ (t.oport p).pNext = f.nextMap
      ∧ (t.oport p).pReach = f.reach ∧ (t.oport p).pFault = f.remoteFault ∧ (t.oport p).pReady = f.rxReady &&& s.sources (p / 8)
      ∧ (t.oport p).pRemove = f.rxRemove ∧ ((t.oport p).lane l).missing = 0 ∧ ((t.oport p).lane l).good = ((s.oport p).lane l).good + 1
      ∧ ((t.oport p).lane l).goodAt = some s.time ∧ t.rf (rPort p 0) 0 16 = f.fabricId.toNat ∧ t.rf (rPort p 0) 16 5 = f.port % 32 := by
  obtain ⟨viol, withdrawn, known, moved, quiet, fans, h⟩ := idAccept_own s p l hown
  have hhear := hear_net s p l f viol withdrawn known moved
  have hfan' : Tab.get none (p / 8) (s.hear p l f viol withdrawn known moved).fan = none := by rw [hhear.fan]; exact hfan
  simp only [retuneAsked_none _ _ _ hret, laneFan_none _ _ hfan', ite_self] at h
  obtain ⟨hnet, hnames, hword, hlanes⟩ := follow_follows hp l f hfan'
  have hlane := (hlanes l).trans (by rw [hear_oport, heard_lane])
  obtain ⟨hfid, hport⟩ := hear_names s p l f viol withdrawn known moved
  rw [hear_oport, heard_word] at hword
  simp only [OPort.word, OLane.heard, Prod.mk.injEq] at hword hlane
  obtain ⟨⟨htx, hnext, hreach⟩, hfault, hready, hremove⟩ := hword
  obtain ⟨hmissing, hgood, hgoodAt⟩ := hlane
  dsimp only
  rw [h]
  exact ⟨hhear.trans hnet, htx, hnext, hreach, hfault, hready, hremove, hmissing, hgood, hgoodAt, (hnames 0 16 (by omega)).trans hfid,
    (hnames 16 5 (by omega)).trans hport⟩

/-! ### The commands of a lane of an UP port -/

/-- A flit of another port than the map names is noted of its lane (R292). -/
def State.noteForeign (s : State) (p l : Nat) : State :=
  (s.bump (rPort p 0x10) 32 16 1).modLaneOf p l fun x => { x with good := 0, wrong := true }

section
variable {s : State} {p l : Nat} {f : IdFlit} (hlive : s.portLive p = true) (hl : l < 8)
include hlive hl

theorem exec_identityFlitRx_eq (h3 : s.rf (rPort p 0) 61 3 = 3) : exec (.identityFlitRx p l f) s = .next (
    if f.crc ≠ f.check then s.idBad p l
    else if f.magic ≠ 0x4C414E45 ∨ f.lane ≠ l then
      ((s.bump (rPort p 0x10) 32 16 1).modLaneOf p l fun x => { x with good := 0, wrong := false }).removeLane p l
    else if !s.idExpected p f then
      if (List.range 8).all (fun j => ((((s.noteForeign p l).removeLane p l).oport p).lane j).wrong) then
        (((((s.noteForeign p l).removeLane p l).setRf (rPort p 0) 0 16 f.fabricId.toNat).setRf (rPort p 0) 16 5 f.port).portDown p 2).takePorts
          (p / 8)
      else (s.noteForeign p l).removeLane p l
    else s.idAccept p l f) := by
  have hs := inService_of_up h3
  show ret (s.idFlit p l f) = _
  unfold State.idFlit
  simp only [hlive, h3, hs, Nat.not_le.2 hl, Bool.not_true, Nat.reduceBEq, decide_false, Bool.or_false, Bool.false_eq_true, if_false,
    Bool.or_true, Bool.and_true]
  rfl

theorem exec_identityFlitMissing_eq : exec (.identityFlitMissing p l) s = .next (s.idMissing p l) := by
  show ret (if _ then _ else _) = _
  simp [hlive, hl, ret]

theorem exec_codewordRx_corrected {n : Nat} (hn : n ≤ 15) : exec (.codewordRx p l n false) s = .next (s.bump (rPort p 0x18) 0 64 n) := by
  show execCodewordRx p l n false s = _
  unfold execCodewordRx
  simp [hlive, hl, Nat.not_lt.2 hn, ret]

/-- An uncorrectable codeword is counted; the fourth of a window takes the lane out of service (R279). -/
theorem exec_codewordRx_lost (n : Nat) : exec (.codewordRx p l n true) s = .next (
    let t := (s.bump (rPort p 0x10) 48 16 1).modLaneOf p l fun x => { x with uncorr := x.uncorr + 1 }
    if 4 ≤ ((s.oport p).lane l).uncorr + 1 then t.removeLane p l else t) := by
  let t := (s.bump (rPort p 0x10) 48 16 1).modLaneOf p l fun x => { x with uncorr := x.uncorr + 1 }
  have hx : ((t.oport p).lane l).uncorr = ((s.oport p).lane l).uncorr + 1 := by
    rw [modLaneOf_oport, OPort.lane_modLane_self]
    rfl
  show execCodewordRx p l n true s = _
  unfold execCodewordRx
  simp only [hlive, hl, decide_true, Bool.and_self, if_true, Bool.true_or]
  rw [← hx]
  rfl

/-- The error ratio of a window is noted of a lane, and its count of uncorrectable codewords starts over (R279, R295). -/
def State.serNoted (s : State) (p l e n : Nat) : State :=
  (s.setRf (rPort p (0x40 + 8 * l)) 25 8 (serField e n)).modLaneOf p l fun x => { x with uncorr := 0 }

theorem exec_serWindow_bad {e n : Nat} (h : 24 * n < e * 100000) :
    exec (.serWindow p l e n) s = .next ((s.serNoted p l e n).removeLane p l) := by
  show execSerWindow p l e n s = _
  unfold execSerWindow
  simp only [hlive, hl, decide_true, Bool.and_self, if_true, h]
  rfl

theorem exec_serWindow_asks {e n : Nat} (h1 : n ≤ e * 100000) (h2 : e * 100000 ≤ 24 * n) (hasked : ((s.oport p).lane l).asked = false) :
    let k := 128 * (p / 8) + (64 + 8 * (p % 8) + l)
    exec (.serWindow p l e n) s = .next (({ s.serNoted p l e n with
      recalDue := if k ∈ s.recalDue then s.recalDue else k :: s.recalDue } : State).modPort p fun o =>
        ({ o with retune := setBit o.retune l true }).modLane l fun x => { x with asked := true }) := by
  have hask : (((s.setRf (rPort p (0x40 + 8 * l)) 25 8 (serField e n)).oport p).lane l).asked = false := hasked
  show execSerWindow p l e n s = _
  unfold execSerWindow
  simp only [hlive, hl, decide_true, Bool.and_self, if_true, Nat.not_lt.2 h2, if_false, h1, hask, Bool.false_eq_true, ← hasNat_iff]
  rfl

theorem exec_serWindow_waits {e n : Nat} (h1 : n ≤ e * 100000) (h2 : e * 100000 ≤ 24 * n) (hasked : ((s.oport p).lane l).asked = true) :
    exec (.serWindow p l e n) s = .next (s.serNoted p l e n) := by
  have hask : (((s.setRf (rPort p (0x40 + 8 * l)) 25 8 (serField e n)).oport p).lane l).asked = true := hasked
  show execSerWindow p l e n s = _
  unfold execSerWindow
  simp only [hlive, hl, decide_true, Bool.and_self, if_true, Nat.not_lt.2 h2, if_false, h1, hask]
  rfl

theorem exec_serWindow_good {e n : Nat} (h : e * 100000 < n) : exec (.serWindow p l e n) s = .next ((s.serNoted p l e n).modPort p fun o =>
    ({ o with retune := if ((s.oport p).lane l).asked then setBit o.retune l false else o.retune }).modLane l fun x =>
      { x with asked := false }) := by
  have h24 : ¬ 24 * n < e * 100000 := by omega
  show execSerWindow p l e n s = _
  unfold execSerWindow
  simp only [hlive, hl, decide_true, Bool.and_self, if_true, h24, if_false, Nat.not_le.2 h]
  rfl

/-- The steps of R280 that a timeout ends. -/
theorem exec_laneVerifyTimeout_next {a b : Nat} (hab : (a = 1 ∧ b = 2) ∨ (a = 2 ∧ b = 3) ∨ (a = 4 ∧ b = 5))
    (hx : ((s.oport p).lane l).stage = a) : exec (.laneVerifyTimeout p l) s = .next ((s.modPort p fun o =>
      ({ o with retune := if b = 2 then setBit o.retune l true else o.retune }).modLane l fun x =>
        { x with stage := b, good := 0 }).laneStats p) := by
  show execLaneVerifyTimeout p l s = _
  unfold execLaneVerifyTimeout
  simp only [hlive, hl, decide_true, Bool.and_self, if_true, hx]
  obtain ⟨rfl, rfl⟩ | ⟨rfl, rfl⟩ | ⟨rfl, rfl⟩ := hab <;> rfl

theorem exec_laneSweepDone_next (hx : ((s.oport p).lane l).stage = 3) : exec (.laneSweepDone p l) s
    = .next ((s.modLaneOf p l fun x => { x with stage := 4, good := 0 }).laneStats p) := by
  show execLaneSweepDone p l s = _
  unfold execLaneSweepDone
  simp only [hlive, hl, decide_true, Bool.and_self, if_true, hx, beq_self_eq_true]
  rfl

theorem exec_laneRetry_next (hx : ((s.oport p).lane l).stage = 5) : exec (.laneRetry p l) s
    = .next ((s.modLaneOf p l fun x => { x with stage := 1, good := 0 }).laneStats p) := by
  show execLaneRetry p l s = _
  unfold execLaneRetry
  simp only [hlive, hl, decide_true, Bool.and_self, if_true, hx, beq_self_eq_true]
  rfl

end

/-! ### Flits that are missing, broken or another's (R277, R279, R292) -/

theorem idMissing_counts {s : State} {p l : Nat} (h : ((s.oport p).lane l).missing < 2) :
    s.idMissing p l = (s.bump (rPort p 0x10) 32 16 1).modLaneOf p l fun x => { x with missing := x.missing + 1, good := 0 } := by
  refine if_neg ?_
  show ¬ 3 ≤ ((((s.bump (rPort p 0x10) 32 16 1).modLaneOf p l _).oport p).lane l).missing
  rw [modLaneOf_oport, OPort.lane_modLane_self]
  show ¬ 3 ≤ ((s.oport p).lane l).missing + 1
  omega

theorem idMissing_removes {s : State} {p l : Nat} (h : 2 ≤ ((s.oport p).lane l).missing) :
    s.idMissing p l = ((s.bump (rPort p 0x10) 32 16 1).modLaneOf p l fun x => { x with missing := x.missing + 1, good := 0 }).removeLane p l := by
  refine if_pos ?_
  show 3 ≤ ((((s.bump (rPort p 0x10) 32 16 1).modLaneOf p l _).oport p).lane l).missing
  rw [modLaneOf_oport, OPort.lane_modLane_self]
  show 3 ≤ ((s.oport p).lane l).missing + 1
  omega

theorem lately_iff {s : State} {t : Option W64} : s.lately t = true ↔ ∃ e, t = some e ∧ (s.time - e).toNat < 26214 := by
  unfold State.lately
  cases t <;> simp

/-- The lanes of a port whose flits name another partner, after one more has. -/
theorem all_wrong_iff {s : State} {p l : Nat} (hp : p < 32) (hl : l < 8) (hfan : Tab.get none (p / 8) s.fan = none) :
    (List.range 8).all (fun j => ((((s.noteForeign p l).removeLane p l).oport p).lane j).wrong) = true
      ↔ ∀ j, j < 8 → j ≠ l → ((s.oport p).lane j).wrong = true := by
  have hnoted : (s.noteForeign p l).oport p = (s.oport p).modLane l fun x => { x with good := 0, wrong := true } := modLaneOf_oport ..
  have hwrong := removeLane_wrong (s := s.noteForeign p l) hp hl hfan
  simp only [List.all_eq_true, List.mem_range, hwrong, hnoted]
  refine forall_congr' fun j => forall_congr' fun _ => ?_
  by_cases hj : j = l
  · subst hj
    simp [OPort.lane_modLane_self]
  · simp [OPort.lane_modLane_ne _ _ hj, hj]

theorem foreign_net {s : State} {p l : Nat} (hp : p < 32) (hl : l < 8) (hfan : Tab.get none (p / 8) s.fan = none) :
    PortOnly p s ((s.noteForeign p l).removeLane p l) := by
  have hnoted : PortOnly p s (s.noteForeign p l) :=
    ((NetR.refl s).bump _ 32 16 1 (port_reg p 0x10 (by omega))).trans (modLaneOf_net _ p l _)
  exact hnoted.trans (removeLane_net _ p l hp hl hfan)

/-- A port whose lanes all name another partner is miscabled: DOWN with cause 2, and names what it has heard (R292). -/
theorem miscabled {s u : State} {p : Nat} {f : IdFlit} (hp : p < 32) (hfan : Tab.get none (p / 8) s.fan = none) (hu : PortOnly p s u)
    (hq : p ∉ s.trainQ) :
    let t := (((u.setRf (rPort p 0) 0 16 f.fabricId.toNat).setRf (rPort p 0) 16 5 f.port).portDown p 2).takePorts (p / 8)
    ((∀ q ∈ s.trainQ, q / 8 ≠ p / 8) → PortOnly p s t) ∧ t.rf (rPort p 0) 61 3 = 1 ∧ t.rf (rPort p 0) 58 3 = 2
      ∧ t.rf (rPort p 0) 0 16 = f.fabricId.toNat ∧ t.rf (rPort p 0) 16 5 = f.port % 32 := by
  let w := (u.setRf (rPort p 0) 0 16 f.fabricId.toNat).setRf (rPort p 0) 16 5 f.port
  have h0 := port_reg p 0 (by omega)
  have hw : PortOnly p s w := (hu.setRf _ _ _ _ h0).setRf _ _ _ _ h0
  have hwfan : Tab.get none (p / 8) w.fan = none := by rw [hw.fan]; exact hfan
  have hdown := portDown_judged 2 hp hwfan
  have hnet := hw.trans hdown.net
  obtain ⟨hst, hcause⟩ := portDown_stat (c := 2) hp hwfan (by omega)
  have hreg := takePorts_port (t := w.portDown p 2) hp (by rw [hnet.trainQ]; exact hq)
  have hrf (lo len : Nat) := State.rf_of_reg hreg lo len
  refine ⟨fun halone => ?_, (hrf 61 3).trans hst, (hrf 58 3).trans hcause, ?_, ?_⟩
  · rw [takePorts_none _ _ (by rw [hnet.trainQ]; exact halone)]
    exact hnet
  · rw [hrf, hdown.stat 0 16 (by omega), State.rf_setRf_ne _ _ _ _ _ _ _ (by omega), State.rf_setRf _ _ _ _ _ (by omega)]
    exact Nat.mod_eq_of_lt f.fabricId.isLt
  · rw [hrf, hdown.stat 16 5 (by omega), State.rf_setRf _ _ _ _ _ (by omega)]
    rfl

/-! ### The boundary of an interval (R276, R278) -/

/-- The announced map takes effect. -/
def State.mapsDue (s : State) (p : Nat) : State :=
  match (s.oport p).announced with
  | some m => (s.setMaps p m (s.rxMap p)).modPort p fun o => { o with announced := none }
  | none => s

/-- The wanted map is announced. -/
def State.announce (s : State) (p : Nat) : State :=
  s.modPort p fun o => { o with announced := if s.wantMap p == s.txMap p then none else some (s.wantMap p), seq := o.seq + 1 }

theorem modPort_reg (s : State) (p : Nat) (g : OPort → OPort) (o : Nat) : (s.modPort p g).reg o = s.reg o := rfl

theorem mapsDue_none {s : State} {p : Nat} (h : (s.oport p).announced = none) : s.mapsDue p = s := by
  unfold State.mapsDue
  rw [h]

theorem mapsDue_some {s : State} {p : Nat} {m : BitVec 8} (h : (s.oport p).announced = some m) :
    s.mapsDue p = (s.setMaps p m (s.rxMap p)).modPort p fun o => { o with announced := none } := by
  unfold State.mapsDue
  rw [h]

theorem OPort.announced_none {o : OPort} (h : o.announced = none) : { o with announced := none } = o := by
  rw [← h]

theorem mapsDue_spec (s : State) {p : Nat} (hp : p < 32) : PortOnly p s (s.mapsDue p)
    ∧ (s.mapsDue p).txMap p = (s.oport p).announced.getD (s.txMap p) ∧ (s.mapsDue p).rxMap p = s.rxMap p
    ∧ (s.mapsDue p).rf (rPort p 0) 61 3 = s.rf (rPort p 0) 61 3 ∧ (s.mapsDue p).minLanes p = s.minLanes p
    ∧ (s.mapsDue p).oport p = { s.oport p with announced := none } := by
  cases ha : (s.oport p).announced with
  | none =>
    rw [mapsDue_none ha]
    exact ⟨NetR.refl s, rfl, rfl, rfl, rfl, (OPort.announced_none ha).symm⟩
  | some m =>
    obtain ⟨htx, hrx⟩ := setMaps_maps s p m (s.rxMap p)
    have hnet := setMaps_net (P := (· = p)) s p hp m (s.rxMap p)
    have hreg (o : Nat) : (s.mapsDue p).reg o = (s.setMaps p m (s.rxMap p)).reg o := by
      rw [mapsDue_some ha, modPort_reg]
    obtain ⟨hdtx, hdrx⟩ := maps_of_reg (hreg (rPort p 0))
    refine ⟨?_, hdtx.trans htx, hdrx.trans hrx, (State.rf_of_reg (hreg _) 61 3).trans (rf_setMaps s p m _ (.inr (by omega))),
      minLanes_of_reg ((hreg _).trans (setMaps_ctl s p m _)), ?_⟩
    · rw [mapsDue_some ha]
      exact hnet.modPort p _ rfl
    · rw [mapsDue_some ha, oport_modPort, setMaps_oport s hp]

theorem exec_identityBoundary_up {s : State} {p : Nat} (hlive : s.portLive p = true) (hfan : Tab.get none (p / 8) s.fan = none)
    (h3 : s.rf (rPort p 0) 61 3 = 3) :
    let t := ((s.mapsDue p).announce p).judgePort p
    exec (.identityBoundary p) s = .next (t.send (.identity p (t.idSend p))) := by
  have hp := portLive_lt hlive
  have hdue : PortOnly p s ((s.mapsDue p).announce p) := (mapsDue_spec s hp).1.modPort p _ rfl
  have hjudged := judgePort_judged hp (by rw [hdue.fan]; exact hfan)
  have hfan' : Tab.get none (p / 8) (((s.mapsDue p).announce p).judgePort p).fan = none := by
    rw [hjudged.net.fan, hdue.fan]
    exact hfan
  intro t
  show execIdentityBoundary p s = _
  unfold execIdentityBoundary
  simp only [hlive, h3, Nat.reduceBEq, Bool.or_true, Bool.true_and, if_true, laneFan_none _ _ hfan, ite_self]
  show ret (if (match Tab.get none (p / 8) t.fan with | some x => x.2 == p | none => false) = true then t
    else t.send (.identity p (t.idSend p))) = _
  rw [hfan']
  rfl

theorem crc_closed (f : IdFlit) : f.closed.crc = f.closed.check := by
  have himage : f.closed.image = f.image := by
    unfold IdFlit.closed IdFlit.image
    rfl
  show f.check = f.closed.check
  unfold IdFlit.check
  rw [himage]

/-- The flit of lane l at a boundary. -/
def State.boundaryFlit (s : State) (p l : Nat) : IdFlit :=
  let o := s.oport p
  let fan := match Tab.get none (p / 8) s.fan with | some x => if x.1 = p then some x.2 else none | none => none
  ({ magic := 0x4C414E45, fabricId := s.self, port := p, lane := l, reach := s.rbit (rPort p 0) 57, fanout := fan.isSome,
     fanPort := fan.getD 0, remoteFault := o.fault, txMap := s.txMap p, nextMap := o.announced.getD (s.txMap p),
     rxRemove := o.rxRemove, rxReady := o.rxReady, retuneReq := o.retune, seq := o.seq, fibre := s.rf (rPort p 0) 52 4,
     crc := 0 } : IdFlit).closed

theorem idSend_eq (s : State) (p : Nat) : s.idSend p = (List.range 8).map (s.boundaryFlit p) := by
  unfold State.idSend State.boundaryFlit
  rfl

theorem idSend_lane (s : State) (p : Nat) {j : Nat} (hj : j < 8) : ∃ g, (s.idSend p)[j]? = some g ∧ g.magic = 0x4C414E45
    ∧ g.fabricId = s.self ∧ g.port = p ∧ g.lane = j ∧ g.txMap = s.txMap p ∧ g.nextMap = ((s.oport p).announced.getD (s.txMap p))
    ∧ g.rxReady = (s.oport p).rxReady ∧ g.rxRemove = (s.oport p).rxRemove ∧ g.retuneReq = (s.oport p).retune
    ∧ g.remoteFault = (s.oport p).fault ∧ g.crc = g.check := by
  refine ⟨s.boundaryFlit p j, ?_, rfl, rfl, rfl, rfl, rfl, rfl, rfl, rfl, rfl, rfl, crc_closed _⟩
  rw [idSend_eq, List.getElem?_map, List.getElem?_range hj]
  rfl

/-- What an UP port wants to transmit on (R278, R284). -/
theorem wantMap_up {s : State} {p : Nat} (h3 : s.rf (rPort p 0) 61 3 = 3) : s.wantMap p
    = ((s.txMap p ||| (s.oport p).pReady) &&& ~~~ (s.oport p).pRemove &&& ~~~ (s.oport p).drop) &&& s.sources (p / 8) := by
  unfold State.wantMap
  rw [inService_of_up h3]
  rfl

theorem boundary_sends {s : State} {p : Nat} (hlive : s.portLive p = true) (hfan : Tab.get none (p / 8) s.fan = none)
    (h3 : s.rf (rPort p 0) 61 3 = 3) :
    let o := s.oport p
    let cur := o.announced.getD (s.txMap p)
    let want := ((cur ||| o.pReady) &&& ~~~ o.pRemove &&& ~~~ o.drop) &&& s.sources (p / 8)
    ∃ t fs, exec (.identityBoundary p) s = .next t ∧ PortOnly p s t ∧ t.out.getLast? = some (.identity p fs)
      ∧ (t.oport p).announced = (if want = cur then none else some want) ∧ (t.oport p).seq = o.seq + 1
      ∧ (s.minLanes p ≤ popcount cur → s.minLanes p ≤ popcount (s.rxMap p) → t.txMap p = cur ∧ t.portUp p = true)
      ∧ fs.length = 8 ∧ ∀ j, j < 8 → ∃ g, fs[j]? = some g ∧ g.magic = 0x4C414E45 ∧ g.fabricId = s.self ∧ g.port = p ∧ g.lane = j
        ∧ g.txMap = t.txMap p ∧ g.nextMap = ((t.oport p).announced.getD (t.txMap p)) ∧ g.rxReady = o.rxReady ∧ g.rxRemove = o.rxRemove
        ∧ g.retuneReq = o.retune ∧ g.remoteFault = o.fault ∧ g.crc = g.check := by
  have hp := portLive_lt hlive
  intro o cur want
  obtain ⟨hdue, htx, hrx, hst, hmin, hdport⟩ := mapsDue_spec s hp
  let w := (s.mapsDue p).announce p
  let t := w.judgePort p
  have hw : PortOnly p s w := hdue.modPort p _ rfl
  have hjudged : PortJudged p w t := judgePort_judged hp (by rw [hw.fan]; exact hfan)
  have hsrc : (s.mapsDue p).sources (p / 8) = s.sources (p / 8) := sources_of_net hdue (by unfold portReg fabReg rPort rOpt; omega)
  have hwant : (s.mapsDue p).wantMap p = want := by rw [wantMap_up (hst.trans h3), htx, hdport, hsrc]
  obtain ⟨b, hport⟩ := hjudged.port
  have hwport : w.oport p = { o with announced := if want = cur then none else some want, seq := o.seq + 1 } := by
    show ((s.mapsDue p).announce p).oport p = _
    unfold State.announce
    rw [oport_modPort, hdport, hwant, htx]
    simp only [beq_iff_eq]
    rfl
  rw [hwport] at hport
  have hself : t.self = s.self := by
    unfold State.self
    rw [(hw.trans hjudged.net).regs _ (by unfold eventReg rFab; omega) (by unfold portReg fabReg rFab rPort rOpt; omega)]
  refine ⟨t.send (.identity p (t.idSend p)), t.idSend p, exec_identityBoundary_up hlive hfan h3, (hw.trans hjudged.net).send _,
    List.getLast?_concat, congrArg OPort.announced hport, congrArg OPort.seq hport, fun hcur hin => ?_, by simp [State.idSend], fun j hj => ?_⟩
  · have hstay : t = w := judgePort_stays (hst.trans h3) (by show (s.mapsDue p).minLanes p ≤ popcount ((s.mapsDue p).txMap p); rw [hmin, htx]; exact hcur)
      (by show (s.mapsDue p).minLanes p ≤ popcount ((s.mapsDue p).rxMap p); rw [hmin, hrx]; exact hin)
    refine ⟨?_, ?_⟩
    · show t.txMap p = cur
      rw [hstay]
      exact htx
    · show (t.hasPort p && t.rf (rPort p 0) 61 3 == 3) = true
      rw [(hw.trans hjudged.net).hasPort, portLive_hasPort hlive, hstay]
      exact beq_iff_eq.2 (hst.trans h3)
  · obtain ⟨g, hg, hmagic, hfid, hgp, hgl, hgtx, hgnext, hgready, hgremove, hgretune, hgfault, hcrc⟩ := idSend_lane t p hj
    rw [hport] at hgready hgremove hgretune hgfault
    exact ⟨g, hg, hmagic, hfid.trans hself, hgp, hgl, hgtx, hgnext, hgready, hgremove, hgretune, hgfault, hcrc⟩

/-! ### O44 -/

/-- Settles O44: what condemns a lane is noted of it before `removeLane` takes it out of service; an accepted flit is heard, and what
follows keeps the partner's word (`Follows`); a boundary judges the port after its maps. -/
theorem opticalLanes : Obligations.OpticalLanes := by
  unfold Obligations.OpticalLanes
  intro p l f s hlive hfan hl h3
  have hp := portLive_lt hlive
  intro i r o x lane removes cur want lately
  have hflit := exec_identityFlitRx_eq (f := f) hlive hl h3
  have hmissing := exec_identityFlitMissing_eq hlive hl
  have hlost := exec_codewordRx_lost hlive hl
  have hcounted (lo : Nat) (g : OLane → OLane) (hbit : bit o.rxReady l = true) :
      LaneRemoved p l s (((s.bump (rPort p 0x10) lo 16 1).modLaneOf p l g).removeLane p l) :=
    removeLane_removes hp hl hfan ((NetR.refl s).bump _ _ _ _ (port_reg p 0x10 (by omega)))
      (State.reg_setRf_ne s (port_ne _ _ _ _ (by omega) (by omega) (by omega))) rfl g hbit
  refine ⟨boundary_sends hlive hfan h3, fun hcrc hmagic hlane hexp hown hret => ?_, fun hcrc => ⟨fun hl' => ?_, fun hl' => ?_⟩,
    fun hcrc hbit hwrong => ?_, fun hcrc hmagic hlane hexp hall hq => ?_, fun hm => ?_, fun hm hbit => ?_,
    fun n hn => exec_codewordRx_corrected hlive hl hn, fun n hu => ?_, fun n hu hbit => ?_, fun e n => ?_,
    fun a b hab hx => exec_laneVerifyTimeout_next hlive hl hab hx, fun hx => exec_laneSweepDone_next hlive hl hx,
    fun hx => exec_laneRetry_next hlive hl hx⟩
  · rw [if_neg (not_not.2 hcrc), if_neg (by simp [hmagic, hlane]), if_neg (by simp [hexp])] at hflit
    exact ⟨_, hflit, idAccept_takes l hp hfan hown hret⟩
  · rw [hflit, if_pos hcrc]
    exact congrArg Host.Outcome.next (if_pos (lately_iff.2 hl'))
  · rw [hflit, if_pos hcrc, exec_identityFlitMissing_eq (s := lane _ s) hlive hl]
    exact congrArg Host.Outcome.next (if_neg fun h => hl' (lately_iff.1 h))
  · rw [if_neg (not_not.2 hcrc)] at hflit
    by_cases hplace : f.magic ≠ 0x4C414E45 ∨ f.lane ≠ l
    · rw [if_pos hplace] at hflit
      exact ⟨_, hflit, hcounted 32 _ hbit⟩
    · obtain ⟨hexp, j, hj, hjl, hright⟩ := hwrong.resolve_left hplace
      have hsome := mt (all_wrong_iff hp hl hfan).1 fun h => absurd ((h j hj hjl).symm.trans hright) (by decide)
      rw [if_neg hplace, if_pos (by simp [hexp]), if_neg hsome] at hflit
      exact ⟨_, hflit, hcounted 32 _ hbit⟩
  · rw [if_neg (not_not.2 hcrc), if_neg (by simp [hmagic, hlane]), if_pos (by simp [hexp]), if_pos ((all_wrong_iff hp hl hfan).2 hall)] at hflit
    exact ⟨_, hflit, miscabled hp hfan (foreign_net hp hl hfan) hq⟩
  · rw [hmissing, idMissing_counts hm]
    rfl
  · exact ⟨_, hmissing.trans (congrArg Host.Outcome.next (idMissing_removes hm)), hcounted 32 _ hbit⟩
  · have hfew : ¬ 4 ≤ ((s.oport p).lane l).uncorr + 1 := Nat.not_le.2 (Nat.succ_lt_succ hu)
    exact (hlost n).trans (congrArg Host.Outcome.next (if_neg hfew))
  · have hmany : 4 ≤ ((s.oport p).lane l).uncorr + 1 := Nat.succ_le_succ hu
    exact ⟨_, (hlost n).trans (congrArg Host.Outcome.next (if_pos hmany)), hcounted 48 _ hbit⟩
  · refine ⟨fun h hbit => ⟨_, exec_serWindow_bad hlive hl h, ?_⟩, exec_serWindow_asks hlive hl, exec_serWindow_waits hlive hl,
      exec_serWindow_good hlive hl⟩
    exact removeLane_removes hp hl hfan ((NetR.refl s).setRf _ _ _ _ (port_reg p _ (by omega)))
      (State.reg_setRf_ne s (port_ne _ _ _ _ (by omega) (by omega) (by omega))) rfl _ hbit

end Sys2Proof.Machine
end

section
/-! Rings of an I/O die: heaters, calibrations that are due, and their results (O45). -/

namespace Sys2Proof.Machine

/-! ### Heaters (R282) -/

/-- The register and the place in it of a ring's heater code (R295). -/
def heaterReg (i k : Nat) : Nat := rOpt i (0x1040 + 0x100 * (k % 64 / 8) + 8 * (k % 8))
def heaterLo (k : Nat) : Nat := if k < 64 then 47 else 33

theorem hasIo_lt {s : State} {i : Nat} (h : s.hasIo i = true) : i < 4 := by
  unfold State.hasIo at h
  revert h
  cases s.grade <;> simp <;> omega

theorem heaterLo_eq (k : Nat) : heaterLo k = 47 ∧ k < 64 ∨ heaterLo k = 33 ∧ 64 ≤ k := by
  unfold heaterLo
  split <;> omega

theorem heaterReg_ne (i k : Nat) {o : Nat} (h : o < 0x1000) : rOpt i o ≠ heaterReg i k := by
  unfold heaterReg rOpt
  omega

theorem heaterReg_inj {i j k : Nat} (h : heaterReg i j = heaterReg i k) : j % 64 = k % 64 := by
  unfold heaterReg rOpt at h
  omega

/-- `t` is `s` but for registers and the index of free values. -/
def Heats (s t : State) : Prop := { t with regs := s.regs, freeIx := s.freeIx } = s

theorem Heats.refl (s : State) : Heats s s := rfl

theorem Heats.trans {s t u : State} (h : Heats s t) (k : Heats t u) : Heats s u := by
  unfold Heats at h k
  rw [← k] at h
  exact h

theorem Heats.get {s t : State} (h : Heats s t) {α : Type} (f : State → α)
    (hf : ∀ (z : State) a b, f { z with regs := a, freeIx := b } = f z) : f t = f s := by
  have := congrArg f h
  rw [hf] at this
  exact this

theorem setHeater_heats (t : State) (i k temp : Nat) : Heats t (t.setHeater i k temp) := rfl

theorem heaterAt_lt (s : State) (i k temp : Nat) (b : Bool) : s.heaterAt i k temp b < 2 ^ 14 := by
  have hmin (x : Int) : (if x < 0 then 0 else Nat.min x.toNat 16383) < 2 ^ 14 := by
    split
    · decide
    · exact Nat.lt_of_le_of_lt (Nat.min_le_right _ _) (by decide)
  unfold State.heaterAt
  dsimp only
  split
  · exact hmin _
  · split <;> exact hmin _

theorem Heats.heaterAt {s t : State} (h : Heats s t) (i k temp : Nat) (b : Bool) : t.heaterAt i k temp b = s.heaterAt i k temp b :=
  h.get (fun z => z.heaterAt i k temp b) fun _ _ _ => rfl

/-- A heater shows its ring's code. -/
def HeaterShows (s : State) (i k temp : Nat) (t : State) : Prop :=
  ∃ b, t.rf (heaterReg i k) (heaterLo k) 14 = s.heaterAt i k temp b

theorem setHeater_shows (t : State) (i k temp : Nat) : HeaterShows t i k temp (t.setHeater i k temp) := by
  have hlo : heaterLo k + 14 ≤ 64 := by
    have := heaterLo_eq k
    omega
  exact ⟨_, (State.rf_setRf _ _ _ _ _ hlo).trans (Nat.mod_eq_of_lt (heaterAt_lt ..))⟩

theorem setHeater_others (t : State) {i j k : Nat} (temp : Nat) (hj : j < 128) (hk : k < 128) (hne : j ≠ k) :
    (t.setHeater i k temp).rf (heaterReg i j) (heaterLo j) 14 = t.rf (heaterReg i j) (heaterLo j) 14 := by
  by_cases hr : heaterReg i j = heaterReg i k
  · have hmod := heaterReg_inj hr
    have hlj := heaterLo_eq j
    have hlk := heaterLo_eq k
    rw [hr]
    exact State.rf_setRf_ne _ _ _ _ _ _ _ (show heaterLo k + 14 ≤ heaterLo j ∨ heaterLo j + 14 ≤ heaterLo k by omega)
  · exact State.rf_of_reg (setHeater_reg t temp hr) _ 14

/-- Every ring of a die follows its table at a temperature. -/
def State.heatAll (s : State) (i temp : Nat) : State :=
  iter 128 (fun r t => t.setHeater i r temp) (s.setRf (rOpt i 0) 0 11 (Nat.min 2047 temp))

theorem heatAll_heats (s : State) (i temp : Nat) : Heats s (s.heatAll i temp) :=
  iter_inv (P := Heats s) (fun k _ t ht => ht.trans (setHeater_heats t i k temp)) rfl

theorem heatAll_shows (s : State) (i temp : Nat) {k : Nat} (hk : k < 128) : HeaterShows s i k temp (s.heatAll i temp) := by
  refine of_eq_true (iter_observe (P := Heats s) (HeaterShows s i k temp) (fun _ => True) hk (fun j _ t ht => ht.trans (setHeater_heats t i j temp))
    (fun t ht => ?_) (fun j hj hne t _ => ?_) rfl)
  · obtain ⟨b, hb⟩ := setHeater_shows t i k temp
    exact eq_true ⟨b, hb.trans (ht.heaterAt i k temp b)⟩
  · unfold HeaterShows
    rw [setHeater_others t temp hk hj hne.symm]

theorem heatAll_reg (s : State) {i temp o : Nat} (h0 : o ≠ rOpt i 0) (ho : ∀ k, k < 128 → o ≠ heaterReg i k) :
    (s.heatAll i temp).reg o = s.reg o :=
  iter_inv (P := fun t : State => t.reg o = s.reg o) (fun k hk t ht => (setHeater_reg t temp (ho k hk)).trans ht) (State.reg_setRf_ne s h0)

theorem heatAll_temp (s : State) (i temp : Nat) : (s.heatAll i temp).rf (rOpt i 0) 0 11 = Nat.min 2047 temp := by
  have hloop : (s.heatAll i temp).reg (rOpt i 0) = (s.setRf (rOpt i 0) 0 11 (Nat.min 2047 temp)).reg (rOpt i 0) :=
    iter_inv (P := fun t : State => t.reg (rOpt i 0) = _) (fun k _ t ht => (setHeater_reg t temp (heaterReg_ne i k (by omega))).trans ht) rfl
  rw [State.rf_of_reg hloop, State.rf_setRf _ _ _ _ _ (by omega)]
  exact Nat.mod_eq_of_lt (Nat.lt_of_le_of_lt (Nat.min_le_left _ _) (by omega))

/-! ### Calibrations that are due (R283) -/

/-- A calibration of ring k of the package is due, where `b` says so. -/
def State.markDue (s : State) (k : Nat) (b : Bool) : State :=
  if b && !hasNat s.recalDue k then { s with recalDue := k :: s.recalDue } else s

theorem markDue_frame (s : State) (k : Nat) (b : Bool) : { s.markDue k b with recalDue := s.recalDue } = s := by
  unfold State.markDue
  split <;> rfl

theorem mem_markDue (s : State) (k : Nat) (b : Bool) (n : Nat) :
    n ∈ (s.markDue k b).recalDue ↔ n ∈ s.recalDue ∨ (b = true ∧ n = k) := by
  unfold State.markDue
  by_cases hk : k ∈ s.recalDue
  · have hn : ¬ (b && !hasNat s.recalDue k) = true := by simp [hasNat_iff.2 hk]
    rw [if_neg hn]
    exact ⟨.inl, fun h => h.elim id fun h => h.2 ▸ hk⟩
  · have hf : hasNat s.recalDue k = false := by rw [← Bool.not_eq_true, hasNat_iff]; exact hk
    cases b <;> simp [hf, or_comm]

/-- The rings of a die that a condition names are due after the others that were. -/
theorem mem_markDue_iter {c : Nat → State → Bool} (hc : ∀ r (z : State) l, c r { z with recalDue := l } = c r z) (i : Nat) (s : State) (m : Nat) :
    let t := iter m (fun r t => t.markDue (128 * i + r) (c r t)) s
    { t with recalDue := s.recalDue } = s ∧ ∀ n, n ∈ t.recalDue ↔ n ∈ s.recalDue ∨ ∃ r, r < m ∧ c r s = true ∧ n = 128 * i + r := by
  induction m with
  | zero => exact ⟨rfl, fun n => by simp [iter]⟩
  | succ m ih =>
    obtain ⟨hframe, hmem⟩ := ih
    rw [iter_succ]
    generalize iter m (fun r t => t.markDue (128 * i + r) (c r t)) s = z at hframe hmem ⊢
    have hcm : c m z = c m s := by
      have := hc m z s.recalDue
      rw [hframe] at this
      exact this.symm
    dsimp only
    refine ⟨?_, fun n => ?_⟩
    · have := congrArg (fun y : State => { y with recalDue := s.recalDue }) (markDue_frame z (128 * i + m) (c m z))
      exact this.trans hframe
    · rw [mem_markDue, hmem, hcm, or_assoc]
      refine or_congr Iff.rfl ⟨?_, ?_⟩
      · rintro (⟨r, hr, hcr, rfl⟩ | ⟨hcr, rfl⟩)
        · exact ⟨r, by omega, hcr, rfl⟩
        · exact ⟨m, by omega, hcr, rfl⟩
      · rintro ⟨r, hr, hcr, rfl⟩
        rcases Nat.lt_succ_iff_lt_or_eq.1 hr with hr | rfl
        · exact .inl ⟨r, hr, hcr, rfl⟩
        · exact .inr ⟨hcr, rfl⟩

/-- Ring r of die i is due: its period has passed, or it has moved too far since its last calibration. -/
def State.ringDue (i temp dt : Nat) (elapsed : List Nat) (r : Nat) (s : State) : Bool :=
  let last := Tab.get 0 (128 * i + r) s.heatTemp
  hasNat elapsed r || (dt != 0 && 4 * dt < (temp - last) + (last - temp))

theorem ringDue_iff {i temp dt r : Nat} {elapsed : List Nat} {s : State} : State.ringDue i temp dt elapsed r s = true
    ↔ r ∈ elapsed ∨ (dt ≠ 0 ∧ 4 * dt < (temp - Tab.get 0 (128 * i + r) s.heatTemp) + (Tab.get 0 (128 * i + r) s.heatTemp - temp)) := by
  unfold State.ringDue
  dsimp only
  rw [Bool.or_eq_true, hasNat_iff]
  simp

def State.dueAll (s : State) (i temp dt : Nat) (elapsed : List Nat) : State :=
  iter 128 (fun r t => t.markDue (128 * i + r) (t.ringDue i temp dt elapsed r)) s

theorem dueAll_spec (s : State) (i temp dt : Nat) (elapsed : List Nat) : { s.dueAll i temp dt elapsed with recalDue := s.recalDue } = s
    ∧ ∀ n, n ∈ (s.dueAll i temp dt elapsed).recalDue ↔ n ∈ s.recalDue ∨ (128 * i ≤ n ∧ n < 128 * i + 128 ∧ (n - 128 * i ∈ elapsed
      ∨ (dt ≠ 0 ∧ 4 * dt < (temp - Tab.get 0 n s.heatTemp) + (Tab.get 0 n s.heatTemp - temp)))) := by
  obtain ⟨hframe, hmem⟩ := mem_markDue_iter (c := State.ringDue i temp dt elapsed) (fun _ _ _ => rfl) i s 128
  refine ⟨hframe, fun n => (hmem n).trans (or_congr Iff.rfl ⟨?_, ?_⟩)⟩
  · rintro ⟨r, hr, hdue, rfl⟩
    rw [Nat.add_sub_cancel_left]
    exact ⟨by omega, by omega, ringDue_iff.1 hdue⟩
  · rintro ⟨hlo, hhi, hdue⟩
    refine ⟨n - 128 * i, by omega, ringDue_iff.2 ?_, by omega⟩
    rw [Nat.add_sub_cancel' hlo]
    exact hdue

theorem exec_heaterUpdate_lit {s : State} {i : Nat} (hio : s.hasIo i = true) (h0 : s.rf (rOpt i 0) 29 3 ≠ 0) (h4 : s.rf (rOpt i 0) 29 3 ≠ 4)
    (elapsed : List Nat) : exec (.heaterUpdate i elapsed) s = .next ((s.heatAll i (s.photonic i)).dueAll i (s.photonic i)
      (s.rf (rOpt i 0x20) 8 8) elapsed) := by
  have hn0 : (s.rf (rOpt i 0) 29 3 != 0) = true := by simpa using h0
  have hn4 : (s.rf (rOpt i 0) 29 3 != 4) = true := by simpa using h4
  show execHeaterUpdate i elapsed s = _
  unfold execHeaterUpdate
  rw [hio, hn0, hn4, Bool.and_self, Bool.and_self, if_pos rfl]
  rfl

/-- Every heater follows its table, and the rings that have moved too far are due with those whose period has passed. -/
theorem heaterUpdate_spec {s : State} {i : Nat} (hio : s.hasIo i = true) (h0 : s.rf (rOpt i 0) 29 3 ≠ 0) (h4 : s.rf (rOpt i 0) 29 3 ≠ 4)
    (elapsed : List Nat) : let temp := s.photonic i
    let dt := s.rf (rOpt i 0x20) 8 8
    ∃ t, exec (.heaterUpdate i elapsed) s = .next t
      ∧ { t with regs := s.regs, freeIx := s.freeIx, recalDue := s.recalDue } = s ∧ t.rf (rOpt i 0) 0 11 = Nat.min 2047 temp
      ∧ (∀ o, o ≠ rOpt i 0 → (∀ k, k < 128 → o ≠ heaterReg i k) → t.reg o = s.reg o) ∧ (∀ k, k < 128 → HeaterShows s i k temp t)
      ∧ ∀ n, n ∈ t.recalDue ↔ (n ∈ s.recalDue ∨ (128 * i ≤ n ∧ n < 128 * i + 128 ∧ (n - 128 * i ∈ elapsed
        ∨ (dt ≠ 0 ∧ 4 * dt < (temp - Tab.get 0 n s.heatTemp) + (Tab.get 0 n s.heatTemp - temp))))) := by
  intro temp dt
  have hheats := heatAll_heats s i temp
  have htemp := heatAll_temp s i temp
  have hregs (o : Nat) := heatAll_reg (temp := temp) (o := o) s (i := i)
  have hshows (k : Nat) (hk : k < 128) := heatAll_shows s i temp hk
  refine ⟨(s.heatAll i temp).dueAll i temp dt elapsed, exec_heaterUpdate_lit hio h0 h4 elapsed, ?_⟩
  generalize s.heatAll i temp = u at hheats htemp hregs hshows ⊢
  obtain ⟨hframe, hmem⟩ := dueAll_spec u i temp dt elapsed
  generalize u.dueAll i temp dt elapsed = t at hframe hmem ⊢
  have hreg (o : Nat) : t.reg o = u.reg o := by
    have := congrArg (fun z : State => z.reg o) hframe
    exact this
  refine ⟨?_, (State.rf_of_reg (hreg _) 0 11).trans htemp, fun o h0 ho => (hreg o).trans (hregs o h0 ho), fun k hk => ?_, fun n => ?_⟩
  · have hdue := congrArg (fun z : State => { z with recalDue := s.recalDue }) hheats
    exact (congrArg (fun z : State => { z with regs := s.regs, freeIx := s.freeIx, recalDue := s.recalDue }) hframe).trans hdue
  · obtain ⟨b, hb⟩ := hshows k hk
    exact ⟨b, (State.rf_of_reg (hreg _) _ 14).trans hb⟩
  · rw [hmem n, hheats.get State.heatTemp fun _ _ _ => rfl, hheats.get State.recalDue fun _ _ _ => rfl]

end Sys2Proof.Machine
end

section
/-! Calibrations, lasers, fan-outs and the meshes of an I/O die, and O45. -/

namespace Sys2Proof.Machine

/-! ### Calibrations (R283) -/

theorem exec_ringRecalStart_due {s : State} {i k : Nat} (hio : s.hasIo i = true) (hk : k < 128)
    (hfree : k < 64 ∨ ((s.oport (8 * i + k % 64 / 8)).lane (k % 8)).stage = 0 ∨ ((s.oport (8 * i + k % 64 / 8)).lane (k % 8)).stage = 5)
    (hnew : 128 * i + k ∉ s.recalling) (hroom : (s.recalling.filter fun n => n / 128 == i).length < 8) : exec (.ringRecalStart i k) s
      = .next { s with recalling := (128 * i + k) :: s.recalling, recalDue := s.recalDue.filter (· != 128 * i + k) } := by
  have hidle : hasNat s.recalling (128 * i + k) = false := by rw [← Bool.not_eq_true, hasNat_iff]; exact hnew
  have hring : (decide (k < 64) || ((s.oport (8 * i + k % 64 / 8)).lane (k % 8)).stage == 0
      || ((s.oport (8 * i + k % 64 / 8)).lane (k % 8)).stage == 5) = true := by simpa [or_assoc] using hfree
  show execRingRecalStart i k s = _
  unfold execRingRecalStart
  simp only [hio, hk, hidle, hroom, hring, decide_true, Bool.not_false, Bool.and_self, if_true]
  rfl

/-- A table entry moves by at most 8 codes. -/
def limit8 (d : Int) : Int := if d < -8 then -8 else if 8 < d then 8 else d

/-- The code in a ring's table entry, as corrected so far (R282, R283). -/
def State.tableCode (s : State) (k n : Nat) : Int := (Config.heater k n).toNat + Tab.get 0 (k * 128 + n) s.heatMove

/-- Ring k of the package has been calibrated at a temperature: entry n moves toward the optimum (R283). -/
def State.corrected (s : State) (k n temp : Nat) (d : Int) : State :=
  { s with heatMove := Tab.upd 0 (k * 128 + n) (· + limit8 d) s.heatMove, recalling := s.recalling.filter (· != k),
           heatTemp := Tab.put 0 k temp s.heatTemp, recalDue := if limit8 d = d then s.recalDue else k :: s.recalDue }

theorem limit8_spec (d : Int) : (d < -8 → limit8 d = -8 ∧ limit8 d ≠ d) ∧ (8 < d → limit8 d = 8 ∧ limit8 d ≠ d)
    ∧ (-8 ≤ d → d ≤ 8 → limit8 d = d) := by
  unfold limit8
  refine ⟨fun h => ?_, fun h => ?_, fun h1 h2 => ?_⟩
  · rw [if_pos h]
    omega
  · rw [if_neg (by omega), if_pos h]
    omega
  · rw [if_neg (by omega), if_neg (by omega)]

theorem exec_ringRecalDone_running {s : State} {i k best : Nat} (hk : 128 * i + k ∈ s.recalling) (hbest : best < 16384) :
    let temp := s.photonic i
    let n := Nat.min 90 (temp / 8 - 20)
    exec (.ringRecalDone i k best) s = .next ((s.corrected (128 * i + k) n temp (best - s.tableCode (128 * i + k) n)).setHeater i k temp) := by
  intro temp n
  have hmod : best % 16384 = best := Nat.mod_eq_of_lt hbest
  show execRingRecalDone i k best s = _
  unfold execRingRecalDone
  rw [if_pos (hasNat_iff.2 hk), hmod]
  rfl

/-- A calibration corrects one entry of the table, and shows the ring's code by it. -/
theorem ringRecalDone_spec {s : State} {i k best : Nat} (hk : 128 * i + k ∈ s.recalling) (hbest : best < 16384) :
    let temp := s.photonic i
    let n := Nat.min 90 (temp / 8 - 20)
    let cur := s.tableCode (128 * i + k) n
    ∃ t, exec (.ringRecalDone i k best) s = .next t
      ∧ { t with regs := s.regs, freeIx := s.freeIx, heatMove := s.heatMove, recalling := s.recalling, heatTemp := s.heatTemp,
                 recalDue := s.recalDue } = s
      ∧ 128 * i + k ∉ t.recalling ∧ Tab.get 0 (128 * i + k) t.heatTemp = temp
      ∧ (∀ o, o ≠ heaterReg i k → t.reg o = s.reg o)
      ∧ (∃ b, t.rf (heaterReg i k) (heaterLo k) 14 = t.heaterAt i k temp b)
      ∧ (let d := Tab.get 0 ((128 * i + k) * 128 + n) t.heatMove - Tab.get 0 ((128 * i + k) * 128 + n) s.heatMove
         ((best : Int) - cur < -8 → d = -8 ∧ 128 * i + k ∈ t.recalDue) ∧ (8 < (best : Int) - cur → d = 8 ∧ 128 * i + k ∈ t.recalDue)
         ∧ (-8 ≤ (best : Int) - cur → (best : Int) - cur ≤ 8 → d = best - cur ∧ t.recalDue = s.recalDue))
      ∧ ∀ j, j ≠ (128 * i + k) * 128 + n → Tab.get 0 j t.heatMove = Tab.get 0 j s.heatMove := by
  intro temp n cur
  let u := s.corrected (128 * i + k) n temp (best - cur)
  obtain ⟨hlow, hhigh, hin⟩ := limit8_spec (best - cur)
  have hmove : Tab.get 0 ((128 * i + k) * 128 + n) u.heatMove - Tab.get 0 ((128 * i + k) * 128 + n) s.heatMove = limit8 (best - cur) := by
    show Tab.get 0 _ (Tab.put 0 _ _ s.heatMove) - _ = _
    rw [Tab.get_put_self]
    exact add_sub_cancel_left _ _
  have hdue (h : limit8 (best - cur) ≠ best - cur) : 128 * i + k ∈ u.recalDue := by
    show _ ∈ (if _ then _ else _)
    rw [if_neg h]
    exact List.mem_cons_self ..
  refine ⟨u.setHeater i k temp, exec_ringRecalDone_running hk hbest, rfl, ?_, Tab.get_put_self .., fun o ho => setHeater_reg u temp ho,
    setHeater_shows u i k temp, ⟨fun h => ⟨hmove.trans (hlow h).1, hdue (hlow h).2⟩, fun h => ⟨hmove.trans (hhigh h).1, hdue (hhigh h).2⟩,
      fun h1 h2 => ⟨hmove.trans (hin h1 h2), if_pos (hin h1 h2)⟩⟩, fun j hj => Tab.get_put_ne _ _ _ hj⟩
  show _ ∉ s.recalling.filter (· != 128 * i + k)
  simp

/-! ### Lasers (R284, R285) -/

/-- A lane leaves the transmit maps of a die's ports. -/
def State.dropLane (s : State) (i l : Nat) : State :=
  iter 8 (fun q t => t.modPort (8 * i + q) fun o => { o with drop := setBit o.drop l true }) s

/-- The ports of a die show that a lane has changed. -/
def State.lanePulses (s : State) (i : Nat) : State :=
  iter 8 (fun q t => (t.pulse (642 + 4 * (8 * i + q))).laneStats (8 * i + q)) s

/-- A fixed laser has failed: its lane leaves the maps. -/
def State.laserLost (s : State) (i laser : Nat) : State :=
  (((s.bump (rOpt i 0x28) 0 16 1).journalOpen 0x41 0 5 i).setRbit (rOpt i 0) (21 + laser) true).dropLane i laser

/-- The first spare takes over a channel, whose modulator rings are due. -/
def State.spareTaken (s : State) (i ch : Nat) : State :=
  let t := (((s.setRbit (rOpt i 8) 26 true).setRf (rOpt i 8) 23 3 ch).bump (rOpt i 0x28) 16 16 1).journalOpen 0x41 0 5 i
  { t with recalDue := ((List.range 8).map fun q => 128 * i + 8 * q + ch).filter (fun k => !hasNat t.recalDue k) ++ t.recalDue }

theorem dropLane_net (s : State) (i l : Nat) : Net s (s.dropLane i l) :=
  NetR.iter _ 8 (fun _ t _ => (NetR.refl t).modPort _ _ trivial) s (NetR.refl s)

theorem dropLane_reg (s : State) (i l o : Nat) : (s.dropLane i l).reg o = s.reg o :=
  iter_inv (P := fun t : State => t.reg o = s.reg o) (fun _ _ t ht => (modPort_reg t _ _ o).trans ht) rfl

theorem dropLane_drop (s : State) {i l q : Nat} (hl : l < 8) (hq : q < 8) : bit ((s.dropLane i l).oport (8 * i + q)).drop l = true := by
  have h : ((s.dropLane i l).oport (8 * i + q)).drop = setBit (s.oport (8 * i + q)).drop l true := by
    refine iter_observe (P := fun _ => True) (fun t : State => (t.oport (8 * i + q)).drop) (fun d => setBit d l true) hq (fun _ _ _ _ => trivial)
      (fun t _ => ?_) (fun j _ hne t _ => ?_) trivial
    · rw [oport_modPort]
    · exact congrArg OPort.drop (Tab.get_put_ne _ _ _ (by omega))
  rw [h]
  exact bit_setBit _ l true hl

theorem lanePulses_net {P : Nat → Prop} (s : State) {i : Nat} (hi : i < 4) : NetR netReg P s (s.lanePulses i) := by
  refine NetR.iter _ 8 (fun q t hq => ?_) s (NetR.refl s)
  refine ((NetR.refl t).pulse (642 + 4 * (8 * i + q))).trans ?_
  exact (laneStats_net (P := P) _ (8 * i + q) (by omega)).mono (fun _ => portReg_net (by omega)) fun _ h => h

theorem lanePulses_reg (s : State) {i o : Nat} (ho : o < 0x1000) : (s.lanePulses i).reg (rOpt i o) = s.reg (rOpt i o) := by
  refine iter_inv (P := fun t : State => t.reg (rOpt i o) = s.reg (rOpt i o)) (fun q _ t ht => ?_) rfl
  rw [laneStats_reg _ _ _ fun l _ => by unfold rPort rOpt; omega, State.pulse_reg _ _ _ (by unfold eventReg rOpt; omega)]
  exact ht

theorem lanePulses_oport (s : State) {i : Nat} (hi : i < 4) (p : Nat) : (s.lanePulses i).oport p = s.oport p :=
  (lanePulses_net (P := fun _ => False) s hi).lanes p fun h => h

theorem laneStats_recalDue (s : State) (p : Nat) : (s.laneStats p).recalDue = s.recalDue := by
  refine iter_inv (P := fun t : State => t.recalDue = s.recalDue) (fun _ _ t ht => ?_) rfl
  exact ht

theorem lanePulses_recalDue (s : State) (i : Nat) : (s.lanePulses i).recalDue = s.recalDue := by
  refine iter_inv (P := fun t : State => t.recalDue = s.recalDue) (fun q _ t ht => ?_) rfl
  rw [laneStats_recalDue, ((Shows.refl t []).pulse _).get State.recalDue fun _ _ _ => rfl, ht]

theorem laserLost_net (s : State) {i : Nat} (hi : i < 4) (laser : Nat) : Net s (s.laserLost i laser) :=
  ((((NetR.refl s).bump _ _ _ _ (opt_net i _ hi (by omega))).open' _ _ _ _).setRbit _ _ _ (opt_net i _ hi (by omega))).trans (dropLane_net _ i laser)

theorem spareTaken_net (s : State) {i : Nat} (hi : i < 4) (ch : Nat) : Net s (s.spareTaken i ch) :=
  (((((NetR.refl s).setRbit _ 26 true (opt_net i 8 hi (by omega))).setRf _ 23 3 ch (opt_net i 8 hi (by omega))).bump _ 16 16 1
    (opt_net i 0x28 hi (by omega))).open' 0x41 0 5 i).trans (due_net _ _)

/-- A laser fails whose channel the first spare serves. -/
theorem exec_laserFail_spared {s : State} {i laser : Nat} (hio : s.hasIo i = true) (hl : laser < 8) (hserve : s.rbit (rOpt i 0) (21 + laser) = false)
    (hfan : Tab.get none i s.fan = none) (hused : s.rbit (rOpt i 8) 26 = false) (hfailed : s.rbit (rOpt i 8) 22 = false) :
    exec (.laserFail i laser [true]) s = .next (((s.laserLost i laser).spareTaken i laser).lanePulses i) := by
  have hi := hasIo_lt hio
  have hlost := laserLost_net s hi laser
  have hreg : (s.laserLost i laser).reg (rOpt i 8) = s.reg (rOpt i 8) := by
    unfold State.laserLost
    rw [dropLane_reg, State.reg_setRbit_ne _ (by unfold rOpt; omega), journal_reg]
    exact State.reg_setRf_ne s (by unfold rOpt; omega)
  have hspare : (s.laserLost i laser).takeSpare i laser [0, 1] [true] = ((((((s.laserLost i laser).setRbit (rOpt i 8) 26 true).setRf (rOpt i 8) 23 3
      laser).bump (rOpt i 0x28) 16 16 1).journalOpen 0x41 0 5 i), true) := by
    have hbits : ((s.laserLost i laser).rbit (rOpt i 8) 26 || (s.laserLost i laser).rbit (rOpt i 8) 22) = false := by
      unfold State.rbit at hused hfailed ⊢
      rw [hreg, hused, hfailed]
      rfl
    exact (if_neg (by rw [← Bool.not_eq_true] at hbits; exact hbits)).trans (if_pos rfl)
  let z := ((s.bump (rOpt i 0x28) 0 16 1).journalOpen 0x41 0 5 i).setRbit (rOpt i 0) (21 + laser) true
  have hz : Net s z := ((((NetR.refl s).bump _ _ _ _ (opt_net i _ hi (by omega))).open' _ _ _ _).setRbit _ _ _ (opt_net i _ hi (by omega)))
  have hend : (z.endFan i).dropLane i laser = s.laserLost i laser := by
    unfold State.endFan
    rw [hz.fan, hfan]
    rfl
  show execLaserFail i laser [true] s = _
  unfold execLaserFail
  simp only [hl, if_true, hio, hserve, Bool.not_false, Bool.and_self, Nat.lt_of_lt_of_le hl (show 8 ≤ 10 by omega), decide_true]
  show ret (State.lanePulses (let x := ((z.endFan i).dropLane i laser).takeSpare i laser [0, 1] [true]
    if x.2 then
      { x.1 with recalDue := ((List.range 8).map fun q => 128 * i + 8 * q + laser).filter (fun k => !hasNat x.1.recalDue k) ++ x.1.recalDue }
    else x.1.setRbit (rOpt i 0) (13 + laser) true) i) = _
  rw [hend, hspare]
  rfl

theorem mem_spareTaken (s : State) {i ch q : Nat} (hq : q < 8) : 128 * i + 8 * q + ch ∈ (s.spareTaken i ch).recalDue := by
  unfold State.spareTaken
  dsimp only
  generalize State.recalDue _ = due
  by_cases hd : 128 * i + 8 * q + ch ∈ due
  · exact List.mem_append_right _ hd
  · refine List.mem_append_left _ (List.mem_filter.2 ⟨List.mem_map.2 ⟨q, List.mem_range.2 hq, rfl⟩, ?_⟩)
    rw [Bool.not_eq_true', ← Bool.not_eq_true, hasNat_iff]
    exact hd

theorem spareTaken_reg (s : State) (i ch : Nat) : (s.spareTaken i ch).reg (rOpt i 8) = setFld (setBit (s.reg (rOpt i 8)) 26 true) 23 3 ch
    ∧ (s.spareTaken i ch).reg (rOpt i 0) = s.reg (rOpt i 0) := by
  have hreg (o : Nat) (h28 : o ≠ rOpt i 0x28) :
      (s.spareTaken i ch).reg o = ((s.setRbit (rOpt i 8) 26 true).setRf (rOpt i 8) 23 3 ch).reg o :=
    (journal_reg _ _ _ _ _ o).trans (State.reg_setRf_ne _ h28)
  refine ⟨?_, ?_⟩
  · rw [hreg _ (by unfold rOpt; omega), State.reg_setRf_self, State.reg_setRbit_self]
  · rw [hreg _ (by unfold rOpt; omega), State.reg_setRf_ne _ (by unfold rOpt; omega), State.reg_setRbit_ne _ (by unfold rOpt; omega)]

theorem spareTaken_oport (s : State) (i ch p : Nat) : (s.spareTaken i ch).oport p = s.oport p := by
  have hjournal (t : State) : (t.journalOpen 0x41 0 5 i).oport p = t.oport p := ((NetR.refl (Q := netReg) (P := fun _ => False) t).open' _ _ _ _).lanes p id
  exact hjournal _

/-- A spare takes the place of a fixed laser: its lane leaves every transmit map, and its modulator rings are due. -/
theorem laserFail_spec {s : State} {i laser : Nat} (hio : s.hasIo i = true) (hl : laser < 8) :
    let t := ((s.laserLost i laser).spareTaken i laser).lanePulses i
    Net s t ∧ t.rbit (rOpt i 0) (21 + laser) = true ∧ t.rbit (rOpt i 8) 26 = true ∧ t.rf (rOpt i 8) 23 3 = laser
      ∧ ∀ q, q < 8 → bit (t.oport (8 * i + q)).drop laser = true ∧ 128 * i + 8 * q + laser ∈ t.recalDue := by
  have hi := hasIo_lt hio
  intro t
  obtain ⟨h8, h0⟩ := spareTaken_reg (s.laserLost i laser) i laser
  have hmap : t.reg (rOpt i 8) = _ := (lanePulses_reg _ (by omega)).trans h8
  have hstat : t.reg (rOpt i 0) = setBit (s.reg (rOpt i 0)) (21 + laser) true := by
    refine ((lanePulses_reg _ (by omega)).trans h0).trans ?_
    unfold State.laserLost
    rw [dropLane_reg, State.reg_setRbit_self, journal_reg]
    exact congrArg (setBit · (21 + laser) true) (State.reg_setRf_ne s (by unfold rOpt; omega))
  refine ⟨((laserLost_net s hi laser).trans (spareTaken_net _ hi laser)).trans (lanePulses_net _ hi), ?_, ?_, ?_, fun q hq => ⟨?_, ?_⟩⟩
  · unfold State.rbit
    rw [hstat, bit_setBit _ _ _ (by omega)]
  · unfold State.rbit
    rw [hmap, bit_setFld_ne _ _ _ _ _ (by omega), bit_setBit _ _ _ (by omega)]
  · unfold State.rf
    rw [hmap, fld_setFld _ _ _ _ (by omega)]
    exact Nat.mod_eq_of_lt hl
  · rw [lanePulses_oport _ hi, spareTaken_oport]
    exact dropLane_drop _ hl hq
  · rw [lanePulses_recalDue]
    exact mem_spareTaken _ hq

/-! ### Fan-outs (R287, R289) -/

/-- What R289 asks of one port of a pair. -/
def FanReady (s : State) (p : Nat) : Prop :=
  s.portUp p = true ∧ s.rbit (rPort p 0) 57 = true ∧ (s.oport p).pReach = true ∧ s.txMap p = 0xFF
    ∧ ∀ e, (s.oport p).fanEnd = some e → 100000 ≤ (s.time - e).toNat

theorem fanReady_iff {s : State} {p : Nat} : s.fanReady p = true ↔ FanReady s p := by
  unfold State.fanReady FanReady
  simp only [Bool.and_eq_true, beq_iff_eq, and_assoc]
  refine and_congr_right fun _ => and_congr_right fun _ => and_congr_right fun _ => and_congr_right fun _ => ?_
  cases (s.oport p).fanEnd <;> simp

theorem exec_fanoutRequest_applied {s : State} {i p q g : Nat} (hio : s.hasIo i = true) (hp : p / 8 = i) (hq : q / 8 = i) (hpq : p ≠ q)
    (hfan : Tab.get none i s.fan = none) (hrp : FanReady s p) (hrq : FanReady s q) (hg : g < 16) (hwant : s.fanWanted g i p q = true) :
    exec (.fanoutRequest g i p q) s = .next
      ((((({ s with fan := Tab.put none i (some (p, q)) s.fan, meshWait := p :: q :: s.meshWait }).setRbit (rPort p 0) 56 true).setRbit
        (rPort q 0) 56 true).setRf (rOpt i 0x10) (5 * s.rf (rPort q 0) 52 4) 4 (p % 8)).bump (rCol (0x100 * g + 0x28)) 0 16 1) := by
  show execFanoutRequest g i p q s = _
  unfold execFanoutRequest State.fanOut
  simp [hio, hp, hq, hpq, hfan, fanReady_iff.2 hrp, fanReady_iff.2 hrq, hg, hwant, ret]

theorem exec_fanoutRequest_ignored {s : State} {i p q g : Nat}
    (h : ¬ (g < 16 ∧ s.fanWanted g i p q = true ∧ Tab.get none i s.fan = none ∧ FanReady s p ∧ FanReady s q)) :
    exec (.fanoutRequest g i p q) s = .next s := by
  show execFanoutRequest g i p q s = _
  unfold execFanoutRequest
  by_cases hwant : (decide (g < 16) && s.fanWanted g i p q) = true
  · have hnot : ¬ (s.hasIo i && p / 8 == i && q / 8 == i && p != q && (Tab.get none i s.fan).isNone && s.fanReady p && s.fanReady q) = true := by
      simp only [Bool.and_eq_true, decide_eq_true_eq, Option.isNone_iff_eq_none, fanReady_iff] at hwant ⊢
      exact fun hall => h ⟨hwant.1, hwant.2, hall.1.1.2, hall.1.2, hall.2⟩
    have hout : s.fanOut i p q = (s, false) := if_neg hnot
    rw [if_pos hwant, hout]
    rfl
  · rw [if_neg hwant]
    rfl

/-- Both ports of a pair take their own inputs again: neither is in a fan-out, and the mesh leads output `out` to port `q`. -/
def State.ownInputs (s : State) (i p q out : Nat) : State :=
  ((s.setRbit (rPort p 0) 56 false).setRbit (rPort q 0) 56 false).setRf (rOpt i 0x10) (5 * out) 4 (q % 8)

/-- The moment a port's fan-out ended. -/
def OPort.fanOver (e : BitVec 64) (o : OPort) : OPort := { o with fanEnd := some e }

/-- Both ports of a pair keep the moment of their fan-out's end. -/
def State.fanOver (s : State) (p q : Nat) (e : BitVec 64) : State := (s.modPort p (OPort.fanOver e)).modPort q (OPort.fanOver e)

theorem endFan_eq {s : State} {i p q : Nat} (hfan : Tab.get none i s.fan = some (p, q)) : s.endFan i =
    (({ s with fan := Tab.put none i none s.fan, meshWait := p :: q :: s.meshWait } : State).ownInputs i p q
      (s.rf (rPort q 0) 52 4)).fanOver p q s.time := by
  unfold State.endFan
  rw [hfan]
  rfl

theorem ownInputs_reg_ne (s : State) {i p q o : Nat} (out : Nat) (hp : o ≠ rPort p 0) (hq : o ≠ rPort q 0) (hi : o ≠ rOpt i 0x10) :
    (s.ownInputs i p q out).reg o = s.reg o := by
  unfold State.ownInputs
  rw [State.reg_setRf_ne _ hi, State.reg_setRbit_ne _ hq, State.reg_setRbit_ne _ hp]

theorem rPort_ne_mesh (p i : Nat) : rPort p 0 ≠ rOpt i 0x10 := by
  unfold rPort rOpt
  omega

theorem ownInputs_fanned (s : State) {i p q : Nat} (out : Nat) (hpq : p ≠ q) :
    (s.ownInputs i p q out).rbit (rPort p 0) 56 = false ∧ (s.ownInputs i p q out).rbit (rPort q 0) 56 = false := by
  have hne : rPort p 0 ≠ rPort q 0 := rPort_ne hpq
  unfold State.ownInputs State.rbit
  refine ⟨?_, ?_⟩
  · rw [State.reg_setRf_ne _ (rPort_ne_mesh p i), State.reg_setRbit_ne _ hne, State.reg_setRbit_self, bit_setBit _ _ _ (by omega)]
  · rw [State.reg_setRf_ne _ (rPort_ne_mesh q i), State.reg_setRbit_self, bit_setBit _ _ _ (by omega)]

theorem ownInputs_mesh (s : State) (i p q : Nat) {out : Nat} (hout : out < 10) :
    (s.ownInputs i p q out).rf (rOpt i 0x10) (5 * out) 4 = q % 8 := by
  unfold State.ownInputs
  rw [State.rf_setRf _ _ _ _ _ (by omega)]
  omega

theorem fanOver_reg (s : State) (p q : Nat) (e : BitVec 64) (o : Nat) : (s.fanOver p q e).reg o = s.reg o := by
  unfold State.fanOver
  rw [modPort_reg, modPort_reg]

theorem fanOver_oport_ne (s : State) {p q j : Nat} (e : BitVec 64) (hp : j ≠ p) (hq : j ≠ q) : (s.fanOver p q e).oport j = s.oport j := by
  unfold State.fanOver
  exact (Tab.get_put_ne _ _ _ hq).trans (Tab.get_put_ne _ _ _ hp)

theorem fanOver_fanEnd (s : State) {p q : Nat} (e : BitVec 64) (hpq : p ≠ q) :
    ((s.fanOver p q e).oport p).fanEnd = some e ∧ ((s.fanOver p q e).oport q).fanEnd = some e := by
  unfold State.fanOver
  have hother (t : State) (g : OPort → OPort) : (t.modPort q g).oport p = t.oport p := Tab.get_put_ne _ _ _ hpq
  rw [hother, oport_modPort, oport_modPort]
  exact ⟨rfl, rfl⟩

/-- The end of a fan-out gives both ports their own inputs again, while the mesh settles. -/
theorem endFan_spec {s : State} {i p q : Nat} (hpq : p ≠ q) (hfan : Tab.get none i s.fan = some (p, q)) :
    let t := s.endFan i
    { t with regs := s.regs, oports := s.oports, fan := s.fan, meshWait := s.meshWait } = s
      ∧ Tab.get none i t.fan = none ∧ t.meshWait = p :: q :: s.meshWait
      ∧ (t.oport p).fanEnd = some s.time ∧ (t.oport q).fanEnd = some s.time
      ∧ t.rbit (rPort p 0) 56 = false ∧ t.rbit (rPort q 0) 56 = false
      ∧ (s.rf (rPort q 0) 52 4 < 10 → t.rf (rOpt i 0x10) (5 * s.rf (rPort q 0) 52 4) 4 = q % 8)
      ∧ (∀ o, o ≠ rPort p 0 → o ≠ rPort q 0 → o ≠ rOpt i 0x10 → t.reg o = s.reg o)
      ∧ ∀ j, j ≠ p → j ≠ q → t.oport j = s.oport j := by
  rw [endFan_eq hfan]
  generalize s.rf (rPort q 0) 52 4 = out
  generalize hu : ({ s with fan := Tab.put none i none s.fan, meshWait := p :: q :: s.meshWait } : State) = u
  have hregs (o : Nat) : u.reg o = s.reg o := hu ▸ rfl
  have hports (j : Nat) : u.oport j = s.oport j := hu ▸ rfl
  obtain ⟨hendp, hendq⟩ := fanOver_fanEnd (u.ownInputs i p q out) s.time hpq
  obtain ⟨hfp, hfq⟩ := ownInputs_fanned u (i := i) out hpq
  refine ⟨?_, ?_, ?_, hendp, hendq, ?_, ?_, fun hout => ?_, fun o h0 h1 h2 => ?_, fun j hjp hjq => ?_⟩
  · subst hu
    cases s
    rfl
  · subst hu
    exact Tab.get_put_self none i none s.fan
  · subst hu
    rfl
  · exact (congrArg (bit · 56) (fanOver_reg ..)).trans hfp
  · exact (congrArg (bit · 56) (fanOver_reg ..)).trans hfq
  · exact (State.rf_of_reg (fanOver_reg ..) _ _).trans (ownInputs_mesh u i p q hout)
  · rw [fanOver_reg, ownInputs_reg_ne _ _ h0 h1 h2, hregs]
  · rw [fanOver_oport_ne _ _ hjp hjq]
    exact hports j

/-! ### The mesh settles (R287) -/

/-- No port of the die waits for its mesh. -/
def State.settled (s : State) (i : Nat) : State := { s with meshWait := s.meshWait.filter fun p => p / 8 != i }

/-- A port that waited grants again what it held. -/
def State.regrant (t s : State) (p : Nat) : State :=
  if hasNat s.meshWait p && t.portUp p then (List.range 8).foldl (fun t v => t.grantVc p v true) t else t

theorem exec_meshSettle_eq (i : Nat) (s : State) :
    exec (.meshSettle i) s = .next (iter 8 (fun q t => t.regrant s (8 * i + q)) (s.settled i)) := rfl

theorem grantVc_meshWait (t : State) (p v : Nat) (pool : Bool) : (t.grantVc p v pool).meshWait = t.meshWait := by
  unfold State.grantVc
  dsimp only
  generalize reservedFlits v - t.lent p v = own
  generalize (if pool = true then Nat.min 17 (t.poolRoom p) else 0) = extra
  split <;> rfl

theorem regrant_fab (t s : State) (p : Nat) : Fab t (t.regrant s p) ∧ (t.regrant s p).meshWait = t.meshWait := by
  unfold State.regrant
  split
  · exact List.foldlRecOn (motive := fun z : State => Fab t z ∧ z.meshWait = t.meshWait) _ _ ⟨NetR.refl t, rfl⟩ fun z hz v _ =>
      ⟨hz.1.trans (grantVc_net z p v true), (grantVc_meshWait z p v true).trans hz.2⟩
  · exact ⟨NetR.refl t, rfl⟩

theorem meshSettle_spec (i : Nat) (s : State) : ∃ t, exec (.meshSettle i) s = .next t ∧ Fab (s.settled i) t
    ∧ t.meshWait = (s.settled i).meshWait :=
  ⟨_, exec_meshSettle_eq i s, iter_inv (P := fun t : State => Fab (s.settled i) t ∧ t.meshWait = (s.settled i).meshWait)
    (fun _ _ t ht => ⟨ht.1.trans (regrant_fab t s _).1, (regrant_fab t s _).2.trans ht.2⟩) ⟨NetR.refl _, rfl⟩⟩

theorem exec_meshSettle_down {s : State} {i : Nat} (h : ∀ p ∈ s.meshWait, p / 8 = i → s.portUp p = false) :
    exec (.meshSettle i) s = .next (s.settled i) := by
  rw [exec_meshSettle_eq]
  refine congrArg Host.Outcome.next (iter_inv (P := fun t => t = s.settled i) (fun q hq t ht => ?_) rfl)
  subst ht
  refine if_neg fun hc => ?_
  obtain ⟨hwait, hup⟩ := Bool.and_eq_true_iff.1 hc
  have hdown := h _ (hasNat_iff.1 hwait) (by omega)
  exact absurd (hdown.symm.trans hup) (by decide)

/-! ### O45 -/

/-- Settles O45: the loops over the rings of a die are read off one ring at a time (`iter_observe`); the commands of lasers, fan-outs and
meshes are the updates that their equations say. -/
theorem opticalRings : Obligations.OpticalRings := by
  unfold Obligations.OpticalRings
  intro i s hio r heater temp dt
  refine ⟨fun h0 h4 elapsed => heaterUpdate_spec hio h0 h4 elapsed, fun k hk hfree hnew hroom => exec_ringRecalStart_due hio hk hfree hnew hroom,
    fun k best _ hrun hbest => ringRecalDone_spec hrun hbest, fun laser hl hserve hfan hused hfailed =>
      ⟨_, exec_laserFail_spared hio hl hserve hfan hused hfailed, laserFail_spec hio hl⟩,
    fun p q hp hq hpq => ⟨fun hfan hrp hrq g hg hwant => exec_fanoutRequest_applied hio hp hq hpq hfan hrp hrq hg hwant,
      fun g h => exec_fanoutRequest_ignored h, fun hfan => ⟨_, rfl, endFan_spec hpq hfan⟩⟩,
    meshSettle_spec i s, exec_meshSettle_down⟩

end Sys2Proof.Machine
end
